-- ==== Sys2Proof/Word.lean ====
section
/-! DEFINITION. The word types of the VX9 model and the fixed counts of its units (R4, R9, R25, R26, R190). -/

namespace Sys2Proof

abbrev Byte := BitVec 8
abbrev Word := BitVec 32
abbrev DWord := BitVec 64

/-- A CSR byte address (R9: a 32-bit CSR space). -/
abbrev Addr := Nat
/-- A requester ID: kind in bits 11..8, index in bits 7..0 (R456). -/
abbrev ReqId := BitVec 12

/-- Port number, which is the logical lane of its lowest slot (R38). -/
abbrev PortNo := Fin 1024
/-- Logical lane (R26). -/
abbrev LaneNo := Fin 1024
/-- Physical lane (R25). -/
abbrev PhysLane := Fin 1152
/-- Lane group x = 8 d + g (R36). -/
abbrev GroupNo := Fin 64
abbrev TC := Fin 8
/-- Queue number 0 to 9,215 (R190). -/
abbrev QueueNo := Fin 9216
abbrev UniQueue := Fin 8192
abbrev PipeNo := Fin 128
abbrev JobIdx := Fin 4096
/-- Haul link (R318). -/
abbrev LinkNo := Fin 64
/-- Module position (R432). -/
abbrev ModNo := Fin 64
/-- Die as encoded in GLB_THERM_STATUS.DIE: 0 control, 1 base, 2-9 port dies, 10-11 compute dies, 12-19 stacks (R92). -/
abbrev DieNo := Fin 12
/-- Group index of the basin (R240). -/
abbrev GroupIdx := Fin 65536

end Sys2Proof
end

