-- ==== Sys2Proof/Syntax.lean ====
section
/-! DEFINITION. The commands of the block: one constructor of `Instr` for each row of spec/opcode_table.json, in its
order, with the operands the row's rule needs. What an analogue process or a party outside the
package decides (what a sensor reads, what bytes arrive) is an operand. -/

namespace Sys2Proof

/-- A CSR write: requester, written word (R9, R456). -/
structure CsrW where
  req : ReqId
  val : Word
  deriving DecidableEq, Repr

/-- What the class hardware and the sensors report at a turn boundary (R77 to R90, R151, R152, R483, R485). -/
structure TurnInput where
  /-- Length of the turn that ends, in fabric cycles, where the grid decides it (R78, R79, R82 LASTLEN). -/
  len : Nat
  /-- Classes of R83 whose budgeted work is unfinished (R84). -/
  overrun : List (Fin 8)
  /-- Power measured for each class in the ending turn, in watts (R86). -/
  watts : List Nat
  /-- Tj of each die in units of 0.125 °C, numbered as GLB_THERM_STATUS.DIE (R89, R92). -/
  temps : List Nat
  /-- Duty each class requests (R87); that of a compute die follows from its queues (R314). -/
  requested : List Nat
  /-- Copies of table entries that went bad in the turn: table, index, die (R151, R152). -/
  parity : List (Nat × Nat × Nat)
  /-- Lines the memory scrub read with an error: kind (as in R527 TEST UNIT), unit, address, uncorrectable (R483). Kind 9 is a failed row of
  the stack `unit`, which the HBM4 controller repairs (R183, R487). A correction that a stack's own ECC reports has kind 2 (R183). -/
  scrub : List (Nat × Nat × Nat × Bool)
  deriving DecidableEq, Repr

/-- Fields of a lane marker (R103). -/
structure Marker where
  rate : BitVec 2
  width : BitVec 4
  slot : BitVec 4
  llane : BitVec 10
  chan : BitVec 16
  frame : BitVec 16
  sender : Word
  devidx : BitVec 3
  joined : Bool
  tap : BitVec 4
  req : BitVec 2
  txack : BitVec 2
  hold : Bool
  relock : Bool
  retrain : Bool
  fault : BitVec 8
  deriving DecidableEq, Repr

/-- A received codeword pair (R98): whether both codewords decode, and the 1,285 bytes of its payload, descrambled. -/
structure Pair where
  decodes : Bool
  payload : List Byte
  deriving DecidableEq, Repr

/-- A frame or packet as it stands on a link, with its FCS or trailer. `early` is set when the tail has not arrived yet (cut-through, R174). -/
structure RxFrame where
  bytes : List Byte
  early : Bool
  deriving DecidableEq, Repr

/-- A time value of R121: seconds, nanoseconds and 2^-16 ns, held as one count of 2^-16 ns. -/
abbrev TimeVal := Int

/-- A time exchange as received (R121) with the receiver's own receive time t4 (R123). -/
structure TimeMsg where
  xver : Nat
  locked : Bool
  hold : Bool
  echov : Bool
  domain : Byte
  xseq : BitVec 16
  echoseq : BitVec 16
  ttx : TimeVal
  techo : TimeVal
  trx : TimeVal
  root : Word
  prio : Byte
  dist : Byte
  adj : Word
  t4 : TimeVal
  replayed : Bool
  deriving DecidableEq, Repr

/-- Which queue bank an engine command names: a sluice queue of a compute die (R295). -/
structure SluQ where
  die : Fin 2
  q : Fin 64
  deriving DecidableEq, Repr

/-- A tally request packet as the service takes it: its header fields and payload (R375, R378). -/
structure TallyPkt where
  src : BitVec 24
  job : BitVec 16
  gen : Byte
  seq : Word
  tc : TC
  entropy : BitVec 16
  hops : Nat
  jidx : JobIdx
  payload : List Byte
  deriving DecidableEq, Repr

/-- Lane flags an agent poll reads from a module (R433, R438, R439). -/
structure ModFlags where
  /-- Module state, encoded as OPT_MOD_STAT.MSTATE (R451). -/
  mstate : BitVec 3
  spares : BitVec 4
  /-- Channel read back for each of the 16 lanes (R437). -/
  tuned : List (BitVec 16)
  /-- Lanes with a transmit fault, loss of signal or bias alarm (R439). -/
  faults : List (Fin 16)
  deriving DecidableEq, Repr

/-- How a module bus transaction ended (R432). -/
inductive BusEnd where
  | ok (data : List Byte)
  | nack
  | timeout
  deriving DecidableEq, Repr

/-- How an SPDM request comes (R74): on a management port from a MAC address, or over PCIe VDM; the MCTP endpoints of the requester and the
device, the tag, the transmission unit, and the secured message that carried it (empty where none did). -/
structure SpdmVia where
  port : Option (Fin 2)
  mac : BitVec 48
  eid : Byte
  own : Byte
  tag : Fin 8
  unit : Nat
  secured : List Byte
  deriving DecidableEq, Repr

/-- A TFTP write to the ROM loader (R63): destination address, file name, block-size option, data blocks. -/
structure TftpPut where
  dst : BitVec 128
  name : String
  blksize : Option Nat
  blocks : List (List Byte)
  deriving DecidableEq, Repr

/-- The commands of the VX9 (spec/opcode_table.json). -/
inductive Instr where
  -- reset and start-up
  | resetRelease (pcieEn : Bool)
  | resetAssert (lowNs : Nat)
  | powerLoss
  | refclkQualified (ok0 ok1 : Bool)
  | refclkLoss (ref : Fin 2)
  | dieReady (die : DieNo)
  | dieRelease
  | dieReadyTimeout (die : DieNo)
  | d2dInterfaceFail (n : Fin 11)
  | enclaveStartUp
  | headerCheck
  | ecdsaVerifyDone
  | lmsVerifyDone
  | sramWipeDone
  | hbmTrained (trained twoBad : BitVec 8)
  | controlPartitionWiped
  | reservoirWipeDone
  | wipeFail (unit : Byte)
  | imageReadDone (readOk : Bool)
  | imageApply
  | kernelLoad (n : Nat)
  | bootRun (w : CsrW)
  | loaderTftpWrite (t : TftpPut)
  | loaderFlashWritten (readBack : List Byte)
  | softReset (w : CsrW)
  | lcRequest (w : CsrW)
  | lcBurnDone
  | keyRevoke (w : CsrW)
  | svnAdvance (w : CsrW)
  | programOwnerSlot (w : CsrW)
  | supplyLcRecord (w : CsrW)
  | checkImageRegion (w : CsrW)
  -- attestation
  | getVersion (v : SpdmVia)
  | getCapabilities (v : SpdmVia)
  | negotiateAlgorithms (v : SpdmVia)
  | getDigests (v : SpdmVia)
  | getCertificate (v : SpdmVia) (slot : Fin 8) (off len : BitVec 16)
  | challenge (v : SpdmVia) (slot : Fin 8) (nonce : List Byte)
  | getMeasurements (v : SpdmVia) (index : Byte) (signed : Bool) (nonce : List Byte)
  | keyExchange (v : SpdmVia) (slot : Fin 8) (nonce : List Byte)
  | finish (v : SpdmVia) (proof : List Byte)
  -- the turn, power and heat
  | turnBoundary (n : TurnInput)
  | thermalTrip (die : Fin 20)
  | pwrlimAssert (lowNs : Nat)
  | pwrlimDeassert
  -- links
  | ethLinkStartTimeout (p : PortNo)
  | signalDetect (p : PortNo)
  | equalisationDone (p : PortNo)
  | markerLock (p : PortNo)
  | deskewDone (p : PortNo) (skewNs : Nat)
  | peerExchange (p : PortNo)
  | markerReceive (l : LaneNo) (payload : Option (List Byte))
  | linkSignalLoss (l : LaneNo)
  | pairReceive (p : PortNo) (x : Pair)
  | nakRepeatTimeout (p : PortNo)
  | retryTimeout (p : PortNo)
  | packetArrival (p : PortNo) (f : RxFrame)
  | pipelineTake (p : PortNo)
  | packetTailArrival (id : Nat) (extra : List Byte)
  | builtPacketAdmit (software : Option (List Byte))
  | timeExchangeSend (p : PortNo)
  | timeExchangeReceive (p : PortNo) (bytes : List Byte) (t4 : TimeVal) (replayed : Bool)
  | pfcFrameReceive (p : PortNo) (bytes : List Byte)
  | pfcRefresh (p : PortNo) (tc : TC)
  | fastRelockStart (p : PortNo)
  | relockStreamDone (p : PortNo)
  | relockTimeout (p : PortNo)
  | relockCapture (p : PortNo) (w : CsrW)
  | loopbackSet (p : PortNo) (w : CsrW)
  | portAdminWrite (p : PortNo) (w : CsrW)
  | laneShiftWrite (x : GroupNo) (w : CsrW)
  -- forwarding tables
  | tableNop
  | tableWrite
  | tableDelete
  | tableRead
  | tableBatchOvercost
  | macAgingQuantum
  -- buffering
  | spillPageWrite (q : UniQueue) (bad : List (Fin 64))
  | spillPrefetch (q : UniQueue)
  | prefetchComplete (q : UniQueue) (uncorrectable : Bool)
  | quotaWrite (addr : Word) (w : CsrW)
  -- queues
  | egressDequeue (p : PortNo) (bad : Nat)
  | multicastReplicate (q : Fin 1024)
  | multicastResidueServe (q : Fin 1024) (p : PortNo)
  | multicastResidueAge
  | downflushExpiry (p : PortNo)
  | queueFlush (w : CsrW)
  | queueFlushDone
  | remoteLevelExpiry (p : PortNo)
  | congestionMap
  | scheduleSwapRequest (w : CsrW)
  | scheduleSwap
  -- the basin
  | basinContribution (uncorrectable : Bool)
  | chunkEmit (ctx : Fin 32768) (bad : List Nat)
  | downResultRebroadcast
  | basinAbortPacket
  | basinAbortWrite (w : CsrW)
  | chunkTimeout (ctx : Fin 32768)
  | tombstoneRetire (ctx : Fin 32768)
  -- sluice engines
  | sluDescriptorTake (q : SluQ)
  | sluNop (q : SluQ)
  | lrp (q : SluQ)
  | lrx (q : SluQ)
  | outer (q : SluQ)
  | req (q : SluQ)
  | pool (q : SluQ)
  | loadableKernel (q : SluQ) (cycles : Nat) (outside : Bool) (writes : List (Nat × List Byte))
  | tileDispatch (die : Fin 2) (engine : Fin 128)
  | tileComplete (die : Fin 2) (engine : Fin 128) (poison : Bool)
  | sluCompletion (q : SluQ)
  | sluWatchdogTimeout (q : SluQ)
  | sluQueueFlush (q : SluQ) (w : CsrW)
  | sluFlushApply (q : SluQ)
  | sluEngineFault (die : Fin 2) (engine : Fin 128)
  | ringConfigWrite (addr : Word) (w : CsrW)
  -- long haul
  | haulFrameReceive (p : PortNo) (bytes : List Byte) (t4 : TimeVal)
  | haulDelivery (k : LinkNo) (share : Fin 2)
  | haulFrameSend (p : PortNo)
  | stripeTimeout (k : LinkNo)
  | keepaliveSend (k : LinkNo) (route : Fin 2)
  | haulAckSend (k : LinkNo)
  | haulNakRepeat (k : LinkNo) (share : Fin 2)
  | haulRtoExpiry (k : LinkNo) (share : Fin 2) (hseq : Nat)
  | reseqGapTimeout (k : LinkNo) (share : Fin 2)
  | keepaliveMiss (k : LinkNo) (route : Fin 2)
  | haulHoldExpiry (k : LinkNo)
  | haulSwitch (k : LinkNo) (w : CsrW)
  | haulRevert (k : LinkNo)
  | controlRingSend
  | saValidWrite (p : PortNo) (dir : Fin 2) (an : Fin 4) (w : CsrW)
  | haulLinkDisable (k : LinkNo) (w : CsrW)
  -- the flume
  | flumeDescriptorTake (q : Fin 16)
  | flumeNop (q : Fin 16)
  | encode (q : Fin 16)
  | decode (q : Fin 16)
  | snap (q : Fin 16)
  | fold (q : Fin 16)
  | flumeCompletion (q : Fin 16)
  -- tally
  | tallyRead
  | tallyWrite
  | tallyAdd
  | tallyCas
  | tallyMax
  | tallyLineFill (line : Fin 8589934592)
  | tallyEntryApply (line : Fin 8589934592)
  | tallyResponseBuild (line : Fin 8589934592)
  | tallyRegionRelease (w : CsrW)
  -- jobs, groups and the canal tree
  | jobBatchStage
  | jobUpdateNop
  | activate
  | teardown
  | groupEntryWrite
  | groupMapWrite
  | scatterEntryWrite
  | canalEntryWrite
  | jobDrainOverdue (j : JobIdx)
  | jobQuarantineEnd (j : JobIdx)
  | canalStall (slot : Fin 4096)
  -- time
  | timeInputLoss (input : Fin 1152)
  | holdoverExpiry
  | timeSnapshot (w : CsrW)
  | setgo (w : CsrW)
  | slewgo (w : CsrW)
  | adjgo (w : CsrW)
  | tsInEdge (n : Fin 8) (falling : Bool) (sub : Fin 16)
  | capturePop (n : Fin 8) (w : CsrW)
  | ppsRise (k : Fin 2)
  | ppsFall (k : Fin 2)
  -- optics and bypass
  | moduleInsert (m : ModNo) (matches_ : Bool) (f : ModFlags)
  | moduleRemove (m : ModNo)
  | moduleInterrupt (m : ModNo) (f : ModFlags)
  | moduleFlagPoll (m : ModNo) (f : ModFlags)
  | retuneComplete (m : ModNo) (timedOut : Bool) (tuned : List (BitVec 16))
  | spareTakeoverDone (l : LaneNo) (ok : Bool) (tuned : BitVec 16)
  | busTransactionEnd (m : ModNo) (e : BusEnd)
  | moduleMailbox (m : ModNo) (w : CsrW)
  | bypassArm (w : CsrW)
  | bypassCancel (w : CsrW)
  | bypassTrigger (n : Fin 32)
  | arm
  | cancel
  | ack
  | nak
  | bypassAckCheck (plan : Fin 64)
  | bypassLeaveSets (plan : Fin 64)
  | bypassStep0 (plan : Fin 64)
  | bypassStep1 (plan : Fin 64)
  | bypassStep2 (plan : Fin 64)
  | bypassStep3 (plan : Fin 64)
  | bypassAbandonEnd (plan : Fin 64)
  -- gauges
  | counterPairRead (r : ReqId) (n : Fin 10240)
  | counterClearRequest (w : CsrW)
  | snapshotSetDue (set : Fin 64)
  | userWindowRead (r : ReqId) (off : BitVec 24)
  -- reliability, spares and test
  | eventRingEnable (w : CsrW)
  | lanePositionFail (l : PhysLane)
  | laneFailWrite (x : GroupNo) (w : CsrW)
  | bankSpareDone (commons : Bool) (bank : Fin 2048) (spare : Nat)
  | channelSpareDone (stack : Fin 8) (channel : Fin 32)
  | basinLaneFault (lane : Fin 256)
  | flumeEngineFault (e : Fin 8)
  | coreMachineCheck (core : Fin 18)
  | bistSerdesLane (l : PhysLane) (w : CsrW)
  | bistSluiceEngine (e : Fin 272) (w : CsrW)
  | bistFlumeEngine (e : Fin 8) (w : CsrW)
  | bistBasinLane (l : Fin 272) (w : CsrW)
  | bistD2dLoopback (n : Fin 11) (w : CsrW)
  | bistHbmPhy (stack : Fin 8) (w : CsrW)
  | bistHbmMemory (stack : Fin 8) (w : CsrW)
  | bistSramMarch (n : Fin 4) (w : CsrW)
  | bistComplete (pass : Bool)
  -- JTAG
  | bypass
  | idcode
  | samplePreload
  | extest
  | extestPulse
  | extestTrain
  | clamp
  | highz
  -- management ports and PCIe
  | mgmtFrameReceive (n : Fin 2) (bytes : List Byte)
  | mgmtMediaRetry
  | pciePerstRelease
  | pcieFlr
  | pcieHotReset
  | msixDoorbell (w : CsrW)
  -- register access
  | lowWordRead (r : ReqId) (addr : Word)
  | lowWordWrite (addr : Word) (w : CsrW)
  | highWordWrite (addr : Word) (w : CsrW)
  | readClear (r : ReqId) (addr : Word)
  | csrAccessFault (hart : Fin 18) (addr : Word) (bytes : Nat) (write : Bool)
  | registerWrite (addr : Word) (w : CsrW)
  | referenceRestored (ref : Fin 2)
  | ethLinkUp (p : PortNo)
  | pfcPauseExpiry (p : PortNo) (pri : TC)
  | mgmtPortUp (n : Fin 2)
  | mgmtPortDown (n : Fin 2)
  | pciePerstAssert
  | pcieD3hotEntry
  | bar0UnsupportedRequest (addr : Nat) (bytes : Nat) (write : Bool)
  | controlCoreLoad (hart : Fin 18) (addr : Nat) (uncorrectable : Bool)
  deriving DecidableEq, Repr

end Sys2Proof
end

