-- ==== Sys2Proof/Config.lean ====
section
/-! DEFINITION. What the spec fixes once for all, and the free values: constants without a body that stand for every value
the spec leaves open, so that nothing can be proved of one value. -/

namespace Sys2Proof.Config

/-- Fabric cycles in a free-running turn (R77). -/
def turnCycles : Nat := 4096
/-- Cells of the cistern (R160). -/
def cisternCells : Nat := 2097152

/-- The n-th draw of a value the spec leaves open. -/
opaque freeValue : Nat → DWord

/-- The undisclosed choice number `which` of a salt and a key: 9 the basin lane of a chunk (R257), 10 the tally engine of a line (R372), 20 the
lines that lie in a stack (R183), 21 the place of a tally line's copy in the commons (R382). -/
opaque hash : (which salt key : Nat) → Nat

/-- CSR records (address, value) that a LANES, MEMORY or ENGINES section sets (R50): the layout inside these three
sections is not given. -/
opaque sectionRecords : (stype : Nat) → List Byte → List (Nat × Nat)

/-- Whether a DEFAULTS record is a lock record, and the block (bits 31..24 of the window base) it locks (R50, R54). -/
opaque lockRecord : List Byte → Option Nat

/-- The two digests fused into key slot 0 at the TEST to PROVISIONED transition (R56, R70): ECDSA, LMS. -/
opaque slot0Digests : List Byte × List Byte

/-- The Unique Device Secret that the TEST to PROVISIONED transition fuses, as a number of 384 bits, and the return constant that takes its
place in RETURN (R70, R73). -/
opaque udsValue : Nat
opaque returnConstant : Nat

/-- The ECDSA P-384 private key that is derived from a CDI (R73). -/
opaque keyFromCdi : List Byte → Nat

/-- What a certificate of a subject key under an issuer key holds before its signature, and the certificate with it (R73, R75). -/
opaque certBody : (issuer subject : List Byte) → List Byte
opaque certWith : (body signature : List Byte) → List Byte

/-- The n-th nonce of an ECDSA signature of the enclave. -/
opaque signNonce : Nat → Nat

/-- Secrets of an SPDM session from its KEY_EXCHANGE transcript, the key exchange itself having no algorithm in R74: key (32 bytes) and IV
(12 bytes) of requests, key and IV of responses, and the key of the FINISH proof (48 bytes). -/
opaque spdmSecrets : (transcript : List Byte) → List Byte

/-- What GET_CAPABILITIES reports of the responder's timing exponent and message sizes. -/
opaque spdmLimits : Byte × Nat

/-- Place in the control-core partition where sections of a type are put (R50, R58). -/
opaque sectionPlace : (stype : Nat) → Nat

/-- SHA-384 of the boot ROM (R76, index 1). -/
opaque bootRomDigest : List Byte

/-- Whether an insert of a key finds a place in keyed table `table` beside the keys it holds (R144, R148, R286, R303, R401). -/
opaque insertFits : (table : Nat) → (held : List Nat) → (key : Nat) → Bool

/-- Units that a trie-mode insert needs beside the prefixes held (R146); at most the worst case applies. -/
opaque trieUnits : (family : Nat) → (held : List Nat) → (key : Nat) → Nat

/-- Place of a key of the host table (2) or of an LPM table (3, 4) in its hash or trie (R144, R146). -/
opaque entryIndex : (table key : Nat) → Nat

/-- ARG0 and ARG1 of an imbalance event, which carry the set's MODE and the levels of its members in a layout that is not given (R222). -/
opaque imbalanceArgs : (mode : Nat) → (levels : List Nat) → Nat × Nat

/-- Index of an entry of the MAC table (R148, R150). -/
opaque macIndex : (key : Nat) → Nat

/-- Profile of R167 and R169 that multicast queues use: CIST_QSEL names none (R187). -/
opaque mcProfile : Fin 16

/-- Code lengths that a flume table build chooses for a histogram where more than one set is best (R360). -/
opaque codeLengths : List Nat → List Nat

end Sys2Proof.Config
end

