-- ==== Sys2Proof/Machine/RegMap.lean ====
section
/-! DEFINITION. Addresses and fields of the CSRs (R519, and the register rule of each chapter, named in RegTable). `R.X` is the
byte address of register X, an indexed register taking its index; `R.X_F` is its field F. -/

namespace Sys2Proof.Machine

/-- A field of one 32-bit CSR word: the address of the word, the lowest bit and the width. -/
structure Fld where
  addr : Nat
  lo : Nat
  w : Nat
  deriving DecidableEq, Repr

namespace R

def GLB_IDENT : Nat := 0x00000000
def GLB_IDENT_PART : Fld := ⟨GLB_IDENT, 0, 8⟩
def GLB_IDENT_STEP : Fld := ⟨GLB_IDENT, 8, 8⟩
def GLB_IDENT_FIT : Nat := 0x00000004
def GLB_IDENT_FIT_PORTDIES : Fld := ⟨GLB_IDENT_FIT, 0, 8⟩
def GLB_IDENT_FIT_STACKS : Fld := ⟨GLB_IDENT_FIT, 8, 8⟩
def GLB_IDENT_FIT_COMPUTE : Fld := ⟨GLB_IDENT_FIT, 16, 2⟩
def GLB_DIE_STATUS : Nat := 0x00000040
def GLB_DIE_STATUS_CTL : Fld := ⟨GLB_DIE_STATUS, 0, 2⟩
def GLB_DIE_STATUS_BASE : Fld := ⟨GLB_DIE_STATUS, 2, 2⟩
def GLB_DIE_STATUS_PORTDIE : Fld := ⟨GLB_DIE_STATUS, 4, 16⟩
def GLB_DIE_STATUS_COMPUTE : Fld := ⟨GLB_DIE_STATUS, 20, 4⟩
def GLB_REFCLK : Nat := 0x00000050
def GLB_REFCLK_SEL : Fld := ⟨GLB_REFCLK, 0, 1⟩
def GLB_REFCLK_AUTO : Fld := ⟨GLB_REFCLK, 1, 1⟩
def GLB_REFCLK_ACTIVE : Fld := ⟨GLB_REFCLK, 4, 1⟩
def GLB_REFCLK_LOS0 : Fld := ⟨GLB_REFCLK, 8, 1⟩
def GLB_REFCLK_LOS1 : Fld := ⟨GLB_REFCLK, 9, 1⟩
def GLB_REFCLK_SWITCHED : Fld := ⟨GLB_REFCLK, 12, 1⟩
def GLB_LC : Nat := 0x00000060
def GLB_LC_STATE : Fld := ⟨GLB_LC, 0, 3⟩
def GLB_LC_SPLIT : Fld := ⟨GLB_LC, 3, 1⟩
def GLB_RST_CTL : Nat := 0x00000070
def GLB_RST_CTL_DEVICE : Fld := ⟨GLB_RST_CTL, 0, 1⟩
def GLB_RST_CTL_KEY : Fld := ⟨GLB_RST_CTL, 16, 16⟩
def GLB_RST_CAUSE : Nat := 0x00000074
def GLB_RST_CAUSE_PIN : Fld := ⟨GLB_RST_CAUSE, 0, 1⟩
def GLB_RST_CAUSE_SOFT : Fld := ⟨GLB_RST_CAUSE, 1, 1⟩
def GLB_RST_CAUSE_LC : Fld := ⟨GLB_RST_CAUSE, 2, 1⟩
def GLB_RST_CAUSE_LOADER : Fld := ⟨GLB_RST_CAUSE, 3, 1⟩
def GLB_RST_CAUSE_STOP : Fld := ⟨GLB_RST_CAUSE, 8, 3⟩
def GLB_WIPE_STATUS : Nat := 0x00000078
def GLB_WIPE_STATUS_SRAM_DONE : Fld := ⟨GLB_WIPE_STATUS, 0, 1⟩
def GLB_WIPE_STATUS_RES_DONE : Fld := ⟨GLB_WIPE_STATUS, 1, 1⟩
def GLB_WIPE_STATUS_FAIL : Fld := ⟨GLB_WIPE_STATUS, 2, 1⟩
def GLB_WIPE_STATUS_PROGRESS : Fld := ⟨GLB_WIPE_STATUS, 8, 8⟩
def GLB_WIPE_STATUS_UNIT : Fld := ⟨GLB_WIPE_STATUS, 16, 8⟩
def GLB_TURN_STATUS : Nat := 0x00000100
def GLB_TURN_STATUS_MODE : Fld := ⟨GLB_TURN_STATUS, 0, 2⟩
def GLB_TURN_STATUS_REALIGN : Fld := ⟨GLB_TURN_STATUS, 2, 1⟩
def GLB_TURN_STATUS_LASTLEN : Fld := ⟨GLB_TURN_STATUS, 4, 13⟩
def GLB_TURN_NUM : Nat := 0x00000108
def GLB_TURN_OVR (c : Nat) : Nat := 0x00000120 + 4 * c
def GLB_TURN_OVR_COUNT (c : Nat) : Fld := ⟨GLB_TURN_OVR c, 0, 16⟩
def GLB_TURN_OVR_LASTTURN (c : Nat) : Fld := ⟨GLB_TURN_OVR c, 16, 16⟩
def GLB_PWR_BUDGET : Nat := 0x00000200
def GLB_PWR_BUDGET_WATTS : Fld := ⟨GLB_PWR_BUDGET, 0, 12⟩
def GLB_PWR_BUDGET_GUARD : Fld := ⟨GLB_PWR_BUDGET, 12, 8⟩
def GLB_PWR_LIM : Nat := 0x00000204
def GLB_PWR_LIM_WATTS : Fld := ⟨GLB_PWR_LIM, 0, 12⟩
def GLB_PWR_LIM_ACTIVE : Fld := ⟨GLB_PWR_LIM, 12, 1⟩
def GLB_PWR_LIM_SEEN : Fld := ⟨GLB_PWR_LIM, 13, 1⟩
def GLB_PWR_CLASS (c : Nat) : Nat := 0x00000210 + 4 * c
def GLB_PWR_CLASS_MINDUTY (c : Nat) : Fld := ⟨GLB_PWR_CLASS c, 0, 8⟩
def GLB_PWR_CLASS_MAXDUTY (c : Nat) : Fld := ⟨GLB_PWR_CLASS c, 8, 8⟩
def GLB_PWR_CLASS_PRIO (c : Nat) : Fld := ⟨GLB_PWR_CLASS c, 16, 3⟩
def GLB_PWR_GRANT (c : Nat) : Nat := 0x00000230 + 4 * c
def GLB_PWR_GRANT_DUTY (c : Nat) : Fld := ⟨GLB_PWR_GRANT c, 0, 8⟩
def GLB_PWR_GRANT_TCAP (c : Nat) : Fld := ⟨GLB_PWR_GRANT c, 8, 1⟩
def GLB_PWR_GRANT_WATTS (c : Nat) : Fld := ⟨GLB_PWR_GRANT c, 16, 12⟩
def GLB_PWR_MEAS : Nat := 0x00000250
def GLB_PWR_MEAS_TOTAL : Fld := ⟨GLB_PWR_MEAS, 0, 12⟩
def GLB_PWR_MEAS_OVER : Fld := ⟨GLB_PWR_MEAS, 12, 1⟩
def GLB_THERM_CFG : Nat := 0x00000300
def GLB_THERM_CFG_RATE_DT : Fld := ⟨GLB_THERM_CFG, 0, 8⟩
def GLB_THERM_CFG_RAMP_DUTY : Fld := ⟨GLB_THERM_CFG, 8, 8⟩
def GLB_THERM_CFG_WARN : Fld := ⟨GLB_THERM_CFG, 16, 8⟩
def GLB_THERM_STATUS : Nat := 0x00000304
def GLB_THERM_STATUS_TMAX : Fld := ⟨GLB_THERM_STATUS, 0, 11⟩
def GLB_THERM_STATUS_DIE : Fld := ⟨GLB_THERM_STATUS, 11, 5⟩
def GLB_THERM_STATUS_THROTTLE : Fld := ⟨GLB_THERM_STATUS, 16, 1⟩
def GLB_THERM_STATUS_RATECAP : Fld := ⟨GLB_THERM_STATUS, 17, 1⟩
def GLB_EVT_BASE : Nat := 0x00000400
def GLB_EVT_CFG : Nat := 0x00000408
def GLB_EVT_CFG_LOG2SIZE : Fld := ⟨GLB_EVT_CFG, 0, 5⟩
def GLB_EVT_CFG_EN : Fld := ⟨GLB_EVT_CFG, 8, 1⟩
def GLB_EVT_CFG_FWDMASK : Fld := ⟨GLB_EVT_CFG, 12, 4⟩
def GLB_EVT_CFG_CEHOLD : Fld := ⟨GLB_EVT_CFG, 16, 16⟩
def GLB_EVT_HEAD : Nat := 0x0000040C
def GLB_EVT_HEAD_HEAD : Fld := ⟨GLB_EVT_HEAD, 0, 16⟩
def GLB_EVT_TAIL : Nat := 0x00000410
def GLB_EVT_TAIL_TAIL : Fld := ⟨GLB_EVT_TAIL, 0, 16⟩
def GLB_EVT_FWD : Nat := 0x00000414
def GLB_EVT_FWD_RATE : Fld := ⟨GLB_EVT_FWD, 0, 8⟩
def GLB_EVT_CNT : Nat := 0x00000418
def GLB_EVT_CNT_LOST : Fld := ⟨GLB_EVT_CNT, 0, 16⟩
def GLB_EVT_CNT_FWDDROP : Fld := ⟨GLB_EVT_CNT, 16, 16⟩
def TIME_RAW : Nat := 0x01000000
def TIME_SNAP : Nat := 0x01000010
def TIME_SNAP_GO : Fld := ⟨TIME_SNAP, 0, 1⟩
def TIME_SNAP_RAW : Nat := 0x01000018
def TIME_SNAP_BRAW : Nat := 0x01000020
def TIME_SNAP_BSEC : Nat := 0x01000028
def TIME_SNAP_BNS : Nat := 0x01000030
def TIME_SNAP_BNS_NS : Fld := ⟨TIME_SNAP_BNS, 0, 32⟩
def TIME_SNAP_BFRAC : Nat := 0x01000034
def TIME_SNAP_BFRAC_FRAC : Fld := ⟨TIME_SNAP_BFRAC, 0, 16⟩
def TIME_SNAP_ADJ : Nat := 0x01000038
def TIME_SNAP_ADJ_ADJ : Fld := ⟨TIME_SNAP_ADJ, 0, 32⟩
def TIME_SNAP_TSEC : Nat := 0x01000040
def TIME_SNAP_TNS : Nat := 0x01000048
def TIME_SNAP_TNS_NS : Fld := ⟨TIME_SNAP_TNS, 0, 32⟩
def TIME_SNAP_TFRAC : Nat := 0x0100004C
def TIME_SNAP_TFRAC_FRAC : Fld := ⟨TIME_SNAP_TFRAC, 0, 16⟩
def TIME_CFG : Nat := 0x01000080
def TIME_CFG_ROOTEN : Fld := ⟨TIME_CFG, 0, 1⟩
def TIME_CFG_SRC : Fld := ⟨TIME_CFG, 1, 1⟩
def TIME_CFG_PRIO : Fld := ⟨TIME_CFG, 8, 8⟩
def TIME_CFG_DOMAIN : Fld := ⟨TIME_CFG, 16, 8⟩
def TIME_CFG_MAXDIST : Fld := ⟨TIME_CFG, 24, 8⟩
def TIME_SERVO : Nat := 0x01000084
def TIME_SERVO_KPSH : Fld := ⟨TIME_SERVO, 0, 4⟩
def TIME_SERVO_KISH : Fld := ⟨TIME_SERVO, 4, 4⟩
def TIME_SERVO_LOCKN : Fld := ⟨TIME_SERVO, 8, 8⟩
def TIME_SERVO_LOCKTOL : Fld := ⟨TIME_SERVO, 16, 16⟩
def TIME_STEP : Nat := 0x01000088
def TIME_STEP_STEPTHR : Fld := ⟨TIME_STEP, 0, 16⟩
def TIME_STEP_STEPN : Fld := ⟨TIME_STEP, 16, 4⟩
def TIME_HOLD : Nat := 0x0100008C
def TIME_HOLD_HOLDMAX : Fld := ⟨TIME_HOLD, 0, 16⟩
def TIME_HOLD_LOSSO : Fld := ⟨TIME_HOLD, 16, 8⟩
def TIME_HOLD_LOSSH : Fld := ⟨TIME_HOLD, 24, 8⟩
def TIME_STATUS : Nat := 0x010000A0
def TIME_STATUS_MODE : Fld := ⟨TIME_STATUS, 0, 2⟩
def TIME_STATUS_ISROOT : Fld := ⟨TIME_STATUS, 2, 1⟩
def TIME_STATUS_REMEAS : Fld := ⟨TIME_STATUS, 3, 1⟩
def TIME_STATUS_PARENT : Fld := ⟨TIME_STATUS, 4, 11⟩
def TIME_STATUS_DIST : Fld := ⟨TIME_STATUS, 16, 8⟩
def TIME_STATUS_HCAUSE : Fld := ⟨TIME_STATUS, 24, 3⟩
def TIME_STATUS_STEPEVT : Fld := ⟨TIME_STATUS, 27, 1⟩
def TIME_ROOTID : Nat := 0x010000A4
def TIME_ROOTID_SWID : Fld := ⟨TIME_ROOTID, 0, 32⟩
def TIME_OFFSET : Nat := 0x010000A8
def TIME_OFFSET_OFFSET : Fld := ⟨TIME_OFFSET, 0, 32⟩
def TIME_DELAY : Nat := 0x010000AC
def TIME_DELAY_DELAY : Fld := ⟨TIME_DELAY, 0, 32⟩
def TIME_ADJAVG : Nat := 0x010000B0
def TIME_ADJAVG_ADJAVG : Fld := ⟨TIME_ADJAVG, 0, 32⟩
def TIME_CTL : Nat := 0x010000C0
def TIME_CTL_SETGO : Fld := ⟨TIME_CTL, 0, 1⟩
def TIME_CTL_SLEWGO : Fld := ⟨TIME_CTL, 1, 1⟩
def TIME_CTL_ADJGO : Fld := ⟨TIME_CTL, 2, 1⟩
def TIME_CTL_SWLOCK : Fld := ⟨TIME_CTL, 3, 1⟩
def TIME_STEER_ADJ : Nat := 0x010000C4
def TIME_STEER_ADJ_ADJ : Fld := ⟨TIME_STEER_ADJ, 0, 32⟩
def TIME_STEER_PH : Nat := 0x010000C8
def TIME_STEER_PH_PH : Fld := ⟨TIME_STEER_PH, 0, 32⟩
def TIME_SET_SEC : Nat := 0x010000D0
def TIME_SET_NS : Nat := 0x010000D8
def TIME_SET_NS_NS : Fld := ⟨TIME_SET_NS, 0, 30⟩
def TIME_CORR (m : Nat) : Nat := 0x01000100 + 4 * m
def TIME_CORR_TX (m : Nat) : Fld := ⟨TIME_CORR m, 0, 16⟩
def TIME_CORR_RX (m : Nat) : Fld := ⟨TIME_CORR m, 16, 16⟩
def TIME_CNT (r : Nat) : Nat := 0x01000140 + 4 * r
def TIME_CNT_COUNT (r : Nat) : Fld := ⟨TIME_CNT r, 0, 32⟩
def TIME_TSR_BASE : Nat := 0x01000180
def TIME_TSR_CFG : Nat := 0x01000188
def TIME_TSR_CFG_LOG2SIZE : Fld := ⟨TIME_TSR_CFG, 0, 5⟩
def TIME_TSR_CFG_EN : Fld := ⟨TIME_TSR_CFG, 8, 1⟩
def TIME_TSR_HEAD : Nat := 0x0100018C
def TIME_TSR_HEAD_HEAD : Fld := ⟨TIME_TSR_HEAD, 0, 16⟩
def TIME_TSR_TAIL : Nat := 0x01000190
def TIME_TSR_TAIL_TAIL : Fld := ⟨TIME_TSR_TAIL, 0, 16⟩
def TIME_CAP_CFG (n : Nat) : Nat := 0x01000200 + 0x20 * n
def TIME_CAP_CFG_EDGE (n : Nat) : Fld := ⟨TIME_CAP_CFG n, 0, 2⟩
def TIME_CAP_SEC (n : Nat) : Nat := 0x01000208 + 0x20 * n
def TIME_CAP_NS (n : Nat) : Nat := 0x01000210 + 0x20 * n
def TIME_CAP_NS_NS (n : Nat) : Fld := ⟨TIME_CAP_NS n, 0, 32⟩
def TIME_CAP_STAT (n : Nat) : Nat := 0x01000214 + 0x20 * n
def TIME_CAP_STAT_FRAC (n : Nat) : Fld := ⟨TIME_CAP_STAT n, 0, 16⟩
def TIME_CAP_STAT_FALL (n : Nat) : Fld := ⟨TIME_CAP_STAT n, 16, 1⟩
def TIME_CAP_STAT_COUNT (n : Nat) : Fld := ⟨TIME_CAP_STAT n, 17, 5⟩
def TIME_CAP_STAT_OVF (n : Nat) : Fld := ⟨TIME_CAP_STAT n, 22, 1⟩
def TIME_CAP_STAT_POP (n : Nat) : Fld := ⟨TIME_CAP_STAT n, 23, 1⟩
def TIME_PPS_CFG (k : Nat) : Nat := 0x01000300 + 0x10 * k
def TIME_PPS_CFG_EN (k : Nat) : Fld := ⟨TIME_PPS_CFG k, 0, 1⟩
def TIME_PPS_CFG_ONFREE (k : Nat) : Fld := ⟨TIME_PPS_CFG k, 1, 1⟩
def TIME_PPS_CFG_PERIOD (k : Nat) : Fld := ⟨TIME_PPS_CFG k, 2, 10⟩
def TIME_PPS_CFG_WIDTH (k : Nat) : Fld := ⟨TIME_PPS_CFG k, 12, 20⟩
def TIME_PPS_PHASE (k : Nat) : Nat := 0x01000304 + 0x10 * k
def TIME_PPS_PHASE_PHASE (k : Nat) : Fld := ⟨TIME_PPS_PHASE k, 0, 32⟩
def TIME_PORT_ASYM (i : Nat) : Nat := 0x01001000 + 4 * i
def TIME_PORT_ASYM_ASYM (i : Nat) : Fld := ⟨TIME_PORT_ASYM i, 0, 16⟩
def SEC_BOOT_STATUS : Nat := 0x02000000
def SEC_BOOT_STATUS_STAGE : Fld := ⟨SEC_BOOT_STATUS, 0, 4⟩
def SEC_BOOT_STATUS_RUNTIME : Fld := ⟨SEC_BOOT_STATUS, 4, 1⟩
def SEC_BOOT_STATUS_ERR : Fld := ⟨SEC_BOOT_STATUS, 8, 8⟩
def SEC_BOOT_STATUS_SECT : Fld := ⟨SEC_BOOT_STATUS, 16, 8⟩
def SEC_BOOT_STATUS_SVN : Fld := ⟨SEC_BOOT_STATUS, 24, 7⟩
def SEC_BOOT_RUN : Nat := 0x02000004
def SEC_BOOT_RUN_RUN : Fld := ⟨SEC_BOOT_RUN, 0, 1⟩
def SEC_KEY_REVOKE : Nat := 0x02000010
def SEC_KEY_REVOKE_SLOT : Fld := ⟨SEC_KEY_REVOKE, 0, 2⟩
def SEC_KEY_REVOKE_GO : Fld := ⟨SEC_KEY_REVOKE, 8, 1⟩
def SEC_KEY_REVOKE_BUSY : Fld := ⟨SEC_KEY_REVOKE, 9, 1⟩
def SEC_KEY_REVOKE_RESULT : Fld := ⟨SEC_KEY_REVOKE, 10, 2⟩
def SEC_SVN_ADV : Nat := 0x02000014
def SEC_SVN_ADV_SVN : Fld := ⟨SEC_SVN_ADV, 0, 7⟩
def SEC_SVN_ADV_GO : Fld := ⟨SEC_SVN_ADV, 8, 1⟩
def SEC_SVN_ADV_BUSY : Fld := ⟨SEC_SVN_ADV, 9, 1⟩
def SEC_SVN_ADV_RESULT : Fld := ⟨SEC_SVN_ADV, 10, 2⟩
def SEC_SVN_ADV_FUSED : Fld := ⟨SEC_SVN_ADV, 16, 7⟩
def SEC_LC_NONCE (w : Nat) : Nat := 0x02000020 + 4 * w
def SEC_LC_NONCE_NONCE (w : Nat) : Fld := ⟨SEC_LC_NONCE w, 0, 32⟩
def SEC_LC_REQ : Nat := 0x02000030
def SEC_LC_REQ_TARGET : Fld := ⟨SEC_LC_REQ, 0, 3⟩
def SEC_LC_REQ_BUSY : Fld := ⟨SEC_LC_REQ, 8, 1⟩
def SEC_LC_REQ_RESULT : Fld := ⟨SEC_LC_REQ, 9, 3⟩
def SEC_MBX_CTL : Nat := 0x02000040
def SEC_MBX_CTL_CMD : Fld := ⟨SEC_MBX_CTL, 0, 8⟩
def SEC_MBX_CTL_SLOT : Fld := ⟨SEC_MBX_CTL, 8, 2⟩
def SEC_MBX_CTL_GO : Fld := ⟨SEC_MBX_CTL, 16, 1⟩
def SEC_MBX_CTL_BUSY : Fld := ⟨SEC_MBX_CTL, 17, 1⟩
def SEC_MBX_CTL_ERR : Fld := ⟨SEC_MBX_CTL, 24, 8⟩
def SEC_MBX (w : Nat) : Nat := 0x02001000 + 4 * w
def SEC_MBX_DATA (w : Nat) : Fld := ⟨SEC_MBX w, 0, 32⟩
def MGT_MP_CFG (n : Nat) : Nat := 0x03000000 + 0x20 * n
def MGT_MP_CFG_EN (n : Nat) : Fld := ⟨MGT_MP_CFG n, 0, 1⟩
def MGT_MP_CFG_FEC (n : Nat) : Fld := ⟨MGT_MP_CFG n, 1, 2⟩
def MGT_MP_CFG_MEDIA (n : Nat) : Fld := ⟨MGT_MP_CFG n, 3, 2⟩
def MGT_MP_STAT (n : Nat) : Nat := 0x03000004 + 0x20 * n
def MGT_MP_STAT_UP (n : Nat) : Fld := ⟨MGT_MP_STAT n, 0, 1⟩
def MGT_MP_STAT_DOWNEVT (n : Nat) : Fld := ⟨MGT_MP_STAT n, 1, 1⟩
def MGT_MP_STAT_RXERR (n : Nat) : Fld := ⟨MGT_MP_STAT n, 16, 16⟩
def MGT_MP_MAC (n : Nat) : Nat := 0x03000008 + 0x20 * n
def MGT_PCIE_CFG : Nat := 0x03000100
def MGT_PCIE_CFG_FITTED : Fld := ⟨MGT_PCIE_CFG, 0, 1⟩
def MGT_PCIE_CFG_MAXW : Fld := ⟨MGT_PCIE_CFG, 1, 2⟩
def MGT_PCIE_CFG_MAXRATE : Fld := ⟨MGT_PCIE_CFG, 3, 3⟩
def MGT_PCIE_CFG_EVTIRQ : Fld := ⟨MGT_PCIE_CFG, 7, 1⟩
def MGT_PCIE_STAT : Nat := 0x03000104
def MGT_PCIE_STAT_WIDTH : Fld := ⟨MGT_PCIE_STAT, 0, 3⟩
def MGT_PCIE_STAT_RATE : Fld := ⟨MGT_PCIE_STAT, 3, 3⟩
def MGT_PCIE_STAT_UP : Fld := ⟨MGT_PCIE_STAT, 6, 1⟩
def MGT_PCIE_STAT_FLR : Fld := ⟨MGT_PCIE_STAT, 7, 1⟩
def MGT_PCIE_DOORBELL : Nat := 0x03000108
def MGT_PCIE_DOORBELL_VEC : Fld := ⟨MGT_PCIE_DOORBELL, 0, 6⟩
def OPT_CFG : Nat := 0x04000000
def OPT_CFG_TUNETMO : Fld := ⟨OPT_CFG, 0, 16⟩
def OPT_CFG_RETUNEMAX : Fld := ⟨OPT_CFG, 16, 4⟩
def OPT_CFG_SPARETMO : Fld := ⟨OPT_CFG, 20, 12⟩
def OPT_SBC_CFG : Nat := 0x04000004
def OPT_SBC_CFG_RATE : Fld := ⟨OPT_SBC_CFG, 0, 2⟩
def OPT_CNT (r : Nat) : Nat := 0x04000040 + 4 * r
def OPT_CNT_COUNT (r : Nat) : Fld := ⟨OPT_CNT r, 0, 32⟩
def OPT_BYP_CFG : Nat := 0x04000100
def OPT_BYP_CFG_LEAD : Fld := ⟨OPT_BYP_CFG, 0, 8⟩
def OPT_BYP_CFG_MINLEAD : Fld := ⟨OPT_BYP_CFG, 8, 8⟩
def OPT_BYP_CFG_ACKREQ : Fld := ⟨OPT_BYP_CFG, 16, 1⟩
def OPT_BYP_CFG_SWOFF : Fld := ⟨OPT_BYP_CFG, 17, 11⟩
def OPT_BYP_MGTDA : Nat := 0x04000108
def OPT_BYP_STAT : Nat := 0x04000110
def OPT_BYP_STAT_STATE : Fld := ⟨OPT_BYP_STAT, 0, 2⟩
def OPT_BYP_STAT_STEP : Fld := ⟨OPT_BYP_STAT, 2, 3⟩
def OPT_BYP_STAT_PLAN : Fld := ⟨OPT_BYP_STAT, 5, 6⟩
def OPT_BYP_STAT_ABEVT : Fld := ⟨OPT_BYP_STAT, 11, 1⟩
def OPT_BYP_STAT_NARMED : Fld := ⟨OPT_BYP_STAT, 12, 3⟩
def OPT_BYP_WTURN : Nat := 0x04000118
def OPT_BYP_ARM : Nat := 0x04000120
def OPT_BYP_ARM_PLAN : Fld := ⟨OPT_BYP_ARM, 0, 6⟩
def OPT_BYP_ARM_GO : Fld := ⟨OPT_BYP_ARM, 6, 1⟩
def OPT_BYP_ARM_CANCEL : Fld := ⟨OPT_BYP_ARM, 7, 1⟩
def OPT_BYP_ARM_SEND : Fld := ⟨OPT_BYP_ARM, 8, 1⟩
def OPT_BYP_ARMW : Nat := 0x04000128
def OPT_BYP_DST (n : Nat) : Nat := 0x04000200 + 4 * n
def OPT_BYP_DST_EID (n : Nat) : Fld := ⟨OPT_BYP_DST n, 0, 24⟩
def OPT_BYP_DST_VIA (n : Nat) : Fld := ⟨OPT_BYP_DST n, 24, 1⟩
def OPT_BYP_DST_VALID (n : Nat) : Fld := ⟨OPT_BYP_DST n, 25, 1⟩
def OPT_BYP_TRIG_A (n : Nat) : Nat := 0x04000300 + 8 * n
def OPT_BYP_TRIG_A_GIDX (n : Nat) : Fld := ⟨OPT_BYP_TRIG_A n, 0, 16⟩
def OPT_BYP_TRIG_A_PLAN (n : Nat) : Fld := ⟨OPT_BYP_TRIG_A n, 16, 6⟩
def OPT_BYP_TRIG_A_EN (n : Nat) : Fld := ⟨OPT_BYP_TRIG_A n, 22, 1⟩
def OPT_BYP_TRIG_A_REPEAT (n : Nat) : Fld := ⟨OPT_BYP_TRIG_A n, 23, 1⟩
def OPT_BYP_TRIG_B (n : Nat) : Nat := 0x04000304 + 8 * n
def OPT_BYP_TRIG_B_NCHUNK (n : Nat) : Fld := ⟨OPT_BYP_TRIG_B n, 0, 32⟩
def OPT_BYP_PLAN_A (p : Nat) : Nat := 0x04000400 + 8 * p
def OPT_BYP_PLAN_A_BASE (p : Nat) : Fld := ⟨OPT_BYP_PLAN_A p, 0, 12⟩
def OPT_BYP_PLAN_A_COUNT (p : Nat) : Fld := ⟨OPT_BYP_PLAN_A p, 12, 9⟩
def OPT_BYP_PLAN_B (p : Nat) : Nat := 0x04000404 + 8 * p
def OPT_BYP_PLAN_B_CONFIGID (p : Nat) : Fld := ⟨OPT_BYP_PLAN_B p, 0, 32⟩
def OPT_BUS_CFG (m : Nat) : Nat := 0x04001000 + 0x100 * m
def OPT_BUS_CFG_MODE (m : Nat) : Fld := ⟨OPT_BUS_CFG m, 0, 2⟩
def OPT_BUS_CFG_ADDR (m : Nat) : Fld := ⟨OPT_BUS_CFG m, 2, 7⟩
def OPT_BUS_CFG_POLL (m : Nat) : Fld := ⟨OPT_BUS_CFG m, 16, 16⟩
def OPT_MOD_STAT (m : Nat) : Nat := 0x04001004 + 0x100 * m
def OPT_MOD_STAT_PRESENT (m : Nat) : Fld := ⟨OPT_MOD_STAT m, 0, 1⟩
def OPT_MOD_STAT_INT (m : Nat) : Fld := ⟨OPT_MOD_STAT m, 1, 1⟩
def OPT_MOD_STAT_MSTATE (m : Nat) : Fld := ⟨OPT_MOD_STAT m, 2, 3⟩
def OPT_MOD_STAT_SPARES (m : Nat) : Fld := ⟨OPT_MOD_STAT m, 8, 4⟩
def OPT_MOD_CTL (m : Nat) : Nat := 0x04001008 + 0x100 * m
def OPT_MOD_CTL_RESET (m : Nat) : Fld := ⟨OPT_MOD_CTL m, 0, 1⟩
def OPT_MOD_CTL_LPMODE (m : Nat) : Fld := ⟨OPT_MOD_CTL m, 1, 1⟩
def OPT_MOD_CTL_AUTO (m : Nat) : Fld := ⟨OPT_MOD_CTL m, 2, 1⟩
def OPT_MBX_CMD (m : Nat) : Nat := 0x0400100C + 0x100 * m
def OPT_MBX_CMD_PAGE (m : Nat) : Fld := ⟨OPT_MBX_CMD m, 0, 8⟩
def OPT_MBX_CMD_BANK (m : Nat) : Fld := ⟨OPT_MBX_CMD m, 8, 8⟩
def OPT_MBX_CMD_OFFSET (m : Nat) : Fld := ⟨OPT_MBX_CMD m, 16, 8⟩
def OPT_MBX_CMD_NM1 (m : Nat) : Fld := ⟨OPT_MBX_CMD m, 24, 7⟩
def OPT_MBX_CMD_WR (m : Nat) : Fld := ⟨OPT_MBX_CMD m, 31, 1⟩
def OPT_MBX_CTL (m : Nat) : Nat := 0x04001010 + 0x100 * m
def OPT_MBX_CTL_GO (m : Nat) : Fld := ⟨OPT_MBX_CTL m, 0, 1⟩
def OPT_MBX_CTL_BUSY (m : Nat) : Fld := ⟨OPT_MBX_CTL m, 1, 1⟩
def OPT_MBX_CTL_RESULT (m : Nat) : Fld := ⟨OPT_MBX_CTL m, 2, 2⟩
def OPT_SPARE_CFG (m : Nat) : Nat := 0x04001014 + 0x100 * m
def OPT_SPARE_CFG_VPAGE (m : Nat) : Fld := ⟨OPT_SPARE_CFG m, 0, 8⟩
def OPT_SPARE_CFG_SPAREN (m : Nat) : Fld := ⟨OPT_SPARE_CFG m, 8, 1⟩
def OPT_MBX_DATA (m : Nat) (w : Nat) : Nat := 0x04001080 + 0x100 * m + 4 * w
def OPT_MBX_DATA_DATA (m : Nat) (w : Nat) : Fld := ⟨OPT_MBX_DATA m w, 0, 32⟩
def OPT_BYP_PENT_A (x : Nat) : Nat := 0x04010000 + 8 * x
def OPT_BYP_PENT_A_PORT (x : Nat) : Fld := ⟨OPT_BYP_PENT_A x, 0, 10⟩
def OPT_BYP_PENT_A_PROFILE (x : Nat) : Fld := ⟨OPT_BYP_PENT_A x, 10, 2⟩
def OPT_BYP_PENT_A_NEWTAG (x : Nat) : Fld := ⟨OPT_BYP_PENT_A x, 12, 4⟩
def OPT_BYP_PENT_A_VALID (x : Nat) : Fld := ⟨OPT_BYP_PENT_A x, 16, 1⟩
def OPT_BYP_PENT_B (x : Nat) : Nat := 0x04010004 + 8 * x
def OPT_BYP_PENT_B_NEWPEER (x : Nat) : Fld := ⟨OPT_BYP_PENT_B x, 0, 32⟩
def OPT_LANE_STAT (l : Nat) : Nat := 0x04020000 + 4 * l
def OPT_LANE_STAT_TUNED (l : Nat) : Fld := ⟨OPT_LANE_STAT l, 0, 16⟩
def OPT_LANE_STAT_WRONG (l : Nat) : Fld := ⟨OPT_LANE_STAT l, 16, 1⟩
def OPT_LANE_STAT_HELD (l : Nat) : Fld := ⟨OPT_LANE_STAT l, 17, 1⟩
def OPT_LANE_STAT_SPARE (l : Nat) : Fld := ⟨OPT_LANE_STAT l, 18, 1⟩
def OPT_LANE_STAT_RETRIES (l : Nat) : Fld := ⟨OPT_LANE_STAT l, 19, 4⟩
def OPT_PTAG (i : Nat) : Nat := 0x04030000 + 4 * i
def OPT_PTAG_TAG (i : Nat) : Fld := ⟨OPT_PTAG i, 0, 4⟩
def OPT_MTAG (y : Nat) : Nat := 0x04040000 + 4 * y
def OPT_MTAG_TAG (y : Nat) : Fld := ⟨OPT_MTAG y, 0, 32⟩
def PORT_LGRP_CFG (x : Nat) : Nat := 0x10001000 + 0x1000000 * (x / 8) + 4 * (x % 8)
def PORT_LGRP_CFG_ROLE (x : Nat) : Fld := ⟨PORT_LGRP_CFG x, 0, 3⟩
def PORT_LGRP_CFG_RATE (x : Nat) : Fld := ⟨PORT_LGRP_CFG x, 4, 2⟩
def PORT_LGRP_CFG_START (x : Nat) : Fld := ⟨PORT_LGRP_CFG x, 16, 16⟩
def PORT_LANE_SHIFT (x : Nat) : Nat := 0x10001040 + 0x1000000 * (x / 8) + 4 * (x % 8)
def PORT_LANE_SHIFT_SHIFT (x : Nat) : Fld := ⟨PORT_LANE_SHIFT x, 0, 32⟩
def PORT_JOIN_CFG (d : Nat) : Nat := 0x10001080 + 0x1000000 * d
def PORT_JOIN_CFG_DEVIDX (d : Nat) : Fld := ⟨PORT_JOIN_CFG d, 0, 3⟩
def PORT_JOIN_CFG_TOPO (d : Nat) : Fld := ⟨PORT_JOIN_CFG d, 3, 1⟩
def PORT_JOIN_CFG_NDEV (d : Nat) : Fld := ⟨PORT_JOIN_CFG d, 4, 4⟩
def PORT_JOIN_CFG_MAXHOPS (d : Nat) : Fld := ⟨PORT_JOIN_CFG d, 8, 3⟩
def PORT_JOIN_PEER (x : Nat) : Nat := 0x100010C0 + 0x1000000 * (x / 8) + 4 * (x % 8)
def PORT_JOIN_PEER_PEER (x : Nat) : Fld := ⟨PORT_JOIN_PEER x, 0, 16⟩
def PORT_SWID (d : Nat) : Nat := 0x10001100 + 0x1000000 * d
def PORT_SWID_SWID (d : Nat) : Fld := ⟨PORT_SWID d, 0, 32⟩
def PORT_OFPE (d : Nat) : Nat := 0x10001104 + 0x1000000 * d
def PORT_OFPE_ETYPE (d : Nat) : Fld := ⟨PORT_OFPE d, 0, 16⟩
def PORT_OFPE_UDPPORT (d : Nat) : Fld := ⟨PORT_OFPE d, 16, 16⟩
def PORT_PFC_CFG (d : Nat) : Nat := 0x10001108 + 0x1000000 * d
def PORT_PFC_CFG_PRIMASK (d : Nat) : Fld := ⟨PORT_PFC_CFG d, 0, 8⟩
def PORT_PFC_CFG_QUANTA (d : Nat) : Fld := ⟨PORT_PFC_CFG d, 8, 16⟩
def PORT_LINK_CFG (d : Nat) : Nat := 0x1000110C + 0x1000000 * d
def PORT_LINK_CFG_RTMO (d : Nat) : Fld := ⟨PORT_LINK_CFG d, 0, 8⟩
def PORT_LINK_CFG_RMAX (d : Nat) : Fld := ⟨PORT_LINK_CFG d, 8, 4⟩
def PORT_LINK_CFG_MKLOSS (d : Nat) : Fld := ⟨PORT_LINK_CFG d, 12, 4⟩
def PORT_PCTL (p : Nat) : Nat := 0x10002000 + 0x1000000 * (p / 128) + 4 * (p % 128)
def PORT_PCTL_ADMIN (p : Nat) : Fld := ⟨PORT_PCTL p, 0, 1⟩
def PORT_PCTL_DATELINE (p : Nat) : Fld := ⟨PORT_PCTL p, 1, 1⟩
def PORT_PCTL_FTXLOCK (p : Nat) : Fld := ⟨PORT_PCTL p, 2, 1⟩
def PORT_PCTL_FASTRELOCK (p : Nat) : Fld := ⟨PORT_PCTL p, 3, 1⟩
def PORT_PCTL_ANLT (p : Nat) : Fld := ⟨PORT_PCTL p, 4, 1⟩
def PORT_PCTL_PFC (p : Nat) : Fld := ⟨PORT_PCTL p, 5, 1⟩
def PORT_PCTL_TSEN (p : Nat) : Fld := ⟨PORT_PCTL p, 6, 1⟩
def PORT_PCTL_MEDIA (p : Nat) : Fld := ⟨PORT_PCTL p, 8, 2⟩
def PORT_PSTAT (p : Nat) : Nat := 0x10002200 + 0x1000000 * (p / 128) + 4 * (p % 128)
def PORT_PSTAT_STATE (p : Nat) : Fld := ⟨PORT_PSTAT p, 0, 4⟩
def PORT_PSTAT_UP (p : Nat) : Fld := ⟨PORT_PSTAT p, 4, 1⟩
def PORT_PSTAT_DOWNEVT (p : Nat) : Fld := ⟨PORT_PSTAT p, 5, 1⟩
def PORT_PSTAT_CHANMIS (p : Nat) : Fld := ⟨PORT_PSTAT p, 6, 1⟩
def PORT_PSTAT_PEERMIS (p : Nat) : Fld := ⟨PORT_PSTAT p, 7, 1⟩
def PORT_PSTAT_SKEW (p : Nat) : Fld := ⟨PORT_PSTAT p, 8, 1⟩
def PORT_PSTAT_RETRAINS (p : Nat) : Fld := ⟨PORT_PSTAT p, 16, 16⟩
def PORT_LCHAN (p : Nat) : Nat := 0x10002400 + 0x1000000 * (p / 128) + 4 * (p % 128)
def PORT_LCHAN_EXPECT (p : Nat) : Fld := ⟨PORT_LCHAN p, 0, 16⟩
def PORT_LCHAN_SEND (p : Nat) : Fld := ⟨PORT_LCHAN p, 16, 16⟩
def PORT_RELOCK (p : Nat) : Nat := 0x10002600 + 0x1000000 * (p / 128) + 4 * (p % 128)
def PORT_RELOCK_PROFILE (p : Nat) : Fld := ⟨PORT_RELOCK p, 0, 2⟩
def PORT_RELOCK_CAPTURE (p : Nat) : Fld := ⟨PORT_RELOCK p, 2, 1⟩
def PORT_RELOCK_RLEN (p : Nat) : Fld := ⟨PORT_RELOCK p, 8, 8⟩
def PORT_RELOCK_PEER (p : Nat) : Nat := 0x10002800 + 0x1000000 * (p / 128) + 4 * (p % 128)
def PORT_RELOCK_PEER_PEER (p : Nat) : Fld := ⟨PORT_RELOCK_PEER p, 0, 32⟩
def CIST_POOL_CFG : Nat := 0x21000000
def CIST_POOL_CFG_HDRM : Fld := ⟨CIST_POOL_CFG, 0, 22⟩
def CIST_POOL_GX : Nat := 0x21000004
def CIST_POOL_GX_GXOFF : Fld := ⟨CIST_POOL_GX, 0, 22⟩
def CIST_POOL_STAT : Nat := 0x21000008
def CIST_POOL_STAT_SHARED : Fld := ⟨CIST_POOL_STAT, 0, 22⟩
def CIST_POOL_FREE : Nat := 0x2100000C
def CIST_POOL_FREE_FREE : Fld := ⟨CIST_POOL_FREE, 0, 22⟩
def CIST_SPILL_CAP : Nat := 0x21000010
def CIST_SPILL_CAP_WPAGES : Fld := ⟨CIST_SPILL_CAP, 0, 10⟩
def CIST_SPILL_CAP_RPAGES : Fld := ⟨CIST_SPILL_CAP, 16, 10⟩
def CIST_STARVE : Nat := 0x21000014
def CIST_STARVE_COUNT : Fld := ⟨CIST_STARVE, 0, 32⟩
def CIST_DROP (r : Nat) : Nat := 0x21000020 + 4 * r
def CIST_DROP_COUNT (r : Nat) : Fld := ⟨CIST_DROP r, 0, 32⟩
def CIST_QPROF_A (p : Nat) : Nat := 0x21000100 + 8 * p
def CIST_QPROF_A_MINQ (p : Nat) : Fld := ⟨CIST_QPROF_A p, 0, 8⟩
def CIST_QPROF_A_ALPHA (p : Nat) : Fld := ⟨CIST_QPROF_A p, 8, 4⟩
def CIST_QPROF_A_SPILLEN (p : Nat) : Fld := ⟨CIST_QPROF_A p, 12, 1⟩
def CIST_QPROF_B (p : Nat) : Nat := 0x21000104 + 8 * p
def CIST_QPROF_B_SPILL_ON (p : Nat) : Fld := ⟨CIST_QPROF_B p, 0, 16⟩
def CIST_QPROF_B_KEEP (p : Nat) : Fld := ⟨CIST_QPROF_B p, 16, 6⟩
def CIST_QMAX (p : Nat) : Nat := 0x21000180 + 4 * p
def CIST_QMAX_PAGES (p : Nat) : Fld := ⟨CIST_QMAX p, 0, 25⟩
def CIST_CQUOTA (tc : Nat) : Nat := 0x21000200 + 4 * tc
def CIST_CQUOTA_PAGES (tc : Nat) : Fld := ⟨CIST_CQUOTA tc, 0, 25⟩
def CIST_CUSE (tc : Nat) : Nat := 0x21000220 + 4 * tc
def CIST_CUSE_CELLS (tc : Nat) : Fld := ⟨CIST_CUSE tc, 0, 28⟩
def CIST_QSEL (q : Nat) : Nat := 0x21010000 + 4 * q
def CIST_QSEL_PROF (q : Nat) : Fld := ⟨CIST_QSEL q, 0, 4⟩
def CIST_PORT_CFG (i : Nat) : Nat := 0x21020000 + 4 * i
def CIST_PORT_CFG_CTMASK (i : Nat) : Fld := ⟨CIST_PORT_CFG i, 0, 8⟩
def CIST_PORT_CFG_ALLOW (i : Nat) : Fld := ⟨CIST_PORT_CFG i, 8, 16⟩
def CIST_PORT_XOFF (i : Nat) : Nat := 0x21021000 + 4 * i
def CIST_PORT_XOFF_XOFF (i : Nat) : Fld := ⟨CIST_PORT_XOFF i, 0, 16⟩
def CIST_PORT_XOFF_XON (i : Nat) : Fld := ⟨CIST_PORT_XOFF i, 16, 16⟩
def CIST_PORT_HDRM (i : Nat) : Nat := 0x21022000 + 4 * i
def CIST_PORT_HDRM_CAP (i : Nat) : Fld := ⟨CIST_PORT_HDRM i, 0, 20⟩
def CIST_PQUOTA (n : Nat) : Nat := 0x21030000 + 4 * n
def CIST_PQUOTA_PAGES (n : Nat) : Fld := ⟨CIST_PQUOTA n, 0, 25⟩
def CIST_PUSE (n : Nat) : Nat := 0x21038000 + 4 * n
def CIST_PUSE_CELLS (n : Nat) : Fld := ⟨CIST_PUSE n, 0, 28⟩
def CIST_JQUOTA (j : Nat) : Nat := 0x21040000 + 4 * j
def CIST_JQUOTA_PAGES (j : Nat) : Fld := ⟨CIST_JQUOTA j, 0, 25⟩
def CIST_JUSE (j : Nat) : Nat := 0x21044000 + 4 * j
def CIST_JUSE_CELLS (j : Nat) : Fld := ⟨CIST_JUSE j, 0, 28⟩
def CIST_QOCC (q : Nat) : Nat := 0x21050000 + 4 * q
def CIST_QOCC_CELLS (q : Nat) : Fld := ⟨CIST_QOCC q, 0, 22⟩
def CIST_QOCC_STATE (q : Nat) : Fld := ⟨CIST_QOCC q, 22, 2⟩
def CIST_QSPILL (q : Nat) : Nat := 0x21058000 + 4 * q
def CIST_QSPILL_PAGES (q : Nat) : Fld := ⟨CIST_QSPILL q, 0, 25⟩
def RES_PART (k : Nat) : Nat := 0x22000000 + 4 * k
def RES_PART_BASE (k : Nat) : Fld := ⟨RES_PART k, 0, 9⟩
def RES_PART_SIZE (k : Nat) : Fld := ⟨RES_PART k, 16, 9⟩
def RES_STATUS : Nat := 0x22000040
def RES_STATUS_USABLE : Fld := ⟨RES_STATUS, 0, 10⟩
def RES_STATUS_TRAINED : Fld := ⟨RES_STATUS, 16, 8⟩
def RES_STATUS_SPARED : Fld := ⟨RES_STATUS, 24, 8⟩
def RES_SPILL_STAT : Nat := 0x22000044
def RES_SPILL_STAT_USED : Fld := ⟨RES_SPILL_STAT, 0, 25⟩
def RES_SPILL_STAT_FULL : Fld := ⟨RES_SPILL_STAT, 31, 1⟩
def QUE_CFG : Nat := 0x23000000
def QUE_CFG_DOWNFLUSH : Fld := ⟨QUE_CFG, 0, 16⟩
def QUE_FLUSH : Nat := 0x23000004
def QUE_FLUSH_QUEUE : Fld := ⟨QUE_FLUSH, 0, 14⟩
def QUE_FLUSH_GO : Fld := ⟨QUE_FLUSH, 16, 1⟩
def QUE_FLUSH_BUSY : Fld := ⟨QUE_FLUSH, 17, 1⟩
def QUE_FLUSH_COUNT : Fld := ⟨QUE_FLUSH, 18, 14⟩
def QUE_MC_CFG : Nat := 0x23000010
def QUE_MC_CFG_AGE : Fld := ⟨QUE_MC_CFG, 0, 16⟩
def QUE_MC_CFG_EPROF : Fld := ⟨QUE_MC_CFG, 16, 4⟩
def QUE_MC_AGEDROP : Nat := 0x23000014
def QUE_MC_AGEDROP_COUNT : Fld := ⟨QUE_MC_AGEDROP, 0, 32⟩
def QUE_MCG_DROP : Nat := 0x23000018
def QUE_MCG_DROP_COUNT : Fld := ⟨QUE_MCG_DROP, 0, 32⟩
def QUE_DOWN_DROP : Nat := 0x2300001C
def QUE_DOWN_DROP_COUNT : Fld := ⟨QUE_DOWN_DROP, 0, 32⟩
def QUE_ECN_A (e : Nat) : Nat := 0x23000100 + 0x10 * e
def QUE_ECN_A_KMIN (e : Nat) : Fld := ⟨QUE_ECN_A e, 0, 25⟩
def QUE_ECN_B (e : Nat) : Nat := 0x23000104 + 0x10 * e
def QUE_ECN_B_KMAX (e : Nat) : Fld := ⟨QUE_ECN_B e, 0, 25⟩
def QUE_ECN_C (e : Nat) : Nat := 0x23000108 + 0x10 * e
def QUE_ECN_C_PMAX (e : Nat) : Fld := ⟨QUE_ECN_C e, 0, 16⟩
def QUE_ECN_C_EN (e : Nat) : Fld := ⟨QUE_ECN_C e, 16, 1⟩
def QUE_ECN_C_DROPNECT (e : Nat) : Fld := ⟨QUE_ECN_C e, 17, 1⟩
def QUE_PIPE_DROP (P : Nat) : Nat := 0x23000400 + 4 * P
def QUE_PIPE_DROP_COUNT (P : Nat) : Fld := ⟨QUE_PIPE_DROP P, 0, 32⟩
def QUE_ECN_SEL (q : Nat) : Nat := 0x23010000 + 4 * q
def QUE_ECN_SEL_EPROF (q : Nat) : Fld := ⟨QUE_ECN_SEL q, 0, 4⟩
def QUE_TC_CFG (i : Nat) (tc : Nat) : Nat := 0x23020000 + 0x20 * i + 4 * tc
def QUE_TC_CFG_QUANT (i : Nat) (tc : Nat) : Fld := ⟨QUE_TC_CFG i tc, 0, 12⟩
def QUE_TC_CFG_STRICT (i : Nat) (tc : Nat) : Fld := ⟨QUE_TC_CFG i tc, 12, 1⟩
def QUE_TC_CFG_MCQUANT (i : Nat) (tc : Nat) : Fld := ⟨QUE_TC_CFG i tc, 16, 12⟩
def QUE_ECN_MARK (q : Nat) : Nat := 0x23030000 + 4 * q
def QUE_ECN_MARK_MARKS (q : Nat) : Fld := ⟨QUE_ECN_MARK q, 0, 24⟩
def QUE_ECN_MARK_NDROP (q : Nat) : Fld := ⟨QUE_ECN_MARK q, 24, 8⟩
def QUE_TC_SHAPE (i : Nat) (tc : Nat) : Nat := 0x23040000 + 0x20 * i + 4 * tc
def QUE_TC_SHAPE_RATE (i : Nat) (tc : Nat) : Fld := ⟨QUE_TC_SHAPE i tc, 0, 16⟩
def QUE_TC_SHAPE_BURST (i : Nat) (tc : Nat) : Fld := ⟨QUE_TC_SHAPE i tc, 16, 12⟩
def QUE_PORT_SHAPE (i : Nat) : Nat := 0x23060000 + 4 * i
def QUE_PORT_SHAPE_RATE (i : Nat) : Fld := ⟨QUE_PORT_SHAPE i, 0, 16⟩
def QUE_PORT_SHAPE_BURST (i : Nat) : Fld := ⟨QUE_PORT_SHAPE i, 16, 12⟩
def QUE_MCG_CFG (g : Nat) : Nat := 0x23080000 + 4 * g
def QUE_MCG_CFG_VALID (g : Nat) : Fld := ⟨QUE_MCG_CFG g, 0, 1⟩
def QUE_MCG_CFG_HAIRPIN (g : Nat) : Fld := ⟨QUE_MCG_CFG g, 1, 1⟩
def QUE_MCG (g : Nat) (w : Nat) : Nat := 0x23100000 + 0x80 * g + 4 * w
def QUE_MCG_MEMBER (g : Nat) (w : Nat) : Fld := ⟨QUE_MCG g w, 0, 32⟩
def FWD_SELF : Nat := 0x24000000
def FWD_SELF_EID : Fld := ⟨FWD_SELF, 0, 24⟩
def FWD_SELF_IP6 (n : Nat) : Nat := 0x24000010 + 4 * n
def FWD_SELF_IP6_ADDR (n : Nat) : Fld := ⟨FWD_SELF_IP6 n, 0, 32⟩
def FWD_RMAC : Nat := 0x24000020
def FWD_OFP_MISS : Nat := 0x24000030
def FWD_OFP_MISS_RESULT : Fld := ⟨FWD_OFP_MISS, 0, 32⟩
def FWD_LPM_CFG : Nat := 0x24000040
def FWD_LPM_CFG_V4MODE : Fld := ⟨FWD_LPM_CFG, 0, 1⟩
def FWD_LPM_CFG_V6MODE : Fld := ⟨FWD_LPM_CFG, 1, 1⟩
def FWD_LPM_CFG_V4UNITS : Fld := ⟨FWD_LPM_CFG, 4, 11⟩
def FWD_LPM_STAT : Nat := 0x24000044
def FWD_LPM_STAT_EXTRA : Fld := ⟨FWD_LPM_STAT, 0, 32⟩
def FWD_AGE_CFG : Nat := 0x24000050
def FWD_AGE_CFG_QUANT : Fld := ⟨FWD_AGE_CFG, 0, 8⟩
def FWD_AGE_CFG_TURNS : Fld := ⟨FWD_AGE_CFG, 8, 24⟩
def FWD_LEARN_CFG : Nat := 0x24000054
def FWD_LEARN_CFG_RATE : Fld := ⟨FWD_LEARN_CFG, 0, 9⟩
def FWD_LEARN_STAT : Nat := 0x24000058
def FWD_LEARN_STAT_DROPPED : Fld := ⟨FWD_LEARN_STAT, 0, 16⟩
def FWD_LEARN_STAT_MOVES : Fld := ⟨FWD_LEARN_STAT, 16, 16⟩
def FWD_PUNT_CFG : Nat := 0x2400005C
def FWD_PUNT_CFG_RATE : Fld := ⟨FWD_PUNT_CFG, 0, 10⟩
def FWD_PCP_MAP : Nat := 0x24000060
def FWD_PCP_MAP_TC : Fld := ⟨FWD_PCP_MAP, 0, 24⟩
def FWD_RING_BASE : Nat := 0x24000080
def FWD_RING_CFG : Nat := 0x24000088
def FWD_RING_CFG_LOG2SIZE : Fld := ⟨FWD_RING_CFG, 0, 5⟩
def FWD_RING_CFG_EN : Fld := ⟨FWD_RING_CFG, 8, 1⟩
def FWD_RING_TAIL : Nat := 0x2400008C
def FWD_RING_TAIL_TAIL : Fld := ⟨FWD_RING_TAIL, 0, 16⟩
def FWD_RING_HEAD : Nat := 0x24000090
def FWD_RING_HEAD_HEAD : Fld := ⟨FWD_RING_HEAD, 0, 16⟩
def FWD_RING_HEAD_WAIT : Fld := ⟨FWD_RING_HEAD, 16, 1⟩
def FWD_ADM_DROP (r : Nat) : Nat := 0x24000100 + 4 * r
def FWD_ADM_DROP_COUNT (r : Nat) : Fld := ⟨FWD_ADM_DROP r, 0, 32⟩
def FWD_JUPD_BASE : Nat := 0x24000200
def FWD_JUPD_CFG : Nat := 0x24000208
def FWD_JUPD_CFG_LOG2SIZE : Fld := ⟨FWD_JUPD_CFG, 0, 5⟩
def FWD_JUPD_CFG_EN : Fld := ⟨FWD_JUPD_CFG, 8, 1⟩
def FWD_JUPD_TAIL : Nat := 0x2400020C
def FWD_JUPD_TAIL_TAIL : Fld := ⟨FWD_JUPD_TAIL, 0, 16⟩
def FWD_JUPD_HEAD : Nat := 0x24000210
def FWD_JUPD_HEAD_HEAD : Fld := ⟨FWD_JUPD_HEAD, 0, 16⟩
def FWD_JUPD_HEAD_WAIT : Fld := ⟨FWD_JUPD_HEAD, 16, 1⟩
def FWD_JOB_CFG : Nat := 0x24000220
def FWD_JOB_CFG_QTURNS : Fld := ⟨FWD_JOB_CFG, 0, 16⟩
def FWD_JOB_CFG_DRAINTMO : Fld := ⟨FWD_JOB_CFG, 16, 16⟩
def FWD_CANAL_CNT (r : Nat) : Nat := 0x24000240 + 4 * r
def FWD_CANAL_CNT_COUNT (r : Nat) : Fld := ⟨FWD_CANAL_CNT r, 0, 32⟩
def FWD_PORT_CFG (i : Nat) : Nat := 0x24001000 + 4 * i
def FWD_PORT_CFG_PVID (i : Nat) : Fld := ⟨FWD_PORT_CFG i, 0, 12⟩
def FWD_PORT_CFG_TAGONLY (i : Nat) : Fld := ⟨FWD_PORT_CFG i, 12, 1⟩
def FWD_PORT_CFG_LEARN (i : Nat) : Fld := ⟨FWD_PORT_CFG i, 13, 1⟩
def FWD_PORT_CFG_TRUST (i : Nat) : Fld := ⟨FWD_PORT_CFG i, 14, 1⟩
def FWD_PORT_CFG_JOB0 (i : Nat) : Fld := ⟨FWD_PORT_CFG i, 15, 1⟩
def FWD_JOB (j : Nat) : Nat := 0x24004000 + 4 * j
def FWD_JOB_JOBID (j : Nat) : Fld := ⟨FWD_JOB j, 0, 16⟩
def FWD_JOB_GEN (j : Nat) : Fld := ⟨FWD_JOB j, 16, 8⟩
def FWD_JOB_STATE (j : Nat) : Fld := ⟨FWD_JOB j, 24, 2⟩
def FWD_JOB_RESID (j : Nat) : Fld := ⟨FWD_JOB j, 26, 6⟩
def SPRAY_CFG : Nat := 0x25000000
def SPRAY_CFG_FLOWTC : Fld := ⟨SPRAY_CFG, 0, 8⟩
def SPRAY_CFG_FLOWGAP : Fld := ⟨SPRAY_CFG, 8, 12⟩
def SPRAY_GAUGE_CFG : Nat := 0x25000004
def SPRAY_GAUGE_CFG_LSTEP : Fld := ⟨SPRAY_GAUGE_CFG, 0, 8⟩
def SPRAY_GAUGE_CFG_DECAY : Fld := ⟨SPRAY_GAUGE_CFG, 8, 4⟩
def SPRAY_GAUGE_CFG_ECHOLVL : Fld := ⟨SPRAY_GAUGE_CFG, 12, 4⟩
def SPRAY_GAUGE_CFG_ECHOTHR : Fld := ⟨SPRAY_GAUGE_CFG, 16, 16⟩
def SPRAY_ADV_CFG : Nat := 0x25000008
def SPRAY_ADV_CFG_SPREAD : Fld := ⟨SPRAY_ADV_CFG, 0, 4⟩
def SPRAY_ADV_CFG_ESCALATE : Fld := ⟨SPRAY_ADV_CFG, 4, 1⟩
def SPRAY_ADV_CFG_ADVTHR : Fld := ⟨SPRAY_ADV_CFG, 16, 16⟩
def SPRAY_ADV_WIN : Nat := 0x2500000C
def SPRAY_ADV_WIN_ESCWIN : Fld := ⟨SPRAY_ADV_WIN, 0, 16⟩
def SPRAY_MAP_CFG : Nat := 0x25000010
def SPRAY_MAP_CFG_INT : Fld := ⟨SPRAY_MAP_CFG, 0, 16⟩
def SPRAY_MAP_CFG_DEST : Fld := ⟨SPRAY_MAP_CFG, 16, 2⟩
def SPRAY_MAP_EID : Nat := 0x25000014
def SPRAY_MAP_EID_EID : Fld := ⟨SPRAY_MAP_EID, 0, 24⟩
def SPRAY_SCHED_CFG : Nat := 0x25000020
def SPRAY_SCHED_CFG_TCMASK : Fld := ⟨SPRAY_SCHED_CFG, 0, 8⟩
def SPRAY_SCHED_CFG_ONUNLOCK : Fld := ⟨SPRAY_SCHED_CFG, 8, 1⟩
def SPRAY_SCHED_CFG_BANK : Fld := ⟨SPRAY_SCHED_CFG, 9, 1⟩
def SPRAY_SCHED_CFG_PENDING : Fld := ⟨SPRAY_SCHED_CFG, 10, 1⟩
def SPRAY_SCHED_CFG_ACTIVE : Fld := ⟨SPRAY_SCHED_CFG, 11, 1⟩
def SPRAY_SCHED_CFG_NPERIOD : Fld := ⟨SPRAY_SCHED_CFG, 16, 8⟩
def SPRAY_SCHED_CFG_SWAP : Fld := ⟨SPRAY_SCHED_CFG, 24, 1⟩
def SPRAY_SCHED_STAT : Nat := 0x25000024
def SPRAY_SCHED_STAT_PERIOD : Fld := ⟨SPRAY_SCHED_STAT, 0, 8⟩
def SPRAY_SCHED_STAT_SLOT : Fld := ⟨SPRAY_SCHED_STAT, 8, 8⟩
def SPRAY_SCHED_START : Nat := 0x25000028
def SPRAY_CNT (r : Nat) : Nat := 0x25000040 + 4 * r
def SPRAY_CNT_COUNT (r : Nat) : Fld := ⟨SPRAY_CNT r, 0, 32⟩
def SPRAY_ADV_EVT : Nat := 0x25000060
def SPRAY_ADV_EVT_DETECT : Fld := ⟨SPRAY_ADV_EVT, 0, 16⟩
def SPRAY_ADV_EVT_ESCAL : Fld := ⟨SPRAY_ADV_EVT, 16, 16⟩
def SPRAY_PLVL (i : Nat) : Nat := 0x25001000 + 4 * i
def SPRAY_PLVL_LOCAL (i : Nat) : Fld := ⟨SPRAY_PLVL i, 0, 4⟩
def SPRAY_PLVL_REMOTE (i : Nat) : Fld := ⟨SPRAY_PLVL i, 4, 4⟩
def SPRAY_PLVL_EFF (i : Nat) : Fld := ⟨SPRAY_PLVL i, 8, 4⟩
def SPRAY_RLVL (i : Nat) : Nat := 0x25002000 + 4 * i
def SPRAY_RLVL_LEVEL (i : Nat) : Fld := ⟨SPRAY_RLVL i, 0, 4⟩
def SPRAY_RLVL_TTL (i : Nat) : Fld := ⟨SPRAY_RLVL i, 16, 16⟩
def SPRAY_SET_A (k : Nat) : Nat := 0x25100000 + 8 * k
def SPRAY_SET_A_BASE (k : Nat) : Fld := ⟨SPRAY_SET_A k, 0, 17⟩
def SPRAY_SET_A_COUNT (k : Nat) : Fld := ⟨SPRAY_SET_A k, 18, 8⟩
def SPRAY_SET_A_MODE (k : Nat) : Fld := ⟨SPRAY_SET_A k, 26, 2⟩
def SPRAY_SET_A_ALTEN (k : Nat) : Fld := ⟨SPRAY_SET_A k, 28, 1⟩
def SPRAY_SET_B (k : Nat) : Nat := 0x25100004 + 8 * k
def SPRAY_SET_B_SALT (k : Nat) : Fld := ⟨SPRAY_SET_B k, 0, 16⟩
def SPRAY_SET_B_ALTSET (k : Nat) : Fld := ⟨SPRAY_SET_B k, 16, 14⟩
def SPRAY_SET_B_ESCALATED (k : Nat) : Fld := ⟨SPRAY_SET_B k, 30, 1⟩
def SPRAY_IMB (k : Nat) : Nat := 0x25140000 + 4 * k
def SPRAY_IMB_IMBCNT (k : Nat) : Fld := ⟨SPRAY_IMB k, 0, 16⟩
def SPRAY_IMB_LASTDET (k : Nat) : Fld := ⟨SPRAY_IMB k, 16, 16⟩
def SPRAY_MEMBER (x : Nat) : Nat := 0x25200000 + 4 * x
def SPRAY_MEMBER_PORT (x : Nat) : Fld := ⟨SPRAY_MEMBER x, 0, 10⟩
def SPRAY_MEMBER_WEIGHT (x : Nat) : Fld := ⟨SPRAY_MEMBER x, 16, 8⟩
def SPRAY_MEMBER_VALID (x : Nat) : Fld := ⟨SPRAY_MEMBER x, 24, 1⟩
def SPRAY_GRANT (b : Nat) (s : Nat) (w : Nat) : Nat := 0x25400000 + 0x100000 * b + 0x800 * s + 4 * w
def SPRAY_GRANT_G0 (b : Nat) (s : Nat) (w : Nat) : Fld := ⟨SPRAY_GRANT b s w, 0, 12⟩
def SPRAY_GRANT_G1 (b : Nat) (s : Nat) (w : Nat) : Fld := ⟨SPRAY_GRANT b s w, 16, 12⟩
def BASIN_CFG : Nat := 0x30000000
def BASIN_CFG_SLOTS : Fld := ⟨BASIN_CFG, 0, 12⟩
def BASIN_CFG_OVSLOTS : Fld := ⟨BASIN_CFG, 12, 8⟩
def BASIN_TIMING : Nat := 0x30000004
def BASIN_TIMING_RETIRE : Fld := ⟨BASIN_TIMING, 0, 16⟩
def BASIN_TIMING_RHINT : Fld := ⟨BASIN_TIMING, 16, 16⟩
def BASIN_STAT : Nat := 0x30000008
def BASIN_STAT_CFREE : Fld := ⟨BASIN_STAT, 0, 12⟩
def BASIN_OVSTAT : Nat := 0x3000000C
def BASIN_OVSTAT_OFREE : Fld := ⟨BASIN_OVSTAT, 0, 18⟩
def BASIN_CTXSTAT : Nat := 0x30000010
def BASIN_CTXSTAT_INUSE : Fld := ⟨BASIN_CTXSTAT, 0, 16⟩
def BASIN_CTXSTAT_TOMB : Fld := ⟨BASIN_CTXSTAT, 16, 16⟩
def BASIN_CNT (r : Nat) : Nat := 0x30000040 + 4 * r
def BASIN_CNT_COUNT (r : Nat) : Fld := ⟨BASIN_CNT r, 0, 32⟩
def BASIN_ABORT : Nat := 0x30000080
def BASIN_ABORT_GIDX : Fld := ⟨BASIN_ABORT, 0, 16⟩
def BASIN_ABORT_ALL : Fld := ⟨BASIN_ABORT, 16, 1⟩
def BASIN_ABORT_GO : Fld := ⟨BASIN_ABORT, 17, 1⟩
def BASIN_ABORT_BUSY : Fld := ⟨BASIN_ABORT, 18, 1⟩
def BASIN_ABORT_RESULT : Fld := ⟨BASIN_ABORT, 19, 3⟩
def BASIN_ABORT_CHUNK : Nat := 0x30000084
def BASIN_ABORT_CHUNK_CHUNK : Fld := ⟨BASIN_ABORT_CHUNK, 0, 32⟩
def BASIN_CRING_BASE : Nat := 0x30000090
def BASIN_CRING_CFG : Nat := 0x30000098
def BASIN_CRING_CFG_LOG2SIZE : Fld := ⟨BASIN_CRING_CFG, 0, 5⟩
def BASIN_CRING_CFG_EN : Fld := ⟨BASIN_CRING_CFG, 8, 1⟩
def BASIN_CRING_HEAD : Nat := 0x3000009C
def BASIN_CRING_HEAD_HEAD : Fld := ⟨BASIN_CRING_HEAD, 0, 20⟩
def BASIN_CRING_TAIL : Nat := 0x300000A0
def BASIN_CRING_TAIL_TAIL : Fld := ⟨BASIN_CRING_TAIL, 0, 20⟩
def BASIN_ARITH_SEED : Nat := 0x30000100
def BASIN_ARITH_SEED_SEED : Fld := ⟨BASIN_ARITH_SEED, 0, 32⟩
def BASIN_SPARSE_CFG : Nat := 0x30000104
def BASIN_SPARSE_CFG_KBLOCKS : Fld := ⟨BASIN_SPARSE_CFG, 0, 11⟩
def BASIN_SPARSE_STAT : Nat := 0x30000108
def BASIN_SPARSE_STAT_KFREE : Fld := ⟨BASIN_SPARSE_STAT, 0, 11⟩
def BASIN_ARITH_CNT (r : Nat) : Nat := 0x30000140 + 4 * r
def BASIN_ARITH_CNT_COUNT (r : Nat) : Fld := ⟨BASIN_ARITH_CNT r, 0, 32⟩
def BASIN_JQUOTA (j : Nat) : Nat := 0x30010000 + 4 * j
def BASIN_JQUOTA_SLOTS (j : Nat) : Fld := ⟨BASIN_JQUOTA j, 0, 18⟩
def BASIN_JUSE (j : Nat) : Nat := 0x30014000 + 4 * j
def BASIN_JUSE_SLOTS (j : Nat) : Fld := ⟨BASIN_JUSE j, 0, 18⟩
def BASIN_AVGSCALE (g : Nat) : Nat := 0x30020000 + 4 * g
def BASIN_AVGSCALE_SCALE (g : Nat) : Fld := ⟨BASIN_AVGSCALE g, 0, 32⟩
def TALLY_CFG : Nat := 0x31000000
def TALLY_CFG_MAXHOPS : Fld := ⟨TALLY_CFG, 0, 4⟩
def TALLY_CFG_RHINT : Fld := ⟨TALLY_CFG, 16, 16⟩
def TALLY_STAT : Nat := 0x31000004
def TALLY_STAT_PEND : Fld := ⟨TALLY_STAT, 0, 20⟩
def TALLY_STAT_NLOST : Fld := ⟨TALLY_STAT, 20, 9⟩
def TALLY_STAT_LOSTFULL : Fld := ⟨TALLY_STAT, 29, 1⟩
def TALLY_LOST_CLR : Nat := 0x31000008
def TALLY_LOST_CLR_IDX : Fld := ⟨TALLY_LOST_CLR, 0, 8⟩
def TALLY_LOST_CLR_GO : Fld := ⟨TALLY_LOST_CLR, 8, 1⟩
def TALLY_LOST_CLR_BUSY : Fld := ⟨TALLY_LOST_CLR, 9, 1⟩
def TALLY_CNT (r : Nat) : Nat := 0x31000040 + 4 * r
def TALLY_CNT_COUNT (r : Nat) : Fld := ⟨TALLY_CNT r, 0, 32⟩
def TALLY_LOST (n : Nat) : Nat := 0x31001000 + 8 * n
def TALLY_LOST_REGION (n : Nat) : Fld := ⟨TALLY_LOST n, 0, 27⟩
def TALLY_LOST_JIDX (n : Nat) : Fld := ⟨TALLY_LOST n + 4, 0, 12⟩
def TALLY_LOST_VALID (n : Nat) : Fld := ⟨TALLY_LOST n + 4, 31, 1⟩
def TALLY_JWIN (j : Nat) : Nat := 0x31010000 + 8 * j
def TALLY_JWIN_BASE (j : Nat) : Fld := ⟨TALLY_JWIN j, 0, 23⟩
def TALLY_JWIN_SIZE (j : Nat) : Fld := ⟨TALLY_JWIN j + 4, 0, 23⟩
def TALLY_JWIN_VALID (j : Nat) : Fld := ⟨TALLY_JWIN j + 4, 30, 1⟩
def TALLY_JQUOTA (j : Nat) : Nat := 0x31020000 + 4 * j
def TALLY_JQUOTA_PEND (j : Nat) : Fld := ⟨TALLY_JQUOTA j, 0, 20⟩
def TALLY_JUSE (j : Nat) : Nat := 0x31024000 + 4 * j
def TALLY_JUSE_PEND (j : Nat) : Fld := ⟨TALLY_JUSE j, 0, 20⟩
def HAUL_CFG : Nat := 0x32000000
def HAUL_CFG_RTXGIB : Fld := ⟨HAUL_CFG, 0, 7⟩
def HAUL_CFG_PNBIT : Fld := ⟨HAUL_CFG, 8, 6⟩
def HAUL_CFG_STEPTHR : Fld := ⟨HAUL_CFG, 16, 16⟩
def HAUL_CTX_BASE : Nat := 0x32000020
def HAUL_CTX_CFG : Nat := 0x32000028
def HAUL_CTX_CFG_LOG2SIZE : Fld := ⟨HAUL_CTX_CFG, 0, 4⟩
def HAUL_CTX_CFG_EN : Fld := ⟨HAUL_CTX_CFG, 8, 1⟩
def HAUL_CTX_TAIL : Nat := 0x3200002C
def HAUL_CTX_TAIL_TAIL : Fld := ⟨HAUL_CTX_TAIL, 0, 16⟩
def HAUL_CTX_HEAD : Nat := 0x32000030
def HAUL_CTX_HEAD_HEAD : Fld := ⟨HAUL_CTX_HEAD, 0, 16⟩
def HAUL_LINK_CFG (k : Nat) : Nat := 0x32001000 + 0x40 * k
def HAUL_LINK_CFG_EN (k : Nat) : Fld := ⟨HAUL_LINK_CFG k, 0, 1⟩
def HAUL_LINK_CFG_TSEN (k : Nat) : Fld := ⟨HAUL_LINK_CFG k, 1, 1⟩
def HAUL_LINK_CFG_VC1SH (k : Nat) : Fld := ⟨HAUL_LINK_CFG k, 4, 4⟩
def HAUL_LINK_CFG_QUANT (k : Nat) : Fld := ⟨HAUL_LINK_CFG k, 8, 8⟩
def HAUL_LINK_CFG_LINKID (k : Nat) : Fld := ⟨HAUL_LINK_CFG k, 16, 16⟩
def HAUL_LINK_PORTS (k : Nat) : Nat := 0x32001004 + 0x40 * k
def HAUL_LINK_PORTS_PORT0 (k : Nat) : Fld := ⟨HAUL_LINK_PORTS k, 0, 10⟩
def HAUL_LINK_PORTS_PORT1 (k : Nat) : Fld := ⟨HAUL_LINK_PORTS k, 16, 10⟩
def HAUL_LINK_PORTS_P1EN (k : Nat) : Fld := ⟨HAUL_LINK_PORTS k, 31, 1⟩
def HAUL_LINK_PEER (k : Nat) : Nat := 0x32001008 + 0x40 * k
def HAUL_LINK_PEER_PEERSWID (k : Nat) : Fld := ⟨HAUL_LINK_PEER k, 0, 32⟩
def HAUL_LINK_REV (k : Nat) : Nat := 0x3200100C + 0x40 * k
def HAUL_LINK_REV_REVWAIT (k : Nat) : Fld := ⟨HAUL_LINK_REV k, 0, 16⟩
def HAUL_LINK_REV_REVERT (k : Nat) : Fld := ⟨HAUL_LINK_REV k, 16, 1⟩
def HAUL_LINK_PMAC (k : Nat) : Nat := 0x32001010 + 0x40 * k
def HAUL_LINK_LEVEE (k : Nat) : Nat := 0x32001018 + 0x40 * k
def HAUL_LINK_LEVEE_KM1 (k : Nat) : Fld := ⟨HAUL_LINK_LEVEE k, 0, 6⟩
def HAUL_LINK_LEVEE_NPAR (k : Nat) : Fld := ⟨HAUL_LINK_LEVEE k, 8, 4⟩
def HAUL_LINK_LEVEE_STMO (k : Nat) : Fld := ⟨HAUL_LINK_LEVEE k, 16, 12⟩
def HAUL_LINK_BUF (k : Nat) : Nat := 0x3200101C + 0x40 * k
def HAUL_LINK_BUF_RTXMIB (k : Nat) : Fld := ⟨HAUL_LINK_BUF k, 0, 16⟩
def HAUL_LINK_BUF_RSQMIB (k : Nat) : Fld := ⟨HAUL_LINK_BUF k, 16, 16⟩
def HAUL_LINK_TMR (k : Nat) : Nat := 0x32001020 + 0x40 * k
def HAUL_LINK_TMR_KAINT (k : Nat) : Fld := ⟨HAUL_LINK_TMR k, 0, 8⟩
def HAUL_LINK_TMR_KAMISS (k : Nat) : Fld := ⟨HAUL_LINK_TMR k, 8, 4⟩
def HAUL_LINK_TMR_RMAX (k : Nat) : Fld := ⟨HAUL_LINK_TMR k, 12, 4⟩
def HAUL_LINK_TMR_RTOMIN (k : Nat) : Fld := ⟨HAUL_LINK_TMR k, 16, 16⟩
def HAUL_LINK_TMR2 (k : Nat) : Nat := 0x32001024 + 0x40 * k
def HAUL_LINK_TMR2_RSQTMO (k : Nat) : Fld := ⟨HAUL_LINK_TMR2 k, 0, 16⟩
def HAUL_LINK_TMR2_HOLD (k : Nat) : Fld := ⟨HAUL_LINK_TMR2 k, 16, 16⟩
def HAUL_LINK_STAT (k : Nat) : Nat := 0x32001028 + 0x40 * k
def HAUL_LINK_STAT_STATE (k : Nat) : Fld := ⟨HAUL_LINK_STAT k, 0, 2⟩
def HAUL_LINK_STAT_R0UP (k : Nat) : Fld := ⟨HAUL_LINK_STAT k, 2, 1⟩
def HAUL_LINK_STAT_R1UP (k : Nat) : Fld := ⟨HAUL_LINK_STAT k, 3, 1⟩
def HAUL_LINK_STAT_FAILEVT (k : Nat) : Fld := ⟨HAUL_LINK_STAT k, 4, 1⟩
def HAUL_LINK_STAT_CAUSE (k : Nat) : Fld := ⟨HAUL_LINK_STAT k, 5, 3⟩
def HAUL_LINK_STAT_FAILOVERS (k : Nat) : Fld := ⟨HAUL_LINK_STAT k, 16, 16⟩
def HAUL_LINK_SRTT0 (k : Nat) : Nat := 0x3200102C + 0x40 * k
def HAUL_LINK_SRTT0_SRTT (k : Nat) : Fld := ⟨HAUL_LINK_SRTT0 k, 0, 24⟩
def HAUL_LINK_SRTT1 (k : Nat) : Nat := 0x32001030 + 0x40 * k
def HAUL_LINK_SRTT1_SRTT (k : Nat) : Fld := ⟨HAUL_LINK_SRTT1 k, 0, 24⟩
def HAUL_LINK_RTO (k : Nat) : Nat := 0x32001034 + 0x40 * k
def HAUL_LINK_RTO_RTO (k : Nat) : Fld := ⟨HAUL_LINK_RTO k, 0, 24⟩
def HAUL_LINK_CTL (k : Nat) : Nat := 0x32001038 + 0x40 * k
def HAUL_LINK_CTL_SWITCH (k : Nat) : Fld := ⟨HAUL_LINK_CTL k, 0, 1⟩
def HAUL_LINK_USE (k : Nat) : Nat := 0x3200103C + 0x40 * k
def HAUL_LINK_USE_RTXUSE (k : Nat) : Fld := ⟨HAUL_LINK_USE k, 0, 16⟩
def HAUL_LINK_USE_RSQUSE (k : Nat) : Fld := ⟨HAUL_LINK_USE k, 16, 16⟩
def HAUL_LCNT (k : Nat) (r : Nat) : Nat := 0x32003000 + 0x40 * k + 4 * r
def HAUL_LCNT_COUNT (k : Nat) (r : Nat) : Fld := ⟨HAUL_LCNT k r, 0, 32⟩
def HAUL_MSEC (i : Nat) : Nat := 0x32010000 + 4 * i
def HAUL_MSEC_MODE (i : Nat) : Fld := ⟨HAUL_MSEC i, 0, 2⟩
def HAUL_MSEC_TXAN (i : Nat) : Fld := ⟨HAUL_MSEC i, 2, 2⟩
def HAUL_MSEC_PNWARN (i : Nat) : Fld := ⟨HAUL_MSEC i, 4, 1⟩
def HAUL_MSEC_REPLAY (i : Nat) : Fld := ⟨HAUL_MSEC i, 16, 16⟩
def HAUL_PCNT (i : Nat) (r : Nat) : Nat := 0x32020000 + 0x20 * i + 4 * r
def HAUL_PCNT_COUNT (i : Nat) (r : Nat) : Fld := ⟨HAUL_PCNT i r, 0, 32⟩
def HAUL_SA_KEY (i : Nat) (d : Nat) (a : Nat) (w : Nat) : Nat := 0x32100000 + 0x200 * i + 0x100 * d + 0x40 * a + 4 * w
def HAUL_SA_KEY_KEY (i : Nat) (d : Nat) (a : Nat) (w : Nat) : Fld := ⟨HAUL_SA_KEY i d a w, 0, 32⟩
def HAUL_SA_SALT (i : Nat) (d : Nat) (a : Nat) (w : Nat) : Nat := 0x32100020 + 0x200 * i + 0x100 * d + 0x40 * a + 4 * w
def HAUL_SA_SALT_SALT (i : Nat) (d : Nat) (a : Nat) (w : Nat) : Fld := ⟨HAUL_SA_SALT i d a w, 0, 32⟩
def HAUL_SA_SSCI (i : Nat) (d : Nat) (a : Nat) : Nat := 0x3210002C + 0x200 * i + 0x100 * d + 0x40 * a
def HAUL_SA_SSCI_SSCI (i : Nat) (d : Nat) (a : Nat) : Fld := ⟨HAUL_SA_SSCI i d a, 0, 32⟩
def HAUL_SA_PN (i : Nat) (d : Nat) (a : Nat) : Nat := 0x32100030 + 0x200 * i + 0x100 * d + 0x40 * a
def HAUL_SA_CTL (i : Nat) (d : Nat) (a : Nat) : Nat := 0x32100038 + 0x200 * i + 0x100 * d + 0x40 * a
def HAUL_SA_CTL_VALID (i : Nat) (d : Nat) (a : Nat) : Fld := ⟨HAUL_SA_CTL i d a, 0, 1⟩
def HAUL_SA_CTL_INUSE (i : Nat) (d : Nat) (a : Nat) : Fld := ⟨HAUL_SA_CTL i d a, 1, 1⟩
def SLU_CFG (m : Nat) : Nat := 0x40000000 + 0x1000000 * m
def SLU_CFG_SEED (m : Nat) : Fld := ⟨SLU_CFG m, 0, 32⟩
def SLU_STAT (m : Nat) : Nat := 0x40000004 + 0x1000000 * m
def SLU_STAT_INSVC (m : Nat) : Fld := ⟨SLU_STAT m, 0, 8⟩
def SLU_STAT_SPARES (m : Nat) : Fld := ⟨SLU_STAT m, 8, 4⟩
def SLU_STAT_KLOADED (m : Nat) : Fld := ⟨SLU_STAT m, 16, 8⟩
def SLU_CNT (m : Nat) (s : Nat) : Nat := 0x40000040 + 0x1000000 * m + 4 * s
def SLU_CNT_COUNT (m : Nat) (s : Nat) : Fld := ⟨SLU_CNT m s, 0, 32⟩
def SLU_ENG_POOL (m : Nat) (r : Nat) : Nat := 0x40000100 + 0x1000000 * m + 4 * r
def SLU_ENG_POOL_POOL (m : Nat) (r : Nat) : Fld := ⟨SLU_ENG_POOL m r, 0, 32⟩
def SLU_KPRES (m : Nat) (w : Nat) : Nat := 0x40000200 + 0x1000000 * m + 4 * w
def SLU_KPRES_PRESENT (m : Nat) (w : Nat) : Fld := ⟨SLU_KPRES m w, 0, 32⟩
def SLU_KVER (m : Nat) (v : Nat) : Nat := 0x40000220 + 0x1000000 * m + 4 * v
def SLU_KVER_KVER (m : Nat) (v : Nat) : Fld := ⟨SLU_KVER m v, 0, 32⟩
def SLU_WQ_BASE (m : Nat) (q : Nat) : Nat := 0x40001000 + 0x1000000 * m + 0x40 * q
def SLU_WQ_CFG (m : Nat) (q : Nat) : Nat := 0x40001008 + 0x1000000 * m + 0x40 * q
def SLU_WQ_CFG_LOG2SIZE (m : Nat) (q : Nat) : Fld := ⟨SLU_WQ_CFG m q, 0, 5⟩
def SLU_WQ_CFG_EN (m : Nat) (q : Nat) : Fld := ⟨SLU_WQ_CFG m q, 8, 1⟩
def SLU_WQ_CFG_PRIO (m : Nat) (q : Nat) : Fld := ⟨SLU_WQ_CFG m q, 9, 2⟩
def SLU_WQ_CFG_JOBQ (m : Nat) (q : Nat) : Fld := ⟨SLU_WQ_CFG m q, 11, 1⟩
def SLU_WQ_CFG_POOL (m : Nat) (q : Nat) : Fld := ⟨SLU_WQ_CFG m q, 12, 4⟩
def SLU_WQ_CFG_JIDX (m : Nat) (q : Nat) : Fld := ⟨SLU_WQ_CFG m q, 16, 12⟩
def SLU_WQ_TAIL (m : Nat) (q : Nat) : Nat := 0x4000100C + 0x1000000 * m + 0x40 * q
def SLU_WQ_TAIL_TAIL (m : Nat) (q : Nat) : Fld := ⟨SLU_WQ_TAIL m q, 0, 16⟩
def SLU_WQ_HEAD (m : Nat) (q : Nat) : Nat := 0x40001010 + 0x1000000 * m + 0x40 * q
def SLU_WQ_HEAD_HEAD (m : Nat) (q : Nat) : Fld := ⟨SLU_WQ_HEAD m q, 0, 16⟩
def SLU_WQ_HEAD_CRWAIT (m : Nat) (q : Nat) : Fld := ⟨SLU_WQ_HEAD m q, 16, 1⟩
def SLU_WQ_HEAD_STOPPED (m : Nat) (q : Nat) : Fld := ⟨SLU_WQ_HEAD m q, 17, 1⟩
def SLU_WQ_WDOG (m : Nat) (q : Nat) : Nat := 0x40001014 + 0x1000000 * m + 0x40 * q
def SLU_WQ_WDOG_TURNS (m : Nat) (q : Nat) : Fld := ⟨SLU_WQ_WDOG m q, 0, 16⟩
def SLU_WQ_CR_BASE (m : Nat) (q : Nat) : Nat := 0x40001018 + 0x1000000 * m + 0x40 * q
def SLU_WQ_CR_CFG (m : Nat) (q : Nat) : Nat := 0x40001020 + 0x1000000 * m + 0x40 * q
def SLU_WQ_CR_CFG_LOG2SIZE (m : Nat) (q : Nat) : Fld := ⟨SLU_WQ_CR_CFG m q, 0, 5⟩
def SLU_WQ_CR_CFG_EN (m : Nat) (q : Nat) : Fld := ⟨SLU_WQ_CR_CFG m q, 8, 1⟩
def SLU_WQ_CR_HEAD (m : Nat) (q : Nat) : Nat := 0x40001024 + 0x1000000 * m + 0x40 * q
def SLU_WQ_CR_HEAD_HEAD (m : Nat) (q : Nat) : Fld := ⟨SLU_WQ_CR_HEAD m q, 0, 16⟩
def SLU_WQ_CR_TAIL (m : Nat) (q : Nat) : Nat := 0x40001028 + 0x1000000 * m + 0x40 * q
def SLU_WQ_CR_TAIL_TAIL (m : Nat) (q : Nat) : Fld := ⟨SLU_WQ_CR_TAIL m q, 0, 16⟩
def SLU_WQ_CTL (m : Nat) (q : Nat) : Nat := 0x4000102C + 0x1000000 * m + 0x40 * q
def SLU_WQ_CTL_FLUSH (m : Nat) (q : Nat) : Fld := ⟨SLU_WQ_CTL m q, 0, 1⟩
def SLU_WQ_CTL_BUSY (m : Nat) (q : Nat) : Fld := ⟨SLU_WQ_CTL m q, 1, 1⟩
def SLU_WIN (m : Nat) (q : Nat) (w : Nat) : Nat := 0x40003000 + 0x1000000 * m + 0x20 * q + 8 * w
def SLU_WIN_BASE (m : Nat) (q : Nat) (w : Nat) : Fld := ⟨SLU_WIN m q w, 0, 23⟩
def SLU_WIN_SIZE (m : Nat) (q : Nat) (w : Nat) : Fld := ⟨SLU_WIN m q w + 4, 0, 23⟩
def SLU_WIN_SPACE (m : Nat) (q : Nat) (w : Nat) : Fld := ⟨SLU_WIN m q w + 4, 28, 1⟩
def SLU_WIN_WR (m : Nat) (q : Nat) (w : Nat) : Fld := ⟨SLU_WIN m q w + 4, 29, 1⟩
def SLU_WIN_VALID (m : Nat) (q : Nat) (w : Nat) : Fld := ⟨SLU_WIN m q w + 4, 30, 1⟩
def FLUME_STAT : Nat := 0x48000004
def FLUME_STAT_INSVC : Fld := ⟨FLUME_STAT, 0, 4⟩
def FLUME_STAT_DREGEN : Fld := ⟨FLUME_STAT, 16, 16⟩
def FLUME_CNT (r : Nat) : Nat := 0x48000040 + 4 * r
def FLUME_CNT_COUNT (r : Nat) : Fld := ⟨FLUME_CNT r, 0, 32⟩
def FLUME_DREG_A (r : Nat) : Nat := 0x48000100 + 0x10 * r
def FLUME_DREG_A_BASE (r : Nat) : Fld := ⟨FLUME_DREG_A r, 0, 20⟩
def FLUME_DREG_B (r : Nat) : Nat := 0x48000104 + 0x10 * r
def FLUME_DREG_B_NCHUNK (r : Nat) : Fld := ⟨FLUME_DREG_B r, 0, 21⟩
def FLUME_DREG_B_CELOG (r : Nat) : Fld := ⟨FLUME_DREG_B r, 24, 5⟩
def FLUME_DREG_C (r : Nat) : Nat := 0x48000108 + 0x10 * r
def FLUME_DREG_C_RFMT (r : Nat) : Fld := ⟨FLUME_DREG_C r, 0, 8⟩
def FLUME_DREG_C_EN (r : Nat) : Fld := ⟨FLUME_DREG_C r, 8, 1⟩
def FLUME_DREG_C_GBIND (r : Nat) : Fld := ⟨FLUME_DREG_C r, 9, 1⟩
def FLUME_DREG_C_GIDX (r : Nat) : Fld := ⟨FLUME_DREG_C r, 16, 16⟩
def FLUME_DREG_D (r : Nat) : Nat := 0x4800010C + 0x10 * r
def FLUME_DREG_D_CBASE (r : Nat) : Fld := ⟨FLUME_DREG_D r, 0, 32⟩
def FLUME_WQ_BASE (q : Nat) : Nat := 0x48001000 + 0x40 * q
def FLUME_WQ_CFG (q : Nat) : Nat := 0x48001008 + 0x40 * q
def FLUME_WQ_CFG_LOG2SIZE (q : Nat) : Fld := ⟨FLUME_WQ_CFG q, 0, 5⟩
def FLUME_WQ_CFG_EN (q : Nat) : Fld := ⟨FLUME_WQ_CFG q, 8, 1⟩
def FLUME_WQ_CFG_PRIO (q : Nat) : Fld := ⟨FLUME_WQ_CFG q, 9, 2⟩
def FLUME_WQ_TAIL (q : Nat) : Nat := 0x4800100C + 0x40 * q
def FLUME_WQ_TAIL_TAIL (q : Nat) : Fld := ⟨FLUME_WQ_TAIL q, 0, 16⟩
def FLUME_WQ_HEAD (q : Nat) : Nat := 0x48001010 + 0x40 * q
def FLUME_WQ_HEAD_HEAD (q : Nat) : Fld := ⟨FLUME_WQ_HEAD q, 0, 16⟩
def FLUME_WQ_HEAD_CRWAIT (q : Nat) : Fld := ⟨FLUME_WQ_HEAD q, 16, 1⟩
def FLUME_WQ_HEAD_STOPPED (q : Nat) : Fld := ⟨FLUME_WQ_HEAD q, 17, 1⟩
def FLUME_WQ_WDOG (q : Nat) : Nat := 0x48001014 + 0x40 * q
def FLUME_WQ_WDOG_TURNS (q : Nat) : Fld := ⟨FLUME_WQ_WDOG q, 0, 16⟩
def FLUME_WQ_CR_BASE (q : Nat) : Nat := 0x48001018 + 0x40 * q
def FLUME_WQ_CR_CFG (q : Nat) : Nat := 0x48001020 + 0x40 * q
def FLUME_WQ_CR_CFG_LOG2SIZE (q : Nat) : Fld := ⟨FLUME_WQ_CR_CFG q, 0, 5⟩
def FLUME_WQ_CR_CFG_EN (q : Nat) : Fld := ⟨FLUME_WQ_CR_CFG q, 8, 1⟩
def FLUME_WQ_CR_HEAD (q : Nat) : Nat := 0x48001024 + 0x40 * q
def FLUME_WQ_CR_HEAD_HEAD (q : Nat) : Fld := ⟨FLUME_WQ_CR_HEAD q, 0, 16⟩
def FLUME_WQ_CR_TAIL (q : Nat) : Nat := 0x48001028 + 0x40 * q
def FLUME_WQ_CR_TAIL_TAIL (q : Nat) : Fld := ⟨FLUME_WQ_CR_TAIL q, 0, 16⟩
def FLUME_WQ_CTL (q : Nat) : Nat := 0x4800102C + 0x40 * q
def FLUME_WQ_CTL_FLUSH (q : Nat) : Fld := ⟨FLUME_WQ_CTL q, 0, 1⟩
def FLUME_WQ_CTL_BUSY (q : Nat) : Fld := ⟨FLUME_WQ_CTL q, 1, 1⟩
def FLUME_WIN (q : Nat) (w : Nat) : Nat := 0x48003000 + 0x20 * q + 8 * w
def FLUME_WIN_BASE (q : Nat) (w : Nat) : Fld := ⟨FLUME_WIN q w, 0, 23⟩
def FLUME_WIN_SIZE (q : Nat) (w : Nat) : Fld := ⟨FLUME_WIN q w + 4, 0, 23⟩
def FLUME_WIN_SPACE (q : Nat) (w : Nat) : Fld := ⟨FLUME_WIN q w + 4, 28, 1⟩
def FLUME_WIN_WR (q : Nat) (w : Nat) : Fld := ⟨FLUME_WIN q w + 4, 29, 1⟩
def FLUME_WIN_VALID (q : Nat) (w : Nat) : Fld := ⟨FLUME_WIN q w + 4, 30, 1⟩
def GAUGE_CLR_A : Nat := 0x50000000
def GAUGE_CLR_A_FIRST : Fld := ⟨GAUGE_CLR_A, 0, 15⟩
def GAUGE_CLR_A_NUM : Fld := ⟨GAUGE_CLR_A, 16, 15⟩
def GAUGE_CLR_B : Nat := 0x50000004
def GAUGE_CLR_B_GO : Fld := ⟨GAUGE_CLR_B, 0, 1⟩
def GAUGE_CLR_B_BUSY : Fld := ⟨GAUGE_CLR_B, 1, 1⟩
def GAUGE_UCFG : Nat := 0x50000008
def GAUGE_UCFG_PORTS : Fld := ⟨GAUGE_UCFG, 0, 1⟩
def GAUGE_UCFG_FOVFEVT : Fld := ⟨GAUGE_UCFG, 1, 1⟩
def GAUGE_UDENY : Nat := 0x5000000C
def GAUGE_UDENY_COUNT : Fld := ⟨GAUGE_UDENY, 0, 32⟩
def GAUGE_TEL_CFG : Nat := 0x50000010
def GAUGE_TEL_CFG_TC : Fld := ⟨GAUGE_TEL_CFG, 0, 3⟩
def GAUGE_TEL_MGTDA : Nat := 0x50000018
def GAUGE_TEL_CNT (r : Nat) : Nat := 0x50000020 + 4 * r
def GAUGE_TEL_CNT_COUNT (r : Nat) : Fld := ⟨GAUGE_TEL_CNT r, 0, 32⟩
def GAUGE_SNAP_CNT : Nat := 0x50000030
def GAUGE_SNAP_CNT_LATE : Fld := ⟨GAUGE_SNAP_CNT, 0, 16⟩
def GAUGE_SNAP_CNT_DROP : Fld := ⟨GAUGE_SNAP_CNT, 16, 16⟩
def GAUGE_SRING_BASE : Nat := 0x50000040
def GAUGE_SRING_CFG : Nat := 0x50000048
def GAUGE_SRING_CFG_LOG2SIZE : Fld := ⟨GAUGE_SRING_CFG, 0, 5⟩
def GAUGE_SRING_CFG_EN : Fld := ⟨GAUGE_SRING_CFG, 8, 1⟩
def GAUGE_SRING_HEAD : Nat := 0x5000004C
def GAUGE_SRING_HEAD_HEAD : Fld := ⟨GAUGE_SRING_HEAD, 0, 16⟩
def GAUGE_SRING_TAIL : Nat := 0x50000050
def GAUGE_SRING_TAIL_TAIL : Fld := ⟨GAUGE_SRING_TAIL, 0, 16⟩
def GAUGE_SMP_CNT (r : Nat) : Nat := 0x50000060 + 4 * r
def GAUGE_SMP_CNT_COUNT (r : Nat) : Fld := ⟨GAUGE_SMP_CNT r, 0, 32⟩
def GAUGE_SET_A (s : Nat) : Nat := 0x50001000 + 0x20 * s
def GAUGE_SET_A_FIRST (s : Nat) : Fld := ⟨GAUGE_SET_A s, 0, 15⟩
def GAUGE_SET_A_NUM (s : Nat) : Fld := ⟨GAUGE_SET_A s, 16, 15⟩
def GAUGE_SET_B (s : Nat) : Nat := 0x50001004 + 0x20 * s
def GAUGE_SET_B_INTERVAL (s : Nat) : Fld := ⟨GAUGE_SET_B s, 0, 16⟩
def GAUGE_SET_B_PHASE (s : Nat) : Fld := ⟨GAUGE_SET_B s, 16, 16⟩
def GAUGE_SET_RBASE (s : Nat) : Nat := 0x50001008 + 0x20 * s
def GAUGE_SET_RCFG (s : Nat) : Nat := 0x50001010 + 0x20 * s
def GAUGE_SET_RCFG_LOG2SIZE (s : Nat) : Fld := ⟨GAUGE_SET_RCFG s, 0, 5⟩
def GAUGE_SET_RCFG_EN (s : Nat) : Fld := ⟨GAUGE_SET_RCFG s, 8, 1⟩
def GAUGE_SET_RCFG_USER (s : Nat) : Fld := ⟨GAUGE_SET_RCFG s, 9, 1⟩
def GAUGE_SET_HEAD (s : Nat) : Nat := 0x50001014 + 0x20 * s
def GAUGE_SET_HEAD_HEAD (s : Nat) : Fld := ⟨GAUGE_SET_HEAD s, 0, 16⟩
def GAUGE_SET_TAIL (s : Nat) : Nat := 0x50001018 + 0x20 * s
def GAUGE_SET_TAIL_TAIL (s : Nat) : Fld := ⟨GAUGE_SET_TAIL s, 0, 16⟩
def GAUGE_SMP_A (n : Nat) : Nat := 0x50002000 + 0x10 * n
def GAUGE_SMP_A_POINT (n : Nat) : Fld := ⟨GAUGE_SMP_A n, 0, 2⟩
def GAUGE_SMP_A_RANDOM (n : Nat) : Fld := ⟨GAUGE_SMP_A n, 2, 1⟩
def GAUGE_SMP_A_TCMASK (n : Nat) : Fld := ⟨GAUGE_SMP_A n, 8, 8⟩
def GAUGE_SMP_A_PORT (n : Nat) : Fld := ⟨GAUGE_SMP_A n, 16, 10⟩
def GAUGE_SMP_A_ANYPORT (n : Nat) : Fld := ⟨GAUGE_SMP_A n, 26, 1⟩
def GAUGE_SMP_B (n : Nat) : Nat := 0x50002004 + 0x10 * n
def GAUGE_SMP_B_RATE (n : Nat) : Fld := ⟨GAUGE_SMP_B n, 0, 24⟩
def GAUGE_SMP_B_MAXPT (n : Nat) : Fld := ⟨GAUGE_SMP_B n, 24, 8⟩
def GAUGE_SMP_C (n : Nat) : Nat := 0x50002008 + 0x10 * n
def GAUGE_SMP_C_JIDX (n : Nat) : Fld := ⟨GAUGE_SMP_C n, 0, 12⟩
def GAUGE_SMP_C_ANYJOB (n : Nat) : Fld := ⟨GAUGE_SMP_C n, 12, 1⟩
def GAUGE_SMP_C_DROPMASK (n : Nat) : Fld := ⟨GAUGE_SMP_C n, 16, 16⟩
def GAUGE_FLT_A (c : Nat) : Nat := 0x50100000 + 0x10 * c
def GAUGE_FLT_A_SRC (c : Nat) : Fld := ⟨GAUGE_FLT_A c, 0, 4⟩
def GAUGE_FLT_A_PRIV (c : Nat) : Fld := ⟨GAUGE_FLT_A c, 4, 4⟩
def GAUGE_FLT_A_CHAIN (c : Nat) : Fld := ⟨GAUGE_FLT_A c, 8, 1⟩
def GAUGE_FLT_A_OVFEVT (c : Nat) : Fld := ⟨GAUGE_FLT_A c, 9, 1⟩
def GAUGE_FLT_A_USER (c : Nat) : Fld := ⟨GAUGE_FLT_A c, 10, 1⟩
def GAUGE_FLT_A_CLASSMASK (c : Nat) : Fld := ⟨GAUGE_FLT_A c, 16, 16⟩
def GAUGE_FLT_B (c : Nat) : Nat := 0x50100004 + 0x10 * c
def GAUGE_FLT_B_REQ (c : Nat) : Fld := ⟨GAUGE_FLT_B c, 0, 12⟩
def GAUGE_FLT_B_REQMASK (c : Nat) : Fld := ⟨GAUGE_FLT_B c, 16, 12⟩
def GAUGE_FLT_C (c : Nat) : Nat := 0x50100008 + 0x10 * c
def GAUGE_FLT_C_ALO (c : Nat) : Fld := ⟨GAUGE_FLT_C c, 0, 32⟩
def GAUGE_FLT_D (c : Nat) : Nat := 0x5010000C + 0x10 * c
def GAUGE_FLT_D_AHI (c : Nat) : Fld := ⟨GAUGE_FLT_D c, 0, 32⟩
def GAUGE_CTR (c : Nat) : Nat := 0x50400000 + 8 * c
def GAUGE_CTR_OVF (c : Nat) : Fld := ⟨GAUGE_CTR c + 4, 16, 1⟩
def GAUGE_CTR_CHAIN (c : Nat) : Fld := ⟨GAUGE_CTR c + 4, 17, 1⟩
def GAUGE_CRD (n : Nat) (w : Nat) : Nat := 0x50600000 + 0x10 * n + 4 * w
def GAUGE_CRD_WORD (n : Nat) (w : Nat) : Fld := ⟨GAUGE_CRD n w, 0, 32⟩
def TEST_PORT_LOOP (p : Nat) : Nat := 0x60000000 + 4 * p
def TEST_PORT_LOOP_DEPTH (p : Nat) : Fld := ⟨TEST_PORT_LOOP p, 0, 4⟩
def TEST_PORT_LOOP_TXMODE (p : Nat) : Fld := ⟨TEST_PORT_LOOP p, 4, 1⟩
def TEST_L5_CFG (p : Nat) : Nat := 0x60001000 + 4 * p
def TEST_L5_CFG_TCMASK (p : Nat) : Fld := ⟨TEST_L5_CFG p, 0, 8⟩
def TEST_SPARE_CFG : Nat := 0x60010000
def TEST_SPARE_CFG_LANEAUTO : Fld := ⟨TEST_SPARE_CFG, 0, 1⟩
def TEST_SPARE_CFG_MEMAUTO : Fld := ⟨TEST_SPARE_CFG, 1, 1⟩
def TEST_SPARE_CFG_CETHR : Fld := ⟨TEST_SPARE_CFG, 4, 12⟩
def TEST_SPARE_CFG_CEWIN : Fld := ⟨TEST_SPARE_CFG, 16, 16⟩
def TEST_SPARE_STAT : Nat := 0x60010004
def TEST_SPARE_STAT_CISTSP : Fld := ⟨TEST_SPARE_STAT, 0, 7⟩
def TEST_SPARE_STAT_COMSP : Fld := ⟨TEST_SPARE_STAT, 8, 6⟩
def TEST_SPARE_STAT_BASINSP : Fld := ⟨TEST_SPARE_STAT, 16, 5⟩
def TEST_SPARE_STAT_CORESP : Fld := ⟨TEST_SPARE_STAT, 24, 2⟩
def TEST_SCRUB_CFG : Nat := 0x60010008
def TEST_SCRUB_CFG_RESLINES : Fld := ⟨TEST_SCRUB_CFG, 0, 16⟩
def TEST_SCRUB_CFG_SRAMLINES : Fld := ⟨TEST_SCRUB_CFG, 16, 8⟩
def TEST_LANE_FAIL (x : Nat) : Nat := 0x60010100 + 4 * x
def TEST_LANE_FAIL_FAILED (x : Nat) : Fld := ⟨TEST_LANE_FAIL x, 0, 18⟩
def TEST_HBM_STAT (s : Nat) : Nat := 0x60010200 + 4 * s
def TEST_HBM_STAT_FAILCH (s : Nat) : Fld := ⟨TEST_HBM_STAT s, 0, 5⟩
def TEST_HBM_STAT_COPY (s : Nat) : Fld := ⟨TEST_HBM_STAT s, 5, 1⟩
def TEST_HBM_STAT_PROGRESS (s : Nat) : Fld := ⟨TEST_HBM_STAT s, 6, 8⟩
def TEST_HBM_STAT_PPR (s : Nat) : Fld := ⟨TEST_HBM_STAT s, 16, 8⟩
def TEST_HBM_STAT_EXHAUST (s : Nat) : Fld := ⟨TEST_HBM_STAT s, 24, 1⟩
def TEST_BIST_CTL : Nat := 0x60010300
def TEST_BIST_CTL_TARGET : Fld := ⟨TEST_BIST_CTL, 0, 4⟩
def TEST_BIST_CTL_INDEX : Fld := ⟨TEST_BIST_CTL, 4, 12⟩
def TEST_BIST_CTL_GO : Fld := ⟨TEST_BIST_CTL, 16, 1⟩
def TEST_BIST_CTL_BUSY : Fld := ⟨TEST_BIST_CTL, 17, 1⟩
def TEST_BIST_CTL_RESULT : Fld := ⟨TEST_BIST_CTL, 18, 2⟩
def TEST_D2D_STAT (i : Nat) : Nat := 0x60010400 + 4 * i
def TEST_D2D_STAT_RETRY (i : Nat) : Fld := ⟨TEST_D2D_STAT i, 0, 16⟩
def TEST_D2D_STAT_SPARES (i : Nat) : Fld := ⟨TEST_D2D_STAT i, 16, 4⟩
def TEST_D2D_STAT_FAILED (i : Nat) : Fld := ⟨TEST_D2D_STAT i, 20, 1⟩
def TEST_CORE_STAT : Nat := 0x60010500
def TEST_CORE_STAT_FAILED : Fld := ⟨TEST_CORE_STAT, 0, 18⟩
def TEST_SLU_MAP (m : Nat) (w : Nat) : Nat := 0x60011000 + 0x100 * m + 4 * w
def TEST_SLU_MAP_PHYS (m : Nat) (w : Nat) : Fld := ⟨TEST_SLU_MAP m w, 0, 32⟩
def TEST_BASIN_MAP (w : Nat) : Nat := 0x60011200 + 4 * w
def TEST_BASIN_MAP_PHYS0 (w : Nat) : Fld := ⟨TEST_BASIN_MAP w, 0, 9⟩
def TEST_BASIN_MAP_PHYS1 (w : Nat) : Fld := ⟨TEST_BASIN_MAP w, 16, 9⟩

end R

end Sys2Proof.Machine
end

