-- ==== Sys2Proof/Machine/State.lean ====
section
/-! DEFINITION. The state of the block: every register (in `csr`), table, queue, buffer, counter, mode and pin the spec
gives the VX9, as plain data, the faults and refusals, and the state right after reset. -/

namespace Sys2Proof.Machine

/-- Sparse data by key: strictly rising keys, an absent key reads as the default its reader names. -/
abbrev SMap (α : Type) := List (Nat × α)

/-- Why the block stops. No rule of the spec makes a command stop the model: the type has no constructor, so no
command can fault. A device that stops (R65) is a next state with `power = stopped`. Safe. -/
inductive Fault where
  deriving DecidableEq, Repr

/-- Why a command has no meaning here. -/
inductive Refusal where
  /-- Raised by an arm of `exec` that has no meaning yet. Safe: nothing can be proved of a run that ends here. -/
  | notModelled (mnemonic : String)
  deriving DecidableEq, Repr

/-! ### Non-volatile state (R65, R66, R499: fuses and flash survive everything) -/

/-- A key slot of R56: the two fused digests and its two fuse bits. -/
structure KeySlot where
  ecDigest : List Byte
  lmsDigest : List Byte
  programmed : Bool
  revoked : Bool
  deriving DecidableEq, Repr

/-- The fuses. -/
structure Fuses where
  /-- Part code and stepping (R2, R525). -/
  part : Byte
  stepping : Byte
  /-- Fitted port dies, stacks and compute dies, one bit each (R525). -/
  portDies : BitVec 8
  hbmStacks : BitVec 8
  compute : BitVec 2
  /-- Three copies of the life-cycle state (R72). -/
  lc : BitVec 3 × BitVec 3 × BitVec 3
  slots : List KeySlot
  /-- Bits burned of the SVN thermometer (R57). -/
  svn : Nat
  /-- The Unique Device Secret, 48 bytes; none before it is fused (R70, R73). -/
  uds : List Byte
  /-- Fused word of every other register whose Reset column reads "fuse", by CSR address (R11, R521). -/
  words : SMap Word
  deriving DecidableEq, Repr

/-! ### Power, reset and start-up (chapters 1 and 2) -/

/-- The flash (R47): the image region as written from offset 0, and the identity region. -/
structure Flash where
  image : List Byte
  identity : List Byte
  deriving DecidableEq, Repr

/-- Whether the device runs. `stopped c`: a stopped device, c the STOP code of R68, 0 for SCRAPPED. `resetLow c`: RESET_N
is low, c the STOP code that the next release records. -/
inductive Power where
  | off
  | resetLow (stop : Fin 4)
  | running
  | stopped (code : Fin 4)
  deriving DecidableEq, Repr

/-- Start-up progress that no register shows (R21, R22, R58 to R64, R71, R72). -/
structure Boot where
  /-- The reference monitor has selected a reference and the control-die PLLs run (R21). -/
  clocked : Bool
  /-- Dies released from reset, one bit each, numbered as `DieNo` (R22, R528). -/
  released : BitVec 12
  enclaveUp : Bool
  headerOk : Bool
  ecdsaOk : Bool
  lmsOk : Bool
  hbmDone : Bool
  controlWiped : Bool
  imageRead : Bool
  /-- Bytes of the image read so far, and those of them that wait in the staging buffer of the control die (R60). -/
  flashRead : Nat
  staging : List Byte
  /-- Bytes the ROM loader is writing to flash (R64). -/
  loading : Option (List Byte)
  /-- Life-cycle record supplied through the mailbox (R71). -/
  lcRecord : Option (List Byte)
  /-- Request the enclave has in progress: the target life-cycle state (R72). -/
  pendingLc : Option (BitVec 3)
  /-- PCIE_PERST_N is released (R509). -/
  perstHigh : Bool
  /-- Kernels loaded: KID, SPLIT, LMEM (R311, R312). -/
  kernels : List (Byte × Nat × Nat)
  /-- Header of the image, and SHA-384 of LANES, MEMORY then ENGINES, RUNTIME, KERNELS, POLICY (R76). -/
  header : List Byte
  sectionHash : List (List Byte)
  /-- Cycles of each class in the TURN records (R50, R83). -/
  budgets : List Nat
  /-- Partitions of the reservoir that the image set: base and size in GiB (R184, R188). -/
  parts : List (Nat × Nat)
  /-- The POLICY section (R50). -/
  policy : List Byte
  /-- Certificates that the enclave has signed: of the return DeviceID, and of the Alias key (R73, R75). -/
  returnCert : List Byte
  aliasCert : List Byte
  /-- The first turn boundary has occurred (R77). -/
  turnsBegun : Bool
  deriving DecidableEq, Repr

/-- How far an SPDM exchange has come (R74, R75). -/
inductive SpdmPhase where
  | idle | versioned | capable | negotiated | handshake | session
  deriving DecidableEq, Repr

/-- The SPDM responder (R74): its phase, the transcript, the secrets of the session, and the numbers of secured messages taken and sent. -/
structure Spdm where
  phase : SpdmPhase
  transcript : List Byte
  secret : List Byte
  taken : Nat
  sent : Nat
  deriving DecidableEq, Repr

/-! ### Links (chapter 4) -/

/-- A packet with what the device knows of it. Bytes are as stored: OFP header, payload and trailer, or an Ethernet
frame from DA to FCS, with no join tag (R160). -/
structure Pkt where
  /-- The model's own number of the packet, for PACKET_TAIL_ARRIVAL. -/
  id : Nat
  bytes : List Byte
  /-- OFP packet, else Ethernet frame. -/
  ofp : Bool
  /-- Port of arrival, none for a packet the device builds (R530). -/
  inPort : Option PortNo
  /-- Port account index n = 1024 DEV + port, none for a built packet or ORIG = 1 (R164). -/
  acct : Option (Fin 8192)
  /-- Job-table index the packet is charged to. -/
  job : Option JobIdx
  tc : TC
  lossless : Bool
  /-- Cells charged (R160, R168). -/
  cells : Nat
  /-- Charged to headroom (R170). -/
  headroom : Bool
  /-- Cells of it still in its ingress account (R164): those that have not been spilled. -/
  ingr : Nat
  /-- Credits to return when it leaves the ingress account, with its VC (R171). -/
  creditsDue : Option (BitVec 4 × Nat)
  /-- The CRC of an Ethernet frame over what has arrived of it (R117, R174). -/
  crc : Nat
  /-- Its tail and checks are complete (R174). -/
  whole : Bool
  /-- Sent before its tail was checked (R173). -/
  cutThrough : Bool
  /-- A line of it was read back uncorrectable (R163). -/
  poisoned : Bool
  /-- It passed through the spill region (R469). -/
  spilled : Bool
  /-- Turn of admission (R203, R205). -/
  turn : Nat
  /-- Result word and furrow set, for samplers (R469). -/
  result : Word
  fset : Option (Fin 16384)
  /-- Encapsulation chosen by a next hop: destination MAC, VID, ENC, IPv6 address (R153). -/
  encap : Option (Nat × Nat × Nat × Nat)
  /-- JHOPS of the tag it arrived with, on a join port (R41). -/
  jhops : Nat
  /-- ORIG, DEV and INPORT to send in a join tag (R41). -/
  orig : Bool
  dev : BitVec 3
  inport : PortNo
  /-- Built by this device (R530). -/
  built : Bool
  /-- Place of the canal entry that replicates it (R403). -/
  canal : Option (Fin 4096) := none
  /-- Received as an Ethernet frame. -/
  ether : Bool
  /-- UDP checksum of an encapsulated packet whose tail has not arrived (R124): pseudo-header and datagram so far, and the bytes still to come. -/
  udp : Option (List Byte × Nat) := none
  deriving DecidableEq, Repr

/-- A sequenced pair in the retry buffer (R107): PSEQ, the credits it returns, its five flits, and the packets that end in it. -/
structure RetryPair where
  pseq : BitVec 12
  crvc : BitVec 4
  crcnt : BitVec 10
  flits : List Byte
  pkts : List Pkt
  deriving DecidableEq, Repr

/-- Link state of one OFP or Ethernet port. -/
structure Link where
  /-- Next PSEQ to send, and ACKSEQ last received (R107, R108). -/
  txSeq : BitVec 12
  txAcked : BitVec 12
  /-- Sequenced pairs sent and not acknowledged, oldest first (R107, R109). -/
  retry : List RetryPair
  /-- Credits to return that wait for room in the retry buffer (R109, R111). -/
  due : List (BitVec 4 × Nat)
  /-- Slot of the lane that the next flit pair goes on, and the FRAME of the next marker (R99, R103). -/
  nextLane : Nat
  frame : BitVec 16
  replays : Nat
  /-- Last in-order pair received; a NAK is outstanding (R108). -/
  rxSeq : BitVec 12
  nakOut : Bool
  /-- Bytes so far of the packet that the last accepted flit left unfinished (R102). -/
  part : Option (List Byte)
  /-- Credits held for each VC in 64 B units, as transmitter (R111). -/
  credits : List Nat
  /-- Credits granted to the peer and not yet used, per VC, as receiver (R111, R112). -/
  granted : List Nat
  /-- Consecutive bad markers per lane slot (R106). -/
  badMarks : List Nat
  /-- Signal is present on each lane. -/
  signal : Bool
  /-- FAULT sent with HOLD, and FAULT of a HOLD that the peer sends (R103). -/
  holdFault : BitVec 8
  peerHold : Option (BitVec 8)
  /-- TXACK to send, per lane slot (R103). -/
  txack : List (BitVec 2)
  /-- Last valid marker of each lane slot since training or a relock began (R105, R129). -/
  marks : List (Option Marker)
  /-- EXPECT of each lane, and PEER, as the training or relock in progress took them (R133). -/
  expect : List (BitVec 16)
  peer : Word
  /-- Steps that the peer's requests have moved the five transmit taps of each lane, pre-cursors 3 to 1, main, post-cursor (R95, R103). -/
  taps : List (List Int)
  /-- Transmit settings that the module of a C2M port requested (R95). -/
  hostTx : DWord
  /-- Stage as PORT_PSTAT.STATE shows it outside loopback (R105, R132). -/
  stage : Nat
  /-- Paused priorities received (R127). -/
  paused : BitVec 8
  /-- Receive buffer in front of the pipeline, oldest first (R192), and packets the pipelines have taken from it (R191). -/
  rx : List RxFrame
  taken : Nat
  /-- L4 loop buffer (R492), and the pairs that a near-end loopback has yet to bring back (R131). -/
  loop : List (List Byte)
  looped : List (List Byte)
  /-- Packets sent with VC 1 already through this port while it was a dateline (R113). -/
  dateRep : Nat
  /-- Last time exchange received: its XSEQ, TTX and own receive time (R122). -/
  echo : Option (BitVec 16 × TimeVal × TimeVal)
  /-- Receive-equaliser state of each lane, and the four profiles captured from it (R129, R130). -/
  eq : List DWord
  profiles : List (List DWord)
  /-- Turns the port has been down, none while up (R204). -/
  downSince : Option Nat
  /-- DOWNFLUSH has passed: packets for the port are dropped (R204). -/
  flushed : Bool
  /-- Consecutive failed Ethernet start-ups (R97). -/
  ethFails : Nat
  /-- Squelched by a bypass window (R448). -/
  squelched : Bool
  /-- A packet being cut through whose tail has not arrived, with the bytes that open the frame sent (R174). -/
  tx : Option (Pkt × List Byte)
  /-- A queue of the port has waited for credit in this turn (R454 counter 15). -/
  waited : Bool
  /-- The time exchange of this turn has been sent (R122). -/
  exchanged : Bool
  /-- The join check failed: the port stays down until the next start-up (R43). -/
  joinHeld : Bool
  /-- XOFF state of each TC (R170). -/
  xoff : BitVec 8
  /-- Ingress account cells per TC and headroom cells (R164, R170). -/
  ingress : List Nat
  hdrmUse : Nat
  deriving DecidableEq, Repr

/-! ### Forwarding tables (chapter 5) -/

/-- A table entry as the update ring writes it: DATA of R153, with STATIC and HIT for TABLE 5. -/
structure TblEntry where
  data : List Byte
  static_ : Bool
  hit : Bool
  deriving DecidableEq, Repr

/-- A change taken and not yet visible (R155). -/
structure TblChange where
  table : Fin 8
  key : Nat
  val : Option TblEntry
  deriving DecidableEq, Repr

structure Tables where
  /-- Visible entries by table and key. Keys of indexed tables are INDEX; of keyed tables the packed key. -/
  vis : List (SMap TblEntry)
  /-- Changes of this turn: aging removals, then learns, then software batches (R155). -/
  aged : List TblChange
  learned : List TblChange
  batch : List TblChange
  /-- Records of the batch at HEAD that are done, and its length; 0 when no batch is being taken (R154, R156). -/
  batchDone : Nat
  batchLen : Nat
  /-- Cost taken this turn (R154). -/
  spent : Nat
  /-- Learns and punts of this turn (R149, R137). -/
  learns : Nat
  punts : List Nat
  /-- Place of the aging sweep, turns since its last quantum fell due, and a quantum is due (R150). -/
  agePos : Nat
  ageWait : Nat
  ageDue : Bool
  /-- HIT at the start of the turn of the MAC entries whose HIT has changed in it (R155). -/
  hitWas : SMap Bool
  /-- Copies with bad parity: table (8 the job map, 9 the job table), index, port die (R151). Place of the scrub (R152). -/
  bad : List (Nat × Nat × Nat)
  scrubPos : Nat
  /-- Punts beyond RATE by reason, parse truncations, and result words of a reserved KIND (R136, R137, R139). -/
  puntDrops : List Nat
  truncs : Nat
  badKinds : Nat
  deriving DecidableEq, Repr

/-! ### Cistern, spillway and queues (chapters 6 and 7) -/

/-- A unicast queue (R175): its packets in order. Their cells stand in the head segment H, then in the spilled pages S
(counted by CIST_QSPILL), then in the tail segment T. -/
structure UQueue where
  pkts : List Pkt
  /-- Cells of H and of T. -/
  h : Nat
  t : Nat
  /-- Cells of H and T charged to headroom (R170), and the cells it holds of the shared pool (R169). -/
  hdrm : Nat
  shared : Nat
  spilling : Bool
  /-- Prefetches in flight (R178). -/
  prefetch : Nat
  /-- Cells of the oldest spilled page whose packets a flush has dropped (R205). -/
  dead : Nat
  deriving DecidableEq, Repr

/-- A packet of a multicast queue (R201, R202). -/
structure MPkt where
  pkt : Pkt
  residue : List PortNo
  /-- Copies placed and not sent. -/
  placed : Nat
  /-- The replicator has taken it. -/
  taken : Bool
  targets : List PortNo
  deriving DecidableEq, Repr

/-- A packet that an engine has built and that waits for admission (R530): the engine, the multicast group and multicast queue it
goes out by (none: its DST is looked up), and the packet. -/
structure Built where
  engine : Nat
  route : Option (Nat × Nat)
  pkt : Pkt
  deriving DecidableEq, Repr

/-- Scheduler state of one port (R194, R195, R226). -/
structure Sched where
  deficit : List Int
  uniDeficit : List Int
  mcDeficit : List Int
  /-- TC served last, and for each TC whether its multicast FIFO was. -/
  lastTc : Nat
  lastMc : List Bool
  /-- Token counts in 25ths of a bit, per TC and for the port, and the RAW tick they were brought up to date at. -/
  tokens : List Int
  portTokens : Int
  tick : Nat
  /-- Grant counter of scheduled mode, none for no limit (R226). -/
  grant : Option Nat
  deriving DecidableEq, Repr

structure Cistern where
  uq : SMap UQueue
  mq : SMap (List MPkt)
  /-- Multicast FIFOs by 8 port + TC: references (queue, packet id) (R201). -/
  fifo : SMap (List (Nat × Nat))
  sched : SMap Sched
  /-- Free cells of the cistern, cells in use of the headroom pool and of the shared pool (R166, R170). -/
  free : Nat
  /-- Cells of retired banks that still hold packets: they leave the free list as they are freed (R486). -/
  retiring : Nat
  hdrmUsed : Nat
  sharedUsed : Nat
  /-- Shared cells of the multicast queues, by m (R169). -/
  mqShared : SMap Nat
  /-- A packet was refused for want of headroom since reset (R171); FREE lies below GXOFF (R170). -/
  hdrmEvent : Bool
  gx : Bool
  /-- Page allowances left this turn (R180). -/
  wleft : Nat
  rleft : Nat
  /-- Queues that want a prefetch, in the order they raised it, and the queue whose page was written last (R180). -/
  raised : List Nat
  lastSpill : Nat
  /-- Queue under QUE_FLUSH and the admission count of its write (R205). -/
  flushing : Option (Nat × Nat)
  /-- Packets that take no egress queue (R162): control cores, with the punt reason of R137 (0 for management packets), basin
  input, tally input. -/
  toCores : List (Nat × Pkt)
  toBasin : List Pkt
  toTally : List Pkt
  /-- Packets built and waiting for admission (R530). -/
  built : List Built
  /-- Fence acknowledgements waiting (R234). -/
  fenceAcks : List Pkt
  nextId : Nat
  deriving DecidableEq, Repr

/-! ### Spraying (chapter 8) -/

structure Spray where
  /-- Flowlet tables: 131,072 d + index ↦ (member index in its set, last seen) (R215). -/
  flow : SMap (Nat × Nat)
  /-- Packet counter of each pipeline (R212). -/
  pipeCnt : SMap Nat
  /-- Place of the imbalance check and checks since the last detection of a set (R221, R223). -/
  checkPos : Nat
  sinceDet : SMap Nat
  /-- Sets checked since the last map, as the first and how many, and detections (escalations: true) in order (R220). -/
  visited : Nat × Nat
  detections : List (Bool × Nat)
  /-- Turn T0 of the bank in force (R225). -/
  start : Nat
  /-- Turn of the last map taken, whether it was marked late, and the number of the next (R470, R471). -/
  mapTurn : Option Nat
  mapLate : Bool
  mapSeq : Nat
  /-- Running count of telemetry packets (R471). -/
  telSeq : Nat
  /-- Sets whose extent was reported invalid since they were last written (R208). -/
  badSeen : List Nat
  /-- The boundary of a pending swap has come (R228), and the ports whose grant class 6 left unloaded in this turn (R227). -/
  swapDue : Bool
  unloaded : List Nat
  deriving DecidableEq, Repr

/-! ### Basin (chapters 9 and 10) -/

/-- State of a chunk context (R253). -/
inductive CtxState where
  | opened | emitting | done | aborted | timedout
  deriving DecidableEq, Repr

structure Ctx where
  gidx : GroupIdx
  chunk : Word
  /-- The group entry the context was opened under. -/
  entry : List Byte
  st : CtxState
  /-- Turn the state was entered, and turn the context was opened. -/
  since : Nat
  opened : Nat
  overflow : Bool
  /-- Numbers of its slots in partition 4, for an overflow chunk (R256). -/
  places : List Nat
  /-- Slots and key blocks held. -/
  slots : Nat
  kblocks : Nat
  /-- Arrived (member, piece) pairs (R257). -/
  arrived : List (Nat × Nat)
  /-- MCOUNT of each member seen (R248). -/
  mcount : List (Nat × Nat)
  /-- Accumulator words by element or row, absent at the identity of OP (R276). -/
  acc : SMap Word
  /-- Keys in row order, for a sparse chunk (R286). -/
  keys : List Word
  ovfl : Nat
  dups : Nat
  /-- Pieces that hold data of an uncorrectable line (R265). -/
  poison : List Nat
  /-- Turn of the commit point, abort or timeout (R267). -/
  markTurn : Nat
  deriving DecidableEq, Repr

structure Basin where
  groups : SMap (List Byte)
  map : SMap Nat
  scatter : SMap (BitVec 24)
  ctx : SMap Ctx
  /-- Stochastic rounding generator of each lane (R283). -/
  lfsr : SMap Word
  /-- Status packets waiting (R266). -/
  status : List Pkt
  /-- Groups whose first overflow was reported (R252). -/
  ovfSeen : List Nat
  /-- Delta regions whose first refused chunk was reported (R354). -/
  regSeen : List Nat
  /-- Class 3 overran: the contexts of the turn before are still visited (R83, R263). -/
  visitLate : Bool
  deriving DecidableEq, Repr

/-! ### Sluice and flume engines (chapters 11 and 13) -/

/-- A descriptor taken from a work queue (R296), with the model's own number of it. -/
structure Job where
  id : Nat
  didx : Nat
  bytes : List Byte
  /-- Rows or elements of a tile, and tiles (R296). A flume descriptor has one tile. -/
  per : Nat
  tiles : Nat
  /-- Tiles dealt, computed and ended, each in tile order, and those that ended without error. -/
  dealt : Nat
  computed : Nat
  ended : Nat
  good : Nat
  /-- Tiles that met an error, with its STATUS. -/
  errs : List (Nat × Nat)
  /-- STATUS once it has completed. -/
  status : Option Nat
  detail : Nat
  detail2 : Nat
  prevTurn : Nat
  /-- Turn it completed in. -/
  turn : Nat
  sat : Nat
  cycles : Nat
  /-- Watchdog charge in 128ths of a turn (R307). -/
  charge : Nat
  /-- What the tiles of a loadable kernel have written: tile, address and length of each access (R305, R313). -/
  wrote : List (Nat × Nat × Nat)
  deriving DecidableEq, Repr

/-- Descriptors of a queue that are taken and whose records are not written, oldest first; and TAIL at a write of FLUSH, with the boundaries
that there had been (R308). -/
structure WorkQ where
  taken : List Job
  flushTail : Option (Nat × Nat)
  deriving DecidableEq, Repr

structure Engines where
  /-- Sluice queue q of die m by 64 m + q, flume queue q by 128 + q. -/
  wq : SMap WorkQ
  nextJob : Nat
  /-- Running tile of engine 128 m + e: queue, descriptor number, tile (R296). -/
  running : SMap (Nat × Nat × Nat)
  /-- Queue served last, by die, pool and PRIO. -/
  rr : SMap Nat
  /-- Logical engines out of service (R488). -/
  outOfService : List Nat
  deriving DecidableEq, Repr

/-! ### Long haul (chapter 12) -/

/-- A data frame held for retransmission (R334): RAW at its last transmission, and the route of that transmission. -/
structure RtxFrame where
  hseq : Nat
  inner : List Byte
  sentRaw : Nat
  route : Fin 2
  deriving DecidableEq, Repr

/-- A share of a link (R333). -/
structure Share where
  nextHseq : Nat
  rtx : List RtxFrame
  /-- Consecutive RTO expiries and the RTO's multiple (R338). -/
  expiries : Nat
  backoff : Nat
  /-- Receiver: E, the frames held above it, and the delivered frames the headgate has yet to take (R339, R340). -/
  expect : Nat
  held : SMap (List Byte)
  deliver : List (List Byte)
  /-- Missing frames below `nakTo` are to be NAKed, and those below `nakd` have been (R336). -/
  nakTo : Nat
  nakd : Nat
  deriving DecidableEq, Repr

/-- A data frame of a stripe as received: inner frame, share, HSEQ, RETX. -/
structure StripeData where
  inner : List Byte
  share : Fin 2
  hseq : Nat
  retx : Bool
  deriving DecidableEq, Repr

/-- A stripe being received on a route (R332): its length once a parity frame has given it, data by position, parity units by index. -/
structure RxStripe where
  num : Nat
  total : Option Nat
  data : SMap StripeData
  parity : SMap (List Byte)
  deriving DecidableEq, Repr

/-- A parity frame that waits to be sent (R330): its route, stripe, data frames, NPAR, PIDX and unit. -/
structure ParityFrame where
  route : Fin 2
  stripe : Nat
  count : Nat
  npar : Nat
  pidx : Nat
  unit : List Byte
  deriving DecidableEq, Repr

/-- A route of a link (R342): a valid keepalive has arrived within KAMISS × KAINT, RXr of the peer's latest keepalive, the SWID is
wrong, RMAX was reached, SRTT and RTTVAR in 2^-16 ns, the last keepalive received, the last stripe closed, the stripe being received, the
latest stripe received that is final (R332). -/
structure Route where
  rx : Bool
  peerRx : Bool
  badSwid : Bool
  rmaxHit : Bool
  srtt : Option Int
  rttvar : Int
  echo : Option (BitVec 16 × TimeVal × TimeVal)
  lastStripe : Option Nat
  stripe : Option RxStripe
  rxFinal : Option Nat
  deriving DecidableEq, Repr

structure HLink where
  share0 : Share
  share1 : Share
  route0 : Route
  route1 : Route
  /-- Keepalives sent, and the highest number received. -/
  kaSeq : Nat
  peerKaSeq : Option Nat
  incarn : Option Word
  ackDue : Bool
  /-- Transmit FIFO of one inner frame (R320). -/
  txFifo : Option (List Byte)
  /-- Open transmit stripe: its number, K and NPAR, and the inner frames sent in it (R330). -/
  stripe : Nat
  k : Nat
  npar : Nat
  units : List (List Byte)
  parityQ : List ParityFrame
  /-- Retransmissions waiting: share and HSEQ. -/
  rtxQ : List (Fin 2 × Nat)
  /-- Unacknowledged frames last sent on a failed route, retransmitted at the next ACK or keepalive (R343): share and HSEQ. -/
  resend : List (Fin 2 × Nat)
  deriving DecidableEq, Repr

structure Haul where
  links : SMap HLink
  /-- Own INCARN (R323), none until it is first sent. -/
  incarn : Option Word
  /-- Deficit of each link on its route port (R320), and the link served last on each port. -/
  drr : SMap Nat
  last : SMap Nat
  deriving DecidableEq, Repr

/-! ### Tally (chapter 14) -/

/-- A combining-queue entry: the requests merged into it in order (R382). -/
structure TallyEntry where
  opc : Nat
  atype : Nat
  offset : Nat
  reqs : List TallyPkt
  deriving DecidableEq, Repr

/-- An answer decided and not yet built: request, status, old value, swapped, line data (R376). -/
structure TallyAns where
  req : TallyPkt
  status : Nat
  old : Nat
  swapped : Bool
  data : List Byte
  deriving DecidableEq, Repr

structure Tally where
  /-- Combining queue and decided answers of each line, by line number of partition 5, and the lines present in the commons
  (R382). -/
  q : SMap (List TallyEntry)
  ans : SMap (List TallyAns)
  cached : List Nat
  deriving DecidableEq, Repr

/-! ### Jobs and canal (chapter 15) -/

/-- A job-update record as staged: ring index and its 128 bytes (R395, R397). -/
structure JobRec where
  idx : Nat
  bytes : List Byte
  deriving DecidableEq, Repr

/-- A lane of R397: its place in the cycle, its JOB and its batches. -/
structure JobLane where
  num : Nat
  job : BitVec 16
  batches : List (List JobRec)
  deriving DecidableEq, Repr

/-- A canal entry (R401, R404). -/
structure CanalEntry where
  bytes : List Byte
  hioff : Nat
  done : Bool
  stalled : Bool
  /-- Turn of the later of the last replication and the last write. -/
  last : Nat
  deriving DecidableEq, Repr

/-- The job tables that job-update records change. -/
structure JobTables where
  /-- Job map: JOB ↦ index and LASTGEN (R388). -/
  map : SMap (Option JobIdx × Option Byte)
  /-- Entries other than FREE: (JOB, GEN, STATE) (R389). -/
  entry : SMap (BitVec 16 × Byte × BitVec 2)
  deriving DecidableEq, Repr

structure Jobs where
  /-- Visible tables, and the tables with the changes of this turn (R399). -/
  vis : JobTables
  next : JobTables
  /-- Canal entries by place in their table (R404). -/
  canal : SMap CanalEntry
  /-- Changes applied and not yet visible: group entries, group map, scatter table, canal entries by SADDR with the turn of the
  write. -/
  groupChanges : List (Nat × List Byte)
  mapChanges : List (Nat × Option Nat)
  scatterChanges : List (Nat × BitVec 24)
  canalChanges : List (Nat × Option (List Byte) × Nat)
  lanes : List JobLane
  /-- Place of the lane served last, and of the next lane created. -/
  lastLane : Nat
  nextLane : Nat
  /-- Records class 4 applies in this turn, in order (R398). -/
  apply : List JobRec
  /-- The batch at the front of them has been begun (R84, R399). -/
  begun : Bool
  staged : Nat
  /-- Turn DRAINING became visible or an overdue drain was last reported, and turn QUARANTINE was entered, per entry (R393, R394). -/
  drainFrom : SMap Nat
  quarFrom : SMap Nat
  /-- QUARANTINE entries whose time the last boundary found over (R394). -/
  quarDone : List Nat
  deriving DecidableEq, Repr

/-! ### Time (chapter 16) -/

/-- A time input with its latest advertisement and sample (R416, R417). -/
structure TimeInput where
  root : Word
  prio : Byte
  dist : Byte
  hold : Bool
  /-- Offset and delay in 2^-16 ns, and whether the servo has used it. -/
  offset : Int
  delay : Int
  fresh : Bool
  /-- Receive time of the sample, and the turn it was accepted in. -/
  t4 : Int
  lastTurn : Nat
  deriving DecidableEq, Repr

structure Clepsydra where
  raw : Nat
  baseRaw : Nat
  /-- BASE_T in 2^-16 ns. -/
  baseT : Int
  adj : Int
  inputs : SMap TimeInput
  /-- ADJ after each of the last 64 updates made in MODE 1 (R420). -/
  adjHist : List Int
  /-- Offsets collected for acquisition or re-measure (R421, R424). -/
  samples : List Int
  /-- Acquisition has stepped T, and consecutive samples within LOCKTOL since (R421). -/
  stepped : Bool
  lockRun : Nat
  /-- PRIO of the root followed (R418). -/
  rootPrio : Byte
  /-- Turn of holdover entry (R425). -/
  holdFrom : Option Nat
  swlockSeen : Bool
  /-- Slew still to be applied (R427). -/
  slewLeft : Int
  /-- Receive time of the last sample used (R420). -/
  lastUsed : Option Int
  /-- The next boundary moves to the fabric grid (R79). -/
  realignNext : Bool
  /-- Capture FIFO of each TS_IN pin: T and falling (R428). -/
  caps : SMap (List (Int × Bool))
  lastEdge : SMap Int
  /-- PPS outputs: level and last instant emitted (R429). -/
  pps : SMap (Bool × Int)
  deriving DecidableEq, Repr

/-! ### Optics and bypass (chapter 17) -/

structure ModAgent where
  /-- A re-tune is running on these lanes (R438); a spare takeover on these (R439). -/
  retuning : List (Fin 16)
  taking : List (Fin 16)
  /-- Ports the agent holds down, with the cause: 0 module fault or absence (R433), 1 wrong wavelength (R438), 2 + l the takeover of
  lane l (R439). -/
  holding : List (Nat × PortNo)
  /-- An agent transaction is in progress on the bus, or a mailbox transaction (R434). -/
  busy : Bool
  mbxRunning : Bool
  /-- Flags read while a bypass window had a port of the module, acted on at its close (R440). -/
  deferred : List ModFlags
  deriving DecidableEq, Repr

/-- An armed or running bypass window (R444, R448). -/
structure Window where
  plan : Fin 64
  w : Nat
  /-- Endpoint IDs that ARM was sent to, those that have answered ACK, and a NAK came (R447). -/
  originator : Bool
  sendTo : List Nat
  acked : List Nat
  nakd : Bool
  /-- Steps done: 0 armed, 1 left the sets, 2 step 0, 3 step 1, 4 step 2. -/
  stage : Nat
  abandoned : Bool
  /-- Ports with their profile slot, new tag and new peer, as the boundary W − 2 found them (R452). -/
  ports : List (PortNo × Nat × BitVec 4 × Word)
  deriving DecidableEq, Repr

structure Optics where
  mods : SMap ModAgent
  /-- In the order of their start turns. -/
  windows : List Window
  /-- COMMITS when a trigger was enabled or last fired, absent where it cannot fire (R444). -/
  trigCommits : SMap Nat
  /-- New tag and peer of ports that windows skipped while the module agent held them (R440). -/
  later : List (PortNo × BitVec 4 × Word)
  /-- MSEQ of the next phase-boundary message (R120, R445). -/
  mseq : Nat
  /-- Phase-boundary messages that the control die has handed to the bypass engine, oldest first: the OFP packet, and whether it came on a
  management port (R445). -/
  inbox : List (Bool × List Byte)
  deriving DecidableEq, Repr

/-! ### Gauges, reliability and the rest (chapters 18 to 21) -/

structure Sampler where
  matches_ : Nat
  skipped : Nat
  thisTurn : Nat
  sseq : Nat
  lfsr : Word
  deriving DecidableEq, Repr

/-- A snapshot of a set waiting for its copy: the set, the turn of its latch, LATE, and FIRST and NUM of that boundary (R463, R475). -/
structure DueSet where
  set : Nat
  turn : Nat
  late : Bool
  first : Nat
  num : Nat
  deriving DecidableEq, Repr

structure Gauge where
  /-- Counter values and OVF, absent when zero (R453, R459). -/
  ctr : SMap (Nat × Bool)
  /-- Shadow banks by parity of the turn, with the turn latched (R462). -/
  shadow0 : SMap (Nat × Bool)
  shadow1 : SMap (Nat × Bool)
  shadowTurn : Nat × Nat
  due : List DueSet
  lost : SMap Nat
  samplers : SMap Sampler
  samplesThisTurn : Nat
  echoLast : SMap Nat
  deriving DecidableEq, Repr

/-- An event record before it is laid out (R477). -/
structure Event where
  cls : Fin 4
  job : Option (BitVec 16 × Byte)
  block : Byte
  code : Nat
  unit : Nat
  arg0 : Nat
  arg1 : Nat
  turn : Nat
  eseq : Nat
  deriving DecidableEq, Repr

structure Ras where
  /-- Events held before the ring is first enabled (R478). -/
  held : List Event
  everEnabled : Bool
  lost : Nat
  eseq : Nat
  /-- Turn of the last CE record written for (block, code, unit) and merges since (R479). -/
  ceLast : List ((Byte × Nat × Nat) × Nat)
  ceRepeat : List ((Byte × Nat) × Nat)
  fwdThisTurn : Nat
  /-- Turn boundaries so far, and class overrun events: that count at the last one (R84). -/
  boundaries : Nat
  ovrLast : SMap Nat
  warned : Bool
  /-- Throttle caps by class, rate caps of the two compute dies, none while no cap is in force, and temperature history (R89, R90). -/
  cap : List Nat
  rateCap : List (Option Nat)
  temps : List (List Nat)
  coolFor : List Nat
  rampFor : List Nat
  fullPower : List Nat
  /-- Duty granted to each class before the thermal caps (R87, R88). -/
  wanted : List Nat
  pwrLow : Bool
  /-- Corrected-line counts by (kind, unit) with the turn the window began (R484). -/
  ceCount : List ((Nat × Nat) × (Nat × Nat))
  /-- Copies to spares in progress: kind (0 cistern, 1 commons, 2 reservoir) and unit (R486, R487). -/
  copying : List (Nat × Nat)
  basinOut : List Nat
  /-- Logical lanes held down for want of a position (R29, R485). -/
  heldLanes : List Nat
  /-- Failed units by kind as in TEST codes 4 to 6 (R527): 0 cistern bank, 1 commons bank, 6 sluice engine 136 m + e, 7 basin lane,
  8 flume engine, all physical. -/
  failed : List (Nat × Nat)
  /-- Self-test that runs: target, unit, and the logical engine that a spare stands in for (R493). -/
  bist : Option (Nat × Nat × Option Nat)
  thermtrip : Bool
  /-- JTAG instruction register (R494) and whether EXTEST has run. -/
  jtag : Nat
  extest : Bool
  /-- The PCIe endpoint is in D3hot (R509). -/
  d3hot : Bool
  /-- PAUSE frames received on each management port (R506). -/
  pauses : SMap Nat
  deriving DecidableEq, Repr

/-- What the block puts on its pins and interfaces. The model's own field: the spec names the outputs, not a list. -/
inductive Emission where
  | packet (port : PortNo) (bytes : List Byte) (stomp : Bool)
  /-- A flit pair on a lane (R98): its 1,285 payload bytes before scrambling and coding. -/
  | pair (lane : LaneNo) (payload : List Byte)
  /-- Marker pairs on a lane, one after another: how many, and the 32 bytes that each repeats 40 times (R103). -/
  | marker (lane : LaneNo) (pairs : Nat) (bytes : List Byte)
  /-- A transmitter is silent (R131, R448). -/
  | squelch (port : PortNo)
  | pfc (port : PortNo) (pri : TC) (quanta : BitVec 16)
  | haul (port : PortNo) (kind : Nat) (bytes : List Byte)
  /-- An MCTP packet of the responder: over a management port as an Ethernet frame, else over PCIe VDM (R74). -/
  | vdm (bytes : List Byte)
  /-- A TFTP packet of the ROM loader (R63). -/
  | tftp (bytes : List Byte)
  | mgmt (port : Fin 2) (bytes : List Byte)
  /-- A packet to the control cores: the punt reason, and the tag of a result of KIND 5 (R137, R139). -/
  | toCores (reason tag : Nat) (bytes : List Byte)
  | bus (m : ModNo) (cmd : Nat) (arg : Nat)
  | msix (vec : Nat)
  | pps (k : Fin 2) (level : Bool)
  | tftpError (code : Option Nat)
  | csrRead (req : ReqId) (value : Word)
  | csrFault (hart : Nat)
  | unsupported
  | loadException (hart : Nat)
  | jtag (word : Nat)
  | pin (name : String) (level : Bool)
  deriving DecidableEq, Repr

/-- Everything a reset clears (R65): the registers, tables, queues, buffers, counters, modes and pins. -/
structure Dev where
  power : Power
  boot : Boot
  spdm : Spdm
  /-- Every CSR word by byte address, absent when zero (R9, R519). -/
  csr : SMap Word
  /-- Words of WO fields that the device keeps, which read as zero (R11): keys and salts of the SAs (R326). -/
  hidden : SMap Word
  /-- Blocks whose lock is set (R11, R54), as bits 31..24 of the window base. -/
  locks : List Nat
  /-- Latched high words, per requester and register (R10, R523). -/
  latch : List ((ReqId × Nat) × Word)
  /-- Held low words: requester, register, word (R10, R523). -/
  heldLow : List (ReqId × Nat × Word)
  /-- Latched words 1 to 3 of GAUGE_CRD (R460). -/
  crd : List ((ReqId × Nat) × (Word × Word × Word))
  /-- Reservoir and commons bytes, absent when zero (R184, R292). -/
  res : List Host.Cell
  commons : List Host.Cell
  /-- Poisoned 64 B lines, as SPACE (0 commons, 1 reservoir) and line number (R481). -/
  poison : List (Nat × Nat)
  links : SMap Link
  tables : Tables
  cist : Cistern
  spray : Spray
  basin : Basin
  eng : Engines
  haul : Haul
  tally : Tally
  jobs : Jobs
  time : Clepsydra
  opt : Optics
  gauge : Gauge
  ras : Ras
  /-- Draws made of free values so far (the model's own counter). -/
  freeCtr : Nat
  /-- What the block has put on its pins and interfaces (the model's own record). -/
  outbox : List Emission
  deriving DecidableEq, Repr

/-- The state of the VX9 block. -/
structure State where
  /-- Commands waiting, first in first out. -/
  pending : List Instr
  /-- What survives a reset and a loss of power (R66, R499). -/
  fuses : Fuses
  flash : Flash
  dev : Dev
  deriving DecidableEq, Repr

/-! ### The state after reset -/

/-- A port's link state when nothing has run on it (R111, R107: credits and sequence numbers start from zero). -/
def Link.init : Link where
  txSeq := 0
  txAcked := 0
  retry := []
  due := []
  nextLane := 0
  frame := 0
  replays := 0
  rxSeq := 0
  nakOut := false
  part := none
  credits := []
  granted := []
  badMarks := []
  signal := false
  holdFault := 0
  peerHold := none
  txack := []
  marks := []
  expect := []
  peer := 0
  taps := []
  hostTx := 0
  stage := 0
  paused := 0
  rx := []
  taken := 0
  loop := []
  looped := []
  dateRep := 0
  echo := none
  eq := []
  profiles := []
  downSince := none
  flushed := false
  ethFails := 0
  squelched := false
  tx := none
  waited := false
  exchanged := false
  joinHeld := false
  xoff := 0
  ingress := []
  hdrmUse := 0

def Tables.init : Tables where
  vis := List.replicate 8 []
  aged := []
  learned := []
  batch := []
  batchDone := 0
  batchLen := 0
  spent := 0
  learns := 0
  punts := []
  agePos := 0
  ageWait := 0
  ageDue := false
  hitWas := []
  bad := []
  scrubPos := 0
  puntDrops := []
  truncs := 0
  badKinds := 0

def Cistern.init : Cistern where
  uq := []
  mq := []
  fifo := []
  sched := []
  free := 0
  retiring := 0
  hdrmUsed := 0
  sharedUsed := 0
  mqShared := []
  hdrmEvent := false
  gx := false
  wleft := 0
  rleft := 0
  raised := []
  lastSpill := 0
  flushing := none
  toCores := []
  toBasin := []
  toTally := []
  built := []
  fenceAcks := []
  nextId := 0

def Spray.init : Spray := ⟨[], [], 0, [], (0, 0), [], 0, none, false, 0, 0, [], false, []⟩
def Basin.init : Basin := ⟨[], [], [], [], [], [], [], [], false⟩
def Engines.init : Engines := ⟨[], 0, [], [], []⟩
def Haul.init : Haul := ⟨[], none, [], []⟩
def Tally.init : Tally := ⟨[], [], []⟩
def JobTables.init : JobTables := ⟨[], []⟩
def Jobs.init : Jobs := ⟨.init, .init, [], [], [], [], [], [], 0, 1, [], false, 0, [], [], []⟩

def Clepsydra.init : Clepsydra where
  raw := 0
  baseRaw := 0
  baseT := 0
  adj := 0
  inputs := []
  adjHist := []
  samples := []
  stepped := false
  lockRun := 0
  rootPrio := 0
  holdFrom := none
  swlockSeen := false
  slewLeft := 0
  lastUsed := none
  realignNext := false
  caps := []
  lastEdge := []
  pps := []

def Optics.init : Optics := ⟨[], [], [], [], 0, []⟩
def Gauge.init : Gauge := ⟨[], [], [], (0, 0), [], [], [], 0, []⟩

def Ras.init : Ras where
  held := []
  everEnabled := false
  lost := 0
  eseq := 0
  ceLast := []
  ceRepeat := []
  fwdThisTurn := 0
  boundaries := 0
  ovrLast := []
  warned := false
  cap := List.replicate 8 128
  rateCap := [none, none]
  temps := []
  coolFor := [0, 0]
  rampFor := [0, 0]
  fullPower := List.replicate 8 0
  wanted := List.replicate 8 128
  pwrLow := false
  ceCount := []
  copying := []
  basinOut := []
  heldLanes := []
  failed := []
  bist := none
  thermtrip := false
  jtag := 0
  extest := false
  d3hot := false
  pauses := []

def Spdm.init : Spdm := ⟨.idle, [], [], 0, 0⟩

def Boot.init : Boot where
  clocked := false
  released := 0
  enclaveUp := false
  headerOk := false
  ecdsaOk := false
  lmsOk := false
  hbmDone := false
  controlWiped := false
  imageRead := false
  flashRead := 0
  staging := []
  loading := none
  lcRecord := none
  pendingLc := none
  perstHigh := false
  kernels := []
  header := []
  sectionHash := []
  budgets := []
  parts := []
  policy := []
  returnCert := []
  aliasCert := []
  turnsBegun := false

/-- GLB_DIE_STATUS at reset: 0b01 for each fitted die (R24). -/
def resetDieStatus (f : Fuses) : Word :=
  let port := (List.range 8).foldl (fun a d => if f.portDies.getLsbD d then a + 4 ^ (d + 2) else a) 0
  let comp := (List.range 2).foldl (fun a m => if f.compute.getLsbD m then a + 4 ^ (m + 10) else a) 0
  BitVec.ofNat 32 (5 + port + comp)

/-- The CSR words that are not zero at reset, in address order (R521, R24, R68, R88, R430, R518, R451, R407). `cause` is the
bit of GLB_RST_CAUSE that is set and `stop` its STOP field. -/
def resetCsr (f : Fuses) (cause : Fin 4) (stop : Fin 4) : SMap Word :=
  [(R.GLB_DIE_STATUS, resetDieStatus f),
   (R.GLB_RST_CAUSE, BitVec.ofNat 32 (2 ^ cause.val + 256 * stop.val))]
  ++ (List.range 8).map (fun c => (R.GLB_PWR_GRANT c, 128))
  ++ [(R.TIME_STATUS, 0x7FF0), (R.MGT_MP_CFG 0, 4), (R.MGT_MP_CFG 1, 4)]
  ++ ((List.range 64).filter (fun m => f.portDies.getLsbD (m / 8))).map (fun m => (R.OPT_MOD_CTL m, 3))
  ++ [(R.FWD_JOB 0, 0x01000000)]

/-- The device at the start of the sequence of R22: everything at its reset value (R65, R66, R521). `free` and `out` carry
the model's own counter and record across the reset. -/
def Dev.fresh (f : Fuses) (cause stop : Fin 4) (free : Nat) (out : List Emission) : Dev where
  power := .running
  boot := .init
  spdm := .init
  csr := resetCsr f cause stop
  hidden := []
  locks := []
  latch := []
  heldLow := []
  crd := []
  res := []
  commons := []
  poison := []
  links := []
  tables := .init
  cist := .init
  spray := .init
  basin := .init
  eng := .init
  haul := .init
  tally := .init
  jobs := .init
  time := .init
  opt := .init
  gauge := .init
  ras := .init
  freeCtr := free
  outbox := out

/-- Fuses of the part the model starts with (DESIGN CHOICE, log 1): a VX9-1024G of stepping A0 in PRODUCTION whose slots 0
and 1 are programmed, with no repair fused: the spares of R484 are all free, channel 31 of each stack is held out, and logical
engine and lane n is physical engine and lane n. -/
def Fuses.chosen : Fuses where
  part := 0x91
  stepping := 0
  portDies := 0xFF
  hbmStacks := 0xFF
  compute := 3
  lc := (3, 3, 3)
  slots :=
    let z := List.replicate 48 0
    [⟨z, z, true, false⟩, ⟨z, z, true, false⟩, ⟨z, z, false, false⟩, ⟨z, z, false, false⟩]
  svn := 0
  uds := List.replicate 48 0
  words :=
    [(R.TEST_SPARE_STAT, 64 + 32 * 2 ^ 8 + 16 * 2 ^ 16 + 2 * 2 ^ 24)]
    ++ (List.range 8).map (fun s => (R.TEST_HBM_STAT s, 31))
    ++ (List.range 64).map (fun k => (R.TEST_SLU_MAP (k / 32) (k % 32), BitVec.ofNat 32 (0x03020100 + 0x04040404 * (k % 32))))
    ++ (List.range 128).map (fun w => (R.TEST_BASIN_MAP w, BitVec.ofNat 32 (0x00010000 + 0x00020002 * w)))

/-- The machine right after RESET_N is released (R22, time 0), with an erased flash and no command waiting. -/
def State.reset : State where
  pending := []
  fuses := .chosen
  flash := ⟨[], []⟩
  dev := Dev.fresh .chosen 0 0 0 []

end Sys2Proof.Machine
end

