-- ==== Sys2Proof/Machine/Ops.lean ====
section
/-! DEFINITION. The named operations: sparse maps, CSR words and fields, memory, rings, free draws, ports. -/

namespace Sys2Proof.Machine

/-! ### Sparse maps in canonical form: keys strictly rising -/

def SMap.get? {α : Type} (m : SMap α) (k : Nat) : Option α :=
  match m with
  | [] => none
  | e :: t => if e.1 = k then some e.2 else SMap.get? t k

def SMap.del {α : Type} (m : SMap α) (k : Nat) : SMap α := List.filter (fun e => e.1 != k) m

def SMap.ins {α : Type} (m : SMap α) (k : Nat) (v : α) : SMap α :=
  match m with
  | [] => [(k, v)]
  | e :: t => if k < e.1 then (k, v) :: e :: t else e :: SMap.ins t k v

def SMap.put {α : Type} (m : SMap α) (k : Nat) (v : α) : SMap α := SMap.ins (SMap.del m k) k v

/-- Put, or delete where there is none. -/
def SMap.set {α : Type} (m : SMap α) (k : Nat) (v : Option α) : SMap α :=
  match v with
  | some x => SMap.put m k x
  | none => SMap.del m k

def SMap.getD {α : Type} (m : SMap α) (k : Nat) (dflt : α) : α := (SMap.get? m k).getD dflt

def SMap.has {α : Type} (m : SMap α) (k : Nat) : Bool := (SMap.get? m k).isSome

/-- The keys rise strictly. -/
def SMap.sorted {α : Type} (m : SMap α) : Bool :=
  match m with
  | [] => true
  | e :: t => (match t with | [] => true | f :: _ => decide (e.1 < f.1)) && SMap.sorted t

/-- Write a value whose absence reads as `dflt`: the entry goes when the value is `dflt`. -/
def SMap.write {α : Type} [DecidableEq α] (m : SMap α) (k : Nat) (v dflt : α) : SMap α :=
  if v = dflt then SMap.del m k else SMap.put m k v

/-! ### CSR words and fields (R9, R10) -/

def Dev.rd (d : Dev) (a : Nat) : Word := SMap.getD d.csr a 0

def Dev.wr (d : Dev) (a : Nat) (w : Word) : Dev := { d with csr := SMap.write d.csr a w 0 }

/-- The 64-bit register at `a`, low word first. -/
def Dev.rd64 (d : Dev) (a : Nat) : Nat := (d.rd a).toNat + 2 ^ 32 * (d.rd (a + 4)).toNat

def Dev.wr64 (d : Dev) (a : Nat) (n : Nat) : Dev :=
  (d.wr a (BitVec.ofNat 32 n)).wr (a + 4) (BitVec.ofNat 32 (n / 2 ^ 32))

/-- Bits lo + w − 1 to lo of n. -/
def bitsOf (n lo w : Nat) : Nat := n / 2 ^ lo % 2 ^ w

/-- n with bits lo + w − 1 to lo replaced by v. -/
def withBits (n lo w v : Nat) : Nat := n - bitsOf n lo w * 2 ^ lo + v % 2 ^ w * 2 ^ lo

def bitAt (n k : Nat) : Bool := n / 2 ^ k % 2 == 1

def Dev.get (d : Dev) (f : Fld) : Nat := bitsOf (d.rd f.addr).toNat f.lo f.w

def Dev.set (d : Dev) (f : Fld) (v : Nat) : Dev :=
  d.wr f.addr (BitVec.ofNat 32 (withBits (d.rd f.addr).toNat f.lo f.w v))

/-- A one-bit field is 1. -/
def Dev.on (d : Dev) (f : Fld) : Bool := d.get f == 1

/-- Add n to a counter field that saturates. -/
def Dev.bump (d : Dev) (f : Fld) (n : Nat := 1) : Dev := d.set f (min (2 ^ f.w - 1) (d.get f + n))

/-- Set a field modulo its width to its value plus n. -/
def Dev.incr (d : Dev) (f : Fld) (n : Nat := 1) : Dev := d.set f (d.get f + n)

/-- Take n from a field that does not go below 0. -/
def Dev.drop (d : Dev) (f : Fld) (n : Nat := 1) : Dev := d.set f (d.get f - n)

/-! ### Modes of the device -/

def Dev.running (d : Dev) : Bool := d.power == .running

/-- The image is applied and the device runs (R59: STAGE is APPLIED or RUNNING). -/
def Dev.applied (d : Dev) : Bool :=
  d.running && (d.get R.SEC_BOOT_STATUS_STAGE == 4 || d.get R.SEC_BOOT_STATUS_STAGE == 5)

/-- The factory default state (R63). -/
def Dev.factory (d : Dev) : Bool := d.running && d.get R.SEC_BOOT_STATUS_STAGE == 14

/-- Run an effect when the condition holds, else leave the device as it is. -/
def Dev.when (c : Bool) (f : Dev → Dev) (d : Dev) : Dev := if c then f d else d

/-- An effect that needs an applied image (R59). -/
def Dev.whenApplied (f : Dev → Dev) (d : Dev) : Dev := Dev.when d.applied f d

def Dev.whenRunning (f : Dev → Dev) (d : Dev) : Dev := Dev.when d.running f d

/-- Per-turn work (R83): none of it runs before the first turn boundary (R77). -/
def Dev.whenTurning (f : Dev → Dev) (d : Dev) : Dev := Dev.when (d.applied && d.boot.turnsBegun) f d

/-- The outcome of a command that changes only the device part. -/
def onDev (f : Dev → Dev) (s : State) : Host.Outcome State Fault Refusal := .next { s with dev := f s.dev }

/-- Record an output. -/
def Dev.emit (d : Dev) (e : Emission) : Dev := { d with outbox := d.outbox ++ [e] }

/-- Apply f to each element of a list in turn. -/
def Dev.each {α : Type} (l : List α) (f : α → Dev → Dev) (d : Dev) : Dev := List.foldl (fun d x => f x d) d l

/-- Draw a free value. -/
def Dev.draw (d : Dev) : DWord × Dev := (Config.freeValue d.freeCtr, { d with freeCtr := d.freeCtr + 1 })

def Dev.turn (d : Dev) : Nat := d.rd64 R.GLB_TURN_NUM

/-- State of a die in GLB_DIE_STATUS (R24); dies 0 control, 1 base, 2 to 9 port dies, 10 and 11 compute dies. -/
def Dev.dieState (d : Dev) (die : Nat) : Nat := d.get ⟨R.GLB_DIE_STATUS, 2 * die, 2⟩
def Dev.setDie (d : Dev) (die v : Nat) : Dev := d.set ⟨R.GLB_DIE_STATUS, 2 * die, 2⟩ v
def Dev.dieReady (d : Dev) (die : Nat) : Bool := d.dieState die == 2

/-- Port die d, compute die m, stack s is fitted (R3, R525; 0b00 in GLB_DIE_STATUS is unfitted, R24). -/
def Dev.portDieFitted (d : Dev) (k : Nat) : Bool := d.dieState (k + 2) != 0
def Dev.computeFitted (d : Dev) (m : Nat) : Bool := d.dieState (m + 10) != 0

/-! ### Memory (R184, R292): bytes of the commons (SPACE 0) and the reservoir (SPACE 1) -/

def Dev.mem (d : Dev) (sp : Nat) : List Host.Cell := if sp = 0 then d.commons else d.res

def Dev.setMem (d : Dev) (sp : Nat) (m : List Host.Cell) : Dev :=
  if sp = 0 then { d with commons := m } else { d with res := m }

def Dev.readByte (d : Dev) (sp a : Nat) : Byte := SMap.getD (d.mem sp) a 0

def Dev.readMem (d : Dev) (sp a n : Nat) : List Byte := (List.range n).map (fun i => d.readByte sp (a + i))

def putBytes (m : List Host.Cell) (a : Nat) (bs : List Byte) : List Host.Cell :=
  match bs with
  | [] => m
  | b :: t => putBytes (SMap.write m a b 0) (a + 1) t

/-- Write bytes. A line written whole clears POISON; a partial write leaves it (R482). -/
def Dev.writeMem (d : Dev) (sp a : Nat) (bs : List Byte) : Dev :=
  { d.setMem sp (putBytes (d.mem sp) a bs) with
    poison := d.poison.filter (fun e => !(e.1 == sp && a ≤ 64 * e.2 && 64 * e.2 + 64 ≤ a + bs.length)) }

/-- Some line of the n bytes at a is uncorrectable (R482). -/
def Dev.poisoned (d : Dev) (sp a n : Nat) : Bool :=
  d.poison.any (fun e => e.1 == sp && decide (a < 64 * e.2 + 64) && decide (64 * e.2 < a + n))

/-- Set POISON of the line of an address. -/
def Dev.setPoison (d : Dev) (sp a : Nat) : Dev :=
  if d.poison.contains (sp, a / 64) then d else { d with poison := d.poison ++ [(sp, a / 64)] }

/-- Base and size in bytes of reservoir partition k, as the image set it (R184, R185, R188). -/
def Dev.partBase (d : Dev) (k : Nat) : Nat := (d.boot.parts.getD k (0, 0)).1 * 2 ^ 30
def Dev.partSize (d : Dev) (k : Nat) : Nat := (d.boot.parts.getD k (0, 0)).2 * 2 ^ 30

/-! ### Byte strings -/

/-- n bytes of v, least significant first. -/
def leBytes (n v : Nat) : List Byte := (List.range n).map (fun i => BitVec.ofNat 8 (v / 256 ^ i))

/-- n bytes of v, most significant first. -/
def beBytes (n v : Nat) : List Byte := (leBytes n v).reverse

def ofLe (bs : List Byte) : Nat :=
  match bs with
  | [] => 0
  | b :: t => b.toNat + 256 * ofLe t

def ofBe (bs : List Byte) : Nat := ofLe bs.reverse

def slice {α : Type} (bs : List α) (off n : Nat) : List α := (bs.drop off).take n

/-- Big-endian and little-endian number of n bytes at an offset. -/
def beAt (bs : List Byte) (off n : Nat) : Nat := ofBe (slice bs off n)
def leAt (bs : List Byte) (off n : Nat) : Nat := ofLe (slice bs off n)

/-- Bits hi to lo of the big-endian field of n bytes at an offset. -/
def beBits (bs : List Byte) (off n hi lo : Nat) : Nat := bitsOf (beAt bs off n) lo (hi - lo + 1)
def leBits (bs : List Byte) (off n hi lo : Nat) : Nat := bitsOf (leAt bs off n) lo (hi - lo + 1)

/-- Replace the bytes at an offset. -/
def patch (bs : List Byte) (off : Nat) (new : List Byte) : List Byte :=
  bs.take off ++ new ++ bs.drop (off + new.length)

def zeros (n : Nat) : List Byte := List.replicate n 0

def padTo (bs : List Byte) (n : Nat) : List Byte := bs ++ zeros (n - bs.length)

def divUp (a b : Nat) : Nat := (a + b - 1) / b

def log2 (n : Nat) : Nat := n.log2

/-! ### Rings (R295, R531). HEAD is the device's index, TAIL software's. -/

structure RingRef where
  /-- Address of the 64-bit BASE register. -/
  base : Nat
  size : Fld
  en : Fld
  head : Fld
  tail : Fld
  /-- Bytes of an entry, and the LOG2SIZE values at which the ring is enabled. -/
  esz : Nat
  lo : Nat
  hi : Nat
  deriving DecidableEq, Repr

def Dev.ringOn (d : Dev) (r : RingRef) : Bool :=
  d.on r.en && decide (r.lo ≤ d.get r.size) && decide (d.get r.size ≤ r.hi)

def Dev.ringSize (d : Dev) (r : RingRef) : Nat := 2 ^ d.get r.size

def Dev.ringEmpty (d : Dev) (r : RingRef) : Bool := d.get r.head == d.get r.tail

/-- Full for the device as producer. -/
def Dev.ringFull (d : Dev) (r : RingRef) : Bool := (d.get r.head + 1) % d.ringSize r == d.get r.tail

def Dev.ringAdvance (d : Dev) (r : RingRef) (n : Nat := 1) : Dev := d.set r.head ((d.get r.head + n) % d.ringSize r)

/-- Write a record at HEAD and advance HEAD (the caller has checked for room). -/
def Dev.ringPush (d : Dev) (r : RingRef) (bs : List Byte) : Dev :=
  (d.writeMem 1 (d.rd64 r.base + r.esz * d.get r.head) bs).ringAdvance r

/-- Entries that software has filled and the device has not taken. -/
def Dev.ringCount (d : Dev) (r : RingRef) : Nat :=
  (d.get r.tail + d.ringSize r - d.get r.head) % d.ringSize r

/-- The k-th entry from HEAD, where there is one. -/
def Dev.ringAt (d : Dev) (r : RingRef) (k : Nat) : Option (List Byte) :=
  if d.ringOn r && decide (k < d.ringCount r) then
    some (d.readMem 1 (d.rd64 r.base + r.esz * ((d.get r.head + k) % d.ringSize r)) r.esz)
  else none

/-! ### Ports -/

def Dev.link (d : Dev) (p : Nat) : Link := SMap.getD d.links p Link.init

def Dev.setLink (d : Dev) (p : Nat) (l : Link) : Dev := { d with links := SMap.put d.links p l }

def Dev.modLink (d : Dev) (p : Nat) (f : Link → Link) : Dev := d.setLink p (f (d.link p))

/-- Lane group of a port or logical lane (R26), its ROLE, RATE and START (R36). -/
def groupOf (p : Nat) : Nat := p / 16
def Dev.role (d : Dev) (p : Nat) : Nat := d.get (R.PORT_LGRP_CFG_ROLE (groupOf p))
def Dev.rate (d : Dev) (p : Nat) : Nat := d.get (R.PORT_LGRP_CFG_RATE (groupOf p))
def Dev.startBits (d : Dev) (x : Nat) : Nat := d.get (R.PORT_LGRP_CFG_START x)

/-- Slots from slot s on that belong to the port that starts there (R36). -/
def widthFrom (start : Nat) (s : Nat) : Nat → Nat
  | 0 => 0
  | fuel + 1 => if s < 16 && !(bitAt start s) then 1 + widthFrom start (s + 1) fuel else 0

/-- Width in lanes of the port at slot p mod 16; 0 where no port starts there (R36, R38). -/
def Dev.width (d : Dev) (p : Nat) : Nat :=
  let st := d.startBits (groupOf p)
  if bitAt st (p % 16) then 1 + widthFrom st (p % 16 + 1) 16 else 0

/-- The port that a logical lane belongs to: the highest start slot at or below it (R36, R38). -/
def Dev.portOf (d : Dev) (l : Nat) : Nat :=
  let st := d.startBits (groupOf l)
  ((List.range 16).filter (fun s => s ≤ l % 16 && bitAt st s)).foldl (fun _ s => l / 16 * 16 + s) l

/-- The lanes of a port in slot order. -/
def Dev.lanesOf (d : Dev) (p : Nat) : List Nat := (List.range (d.width p)).map (fun k => p + k)

/-- Fabric, Ethernet, haul and join ports (R31); OFP ports are fabric and join. -/
def Dev.isOfp (d : Dev) (p : Nat) : Bool := d.role p == 1 || d.role p == 4
def Dev.isEth (d : Dev) (p : Nat) : Bool := d.role p == 2
def Dev.isHaul (d : Dev) (p : Nat) : Bool := d.role p == 3
def Dev.isJoin (d : Dev) (p : Nat) : Bool := d.role p == 4

/-- Lane groups that may take the haul role: 16, on the VX9-1024S four (R3, R35). -/
def Dev.haulRoom (d : Dev) : Nat := if d.get R.GLB_IDENT_PART = 0x92 then 4 else 16

/-- A haul group within that number, counted in group order. -/
def Dev.haulFits (d : Dev) (x : Nat) : Bool :=
  decide (((List.range x).filter (fun y => d.get (R.PORT_LGRP_CFG_ROLE y) == 3)).length < d.haulRoom)

/-- Lane-group configurations that R37 calls valid; a haul group beyond the device's number is not taken as one (log 97). -/
def Dev.groupValid (d : Dev) (x : Nat) : Bool :=
  let role := d.get (R.PORT_LGRP_CFG_ROLE x)
  let rate := d.get (R.PORT_LGRP_CFG_RATE x)
  let st := d.startBits x
  let widths := ((List.range 16).filter (fun s => bitAt st s)).map (fun s => (s, 1 + widthFrom st (s + 1) 16))
  let okRate := match role with
    | 1 => rate == 0 || rate == 1
    | 2 => rate == 2 || rate == 3
    | 3 => rate == 2
    | 4 => rate == 0
    | _ => false
  let okWidth (w : Nat) := match role with
    | 1 => [1, 2, 4, 8, 16].contains w
    | 2 => if rate == 2 then [2, 4, 8].contains w else w == 4
    | 3 => [2, 4, 8].contains w
    | 4 => [4, 8, 16].contains w
    | _ => false
  role == 0 || ((role != 3 || d.haulFits x) && okRate && bitAt st 0 && widths.all (fun e => okWidth e.2 && e.1 % e.2 == 0))

/-- A port of a lit, validly laid out group starts at p, on a die in service (R34, R37, R38, R529). -/
def Dev.isPort (d : Dev) (p : Nat) : Bool :=
  d.role p != 0 && d.groupValid (groupOf p) && decide (0 < d.width p) && d.dieReady (p / 128 + 2)

def Dev.isUp (d : Dev) (p : Nat) : Bool := d.on (R.PORT_PSTAT_UP p)

/-- Near-end loopback, L0 to L3: the port receives what it sends itself, and no packet of its peer (R131). -/
def Dev.nearLoop (d : Dev) (p : Nat) : Bool := let k := d.get (R.TEST_PORT_LOOP_DEPTH p); decide (1 ≤ k) && decide (k ≤ 4)

/-- Far-end loopback, F1 and F2: what the port receives goes back out unchanged, and no further (R131). -/
def Dev.farLoop (d : Dev) (p : Nat) : Bool := let k := d.get (R.TEST_PORT_LOOP_DEPTH p); k == 8 || k == 9

/-- Rate of a port in units of 100 Gb/s × 0.64 = 64 Gb/s lanes (R39): OFP 256 Gb/s 1280, OFP 128 640, Ethernet 200 1000,
Ethernet 100 500, in units of 0.2 Gb/s per lane. -/
def Dev.portRate (d : Dev) (p : Nat) : Nat :=
  d.width p * (match d.rate p with | 0 => 1280 | 1 => 640 | 2 => 1000 | _ => 500)

/-- Every port number of the device, by lane group. -/
def Dev.ports (d : Dev) : List Nat :=
  ((List.range 64).filter (fun x => d.get (R.PORT_LGRP_CFG_ROLE x) != 0)).flatMap
    (fun x => ((List.range 16).map (fun s => 16 * x + s)).filter (fun p => d.isPort p))

end Sys2Proof.Machine
end

