-- ==== Sys2Proof/Machine/Operands.lean ====
section
/-! DEFINITION. Operand forms: the check codes (R41, R48, R55, R115), the OFP header (R114), Ethernet frames, and the packets
the device builds. -/

namespace Sys2Proof.Machine

/-! ### Check codes -/

def crcBit (poly width v : Nat) : Nat :=
  if v / 2 ^ (width - 1) % 2 = 1 then Nat.xor (v * 2 % 2 ^ width) poly else v * 2 % 2 ^ width

/-- A CRC taken most significant bit first. -/
def crcMsb (poly width init : Nat) (bs : List Byte) : Nat :=
  bs.foldl (fun c b => (List.range 8).foldl (fun v _ => crcBit poly width v) (Nat.xor c (b.toNat * 2 ^ (width - 8)))) init

/-- HCRC and FCHK: polynomial 0x1021, initial value 0xFFFF (R115, R101). -/
def crc16 (bs : List Byte) : Nat := crcMsb 0x1021 16 0xFFFF bs

/-- TCRC of a join tag: polynomial 0x07, initial value 0 (R41). -/
def crc8 (bs : List Byte) : Nat := crcMsb 0x07 8 0 bs

/-- CRC-32C: polynomial 0x1EDC6F41 reflected, initial value and final XOR 0xFFFFFFFF (R115). -/
def crc32c (bs : List Byte) : Nat :=
  Nat.xor 0xFFFFFFFF (bs.foldl (fun c b =>
    (List.range 8).foldl (fun v _ => if v % 2 = 1 then Nat.xor (v / 2) 0x82F63B78 else v / 2) (Nat.xor c b.toNat)) 0xFFFFFFFF)

/-- One step, and w steps, of a generator of R283: the state after them, whose low w bits are the draw. -/
def lfsrStep (s : Nat) : Nat := if s % 2 = 1 then Nat.xor (s / 2) 0x80200003 else s / 2
def lfsrSteps : Nat → Nat → Nat
  | 0, s => s
  | n + 1, s => lfsrSteps n (lfsrStep s)

/-! ### SHA-384 (FIPS 180-4, R14, R48) -/

def shaK0 : List DWord := [
  0x428A2F98D728AE22, 0x7137449123EF65CD, 0xB5C0FBCFEC4D3B2F, 0xE9B5DBA58189DBBC,
  0x3956C25BF348B538, 0x59F111F1B605D019, 0x923F82A4AF194F9B, 0xAB1C5ED5DA6D8118,
  0xD807AA98A3030242, 0x12835B0145706FBE, 0x243185BE4EE4B28C, 0x550C7DC3D5FFB4E2,
  0x72BE5D74F27B896F, 0x80DEB1FE3B1696B1, 0x9BDC06A725C71235, 0xC19BF174CF692694,
  0xE49B69C19EF14AD2, 0xEFBE4786384F25E3, 0x0FC19DC68B8CD5B5, 0x240CA1CC77AC9C65]

def shaK1 : List DWord := [
  0x2DE92C6F592B0275, 0x4A7484AA6EA6E483, 0x5CB0A9DCBD41FBD4, 0x76F988DA831153B5,
  0x983E5152EE66DFAB, 0xA831C66D2DB43210, 0xB00327C898FB213F, 0xBF597FC7BEEF0EE4,
  0xC6E00BF33DA88FC2, 0xD5A79147930AA725, 0x06CA6351E003826F, 0x142929670A0E6E70,
  0x27B70A8546D22FFC, 0x2E1B21385C26C926, 0x4D2C6DFC5AC42AED, 0x53380D139D95B3DF,
  0x650A73548BAF63DE, 0x766A0ABB3C77B2A8, 0x81C2C92E47EDAEE6, 0x92722C851482353B]

def shaK2 : List DWord := [
  0xA2BFE8A14CF10364, 0xA81A664BBC423001, 0xC24B8B70D0F89791, 0xC76C51A30654BE30,
  0xD192E819D6EF5218, 0xD69906245565A910, 0xF40E35855771202A, 0x106AA07032BBD1B8,
  0x19A4C116B8D2D0C8, 0x1E376C085141AB53, 0x2748774CDF8EEB99, 0x34B0BCB5E19B48A8,
  0x391C0CB3C5C95A63, 0x4ED8AA4AE3418ACB, 0x5B9CCA4F7763E373, 0x682E6FF3D6B2B8A3,
  0x748F82EE5DEFB2FC, 0x78A5636F43172F60, 0x84C87814A1F0AB72, 0x8CC702081A6439EC]

def shaK3 : List DWord := [
  0x90BEFFFA23631E28, 0xA4506CEBDE82BDE9, 0xBEF9A3F7B2C67915, 0xC67178F2E372532B,
  0xCA273ECEEA26619C, 0xD186B8C721C0C207, 0xEADA7DD6CDE0EB1E, 0xF57D4F7FEE6ED178,
  0x06F067AA72176FBA, 0x0A637DC5A2C898A6, 0x113F9804BEF90DAE, 0x1B710B35131C471B,
  0x28DB77F523047D84, 0x32CAAB7B40C72493, 0x3C9EBE0A15C9BEBC, 0x431D67C49C100D4C,
  0x4CC5D4BECB3E42B6, 0x597F299CFC657E2A, 0x5FCB6FAB3AD6FAEC, 0x6C44198C4A475817]

/-- Initial hash value of SHA-384. -/
def shaH : List DWord := [
  0xCBBB9D5DC1059ED8, 0x629A292A367CD507, 0x9159015A3070DD17, 0x152FECD8F70E5939,
  0x67332667FFC00B31, 0x8EB44A8768581511, 0xDB0C2E0D64F98FA7, 0x47B5481DBEFA4FA4]

def rotr (x : DWord) (n : Nat) : DWord := x.rotateRight n
def shaBig0 (x : DWord) : DWord := rotr x 28 ^^^ rotr x 34 ^^^ rotr x 39
def shaBig1 (x : DWord) : DWord := rotr x 14 ^^^ rotr x 18 ^^^ rotr x 41
def shaSm0 (x : DWord) : DWord := rotr x 1 ^^^ rotr x 8 ^^^ (x >>> 7)
def shaSm1 (x : DWord) : DWord := rotr x 19 ^^^ rotr x 61 ^^^ (x >>> 6)

/-- The message schedule, newest word first: extends the 16 words of a block by n. -/
def shaSchedule : Nat → List DWord → List DWord
  | 0, w => w
  | n + 1, w =>
    let nxt := shaSm1 (w.getD 1 0) + w.getD 6 0 + shaSm0 (w.getD 14 0) + w.getD 15 0
    shaSchedule n (nxt :: w)

structure ShaVars where
  a : DWord
  b : DWord
  c : DWord
  d : DWord
  e : DWord
  f : DWord
  g : DWord
  h : DWord

def shaRound (v : ShaVars) (kw : DWord × DWord) : ShaVars :=
  let t1 := v.h + shaBig1 v.e + ((v.e &&& v.f) ^^^ (~~~v.e &&& v.g)) + kw.1 + kw.2
  let t2 := shaBig0 v.a + ((v.a &&& v.b) ^^^ (v.a &&& v.c) ^^^ (v.b &&& v.c))
  ⟨t1 + t2, v.a, v.b, v.c, v.d + t1, v.e, v.f, v.g⟩

def shaBlock (hs : List DWord) (block : List Byte) : List DWord :=
  let w0 := ((List.range 16).map (fun i => BitVec.ofNat 64 (beAt block (8 * i) 8))).reverse
  let w := (shaSchedule 64 w0).reverse
  let h (i : Nat) : DWord := hs.getD i 0
  let v := ((shaK0 ++ shaK1 ++ shaK2 ++ shaK3).zip w).foldl shaRound ⟨h 0, h 1, h 2, h 3, h 4, h 5, h 6, h 7⟩
  [h 0 + v.a, h 1 + v.b, h 2 + v.c, h 3 + v.d, h 4 + v.e, h 5 + v.f, h 6 + v.g, h 7 + v.h]

def shaBlocks : Nat → List DWord → List Byte → List DWord
  | 0, hs, _ => hs
  | n + 1, hs, bs => shaBlocks n (shaBlock hs (bs.take 128)) (bs.drop 128)

/-- SHA-384 of a byte string: 48 bytes. -/
def sha384 (bs : List Byte) : List Byte :=
  let n := bs.length
  let padded := bs ++ [0x80] ++ zeros ((111 + 128 - n % 128) % 128) ++ beBytes 16 (8 * n)
  ((shaBlocks (padded.length / 128) shaH padded).take 6).flatMap (fun w => beBytes 8 w.toNat)

/-! ### The OFP header (R114) -/

/-- Fields of the OFP header, HCRC apart. -/
structure OfpHdr where
  ver : Nat := 1
  type : Nat
  tc : Nat := 0
  vc : Nat := 0
  ecn : Nat := 0
  echo : Bool := false
  last : Bool := false
  dst : Nat := 0
  src : Nat := 0
  job : Nat := 0
  gen : Nat := 0
  hops : Nat := 0
  seq : Nat := 0
  group : Nat := 0
  epoch : Nat := 0
  chunk : Nat := 0
  len : Nat := 0
  fmt : Nat := 0
  op : Nat := 0
  level : Nat := 0
  entropy : Nat := 0
  deriving DecidableEq, Repr

def b2n (b : Bool) : Nat := if b then 1 else 0

/-- Bytes 0 to 29 of the header. -/
def OfpHdr.bytes30 (h : OfpHdr) : List Byte :=
  beBytes 1 (h.ver * 16 + h.type) ++
  beBytes 1 (h.tc * 32 + h.vc * 16 + h.ecn * 4 + b2n h.echo * 2 + b2n h.last) ++
  beBytes 3 h.dst ++ beBytes 3 h.src ++ beBytes 2 h.job ++ beBytes 1 h.gen ++ beBytes 1 (h.hops * 16) ++
  beBytes 4 h.seq ++ beBytes 4 (h.group * 4096 + h.epoch) ++ beBytes 4 h.chunk ++ beBytes 2 h.len ++
  beBytes 1 h.fmt ++ beBytes 1 (h.op * 16 + h.level) ++ beBytes 2 h.entropy

/-- The 32-byte header with its HCRC. -/
def OfpHdr.bytes (h : OfpHdr) : List Byte := h.bytes30 ++ beBytes 2 (crc16 h.bytes30)

/-- The header that bytes begin with. -/
def ofpHdr (bs : List Byte) : OfpHdr where
  ver := beBits bs 0 1 7 4
  type := beBits bs 0 1 3 0
  tc := beBits bs 1 1 7 5
  vc := beBits bs 1 1 4 4
  ecn := beBits bs 1 1 3 2
  echo := beBits bs 1 1 1 1 == 1
  last := beBits bs 1 1 0 0 == 1
  dst := beAt bs 2 3
  src := beAt bs 5 3
  job := beAt bs 8 2
  gen := beAt bs 10 1
  hops := beBits bs 11 1 7 4
  seq := beAt bs 12 4
  group := beBits bs 16 4 31 12
  epoch := beBits bs 16 4 11 0
  chunk := beAt bs 20 4
  len := beAt bs 24 2
  fmt := beAt bs 26 1
  op := beBits bs 27 1 7 4
  level := beBits bs 27 1 3 0
  entropy := beAt bs 28 2

def hcrcOk (bs : List Byte) : Bool := crc16 (bs.take 30) == beAt bs 30 2

/-- The trailer of a payload (R115): 0 with LEN = 0. -/
def trailerOf (payload : List Byte) : List Byte := if payload.isEmpty then zeros 4 else beBytes 4 (crc32c payload)

/-- Payload of an OFP packet by its LEN, and its trailer. -/
def ofpPayload (bs : List Byte) : List Byte := slice bs 32 (ofpHdr bs).len
def ofpTrailer (bs : List Byte) : List Byte := slice bs (32 + (ofpHdr bs).len) 4

/-- The trailer is right (R115), or is a stomp (R117). -/
def trailerOk (bs : List Byte) : Bool := ofpTrailer bs == trailerOf (ofpPayload bs)
def trailerStomped (bs : List Byte) : Bool :=
  beAt (ofpTrailer bs) 0 4 == Nat.xor (beAt (trailerOf (ofpPayload bs)) 0 4) 0xFFFFFFFF

/-- The packet with its trailer, or an Ethernet frame with its FCS, inverted (R117, R163). -/
def stompBytes (bs : List Byte) : List Byte :=
  bs.take (bs.length - 4) ++ (bs.drop (bs.length - 4)).map (fun b => ~~~b)

/-- An OFP packet of a header and payload; LEN and the trailer follow the payload. -/
def ofpPacket (h : OfpHdr) (payload : List Byte) : List Byte :=
  OfpHdr.bytes { h with len := payload.length } ++ payload ++ trailerOf payload

/-- The packet with its header replaced, HCRC recomputed, and payload and trailer kept (R115). -/
def withHdr (bs : List Byte) (h : OfpHdr) : List Byte := h.bytes ++ bs.drop 32

/-- Cells of a stored packet of n bytes (R160). -/
def cellsFor (n : Nat) : Nat := divUp (n + 32) 256

/-- The bytes a device-built packet stands in the cistern as. -/
def builtPkt (id turn : Nat) (bs : List Byte) (job : Option JobIdx) : Pkt where
  id := id
  bytes := bs
  ofp := true
  inPort := none
  acct := none
  job := job
  tc := Fin.ofNat 8 (ofpHdr bs).tc
  lossless := true
  cells := cellsFor bs.length
  headroom := false
  ingr := 0
  creditsDue := none
  crc := 0
  whole := true
  cutThrough := false
  poisoned := false
  spilled := false
  turn := turn
  result := 0
  fset := none
  encap := none
  jhops := 0
  orig := true
  dev := 0
  inport := 0
  built := true
  ether := false

/-- The map header of R471. -/
def mapHeader (fkind : Nat) (late trunc : Bool) (mapseq frag nfrag int turn sender first n : Nat) : List Byte :=
  beBytes 1 (16 + fkind) ++ beBytes 1 (b2n late * 128 + b2n trunc * 64) ++ beBytes 2 mapseq ++ beBytes 1 frag ++
  beBytes 1 nfrag ++ beBytes 2 int ++ beBytes 8 turn ++ beBytes 4 sender ++ beBytes 2 first ++ beBytes 2 n ++ zeros 8

/-- An OFP packet as an Ethernet frame to a destination address from management port 1 (R124): addresses, EtherType,
packet, zero padding to the 64-byte minimum less FCS. -/
def ofpOverEth (da sa etype : Nat) (pkt : List Byte) : List Byte :=
  padTo (beBytes 6 da ++ beBytes 6 sa ++ beBytes 2 etype ++ pkt) 60

end Sys2Proof.Machine
end

