-- ==== Sys2Proof/Machine/Crypto.lean ====
section
/-! DEFINITION. The cryptography the device runs (R14): SHA-256 and LMS (RFC 8554), ECDSA P-384 (FIPS 186-5), HMAC-SHA-384, AES-256
and GCM. SHA-384 stands in Operands.lean. -/

namespace Sys2Proof.Machine

/-! ### SHA-256 (FIPS 180-4), which LMS uses (R51) -/

/-- The round constants are the upper halves of the first 64 of SHA-384. -/
def sha256K : List Word := ((shaK0 ++ shaK1 ++ shaK2 ++ shaK3).take 64).map (fun k => BitVec.ofNat 32 (k.toNat / 2 ^ 32))

def sha256H : List Word := [0x6A09E667, 0xBB67AE85, 0x3C6EF372, 0xA54FF53A, 0x510E527F, 0x9B05688C, 0x1F83D9AB, 0x5BE0CD19]

/-- The schedule, newest word first, extended by n words. -/
def sha256Schedule : Nat → List Word → List Word
  | 0, w => w
  | n + 1, w =>
    let x := w.getD 1 0
    let y := w.getD 14 0
    let s1 := x.rotateRight 17 ^^^ x.rotateRight 19 ^^^ (x >>> 10)
    let s0 := y.rotateRight 7 ^^^ y.rotateRight 18 ^^^ (y >>> 3)
    sha256Schedule n ((s1 + w.getD 6 0 + s0 + w.getD 15 0) :: w)

structure Sha256Vars where
  a : Word
  b : Word
  c : Word
  d : Word
  e : Word
  f : Word
  g : Word
  h : Word

def sha256Round (v : Sha256Vars) (kw : Word × Word) : Sha256Vars :=
  let s1 := v.e.rotateRight 6 ^^^ v.e.rotateRight 11 ^^^ v.e.rotateRight 25
  let s0 := v.a.rotateRight 2 ^^^ v.a.rotateRight 13 ^^^ v.a.rotateRight 22
  let t := v.h + s1 + ((v.e &&& v.f) ^^^ (~~~v.e &&& v.g)) + kw.1 + kw.2
  ⟨t + s0 + ((v.a &&& v.b) ^^^ (v.a &&& v.c) ^^^ (v.b &&& v.c)), v.a, v.b, v.c, v.d + t, v.e, v.f, v.g⟩

def sha256Block (hs : List Word) (block : List Byte) : List Word :=
  let w0 := ((List.range 16).map (fun i => BitVec.ofNat 32 (beAt block (4 * i) 4))).reverse
  let x (i : Nat) : Word := hs.getD i 0
  let v := (sha256K.zip (sha256Schedule 48 w0).reverse).foldl sha256Round ⟨x 0, x 1, x 2, x 3, x 4, x 5, x 6, x 7⟩
  [x 0 + v.a, x 1 + v.b, x 2 + v.c, x 3 + v.d, x 4 + v.e, x 5 + v.f, x 6 + v.g, x 7 + v.h]

def sha256Blocks : Nat → List Word → List Byte → List Word
  | 0, hs, _ => hs
  | n + 1, hs, bs => sha256Blocks n (sha256Block hs (bs.take 64)) (bs.drop 64)

/-- SHA-256 of a byte string: 32 bytes. -/
def sha256 (bs : List Byte) : List Byte :=
  let padded := bs ++ [0x80] ++ zeros ((119 - bs.length % 64) % 64) ++ beBytes 8 (8 * bs.length)
  (sha256Blocks (padded.length / 64) sha256H padded).flatMap (fun w => beBytes 4 w.toNat)

/-- HMAC-SHA-384 (R73). -/
def hmac384 (key msg : List Byte) : List Byte :=
  let k := padTo (if 128 < key.length then sha384 key else key) 128
  sha384 (k.map (fun b => b ^^^ 0x5C) ++ sha384 (k.map (fun b => b ^^^ 0x36) ++ msg))

/-! ### ECDSA P-384 (R55) -/

def ecP : Nat := 2 ^ 384 - 2 ^ 128 - 2 ^ 96 + 2 ^ 32 - 1
def ecB : Nat := 0xB3312FA7E23EE7E4988E056BE3F82D19181D9C6EFE8141120314088F5013875AC656398D8A2ED19D2A85C8EDD3EC2AEF
def ecN : Nat := 0xFFFFFFFFFFFFFFFFFFFFFFFFFFFFFFFFFFFFFFFFFFFFFFFFC7634D81F4372DDF581A0DB248B0A77AECEC196ACCC52973
def ecGx : Nat := 0xAA87CA22BE8B05378EB1C71EF320AD746E1D3B628BA79B9859F741E082542A385502F25DBF55296C3A545E3872760AB7
def ecGy : Nat := 0x3617DE4A96262C6F5D9E98BF9292DC29F8F41DBD289A147CE9DA3113B5F0B8C00A60B1CE1D7E819D7A431D7C90EA0E5F

/-- The low n bits of k, most significant first. -/
def bitsDown (n k : Nat) : List Bool := (List.range n).reverse.map (fun i => bitAt k i)

/-- x to the k modulo m, for k below 2 ^ 384. -/
def powMod (m x k : Nat) : Nat := (bitsDown 384 k).foldl (fun r b => if b then r * r % m * x % m else r * r % m) 1

/-- The inverse modulo a prime. -/
def invMod (m x : Nat) : Nat := powMod m x (m - 2)

def subMod (m a b : Nat) : Nat := (a + m - b % m) % m

/-- A point in Jacobian coordinates; z = 0 is the point at infinity. -/
structure EcPt where
  x : Nat
  y : Nat
  z : Nat

def EcPt.zero : EcPt := ⟨1, 1, 0⟩

def EcPt.double (p : EcPt) : EcPt :=
  let yy := p.y * p.y % ecP
  let s := 4 * p.x * yy % ecP
  let zz := p.z * p.z % ecP
  let m := 3 * (subMod ecP p.x zz * (p.x + zz) % ecP) % ecP
  let x := subMod ecP (m * m % ecP) (2 * s)
  ⟨x, subMod ecP (m * subMod ecP s x % ecP) (8 * yy * yy), 2 * p.y * p.z % ecP⟩

def EcPt.add (p q : EcPt) : EcPt :=
  if p.z = 0 then q
  else if q.z = 0 then p
  else
    let pz := p.z * p.z % ecP
    let qz := q.z * q.z % ecP
    let u1 := p.x * qz % ecP
    let u2 := q.x * pz % ecP
    let s1 := p.y * qz % ecP * q.z % ecP
    let s2 := q.y * pz % ecP * p.z % ecP
    if u1 = u2 then (if s1 = s2 then p.double else EcPt.zero)
    else
      let h := subMod ecP u2 u1
      let r := subMod ecP s2 s1
      let hh := h * h % ecP
      let hhh := hh * h % ecP
      let v := u1 * hh % ecP
      let x := subMod ecP (subMod ecP (r * r % ecP) hhh) (2 * v)
      ⟨x, subMod ecP (r * subMod ecP v x % ecP) (s1 * hhh), p.z * q.z % ecP * h % ecP⟩

/-- k times a point. -/
def EcPt.mul (k : Nat) (p : EcPt) : EcPt := (bitsDown 384 k).foldl (fun r b => if b then (r.double).add p else r.double) EcPt.zero

/-- Affine coordinates. -/
def EcPt.affine (p : EcPt) : Nat × Nat :=
  let i := invMod ecP p.z
  let ii := i * i % ecP
  (p.x * ii % ecP, p.y * ii % ecP * i % ecP)

def ecG : EcPt := ⟨ecGx, ecGy, 1⟩

/-- The public key X, Y of a private key. -/
def ecPublic (priv : Nat) : List Byte :=
  let a := (ecG.mul (priv % ecN)).affine
  beBytes 48 a.1 ++ beBytes 48 a.2

/-- The point lies on the curve, with both coordinates reduced. -/
def ecOnCurve (x y : Nat) : Bool :=
  decide (x < ecP) && decide (y < ecP) && y * y % ecP == (x * x % ecP * x + ecB + (ecP - 3) * x) % ecP

/-- ECDSA P-384 with SHA-384: the signature r, s of a message verifies under a public key X, Y. -/
def ecdsaVerify (pub sig msg : List Byte) : Bool :=
  let x := beAt pub 0 48
  let y := beAt pub 48 48
  let r := beAt sig 0 48
  let s := beAt sig 48 48
  if !(ecOnCurve x y && decide (0 < r) && decide (r < ecN) && decide (0 < s) && decide (s < ecN)) then false
  else
    let w := invMod ecN s
    let p := (ecG.mul (ofBe (sha384 msg) * w % ecN)).add (EcPt.mul (r * w % ecN) ⟨x, y, 1⟩)
    p.z != 0 && p.affine.1 % ecN == r

/-- The signature of a message by a private key under a nonce. -/
def ecdsaSign (priv nonce : Nat) (msg : List Byte) : List Byte :=
  let k := nonce % (ecN - 1) + 1
  let r := (ecG.mul k).affine.1 % ecN
  let s := invMod ecN k * (ofBe (sha384 msg) + r * (priv % ecN)) % ecN
  beBytes 48 r ++ beBytes 48 s

/-! ### LMS (R51, R55, RFC 8554) -/

/-- Winternitz parameter and chain count of an LM-OTS typecode with SHA-256 at n = 32. -/
def lmOts (typ : Nat) : Option (Nat × Nat) :=
  match typ with
  | 3 => some (4, 67)
  | 4 => some (8, 34)
  | _ => none

/-- Tree height of an LMS typecode with SHA-256 at m = 32, for the heights of R51. -/
def lmsHeight (typ : Nat) : Option Nat :=
  match typ with
  | 5 => some 5
  | 6 => some 10
  | 7 => some 15
  | 8 => some 20
  | _ => none

/-- Digit i of w bits of a byte string. -/
def lmsCoef (bs : List Byte) (w i : Nat) : Nat := bitsOf (bs.getD (i * w / 8) 0).toNat (8 - w - i * w % 8) w

/-- n steps of chain i from step j. -/
def lmsChain (pre : List Byte) (i : Nat) : Nat → Nat → List Byte → List Byte
  | 0, _, x => x
  | n + 1, j, x => lmsChain pre i n (j + 1) (sha256 (pre ++ beBytes 2 i ++ beBytes 1 j ++ x))

/-- The LM-OTS public key that a signature of a message leads to. `pre` is I and q. -/
def lmOtsKey (pre : List Byte) (w p : Nat) (c msg : List Byte) (y : Nat → List Byte) : List Byte :=
  let q := sha256 (pre ++ [0x81, 0x81] ++ c ++ msg)
  let top := 2 ^ w - 1
  let sum := ((List.range (256 / w)).map (fun i => top - lmsCoef q w i)).foldl (· + ·) 0
  let digits := q ++ beBytes 2 (if w = 4 then sum * 16 else sum)
  sha256 (pre ++ [0x80, 0x80] ++ (List.range p).flatMap (fun i =>
    let a := lmsCoef digits w i
    lmsChain pre i (top - a) a (y i)))

/-- From a node up to the root. -/
def lmsRoot (ident : List Byte) (path : Nat → List Byte) : Nat → Nat → Nat → List Byte → List Byte
  | 0, _, _, x => x
  | n + 1, i, node, x =>
    let pair := if node % 2 = 1 then path i ++ x else x ++ path i
    lmsRoot ident path n (i + 1) (node / 2) (sha256 (ident ++ beBytes 4 (node / 2) ++ [0x83, 0x83] ++ pair))

/-- The LMS signature of a message verifies under a 56-byte public key. -/
def lmsVerify (pub sig msg : List Byte) : Bool :=
  match lmsHeight (beAt pub 0 4), lmOts (beAt pub 4 4) with
  | some h, some (w, p) =>
    let q := beAt sig 0 4
    let ots := 40 + 32 * p
    if !(pub.length == 56 && beAt sig 4 4 == beAt pub 4 4 && sig.length == ots + 4 + 32 * h && beAt sig ots 4 == beAt pub 0 4 && decide (q < 2 ^ h))
    then false
    else
      let ident := slice pub 8 16
      let pre := ident ++ beBytes 4 q
      let key := lmOtsKey pre w p (slice sig 8 32) msg (fun i => slice sig (40 + 32 * i) 32)
      let leaf := sha256 (ident ++ beBytes 4 (2 ^ h + q) ++ [0x82, 0x82] ++ key)
      lmsRoot ident (fun i => slice sig (ots + 4 + 32 * i) 32) h 0 (2 ^ h + q) leaf == slice pub 24 32
  | _, _ => false

/-! ### AES-256 and GCM -/

/-- Twice an element of GF(2^8) modulo x^8 + x^4 + x^3 + x + 1. -/
def aesTwice (a : Nat) : Nat := if 128 ≤ a then Nat.xor (a * 2 % 256) 0x1B else a * 2

/-- The S-box of FIPS 197 as one number, the value of byte x in bits [8x + 7:8x]. -/
def sboxBits : Nat :=
  [0x16BB54B00F2D99416842E6BF0D89A18C, 0xDF2855CEE9871E9B948ED9691198F8E1,
   0x9E1DC186B95735610EF6034866B53E70, 0x8A8BBD4B1F74DDE8C6B4A61C2E2578BA,
   0x08AE7A65EAF4566CA94ED58D6D37C8E7, 0x79E4959162ACD3C25C2406490A3A32E0,
   0xDB0B5EDE14B8EE4688902A22DC4F8160, 0x73195D643D7EA7C41744975FEC130CCD,
   0xD2F3FF1021DAB6BCF5389D928F40A351, 0xA89F3C507F02F94585334D43FBAAEFD0,
   0xCF584C4A39BECB6A5BB1FC20ED00D153, 0x842FE329B3D63B52A05A6E1B1A2C8309,
   0x75B227EBE28012079A059618C323C704, 0x1531D871F1E5A534CCF73F362693FDB7,
   0xC072A49CAFA2D4ADF04759FA7DC982CA, 0x76ABD7FE2B670130C56F6BF27B777C63].foldl (fun r w => 2 ^ 128 * r + w) 0

/-- The S-box read from its table. -/
def aesBox (x : Nat) : Nat := bitsOf sboxBits (8 * x) 8

/-- Words of the key schedule, newest first, from i words on, n more. -/
def aesExpand : Nat → Nat → Nat → List (List Nat) → List (List Nat)
  | 0, _, _, ws => ws
  | n + 1, i, rcon, ws =>
    let t := ws.headD []
    let t' := if i % 8 = 0 then
        (match (t.drop 1 ++ t.take 1).map aesBox with | a :: r => Nat.xor a rcon :: r | [] => [])
      else if i % 8 = 4 then t.map aesBox else t
    let w := (t'.zip (ws.getD 7 [])).map (fun x => Nat.xor x.1 x.2)
    aesExpand n (i + 1) (if i % 8 = 0 then aesTwice rcon else rcon) (w :: ws)

/-- The fifteen round keys of a 32-byte key. -/
def aesKeys (key : List Nat) : List (List Nat) :=
  let ws := (aesExpand 52 8 1 ((List.range 8).map (fun i => slice key (4 * i) 4)).reverse).reverse
  (List.range 15).map (fun r => (slice ws (4 * r) 4).flatten)

def aesXor (a b : List Nat) : List Nat := (a.zip b).map (fun x => Nat.xor x.1 x.2)

/-- SubBytes and ShiftRows. -/
def aesShift (s : List Nat) : List Nat := (List.range 16).map (fun i => aesBox (s.getD ((i + 4 * (i % 4)) % 16) 0))

def aesMix (s : List Nat) : List Nat :=
  (List.range 16).map (fun i =>
    let g (k : Nat) : Nat := s.getD (i / 4 * 4 + (i + k) % 4) 0
    Nat.xor (Nat.xor (aesTwice (Nat.xor (g 0) (g 1))) (g 1)) (Nat.xor (g 2) (g 3)))

/-- One block under the round keys. -/
def aesBlock (keys : List (List Nat)) (block : List Nat) : List Nat :=
  match keys with
  | [] => block
  | k0 :: rest =>
    let s := (rest.take 13).foldl (fun s k => aesXor (aesMix (aesShift s)) k) (aesXor block k0)
    aesXor (aesShift s) (rest.getD 13 [])

/-- Product in GF(2^128) with the bit order of GCM: bit 127 is the coefficient of 1. -/
def gcmMul (x y : Nat) : Nat :=
  ((List.range 128).foldl (fun (r : Nat × Nat) i =>
    (if bitAt x (127 - i) then Nat.xor r.1 r.2 else r.1, if r.2 % 2 = 1 then Nat.xor (r.2 / 2) (0xE1 * 2 ^ 120) else r.2 / 2)) (0, y)).1

/-- The 16-byte blocks of a byte string, the last padded with zeros. -/
def blocks16 (bs : List Byte) : List Nat := (List.range (divUp bs.length 16)).map (fun i => ofBe (padTo (slice bs (16 * i) 16) 16))

/-- One block under a key, as a number. -/
def aesNum (key block : List Byte) : Nat := ofBe ((aesBlock (aesKeys (key.map (·.toNat))) (block.map (·.toNat))).map (BitVec.ofNat 8 ·))

/-- The data under the key stream of a 96-bit nonce: enciphered, or deciphered. -/
def gcmStream (key nonce data : List Byte) : List Byte :=
  (data.zip ((List.range (divUp data.length 16)).flatMap (fun i => beBytes 16 (aesNum key (nonce ++ beBytes 4 (i + 2)))))).map (fun x => x.1 ^^^ x.2)

/-- The 16-byte tag of a ciphertext and its associated data. -/
def gcmTag (key nonce aad ct : List Byte) : List Byte :=
  let h := aesNum key (zeros 16)
  let g := (blocks16 aad ++ blocks16 ct ++ [8 * aad.length * 2 ^ 64 + 8 * ct.length]).foldl (fun y b => gcmMul (Nat.xor y b) h) 0
  beBytes 16 (Nat.xor g (aesNum key (nonce ++ beBytes 4 1)))

/-- AES-256-GCM: the ciphertext of the data under a 96-bit nonce, then the 16-byte tag. -/
def aesGcm (key nonce aad data : List Byte) : List Byte :=
  let ct := gcmStream key nonce data
  ct ++ gcmTag key nonce aad ct

/-- AES-256-GCM opened: the data, where the tag is right. -/
def aesGcmOpen (key nonce aad sealed : List Byte) : Option (List Byte) :=
  let ct := sealed.take (sealed.length - 16)
  if 16 ≤ sealed.length ∧ gcmTag key nonce aad ct = sealed.drop (sealed.length - 16) then some (gcmStream key nonce ct) else none

end Sys2Proof.Machine
end

