-- ==== Sys2Proof/Machine/Flags.lean ====
section
/-! DEFINITION. Status flags shared by every unit: the counters of the gauge bank (R453 to R460) and the events (R476 to R480). -/

namespace Sys2Proof.Machine

/-! ### The counter bank -/

def ctrMax : Nat := 2 ^ 48 - 1

def Dev.ctr (d : Dev) (c : Nat) : Nat × Bool := SMap.getD d.gauge.ctr c (0, false)

def Dev.setCtr (d : Dev) (c : Nat) (v : Nat × Bool) : Dev :=
  { d with gauge := { d.gauge with ctr := SMap.write d.gauge.ctr c v (0, false) } }

/-- CHAIN of an even counter; fixed pairs 0-1 and 2-3 of a port are always chained (R458). -/
def Dev.chained (d : Dev) (c : Nat) : Bool :=
  c % 2 == 0 && (if c < 4096 then d.on (R.GAUGE_FLT_A_CHAIN c) else c % 16 < 4)

/-- CHAIN as GAUGE_CTR and GAUGE_CRD show it (R458, R460); the fixed counters of a port that is not fitted read as zero (R3). -/
def Dev.chainBit (d : Dev) (c : Nat) : Bool :=
  if c < 4096 then d.on (R.GAUGE_FLT_A_CHAIN c) else c % 16 < 4 && c % 2 == 0 && d.portDieFitted ((c - 4096) / 2048)

/-- Whether setting OVF of counter c raises an event (R459). -/
def Dev.ovfEvt (d : Dev) (c : Nat) : Bool :=
  if c < 4096 then d.on (R.GAUGE_FLT_A_OVFEVT c) else d.on R.GAUGE_UCFG_FOVFEVT

/-- Add to a counter that is not the lower half of a chain: saturates and sets OVF (R459). Answers whether OVF went to 1. -/
def Dev.addSat (d : Dev) (c n : Nat) : Dev × Bool :=
  let v := d.ctr c
  if v.2 then (d, false)
  else if ctrMax < v.1 + n then (d.setCtr c (ctrMax, true), true)
  else (d.setCtr c (v.1 + n, false), false)

/-- Add n to counter c (R455, R458, R459). Answers the counters whose OVF raises an event now. -/
def Dev.addCtr (d : Dev) (c n : Nat) : Dev × List Nat :=
  if d.chained c then
    let v := (d.ctr c).1 + n
    let d := d.setCtr c (v % 2 ^ 48, (d.ctr c).2)
    if v ≤ ctrMax then (d, [])
    else
      let r := d.addSat (c + 1) 1
      (r.1, if r.2 && d.ovfEvt (c + 1) then [c + 1] else [])
  else
    let r := d.addSat c n
    (r.1, if r.2 && d.ovfEvt c then [c] else [])

/-- What a programmable counter sees of an event (R456). -/
structure CtrEvent where
  src : Nat
  inc : Nat
  req : Nat
  /-- None: not compared. -/
  addr : Option Nat
  cls : Nat
  priv : Nat

/-- The programmable counters that count an event, by the four filters of R456; the upper half of a chain counts carries only. -/
def Dev.countersFor (d : Dev) (e : CtrEvent) : List Nat :=
  (d.csr.filter (fun x => decide (R.GAUGE_FLT_A 0 ≤ x.1) && decide (x.1 < R.GAUGE_FLT_A 4096) && x.1 % 16 == 0
      && bitsOf x.2.toNat 0 4 == e.src)).filterMap (fun x =>
    let c := (x.1 - R.GAUGE_FLT_A 0) / 16
    let reqOk := Nat.land (Nat.xor e.req (d.get (R.GAUGE_FLT_B_REQ c))) (d.get (R.GAUGE_FLT_B_REQMASK c)) == 0
    let addrOk := match e.addr with
      | none => true
      | some a => decide (d.get (R.GAUGE_FLT_C_ALO c) ≤ a) && decide (a ≤ d.get (R.GAUGE_FLT_D_AHI c))
    if bitAt (d.get (R.GAUGE_FLT_A_PRIV c)) e.priv && reqOk && addrOk && bitAt (d.get (R.GAUGE_FLT_A_CLASSMASK c)) e.cls
        && !(c % 2 == 1 && d.chained (c - 1)) then some c else none)

def addCtrs (cs : List (Nat × Nat)) (d : Dev) : Dev × List Nat :=
  cs.foldl (fun r x => let q := r.1.addCtr x.1 x.2; (q.1, r.2 ++ q.2)) (d, [])

/-! ### Events -/

/-- An event to raise: class, block, code, unit, two details, job and generation. -/
structure EventReq where
  cls : Fin 4
  block : Nat
  code : Nat
  unit : Nat
  arg0 : Nat := 0
  arg1 : Nat := 0
  job : Option (Nat × Nat) := none

/-- The 32-byte record of R477; `mb n v` lays out a multi-byte field. -/
def eventRecord (mb : Nat → Nat → List Byte) (e : Event) (repeats lost : Nat) : List Byte :=
  beBytes 1 (e.cls.val + b2n e.job.isSome * 4) ++ [e.block] ++ mb 2 e.code ++
  mb 2 (match e.job with | some j => j.1.toNat | none => 0) ++
  mb 1 (match e.job with | some j => j.2.toNat | none => 0) ++ mb 1 (min 255 repeats) ++ mb 8 e.turn ++
  mb 4 e.unit ++ mb 4 e.arg0 ++ mb 4 e.arg1 ++ mb 2 (min 65535 lost) ++ mb 2 e.eseq

def evtRing : RingRef := ⟨R.GLB_EVT_BASE, R.GLB_EVT_CFG_LOG2SIZE, R.GLB_EVT_CFG_EN, R.GLB_EVT_HEAD_HEAD, R.GLB_EVT_TAIL_TAIL, 32, 6, 16⟩

/-- Count an event that is dropped (R478). -/
def dropEvent (d : Dev) : Dev := { d.bump R.GLB_EVT_CNT_LOST with ras := { d.ras with lost := d.ras.lost + 1 } }

/-- The turn of the CE record that a CE event merges into, where there is one (R479). -/
def mergesWith (d : Dev) (e : Event) : Bool :=
  e.cls == 0 && d.ras.ceLast.any (fun x => x.1 == (e.block, e.code, e.unit) && decide (x.2 ≤ e.turn) &&
    decide (e.turn - x.2 < d.get R.GLB_EVT_CFG_CEHOLD))

def repeatsOf (d : Dev) (e : Event) : Nat :=
  ((d.ras.ceRepeat.filter (fun x => x.1 == (e.block, e.code))).map (·.2)).foldl (· + ·) 0

/-- The PCIe endpoint can send: its link is up and it is not in D3hot (R508, R509). -/
def Dev.pcieUp (d : Dev) : Bool := d.on R.MGT_PCIE_STAT_UP && !d.ras.d3hot

/-- MSI-X vector 0 goes with each record of the event ring while EVTIRQ is 1 (R508). -/
def eventIrq (d : Dev) : Dev := if d.on R.MGT_PCIE_CFG_EVTIRQ && d.pcieUp then d.emit (.msix 0) else d

/-- Write, merge or drop one event (R478, R479). -/
def logEvent (e : Event) (d : Dev) : Dev :=
  if mergesWith d e then
    { d with ras := { d.ras with
        ceRepeat := d.ras.ceRepeat.filter (fun x => x.1 != (e.block, e.code)) ++ [((e.block, e.code), repeatsOf d e + 1)] } }
  else if !d.ringOn evtRing || d.ringFull evtRing then dropEvent d
  else
    let d' := eventIrq (d.ringPush evtRing (eventRecord leBytes e (repeatsOf d e) d.ras.lost))
    { d' with ras := { d'.ras with
        lost := 0
        ceRepeat := d'.ras.ceRepeat.filter (fun x => x.1 != (e.block, e.code))
        ceLast := if e.cls == 0 then
            d'.ras.ceLast.filter (fun x => x.1 != (e.block, e.code, e.unit)) ++ [((e.block, e.code, e.unit), e.turn)]
          else d'.ras.ceLast } }

/-- The frame in which management port 1 sends a telemetry packet (R471). -/
def mgmtTelemetry (d : Dev) (pkt : List Byte) : List Byte :=
  ofpOverEth (d.rd64 R.GAUGE_TEL_MGTDA) (d.rd64 (R.MGT_MP_MAC 1)) (d.get (R.PORT_OFPE_ETYPE 0)) pkt

/-- Send a telemetry packet where SPRAY_MAP_CFG.DEST says (R471, R480). DEST 0 and 3 send nothing. `eng` is its engine in
the sense of R530; the fragments of a map for management port 1 wait in turn as engine 6, since one may still be unsent at the next boundary
(R470). -/
def sendTelemetry (eng : Nat) (payload : List Byte) (d : Dev) : Dev :=
  let pkt := ofpPacket { type := 6, tc := d.get R.GAUGE_TEL_CFG_TC, dst := d.get R.SPRAY_MAP_EID_EID,
                         src := d.get R.FWD_SELF_EID, seq := d.spray.telSeq } payload
  let d' := { d with spray := { d.spray with telSeq := (d.spray.telSeq + 1) % 2 ^ 32 } }
  match d.get R.SPRAY_MAP_CFG_DEST with
  | 1 => { d' with cist := { d'.cist with
             built := d'.cist.built ++ [⟨eng, none, builtPkt d'.cist.nextId d'.turn pkt none⟩], nextId := d'.cist.nextId + 1 } }
  | 2 =>
    if eng = 3 then { d' with cist := { d'.cist with built := d'.cist.built ++ [⟨6, none, builtPkt 0 d'.turn pkt none⟩] } }
    else d'.emit (.mgmt 1 (mgmtTelemetry d pkt))
  | _ => d

/-- Forward an event to the fabric manager (R480): UC and FATAL always, CE and DE by FWDMASK and RATE. -/
def forwardEvent (e : Event) (d : Dev) : Dev :=
  let dest := d.get R.SPRAY_MAP_CFG_DEST
  if (e.cls.val < 2 && !(bitAt (d.get R.GLB_EVT_CFG_FWDMASK) e.cls.val)) || (dest != 1 && dest != 2) then d
  else if e.cls.val < 2 && decide (d.get R.GLB_EVT_FWD_RATE ≤ d.ras.fwdThisTurn) then d.bump R.GLB_EVT_CNT_FWDDROP
  else
    let d' := sendTelemetry 4 (mapHeader 2 false false 0 0 0 0 e.turn (d.rd (R.PORT_SWID 0)).toNat 0 0
      ++ eventRecord beBytes e 0 0) d
    if e.cls.val < 2 then { d' with ras := { d'.ras with fwdThisTurn := d'.ras.fwdThisTurn + 1 } } else d'

/-- Raise one event: number it, forward it, hold or write it, and count it in the counters of SRC 7; counters that overflow
raise their own (R459). -/
def raiseFuel : Nat → EventReq → Dev → Dev
  | 0, _, d => d
  | n + 1, q, d =>
    let e : Event := ⟨q.cls, q.job.map (fun j => (BitVec.ofNat 16 j.1, BitVec.ofNat 8 j.2)), BitVec.ofNat 8 q.block, q.code,
      q.unit, q.arg0, q.arg1, d.turn, d.ras.eseq⟩
    let d := { d with ras := { d.ras with eseq := (d.ras.eseq + 1) % 65536 } }
    let d := forwardEvent e d
    let d := if d.ras.everEnabled then logEvent e d
      else if d.ras.held.length < 64 then { d with ras := { d.ras with held := d.ras.held ++ [e] } }
      else dropEvent d
    let r := addCtrs ((d.countersFor ⟨7, 1, q.block, none, q.cls.val, 0⟩).map (fun c => (c, 1))) d
    r.2.foldl (fun d c => raiseFuel n ⟨0, 0x50, 2, c, 0, 0, none⟩ d) r.1

/-- Each level of an overflow event sets one more OVF, so the counters bound the depth. -/
def raise (q : EventReq) (d : Dev) : Dev := raiseFuel 20481 q d

/-- Block numbers: bits 31..24 of the window base (R519). -/
def blkGlb : Nat := 0x00
def blkTime : Nat := 0x01
def blkSec : Nat := 0x02
def blkMgt : Nat := 0x03
def blkOpt : Nat := 0x04
def blkPort (die : Nat) : Nat := 0x10 + die
def blkCist : Nat := 0x21
def blkRes : Nat := 0x22
def blkQue : Nat := 0x23
def blkFwd : Nat := 0x24
def blkSpray : Nat := 0x25
def blkBasin : Nat := 0x30
def blkTally : Nat := 0x31
def blkHaul : Nat := 0x32
def blkSlu (m : Nat) : Nat := 0x40 + m
def blkFlume : Nat := 0x48
def blkGauge : Nat := 0x50
def blkTest : Nat := 0x60

def raiseCE (block code unit : Nat) (d : Dev) (arg0 arg1 : Nat := 0) : Dev := raise ⟨0, block, code, unit, arg0, arg1, none⟩ d
def raiseDE (block code unit : Nat) (d : Dev) (arg0 arg1 : Nat := 0) : Dev := raise ⟨1, block, code, unit, arg0, arg1, none⟩ d
def raiseFatal (block code unit : Nat) (d : Dev) (arg0 arg1 : Nat := 0) : Dev := raise ⟨3, block, code, unit, arg0, arg1, none⟩ d

/-- The "write refused" event of R527: `lock` for a lock violation. -/
def refuseWrite (addr : Nat) (req : ReqId) (val : Word) (lock : Bool) (d : Dev) : Dev :=
  raise ⟨0, addr / 2 ^ 24, 1, addr, req.toNat + b2n lock * 2 ^ 31, val.toNat, none⟩ d

/-- The event ring becomes enabled for the first time: the held events are written, oldest first (R478). -/
def releaseHeld (d : Dev) : Dev :=
  if d.ras.everEnabled || !d.ringOn evtRing then d
  else Dev.each d.ras.held logEvent { d with ras := { d.ras with everEnabled := true, held := [] } }

/-! ### Counting -/

/-- Add to counters and raise the overflow events. -/
def countMany (cs : List (Nat × Nat)) (d : Dev) : Dev :=
  let r := addCtrs cs d
  Dev.each r.2 (fun c d => raiseCE blkGauge 2 c d) r.1

/-- Fixed counter k of port p (R453, R454). -/
def countPort (p k : Nat) (d : Dev) (n : Nat := 1) : Dev := countMany [(4096 + 16 * p + k, n)] d

/-- An event of R456 passes to the programmable counters. -/
def countEvent (e : CtrEvent) (d : Dev) : Dev := countMany ((d.countersFor e).map (fun c => (c, e.inc))) d

/-- The programmable counters that count accesses to the lines lo to hi of a space, each with how many of them lie in its address range:
SRC 5 for the commons and 4 for the reservoir (R456). -/
def Dev.lineCounters (d : Dev) (sp req cls priv lo hi : Nat) : List (Nat × Nat) :=
  (d.countersFor ⟨5 - sp, 0, req, none, cls, priv⟩).filterMap (fun c =>
    let n := min hi (1024 * d.get (R.GAUGE_FLT_D_AHI c) + 1023) + 1 - max lo (1024 * d.get (R.GAUGE_FLT_C_ALO c))
    if n = 0 then none else some (c, n))

/-- n bytes at a are accessed, one access for each 64-byte line (R456). `cls` 0 read, 1 write, 2 read-modify-write. -/
def countLines (sp req cls priv a n : Nat) (d : Dev) : Dev :=
  if n = 0 then d else countMany (d.lineCounters sp req cls priv (a / 64) ((a + n - 1) / 64)) d

/-- Requester IDs of R456: kind and index. -/
def requester (kind idx : Nat) : Nat := 256 * kind + idx

end Sys2Proof.Machine
end

