-- ==== Sys2Proof/Machine/RegTable.lean ====
section
/-! DEFINITION. The register tables of the spec: for every register its base, indices, unit and fields with access code and
reset column (R3, R9, R11, R519, R521). -/

namespace Sys2Proof.Machine

/-- Access codes of R11. -/
inductive Acc where
  | ro | rw | rwl | w1c | w1s | rc | wo
  deriving DecidableEq, Repr

/-- The Reset column of R11: a value, or "image", or "fuse" (R521), or 0b01 per fitted die (R24). -/
inductive Rst where
  | val (n : Nat) | image | fuse | fit
  deriving DecidableEq, Repr

/-- The unit a register belongs to (R3): the index that names it, by its place among the register's indices, and how many
indices fall on one port die. -/
inductive UnitOf where
  | always
  | portDie (dim : Nat) (per : Nat)
  | compute (dim : Nat)
  | stack (dim : Nat)
  | d2d (dim : Nat)
  deriving DecidableEq, Repr

structure FieldDef where
  hi : Nat
  lo : Nat
  acc : Acc
  rst : Rst
  deriving DecidableEq, Repr

structure RegDef where
  base : Nat
  /-- Count and stride of each index. -/
  dims : List (Nat × Nat)
  unit : UnitOf
  fields : List FieldDef
  deriving DecidableEq, Repr

def RF.GLB_IDENT : List FieldDef := [⟨7, 0, .ro, .fuse⟩, ⟨15, 8, .ro, .fuse⟩]
def RF.GLB_IDENT_FIT : List FieldDef := [⟨7, 0, .ro, .fuse⟩, ⟨15, 8, .ro, .fuse⟩, ⟨17, 16, .ro, .fuse⟩]
def RF.GLB_DIE_STATUS : List FieldDef := [⟨1, 0, .ro, .val 1⟩, ⟨3, 2, .ro, .val 1⟩, ⟨19, 4, .ro, .fit⟩, ⟨23, 20, .ro, .fit⟩]
def RF.GLB_REFCLK : List FieldDef := [⟨0, 0, .rwl, .image⟩, ⟨1, 1, .rwl, .image⟩, ⟨4, 4, .ro, .val 0⟩, ⟨8, 8, .ro, .val 0⟩, ⟨9, 9, .ro, .val 0⟩, ⟨12, 12, .w1c, .val 0⟩]
def RF.GLB_LC : List FieldDef := [⟨2, 0, .ro, .fuse⟩, ⟨3, 3, .ro, .fuse⟩]
def RF.GLB_RST_CTL : List FieldDef := [⟨0, 0, .wo, .val 0⟩, ⟨31, 16, .wo, .val 0⟩]
def RF.GLB_RST_CAUSE : List FieldDef := [⟨0, 0, .ro, .val 1⟩, ⟨1, 1, .ro, .val 0⟩, ⟨2, 2, .ro, .val 0⟩, ⟨3, 3, .ro, .val 0⟩, ⟨10, 8, .ro, .val 0⟩]
def RF.GLB_WIPE_STATUS : List FieldDef := [⟨0, 0, .ro, .val 0⟩, ⟨1, 1, .ro, .val 0⟩, ⟨2, 2, .ro, .val 0⟩, ⟨15, 8, .ro, .val 0⟩, ⟨23, 16, .ro, .val 0⟩]
def RF.GLB_TURN_STATUS : List FieldDef := [⟨1, 0, .ro, .val 0⟩, ⟨2, 2, .w1c, .val 0⟩, ⟨16, 4, .ro, .val 0⟩]
def RF.GLB_TURN_NUM : List FieldDef := [⟨63, 0, .ro, .val 0⟩]
def RF.GLB_TURN_OVR : List FieldDef := [⟨15, 0, .rc, .val 0⟩, ⟨31, 16, .ro, .val 0⟩]
def RF.GLB_PWR_BUDGET : List FieldDef := [⟨11, 0, .rw, .image⟩, ⟨19, 12, .rw, .image⟩]
def RF.GLB_PWR_LIM : List FieldDef := [⟨11, 0, .rw, .image⟩, ⟨12, 12, .ro, .val 0⟩, ⟨13, 13, .w1c, .val 0⟩]
def RF.GLB_PWR_CLASS : List FieldDef := [⟨7, 0, .rwl, .image⟩, ⟨15, 8, .rw, .image⟩, ⟨18, 16, .rw, .image⟩]
def RF.GLB_PWR_GRANT : List FieldDef := [⟨7, 0, .ro, .val 128⟩, ⟨8, 8, .ro, .val 0⟩, ⟨27, 16, .ro, .val 0⟩]
def RF.GLB_PWR_MEAS : List FieldDef := [⟨11, 0, .ro, .val 0⟩, ⟨12, 12, .w1c, .val 0⟩]
def RF.GLB_THERM_CFG : List FieldDef := [⟨7, 0, .rw, .image⟩, ⟨15, 8, .rw, .image⟩, ⟨23, 16, .rw, .image⟩]
def RF.GLB_THERM_STATUS : List FieldDef := [⟨10, 0, .ro, .val 0⟩, ⟨15, 11, .ro, .val 0⟩, ⟨16, 16, .ro, .val 0⟩, ⟨17, 17, .ro, .val 0⟩]
def RF.GLB_EVT_BASE : List FieldDef := [⟨63, 5, .rw, .val 0⟩]
def RF.GLB_EVT_CFG : List FieldDef := [⟨4, 0, .rw, .val 0⟩, ⟨8, 8, .rw, .val 0⟩, ⟨15, 12, .rw, .image⟩, ⟨31, 16, .rw, .image⟩]
def RF.GLB_EVT_HEAD : List FieldDef := [⟨15, 0, .ro, .val 0⟩]
def RF.GLB_EVT_TAIL : List FieldDef := [⟨15, 0, .rw, .val 0⟩]
def RF.GLB_EVT_FWD : List FieldDef := [⟨7, 0, .rw, .image⟩]
def RF.GLB_EVT_CNT : List FieldDef := [⟨15, 0, .rc, .val 0⟩, ⟨31, 16, .rc, .val 0⟩]

/-- Registers of GLB: R525, R24, R20, R69, R68, R82, R85, R88, R501, R92, R495. -/
def regsGlb0 : List RegDef := [
  ⟨0x00000000, [], .always, RF.GLB_IDENT⟩,
  ⟨0x00000004, [], .always, RF.GLB_IDENT_FIT⟩,
  ⟨0x00000040, [], .always, RF.GLB_DIE_STATUS⟩,
  ⟨0x00000050, [], .always, RF.GLB_REFCLK⟩,
  ⟨0x00000060, [], .always, RF.GLB_LC⟩,
  ⟨0x00000070, [], .always, RF.GLB_RST_CTL⟩,
  ⟨0x00000074, [], .always, RF.GLB_RST_CAUSE⟩,
  ⟨0x00000078, [], .always, RF.GLB_WIPE_STATUS⟩,
  ⟨0x00000100, [], .always, RF.GLB_TURN_STATUS⟩,
  ⟨0x00000108, [], .always, RF.GLB_TURN_NUM⟩,
  ⟨0x00000120, [(8, 0x4)], .always, RF.GLB_TURN_OVR⟩,
  ⟨0x00000200, [], .always, RF.GLB_PWR_BUDGET⟩,
  ⟨0x00000204, [], .always, RF.GLB_PWR_LIM⟩,
  ⟨0x00000210, [(8, 0x4)], .always, RF.GLB_PWR_CLASS⟩,
  ⟨0x00000230, [(8, 0x4)], .always, RF.GLB_PWR_GRANT⟩,
  ⟨0x00000250, [], .always, RF.GLB_PWR_MEAS⟩,
  ⟨0x00000300, [], .always, RF.GLB_THERM_CFG⟩,
  ⟨0x00000304, [], .always, RF.GLB_THERM_STATUS⟩,
  ⟨0x00000400, [], .always, RF.GLB_EVT_BASE⟩,
  ⟨0x00000408, [], .always, RF.GLB_EVT_CFG⟩,
  ⟨0x0000040C, [], .always, RF.GLB_EVT_HEAD⟩,
  ⟨0x00000410, [], .always, RF.GLB_EVT_TAIL⟩,
  ⟨0x00000414, [], .always, RF.GLB_EVT_FWD⟩,
  ⟨0x00000418, [], .always, RF.GLB_EVT_CNT⟩]

def RF.TIME_RAW : List FieldDef := [⟨63, 0, .ro, .val 0⟩]
def RF.TIME_SNAP : List FieldDef := [⟨0, 0, .w1s, .val 0⟩]
def RF.TIME_SNAP_RAW : List FieldDef := [⟨63, 0, .ro, .val 0⟩]
def RF.TIME_SNAP_BRAW : List FieldDef := [⟨63, 0, .ro, .val 0⟩]
def RF.TIME_SNAP_BSEC : List FieldDef := [⟨47, 0, .ro, .val 0⟩]
def RF.TIME_SNAP_BNS : List FieldDef := [⟨31, 0, .ro, .val 0⟩]
def RF.TIME_SNAP_BFRAC : List FieldDef := [⟨15, 0, .ro, .val 0⟩]
def RF.TIME_SNAP_ADJ : List FieldDef := [⟨31, 0, .ro, .val 0⟩]
def RF.TIME_SNAP_TSEC : List FieldDef := [⟨47, 0, .ro, .val 0⟩]
def RF.TIME_SNAP_TNS : List FieldDef := [⟨31, 0, .ro, .val 0⟩]
def RF.TIME_SNAP_TFRAC : List FieldDef := [⟨15, 0, .ro, .val 0⟩]
def RF.TIME_CFG : List FieldDef := [⟨0, 0, .rwl, .image⟩, ⟨1, 1, .rwl, .image⟩, ⟨15, 8, .rwl, .image⟩, ⟨23, 16, .rwl, .image⟩, ⟨31, 24, .rw, .image⟩]
def RF.TIME_SERVO : List FieldDef := [⟨3, 0, .rw, .image⟩, ⟨7, 4, .rw, .image⟩, ⟨15, 8, .rw, .image⟩, ⟨31, 16, .rw, .image⟩]
def RF.TIME_STEP : List FieldDef := [⟨15, 0, .rw, .image⟩, ⟨19, 16, .rw, .image⟩]
def RF.TIME_HOLD : List FieldDef := [⟨15, 0, .rw, .image⟩, ⟨23, 16, .rw, .image⟩, ⟨31, 24, .rw, .image⟩]
def RF.TIME_STATUS : List FieldDef := [⟨1, 0, .ro, .val 0⟩, ⟨2, 2, .ro, .val 0⟩, ⟨3, 3, .ro, .val 0⟩, ⟨14, 4, .ro, .val 0x7FF⟩, ⟨23, 16, .ro, .val 0⟩, ⟨26, 24, .ro, .val 0⟩, ⟨27, 27, .w1c, .val 0⟩]
def RF.TIME_ROOTID : List FieldDef := [⟨31, 0, .ro, .val 0⟩]
def RF.TIME_OFFSET : List FieldDef := [⟨31, 0, .ro, .val 0⟩]
def RF.TIME_DELAY : List FieldDef := [⟨31, 0, .ro, .val 0⟩]
def RF.TIME_ADJAVG : List FieldDef := [⟨31, 0, .ro, .val 0⟩]
def RF.TIME_CTL : List FieldDef := [⟨0, 0, .w1s, .val 0⟩, ⟨1, 1, .w1s, .val 0⟩, ⟨2, 2, .w1s, .val 0⟩, ⟨3, 3, .rw, .val 0⟩]
def RF.TIME_STEER_ADJ : List FieldDef := [⟨31, 0, .rw, .val 0⟩]
def RF.TIME_STEER_PH : List FieldDef := [⟨31, 0, .rw, .val 0⟩]
def RF.TIME_SET_SEC : List FieldDef := [⟨47, 0, .rw, .val 0⟩]
def RF.TIME_SET_NS : List FieldDef := [⟨29, 0, .rw, .val 0⟩]

/-- Registers of TIME: R430. -/
def regsTime0 : List RegDef := [
  ⟨0x01000000, [], .always, RF.TIME_RAW⟩,
  ⟨0x01000010, [], .always, RF.TIME_SNAP⟩,
  ⟨0x01000018, [], .always, RF.TIME_SNAP_RAW⟩,
  ⟨0x01000020, [], .always, RF.TIME_SNAP_BRAW⟩,
  ⟨0x01000028, [], .always, RF.TIME_SNAP_BSEC⟩,
  ⟨0x01000030, [], .always, RF.TIME_SNAP_BNS⟩,
  ⟨0x01000034, [], .always, RF.TIME_SNAP_BFRAC⟩,
  ⟨0x01000038, [], .always, RF.TIME_SNAP_ADJ⟩,
  ⟨0x01000040, [], .always, RF.TIME_SNAP_TSEC⟩,
  ⟨0x01000048, [], .always, RF.TIME_SNAP_TNS⟩,
  ⟨0x0100004C, [], .always, RF.TIME_SNAP_TFRAC⟩,
  ⟨0x01000080, [], .always, RF.TIME_CFG⟩,
  ⟨0x01000084, [], .always, RF.TIME_SERVO⟩,
  ⟨0x01000088, [], .always, RF.TIME_STEP⟩,
  ⟨0x0100008C, [], .always, RF.TIME_HOLD⟩,
  ⟨0x010000A0, [], .always, RF.TIME_STATUS⟩,
  ⟨0x010000A4, [], .always, RF.TIME_ROOTID⟩,
  ⟨0x010000A8, [], .always, RF.TIME_OFFSET⟩,
  ⟨0x010000AC, [], .always, RF.TIME_DELAY⟩,
  ⟨0x010000B0, [], .always, RF.TIME_ADJAVG⟩,
  ⟨0x010000C0, [], .always, RF.TIME_CTL⟩,
  ⟨0x010000C4, [], .always, RF.TIME_STEER_ADJ⟩,
  ⟨0x010000C8, [], .always, RF.TIME_STEER_PH⟩,
  ⟨0x010000D0, [], .always, RF.TIME_SET_SEC⟩,
  ⟨0x010000D8, [], .always, RF.TIME_SET_NS⟩]

def RF.TIME_CORR : List FieldDef := [⟨15, 0, .ro, .fuse⟩, ⟨31, 16, .ro, .fuse⟩]
def RF.TIME_CNT : List FieldDef := [⟨31, 0, .rc, .val 0⟩]
def RF.TIME_TSR_BASE : List FieldDef := [⟨63, 5, .rw, .val 0⟩]
def RF.TIME_TSR_CFG : List FieldDef := [⟨4, 0, .rw, .val 0⟩, ⟨8, 8, .rw, .val 0⟩]
def RF.TIME_TSR_HEAD : List FieldDef := [⟨15, 0, .ro, .val 0⟩]
def RF.TIME_TSR_TAIL : List FieldDef := [⟨15, 0, .rw, .val 0⟩]
def RF.TIME_CAP_CFG : List FieldDef := [⟨1, 0, .rw, .image⟩]
def RF.TIME_CAP_SEC : List FieldDef := [⟨47, 0, .ro, .val 0⟩]
def RF.TIME_CAP_NS : List FieldDef := [⟨31, 0, .ro, .val 0⟩]
def RF.TIME_CAP_STAT : List FieldDef := [⟨15, 0, .ro, .val 0⟩, ⟨16, 16, .ro, .val 0⟩, ⟨21, 17, .ro, .val 0⟩, ⟨22, 22, .w1c, .val 0⟩, ⟨23, 23, .w1s, .val 0⟩]
def RF.TIME_PPS_CFG : List FieldDef := [⟨0, 0, .rw, .image⟩, ⟨1, 1, .rw, .image⟩, ⟨11, 2, .rw, .image⟩, ⟨31, 12, .rw, .image⟩]
def RF.TIME_PPS_PHASE : List FieldDef := [⟨31, 0, .rw, .image⟩]
def RF.TIME_PORT_ASYM : List FieldDef := [⟨15, 0, .rw, .image⟩]

/-- Registers of TIME: R430. -/
def regsTime1 : List RegDef := [
  ⟨0x01000100, [(8, 0x4)], .always, RF.TIME_CORR⟩,
  ⟨0x01000140, [(8, 0x4)], .always, RF.TIME_CNT⟩,
  ⟨0x01000180, [], .always, RF.TIME_TSR_BASE⟩,
  ⟨0x01000188, [], .always, RF.TIME_TSR_CFG⟩,
  ⟨0x0100018C, [], .always, RF.TIME_TSR_HEAD⟩,
  ⟨0x01000190, [], .always, RF.TIME_TSR_TAIL⟩,
  ⟨0x01000200, [(8, 0x20)], .always, RF.TIME_CAP_CFG⟩,
  ⟨0x01000208, [(8, 0x20)], .always, RF.TIME_CAP_SEC⟩,
  ⟨0x01000210, [(8, 0x20)], .always, RF.TIME_CAP_NS⟩,
  ⟨0x01000214, [(8, 0x20)], .always, RF.TIME_CAP_STAT⟩,
  ⟨0x01000300, [(2, 0x10)], .always, RF.TIME_PPS_CFG⟩,
  ⟨0x01000304, [(2, 0x10)], .always, RF.TIME_PPS_PHASE⟩,
  ⟨0x01001000, [(1024, 0x4)], .portDie 0 128, RF.TIME_PORT_ASYM⟩]

def RF.SEC_BOOT_STATUS : List FieldDef := [⟨3, 0, .ro, .val 0⟩, ⟨4, 4, .ro, .val 0⟩, ⟨15, 8, .ro, .val 0⟩, ⟨23, 16, .ro, .val 0⟩, ⟨30, 24, .ro, .val 0⟩]
def RF.SEC_BOOT_RUN : List FieldDef := [⟨0, 0, .wo, .val 0⟩]
def RF.SEC_KEY_REVOKE : List FieldDef := [⟨1, 0, .rw, .val 0⟩, ⟨8, 8, .w1s, .val 0⟩, ⟨9, 9, .ro, .val 0⟩, ⟨11, 10, .ro, .val 0⟩]
def RF.SEC_SVN_ADV : List FieldDef := [⟨6, 0, .rw, .val 0⟩, ⟨8, 8, .w1s, .val 0⟩, ⟨9, 9, .ro, .val 0⟩, ⟨11, 10, .ro, .val 0⟩, ⟨22, 16, .ro, .fuse⟩]
def RF.SEC_LC_NONCE : List FieldDef := [⟨31, 0, .ro, .val 0⟩]
def RF.SEC_LC_REQ : List FieldDef := [⟨2, 0, .wo, .val 0⟩, ⟨8, 8, .ro, .val 0⟩, ⟨11, 9, .ro, .val 0⟩]
def RF.SEC_MBX_CTL : List FieldDef := [⟨7, 0, .rw, .val 0⟩, ⟨9, 8, .rw, .val 0⟩, ⟨16, 16, .w1s, .val 0⟩, ⟨17, 17, .ro, .val 0⟩, ⟨31, 24, .ro, .val 0⟩]
def RF.SEC_MBX : List FieldDef := [⟨31, 0, .rw, .val 0⟩]

/-- Registers of SEC: R61, R526. -/
def regsSec0 : List RegDef := [
  ⟨0x02000000, [], .always, RF.SEC_BOOT_STATUS⟩,
  ⟨0x02000004, [], .always, RF.SEC_BOOT_RUN⟩,
  ⟨0x02000010, [], .always, RF.SEC_KEY_REVOKE⟩,
  ⟨0x02000014, [], .always, RF.SEC_SVN_ADV⟩,
  ⟨0x02000020, [(3, 0x4)], .always, RF.SEC_LC_NONCE⟩,
  ⟨0x02000030, [], .always, RF.SEC_LC_REQ⟩,
  ⟨0x02000040, [], .always, RF.SEC_MBX_CTL⟩,
  ⟨0x02001000, [(1024, 0x4)], .always, RF.SEC_MBX⟩]

def RF.MGT_MP_CFG : List FieldDef := [⟨0, 0, .rw, .val 0⟩, ⟨2, 1, .rw, .val 2⟩, ⟨4, 3, .rw, .val 0⟩]
def RF.MGT_MP_STAT : List FieldDef := [⟨0, 0, .ro, .val 0⟩, ⟨1, 1, .w1c, .val 0⟩, ⟨31, 16, .rc, .val 0⟩]
def RF.MGT_MP_MAC : List FieldDef := [⟨47, 0, .ro, .fuse⟩]
def RF.MGT_PCIE_CFG : List FieldDef := [⟨0, 0, .ro, .val 0⟩, ⟨2, 1, .rwl, .image⟩, ⟨5, 3, .rwl, .image⟩, ⟨7, 7, .rw, .val 0⟩]
def RF.MGT_PCIE_STAT : List FieldDef := [⟨2, 0, .ro, .val 0⟩, ⟨5, 3, .ro, .val 0⟩, ⟨6, 6, .ro, .val 0⟩, ⟨7, 7, .w1c, .val 0⟩]
def RF.MGT_PCIE_DOORBELL : List FieldDef := [⟨5, 0, .wo, .val 0⟩]

/-- Registers of MGT: R518. -/
def regsMgt0 : List RegDef := [
  ⟨0x03000000, [(2, 0x20)], .always, RF.MGT_MP_CFG⟩,
  ⟨0x03000004, [(2, 0x20)], .always, RF.MGT_MP_STAT⟩,
  ⟨0x03000008, [(2, 0x20)], .always, RF.MGT_MP_MAC⟩,
  ⟨0x03000100, [], .always, RF.MGT_PCIE_CFG⟩,
  ⟨0x03000104, [], .always, RF.MGT_PCIE_STAT⟩,
  ⟨0x03000108, [], .always, RF.MGT_PCIE_DOORBELL⟩]

def RF.OPT_CFG : List FieldDef := [⟨15, 0, .rw, .image⟩, ⟨19, 16, .rw, .image⟩, ⟨31, 20, .rw, .image⟩]
def RF.OPT_SBC_CFG : List FieldDef := [⟨1, 0, .rwl, .image⟩]
def RF.OPT_CNT : List FieldDef := [⟨31, 0, .rc, .val 0⟩]
def RF.OPT_BYP_CFG : List FieldDef := [⟨7, 0, .rw, .image⟩, ⟨15, 8, .rw, .image⟩, ⟨16, 16, .rw, .image⟩, ⟨27, 17, .rw, .image⟩]
def RF.OPT_BYP_MGTDA : List FieldDef := [⟨47, 0, .rw, .image⟩]
def RF.OPT_BYP_STAT : List FieldDef := [⟨1, 0, .ro, .val 0⟩, ⟨4, 2, .ro, .val 0⟩, ⟨10, 5, .ro, .val 0⟩, ⟨11, 11, .w1c, .val 0⟩, ⟨14, 12, .ro, .val 0⟩]
def RF.OPT_BYP_WTURN : List FieldDef := [⟨63, 0, .ro, .val 0⟩]
def RF.OPT_BYP_ARM : List FieldDef := [⟨5, 0, .rw, .val 0⟩, ⟨6, 6, .w1s, .val 0⟩, ⟨7, 7, .w1s, .val 0⟩, ⟨8, 8, .rw, .val 0⟩]
def RF.OPT_BYP_ARMW : List FieldDef := [⟨63, 0, .rw, .val 0⟩]
def RF.OPT_BYP_DST : List FieldDef := [⟨23, 0, .rw, .image⟩, ⟨24, 24, .rw, .image⟩, ⟨25, 25, .rw, .image⟩]
def RF.OPT_BYP_TRIG_A : List FieldDef := [⟨15, 0, .rw, .val 0⟩, ⟨21, 16, .rw, .val 0⟩, ⟨22, 22, .rw, .val 0⟩, ⟨23, 23, .rw, .val 0⟩]
def RF.OPT_BYP_TRIG_B : List FieldDef := [⟨31, 0, .rw, .val 0⟩]
def RF.OPT_BYP_PLAN_A : List FieldDef := [⟨11, 0, .rw, .val 0⟩, ⟨20, 12, .rw, .val 0⟩]
def RF.OPT_BYP_PLAN_B : List FieldDef := [⟨31, 0, .rw, .val 0⟩]
def RF.OPT_BUS_CFG : List FieldDef := [⟨1, 0, .rwl, .image⟩, ⟨8, 2, .rwl, .image⟩, ⟨31, 16, .rw, .image⟩]
def RF.OPT_MOD_STAT : List FieldDef := [⟨0, 0, .ro, .val 0⟩, ⟨1, 1, .ro, .val 0⟩, ⟨4, 2, .ro, .val 0⟩, ⟨11, 8, .ro, .val 0⟩]
def RF.OPT_MOD_CTL : List FieldDef := [⟨0, 0, .rw, .val 1⟩, ⟨1, 1, .rw, .val 1⟩, ⟨2, 2, .rw, .image⟩]
def RF.OPT_MBX_CMD : List FieldDef := [⟨7, 0, .rw, .val 0⟩, ⟨15, 8, .rw, .val 0⟩, ⟨23, 16, .rw, .val 0⟩, ⟨30, 24, .rw, .val 0⟩, ⟨31, 31, .rw, .val 0⟩]
def RF.OPT_MBX_CTL : List FieldDef := [⟨0, 0, .w1s, .val 0⟩, ⟨1, 1, .ro, .val 0⟩, ⟨3, 2, .ro, .val 0⟩]
def RF.OPT_SPARE_CFG : List FieldDef := [⟨7, 0, .rwl, .image⟩, ⟨8, 8, .rwl, .image⟩]
def RF.OPT_MBX_DATA : List FieldDef := [⟨31, 0, .rw, .val 0⟩]
def RF.OPT_BYP_PENT_A : List FieldDef := [⟨9, 0, .rw, .val 0⟩, ⟨11, 10, .rw, .val 0⟩, ⟨15, 12, .rw, .val 0⟩, ⟨16, 16, .rw, .val 0⟩]
def RF.OPT_BYP_PENT_B : List FieldDef := [⟨31, 0, .rw, .val 0⟩]
def RF.OPT_LANE_STAT : List FieldDef := [⟨15, 0, .ro, .val 0⟩, ⟨16, 16, .ro, .val 0⟩, ⟨17, 17, .ro, .val 0⟩, ⟨18, 18, .ro, .val 0⟩, ⟨22, 19, .ro, .val 0⟩]
def RF.OPT_PTAG : List FieldDef := [⟨3, 0, .rw, .image⟩]

/-- Registers of OPT: R451. -/
def regsOpt0 : List RegDef := [
  ⟨0x04000000, [], .always, RF.OPT_CFG⟩,
  ⟨0x04000004, [], .always, RF.OPT_SBC_CFG⟩,
  ⟨0x04000040, [(16, 0x4)], .always, RF.OPT_CNT⟩,
  ⟨0x04000100, [], .always, RF.OPT_BYP_CFG⟩,
  ⟨0x04000108, [], .always, RF.OPT_BYP_MGTDA⟩,
  ⟨0x04000110, [], .always, RF.OPT_BYP_STAT⟩,
  ⟨0x04000118, [], .always, RF.OPT_BYP_WTURN⟩,
  ⟨0x04000120, [], .always, RF.OPT_BYP_ARM⟩,
  ⟨0x04000128, [], .always, RF.OPT_BYP_ARMW⟩,
  ⟨0x04000200, [(16, 0x4)], .always, RF.OPT_BYP_DST⟩,
  ⟨0x04000300, [(32, 0x8)], .always, RF.OPT_BYP_TRIG_A⟩,
  ⟨0x04000304, [(32, 0x8)], .always, RF.OPT_BYP_TRIG_B⟩,
  ⟨0x04000400, [(64, 0x8)], .always, RF.OPT_BYP_PLAN_A⟩,
  ⟨0x04000404, [(64, 0x8)], .always, RF.OPT_BYP_PLAN_B⟩,
  ⟨0x04001000, [(64, 0x100)], .portDie 0 8, RF.OPT_BUS_CFG⟩,
  ⟨0x04001004, [(64, 0x100)], .portDie 0 8, RF.OPT_MOD_STAT⟩,
  ⟨0x04001008, [(64, 0x100)], .portDie 0 8, RF.OPT_MOD_CTL⟩,
  ⟨0x0400100C, [(64, 0x100)], .portDie 0 8, RF.OPT_MBX_CMD⟩,
  ⟨0x04001010, [(64, 0x100)], .portDie 0 8, RF.OPT_MBX_CTL⟩,
  ⟨0x04001014, [(64, 0x100)], .portDie 0 8, RF.OPT_SPARE_CFG⟩,
  ⟨0x04001080, [(64, 0x100), (32, 0x4)], .portDie 0 8, RF.OPT_MBX_DATA⟩,
  ⟨0x04010000, [(4096, 0x8)], .always, RF.OPT_BYP_PENT_A⟩,
  ⟨0x04010004, [(4096, 0x8)], .always, RF.OPT_BYP_PENT_B⟩,
  ⟨0x04020000, [(1024, 0x4)], .portDie 0 128, RF.OPT_LANE_STAT⟩,
  ⟨0x04030000, [(1024, 0x4)], .portDie 0 128, RF.OPT_PTAG⟩]

def RF.OPT_MTAG : List FieldDef := [⟨31, 0, .rw, .val 0⟩]

/-- Registers of OPT: R451. -/
def regsOpt1 : List RegDef := [
  ⟨0x04040000, [(16384, 0x4)], .always, RF.OPT_MTAG⟩]

def RF.PORT_LGRP_CFG : List FieldDef := [⟨2, 0, .rwl, .image⟩, ⟨5, 4, .rwl, .image⟩, ⟨31, 16, .rwl, .image⟩]
def RF.PORT_LANE_SHIFT : List FieldDef := [⟨31, 0, .rw, .fuse⟩]
def RF.PORT_JOIN_CFG : List FieldDef := [⟨2, 0, .rwl, .image⟩, ⟨3, 3, .rwl, .image⟩, ⟨7, 4, .rwl, .image⟩, ⟨10, 8, .rwl, .image⟩]
def RF.PORT_JOIN_PEER : List FieldDef := [⟨15, 0, .rwl, .image⟩]
def RF.PORT_SWID : List FieldDef := [⟨31, 0, .rwl, .image⟩]
def RF.PORT_OFPE : List FieldDef := [⟨15, 0, .rwl, .image⟩, ⟨31, 16, .rwl, .image⟩]
def RF.PORT_PFC_CFG : List FieldDef := [⟨7, 0, .rwl, .image⟩, ⟨23, 8, .rwl, .image⟩]
def RF.PORT_LINK_CFG : List FieldDef := [⟨7, 0, .rw, .image⟩, ⟨11, 8, .rw, .image⟩, ⟨15, 12, .rw, .image⟩]
def RF.PORT_PCTL : List FieldDef := [⟨0, 0, .rw, .image⟩, ⟨1, 1, .rwl, .image⟩, ⟨2, 2, .rwl, .image⟩, ⟨3, 3, .rw, .image⟩, ⟨4, 4, .rwl, .image⟩, ⟨5, 5, .rwl, .image⟩, ⟨6, 6, .rw, .image⟩, ⟨9, 8, .rwl, .image⟩]
def RF.PORT_PSTAT : List FieldDef := [⟨3, 0, .ro, .val 0⟩, ⟨4, 4, .ro, .val 0⟩, ⟨5, 5, .w1c, .val 0⟩, ⟨6, 6, .ro, .val 0⟩, ⟨7, 7, .ro, .val 0⟩, ⟨8, 8, .ro, .val 0⟩, ⟨31, 16, .rc, .val 0⟩]
def RF.PORT_LCHAN : List FieldDef := [⟨15, 0, .rw, .image⟩, ⟨31, 16, .rw, .image⟩]
def RF.PORT_RELOCK : List FieldDef := [⟨1, 0, .rw, .val 0⟩, ⟨2, 2, .w1s, .val 0⟩, ⟨15, 8, .rw, .image⟩]
def RF.PORT_RELOCK_PEER : List FieldDef := [⟨31, 0, .rw, .val 0⟩]

/-- Registers of PORT: R36, R30, R44, R45, R132. -/
def regsPort0 : List RegDef := [
  ⟨0x10001000, [(8, 0x1000000), (8, 0x4)], .portDie 0 1, RF.PORT_LGRP_CFG⟩,
  ⟨0x10001040, [(8, 0x1000000), (8, 0x4)], .portDie 0 1, RF.PORT_LANE_SHIFT⟩,
  ⟨0x10001080, [(8, 0x1000000)], .portDie 0 1, RF.PORT_JOIN_CFG⟩,
  ⟨0x100010C0, [(8, 0x1000000), (8, 0x4)], .portDie 0 1, RF.PORT_JOIN_PEER⟩,
  ⟨0x10001100, [(8, 0x1000000)], .portDie 0 1, RF.PORT_SWID⟩,
  ⟨0x10001104, [(8, 0x1000000)], .portDie 0 1, RF.PORT_OFPE⟩,
  ⟨0x10001108, [(8, 0x1000000)], .portDie 0 1, RF.PORT_PFC_CFG⟩,
  ⟨0x1000110C, [(8, 0x1000000)], .portDie 0 1, RF.PORT_LINK_CFG⟩,
  ⟨0x10002000, [(8, 0x1000000), (128, 0x4)], .portDie 0 1, RF.PORT_PCTL⟩,
  ⟨0x10002200, [(8, 0x1000000), (128, 0x4)], .portDie 0 1, RF.PORT_PSTAT⟩,
  ⟨0x10002400, [(8, 0x1000000), (128, 0x4)], .portDie 0 1, RF.PORT_LCHAN⟩,
  ⟨0x10002600, [(8, 0x1000000), (128, 0x4)], .portDie 0 1, RF.PORT_RELOCK⟩,
  ⟨0x10002800, [(8, 0x1000000), (128, 0x4)], .portDie 0 1, RF.PORT_RELOCK_PEER⟩]

def RF.CIST_POOL_CFG : List FieldDef := [⟨21, 0, .rwl, .image⟩]
def RF.CIST_POOL_GX : List FieldDef := [⟨21, 0, .rw, .image⟩]
def RF.CIST_POOL_STAT : List FieldDef := [⟨21, 0, .ro, .val 0⟩]
def RF.CIST_POOL_FREE : List FieldDef := [⟨21, 0, .ro, .val 0⟩]
def RF.CIST_SPILL_CAP : List FieldDef := [⟨9, 0, .rw, .image⟩, ⟨25, 16, .rw, .image⟩]
def RF.CIST_STARVE : List FieldDef := [⟨31, 0, .rc, .val 0⟩]
def RF.CIST_DROP : List FieldDef := [⟨31, 0, .rc, .val 0⟩]
def RF.CIST_QPROF_A : List FieldDef := [⟨7, 0, .rw, .image⟩, ⟨11, 8, .rw, .image⟩, ⟨12, 12, .rw, .image⟩]
def RF.CIST_QPROF_B : List FieldDef := [⟨15, 0, .rw, .image⟩, ⟨21, 16, .rw, .image⟩]
def RF.CIST_QMAX : List FieldDef := [⟨24, 0, .rw, .image⟩]
def RF.CIST_CQUOTA : List FieldDef := [⟨24, 0, .rw, .image⟩]
def RF.CIST_CUSE : List FieldDef := [⟨27, 0, .ro, .val 0⟩]
def RF.CIST_QSEL : List FieldDef := [⟨3, 0, .rw, .image⟩]
def RF.CIST_PORT_CFG : List FieldDef := [⟨7, 0, .rw, .image⟩, ⟨23, 8, .rwl, .image⟩]
def RF.CIST_PORT_XOFF : List FieldDef := [⟨15, 0, .rw, .image⟩, ⟨31, 16, .rw, .image⟩]
def RF.CIST_PORT_HDRM : List FieldDef := [⟨19, 0, .rw, .image⟩]
def RF.CIST_PQUOTA : List FieldDef := [⟨24, 0, .rw, .image⟩]
def RF.CIST_PUSE : List FieldDef := [⟨27, 0, .ro, .val 0⟩]
def RF.CIST_JQUOTA : List FieldDef := [⟨24, 0, .rw, .image⟩]
def RF.CIST_JUSE : List FieldDef := [⟨27, 0, .ro, .val 0⟩]
def RF.CIST_QOCC : List FieldDef := [⟨21, 0, .ro, .val 0⟩, ⟨23, 22, .ro, .val 0⟩]
def RF.CIST_QSPILL : List FieldDef := [⟨24, 0, .ro, .val 0⟩]

/-- Registers of CIST: R187. -/
def regsCist0 : List RegDef := [
  ⟨0x21000000, [], .always, RF.CIST_POOL_CFG⟩,
  ⟨0x21000004, [], .always, RF.CIST_POOL_GX⟩,
  ⟨0x21000008, [], .always, RF.CIST_POOL_STAT⟩,
  ⟨0x2100000C, [], .always, RF.CIST_POOL_FREE⟩,
  ⟨0x21000010, [], .always, RF.CIST_SPILL_CAP⟩,
  ⟨0x21000014, [], .always, RF.CIST_STARVE⟩,
  ⟨0x21000020, [(8, 0x4)], .always, RF.CIST_DROP⟩,
  ⟨0x21000100, [(16, 0x8)], .always, RF.CIST_QPROF_A⟩,
  ⟨0x21000104, [(16, 0x8)], .always, RF.CIST_QPROF_B⟩,
  ⟨0x21000180, [(16, 0x4)], .always, RF.CIST_QMAX⟩,
  ⟨0x21000200, [(8, 0x4)], .always, RF.CIST_CQUOTA⟩,
  ⟨0x21000220, [(8, 0x4)], .always, RF.CIST_CUSE⟩,
  ⟨0x21010000, [(8192, 0x4)], .portDie 0 1024, RF.CIST_QSEL⟩,
  ⟨0x21020000, [(1024, 0x4)], .portDie 0 128, RF.CIST_PORT_CFG⟩,
  ⟨0x21021000, [(1024, 0x4)], .portDie 0 128, RF.CIST_PORT_XOFF⟩,
  ⟨0x21022000, [(1024, 0x4)], .portDie 0 128, RF.CIST_PORT_HDRM⟩,
  ⟨0x21030000, [(8192, 0x4)], .always, RF.CIST_PQUOTA⟩,
  ⟨0x21038000, [(8192, 0x4)], .always, RF.CIST_PUSE⟩,
  ⟨0x21040000, [(4096, 0x4)], .always, RF.CIST_JQUOTA⟩,
  ⟨0x21044000, [(4096, 0x4)], .always, RF.CIST_JUSE⟩,
  ⟨0x21050000, [(8192, 0x4)], .portDie 0 1024, RF.CIST_QOCC⟩,
  ⟨0x21058000, [(8192, 0x4)], .portDie 0 1024, RF.CIST_QSPILL⟩]

def RF.RES_PART : List FieldDef := [⟨8, 0, .rwl, .image⟩, ⟨24, 16, .rwl, .image⟩]
def RF.RES_STATUS : List FieldDef := [⟨9, 0, .ro, .val 0⟩, ⟨23, 16, .ro, .val 0⟩, ⟨31, 24, .ro, .val 0⟩]
def RF.RES_SPILL_STAT : List FieldDef := [⟨24, 0, .ro, .val 0⟩, ⟨31, 31, .w1c, .val 0⟩]

/-- Registers of RES: R188. -/
def regsRes0 : List RegDef := [
  ⟨0x22000000, [(6, 0x4)], .always, RF.RES_PART⟩,
  ⟨0x22000040, [], .always, RF.RES_STATUS⟩,
  ⟨0x22000044, [], .always, RF.RES_SPILL_STAT⟩]

def RF.QUE_CFG : List FieldDef := [⟨15, 0, .rw, .image⟩]
def RF.QUE_FLUSH : List FieldDef := [⟨13, 0, .rw, .val 0⟩, ⟨16, 16, .w1s, .val 0⟩, ⟨17, 17, .ro, .val 0⟩, ⟨31, 18, .ro, .val 0⟩]
def RF.QUE_MC_CFG : List FieldDef := [⟨15, 0, .rw, .image⟩, ⟨19, 16, .rw, .image⟩]
def RF.QUE_MC_AGEDROP : List FieldDef := [⟨31, 0, .rc, .val 0⟩]
def RF.QUE_MCG_DROP : List FieldDef := [⟨31, 0, .rc, .val 0⟩]
def RF.QUE_DOWN_DROP : List FieldDef := [⟨31, 0, .rc, .val 0⟩]
def RF.QUE_ECN_A : List FieldDef := [⟨24, 0, .rw, .image⟩]
def RF.QUE_ECN_B : List FieldDef := [⟨24, 0, .rw, .image⟩]
def RF.QUE_ECN_C : List FieldDef := [⟨15, 0, .rw, .image⟩, ⟨16, 16, .rw, .image⟩, ⟨17, 17, .rw, .image⟩]
def RF.QUE_PIPE_DROP : List FieldDef := [⟨31, 0, .rc, .val 0⟩]
def RF.QUE_ECN_SEL : List FieldDef := [⟨3, 0, .rw, .image⟩]
def RF.QUE_TC_CFG : List FieldDef := [⟨11, 0, .rw, .image⟩, ⟨12, 12, .rw, .image⟩, ⟨27, 16, .rw, .image⟩]
def RF.QUE_ECN_MARK : List FieldDef := [⟨23, 0, .rc, .val 0⟩, ⟨31, 24, .rc, .val 0⟩]
def RF.QUE_TC_SHAPE : List FieldDef := [⟨15, 0, .rw, .image⟩, ⟨27, 16, .rw, .image⟩]
def RF.QUE_PORT_SHAPE : List FieldDef := [⟨15, 0, .rw, .image⟩, ⟨27, 16, .rw, .image⟩]
def RF.QUE_MCG_CFG : List FieldDef := [⟨0, 0, .rw, .val 0⟩, ⟨1, 1, .rw, .val 0⟩]
def RF.QUE_MCG : List FieldDef := [⟨31, 0, .rw, .val 0⟩]

/-- Registers of QUE: R206. -/
def regsQue0 : List RegDef := [
  ⟨0x23000000, [], .always, RF.QUE_CFG⟩,
  ⟨0x23000004, [], .always, RF.QUE_FLUSH⟩,
  ⟨0x23000010, [], .always, RF.QUE_MC_CFG⟩,
  ⟨0x23000014, [], .always, RF.QUE_MC_AGEDROP⟩,
  ⟨0x23000018, [], .always, RF.QUE_MCG_DROP⟩,
  ⟨0x2300001C, [], .always, RF.QUE_DOWN_DROP⟩,
  ⟨0x23000100, [(16, 0x10)], .always, RF.QUE_ECN_A⟩,
  ⟨0x23000104, [(16, 0x10)], .always, RF.QUE_ECN_B⟩,
  ⟨0x23000108, [(16, 0x10)], .always, RF.QUE_ECN_C⟩,
  ⟨0x23000400, [(128, 0x4)], .portDie 0 16, RF.QUE_PIPE_DROP⟩,
  ⟨0x23010000, [(8192, 0x4)], .portDie 0 1024, RF.QUE_ECN_SEL⟩,
  ⟨0x23020000, [(1024, 0x20), (8, 0x4)], .portDie 0 128, RF.QUE_TC_CFG⟩,
  ⟨0x23030000, [(9216, 0x4)], .portDie 0 1024, RF.QUE_ECN_MARK⟩,
  ⟨0x23040000, [(1024, 0x20), (8, 0x4)], .portDie 0 128, RF.QUE_TC_SHAPE⟩,
  ⟨0x23060000, [(1024, 0x4)], .portDie 0 128, RF.QUE_PORT_SHAPE⟩,
  ⟨0x23080000, [(1024, 0x4)], .always, RF.QUE_MCG_CFG⟩,
  ⟨0x23100000, [(1024, 0x80), (32, 0x4)], .portDie 1 4, RF.QUE_MCG⟩]

def RF.FWD_SELF : List FieldDef := [⟨23, 0, .rwl, .image⟩]
def RF.FWD_SELF_IP6 : List FieldDef := [⟨31, 0, .rwl, .image⟩]
def RF.FWD_RMAC : List FieldDef := [⟨47, 0, .rwl, .image⟩]
def RF.FWD_OFP_MISS : List FieldDef := [⟨31, 0, .rw, .image⟩]
def RF.FWD_LPM_CFG : List FieldDef := [⟨0, 0, .rwl, .image⟩, ⟨1, 1, .rwl, .image⟩, ⟨14, 4, .rwl, .image⟩]
def RF.FWD_LPM_STAT : List FieldDef := [⟨31, 0, .rc, .val 0⟩]
def RF.FWD_AGE_CFG : List FieldDef := [⟨7, 0, .rw, .image⟩, ⟨31, 8, .rw, .image⟩]
def RF.FWD_LEARN_CFG : List FieldDef := [⟨8, 0, .rw, .image⟩]
def RF.FWD_LEARN_STAT : List FieldDef := [⟨15, 0, .rc, .val 0⟩, ⟨31, 16, .rc, .val 0⟩]
def RF.FWD_PUNT_CFG : List FieldDef := [⟨9, 0, .rw, .image⟩]
def RF.FWD_PCP_MAP : List FieldDef := [⟨23, 0, .rw, .image⟩]
def RF.FWD_RING_BASE : List FieldDef := [⟨63, 6, .rw, .val 0⟩]
def RF.FWD_RING_CFG : List FieldDef := [⟨4, 0, .rw, .val 0⟩, ⟨8, 8, .rw, .val 0⟩]
def RF.FWD_RING_TAIL : List FieldDef := [⟨15, 0, .rw, .val 0⟩]
def RF.FWD_RING_HEAD : List FieldDef := [⟨15, 0, .ro, .val 0⟩, ⟨16, 16, .ro, .val 0⟩]
def RF.FWD_ADM_DROP : List FieldDef := [⟨31, 0, .rc, .val 0⟩]
def RF.FWD_JUPD_BASE : List FieldDef := [⟨63, 7, .rw, .val 0⟩]
def RF.FWD_JUPD_CFG : List FieldDef := [⟨4, 0, .rw, .val 0⟩, ⟨8, 8, .rw, .val 0⟩]
def RF.FWD_JUPD_TAIL : List FieldDef := [⟨15, 0, .rw, .val 0⟩]
def RF.FWD_JUPD_HEAD : List FieldDef := [⟨15, 0, .ro, .val 0⟩, ⟨16, 16, .ro, .val 0⟩]
def RF.FWD_JOB_CFG : List FieldDef := [⟨15, 0, .rw, .image⟩, ⟨31, 16, .rw, .image⟩]
def RF.FWD_CANAL_CNT : List FieldDef := [⟨31, 0, .rc, .val 0⟩]
def RF.FWD_PORT_CFG : List FieldDef := [⟨11, 0, .rw, .image⟩, ⟨12, 12, .rw, .image⟩, ⟨13, 13, .rw, .image⟩, ⟨14, 14, .rw, .image⟩, ⟨15, 15, .rw, .image⟩]
def RF.FWD_JOB : List FieldDef := [⟨15, 0, .ro, .val 0⟩, ⟨23, 16, .ro, .val 0⟩, ⟨25, 24, .ro, .val 0⟩, ⟨31, 26, .ro, .val 0⟩]

/-- Registers of FWD: R158, R407. -/
def regsFwd0 : List RegDef := [
  ⟨0x24000000, [], .always, RF.FWD_SELF⟩,
  ⟨0x24000010, [(4, 0x4)], .always, RF.FWD_SELF_IP6⟩,
  ⟨0x24000020, [], .always, RF.FWD_RMAC⟩,
  ⟨0x24000030, [], .always, RF.FWD_OFP_MISS⟩,
  ⟨0x24000040, [], .always, RF.FWD_LPM_CFG⟩,
  ⟨0x24000044, [], .always, RF.FWD_LPM_STAT⟩,
  ⟨0x24000050, [], .always, RF.FWD_AGE_CFG⟩,
  ⟨0x24000054, [], .always, RF.FWD_LEARN_CFG⟩,
  ⟨0x24000058, [], .always, RF.FWD_LEARN_STAT⟩,
  ⟨0x2400005C, [], .always, RF.FWD_PUNT_CFG⟩,
  ⟨0x24000060, [], .always, RF.FWD_PCP_MAP⟩,
  ⟨0x24000080, [], .always, RF.FWD_RING_BASE⟩,
  ⟨0x24000088, [], .always, RF.FWD_RING_CFG⟩,
  ⟨0x2400008C, [], .always, RF.FWD_RING_TAIL⟩,
  ⟨0x24000090, [], .always, RF.FWD_RING_HEAD⟩,
  ⟨0x24000100, [(4, 0x4)], .always, RF.FWD_ADM_DROP⟩,
  ⟨0x24000200, [], .always, RF.FWD_JUPD_BASE⟩,
  ⟨0x24000208, [], .always, RF.FWD_JUPD_CFG⟩,
  ⟨0x2400020C, [], .always, RF.FWD_JUPD_TAIL⟩,
  ⟨0x24000210, [], .always, RF.FWD_JUPD_HEAD⟩,
  ⟨0x24000220, [], .always, RF.FWD_JOB_CFG⟩,
  ⟨0x24000240, [(8, 0x4)], .always, RF.FWD_CANAL_CNT⟩,
  ⟨0x24001000, [(1024, 0x4)], .portDie 0 128, RF.FWD_PORT_CFG⟩,
  ⟨0x24004000, [(4096, 0x4)], .always, RF.FWD_JOB⟩]

def RF.SPRAY_CFG : List FieldDef := [⟨7, 0, .rw, .image⟩, ⟨19, 8, .rw, .image⟩]
def RF.SPRAY_GAUGE_CFG : List FieldDef := [⟨7, 0, .rw, .image⟩, ⟨11, 8, .rw, .image⟩, ⟨15, 12, .rw, .image⟩, ⟨31, 16, .rw, .image⟩]
def RF.SPRAY_ADV_CFG : List FieldDef := [⟨3, 0, .rw, .image⟩, ⟨4, 4, .rw, .image⟩, ⟨31, 16, .rw, .image⟩]
def RF.SPRAY_ADV_WIN : List FieldDef := [⟨15, 0, .rw, .image⟩]
def RF.SPRAY_MAP_CFG : List FieldDef := [⟨15, 0, .rw, .image⟩, ⟨17, 16, .rw, .image⟩]
def RF.SPRAY_MAP_EID : List FieldDef := [⟨23, 0, .rw, .image⟩]
def RF.SPRAY_SCHED_CFG : List FieldDef := [⟨7, 0, .rw, .image⟩, ⟨8, 8, .rw, .image⟩, ⟨9, 9, .ro, .val 0⟩, ⟨10, 10, .ro, .val 0⟩, ⟨11, 11, .ro, .val 0⟩, ⟨23, 16, .rw, .val 0⟩, ⟨24, 24, .w1s, .val 0⟩]
def RF.SPRAY_SCHED_STAT : List FieldDef := [⟨7, 0, .ro, .val 0⟩, ⟨15, 8, .ro, .val 0⟩]
def RF.SPRAY_SCHED_START : List FieldDef := [⟨63, 0, .rw, .val 0⟩]
def RF.SPRAY_CNT : List FieldDef := [⟨31, 0, .rc, .val 0⟩]
def RF.SPRAY_ADV_EVT : List FieldDef := [⟨15, 0, .rc, .val 0⟩, ⟨31, 16, .rc, .val 0⟩]
def RF.SPRAY_PLVL : List FieldDef := [⟨3, 0, .ro, .val 0⟩, ⟨7, 4, .ro, .val 0⟩, ⟨11, 8, .ro, .val 0⟩]
def RF.SPRAY_RLVL : List FieldDef := [⟨3, 0, .rw, .val 0⟩, ⟨31, 16, .rw, .val 0⟩]
def RF.SPRAY_SET_A : List FieldDef := [⟨16, 0, .rw, .val 0⟩, ⟨25, 18, .rw, .val 0⟩, ⟨27, 26, .rw, .val 0⟩, ⟨28, 28, .rw, .val 0⟩]
def RF.SPRAY_SET_B : List FieldDef := [⟨15, 0, .rw, .val 0⟩, ⟨29, 16, .rw, .val 0⟩, ⟨30, 30, .ro, .val 0⟩]
def RF.SPRAY_IMB : List FieldDef := [⟨15, 0, .ro, .val 0⟩, ⟨31, 16, .ro, .val 0⟩]
def RF.SPRAY_MEMBER : List FieldDef := [⟨9, 0, .rw, .val 0⟩, ⟨23, 16, .rw, .val 0⟩, ⟨24, 24, .rw, .val 0⟩]
def RF.SPRAY_GRANT : List FieldDef := [⟨11, 0, .rw, .val 0⟩, ⟨27, 16, .rw, .val 0⟩]

/-- Registers of SPRAY: R238. -/
def regsSpray0 : List RegDef := [
  ⟨0x25000000, [], .always, RF.SPRAY_CFG⟩,
  ⟨0x25000004, [], .always, RF.SPRAY_GAUGE_CFG⟩,
  ⟨0x25000008, [], .always, RF.SPRAY_ADV_CFG⟩,
  ⟨0x2500000C, [], .always, RF.SPRAY_ADV_WIN⟩,
  ⟨0x25000010, [], .always, RF.SPRAY_MAP_CFG⟩,
  ⟨0x25000014, [], .always, RF.SPRAY_MAP_EID⟩,
  ⟨0x25000020, [], .always, RF.SPRAY_SCHED_CFG⟩,
  ⟨0x25000024, [], .always, RF.SPRAY_SCHED_STAT⟩,
  ⟨0x25000028, [], .always, RF.SPRAY_SCHED_START⟩,
  ⟨0x25000040, [(8, 0x4)], .always, RF.SPRAY_CNT⟩,
  ⟨0x25000060, [], .always, RF.SPRAY_ADV_EVT⟩,
  ⟨0x25001000, [(1024, 0x4)], .portDie 0 128, RF.SPRAY_PLVL⟩,
  ⟨0x25002000, [(1024, 0x4)], .portDie 0 128, RF.SPRAY_RLVL⟩,
  ⟨0x25100000, [(16384, 0x8)], .always, RF.SPRAY_SET_A⟩,
  ⟨0x25100004, [(16384, 0x8)], .always, RF.SPRAY_SET_B⟩,
  ⟨0x25140000, [(16384, 0x4)], .always, RF.SPRAY_IMB⟩,
  ⟨0x25200000, [(131072, 0x4)], .always, RF.SPRAY_MEMBER⟩,
  ⟨0x25400000, [(2, 0x100000), (256, 0x800), (512, 0x4)], .portDie 2 64, RF.SPRAY_GRANT⟩]

def RF.BASIN_CFG : List FieldDef := [⟨11, 0, .rwl, .image⟩, ⟨19, 12, .rwl, .image⟩]
def RF.BASIN_TIMING : List FieldDef := [⟨15, 0, .rw, .image⟩, ⟨31, 16, .rw, .image⟩]
def RF.BASIN_STAT : List FieldDef := [⟨11, 0, .ro, .val 0⟩]
def RF.BASIN_OVSTAT : List FieldDef := [⟨17, 0, .ro, .val 0⟩]
def RF.BASIN_CTXSTAT : List FieldDef := [⟨15, 0, .ro, .val 0⟩, ⟨31, 16, .ro, .val 0⟩]
def RF.BASIN_CNT : List FieldDef := [⟨31, 0, .rc, .val 0⟩]
def RF.BASIN_ABORT : List FieldDef := [⟨15, 0, .rw, .val 0⟩, ⟨16, 16, .rw, .val 0⟩, ⟨17, 17, .w1s, .val 0⟩, ⟨18, 18, .ro, .val 0⟩, ⟨21, 19, .ro, .val 0⟩]
def RF.BASIN_ABORT_CHUNK : List FieldDef := [⟨31, 0, .rw, .val 0⟩]
def RF.BASIN_CRING_BASE : List FieldDef := [⟨63, 5, .rw, .val 0⟩]
def RF.BASIN_CRING_CFG : List FieldDef := [⟨4, 0, .rw, .val 0⟩, ⟨8, 8, .rw, .val 0⟩]
def RF.BASIN_CRING_HEAD : List FieldDef := [⟨19, 0, .ro, .val 0⟩]
def RF.BASIN_CRING_TAIL : List FieldDef := [⟨19, 0, .rw, .val 0⟩]
def RF.BASIN_ARITH_SEED : List FieldDef := [⟨31, 0, .rw, .image⟩]
def RF.BASIN_SPARSE_CFG : List FieldDef := [⟨10, 0, .rwl, .image⟩]
def RF.BASIN_SPARSE_STAT : List FieldDef := [⟨10, 0, .ro, .val 0⟩]
def RF.BASIN_ARITH_CNT : List FieldDef := [⟨31, 0, .rc, .val 0⟩]
def RF.BASIN_JQUOTA : List FieldDef := [⟨17, 0, .rw, .image⟩]
def RF.BASIN_JUSE : List FieldDef := [⟨17, 0, .ro, .val 0⟩]
def RF.BASIN_AVGSCALE : List FieldDef := [⟨31, 0, .rw, .val 0⟩]

/-- Registers of BASIN: R269, R288. -/
def regsBasin0 : List RegDef := [
  ⟨0x30000000, [], .always, RF.BASIN_CFG⟩,
  ⟨0x30000004, [], .always, RF.BASIN_TIMING⟩,
  ⟨0x30000008, [], .always, RF.BASIN_STAT⟩,
  ⟨0x3000000C, [], .always, RF.BASIN_OVSTAT⟩,
  ⟨0x30000010, [], .always, RF.BASIN_CTXSTAT⟩,
  ⟨0x30000040, [(16, 0x4)], .always, RF.BASIN_CNT⟩,
  ⟨0x30000080, [], .always, RF.BASIN_ABORT⟩,
  ⟨0x30000084, [], .always, RF.BASIN_ABORT_CHUNK⟩,
  ⟨0x30000090, [], .always, RF.BASIN_CRING_BASE⟩,
  ⟨0x30000098, [], .always, RF.BASIN_CRING_CFG⟩,
  ⟨0x3000009C, [], .always, RF.BASIN_CRING_HEAD⟩,
  ⟨0x300000A0, [], .always, RF.BASIN_CRING_TAIL⟩,
  ⟨0x30000100, [], .always, RF.BASIN_ARITH_SEED⟩,
  ⟨0x30000104, [], .always, RF.BASIN_SPARSE_CFG⟩,
  ⟨0x30000108, [], .always, RF.BASIN_SPARSE_STAT⟩,
  ⟨0x30000140, [(8, 0x4)], .always, RF.BASIN_ARITH_CNT⟩,
  ⟨0x30010000, [(4096, 0x4)], .always, RF.BASIN_JQUOTA⟩,
  ⟨0x30014000, [(4096, 0x4)], .always, RF.BASIN_JUSE⟩,
  ⟨0x30020000, [(65536, 0x4)], .always, RF.BASIN_AVGSCALE⟩]

def RF.TALLY_CFG : List FieldDef := [⟨3, 0, .rw, .image⟩, ⟨31, 16, .rw, .image⟩]
def RF.TALLY_STAT : List FieldDef := [⟨19, 0, .ro, .val 0⟩, ⟨28, 20, .ro, .val 0⟩, ⟨29, 29, .ro, .val 0⟩]
def RF.TALLY_LOST_CLR : List FieldDef := [⟨7, 0, .rw, .val 0⟩, ⟨8, 8, .w1s, .val 0⟩, ⟨9, 9, .ro, .val 0⟩]
def RF.TALLY_CNT : List FieldDef := [⟨31, 0, .rc, .val 0⟩]
def RF.TALLY_LOST : List FieldDef := [⟨26, 0, .ro, .val 0⟩, ⟨43, 32, .ro, .val 0⟩, ⟨63, 63, .ro, .val 0⟩]
def RF.TALLY_JWIN : List FieldDef := [⟨22, 0, .rw, .val 0⟩, ⟨54, 32, .rw, .val 0⟩, ⟨62, 62, .rw, .val 0⟩]
def RF.TALLY_JQUOTA : List FieldDef := [⟨19, 0, .rw, .image⟩]
def RF.TALLY_JUSE : List FieldDef := [⟨19, 0, .ro, .val 0⟩]

/-- Registers of TALLY: R386. -/
def regsTally0 : List RegDef := [
  ⟨0x31000000, [], .always, RF.TALLY_CFG⟩,
  ⟨0x31000004, [], .always, RF.TALLY_STAT⟩,
  ⟨0x31000008, [], .always, RF.TALLY_LOST_CLR⟩,
  ⟨0x31000040, [(16, 0x4)], .always, RF.TALLY_CNT⟩,
  ⟨0x31001000, [(256, 0x8)], .always, RF.TALLY_LOST⟩,
  ⟨0x31010000, [(4096, 0x8)], .always, RF.TALLY_JWIN⟩,
  ⟨0x31020000, [(4096, 0x4)], .always, RF.TALLY_JQUOTA⟩,
  ⟨0x31024000, [(4096, 0x4)], .always, RF.TALLY_JUSE⟩]

def RF.HAUL_CFG : List FieldDef := [⟨6, 0, .rwl, .image⟩, ⟨13, 8, .rw, .image⟩, ⟨31, 16, .rw, .image⟩]
def RF.HAUL_CTX_BASE : List FieldDef := [⟨63, 11, .rw, .val 0⟩]
def RF.HAUL_CTX_CFG : List FieldDef := [⟨3, 0, .rw, .val 0⟩, ⟨8, 8, .rw, .val 0⟩]
def RF.HAUL_CTX_TAIL : List FieldDef := [⟨15, 0, .rw, .val 0⟩]
def RF.HAUL_CTX_HEAD : List FieldDef := [⟨15, 0, .ro, .val 0⟩]
def RF.HAUL_LINK_CFG : List FieldDef := [⟨0, 0, .rw, .image⟩, ⟨1, 1, .rw, .image⟩, ⟨7, 4, .rwl, .image⟩, ⟨15, 8, .rw, .image⟩, ⟨31, 16, .rwl, .image⟩]
def RF.HAUL_LINK_PORTS : List FieldDef := [⟨9, 0, .rwl, .image⟩, ⟨25, 16, .rwl, .image⟩, ⟨31, 31, .rwl, .image⟩]
def RF.HAUL_LINK_PEER : List FieldDef := [⟨31, 0, .rwl, .image⟩]
def RF.HAUL_LINK_REV : List FieldDef := [⟨15, 0, .rw, .image⟩, ⟨16, 16, .rw, .image⟩]
def RF.HAUL_LINK_PMAC : List FieldDef := [⟨47, 0, .rwl, .image⟩]
def RF.HAUL_LINK_LEVEE : List FieldDef := [⟨5, 0, .rw, .image⟩, ⟨11, 8, .rw, .image⟩, ⟨27, 16, .rw, .image⟩]
def RF.HAUL_LINK_BUF : List FieldDef := [⟨15, 0, .rwl, .image⟩, ⟨31, 16, .rwl, .image⟩]
def RF.HAUL_LINK_TMR : List FieldDef := [⟨7, 0, .rw, .image⟩, ⟨11, 8, .rw, .image⟩, ⟨15, 12, .rw, .image⟩, ⟨31, 16, .rw, .image⟩]
def RF.HAUL_LINK_TMR2 : List FieldDef := [⟨15, 0, .rw, .image⟩, ⟨31, 16, .rw, .image⟩]
def RF.HAUL_LINK_STAT : List FieldDef := [⟨1, 0, .ro, .val 0⟩, ⟨2, 2, .ro, .val 0⟩, ⟨3, 3, .ro, .val 0⟩, ⟨4, 4, .w1c, .val 0⟩, ⟨7, 5, .ro, .val 0⟩, ⟨31, 16, .rc, .val 0⟩]
def RF.HAUL_LINK_SRTT0 : List FieldDef := [⟨23, 0, .ro, .val 0⟩]
def RF.HAUL_LINK_SRTT1 : List FieldDef := [⟨23, 0, .ro, .val 0⟩]
def RF.HAUL_LINK_RTO : List FieldDef := [⟨23, 0, .ro, .val 0⟩]
def RF.HAUL_LINK_CTL : List FieldDef := [⟨0, 0, .w1s, .val 0⟩]
def RF.HAUL_LINK_USE : List FieldDef := [⟨15, 0, .ro, .val 0⟩, ⟨31, 16, .ro, .val 0⟩]
def RF.HAUL_LCNT : List FieldDef := [⟨31, 0, .rc, .val 0⟩]
def RF.HAUL_MSEC : List FieldDef := [⟨1, 0, .rw, .image⟩, ⟨3, 2, .rw, .val 0⟩, ⟨4, 4, .w1c, .val 0⟩, ⟨31, 16, .rw, .image⟩]
def RF.HAUL_PCNT : List FieldDef := [⟨31, 0, .rc, .val 0⟩]
def RF.HAUL_SA_KEY : List FieldDef := [⟨31, 0, .wo, .val 0⟩]
def RF.HAUL_SA_SALT : List FieldDef := [⟨31, 0, .wo, .val 0⟩]

/-- Registers of HAUL: R349. -/
def regsHaul0 : List RegDef := [
  ⟨0x32000000, [], .always, RF.HAUL_CFG⟩,
  ⟨0x32000020, [], .always, RF.HAUL_CTX_BASE⟩,
  ⟨0x32000028, [], .always, RF.HAUL_CTX_CFG⟩,
  ⟨0x3200002C, [], .always, RF.HAUL_CTX_TAIL⟩,
  ⟨0x32000030, [], .always, RF.HAUL_CTX_HEAD⟩,
  ⟨0x32001000, [(64, 0x40)], .always, RF.HAUL_LINK_CFG⟩,
  ⟨0x32001004, [(64, 0x40)], .always, RF.HAUL_LINK_PORTS⟩,
  ⟨0x32001008, [(64, 0x40)], .always, RF.HAUL_LINK_PEER⟩,
  ⟨0x3200100C, [(64, 0x40)], .always, RF.HAUL_LINK_REV⟩,
  ⟨0x32001010, [(64, 0x40)], .always, RF.HAUL_LINK_PMAC⟩,
  ⟨0x32001018, [(64, 0x40)], .always, RF.HAUL_LINK_LEVEE⟩,
  ⟨0x3200101C, [(64, 0x40)], .always, RF.HAUL_LINK_BUF⟩,
  ⟨0x32001020, [(64, 0x40)], .always, RF.HAUL_LINK_TMR⟩,
  ⟨0x32001024, [(64, 0x40)], .always, RF.HAUL_LINK_TMR2⟩,
  ⟨0x32001028, [(64, 0x40)], .always, RF.HAUL_LINK_STAT⟩,
  ⟨0x3200102C, [(64, 0x40)], .always, RF.HAUL_LINK_SRTT0⟩,
  ⟨0x32001030, [(64, 0x40)], .always, RF.HAUL_LINK_SRTT1⟩,
  ⟨0x32001034, [(64, 0x40)], .always, RF.HAUL_LINK_RTO⟩,
  ⟨0x32001038, [(64, 0x40)], .always, RF.HAUL_LINK_CTL⟩,
  ⟨0x3200103C, [(64, 0x40)], .always, RF.HAUL_LINK_USE⟩,
  ⟨0x32003000, [(64, 0x40), (16, 0x4)], .always, RF.HAUL_LCNT⟩,
  ⟨0x32010000, [(1024, 0x4)], .portDie 0 128, RF.HAUL_MSEC⟩,
  ⟨0x32020000, [(1024, 0x20), (8, 0x4)], .portDie 0 128, RF.HAUL_PCNT⟩,
  ⟨0x32100000, [(1024, 0x200), (2, 0x100), (4, 0x40), (8, 0x4)], .portDie 0 128, RF.HAUL_SA_KEY⟩,
  ⟨0x32100020, [(1024, 0x200), (2, 0x100), (4, 0x40), (3, 0x4)], .portDie 0 128, RF.HAUL_SA_SALT⟩]

def RF.HAUL_SA_SSCI : List FieldDef := [⟨31, 0, .rw, .val 0⟩]
def RF.HAUL_SA_PN : List FieldDef := [⟨63, 0, .rw, .val 0⟩]
def RF.HAUL_SA_CTL : List FieldDef := [⟨0, 0, .rw, .val 0⟩, ⟨1, 1, .ro, .val 0⟩]

/-- Registers of HAUL: R349. -/
def regsHaul1 : List RegDef := [
  ⟨0x3210002C, [(1024, 0x200), (2, 0x100), (4, 0x40)], .portDie 0 128, RF.HAUL_SA_SSCI⟩,
  ⟨0x32100030, [(1024, 0x200), (2, 0x100), (4, 0x40)], .portDie 0 128, RF.HAUL_SA_PN⟩,
  ⟨0x32100038, [(1024, 0x200), (2, 0x100), (4, 0x40)], .portDie 0 128, RF.HAUL_SA_CTL⟩]

def RF.SLU_CFG : List FieldDef := [⟨31, 0, .rw, .image⟩]
def RF.SLU_STAT : List FieldDef := [⟨7, 0, .ro, .val 0⟩, ⟨11, 8, .ro, .val 0⟩, ⟨23, 16, .ro, .val 0⟩]
def RF.SLU_CNT : List FieldDef := [⟨31, 0, .rc, .val 0⟩]
def RF.SLU_ENG_POOL : List FieldDef := [⟨31, 0, .rwl, .image⟩]
def RF.SLU_KPRES : List FieldDef := [⟨31, 0, .ro, .val 0⟩]
def RF.SLU_KVER : List FieldDef := [⟨31, 0, .ro, .val 0⟩]
def RF.SLU_WQ_BASE : List FieldDef := [⟨63, 6, .rw, .val 0⟩]
def RF.SLU_WQ_CFG : List FieldDef := [⟨4, 0, .rw, .val 0⟩, ⟨8, 8, .rw, .val 0⟩, ⟨10, 9, .rw, .image⟩, ⟨11, 11, .rw, .image⟩, ⟨15, 12, .rw, .image⟩, ⟨27, 16, .rw, .image⟩]
def RF.SLU_WQ_TAIL : List FieldDef := [⟨15, 0, .rw, .val 0⟩]
def RF.SLU_WQ_HEAD : List FieldDef := [⟨15, 0, .ro, .val 0⟩, ⟨16, 16, .ro, .val 0⟩, ⟨17, 17, .ro, .val 0⟩]
def RF.SLU_WQ_WDOG : List FieldDef := [⟨15, 0, .rw, .image⟩]
def RF.SLU_WQ_CR_BASE : List FieldDef := [⟨63, 5, .rw, .val 0⟩]
def RF.SLU_WQ_CR_CFG : List FieldDef := [⟨4, 0, .rw, .val 0⟩, ⟨8, 8, .rw, .val 0⟩]
def RF.SLU_WQ_CR_HEAD : List FieldDef := [⟨15, 0, .ro, .val 0⟩]
def RF.SLU_WQ_CR_TAIL : List FieldDef := [⟨15, 0, .rw, .val 0⟩]
def RF.SLU_WQ_CTL : List FieldDef := [⟨0, 0, .w1s, .val 0⟩, ⟨1, 1, .ro, .val 0⟩]
def RF.SLU_WIN : List FieldDef := [⟨22, 0, .rw, .val 0⟩, ⟨54, 32, .rw, .val 0⟩, ⟨60, 60, .rw, .val 0⟩, ⟨61, 61, .rw, .val 0⟩, ⟨62, 62, .rw, .val 0⟩]

/-- Registers of SLU: R315. -/
def regsSlu0 : List RegDef := [
  ⟨0x40000000, [(2, 0x1000000)], .compute 0, RF.SLU_CFG⟩,
  ⟨0x40000004, [(2, 0x1000000)], .compute 0, RF.SLU_STAT⟩,
  ⟨0x40000040, [(2, 0x1000000), (16, 0x4)], .compute 0, RF.SLU_CNT⟩,
  ⟨0x40000100, [(2, 0x1000000), (16, 0x4)], .compute 0, RF.SLU_ENG_POOL⟩,
  ⟨0x40000200, [(2, 0x1000000), (8, 0x4)], .compute 0, RF.SLU_KPRES⟩,
  ⟨0x40000220, [(2, 0x1000000), (48, 0x4)], .compute 0, RF.SLU_KVER⟩,
  ⟨0x40001000, [(2, 0x1000000), (64, 0x40)], .compute 0, RF.SLU_WQ_BASE⟩,
  ⟨0x40001008, [(2, 0x1000000), (64, 0x40)], .compute 0, RF.SLU_WQ_CFG⟩,
  ⟨0x4000100C, [(2, 0x1000000), (64, 0x40)], .compute 0, RF.SLU_WQ_TAIL⟩,
  ⟨0x40001010, [(2, 0x1000000), (64, 0x40)], .compute 0, RF.SLU_WQ_HEAD⟩,
  ⟨0x40001014, [(2, 0x1000000), (64, 0x40)], .compute 0, RF.SLU_WQ_WDOG⟩,
  ⟨0x40001018, [(2, 0x1000000), (64, 0x40)], .compute 0, RF.SLU_WQ_CR_BASE⟩,
  ⟨0x40001020, [(2, 0x1000000), (64, 0x40)], .compute 0, RF.SLU_WQ_CR_CFG⟩,
  ⟨0x40001024, [(2, 0x1000000), (64, 0x40)], .compute 0, RF.SLU_WQ_CR_HEAD⟩,
  ⟨0x40001028, [(2, 0x1000000), (64, 0x40)], .compute 0, RF.SLU_WQ_CR_TAIL⟩,
  ⟨0x4000102C, [(2, 0x1000000), (64, 0x40)], .compute 0, RF.SLU_WQ_CTL⟩,
  ⟨0x40003000, [(2, 0x1000000), (64, 0x20), (4, 0x8)], .compute 0, RF.SLU_WIN⟩]

def RF.FLUME_STAT : List FieldDef := [⟨3, 0, .ro, .val 0⟩, ⟨31, 16, .ro, .val 0⟩]
def RF.FLUME_CNT : List FieldDef := [⟨31, 0, .rc, .val 0⟩]
def RF.FLUME_DREG_A : List FieldDef := [⟨19, 0, .rwl, .image⟩]
def RF.FLUME_DREG_B : List FieldDef := [⟨20, 0, .rwl, .image⟩, ⟨28, 24, .rwl, .image⟩]
def RF.FLUME_DREG_C : List FieldDef := [⟨7, 0, .rwl, .image⟩, ⟨8, 8, .rwl, .image⟩, ⟨9, 9, .rwl, .image⟩, ⟨31, 16, .rwl, .image⟩]
def RF.FLUME_DREG_D : List FieldDef := [⟨31, 0, .rwl, .image⟩]
def RF.FLUME_WQ_BASE : List FieldDef := [⟨63, 6, .rw, .val 0⟩]
def RF.FLUME_WQ_CFG : List FieldDef := [⟨4, 0, .rw, .val 0⟩, ⟨8, 8, .rw, .val 0⟩, ⟨10, 9, .rw, .image⟩]
def RF.FLUME_WQ_TAIL : List FieldDef := [⟨15, 0, .rw, .val 0⟩]
def RF.FLUME_WQ_HEAD : List FieldDef := [⟨15, 0, .ro, .val 0⟩, ⟨16, 16, .ro, .val 0⟩, ⟨17, 17, .ro, .val 0⟩]
def RF.FLUME_WQ_WDOG : List FieldDef := [⟨15, 0, .rw, .image⟩]
def RF.FLUME_WQ_CR_BASE : List FieldDef := [⟨63, 5, .rw, .val 0⟩]
def RF.FLUME_WQ_CR_CFG : List FieldDef := [⟨4, 0, .rw, .val 0⟩, ⟨8, 8, .rw, .val 0⟩]
def RF.FLUME_WQ_CR_HEAD : List FieldDef := [⟨15, 0, .ro, .val 0⟩]
def RF.FLUME_WQ_CR_TAIL : List FieldDef := [⟨15, 0, .rw, .val 0⟩]
def RF.FLUME_WQ_CTL : List FieldDef := [⟨0, 0, .w1s, .val 0⟩, ⟨1, 1, .ro, .val 0⟩]
def RF.FLUME_WIN : List FieldDef := [⟨22, 0, .rw, .val 0⟩, ⟨54, 32, .rw, .val 0⟩, ⟨60, 60, .rw, .val 0⟩, ⟨61, 61, .rw, .val 0⟩, ⟨62, 62, .rw, .val 0⟩]

/-- Registers of FLUME: R371. -/
def regsFlume0 : List RegDef := [
  ⟨0x48000004, [], .always, RF.FLUME_STAT⟩,
  ⟨0x48000040, [(16, 0x4)], .always, RF.FLUME_CNT⟩,
  ⟨0x48000100, [(16, 0x10)], .always, RF.FLUME_DREG_A⟩,
  ⟨0x48000104, [(16, 0x10)], .always, RF.FLUME_DREG_B⟩,
  ⟨0x48000108, [(16, 0x10)], .always, RF.FLUME_DREG_C⟩,
  ⟨0x4800010C, [(16, 0x10)], .always, RF.FLUME_DREG_D⟩,
  ⟨0x48001000, [(16, 0x40)], .always, RF.FLUME_WQ_BASE⟩,
  ⟨0x48001008, [(16, 0x40)], .always, RF.FLUME_WQ_CFG⟩,
  ⟨0x4800100C, [(16, 0x40)], .always, RF.FLUME_WQ_TAIL⟩,
  ⟨0x48001010, [(16, 0x40)], .always, RF.FLUME_WQ_HEAD⟩,
  ⟨0x48001014, [(16, 0x40)], .always, RF.FLUME_WQ_WDOG⟩,
  ⟨0x48001018, [(16, 0x40)], .always, RF.FLUME_WQ_CR_BASE⟩,
  ⟨0x48001020, [(16, 0x40)], .always, RF.FLUME_WQ_CR_CFG⟩,
  ⟨0x48001024, [(16, 0x40)], .always, RF.FLUME_WQ_CR_HEAD⟩,
  ⟨0x48001028, [(16, 0x40)], .always, RF.FLUME_WQ_CR_TAIL⟩,
  ⟨0x4800102C, [(16, 0x40)], .always, RF.FLUME_WQ_CTL⟩,
  ⟨0x48003000, [(16, 0x20), (4, 0x8)], .always, RF.FLUME_WIN⟩]

def RF.GAUGE_CLR_A : List FieldDef := [⟨14, 0, .rw, .val 0⟩, ⟨30, 16, .rw, .val 0⟩]
def RF.GAUGE_CLR_B : List FieldDef := [⟨0, 0, .w1s, .val 0⟩, ⟨1, 1, .ro, .val 0⟩]
def RF.GAUGE_UCFG : List FieldDef := [⟨0, 0, .rw, .image⟩, ⟨1, 1, .rw, .image⟩]
def RF.GAUGE_UDENY : List FieldDef := [⟨31, 0, .rc, .val 0⟩]
def RF.GAUGE_TEL_CFG : List FieldDef := [⟨2, 0, .rw, .image⟩]
def RF.GAUGE_TEL_MGTDA : List FieldDef := [⟨47, 0, .rw, .image⟩]
def RF.GAUGE_TEL_CNT : List FieldDef := [⟨31, 0, .rc, .val 0⟩]
def RF.GAUGE_SNAP_CNT : List FieldDef := [⟨15, 0, .rc, .val 0⟩, ⟨31, 16, .rc, .val 0⟩]
def RF.GAUGE_SRING_BASE : List FieldDef := [⟨63, 6, .rw, .val 0⟩]
def RF.GAUGE_SRING_CFG : List FieldDef := [⟨4, 0, .rw, .val 0⟩, ⟨8, 8, .rw, .val 0⟩]
def RF.GAUGE_SRING_HEAD : List FieldDef := [⟨15, 0, .ro, .val 0⟩]
def RF.GAUGE_SRING_TAIL : List FieldDef := [⟨15, 0, .rw, .val 0⟩]
def RF.GAUGE_SMP_CNT : List FieldDef := [⟨31, 0, .rc, .val 0⟩]
def RF.GAUGE_SET_A : List FieldDef := [⟨14, 0, .rw, .image⟩, ⟨30, 16, .rw, .image⟩]
def RF.GAUGE_SET_B : List FieldDef := [⟨15, 0, .rw, .image⟩, ⟨31, 16, .rw, .image⟩]
def RF.GAUGE_SET_RBASE : List FieldDef := [⟨63, 6, .rw, .val 0⟩]
def RF.GAUGE_SET_RCFG : List FieldDef := [⟨4, 0, .rw, .val 0⟩, ⟨8, 8, .rw, .val 0⟩, ⟨9, 9, .rw, .val 0⟩]
def RF.GAUGE_SET_HEAD : List FieldDef := [⟨15, 0, .ro, .val 0⟩]
def RF.GAUGE_SET_TAIL : List FieldDef := [⟨15, 0, .rw, .val 0⟩]
def RF.GAUGE_SMP_A : List FieldDef := [⟨1, 0, .rw, .val 0⟩, ⟨2, 2, .rw, .val 0⟩, ⟨15, 8, .rw, .val 0⟩, ⟨25, 16, .rw, .val 0⟩, ⟨26, 26, .rw, .val 0⟩]
def RF.GAUGE_SMP_B : List FieldDef := [⟨23, 0, .rw, .val 0⟩, ⟨31, 24, .rw, .val 0⟩]
def RF.GAUGE_SMP_C : List FieldDef := [⟨11, 0, .rw, .val 0⟩, ⟨12, 12, .rw, .val 0⟩, ⟨31, 16, .rw, .val 0⟩]
def RF.GAUGE_FLT_A : List FieldDef := [⟨3, 0, .rw, .val 0⟩, ⟨7, 4, .rw, .val 0⟩, ⟨8, 8, .rw, .val 0⟩, ⟨9, 9, .rw, .val 0⟩, ⟨10, 10, .rw, .val 0⟩, ⟨31, 16, .rw, .val 0⟩]
def RF.GAUGE_FLT_B : List FieldDef := [⟨11, 0, .rw, .val 0⟩, ⟨27, 16, .rw, .val 0⟩]
def RF.GAUGE_FLT_C : List FieldDef := [⟨31, 0, .rw, .val 0⟩]

/-- Registers of GAUGE: R474. -/
def regsGauge0 : List RegDef := [
  ⟨0x50000000, [], .always, RF.GAUGE_CLR_A⟩,
  ⟨0x50000004, [], .always, RF.GAUGE_CLR_B⟩,
  ⟨0x50000008, [], .always, RF.GAUGE_UCFG⟩,
  ⟨0x5000000C, [], .always, RF.GAUGE_UDENY⟩,
  ⟨0x50000010, [], .always, RF.GAUGE_TEL_CFG⟩,
  ⟨0x50000018, [], .always, RF.GAUGE_TEL_MGTDA⟩,
  ⟨0x50000020, [(4, 0x4)], .always, RF.GAUGE_TEL_CNT⟩,
  ⟨0x50000030, [], .always, RF.GAUGE_SNAP_CNT⟩,
  ⟨0x50000040, [], .always, RF.GAUGE_SRING_BASE⟩,
  ⟨0x50000048, [], .always, RF.GAUGE_SRING_CFG⟩,
  ⟨0x5000004C, [], .always, RF.GAUGE_SRING_HEAD⟩,
  ⟨0x50000050, [], .always, RF.GAUGE_SRING_TAIL⟩,
  ⟨0x50000060, [(3, 0x4)], .always, RF.GAUGE_SMP_CNT⟩,
  ⟨0x50001000, [(64, 0x20)], .always, RF.GAUGE_SET_A⟩,
  ⟨0x50001004, [(64, 0x20)], .always, RF.GAUGE_SET_B⟩,
  ⟨0x50001008, [(64, 0x20)], .always, RF.GAUGE_SET_RBASE⟩,
  ⟨0x50001010, [(64, 0x20)], .always, RF.GAUGE_SET_RCFG⟩,
  ⟨0x50001014, [(64, 0x20)], .always, RF.GAUGE_SET_HEAD⟩,
  ⟨0x50001018, [(64, 0x20)], .always, RF.GAUGE_SET_TAIL⟩,
  ⟨0x50002000, [(32, 0x10)], .always, RF.GAUGE_SMP_A⟩,
  ⟨0x50002004, [(32, 0x10)], .always, RF.GAUGE_SMP_B⟩,
  ⟨0x50002008, [(32, 0x10)], .always, RF.GAUGE_SMP_C⟩,
  ⟨0x50100000, [(4096, 0x10)], .always, RF.GAUGE_FLT_A⟩,
  ⟨0x50100004, [(4096, 0x10)], .always, RF.GAUGE_FLT_B⟩,
  ⟨0x50100008, [(4096, 0x10)], .always, RF.GAUGE_FLT_C⟩]

def RF.GAUGE_FLT_D : List FieldDef := [⟨31, 0, .rw, .val 0⟩]
def RF.GAUGE_CTR : List FieldDef := [⟨47, 0, .ro, .val 0⟩, ⟨48, 48, .ro, .val 0⟩, ⟨49, 49, .ro, .val 0⟩]
def RF.GAUGE_CRD : List FieldDef := [⟨31, 0, .ro, .val 0⟩]

/-- Registers of GAUGE: R474. -/
def regsGauge1 : List RegDef := [
  ⟨0x5010000C, [(4096, 0x10)], .always, RF.GAUGE_FLT_D⟩,
  ⟨0x50400000, [(20480, 0x8)], .always, RF.GAUGE_CTR⟩,
  ⟨0x50600000, [(10240, 0x10), (4, 0x4)], .always, RF.GAUGE_CRD⟩]

def RF.TEST_PORT_LOOP : List FieldDef := [⟨3, 0, .rw, .val 0⟩, ⟨4, 4, .rw, .val 0⟩]
def RF.TEST_L5_CFG : List FieldDef := [⟨7, 0, .rw, .val 0⟩]
def RF.TEST_SPARE_CFG : List FieldDef := [⟨0, 0, .rw, .image⟩, ⟨1, 1, .rw, .image⟩, ⟨15, 4, .rw, .image⟩, ⟨31, 16, .rw, .image⟩]
def RF.TEST_SPARE_STAT : List FieldDef := [⟨6, 0, .ro, .fuse⟩, ⟨13, 8, .ro, .fuse⟩, ⟨20, 16, .ro, .fuse⟩, ⟨25, 24, .ro, .fuse⟩]
def RF.TEST_SCRUB_CFG : List FieldDef := [⟨15, 0, .rw, .image⟩, ⟨23, 16, .rw, .image⟩]
def RF.TEST_LANE_FAIL : List FieldDef := [⟨17, 0, .w1s, .fuse⟩]
def RF.TEST_HBM_STAT : List FieldDef := [⟨4, 0, .ro, .fuse⟩, ⟨5, 5, .ro, .val 0⟩, ⟨13, 6, .ro, .val 0⟩, ⟨23, 16, .ro, .val 0⟩, ⟨24, 24, .ro, .val 0⟩]
def RF.TEST_BIST_CTL : List FieldDef := [⟨3, 0, .rw, .val 0⟩, ⟨15, 4, .rw, .val 0⟩, ⟨16, 16, .w1s, .val 0⟩, ⟨17, 17, .ro, .val 0⟩, ⟨19, 18, .ro, .val 0⟩]
def RF.TEST_D2D_STAT : List FieldDef := [⟨15, 0, .rc, .val 0⟩, ⟨19, 16, .ro, .fuse⟩, ⟨20, 20, .ro, .val 0⟩]
def RF.TEST_CORE_STAT : List FieldDef := [⟨17, 0, .ro, .val 0⟩]
def RF.TEST_SLU_MAP : List FieldDef := [⟨31, 0, .ro, .fuse⟩]
def RF.TEST_BASIN_MAP : List FieldDef := [⟨8, 0, .ro, .fuse⟩, ⟨24, 16, .ro, .fuse⟩]

/-- Registers of TEST: R132, R495. -/
def regsTest0 : List RegDef := [
  ⟨0x60000000, [(1024, 0x4)], .portDie 0 128, RF.TEST_PORT_LOOP⟩,
  ⟨0x60001000, [(1024, 0x4)], .portDie 0 128, RF.TEST_L5_CFG⟩,
  ⟨0x60010000, [], .always, RF.TEST_SPARE_CFG⟩,
  ⟨0x60010004, [], .always, RF.TEST_SPARE_STAT⟩,
  ⟨0x60010008, [], .always, RF.TEST_SCRUB_CFG⟩,
  ⟨0x60010100, [(64, 0x4)], .portDie 0 8, RF.TEST_LANE_FAIL⟩,
  ⟨0x60010200, [(8, 0x4)], .stack 0, RF.TEST_HBM_STAT⟩,
  ⟨0x60010300, [], .always, RF.TEST_BIST_CTL⟩,
  ⟨0x60010400, [(11, 0x4)], .d2d 0, RF.TEST_D2D_STAT⟩,
  ⟨0x60010500, [], .always, RF.TEST_CORE_STAT⟩,
  ⟨0x60011000, [(2, 0x100), (32, 0x4)], .compute 0, RF.TEST_SLU_MAP⟩,
  ⟨0x60011200, [(128, 0x4)], .always, RF.TEST_BASIN_MAP⟩]

/-- Every register of the spec. -/
def regTable : List RegDef :=
  regsGlb0 ++ regsTime0 ++ regsTime1 ++ regsSec0 ++ regsMgt0 ++ regsOpt0 ++ regsOpt1 ++ regsPort0 ++ regsCist0 ++ regsRes0 ++ regsQue0 ++ regsFwd0 ++ regsSpray0 ++ regsBasin0 ++ regsTally0 ++ regsHaul0 ++ regsHaul1 ++ regsSlu0 ++ regsFlume0 ++ regsGauge0 ++ regsGauge1 ++ regsTest0

end Sys2Proof.Machine
end

