-- ==== Sys2Proof/Machine/Access.lean ====
section
/-! DEFINITION. CSR access by the access codes: finding the register of an address, unfitted units (R3), writes (R10, R11,
R523) and reads (R10, R458, R460). -/

namespace Sys2Proof.Machine

def RegDef.wide (r : RegDef) : Bool := r.fields.any (fun f => decide (31 < f.hi))

/-- Indices of an offset in a register's index list, with what is left over. -/
def indicesOf : List (Nat × Nat) → Nat → Option (List Nat × Nat)
  | [], off => some ([], off)
  | x :: t, off =>
    let i := min (off / x.2) (x.1 - 1)
    (indicesOf t (off - i * x.2)).map (fun r => (i :: r.1, r.2))

/-- The register's indices at an address, and whether the address is its high word. -/
def RegDef.hit (r : RegDef) (a : Nat) : Option (List Nat × Bool) :=
  if a < r.base then none
  else match indicesOf r.dims (a - r.base) with
    | some (ix, 0) => some (ix, false)
    | some (ix, 4) => if r.wide then some (ix, true) else none
    | _ => none

structure RegHit where
  reg : RegDef
  ix : List Nat
  high : Bool

/-- The register that an address belongs to (R519); none at an unassigned offset (R9). -/
def findReg (a : Nat) : Option RegHit :=
  regTable.findSome? (fun r => (r.hit a).map (fun h => ⟨r, h.1, h.2⟩))

/-- The unit of the register is fitted (R3), and a part in SCRAPPED has no TEST block (R69). -/
def Dev.unitFitted (d : Dev) (h : RegHit) : Bool :=
  if d.get R.GLB_LC_STATE == 5 && h.reg.base / 2 ^ 24 == blkTest then false
  else match h.reg.unit with
  | .always => true
  | .portDie dim per =>
    let i := h.ix.getD dim 0
    if h.reg.base == R.QUE_ECN_MARK 0 && decide (8191 < i) then true else d.portDieFitted (i / per)
  | .compute dim => d.computeFitted (h.ix.getD dim 0)
  | .stack dim => bitAt (d.get R.GLB_IDENT_FIT_STACKS) (h.ix.getD dim 0)
  | .d2d dim =>
    let i := h.ix.getD dim 0
    if i < 8 then d.portDieFitted i else if i < 10 then d.computeFitted (i - 8) else true

/-- Bits of the hit word that lie in fields of the access codes chosen; bits in no field are reserved. -/
def RegHit.bits (h : RegHit) (p : Acc → Bool) : Nat :=
  let m := (h.reg.fields.filter (fun f => p f.acc)).foldl (fun m f => withBits m f.lo (f.hi - f.lo + 1) (2 ^ (f.hi - f.lo + 1) - 1)) 0
  (if h.high then m / 2 ^ 32 else m) % 2 ^ 32

/-- The value of a word under a mask, as the image loads it (R8, R11, R50, R54): RO and reserved bits keep theirs, what a WO field takes does
not read back, and a unit that is not fitted takes nothing (R3). -/
def loadWord (a value mask : Nat) (d : Dev) : Dev :=
  match findReg a with
  | none => d
  | some h =>
    if !d.unitFitted h then d
    else
      let m := BitVec.ofNat 32 (Nat.land mask (h.bits (fun c => c != .ro && c != .wo)))
      let o := BitVec.ofNat 32 (Nat.land mask (h.bits (fun c => c == .wo)))
      let v := BitVec.ofNat 32 value
      let d := d.wr a ((d.rd a &&& ~~~m) ||| (v &&& m))
      if o = 0 then d else { d with hidden := SMap.write d.hidden a ((SMap.getD d.hidden a 0 &&& ~~~o) ||| (v &&& o)) 0 }

/-- Byte address of the register itself (its low word). -/
def RegHit.addr (h : RegHit) (a : Nat) : Nat := if h.high then a - 4 else a

/-- The value after a write of `new` over `old`, field by field (R11), and whether a locked RWL field would change. -/
def writeFields (locked : Bool) (fs : List FieldDef) (old new : Nat) : Nat × Bool :=
  fs.foldl (fun r f =>
    let w := f.hi - f.lo + 1
    let ov := bitsOf old f.lo w
    let nv := bitsOf new f.lo w
    match f.acc with
    | .rw => (withBits r.1 f.lo w nv, r.2)
    | .rwl => if locked then (r.1, r.2 || nv != ov) else (withBits r.1 f.lo w nv, r.2)
    | .w1c => (withBits r.1 f.lo w (Nat.land ov (Nat.xor nv (2 ^ w - 1))), r.2)
    | .w1s => (withBits r.1 f.lo w (Nat.lor ov nv), r.2)
    | .ro | .rc | .wo => r) (old, false)

/-- Bits of the register that are WO: they read as zero, and the device keeps what was written. -/
def woMask (fs : List FieldDef) : Nat :=
  fs.foldl (fun m f => if f.acc == .wo then withBits m f.lo (f.hi - f.lo + 1) (2 ^ (f.hi - f.lo + 1) - 1) else m) 0

/-- A requester's write to any other register discards its held low word (R523). -/
def discardHeld (req : ReqId) (a : Nat) (d : Dev) : Dev :=
  { d with heldLow := d.heldLow.filter (fun e => !(e.1 == req && e.2.1 != a)) }

def isLocked (d : Dev) (a : Nat) : Bool := d.locks.contains (a / 2 ^ 24)

/-- A CSR access passes to the counters of SRC 6 (R456). `cls` 0 read, 1 write; `priv` 1 for U-mode, else 3. -/
def countCsr (req : ReqId) (a cls priv : Nat) (d : Dev) : Dev := countEvent ⟨6, 1, req.toNat, some a, cls, priv⟩ d

/-- The fields that a write reaches: those that the image loads only once it is applied (R521). -/
def Dev.liveFields (d : Dev) (fs : List FieldDef) : List FieldDef := if d.applied then fs else fs.filter (fun f => f.rst != .image)

/-- Apply a value to the register at address a (of its low word) with the given fields; `at_` and `word` are the address and the word
written. -/
def applyFields (fs : List FieldDef) (wide : Bool) (a : Nat) (req : ReqId) (new : Nat) (at_ : Nat) (word : Word) (d : Dev) : Dev :=
  let fs := d.liveFields fs
  let old := if wide then d.rd64 a else (d.rd a).toNat
  let r := writeFields (isLocked d a) fs old new
  let d := if wide then d.wr64 a r.1 else d.wr a (BitVec.ofNat 32 r.1)
  let wo := woMask fs
  let d := if wo = 0 then d else { d with hidden := SMap.write d.hidden a (BitVec.ofNat 32 (Nat.land new wo)) 0 }
  if r.2 then refuseWrite at_ req word true d else d

/-- A word written to a word of a 64-bit register (R10): a low word is held, a high word applies both. -/
def writeWide (fs : List FieldDef) (base : Nat) (high : Bool) (req : ReqId) (val : Word) (d : Dev) : Dev :=
  if high then
    let low := match d.heldLow.find? (fun e => e.1 == req && e.2.1 == base) with
      | some e => e.2.2
      | none => d.rd base
    applyFields fs true base req (low.toNat + 2 ^ 32 * val.toNat) (base + 4) val
      { d with heldLow := d.heldLow.filter (fun e => !(e.1 == req && e.2.1 == base)) }
  else { d with heldLow := d.heldLow.filter (fun e => !(e.1 == req)) ++ [(req, base, val)] }

/-- A word written to a CSR address under R3, R9, R10, R11 and R523, with no effect beyond the register's own fields. -/
def writeCsr (req : ReqId) (a : Nat) (val : Word) (d : Dev) : Dev :=
  let d := countCsr req a 1 3 d
  match findReg a with
  | none => d
  | some h =>
    let d := discardHeld req (h.addr a) d
    if !d.unitFitted h then d
    else if h.reg.wide then writeWide h.reg.fields (h.addr a) h.high req val d
    else applyFields h.reg.fields false a req val.toNat a val d

/-- A write of the 32-bit register of a row's own command, with the register's fields named. -/
def writeOwn (fs : List FieldDef) (a : Nat) (w : CsrW) (d : Dev) : Dev :=
  applyFields fs false a w.req w.val.toNat a w.val (discardHeld w.req a (countCsr w.req a 1 3 d))

/-- A write that a rule ignores with a CE event (R527). -/
def refuseCsr (a : Nat) (w : CsrW) (d : Dev) : Dev :=
  refuseWrite a w.req w.val false (discardHeld w.req a (countCsr w.req a 1 3 d))

/-- A write of a command's own register on a unit: nothing but the access where the unit is not fitted (R3). -/
def onUnit (fitted : Bool) (a : Nat) (w : CsrW) (f : Dev → Dev) (d : Dev) : Dev :=
  if fitted then f d else discardHeld w.req a (countCsr w.req a 1 3 d)

/-- A field of the written word, and whether it is 1. -/
def wBits (w : CsrW) (f : Fld) : Nat := bitsOf w.val.toNat f.lo f.w
def wOn (w : CsrW) (f : Fld) : Bool := wBits w f == 1

/-! ### Reads -/

/-- GAUGE_CTR as a 64-bit value: VALUE, OVF, CHAIN (R474). -/
def Dev.ctrWord (d : Dev) (c : Nat) : Nat :=
  (d.ctr c).1 + b2n (d.ctr c).2 * 2 ^ 48 + b2n (d.chainBit c) * 2 ^ 49

/-- Value of a 64-bit register as the device holds it now. -/
def Dev.value64 (d : Dev) (a : Nat) : Nat :=
  if a = R.TIME_RAW then d.time.raw
  else if R.GAUGE_CTR 0 ≤ a ∧ a < R.GAUGE_CTR 20480 then d.ctrWord ((a - R.GAUGE_CTR 0) / 8)
  else d.rd64 a

/-- Latch the high word of a register for a requester (R10, R523). -/
def latchHigh (req : ReqId) (a : Nat) (w : Word) (d : Dev) : Dev :=
  { d with latch := d.latch.filter (fun e => e.1 != (req, a)) ++ [((req, a), w)] }

def latchedHigh (req : ReqId) (a : Nat) (d : Dev) : Word :=
  match d.latch.find? (fun e => e.1 == (req, a)) with
  | some e => e.2
  | none => 0

end Sys2Proof.Machine
end

