-- ==== Sys2Proof/Machine/Reset.lean ====
section
/-! DEFINITION. Reset, references, dies and stopping (R17 to R24, R65, R67, R68, R91, R498, R499, R501, R502, R528). -/

namespace Sys2Proof.Machine

/-- A device reset (R65): everything at its reset value. The board's pins PCIE_EN, PCIE_PERST_N and PWRLIM_N keep their levels. -/
def restart (f : Fuses) (cause stop : Fin 4) (d : Dev) : Dev :=
  let n := Dev.fresh f cause stop d.freeCtr d.outbox
  { n.set R.MGT_PCIE_CFG_FITTED (d.get R.MGT_PCIE_CFG_FITTED) with
    boot := { Boot.init with perstHigh := d.boot.perstHigh }
    ras := { Ras.init with pwrLow := d.ras.pwrLow } }

/-- The device stops (R65): code as in GLB_RST_CAUSE.STOP (R68). -/
def stop (code : Fin 4) (d : Dev) : Dev :=
  { d.set R.GLB_RST_CAUSE_STOP code.val with power := .stopped code }

/-- STOP code that the next reset records (R68: survives RESET_N, not a loss of power). -/
def stopCode (d : Dev) : Fin 4 :=
  match d.power with
  | .stopped c => c
  | .resetLow c => c
  | .off | .running => 0

/-- RESET_RELEASE (R22, R65, R66, R521): RESET_N rises with the rails up. -/
def resetRelease (pcieEn : Bool) (f : Fuses) (d : Dev) : Dev :=
  match d.power with
  | .off => (restart f 0 0 d).set R.MGT_PCIE_CFG_FITTED (b2n pcieEn)
  | .resetLow c => (restart f 0 c d).set R.MGT_PCIE_CFG_FITTED (b2n pcieEn)
  | .running | .stopped _ => d

def execResetRelease (pcieEn : Bool) (s : State) : Host.Outcome State Fault Refusal :=
  .next { s with dev := resetRelease pcieEn s.fuses s.dev }

/-- RESET_N takes effect: transmitters are squelched, clocks stop and all state but STOP is lost; THERMTRIP_N is released (R502,
R504). -/
def holdReset (f : Fuses) (d : Dev) : Dev := { restart f 0 (stopCode d) d with power := .resetLow (stopCode d) }

/-- Whether a low pulse of RESET_N takes effect (R502): under 1 µs it is filtered out; at least 10 µs resets; between, a free value decides. -/
def pulseTaken (lowNs : Nat) (d : Dev) : Bool × Dev :=
  if d.power == .off || decide (lowNs < 1000) then (false, d)
  else if 10000 ≤ lowNs then (true, d)
  else (d.draw.1.getLsbD 0, d.draw.2)

/-- The fuses when n of the three copies of a life-cycle state have burned (R72). A transition of TEST that so resolves to PROVISIONED has
fused slot 0 and the UDS with it (R70). -/
def burnCopies (n : Nat) (t : BitVec 3) (f : Fuses) : Fuses :=
  let f := { f with lc := (if 1 ≤ n then t else f.lc.1, if 2 ≤ n then t else f.lc.2.1, if 3 ≤ n then t else f.lc.2.2) }
  if t = 2 ∧ 2 ≤ n then
    { f with
      uds := if f.uds = [] then beBytes 48 Config.udsValue else f.uds
      slots := f.slots.modify 0 (fun k => { k with
        ecDigest := Config.slot0Digests.1, lmsDigest := Config.slot0Digests.2, programmed := true }) }
  else f

/-- A life-cycle burn in progress is cut short: a free number of copies has burned (R72). -/
def cutBurn (s : State) : State :=
  match s.dev.boot.pendingLc with
  | none => s
  | some t => { s with fuses := burnCopies (s.dev.draw.1.toNat % 4) t s.fuses, dev := s.dev.draw.2 }

/-- A reset or loss of power of the whole state: what was burning is cut short first. -/
def cutThen (f : Fuses → Dev → Dev) (s : State) : State :=
  let c := cutBurn s
  { c with dev := f c.fuses c.dev }

/-- RESET_ASSERT (R502). -/
def resetAssert (lowNs : Nat) (s : State) : State :=
  let r := pulseTaken lowNs s.dev
  if r.1 then cutThen holdReset { s with dev := r.2 } else { s with dev := r.2 }

def execResetAssert (lowNs : Nat) (s : State) : Host.Outcome State Fault Refusal := .next (resetAssert lowNs s)

/-- POWER_LOSS (R499): nothing holds state but fuses and flash. -/
def powerLoss (f : Fuses) (d : Dev) : Dev := { Dev.fresh f 0 0 d.freeCtr d.outbox with power := .off }

def execPowerLoss (s : State) : Host.Outcome State Fault Refusal := .next (cutThen powerLoss s)

/-- REFCLK_QUALIFIED (R21): the qualification ends; REFCLK0 is selected if it qualifies, else REFCLK1; with neither the
monitor keeps qualifying. The control-die PLLs start. -/
def refclkQualified (ok0 ok1 : Bool) (d : Dev) : Dev :=
  if !d.running || d.boot.clocked then d
  else
    let d := (d.set R.GLB_REFCLK_LOS0 (b2n !ok0)).set R.GLB_REFCLK_LOS1 (b2n !ok1)
    if ok0 || ok1 then
      { d.set R.GLB_REFCLK_ACTIVE (b2n !ok0) with boot := { d.boot with clocked := true, released := d.boot.released ||| 1 } }
    else d

def execRefclkQualified (ok0 ok1 : Bool) (s : State) : Host.Outcome State Fault Refusal := onDev (refclkQualified ok0 ok1) s

def losField (ref : Fin 2) : Fld := if ref = 0 then R.GLB_REFCLK_LOS0 else R.GLB_REFCLK_LOS1

/-- AUTO in force: 1 until the image is applied (R21). -/
def autoSwitch (d : Dev) : Bool := !d.applied || d.on R.GLB_REFCLK_AUTO

/-- REFCLK_LOSS (R19). -/
def refclkLoss (ref : Fin 2) (d : Dev) : Dev :=
  if !d.running || !d.boot.clocked then d
  else
    let d := d.set (losField ref) 1
    if d.get R.GLB_REFCLK_ACTIVE ≠ ref.val then d
    else
      let other : Fin 2 := if ref = 0 then 1 else 0
      let otherLost := d.on (losField other)
      if autoSwitch d && !otherLost then
        raiseCE blkGlb 2 other.val ((d.set R.GLB_REFCLK_ACTIVE other.val).set R.GLB_REFCLK_SWITCHED 1) ref.val
      else stop 2 (raiseFatal blkGlb 3 ref.val d (b2n otherLost))

def execRefclkLoss (ref : Fin 2) (s : State) : Host.Outcome State Fault Refusal := onDev (refclkLoss ref) s

/-- REFERENCE_RESTORED (R19, R20): the reference is no longer lost. -/
def referenceRestored (ref : Fin 2) (d : Dev) : Dev :=
  Dev.when (d.running && d.boot.clocked) (fun d => d.set (losField ref) 0) d

def execReferenceRestored (ref : Fin 2) (s : State) : Host.Outcome State Fault Refusal := onDev (referenceRestored ref) s

/-- The reservoir wipe is under way: GLB_WIPE_STATUS.PROGRESS shows how far it has come, a free number that does not fall (R68). -/
def wipeProgress (d : Dev) : Dev :=
  if d.running && d.boot.hbmDone && !d.on R.GLB_WIPE_STATUS_RES_DONE && !d.on R.GLB_WIPE_STATUS_FAIL then
    d.draw.2.set R.GLB_WIPE_STATUS_PROGRESS (max (d.get R.GLB_WIPE_STATUS_PROGRESS) (d.draw.1.toNat % 256))
  else d

/-! ### Dies -/

/-- Die that holds a register whose reset is "fuse" (R15, R521). -/
def fuseOwner (a : Nat) : Nat :=
  let blk := a / 2 ^ 24
  if blk < 5 then 0
  else if 0x10 ≤ blk ∧ blk < 0x18 then blk - 0x10 + 2
  else if R.TEST_LANE_FAIL 0 ≤ a ∧ a < R.TEST_LANE_FAIL 64 then (a - R.TEST_LANE_FAIL 0) / 32 + 2
  else if R.TEST_SLU_MAP 0 0 ≤ a ∧ a < R.TEST_SLU_MAP 2 0 then (a - R.TEST_SLU_MAP 0 0) / 0x100 + 10
  else 1

/-- Life-cycle state by majority over the three fuse copies (R72), and whether they differ (R69). -/
def lcState (f : Fuses) : BitVec 3 :=
  if f.lc.1 = f.lc.2.1 ∨ f.lc.1 = f.lc.2.2 then f.lc.1
  else if f.lc.2.1 = f.lc.2.2 then f.lc.2.1 else f.lc.1

def lcSplit (f : Fuses) : Bool := !(f.lc.1 == f.lc.2.1 && f.lc.2.1 == f.lc.2.2)

/-- The "fuse" registers of a die become valid (R521). -/
def loadFuses (f : Fuses) (die : Nat) (d : Dev) : Dev :=
  let d := Dev.each (f.words.filter (fun e => fuseOwner e.1 == die)) (fun e d => d.wr e.1 (d.rd e.1 ||| e.2)) d
  if die = 0 then
    ((((((d.set R.GLB_IDENT_PART f.part.toNat).set R.GLB_IDENT_STEP f.stepping.toNat).set
      R.GLB_IDENT_FIT_PORTDIES f.portDies.toNat).set R.GLB_IDENT_FIT_STACKS f.hbmStacks.toNat).set
      R.GLB_IDENT_FIT_COMPUTE f.compute.toNat).set R.GLB_LC_STATE (lcState f).toNat).set R.GLB_LC_SPLIT (b2n (lcSplit f))
      |>.set R.SEC_SVN_ADV_FUSED f.svn
  else d

/-- DIE_READY (R22, R24, R521, R528): the die shows 0b10 and its fused fields become valid. -/
def dieReadyCmd (f : Fuses) (die : DieNo) (d : Dev) : Dev :=
  if d.running && d.boot.released.getLsbD die.val && d.dieState die.val == 1 then
    (loadFuses f die.val d).setDie die.val 2
  else d

def execDieReady (die : DieNo) (s : State) : Host.Outcome State Fault Refusal :=
  .next { s with dev := dieReadyCmd s.fuses die s.dev }

/-- The next die that the enclave releases (R22): base, port dies, compute dies, in order, unfitted dies passed over. -/
def nextDie (d : Dev) : Option Nat :=
  ((List.range 11).map (· + 1)).find? (fun k => d.dieState k != 0 && !d.boot.released.getLsbD k)

/-- DIE_RELEASE (R22, R528): after the control die is ready the base die; once the base die is ready the others. -/
def dieRelease (d : Dev) : Dev :=
  match nextDie d with
  | none => d
  | some k =>
    if d.running && d.dieReady 0 && (k == 1 || d.dieReady 1) then
      { d with boot := { d.boot with released := d.boot.released ||| BitVec.ofNat 12 (2 ^ k) } }
    else d

def execDieRelease (s : State) : Host.Outcome State Fault Refusal := onDev dieRelease s

/-- DIE_READY_TIMEOUT (R23): the die is FAILED with a FATAL event; a control-die failure stops the device. -/
def dieReadyTimeout (die : DieNo) (d : Dev) : Dev :=
  if d.running && d.boot.released.getLsbD die.val && d.dieState die.val == 1 then
    let d := raiseFatal blkGlb 4 die.val (d.setDie die.val 3)
    if die = 0 then stop 3 d else d
  else d

def execDieReadyTimeout (die : DieNo) (s : State) : Host.Outcome State Fault Refusal := onDev (dieReadyTimeout die) s

/-- SOFT_RESET (R65, R68): KEY 0x5A17 with DEVICE 1 resets the device; any other KEY ignores the write. -/
def softReset (w : CsrW) (s : State) : State :=
  if !s.dev.running then s
  else
    let s := { s with dev := discardHeld w.req R.GLB_RST_CTL (countCsr w.req R.GLB_RST_CTL 1 3 s.dev) }
    if wBits w R.GLB_RST_CTL_KEY == 0x5A17 && wOn w R.GLB_RST_CTL_DEVICE then cutThen (fun f d => restart f 1 0 d) s else s

def execSoftReset (w : CsrW) (s : State) : Host.Outcome State Fault Refusal := .next (softReset w s)

/-- THERMAL_TRIP (R91, R504): THERMTRIP_N asserts and the device stops with STOP 1. -/
def thermalTrip (d : Dev) : Dev :=
  if d.running then
    (stop 1 { d with ras := { d.ras with thermtrip := true } }).emit (.pin "THERMTRIP_N" false)
  else d

def execThermalTrip (_die : Fin 20) (s : State) : Host.Outcome State Fault Refusal := onDev thermalTrip s

/-- PWRLIM_ASSERT (R501): low for at least 1 µs, the lower budget applies from the next grant computation, which shows it in
GLB_PWR_LIM.ACTIVE. -/
def pwrlimAssert (lowNs : Nat) (d : Dev) : Dev :=
  if lowNs < 1000 then d
  else
    let d := { d with ras := { d.ras with pwrLow := true } }
    Dev.whenRunning (fun d => d.set R.GLB_PWR_LIM_SEEN 1) d

def execPwrlimAssert (lowNs : Nat) (s : State) : Host.Outcome State Fault Refusal := onDev (pwrlimAssert lowNs) s

/-- PWRLIM_DEASSERT (R501): the lower budget stops applying from the next grant computation. -/
def pwrlimDeassert (d : Dev) : Dev := { d with ras := { d.ras with pwrLow := false } }

def execPwrlimDeassert (s : State) : Host.Outcome State Fault Refusal := onDev pwrlimDeassert s

end Sys2Proof.Machine
end

