-- ==== Sys2Proof/Machine/Boot.lean ====
section
/-! DEFINITION. The Zinel image, start-up, life cycle and key slots (R47 to R72, R526). What is applied at IMAGE_APPLY stands in
Apply.lean. -/

namespace Sys2Proof.Machine

/-! ### The image (R47 to R51) -/

/-- n bytes of an image at an offset; erased flash reads 0xFF (PRESUMED, log 7). -/
def flashBytes (img : List Byte) (off n : Nat) : List Byte :=
  slice img off n ++ List.replicate (n - (img.length - off)) 0xFF

def imgBe (img : List Byte) (off n : Nat) : Nat := ofBe (flashBytes img off n)

/-- An entry of the section table (R49). -/
structure Sect where
  stype : Nat
  off : Nat
  len : Nat
  crc : Nat
  deriving DecidableEq, Repr

def sectAt (img : List Byte) (k : Nat) : Sect :=
  ⟨imgBe img (128 + 16 * k) 2, imgBe img (132 + 16 * k) 4, imgBe img (136 + 16 * k) 4, imgBe img (140 + 16 * k) 4⟩

def sections (img : List Byte) : List Sect := (List.range (imgBe img 6 2)).map (sectAt img)

def sigOff (img : List Byte) : Nat := imgBe img 24 4
def imgLen (img : List Byte) : Nat := imgBe img 16 4

/-- Bytes of the first section of a type; empty where there is none. -/
def sectBytes (img : List Byte) (stype : Nat) : List Byte :=
  match (sections img).find? (fun x => x.stype == stype) with
  | some x => flashBytes img x.off x.len
  | none => []

/-- Code of SEC_BOOT_STATUS.ERR with SECT. -/
abbrev BootErr := Nat × Nat

/-- Header checks of R53, in its order. -/
def headerErr (f : Fuses) (img : List Byte) : Option BootErr :=
  if imgBe img 0 4 != 0x5A4E4C31 || imgBe img 4 2 != 1 then some (1, 0)
  else if crc32c (flashBytes img 0 124) != imgBe img 124 4 then some (2, 0)
  else if imgBe img 6 2 == 0 || decide (64 < imgBe img 6 2) || imgBe img 20 4 != 128 || sigOff img % 4 != 0
      || decide (imgLen img ≤ sigOff img) || decide (124 * 2 ^ 20 < imgLen img) then some (18, 0xFF)
  else if imgBe img 8 1 != f.part.toNat || decide (f.stepping.toNat < imgBe img 9 1) then some (3, 0)
  else if decide (64 < imgBe img 12 4) || decide (imgBe img 12 4 < f.svn) then some (4, 0)
  else none

/-- An entry breaks a rule of R49 or R50 by itself: alignment, extent, order and overlap with the one before, type. -/
def sectBad (img : List Byte) (k : Nat) : Bool :=
  let x := sectAt img k
  x.off % 64 != 0 || decide (sigOff img < x.off + x.len) || x.stype == 0 || decide (8 < x.stype) ||
    decide (x.off < 128 + 16 * imgBe img 6 2) ||
    (decide (0 < k) && decide (x.off < (sectAt img (k - 1)).off + (sectAt img (k - 1)).len))

def countType (img : List Byte) (t : Nat) : Nat := ((sections img).filter (fun x => x.stype == t)).length

/-- Section-table checks (R49, R50): types 1 to 5 exactly once, 6 to 8 at most once. -/
def tableErr (img : List Byte) : Option BootErr :=
  match (List.range (imgBe img 6 2)).find? (sectBad img) with
  | some k => some (10, k)
  | none =>
    if [1, 2, 3, 4, 5].all (fun t => countType img t == 1) && [6, 7, 8].all (fun t => decide (countType img t ≤ 1)) then none
    else some (10, 0xFF)

/-- The images a life-cycle state accepts are signed from this slot (R55, R69). -/
def slotAccepted (f : Fuses) (n : Nat) : Bool :=
  let lc := (lcState f).toNat
  match f.slots[n]? with
  | none => false
  | some k => k.programmed && !k.revoked &&
      (if n = 0 then lc == 1 || lc == 2 || lc == 4 else lc == 2 || lc == 3)

/-- Key slot checks on a signature block (R51, R55): the slot is accepted and the digests match. -/
def ecKeyOk (f : Fuses) (blk : List Byte) : Bool :=
  let n := (blk.getD 0 0).toNat
  slotAccepted f n && (match f.slots[n]? with | some k => sha384 (slice blk 4 96) == k.ecDigest | none => false)

def lmsKeyOk (f : Fuses) (blk : List Byte) : Bool :=
  let n := (blk.getD 0 0).toNat
  slotAccepted f n && (match f.slots[n]? with | some k => sha384 (slice blk 200 56) == k.lmsDigest | none => false)

/-- LMS parameter sets of R51 in RFC 8554 typecodes: heights 5 to 20 with SHA-256 (5 to 8), Winternitz 4 or 8 (3, 4). -/
def lmsSetOk (blk : List Byte) : Bool :=
  beAt blk 196 4 == 56 && [5, 6, 7, 8].contains (beAt blk 200 4) && [3, 4].contains (beAt blk 204 4)

/-- The ECDSA signature of a signature block verifies over a message (R51, R55). -/
def ecSigOk (blk msg : List Byte) : Bool := ecdsaVerify (slice blk 4 96) (slice blk 100 96) msg

/-- Its LMS signature does, with a parameter set of R51. -/
def lmsSigOk (blk msg : List Byte) : Bool := lmsSetOk blk && lmsVerify (slice blk 200 56) (slice blk 260 (beAt blk 256 4)) msg

def sigBlock (img : List Byte) : List Byte := flashBytes img (sigOff img) (imgLen img - sigOff img)

/-- The image's signatures verify over header bytes 0 to 127 (R55). -/
def imageEcOk (img : List Byte) : Bool := ecSigOk (sigBlock img) (flashBytes img 0 128)
def imageLmsOk (img : List Byte) : Bool := lmsSigOk (sigBlock img) (flashBytes img 0 128)

/-- The slot of the signature block is not accepted, or a key does not match its digest (R55). -/
def slotErr (f : Fuses) (img : List Byte) : Option BootErr :=
  if ecKeyOk f (sigBlock img) && lmsKeyOk f (sigBlock img) then none else some (5, 0)

/-- IMGHASH and each SCRC (R53). -/
def hashErr (img : List Byte) : Option BootErr :=
  if sha384 (flashBytes img 128 (sigOff img - 128)) != flashBytes img 32 48 then some (8, 0)
  else match (List.range (imgBe img 6 2)).find? (fun k =>
      crc32c (flashBytes img (sectAt img k).off (sectAt img k).len) != (sectAt img k).crc) with
    | some k => some (9, k)
    | none => none

/-- Records of n bytes of a section. -/
def recordsOf (n : Nat) (bs : List Byte) : List (List Byte) :=
  (List.range (bs.length / n)).map (fun i => slice bs (n * i) n)

/-- Index of the table entry of a type. -/
def sectIndex (img : List Byte) (t : Nat) : Nat := ((sections img).map (·.stype)).idxOf t

/-- TURN records (R50): class and cycles. -/
def turnRecords (img : List Byte) : List (Nat × Nat) :=
  (recordsOf 8 (sectBytes img 5)).map (fun r => (beAt r 0 2, beAt r 4 4))

/-- Partition k that MEMORY sets: base and size in GiB, from the last word for RES_PART[k] (R188). -/
def memoryPart (img : List Byte) (k : Nat) : Nat × Nat :=
  match (Config.sectionRecords 2 (sectBytes img 2)).reverse.find? (fun r => r.1 == R.RES_PART k) with
  | some r => (bitsOf r.2 0 9, bitsOf r.2 16 9)
  | none => (0, 0)

/-- The partitions that are there: a size of 0 makes one absent (R188). -/
def memoryParts (img : List Byte) : List (Nat × Nat) := ((List.range 6).map (memoryPart img)).filter (fun p => p.2 != 0)

/-- A bit of the mask lies in an RO field of the word; reserved bits are RO. -/
def hitsRo (a mask : Nat) : Bool :=
  match findReg a with
  | none => false
  | some h => Nat.land mask (2 ^ 32 - 1 - h.bits (fun c => c != .ro)) % 2 ^ 32 != 0

/-- The windows of R519. -/
def inWindow (a : Nat) : Bool :=
  [0, 1, 2, 3, 4, 0x10, 0x11, 0x12, 0x13, 0x14, 0x15, 0x16, 0x17, 0x20, 0x21, 0x22, 0x23, 0x24, 0x25, 0x30, 0x31, 0x32, 0x40,
   0x41, 0x48, 0x50, 0x60].contains (a / 2 ^ 24)

/-- A DEFAULTS record is refused by R54: outside every window, or on an RO field. -/
def defaultBad (r : List Byte) : Bool :=
  (Config.lockRecord r).isNone && (!inWindow (beAt r 0 4) || hitsRo (beAt r 0 4) (beAt r 8 4))

/-- Image bytes read when a start-up time in microseconds is reached: 400 MB/s from 950 (R47, R58). -/
def readAt (us : Nat) : Nat := 400 * (us - 950)

/-- End of the section of a type: the check of what it holds is made once it has been read (R53). -/
def sectEnd (img : List Byte) (t : Nat) : Nat :=
  match (sections img).find? (fun x => x.stype == t) with
  | some x => x.off + x.len
  | none => 0

/-- TURN, MEMORY and DEFAULTS checks that fail (R53, R54), with the image bytes read when each is made. MEMORY waits for the stacks too. -/
def contentFails (d : Dev) (img : List Byte) : List (Nat × BootErr) :=
  (if (turnRecords img).any (fun r => decide (4032 < r.2)) then [(sectEnd img 5, (11, sectIndex img 5))] else []) ++
  (if d.boot.hbmDone && (memoryParts img).any (fun p => decide (d.get R.RES_STATUS_USABLE < p.1 + p.2))
    then [(max (readAt 6000) (sectEnd img 2), (12, sectIndex img 2))] else []) ++
  (if (recordsOf 12 (sectBytes img 4)).any defaultBad then [(sectEnd img 4, (13, sectIndex img 4))] else [])

/-- Those of an image that lies whole before the device, in the order of R61's codes. -/
def contentWhole (d : Dev) (img : List Byte) : Option BootErr := (contentFails d img).head?.map (·.2)

/-- The first of them that is made by the time n bytes have been read; any of them once the whole image has. -/
def contentErr (d : Dev) (img : List Byte) (n : Nat) : Option BootErr :=
  (((contentFails d img).filter (fun x => d.boot.imageRead || decide (x.1 ≤ n))).foldl
    (fun (r : Option (Nat × BootErr)) x => match r with
      | some y => if x.1 < y.1 then some x else some y
      | none => some x) none).map (·.2)

/-- The first check of R53 that an image fails, in the order of R53. -/
def imageErr (f : Fuses) (d : Dev) (img : List Byte) : Option BootErr :=
  (headerErr f img).or ((slotErr f img).or ((tableErr img).or (
    if !imageEcOk img then some (6, 0)
    else if !imageLmsOk img then some (7, 0)
    else (hashErr img).or (contentWhole d img))))

/-! ### Streaming into the control-core partition (R58, R60) -/

/-- Image bytes from an offset on, each section's own put at its place in the control-core partition. -/
def putSections (img : List Byte) (start : Nat) (bs : List Byte) (d : Dev) : Dev :=
  let base := (memoryPart img 3).1 * 2 ^ 30
  Dev.each (sections img) (fun x d =>
    let lo := max start x.off
    let hi := min (start + bs.length) (x.off + x.len)
    if lo < hi then d.writeMem 1 (base + Config.sectionPlace x.stype + (lo - x.off)) (slice bs (lo - start) (hi - lo)) else d) d

/-- The flash read has come to n bytes: what is new waits in the staging buffer until the control-core partition has been wiped, and then
goes there. -/
def readTo (img : List Byte) (n : Nat) (d : Dev) : Dev :=
  let m := max d.boot.flashRead (min n (imgLen img))
  let new := flashBytes img d.boot.flashRead (m - d.boot.flashRead)
  if d.boot.controlWiped then putSections img d.boot.flashRead new { d with boot := { d.boot with flashRead := m } }
  else { d with boot := { d.boot with flashRead := m, staging := d.boot.staging ++ new } }

/-! ### Start-up (R58) -/

def stage (d : Dev) : Nat := d.get R.SEC_BOOT_STATUS_STAGE
def setStage (n : Nat) (d : Dev) : Dev := d.set R.SEC_BOOT_STATUS_STAGE n

/-- The image is being read: its checks so far have passed (R53, R58). -/
def reading (d : Dev) : Bool := stage d == 2 || stage d == 3

/-- Enter the factory default state with a failure (R53, R63); ERR keeps the first failure (R61). -/
def enterDefault (e : BootErr) (d : Dev) : Dev :=
  let d := if d.get R.SEC_BOOT_STATUS_ERR = 0 then
      (d.set R.SEC_BOOT_STATUS_ERR e.1).set R.SEC_BOOT_STATUS_SECT e.2 else d
  setStage 14 ({ d with boot := { d.boot with staging := [] } }.set (R.MGT_MP_CFG_EN 0) 1)

/-- Draw a new SEC_LC_NONCE (R71). -/
def newNonce (d : Dev) : Dev :=
  let a := d.draw
  let b := a.2.draw
  ((b.2.wr (R.SEC_LC_NONCE 0) (a.1.truncate 32)).wr (R.SEC_LC_NONCE 1) (b.1.truncate 32)).wr (R.SEC_LC_NONCE 2)
    ((b.1 >>> 32).truncate 32)

def dieDone (d : Dev) (k : Nat) : Bool := d.dieState k != 1

/-- Every fitted die is ready or FAILED, or the base die is FAILED (R23, R528). -/
def diesDone (d : Dev) : Bool := d.dieReady 0 && (d.dieState 1 == 3 || (List.range 12).all (dieDone d))

def dieFailed (d : Dev) : Bool := (List.range 12).any (fun k => d.dieState k == 3)

/-! ### Identity (R73) -/

/-- CDI0: from the UDS, in RETURN from the return constant. -/
def cdi0 (f : Fuses) : List Byte :=
  hmac384 (if (lcState f).toNat = 4 then beBytes 48 Config.returnConstant else f.uds) Config.bootRomDigest

/-- CDI1 of an image: IMGHASH, then SVN in 4 bytes and the life-cycle state in one. -/
def cdi1 (f : Fuses) (header : List Byte) : List Byte :=
  hmac384 (cdi0 f) (slice header 32 48 ++ slice header 12 4 ++ beBytes 1 (lcState f).toNat)

def deviceKey (f : Fuses) : Nat := Config.keyFromCdi (cdi0 f)
def aliasKey (f : Fuses) (header : List Byte) : Nat := Config.keyFromCdi (cdi1 f header)

/-- The part has a DeviceID: the UDS is fused, or the return constant takes its place. -/
def hasIdentity (f : Fuses) : Bool := [2, 3, 4].contains (lcState f).toNat

/-- The enclave signs with a private key. -/
def enclaveSign (key : Nat) (msg : List Byte) (d : Dev) : List Byte × Dev :=
  (ecdsaSign key (Config.signNonce d.freeCtr) msg, { d with freeCtr := d.freeCtr + 1 })

/-- The certificate of a subject key, signed by an issuer's private key. -/
def certify (issuer subject : Nat) (d : Dev) : List Byte × Dev :=
  let body := Config.certBody (ecPublic issuer) (ecPublic subject)
  let r := enclaveSign issuer body d
  (Config.certWith body r.1, r.2)

/-- In RETURN the enclave signs the return DeviceID certificate with the return DeviceID key itself (R75). -/
def signReturn (f : Fuses) (d : Dev) : Dev :=
  if (lcState f).toNat = 4 then
    let r := certify (deviceKey f) (deviceKey f) d
    { r.2 with boot := { r.2.boot with returnCert := r.1 } }
  else d

/-- The enclave signs the Alias certificate with the DeviceID key at each start-up (R73). -/
def signAlias (f : Fuses) (d : Dev) : Dev :=
  if hasIdentity f then
    let r := certify (deviceKey f) (aliasKey f d.boot.header) d
    { r.2 with boot := { r.2.boot with aliasCert := r.1 } }
  else d

/-- ENCLAVE_START_UP (R58 at 950 µs): the flash read, HBM4 initialisation and SRAM wipe begin, STAGE is HEADER; after a die
failure the device goes to the factory default state with ERR 17 (R23). -/
def enclaveStartUp (f : Fuses) (d : Dev) : Dev :=
  if d.running && diesDone d && !d.boot.enclaveUp then
    let d := signReturn f (newNonce ({ d with boot := { d.boot with enclaveUp := true } }.emit (.pin "XSPI_RESET_N" true)))
    if dieFailed d then enterDefault (17, 0) d else setStage 1 d
  else d

def execEnclaveStartUp (s : State) : Host.Outcome State Fault Refusal := .next { s with dev := enclaveStartUp s.fuses s.dev }

/-- The checks made at 1.0 ms, in the order of R53: header, key slot, section table, and what has been read of the sections. -/
def readErr (f : Fuses) (d : Dev) (img : List Byte) : Option BootErr :=
  (headerErr f img).or ((slotErr f img).or ((tableErr img).or (contentErr d img (readAt 1000))))

/-- HEADER_CHECK (R53 at 1.0 ms): header, signature block and section table; STAGE becomes VERIFY when they pass. -/
def headerCheck (f : Fuses) (fl : Flash) (d : Dev) : Dev :=
  if d.running && stage d == 1 then
    match readErr f d fl.image with
    | some e => enterDefault e d
    | none => readTo fl.image (readAt 1000) (setStage 2 { d with boot := { d.boot with headerOk := true, header := flashBytes fl.image 0 128 } })
  else d

def execHeaderCheck (s : State) : Host.Outcome State Fault Refusal :=
  .next { s with dev := headerCheck s.fuses s.flash s.dev }

/-- STAGE becomes LOAD when both signatures have verified (R61). -/
def afterVerify (d : Dev) : Dev := if d.boot.ecdsaOk && d.boot.lmsOk then setStage 3 d else d

/-- ECDSA_VERIFY_DONE (R53, R55, at 5 ms): a check of a section that was made before, then the ECDSA signature. -/
def ecdsaVerifyDone (fl : Flash) (d : Dev) : Dev :=
  if d.running && stage d == 2 && !d.boot.ecdsaOk then
    match contentErr d fl.image (readAt 5000) with
    | some e => enterDefault e d
    | none =>
      if !imageEcOk fl.image then enterDefault (6, 0) d
      else readTo fl.image (readAt 5000) (afterVerify { d with boot := { d.boot with ecdsaOk := true } })
  else d

def execEcdsaVerifyDone (s : State) : Host.Outcome State Fault Refusal := .next { s with dev := ecdsaVerifyDone s.flash s.dev }

/-- LMS_VERIFY_DONE (R51, R53, R55, at 9 ms): a check of a section that was made before, then parameter set and LMS signature. -/
def lmsVerifyDone (fl : Flash) (d : Dev) : Dev :=
  if d.running && stage d == 2 && !d.boot.lmsOk then
    match contentErr d fl.image (readAt 9000) with
    | some e => enterDefault e d
    | none =>
      if !imageLmsOk fl.image then enterDefault (7, 0) d
      else readTo fl.image (readAt 9000) (afterVerify { d with boot := { d.boot with lmsOk := true } })
  else d

def execLmsVerifyDone (s : State) : Host.Outcome State Fault Refusal := .next { s with dev := lmsVerifyDone s.flash s.dev }

/-- SCRAPPED: the device stops once the whole wipe is complete (R65, R69). -/
def stopIfScrapped (d : Dev) : Dev :=
  if d.on R.GLB_WIPE_STATUS_SRAM_DONE && d.on R.GLB_WIPE_STATUS_RES_DONE && d.get R.GLB_LC_STATE == 5 then stop 0 d else d

/-- SRAM_WIPE_DONE (R58, R66): cistern, commons, tables, tally lines and sluice local memory are zero. -/
def sramWipeDone (d : Dev) : Dev :=
  if d.running && d.boot.enclaveUp && !d.on R.GLB_WIPE_STATUS_SRAM_DONE && !d.on R.GLB_WIPE_STATUS_FAIL then
    stopIfScrapped ({ d with commons := [], poison := d.poison.filter (fun e => e.1 != 0) }.set R.GLB_WIPE_STATUS_SRAM_DONE 1)
  else d

def execSramWipeDone (s : State) : Host.Outcome State Fault Refusal := onDev sramWipeDone s

def popcount (n w : Nat) : Nat := ((List.range w).filter (fun k => bitAt n k)).length

/-- The stacks trained, each 62 GiB usable, 2 GiB less where two channels are bad; SPARED for stacks whose spare channel is in service
(R183, R188, R487). -/
def trainStacks (trained twoBad : BitVec 8) (d : Dev) : Dev :=
  let ok := Nat.land trained.toNat (d.get R.GLB_IDENT_FIT_STACKS)
  let bad := Nat.land twoBad.toNat ok
  let spared := ((List.range 8).filter (fun s => bitAt ok s && (d.get (R.TEST_HBM_STAT_FAILCH s) != 31 || bitAt bad s))).foldl
    (fun n s => n + 2 ^ s) 0
  (({ d with boot := { d.boot with hbmDone := true } }.set R.RES_STATUS_TRAINED ok).set R.RES_STATUS_USABLE
    (62 * popcount ok 8 - 2 * popcount bad 8)).set R.RES_STATUS_SPARED spared

/-- HBM_TRAINED (R58): a fitted stack that did not train fails start-up with ERR 15. The MEMORY fit is checked if its section has been
read (R53). -/
def hbmTrained (trained twoBad : BitVec 8) (fl : Flash) (d : Dev) : Dev :=
  if d.running && d.boot.enclaveUp && !d.boot.hbmDone then
    let fit := d.get R.GLB_IDENT_FIT_STACKS
    let d := trainStacks trained twoBad d
    if Nat.land trained.toNat fit != fit then enterDefault (15, 0) d
    else if !reading d then d
    else match contentErr d fl.image (readAt 6000) with
      | some e => enterDefault e d
      | none => readTo fl.image (readAt 6000) d
  else d

def execHbmTrained (trained twoBad : BitVec 8) (s : State) : Host.Outcome State Fault Refusal :=
  .next { s with dev := hbmTrained trained twoBad s.flash s.dev }

/-- A reservoir address lies in the control-core partition of an image. -/
def inControlPart (img : List Byte) (a : Nat) : Bool :=
  let p := memoryPart img 3
  decide (p.1 * 2 ^ 30 ≤ a) && decide (a < (p.1 + p.2) * 2 ^ 30)

/-- Part of the reservoir is wiped: the bytes at the addresses chosen read as zero and no line of them is poisoned (R66). -/
def wipeRes (wiped : Nat → Bool) (d : Dev) : Dev :=
  { d with
    res := d.res.filter (fun c => !wiped c.1)
    poison := d.poison.filter (fun e => !(e.1 == 1 && wiped (64 * e.2))) }

/-- CONTROL_PARTITION_WIPED (R58, R60): the staging buffer is drained, and sections go straight to the reservoir from now on. -/
def controlPartitionWiped (fl : Flash) (d : Dev) : Dev :=
  if d.running && d.boot.hbmDone && !d.boot.controlWiped then
    let d := wipeProgress (wipeRes (inControlPart fl.image) d)
    if !reading d then { d with boot := { d.boot with controlWiped := true } }
    else
      let d := readTo fl.image (readAt 6800) d
      putSections fl.image 0 d.boot.staging { d with boot := { d.boot with controlWiped := true, staging := [] } }
  else d

def execControlPartitionWiped (s : State) : Host.Outcome State Fault Refusal :=
  .next { s with dev := controlPartitionWiped s.flash s.dev }

/-- RESERVOIR_WIPE_DONE (R58, R66): the rest of the reservoir is zero; what has been put into the control-core partition stays. -/
def reservoirWipeDone (fl : Flash) (d : Dev) : Dev :=
  if d.running && d.boot.controlWiped && !d.on R.GLB_WIPE_STATUS_RES_DONE && !d.on R.GLB_WIPE_STATUS_FAIL then
    stopIfScrapped (((wipeRes (fun a => !inControlPart fl.image a) d).set R.GLB_WIPE_STATUS_RES_DONE 1).set R.GLB_WIPE_STATUS_PROGRESS 255)
  else d

def execReservoirWipeDone (s : State) : Host.Outcome State Fault Refusal :=
  .next { s with dev := reservoirWipeDone s.flash s.dev }

/-- WIPE_FAIL (R67): a write of the wipe fails even after spare bring-in. -/
def wipeFail (unit : Byte) (d : Dev) : Dev :=
  if d.running && d.boot.enclaveUp && !(d.on R.GLB_WIPE_STATUS_SRAM_DONE && d.on R.GLB_WIPE_STATUS_RES_DONE) then
    enterDefault (16, 0) (raiseFatal blkGlb 5 unit.toNat ((d.set R.GLB_WIPE_STATUS_FAIL 1).set R.GLB_WIPE_STATUS_UNIT unit.toNat))
  else d

def execWipeFail (unit : Byte) (s : State) : Host.Outcome State Fault Refusal := onDev (wipeFail unit) s

/-- IMAGE_READ_DONE (R53, R58): the last byte is read; checks of sections that were made before, then IMGHASH and each SCRC. -/
def imageReadDone (readOk : Bool) (fl : Flash) (d : Dev) : Dev :=
  if d.running && reading d && !d.boot.imageRead then
    if !readOk then enterDefault (14, 0) d
    else match (contentErr d fl.image (imgLen fl.image)).or (hashErr fl.image) with
      | some e => enterDefault e d
      | none =>
        let h (ts : List Nat) : List Byte :=
          if ts.all (fun t => countType fl.image t == 0) then zeros 48
          else sha384 (ts.flatMap (fun t => sectBytes fl.image t))
        readTo fl.image (imgLen fl.image)
          { d with boot := { d.boot with imageRead := true, sectionHash := [h [1], h [2, 3], h [6], h [7], h [8]] } }
  else d

def execImageReadDone (readOk : Bool) (s : State) : Host.Outcome State Fault Refusal :=
  .next { s with dev := imageReadDone readOk s.flash s.dev }

/-- BOOT_RUN (R61, R526): STAGE becomes RUNNING from APPLIED; at any other stage the write is refused. -/
def bootRun (w : CsrW) (d : Dev) : Dev :=
  if !d.running then d
  else
    let d := writeOwn RF.SEC_BOOT_RUN R.SEC_BOOT_RUN w d
    if !wOn w R.SEC_BOOT_RUN_RUN then d
    else if stage d == 4 then setStage 5 d
    else refuseWrite R.SEC_BOOT_RUN w.req w.val false d

def execBootRun (w : CsrW) (s : State) : Host.Outcome State Fault Refusal := onDev (bootRun w) s

/-! ### The ROM loader (R63, R64) -/

def wipeComplete (d : Dev) : Bool := d.on R.GLB_WIPE_STATUS_SRAM_DONE && d.on R.GLB_WIPE_STATUS_RES_DONE

/-- Link-local IPv6 address of a MAC address: fe80::/64 and the modified EUI-64. -/
def linkLocal (mac : Nat) : Nat :=
  0xFE80 * 2 ^ 112 + Nat.xor (mac / 2 ^ 24) 0x020000 * 2 ^ 40 + 0xFFFE * 2 ^ 24 + mac % 2 ^ 24

/-- Block size of a transfer (R63): 512 bytes, or what the option asks for up to 8,192. -/
def tftpBlock (t : TftpPut) : Nat :=
  match t.blksize with
  | some n => if n < 8 then 512 else min n 8192
  | none => 512

/-- Every block but the last is whole, and the last is short: the transfer has ended. -/
def tftpWhole (t : TftpPut) : Bool :=
  t.blocks.dropLast.all (fun b => b.length == tftpBlock t) && (match t.blocks.getLast? with
    | some b => decide (b.length < tftpBlock t)
    | none => false)

/-- The answer to the request: an acknowledgement of block 0, or of the option. -/
def tftpOpen (t : TftpPut) : List Byte :=
  match t.blksize with
  | some n => if n < 8 then [0, 4, 0, 0]
    else [0, 6, 0x62, 0x6C, 0x6B, 0x73, 0x69, 0x7A, 0x65, 0] ++ (Nat.toDigits 10 (tftpBlock t)).map (fun c => BitVec.ofNat 8 c.toNat) ++ [0]
  | none => [0, 4, 0, 0]

/-- LOADER_TFTP_WRITE (R53, R63, R64): over management port 0, to its link-local address, the file "zinel" of at most 124 MiB; checked as R53
gives, it is taken for the flash. Each block but one that ends the transfer in an error is acknowledged. -/
def loaderTftpWrite (t : TftpPut) (f : Fuses) (d : Dev) : Dev :=
  let image := t.blocks.flatten
  if !(d.factory && wipeComplete d && d.boot.loading.isNone && d.on (R.MGT_MP_STAT_UP 0) && t.dst.toNat == linkLocal (d.rd64 (R.MGT_MP_MAC 0)))
  then d
  else if t.name != "zinel" then d.emit (.tftpError none)
  else if !tftpWhole t then d.emit (.tftp (tftpOpen t))
  else
    let d := Dev.each (List.range (t.blocks.length - 1)) (fun i d => d.emit (.tftp ([0, 4] ++ beBytes 2 (i + 1)))) (d.emit (.tftp (tftpOpen t)))
    if 124 * 2 ^ 20 < image.length then d.emit (.tftpError none)
    else match imageErr f d image with
      | some e => d.emit (.tftpError (some e.1))
      | none => { d with boot := { d.boot with loading := some image } }.emit (.tftp ([0, 4] ++ beBytes 2 t.blocks.length))

def execLoaderTftpWrite (t : TftpPut) (s : State) : Host.Outcome State Fault Refusal :=
  .next { s with dev := loaderTftpWrite t s.fuses s.dev }

/-- LOADER_FLASH_WRITTEN (R64): the flash holds what is read back. Where that matches IMGHASH the device resets with cause LOADER; else it
stays in the factory default state with ERR 14, which names no section (R61). -/
def loaderFlashWritten (readBack : List Byte) (s : State) : State :=
  match s.dev.boot.loading with
  | none => s
  | some img =>
    let s := { s with flash := { s.flash with image := readBack } }
    if sha384 (flashBytes readBack 128 (sigOff img - 128)) == flashBytes img 32 48 then { s with dev := restart s.fuses 3 0 s.dev }
    else { s with dev := { (s.dev.set R.SEC_BOOT_STATUS_ERR 14).set R.SEC_BOOT_STATUS_SECT 0 with boot := { s.dev.boot with loading := none } } }

def execLoaderFlashWritten (readBack : List Byte) (s : State) : Host.Outcome State Fault Refusal :=
  .next (if s.dev.factory then loaderFlashWritten readBack s else s)

/-! ### Life cycle, key slots and SVN (R56, R57, R70 to R72, R526) -/

/-- Signature blocks that follow the 64-byte record in the mailbox (R51, R72): the first, and the second behind its LSIG. -/
def lcBlock (rec : List Byte) (second : Bool) : List Byte :=
  if second then rec.drop (64 + 260 + beAt rec (64 + 256) 4) else rec.drop 64

def blockSlot (blk : List Byte) : Nat := (blk.getD 0 0).toNat

/-- Keys of a block match its slot's digests, and the slot is programmed and not revoked (R55). -/
def slotMatches (f : Fuses) (blk : List Byte) : Bool :=
  match f.slots[blockSlot blk]? with
  | some k => k.programmed && !k.revoked && sha384 (slice blk 4 96) == k.ecDigest && sha384 (slice blk 200 56) == k.lmsDigest
  | none => false

/-- A block signs the record under R55: a slot's keys, and both signatures over the record's 64 bytes (R70). -/
def recordSigned (f : Fuses) (rec blk : List Byte) : Bool :=
  slotMatches f blk && ecSigOk blk (rec.take 64) && lmsSigOk blk (rec.take 64)

/-- The record names this device by SHA-384 of its DeviceID public key, the target and the nonce (R71). -/
def recordOk (f : Fuses) (d : Dev) (rec : List Byte) (target : Nat) : Bool :=
  rec.take 48 == sha384 (ecPublic (deviceKey f)) && (rec.getD 48 0).toNat == target &&
    slice rec 52 12 == beBytes 4 (d.rd (R.SEC_LC_NONCE 0)).toNat ++ beBytes 4 (d.rd (R.SEC_LC_NONCE 1)).toNat ++
      beBytes 4 (d.rd (R.SEC_LC_NONCE 2)).toNat

/-- Authorisation of a transition (R70). R526 gives the two blocks of a RETURN request no order: either is taken first (DESIGN CHOICE, log 81). -/
def lcAuthorised (f : Fuses) (d : Dev) (target : Nat) : Bool :=
  let rec0 := d.boot.lcRecord.getD []
  let b0 := lcBlock rec0 false
  let b1 := lcBlock rec0 true
  match (lcState f).toNat, target with
  | 1, 2 => true
  | 2, 3 => (List.range 4).any (fun n => n != 0 && (match f.slots[n]? with | some k => k.programmed && !k.revoked | none => false))
  | 3, 4 => recordOk f d rec0 4 && recordSigned f rec0 b0 && recordSigned f rec0 b1 && ((blockSlot b0 == 0) != (blockSlot b1 == 0))
  | 1, 5 => true
  | c, 5 => c != 5 && recordOk f d rec0 5 && recordSigned f rec0 b0 && slotAccepted f (blockSlot b0)
  | _, _ => false

/-- LC_REQUEST (R70 to R72, R526). -/
def lcRequest (w : CsrW) (f : Fuses) (d : Dev) : Dev :=
  if !d.running then d
  else
    let d := discardHeld w.req R.SEC_LC_REQ (countCsr w.req R.SEC_LC_REQ 1 3 d)
    if d.boot.pendingLc.isSome then newNonce (d.set R.SEC_LC_REQ_RESULT 3)
    else
      let t := wBits w R.SEC_LC_REQ_TARGET
      if lcAuthorised f d t then
        newNonce (({ d with boot := { d.boot with pendingLc := some (BitVec.ofNat 3 t), lcRecord := none } }.set
          R.SEC_LC_REQ_RESULT 1).set R.SEC_LC_REQ_BUSY 1)
      else newNonce ({ d with boot := { d.boot with lcRecord := none } }.set R.SEC_LC_REQ_RESULT 2)

def execLcRequest (w : CsrW) (s : State) : Host.Outcome State Fault Refusal :=
  .next { s with dev := lcRequest w s.fuses s.dev }

/-- LC_BURN_DONE (R65, R72): all three copies are burned and the device resets with cause LC. -/
def lcBurnDone (s : State) : State :=
  match s.dev.boot.pendingLc with
  | none => s
  | some t => { s with fuses := burnCopies 3 t s.fuses, dev := restart (burnCopies 3 t s.fuses) 2 0 s.dev }

def execLcBurnDone (s : State) : Host.Outcome State Fault Refusal := .next (if s.dev.running then lcBurnDone s else s)

/-- A slot that counts as one the current state accepts images from (R56): programmed and not revoked; in TEST, which programs none,
slot 0 (R69). -/
def acceptedSlots (f : Fuses) : List Nat :=
  (List.range 4).filter (fun n => slotAccepted f n || ((lcState f).toNat == 1 && n == 0 &&
    (match f.slots[0]? with | some k => !k.revoked | none => false)))

def revokeSlot (n : Nat) (f : Fuses) : Fuses :=
  { f with slots := f.slots.modify n (fun k => { k with revoked := true }) }

/-- KEY_REVOKE (R56, R72, R526). -/
def keyRevoke (w : CsrW) (s : State) : State :=
  let d := writeOwn RF.SEC_KEY_REVOKE R.SEC_KEY_REVOKE w s.dev
  if !wOn w R.SEC_KEY_REVOKE_GO then { s with dev := d }
  else
    let d := newNonce (d.set R.SEC_KEY_REVOKE_GO 0)
    let n := d.get R.SEC_KEY_REVOKE_SLOT
    if d.boot.pendingLc.isSome then { s with dev := d.set R.SEC_KEY_REVOKE_RESULT 3 }
    else if acceptedSlots s.fuses = [n] then { s with dev := d.set R.SEC_KEY_REVOKE_RESULT 2 }
    else { s with fuses := revokeSlot n s.fuses, dev := d.set R.SEC_KEY_REVOKE_RESULT 1 }

def execKeyRevoke (w : CsrW) (s : State) : Host.Outcome State Fault Refusal := .next (if s.dev.running then keyRevoke w s else s)

/-- SVN_ADVANCE (R57, R72, R526): bits are burned up to the SVN asked for, clamped to the SVN of the running image. -/
def svnAdvance (w : CsrW) (s : State) : State :=
  let d := writeOwn RF.SEC_SVN_ADV R.SEC_SVN_ADV w s.dev
  if !wOn w R.SEC_SVN_ADV_GO then { s with dev := d }
  else
    let d := newNonce (d.set R.SEC_SVN_ADV_GO 0)
    let t := min (d.get R.SEC_SVN_ADV_SVN) (d.get R.SEC_BOOT_STATUS_SVN)
    if d.boot.pendingLc.isSome then { s with dev := d.set R.SEC_SVN_ADV_RESULT 3 }
    else if s.fuses.svn < t then
      { s with fuses := { s.fuses with svn := min 64 t }, dev := (d.set R.SEC_SVN_ADV_FUSED (min 64 t)).set R.SEC_SVN_ADV_RESULT 1 }
    else { s with dev := d.set R.SEC_SVN_ADV_RESULT 2 }

def execSvnAdvance (w : CsrW) (s : State) : Host.Outcome State Fault Refusal := .next (if s.dev.running then svnAdvance w s else s)

/-- The mailbox as bytes: byte 4w in [31:24] (R526). -/
def mbxBytes (d : Dev) : List Byte := (List.range 1024).flatMap (fun w => beBytes 4 (d.rd (R.SEC_MBX w)).toNat)

/-- The mailbox is cleared after each command (R526). -/
def clearMbx (d : Dev) : Dev :=
  { d with csr := d.csr.filter (fun e => decide (e.1 < R.SEC_MBX 0) || decide (R.SEC_MBX 1024 ≤ e.1)) }

/-- CMD 1: program an owner slot (R56); ERR 5 where it may not be programmed. -/
def programSlot (n : Nat) (s : State) : State :=
  let ok := (lcState s.fuses).toNat == 2 && n != 0 && s.dev.boot.pendingLc.isNone &&
    (match s.fuses.slots[n]? with | some k => !k.programmed && !k.revoked | none => false)
  if ok then
    let b := mbxBytes s.dev
    { s with
      fuses := { s.fuses with slots := s.fuses.slots.modify n (fun k =>
        { k with ecDigest := b.take 48, lmsDigest := slice b 48 48, programmed := true }) }
      dev := s.dev.set R.SEC_MBX_CTL_ERR 0 }
  else { s with dev := s.dev.set R.SEC_MBX_CTL_ERR 5 }

/-- A mailbox command (R526). -/
def mbxWrite (w : CsrW) (s : State) : State :=
  let d := writeOwn RF.SEC_MBX_CTL R.SEC_MBX_CTL w s.dev
  if !wOn w R.SEC_MBX_CTL_GO then { s with dev := d }
  else
    let s := { s with dev := d.set R.SEC_MBX_CTL_GO 0 }
    let s := match d.get R.SEC_MBX_CTL_CMD with
      | 1 => let s := programSlot (d.get R.SEC_MBX_CTL_SLOT) s; { s with dev := newNonce s.dev }
      | 2 => { s with dev := { s.dev with boot := { s.dev.boot with lcRecord := some (mbxBytes s.dev) } }.set R.SEC_MBX_CTL_ERR 0 }
      | 3 => { s with dev := s.dev.set R.SEC_MBX_CTL_ERR (match imageErr s.fuses s.dev s.flash.image with
          | some e => e.1 | none => 0) }
      | _ => s
    { s with dev := clearMbx s.dev }

/-- PROGRAM_OWNER_SLOT (R56, R526). -/
def execProgramOwnerSlot (w : CsrW) (s : State) : Host.Outcome State Fault Refusal :=
  .next (if s.dev.running then mbxWrite w s else s)

/-- SUPPLY_LC_RECORD (R71, R526). -/
def execSupplyLcRecord (w : CsrW) (s : State) : Host.Outcome State Fault Refusal :=
  .next (if s.dev.running then mbxWrite w s else s)

/-- CHECK_IMAGE_REGION (R53, R64, R526). -/
def execCheckImageRegion (w : CsrW) (s : State) : Host.Outcome State Fault Refusal :=
  .next (if s.dev.running then mbxWrite w s else s)

end Sys2Proof.Machine
end

