-- ==== Sys2Proof/Machine/Attest.lean ====
section
/-! DEFINITION. The SPDM responder (R73 to R76): its requests and responses, their MCTP packets (R74) and secured messages. Message layouts are
those of SPDM 1.3 and its MCTP bindings (PRESUMED, log 8). -/

namespace Sys2Proof.Machine

/-! ### Who may ask, and how the answer goes out -/

/-- Life-cycle state as GLB_LC shows it. -/
def lcOf (d : Dev) : Nat := d.get R.GLB_LC_STATE

/-- The responder answers: the enclave runs and the part is not SCRAPPED (R74, R75). -/
def answers (d : Dev) : Bool := d.running && d.boot.enclaveUp && lcOf d != 5

/-- The request can have come: the management port, or the PCIe link, is up. -/
def viaUp (v : SpdmVia) (d : Dev) : Bool :=
  match v.port with
  | some n => d.on (R.MGT_MP_CFG_EN n.val) && d.on (R.MGT_MP_STAT_UP n.val)
  | none => d.pcieUp

/-- Transmission unit of the requester, within 64 to 1,024 bytes (R74). -/
def mctpUnit (v : SpdmVia) : Nat := max 64 (min 1024 v.unit)

/-- MCTP packet k of n of a message body: version 1, endpoints, start and end of message, packet sequence and tag. -/
def mctpPacket (v : SpdmVia) (body : List Byte) (n k : Nat) : List Byte :=
  [1, v.eid, v.own, BitVec.ofNat 8 ((if k = 0 then 128 else 0) + (if k + 1 = n then 64 else 0) + k % 4 * 16 + v.tag.val)] ++
    slice body (mctpUnit v * k) (mctpUnit v)

/-- A message leaves as MCTP packets: one per Ethernet frame of EtherType 0x88B6 on a management port, else over PCIe VDM. -/
def mctpSend (v : SpdmVia) (body : List Byte) (d : Dev) : Dev :=
  let n := divUp body.length (mctpUnit v)
  Dev.each (List.range n) (fun k d =>
    let pkt := mctpPacket v body n k
    match v.port with
    | some p => d.emit (.mgmt p (ofpOverEth v.mac.toNat (d.rd64 (R.MGT_MP_MAC p.val)) 0x88B6 pkt))
    | none => d.emit (.vdm pkt)) d

/-! ### Secured messages -/

def sessionSecret (d : Dev) (off n : Nat) : List Byte := slice d.spdm.secret off n

/-- Header of a secured message of n bytes of ciphertext and tag: its sequence number and length. -/
def securedHead (seq n : Nat) : List Byte := leBytes 2 seq ++ leBytes 2 n

/-- The nonce of message seq: the IV with the number exclusive-ored into its first bytes. -/
def securedNonce (iv : List Byte) (seq : Nat) : List Byte := (iv.zip (leBytes 12 seq)).map (fun x => x.1 ^^^ x.2)

/-- A message sealed under AES-256-GCM. -/
def sealMsg (key iv : List Byte) (seq : Nat) (msg : List Byte) : List Byte :=
  let head := securedHead seq (msg.length + 16)
  head ++ aesGcm key (securedNonce iv seq) head msg

/-- The message in a secured message, where it authenticates as number seq. -/
def openMsg (key iv : List Byte) (seq : Nat) (bs : List Byte) : Option (List Byte) :=
  if bs.take 4 = securedHead seq (bs.length - 4) then aesGcmOpen key (securedNonce iv seq) (bs.take 4) (bs.drop 4) else none

/-- The response to a request that came in the clear; the transcript takes both. -/
def answerClear (v : SpdmVia) (req rsp : List Byte) (d : Dev) : Dev :=
  mctpSend v ([5] ++ rsp) { d with spdm := { d.spdm with transcript := d.spdm.transcript ++ req ++ rsp } }

/-- The response to a secured request goes out secured. -/
def answerSealed (v : SpdmVia) (rsp : List Byte) (d : Dev) : Dev :=
  mctpSend v ([6] ++ sealMsg (sessionSecret d 44 32) (sessionSecret d 76 12) d.spdm.sent ([5] ++ rsp))
    { d with spdm := { d.spdm with taken := d.spdm.taken + 1, sent := d.spdm.sent + 1 } }

/-- A request is served: over a port that is up, and, where it came secured, in a session and authentic. `f` is what the request does: the
response and the device after it. -/
def serve (v : SpdmVia) (req : List Byte) (f : Dev → List Byte × Dev) (d : Dev) : Dev :=
  if !(answers d && viaUp v d) then d
  else if v.secured = [] then answerClear v req (f d).1 (f d).2
  else if d.spdm.phase == .session &&
      openMsg (sessionSecret d 0 32) (sessionSecret d 32 12) d.spdm.taken v.secured == some ([5] ++ req) then
    answerSealed v (f d).1 (f d).2
  else d

/-! ### Requests and responses -/

/-- A message of SPDM 1.3: code, two parameters and the rest. -/
def spdmMsg (code p1 p2 : Byte) (rest : List Byte) : List Byte := [0x13, code, p1, p2] ++ rest

def spdmError (code : Byte) : List Byte := spdmMsg 0x7F code 0 []
def spdmInvalid : Byte := 0x01
def spdmUnexpected : Byte := 0x04
def spdmDecrypt : Byte := 0x06
def spdmUnsupported : Byte := 0x07

/-- In TEST no DeviceID exists: nothing is signed (R75). -/
def noIdentity (d : Dev) : Bool := lcOf d == 1

/-- The ROM layer with the DeviceID key answers until the image is applied (R74). -/
def signingKey (f : Fuses) (d : Dev) : Nat := if d.applied then aliasKey f d.boot.header else deviceKey f

def Dev.phase (p : SpdmPhase) (d : Dev) : Dev := { d with spdm := { d.spdm with phase := p } }

/-- 32 free bytes: a nonce or random data of the responder. -/
def freeNonce (d : Dev) : List Byte × Dev :=
  let a := d.draw
  let b := a.2.draw
  let c := b.2.draw
  let e := c.2.draw
  (leBytes 8 a.1.toNat ++ leBytes 8 b.1.toNat ++ leBytes 8 c.1.toNat ++ leBytes 8 e.1.toNat, e.2)

/-- A response with its signature over the transcript, the request and the response. -/
def signedBy (f : Fuses) (req rsp : List Byte) (d : Dev) : List Byte × Dev :=
  let r := enclaveSign (signingKey f d) (d.spdm.transcript ++ req ++ rsp) d
  (rsp ++ r.1, r.2)

/-- GET_VERSION: SPDM 1.3; the exchange begins anew. -/
def getVersion (v : SpdmVia) (d : Dev) : Dev :=
  serve v [0x10, 0x84, 0, 0] (fun d => ([0x10, 0x04, 0, 0, 0, 1, 0, 0x13], d.phase .versioned))
    (if answers d && viaUp v d && v.secured == [] then { d with spdm := .init } else d)

def execGetVersion (v : SpdmVia) (s : State) : Host.Outcome State Fault Refusal := onDev (getVersion v) s

/-- Capability flags: CERT_CAP, CHAL_CAP, MEAS_CAP with signature, ENCRYPT_CAP, MAC_CAP and KEY_EX_CAP; in TEST measurements without a
signature only (R75). -/
def spdmFlags (d : Dev) : Nat := if noIdentity d then 0x08 else 0x2D6

/-- GET_CAPABILITIES. -/
def getCapabilities (v : SpdmVia) (d : Dev) : Dev :=
  serve v (spdmMsg 0xE1 0 0 []) (fun d =>
    if d.spdm.phase == .idle then (spdmError spdmUnexpected, d)
    else (spdmMsg 0x61 0 0 ([0, Config.spdmLimits.1, 0, 0] ++ leBytes 4 (spdmFlags d) ++ leBytes 4 Config.spdmLimits.2 ++ leBytes 4 Config.spdmLimits.2),
      d.phase .capable)) d

def execGetCapabilities (v : SpdmVia) (s : State) : Host.Outcome State Fault Refusal := onDev (getCapabilities v) s

/-- What is offered (R74): measurements in DMTF format with SHA-384, ECDSA P-384, SHA-384, and AES-256-GCM. -/
def algorithmsRest : List Byte :=
  leBytes 2 40 ++ [1, 0] ++ leBytes 4 4 ++ leBytes 4 0x80 ++ leBytes 4 2 ++ zeros 12 ++ [0, 0, 0, 0] ++ [3, 0x20, 2, 0]

/-- NEGOTIATE_ALGORITHMS. -/
def negotiateAlgorithms (v : SpdmVia) (d : Dev) : Dev :=
  serve v (spdmMsg 0xE3 0 0 []) (fun d =>
    if d.spdm.phase != .capable then (spdmError spdmUnexpected, d)
    else (spdmMsg 0x63 1 0 algorithmsRest, d.phase .negotiated)) d

def execNegotiateAlgorithms (v : SpdmVia) (s : State) : Host.Outcome State Fault Refusal := onDev (negotiateAlgorithms v) s

/-- Requests that follow the negotiation. -/
def afterNegotiation (d : Dev) : Bool := d.spdm.phase == .negotiated || d.spdm.phase == .handshake || d.spdm.phase == .session

/-- A request that needs an identity: UnsupportedRequest in TEST, UnexpectedRequest before the negotiation. -/
def withIdentity (f : Dev → List Byte × Dev) (d : Dev) : List Byte × Dev :=
  if noIdentity d then (spdmError spdmUnsupported, d)
  else if !afterNegotiation d then (spdmError spdmUnexpected, d)
  else f d

/-- A request about a certificate slot: only slot 0 holds a chain. -/
def onSlot (slot : Fin 8) (f : Dev → List Byte × Dev) (d : Dev) : List Byte × Dev :=
  withIdentity (fun d => if slot = 0 then f d else (spdmError spdmInvalid, d)) d

/-- Chain of slot 0: the DeviceID chain of the identity region, or in RETURN the return DeviceID certificate, and the Alias
certificate once the image is applied (R73 to R75). -/
def certChain (identity : List Byte) (d : Dev) : List Byte :=
  (if lcOf d == 4 then d.boot.returnCert else identity) ++ (if d.applied then d.boot.aliasCert else [])

/-- GET_DIGESTS: the digest of the one chain. -/
def getDigests (v : SpdmVia) (identity : List Byte) (d : Dev) : Dev :=
  serve v (spdmMsg 0x81 0 0 []) (withIdentity (fun d => (spdmMsg 0x01 1 1 (sha384 (certChain identity d)), d))) d

def execGetDigests (v : SpdmVia) (s : State) : Host.Outcome State Fault Refusal :=
  .next { s with dev := getDigests v s.flash.identity s.dev }

/-- A portion of the chain: its length and what remains, then the bytes. -/
def certPortion (chain : List Byte) (off len : Nat) : List Byte :=
  let b := slice chain off len
  leBytes 2 b.length ++ leBytes 2 (chain.length - off - b.length) ++ b

/-- GET_CERTIFICATE. -/
def getCertificate (v : SpdmVia) (slot : Fin 8) (off len : BitVec 16) (identity : List Byte) (d : Dev) : Dev :=
  serve v (spdmMsg 0x82 (BitVec.ofNat 8 slot.val) 0 (leBytes 2 off.toNat ++ leBytes 2 len.toNat)) (onSlot slot (fun d =>
    if (certChain identity d).length < off.toNat then (spdmError spdmInvalid, d)
    else (spdmMsg 0x02 0 0 (certPortion (certChain identity d) off.toNat len.toNat), d))) d

def execGetCertificate (v : SpdmVia) (slot : Fin 8) (off len : BitVec 16) (s : State) : Host.Outcome State Fault Refusal :=
  .next { s with dev := getCertificate v slot off len s.flash.identity s.dev }

/-- CHALLENGE: the chain's digest and a nonce, signed. -/
def challenge (v : SpdmVia) (slot : Fin 8) (nonce identity : List Byte) (f : Fuses) (d : Dev) : Dev :=
  let req := spdmMsg 0x83 (BitVec.ofNat 8 slot.val) 0 nonce
  serve v req (onSlot slot (fun d =>
    let n := freeNonce d
    signedBy f req (spdmMsg 0x03 0 1 (sha384 (certChain identity d) ++ n.1 ++ [0, 0])) n.2)) d

def execChallenge (v : SpdmVia) (slot : Fin 8) (nonce : List Byte) (s : State) : Host.Outcome State Fault Refusal :=
  .next { s with dev := challenge v slot nonce s.flash.identity s.fuses s.dev }

/-- The 8-byte record of index 8 (R76). -/
def lcRecordBytes (f : Fuses) : List Byte :=
  let bitsBy (g : KeySlot → Bool) := (List.range 4).foldl (fun n k => if (f.slots[k]?.map g).getD false then n + 2 ^ k else n) 0
  beBytes 1 (lcState f).toNat ++ beBytes 1 f.svn ++ beBytes 1 (bitsBy (·.revoked) + 16 * bitsBy (·.programmed)) ++ zeros 5

/-- A measurement (R76): indices 2 to 7 are zero in the factory default state. Before an image is applied none is running: index 9, and
indices 2 to 7 during start-up, report zeros too (DESIGN CHOICE, log 98). -/
def measurement (f : Fuses) (index : Nat) (d : Dev) : List Byte :=
  if index = 1 then Config.bootRomDigest
  else if index = 8 then sha384 (lcRecordBytes f)
  else if !d.applied then zeros (if index = 9 then 16 else 48)
  else if index = 2 then sha384 d.boot.header
  else if index = 9 then slice d.boot.header 80 16
  else d.boot.sectionHash.getD (index - 3) (zeros 48)

/-- Kind of a measurement: 0 ROM, 1 firmware, 2 hardware configuration, 3 firmware configuration; bit 7 marks a raw value. -/
def measurementKind (index : Nat) : Byte := [0x00, 0x01, 0x03, 0x03, 0x01, 0x01, 0x03, 0x02, 0x81].getD (index - 1) 0

/-- A measurement block. -/
def measurementBlock (f : Fuses) (index : Nat) (d : Dev) : List Byte :=
  let m := measurement f index d
  [BitVec.ofNat 8 index, 1] ++ leBytes 2 (m.length + 3) ++ [measurementKind index] ++ leBytes 2 m.length ++ m

/-- The blocks a request names: index 0 asks for the number of measurements, 255 for all. -/
def measurementBlocks (f : Fuses) (index : Nat) (d : Dev) : Option (List (List Byte)) :=
  if index = 0 then some []
  else if index = 255 then some ((List.range 9).map (fun k => measurementBlock f (k + 1) d))
  else if index ≤ 9 then some [measurementBlock f index d] else none

/-- GET_MEASUREMENTS (R75, R76). -/
def getMeasurements (v : SpdmVia) (index : Byte) (sig : Bool) (nonce : List Byte) (f : Fuses) (d : Dev) : Dev :=
  let req := spdmMsg 0xE0 (if sig then 1 else 0) index (if sig then nonce ++ [0] else [])
  serve v req (fun d =>
    if sig && noIdentity d then (spdmError spdmUnsupported, d)
    else if !afterNegotiation d then (spdmError spdmUnexpected, d)
    else match measurementBlocks f index.toNat d with
      | none => (spdmError spdmInvalid, d)
      | some bs =>
        let n := freeNonce d
        let rsp := spdmMsg 0x60 (if index = 0 then 9 else 0) 0
          (leBytes 1 bs.length ++ leBytes 3 bs.flatten.length ++ bs.flatten ++ n.1 ++ [0, 0])
        if sig then signedBy f req rsp n.2 else (rsp, n.2)) d

def execGetMeasurements (v : SpdmVia) (index : Byte) (sig : Bool) (nonce : List Byte) (s : State) : Host.Outcome State Fault Refusal :=
  .next { s with dev := getMeasurements v index sig nonce s.fuses s.dev }

/-- KEY_EXCHANGE: opens a handshake, with a signed response. -/
def keyExchange (v : SpdmVia) (slot : Fin 8) (nonce identity : List Byte) (f : Fuses) (d : Dev) : Dev :=
  let req := spdmMsg 0xE4 0 (BitVec.ofNat 8 slot.val) nonce
  serve v req (onSlot slot (fun d =>
    let n := freeNonce d
    let r := signedBy f req (spdmMsg 0x64 0 0 (sha384 (certChain identity d) ++ n.1 ++ [0, 0])) n.2
    (r.1, { r.2 with spdm := ⟨.handshake, r.2.spdm.transcript, Config.spdmSecrets (r.2.spdm.transcript ++ req ++ r.1), 0, 0⟩ }))) d

def execKeyExchange (v : SpdmVia) (slot : Fin 8) (nonce : List Byte) (s : State) : Host.Outcome State Fault Refusal :=
  .next { s with dev := keyExchange v slot nonce s.flash.identity s.fuses s.dev }

/-- FINISH: the handshake becomes a secured session when the requester's proof verifies: HMAC-SHA-384 over the transcript's digest. -/
def finishCmd (v : SpdmVia) (proof : List Byte) (d : Dev) : Dev :=
  serve v (spdmMsg 0xE5 0 0 proof) (withIdentity (fun d =>
    if d.spdm.phase != .handshake then (spdmError spdmUnexpected, d)
    else if proof = hmac384 (sessionSecret d 88 48) (sha384 d.spdm.transcript) then (spdmMsg 0x65 0 0 [], d.phase .session)
    else (spdmError spdmDecrypt, d.phase .negotiated))) d

def execFinish (v : SpdmVia) (proof : List Byte) (s : State) : Host.Outcome State Fault Refusal := onDev (finishCmd v proof) s

end Sys2Proof.Machine
end

