-- ==== Sys2Proof/Machine/Arith.lean ====
section
/-! DEFINITION. Reduction arithmetic (R271 to R283): FP32 operations, the element formats and their conversions. Values are exact:
a finite number is a sign and m × 2^e. Each operation answers its result and the indices of BASIN_ARITH_CNT it increments. -/

namespace Sys2Proof.Machine

/-- A number of a binary format. -/
inductive FNum where
  | nan
  | inf (neg : Bool)
  | fin (neg : Bool) (m : Nat) (e : Int)
  deriving DecidableEq, Repr

/-- A format with `mb` fraction bits, `eb` exponent bits and a bias. `special`: the top exponent holds ∞ and NaN. -/
structure FFmt where
  mb : Nat
  eb : Nat
  bias : Nat
  special : Bool
  /-- Encoding of the largest finite magnitude. -/
  maxBits : Nat

def fp32 : FFmt := ⟨23, 8, 127, true, 0x7F7FFFFF⟩
def bf16 : FFmt := ⟨7, 8, 127, true, 0x7F7F⟩
def fp16 : FFmt := ⟨10, 5, 15, true, 0x7BFF⟩
def e4m3 : FFmt := ⟨3, 4, 7, false, 0x7E⟩
def e5m2 : FFmt := ⟨2, 5, 15, true, 0x7B⟩
def e3m2 : FFmt := ⟨2, 3, 3, false, 0x1F⟩
def e2m3 : FFmt := ⟨3, 2, 1, false, 0x1F⟩
def e2m1 : FFmt := ⟨1, 2, 1, false, 0x7⟩

/-- Exponent of the last place of the smallest numbers. -/
def FFmt.qmin (f : FFmt) : Int := 1 - (f.bias : Int) - f.mb

/-- The number an encoding stands for. -/
def decodeF (f : FFmt) (b : Nat) : FNum :=
  let neg := bitAt b (f.mb + f.eb)
  let ex := b / 2 ^ f.mb % 2 ^ f.eb
  let man := b % 2 ^ f.mb
  if f.special && ex == 2 ^ f.eb - 1 then (if man = 0 then .inf neg else .nan)
  else if ex = 0 then .fin neg man f.qmin
  else .fin neg (man + 2 ^ f.mb) (f.qmin + ex - 1)

/-- Round m × 2^−s to an integer: mode 0 nearest even, 1 toward zero, 2 stochastic (R271, R283). `g` is the lane's generator, which
draws only for an inexact conversion. -/
def roundShift (mode g m s : Nat) : Nat × Nat :=
  let k := m / 2 ^ s
  let rem := m % 2 ^ s
  if rem = 0 then (k, g)
  else match mode with
    | 0 => (if 2 ^ s < 2 * rem || (2 * rem == 2 ^ s && k % 2 == 1) then k + 1 else k, g)
    | 2 =>
      let g' := lfsrSteps 16 g
      let f0 := rem * 65536 / 2 ^ s
      let f := if rem * 65536 % 2 ^ s = 0 then f0 else min 65535 (f0 + 1)
      (if 65536 ≤ f + g' % 65536 then k + 1 else k, g')
    | _ => (k, g)

/-- Round m × 2^e to the places of a format without an upper limit of range: the magnitude's encoding, which passes `maxBits` when it
is too large. -/
def roundMag (f : FFmt) (mode g m : Nat) (e : Int) : Nat × Nat :=
  if m = 0 then (0, g)
  else
    let q := max f.qmin ((Nat.log2 m : Int) + e - f.mb)
    let r := if q ≤ e then (m * 2 ^ (e - q).toNat, g) else roundShift mode g m (q - e).toNat
    ((q - f.qmin).toNat * 2 ^ f.mb + r.1, r.2)

def signBit (f : FFmt) (neg : Bool) : Nat := if neg then 2 ^ (f.mb + f.eb) else 0

/-- ∞ of a format: the encoding after the largest finite one. -/
def infBits (f : FFmt) : Nat := f.maxBits + 1

/-- The canonical quiet NaN (R279). -/
def nan32 : Nat := 0x7FC00000

/-- An FP32 result, rounded to nearest even (R276); counter 1 when it overflows (R279). -/
def toFp32 (n : FNum) : Nat × List Nat :=
  match n with
  | .nan => (nan32, [])
  | .inf neg => (signBit fp32 neg + infBits fp32, [])
  | .fin neg m e =>
    let b := (roundMag fp32 0 0 m e).1
    if fp32.maxBits < b then (signBit fp32 neg + infBits fp32, [1]) else (signBit fp32 neg + b, [])

def fromFp32 (w : Nat) : FNum := decodeF fp32 w

/-- Exact sum of two finite numbers; a zero sum is −0 only of two negative zeros. -/
def addExact (na : Bool) (ma : Nat) (ea : Int) (nb : Bool) (mb : Nat) (eb : Int) : FNum :=
  let e := min ea eb
  let a : Int := (if na then -1 else 1) * (ma * 2 ^ (ea - e).toNat : Nat)
  let b : Int := (if nb then -1 else 1) * (mb * 2 ^ (eb - e).toNat : Nat)
  let s := a + b
  if s = 0 then .fin (na && nb && ma == 0 && mb == 0) 0 e else .fin (decide (s < 0)) s.natAbs e

/-- FP32 addition (R276, R279). -/
def addF (x y : Nat) : Nat × List Nat :=
  match fromFp32 x, fromFp32 y with
  | .nan, _ => (nan32, [])
  | _, .nan => (nan32, [])
  | .inf a, .inf b => if a = b then toFp32 (.inf a) else (nan32, [0])
  | .inf a, .fin _ _ _ => toFp32 (.inf a)
  | .fin _ _ _, .inf b => toFp32 (.inf b)
  | .fin na ma ea, .fin nb mb eb => toFp32 (addExact na ma ea nb mb eb)

/-- FP32 multiplication (R277, R279). -/
def mulF (x y : Nat) : Nat × List Nat :=
  match fromFp32 x, fromFp32 y with
  | .nan, _ => (nan32, [])
  | _, .nan => (nan32, [])
  | .inf a, .inf b => toFp32 (.inf (a != b))
  | .inf a, .fin b m _ => if m = 0 then (nan32, [0]) else toFp32 (.inf (a != b))
  | .fin a m _, .inf b => if m = 0 then (nan32, [0]) else toFp32 (.inf (a != b))
  | .fin na ma ea, .fin nb mb eb => toFp32 (.fin (na != nb) (ma * mb) (ea + eb))

/-- Exact product and sum (R291). -/
def mulN (x y : FNum) : FNum :=
  match x, y with
  | .nan, _ => .nan
  | _, .nan => .nan
  | .inf a, .inf b => .inf (a != b)
  | .inf a, .fin b m _ => if m = 0 then .nan else .inf (a != b)
  | .fin a m _, .inf b => if m = 0 then .nan else .inf (a != b)
  | .fin a m e, .fin b n f => .fin (a != b) (m * n) (e + f)

def addN (x y : FNum) : FNum :=
  match x, y with
  | .nan, _ => .nan
  | _, .nan => .nan
  | .inf a, .inf b => if a = b then .inf a else .nan
  | .inf a, .fin _ _ _ => .inf a
  | .fin _ _ _, .inf b => .inf b
  | .fin na ma ea, .fin nb mb eb => addExact na ma ea nb mb eb

/-- Fused multiply-add of FP32 words, rounded once. -/
def fmaF (x y z : Nat) : Nat := (toFp32 (addN (mulN (fromFp32 x) (fromFp32 y)) (fromFp32 z))).1

/-- A quotient of two positive integers times 2^e to FP32: the quotient to 64 places, the rest in a last sticky bit. -/
def quotF (neg : Bool) (a b : Nat) (e : Int) : Nat × List Nat :=
  if b = 0 then (if a = 0 then (nan32, [0]) else toFp32 (.inf neg))
  else
    let q := a * 2 ^ 64 / b
    let sticky := if a * 2 ^ 64 % b = 0 then 0 else 1
    toFp32 (.fin neg (2 * q + sticky) (e - 65))

/-- 1 / n in FP32 (R277). -/
def recipF (n : Nat) : Nat := (quotF false 1 n 0).1

/-- Order of FP32 encodings that are not NaN, −0.0 below +0.0 (R276). -/
def orderF (w : Nat) : Int := if bitAt w 31 then -((w % 2 ^ 31 : Nat) : Int) - 1 else (w % 2 ^ 31 : Nat)

def maxF (x y : Nat) : Nat := if fromFp32 x = .nan ∨ fromFp32 y = .nan then nan32 else if orderF x < orderF y then y else x
def minF (x y : Nat) : Nat := if fromFp32 x = .nan ∨ fromFp32 y = .nan then nan32 else if orderF y < orderF x then y else x

def sInt (w n : Nat) : Int := if n % 2 ^ w < 2 ^ (w - 1) then (n % 2 ^ w : Nat) else (n % 2 ^ w : Nat) - (2 ^ w : Nat)
def uInt (w : Nat) (i : Int) : Nat := (i % (2 ^ w : Nat)).toNat

/-- Saturating INT32 sum; counter 4 when it saturates (R276). -/
def addI (x y : Nat) : Nat × List Nat :=
  let s := sInt 32 x + sInt 32 y
  if 2147483647 < s then (0x7FFFFFFF, [4]) else if s < -2147483648 then (0x80000000, [4]) else (uInt 32 s, [])

/-! ### Formats and operations (R271, R275, R276) -/

def fmtCode (fmt : Nat) : Nat := fmt % 64
def fmtRnd (fmt : Nat) : Nat := fmt / 64 % 4
def isInt (fmt : Nat) : Bool := fmtCode fmt == 4
def isMx (fmt : Nat) : Bool := decide (8 ≤ fmtCode fmt) && decide (fmtCode fmt ≤ 13)
def fmtKnown (fmt : Nat) : Bool := [1, 2, 3, 4, 8, 9, 10, 11, 12, 13].contains (fmtCode fmt)

/-- Bits per element on the wire (R271). -/
def fmtBits (fmt : Nat) : Nat :=
  match fmtCode fmt with
  | 1 => 32
  | 4 => 32
  | 2 => 16
  | 3 => 16
  | 12 => 4
  | _ => 8

/-- OP is permitted for the format (R275). -/
def opOk (op fmt : Nat) : Bool := op == 0 || op == 1 || op == 2 || (op == 3 && !isInt fmt) || (op == 4 && isInt fmt)

/-- Identity of OP in the accumulator (R275). -/
def identity (op fmt : Nat) : Nat :=
  match op with
  | 1 => if isInt fmt then 0x80000000 else 0xFF800000
  | 2 => if isInt fmt then 0x7FFFFFFF else 0x7F800000
  | _ => 0

/-- OP on an accumulator word and a value in the accumulator domain (R276). -/
def applyOp (op fmt acc v : Nat) : Nat × List Nat :=
  match op with
  | 1 => (if isInt fmt then (if sInt 32 acc < sInt 32 v then v else acc) else maxF acc v, [])
  | 2 => (if isInt fmt then (if sInt 32 v < sInt 32 acc then v else acc) else minF acc v, [])
  | 4 => (Nat.lor acc v, [])
  | _ => if isInt fmt then addI acc v else addF acc v

/-! ### Into the accumulator (R278) -/

/-- Element format of an MX code, MXINT8 apart. -/
def mxFmt (fmt : Nat) : FFmt :=
  match fmtCode fmt with
  | 8 => e4m3
  | 9 => e5m2
  | 10 => e3m2
  | 11 => e2m3
  | _ => e2m1

/-- emax of an MX element (R271). -/
def mxEmax (fmt : Nat) : Int :=
  match fmtCode fmt with
  | 8 => 8
  | 9 => 15
  | 10 => 4
  | 11 => 2
  | 12 => 2
  | _ => 0

/-- An MX element without its scale, exactly. -/
def mxElemN (fmt b : Nat) : FNum :=
  if fmtCode fmt = 13 then
    let v := sInt 8 b
    .fin (decide (v < 0)) v.natAbs (-6)
  else
    let f := mxFmt fmt
    let b := b % 2 ^ (1 + f.eb + f.mb)
    if fmtCode fmt == 8 && b % 128 == 127 then .nan else decodeF f b

/-- An MX element with its scale byte as an FP32 word; counter 1 when it overflows. -/
def mxIn (fmt scale b : Nat) : Nat × List Nat :=
  if scale = 0xFF then (nan32, [])
  else if fmtCode fmt = 13 then
    let v := sInt 8 b
    toFp32 (.fin (decide (v < 0)) v.natAbs ((scale : Int) - 133))
  else
    let f := mxFmt fmt
    let b := b % 2 ^ (1 + f.eb + f.mb)
    if fmtCode fmt == 8 && b % 128 == 127 then (nan32, [])
    else match decodeF f b with
      | .nan => (nan32, [])
      | .inf n => toFp32 (.inf n)
      | .fin n m e => toFp32 (.fin n m (e + scale - 127))

/-- A plain element of n bytes, big-endian, as an accumulator word. -/
def plainIn (fmt v : Nat) : Nat :=
  match fmtCode fmt with
  | 2 => v * 65536
  | 3 => (match decodeF fp16 v with
    | .nan => nan32
    | n => (toFp32 n).1)
  | _ => v

/-- Elements of an MX payload of B blocks (R273, R274), with the counters of R278. -/
def mxElems (fmt : Nat) (bs : List Byte) (blocks : Nat) : List (Nat × List Nat) :=
  let nb := if fmtCode fmt = 12 then 16 else 32
  (List.range (32 * blocks)).map (fun i =>
    let scale := beAt bs (nb * blocks + i / 32) 1
    let byte := if fmtCode fmt = 12 then beAt bs (i / 2) 1 / (if i % 2 = 0 then 1 else 16) % 16 else beAt bs i 1
    let r := mxIn fmt scale byte
    (r.1, if scale == 0xFF && i % 32 == 0 then 7 :: r.2 else r.2))

/-- Elements of a plain payload (R273). -/
def plainElems (fmt : Nat) (bs : List Byte) : List (Nat × List Nat) :=
  let n := fmtBits fmt / 8
  (List.range (bs.length / n)).map (fun i => (plainIn fmt (beAt bs (n * i) n), []))

/-! ### Out of the accumulator (R281, R282) -/

/-- BF16 or FP16 (R281). Answers the encoding, the generator and the counters. -/
def narrow (f : FFmt) (mode g w : Nat) : Nat × Nat × List Nat :=
  match fromFp32 w with
  | .nan => (if f.mb = 7 then 0x7FC0 else 0x7E00, g, [])
  | .inf n => (signBit f n + infBits f, g, [])
  | .fin n m e =>
    let r := roundMag f mode g m e
    if f.maxBits < r.1 then (signBit f n + (if mode = 1 then f.maxBits else infBits f), r.2, [2])
    else (signBit f n + r.1, r.2, [])

/-- Magnitude of a finite FP32 word. -/
def mag (w : Nat) : Nat := w % 2 ^ 31

/-- ⌊log2⌋ of a nonzero finite FP32 magnitude. -/
def floorLog2 (w : Nat) : Int :=
  match fromFp32 w with
  | .fin _ m e => (Nat.log2 m : Int) + e
  | _ => 0

/-- An element of a block with shared exponent X (step 3 of R282). -/
def mxOut (fmt mode g w : Nat) (x : Int) : Nat × Nat × List Nat :=
  match fromFp32 w with
  | .fin n m e =>
    if fmtCode fmt = 13 then
      let s := e - x + 6
      let r := if 0 ≤ s then (m * 2 ^ s.toNat, g) else roundShift mode g m (-s).toNat
      let k := min 127 r.1
      (uInt 8 (if n then -(k : Int) else k), r.2, if 127 < r.1 then [2] else [])
    else
      let f := mxFmt fmt
      let r := roundMag f mode g m (e - x)
      (signBit f n + min f.maxBits r.1, r.2, if f.maxBits < r.1 then [2] else [])
  | _ => (0, g, [])

/-- Requantise one block of up to 32 accumulator words (R282): element values, scale byte, generator, counters. -/
def mxBlock (fmt mode g : Nat) (ws : List Nat) : List Nat × Nat × Nat × List Nat :=
  if ws.any (fun w => decide (fp32.maxBits < mag w)) then (ws.map (fun _ => 0), 0xFF, g, [3])
  else
    let amax := (ws.map mag).foldl max 0
    let x := if amax = 0 then -127 else max (-127) (min 127 (floorLog2 amax - mxEmax fmt))
    let r := ws.foldl (fun (r : List Nat × Nat × List Nat) w =>
      let o := mxOut fmt mode r.2.1 w x
      (r.1 ++ [o.1], o.2.1, r.2.2 ++ o.2.2)) ([], g, [])
    (r.1, (x + 127).toNat, r.2.1, r.2.2)

/-- Blocks of 32. -/
def blocksOf : Nat → List Nat → List (List Nat)
  | 0, _ => []
  | n + 1, l => if l.isEmpty then [] else l.take 32 :: blocksOf n (l.drop 32)

/-- Element bytes of MX element values: two MXFP4 elements share a byte (R273). -/
def mxBytes (fmt : Nat) (vs : List Nat) : List Byte :=
  if fmtCode fmt = 12 then (List.range (divUp vs.length 2)).map (fun i => BitVec.ofNat 8 (vs.getD (2 * i) 0 + 16 * vs.getD (2 * i + 1) 0))
  else vs.map (fun v => BitVec.ofNat 8 v)

/-- Convert accumulator words to the payload form of a format (R273, R281, R282): bytes, generator, counters. For MX formats the words
are whole blocks. -/
def emitElems (fmt g : Nat) (ws : List Nat) : List Byte × Nat × List Nat :=
  let mode := fmtRnd fmt
  if isMx fmt then
    let r := (blocksOf (ws.length + 1) ws).foldl (fun (r : List Nat × List Byte × Nat × List Nat) b =>
      let o := mxBlock fmt mode r.2.2.1 b
      (r.1 ++ o.1, r.2.1 ++ [BitVec.ofNat 8 o.2.1], o.2.2.1, r.2.2.2 ++ o.2.2.2)) ([], [], g, [])
    (mxBytes fmt r.1 ++ r.2.1, r.2.2.1, r.2.2.2)
  else
    ws.foldl (fun (r : List Byte × Nat × List Nat) w =>
      match fmtCode fmt with
      | 2 => let o := narrow bf16 mode r.2.1 w; (r.1 ++ beBytes 2 o.1, o.2.1, r.2.2 ++ o.2.2)
      | 3 => let o := narrow fp16 mode r.2.1 w; (r.1 ++ beBytes 2 o.1, o.2.1, r.2.2 ++ o.2.2)
      | _ => (r.1 ++ beBytes 4 w, r.2.1, r.2.2)) ([], g, [])

end Sys2Proof.Machine
end

