-- ==== Sys2Proof/Machine/Wire.lean ====
section
/-! DEFINITION. What stands on an OFP lane (R98 to R103): flits and the codeword pairs that carry them, the packets in a stream of flits, and
lane markers. -/

namespace Sys2Proof.Machine

/-- The join tag (R41) of a packet that came in at device `dev`, or was built there. -/
def tagBytes (dev : Nat) (ether orig : Bool) (inport hops : Nat) : List Byte :=
  let b := beBytes 1 (64 + dev * 8 + b2n ether * 4 + b2n orig * 2) ++ beBytes 2 ((if orig then 0 else inport) * 64 + hops % 8 * 8)
  b ++ beBytes 1 (crc8 b)

/-! ### Flits (R101, R102) -/

/-- A flit: content padded to 252 bytes, FCTL and FCHK. SOP and EOP are 63 where no packet starts or ends. -/
def flitBytes (content : List Byte) (kind sop eop epad : Nat) : List Byte :=
  let b := padTo content 252 ++ beBytes 2 (kind * 2 ^ 14 + sop * 2 ^ 8 + eop * 2 ^ 2 + epad)
  b ++ beBytes 2 (crc16 b)

def idleFlit : List Byte := flitBytes [] 0 63 63 0

/-- The flits of a packet that starts at word 0 of a flit and has the rest of its last one as fill. -/
def packetFlits (bs : List Byte) : List (List Byte) :=
  let n := divUp bs.length 252
  (List.range n).map (fun k =>
    let c := slice bs (252 * k) 252
    flitBytes c 1 (if k = 0 then 0 else 63) (if k + 1 = n then divUp c.length 4 - 1 else 63) (if k + 1 = n then 4 * divUp c.length 4 - c.length else 0))

def fctl (f : List Byte) (hi lo : Nat) : Nat := beBits f 252 2 hi lo
def fchkOk (f : List Byte) : Bool := crc16 (f.take 254) == beAt f 254 2

/-! ### Codeword pairs (R98, R100) -/

/-- ACKKIND (R100). -/
def ackNone : Nat := 0
def ackAck : Nat := 1
def ackNak : Nat := 2

/-- Pair header and five flits, idle ones after those given. -/
def pairBytes (pseq ackseq : BitVec 12) (kind : Nat) (crvc : BitVec 4) (crcnt : BitVec 10) (flits : List Byte) : List Byte :=
  beBytes 5 (pseq.toNat * 2 ^ 28 + ackseq.toNat * 2 ^ 16 + kind * 2 ^ 14 + crvc.toNat * 2 ^ 10 + crcnt.toNat) ++ flits ++
    (List.replicate (5 - flits.length / 256) idleFlit).flatten

/-- The flits of a packet in groups of five, one group to a pair. -/
def pairGroups (bs : List Byte) : List (List Byte) :=
  let fs := packetFlits bs
  (List.range (divUp fs.length 5)).map (fun k => (slice fs (5 * k) 5).flatten)

def pairPseq (x : Pair) : BitVec 12 := BitVec.ofNat 12 (beBits x.payload 0 5 39 28)
def pairAckseq (x : Pair) : BitVec 12 := BitVec.ofNat 12 (beBits x.payload 0 5 27 16)
def pairAckkind (x : Pair) : Nat := beBits x.payload 0 5 15 14
def pairCrvc (x : Pair) : BitVec 4 := BitVec.ofNat 4 (beBits x.payload 0 5 13 10)
def pairCrcnt (x : Pair) : BitVec 10 := BitVec.ofNat 10 (beBits x.payload 0 5 9 0)
def pairFlits (x : Pair) : List (List Byte) := (List.range 5).map (fun k => slice x.payload (5 + 256 * k) 256)

/-- Both codewords decode and every FCHK is right (R108). -/
def pairGood (x : Pair) : Bool := x.decodes && (pairFlits x).all fchkOk

/-- A flit is not idle, or credits are returned (R107). -/
def pairSequenced (x : Pair) : Bool := (pairFlits x).any (fun f => fctl f 15 14 != 0) || pairCrcnt x != 0

/-! ### Packets in the stream (R102) -/

/-- Size on the link of the packet that bytes begin with, padded to whole words, once its first 32 bytes are there: none for an Ethernet frame,
which ends at an EOP, or while its length is not known. -/
def streamSize (join : Bool) (bs : List Byte) : Option Nat :=
  let tag := if join then 4 else 0
  if (join && beBits bs 0 1 2 2 == 1) || bs.length < tag + 32 then none else some (4 * divUp (tag + 36 + beAt bs (tag + 24) 2) 4)

/-- An Ethernet frame on a join port: its bytes end at an EOP. -/
def streamEther (join : Bool) (bs : List Byte) : Bool := join && beBits bs 0 1 2 2 == 1

/-- Packets of a flit from a byte of its content on: `acc` is the packet in progress and `first` whether no packet has ended in the flit yet.
Answers the packets that end in it, and the one left unfinished. A packet begins with a byte that is not zero; what follows the last one is fill. -/
def streamFrom (join : Bool) (eop epad : Nat) (c : List Byte) : Nat → Nat → List Byte → Bool → List (List Byte) × Option (List Byte)
  | 0, _, acc, _ => ([], if acc.isEmpty then none else some acc)
  | fuel + 1, off, acc, first =>
    let rest := c.drop off
    if acc.isEmpty && beAt rest 0 1 == 0 then ([], none)
    else
      let all := acc ++ rest
      if streamEther join all then
        if first && eop < 63 then ([all.take (acc.length + (4 * (eop + 1) - off) - epad)], none) else ([], some all)
      else match streamSize join all with
        | none => ([], some all)
        | some n =>
          if all.length < n then ([], some all)
          else
            let r := streamFrom join eop epad c fuel (off + (n - acc.length)) [] false
            (all.take n :: r.1, r.2)

/-- The packets that a flit ends, given the one in progress. An idle flit, and one of a reserved FKIND, carries none (R101). -/
def flitPackets (join : Bool) (part : Option (List Byte)) (f : List Byte) : List (List Byte) × Option (List Byte) :=
  if fctl f 15 14 != 1 then ([], part)
  else
    let sop := fctl f 13 8
    let c := f.take 252
    match part with
    | some acc => streamFrom join (fctl f 7 2) (fctl f 1 0) c 64 0 acc true
    | none => if sop = 63 then ([], none) else streamFrom join (fctl f 7 2) (fctl f 1 0) c 64 (4 * sop) [] true

/-- The packets of a pair's flits, in order. -/
def pairPackets (join : Bool) (part : Option (List Byte)) (x : Pair) : List (List Byte) × Option (List Byte) :=
  (pairFlits x).foldl (fun r f => let q := flitPackets join r.2 f; (r.1 ++ q.1, q.2)) ([], part)

/-! ### Lane markers (R103) -/

def markerSync : Nat := 0xA5C396F00F693C5A

/-- The 32 bytes of a marker. -/
def markerBytes (m : Marker) : List Byte :=
  let b := beBytes 8 markerSync ++ beBytes 1 (16 + m.rate.toNat * 4) ++ beBytes 1 (m.width.toNat * 16 + m.slot.toNat) ++
    beBytes 2 m.llane.toNat ++ beBytes 2 m.chan.toNat ++ beBytes 2 m.frame.toNat ++ beBytes 4 m.sender.toNat ++
    beBytes 1 (m.devidx.toNat * 32 + b2n m.joined * 16) ++ beBytes 1 (m.tap.toNat * 16 + m.req.toNat * 4) ++ beBytes 1 m.txack.toNat ++ [0] ++
    beBytes 4 (b2n m.hold * 2 ^ 31 + b2n m.relock * 2 ^ 30 + b2n m.retrain * 2 ^ 29 + m.fault.toNat)
  b ++ beBytes 4 (crc32c b)

/-- A marker copy is good: SYNC, MVER and MCRC are right. -/
def markerOk (b : List Byte) : Bool := beAt b 0 8 == markerSync && beBits b 8 1 7 4 == 1 && crc32c (b.take 28) == beAt b 28 4

/-- The fields of a good copy. -/
def markerOf (b : List Byte) : Marker where
  rate := BitVec.ofNat 2 (beBits b 8 1 3 2)
  width := BitVec.ofNat 4 (beBits b 9 1 7 4)
  slot := BitVec.ofNat 4 (beBits b 9 1 3 0)
  llane := BitVec.ofNat 10 (beBits b 10 2 9 0)
  chan := BitVec.ofNat 16 (beAt b 12 2)
  frame := BitVec.ofNat 16 (beAt b 14 2)
  sender := BitVec.ofNat 32 (beAt b 16 4)
  devidx := BitVec.ofNat 3 (beBits b 20 1 7 5)
  joined := beBits b 20 1 4 4 == 1
  tap := BitVec.ofNat 4 (beBits b 21 1 7 4)
  req := BitVec.ofNat 2 (beBits b 21 1 3 2)
  txack := BitVec.ofNat 2 (beBits b 22 1 1 0)
  hold := beBits b 24 4 31 31 == 1
  relock := beBits b 24 4 30 30 == 1
  retrain := beBits b 24 4 29 29 == 1
  fault := BitVec.ofNat 8 (beBits b 24 4 7 0)

/-- The marker of a received marker pair: its first good copy (R103); none where no copy is good. -/
def findMarker (payload : List Byte) : Option Marker :=
  (((List.range 40).map (fun k => slice payload (32 * k) 32)).find? markerOk).map markerOf

/-- The payload of a marker pair: the marker 40 times and five zero bytes. -/
def markerPayload (bytes : List Byte) : List Byte := (List.replicate 40 bytes).flatten ++ zeros 5

end Sys2Proof.Machine
end

