-- ==== Sys2Proof/Machine/Cistern.lean ====
section
/-! DEFINITION. The cistern, the headgate and the spillway (R160 to R189): accounts, pools, XOFF and credits, queues of packets in
cells, spill pages and prefetches. -/

namespace Sys2Proof.Machine

/-! ### Queues and their profiles -/

def UQueue.init : UQueue := ⟨[], 0, 0, 0, 0, false, 0, 0⟩

/-- Cells of the cistern that a queue takes, with those set aside for prefetches in flight. -/
def UQueue.phys (u : UQueue) : Nat := u.h + u.t + 64 * u.prefetch

def Dev.uq (d : Dev) (q : Nat) : UQueue := SMap.getD d.cist.uq q UQueue.init

def Dev.mq (d : Dev) (m : Nat) : List MPkt := SMap.getD d.cist.mq m []

/-- Queue number of a unicast queue (R190). -/
def uniQ (port tc : Nat) : Nat := 8 * port + tc

/-- Profile of a queue; CIST_QSEL names none for multicast queues. -/
def Dev.prof (d : Dev) (q : Nat) : Nat := if q < 8192 then d.get (R.CIST_QSEL_PROF q) else Config.mcProfile.val

def Dev.minq (d : Dev) (q : Nat) : Nat := d.get (R.CIST_QPROF_A_MINQ (d.prof q))
def Dev.qmax (d : Dev) (q : Nat) : Nat := d.get (R.CIST_QMAX_PAGES (d.prof q))

/-- Pages of a queue in the spill region. -/
def Dev.pages (d : Dev) (q : Nat) : Nat := if q < 8192 then d.get (R.CIST_QSPILL_PAGES q) else 0

def mcCells (l : List MPkt) : Nat := (l.map (fun x => x.pkt.cells)).foldl (· + ·) 0
def mcHdrm (l : List MPkt) : Nat := (l.map (fun x => if x.pkt.headroom then x.pkt.cells else 0)).foldl (· + ·) 0

/-- The packet draws on the shared pool alone: a lossless one (R169), and a fence copy (R229). -/
def Pkt.sharedOnly (p : Pkt) : Bool := p.lossless || (p.inPort.isNone && !p.built)

def mcLossy (l : List MPkt) : Nat := (l.map (fun x => if x.pkt.sharedOnly then 0 else x.pkt.cells)).foldl (· + ·) 0

def overlap (a n b m : Nat) : Nat := min (a + n) (b + m) - max a b

/-- Packets of a queue with the place of their first cell. -/
def placed (off : Nat) : List Pkt → List (Nat × Pkt)
  | [] => []
  | p :: t => (off, p) :: placed (off + p.cells) t

/-- Places count from the first packet's first cell: the `dead` cells of the oldest page come before it. -/
def UQueue.places (u : UQueue) : List (Nat × Pkt) := placed (if u.h = 0 then u.dead else 0) u.pkts

/-- Cells of lossy packets in H and T, where `pages` pages lie between them. -/
def UQueue.lossyCells (u : UQueue) (pages : Nat) : Nat :=
  (u.places.map (fun x => if x.2.sharedOnly then 0 else
    overlap x.1 x.2.cells 0 u.h + overlap x.1 x.2.cells (u.h + 64 * pages) u.t)).foldl (· + ·) 0

/-- Cells of a queue in the cistern (R164). -/
def Dev.cistCells (d : Dev) (q : Nat) : Nat := if q < 8192 then (d.uq q).h + (d.uq q).t else mcCells (d.mq (q - 8192))

/-- Cells of the queue minimums that a queue holds: lossy packets take theirs first (R166, R169). -/
def Dev.minHeld (d : Dev) (q minq : Nat) : Nat :=
  min (if q < 8192 then (d.uq q).lossyCells (d.pages q) else mcLossy (d.mq (q - 8192))) minq

/-- Total depth of a queue (R197). -/
def Dev.depth (d : Dev) (q : Nat) : Nat := d.cistCells q + 64 * d.pages q

/-- Use plus c stays within a limit in pages of 64 cells; 0x1FF_FFFF is no limit (R167, R187). -/
def within (use c pages : Nat) : Bool := pages == 0x1FFFFFF || decide (use + c ≤ 64 * pages)

/-- Page slots of the spill region (R185), and whether none is free (R181). -/
def spillSlots (d : Dev) : Nat := d.partSize 0 / 16384
def spillFull (d : Dev) : Bool := decide (spillSlots d ≤ d.get R.RES_SPILL_STAT_USED)

/-- Spilling of a queue has stopped (R181): no free slot, or a lossless queue at its QMAX. -/
def spillStopped (d : Dev) (q : Nat) (u : UQueue) : Bool :=
  spillFull d || (u.pkts.any (fun p => p.lossless) && !within (u.h + u.t + 64 * d.pages q) 1 (d.qmax q))

/-! ### Pools (R166, R169, R170) -/

/-- POOL_FREE: the shared pool less what the queues and the packets in no queue hold of it. -/
def showFree (d : Dev) : Dev := d.set R.CIST_POOL_FREE_FREE (d.get R.CIST_POOL_STAT_SHARED - d.cist.sharedUsed)

/-- The free list after `back` cells are freed and `taken` taken: cells of retired banks leave it as they are freed (R486). -/
def Cistern.turnOver (c : Cistern) (back taken : Nat) : Cistern :=
  let k := min c.retiring (back - taken)
  { c with free := c.free + back - taken - k, retiring := c.retiring - k }

/-- Cells for packets that take no egress queue (R162): taken, or given back. -/
def holdCells (n : Nat) (hd : Bool) (d : Dev) : Dev :=
  showFree { d with cist := { d.cist.turnOver 0 n with sharedUsed := d.cist.sharedUsed + (if hd then 0 else n) } }
def freeCells (n : Nat) (hd : Bool) (d : Dev) : Dev :=
  showFree { d with cist := { d.cist.turnOver n 0 with sharedUsed := d.cist.sharedUsed - (if hd then 0 else n) } }

/-- H is short of KEEP pages and S holds a page that is not being read (R178). KEEP = 0, outside its range, is taken as it stands: no page is
wanted (DESIGN CHOICE, log 99). -/
def wantsPage (d : Dev) (q : Nat) (u : UQueue) : Bool :=
  decide (u.prefetch < d.pages q) && decide (u.h + 64 * u.prefetch < 64 * d.get (R.CIST_QPROF_B_KEEP (d.prof q)))

/-- STATE of a queue (R187). -/
def showSpilling (q : Nat) (u : UQueue) (d : Dev) : Dev :=
  d.set (R.CIST_QOCC_STATE q) (if !u.spilling then 0 else if spillStopped d q u then 2 else 1)

/-- The region has gained or lost its last free slot: STATE of every spilling queue follows (R181). -/
def showAllSpilling (d : Dev) : Dev := Dev.each (d.cist.uq.filter (fun e => e.2.spilling)) (fun e => showSpilling e.1 e.2) d

/-- A queue raises a prefetch, once, when it first wants a page (R180). -/
def raisePrefetch (q : Nat) (u : UQueue) (d : Dev) : Dev :=
  let l := d.cist.raised
  let l := if !wantsPage d q u then l.filter (fun k => k != q) else if l.contains q then l else l ++ [q]
  { d with cist := { d.cist with raised := l } }

/-- Replace a unicast queue: its cells, its part of the shared pool and what CIST_QOCC shows follow. Lossy packets take cells of the queue's
minimum first (R169); lossless packets are charged to the shared pool or to headroom (R170). -/
def setUQ (q : Nat) (u : UQueue) (d : Dev) : Dev :=
  let old := d.uq q
  let sh := u.h + u.t - u.hdrm - min (u.lossyCells (d.pages q)) (d.minq q)
  let u := { u with shared := sh }
  let d := { d with cist := { d.cist.turnOver old.phys u.phys with
    uq := SMap.write d.cist.uq q u UQueue.init
    sharedUsed := d.cist.sharedUsed + sh - old.shared } }
  showFree (raisePrefetch q u (showSpilling q u (d.set (R.CIST_QOCC_CELLS q) (u.h + u.t))))

/-- Replace a multicast queue. -/
def setMQ (m : Nat) (l : List MPkt) (d : Dev) : Dev :=
  let old := d.mq m
  let was := SMap.getD d.cist.mqShared m 0
  let sh := mcCells l - mcHdrm l - min (mcLossy l) (d.minq (8192 + m))
  showFree { d with cist := { d.cist.turnOver (mcCells old) (mcCells l) with
    mq := SMap.write d.cist.mq m l []
    mqShared := SMap.write d.cist.mqShared m sh 0
    sharedUsed := d.cist.sharedUsed + sh - was } }

/-! ### Ingress accounts, XOFF and credits (R164, R165, R170, R171) -/

def pcpTc (d : Dev) (pcp : Nat) : Nat := d.get ⟨R.FWD_PCP_MAP, 3 * pcp, 3⟩

def Link.ingrOf (l : Link) (tc : Nat) : Nat := l.ingress.getD tc 0
def Link.setIngr (l : Link) (tc v : Nat) : Link :=
  { l with ingress := (List.range 8).map (fun k => if k = tc then v else l.ingress.getD k 0) }

def Link.xoffOf (l : Link) (tc : Nat) : Bool := l.xoff.getLsbD tc

/-- PFC priorities of a port that a traffic class serves (R165). -/
def pfcPriorities (d : Dev) (p tc : Nat) : List Nat :=
  if d.isEth p && d.on (R.PORT_PCTL_PFC p) then
    (List.range 8).filter (fun k => bitAt (d.get (R.PORT_PFC_CFG_PRIMASK 0)) k && pcpTc d k == tc)
  else []

/-- The ingress account of (port, TC) belongs to a lossless class (R165, R170). -/
def losslessAcct (d : Dev) (p tc : Nat) : Bool := d.isOfp p || !(pfcPriorities d p tc).isEmpty

def freeLow (d : Dev) : Bool := decide (d.get R.CIST_POOL_FREE_FREE < d.get R.CIST_POOL_GX_GXOFF)

/-- Send the PFC frames of an XOFF change (R171). -/
def sendPfc (p tc quanta : Nat) (d : Dev) : Dev :=
  Dev.each (pfcPriorities d p tc) (fun k d => d.emit (.pfc (Fin.ofNat 1024 p) (Fin.ofNat 8 k) (BitVec.ofNat 16 quanta))) d

/-- XOFF state of one (port, TC) after a change of its account or of FREE (R170). -/
def xoffUpdate (p tc : Nat) (d : Dev) : Dev :=
  if !losslessAcct d p tc then d
  else
    let l := d.link p
    let a := l.ingrOf tc
    if l.xoffOf tc then
      if a < d.get (R.CIST_PORT_XOFF_XON p) && !freeLow d then
        sendPfc p tc 0 (d.modLink p (fun l => { l with xoff := l.xoff &&& ~~~(BitVec.ofNat 8 (2 ^ tc)) }))
      else d
    else if d.get (R.CIST_PORT_XOFF_XOFF p) ≤ a || freeLow d then
      sendPfc p tc (d.get (R.PORT_PFC_CFG_QUANTA 0)) (d.modLink p (fun l => { l with xoff := l.xoff ||| BitVec.ofNat 8 (2 ^ tc) }))
    else d

/-- After any change of the pools: every account follows when FREE crosses GXOFF (R170). -/
def gxUpdate (d : Dev) : Dev :=
  if freeLow d == d.cist.gx then d
  else
    let d := { d with cist := { d.cist with gx := freeLow d } }
    Dev.each d.ports (fun p => Dev.each (List.range 8) (fun tc => xoffUpdate p tc)) d

/-- A flit pair goes out on the next lane of the port, in slot order (R99); in near-end loopback it comes back (R131). -/
def sendPair (p : Nat) (payload : List Byte) (d : Dev) : Dev :=
  let w := max 1 (d.width p)
  let k := (d.link p).nextLane % w
  let d := d.modLink p (fun l => { l with nextLane := (k + 1) % w })
  if d.nearLoop p then d.modLink p (fun l => { l with looped := l.looped ++ [payload] })
  else d.emit (.pair (Fin.ofNat 1024 (p + k)) payload)

/-- An unsequenced pair carries the next PSEQ to be used and an ACK or a NAK (R107, R108). -/
def sendIdle (p kind : Nat) (d : Dev) : Dev := sendPair p (pairBytes (d.link p).txSeq (d.link p).rxSeq kind 0 0 []) d

/-- A sequenced pair takes the next PSEQ and stands in the retry buffer with its flits, its credits and the packets that end in it (R107). -/
def sequencePair (p : Nat) (vc : BitVec 4) (n : BitVec 10) (flits : List Byte) (ps : List Pkt) (d : Dev) : Dev :=
  let l := d.link p
  sendPair p (pairBytes l.txSeq l.rxSeq ackAck vc n flits)
    (d.modLink p (fun l => { l with txSeq := l.txSeq + 1, retry := l.retry ++ [⟨l.txSeq, vc, n, flits, ps⟩] }))

/-- Pairs that the largest packet takes (R102). -/
def maxPairs : Nat := 8

/-- Pairs for which the retry buffer has room (R107, R109), with room kept for a packet whose tail is still to come. -/
def retryRoom (d : Dev) (p : Nat) : Nat :=
  127 * d.width p - (d.link p).retry.length - (if (d.link p).tx.isSome then maxPairs else 0)

/-- The pairs of a packet, given the bytes that stand on the link. -/
def sequencePacket (p : Nat) (bs : List Byte) (x : Pkt) (d : Dev) : Dev :=
  let gs := pairGroups bs
  Dev.each (List.range gs.length) (fun k => sequencePair p 0 0 (gs.getD k []) (if k + 1 = gs.length then [x] else [])) d

/-- Credits that wait go out while the retry buffer has room. -/
def sendDue (p : Nat) (d : Dev) : Dev :=
  let n := retryRoom d p
  Dev.each ((d.link p).due.take n) (fun c => sequencePair p c.1 (BitVec.ofNat 10 c.2) [] []) (d.modLink p (fun l => { l with due := l.due.drop n }))

/-- n credits of a VC in sequenced pairs of at most 1,023. -/
def pushCredits (p : Nat) (vc : BitVec 4) (n : Nat) (d : Dev) : Dev :=
  sendDue p (d.modLink p (fun l => { l with due := l.due ++ (List.range (divUp n 1023)).map (fun k => (vc, min 1023 (n - 1023 * k))) }))

/-- Credits go back to the peer (R111): n units of 64 bytes on a VC. -/
def returnCredits (p : Nat) (vc : BitVec 4) (n : Nat) (d : Dev) : Dev :=
  if n = 0 then d
  else pushCredits p vc n (d.modLink p (fun l => { l with
    granted := (List.range 16).map (fun k => (l.granted.getD k 0) + (if k = vc.toNat then n else 0)) }))

/-- k cells of a packet leave its ingress account and its headroom (R164, R170); the credits it holds go back with the last of
them (R171). Answers the packet with what it has left. -/
def leaveIngress (p : Pkt) (k : Nat) (d : Dev) : Pkt × Dev :=
  let k := min k p.ingr
  let left := p.ingr - k
  let d := if p.headroom then { d with cist := { d.cist with hdrmUsed := d.cist.hdrmUsed - k } } else d
  match p.inPort with
  | none => ({ p with ingr := left }, d)
  | some i =>
    let d := d.modLink i.val (fun l =>
      let l := l.setIngr p.tc.val (l.ingrOf p.tc.val - k)
      if p.headroom then { l with hdrmUse := l.hdrmUse - k } else l)
    let d := xoffUpdate i.val p.tc.val d
    if left = 0 then
      match p.creditsDue with
      | some c => ({ p with ingr := left, creditsDue := none }, returnCredits i.val c.1 c.2 d)
      | none => ({ p with ingr := left }, d)
    else ({ p with ingr := left }, d)

/-- Cells in the class, port and job accounts (R164). -/
def addUse (p : Pkt) (n : Nat) (d : Dev) : Dev :=
  let d := d.incr (R.CIST_CUSE_CELLS p.tc.val) n
  let d := match p.acct with | some a => d.incr (R.CIST_PUSE_CELLS a.val) n | none => d
  match p.job with | some j => d.incr (R.CIST_JUSE_CELLS j.val) n | none => d

def subUse (p : Pkt) (n : Nat) (d : Dev) : Dev :=
  let d := d.drop (R.CIST_CUSE_CELLS p.tc.val) n
  let d := match p.acct with | some a => d.drop (R.CIST_PUSE_CELLS a.val) n | none => d
  match p.job with | some j => d.drop (R.CIST_JUSE_CELLS j.val) n | none => d

/-- Every account of a packet is released (R164). -/
def discharge (p : Pkt) (d : Dev) : Dev := (leaveIngress p p.ingr (subUse p p.cells d)).2

/-! ### The headgate (R167 to R171) -/

/-- The packet's account is in XOFF, so it is charged to headroom (R170). -/
def toHeadroom (p : Pkt) (d : Dev) : Bool :=
  p.lossless && (match p.inPort with | some i => (d.link i.val).xoffOf p.tc.val | none => false)

/-- Check 4 (R169): the dynamic threshold. -/
def thresholdOk (q c : Nat) (d : Dev) : Bool :=
  let a := min 10 (d.get (R.CIST_QPROF_A_ALPHA (d.prof q)))
  let n := d.cistCells q + c
  decide (n ≤ d.minq q) || decide ((n - d.minq q) * 128 ≤ 2 ^ a * d.get R.CIST_POOL_FREE_FREE)

/-- First check of R167 that a packet fails for its queue (none: it takes no egress queue); none: admitted. Packets the device
builds (R530) and fence copies (R229) take check 6 alone. -/
def refusal (p : Pkt) (q : Option Nat) (builtHere : Bool) (d : Dev) : Option Nat :=
  let c := p.cells
  if builtHere then (if d.cist.free < c then some 6 else none)
  else if p.job.any (fun j => !within (d.get (R.CIST_JUSE_CELLS j.val)) c (d.get (R.CIST_JQUOTA_PAGES j.val))) then some 0
  else if p.acct.any (fun a => !within (d.get (R.CIST_PUSE_CELLS a.val)) c (d.get (R.CIST_PQUOTA_PAGES a.val))) then some 1
  else if !within (d.get (R.CIST_CUSE_CELLS p.tc.val)) c (d.get (R.CIST_CQUOTA_PAGES p.tc.val)) then some 2
  else if !p.lossless && q.any (fun q => !within (d.depth q) c (d.qmax q)) then some 3
  else if !p.lossless && q.any (fun q => !thresholdOk q c d) then some 4
  else if toHeadroom p d && (match p.inPort with
      | some i => decide (d.get (R.CIST_PORT_HDRM_CAP i.val) < (d.link i.val).hdrmUse + c)
          || decide (d.get R.CIST_POOL_CFG_HDRM < d.cist.hdrmUsed + c)
      | none => false) then some 5
  else if d.cist.free < c then some 6
  else none

/-- Charge an admitted packet to its accounts; what R171 says of its credits follows. Answers the packet as it is stored. -/
def chargeIn (p : Pkt) (vc : BitVec 4) (credits : Nat) (d : Dev) : Pkt × Dev :=
  let hd := toHeadroom p d
  let d := addUse p p.cells d
  match p.inPort with
  | none => ({ p with headroom := false, ingr := 0, creditsDue := none }, d)
  | some i =>
    let d := if hd then { d with cist := { d.cist with hdrmUsed := d.cist.hdrmUsed + p.cells } } else d
    let d := d.modLink i.val (fun l =>
      let l := l.setIngr p.tc.val (l.ingrOf p.tc.val + p.cells)
      if hd then { l with hdrmUse := l.hdrmUse + p.cells } else l)
    if hd then ({ p with headroom := true, ingr := p.cells, creditsDue := some (vc, credits) }, d)
    else ({ p with headroom := false, ingr := p.cells, creditsDue := none }, returnCredits i.val vc credits d)

/-- Before a packet is judged, under the thresholds that hold now (R189), and once it stands in its place: its account and the pools may cross
their thresholds (R170). -/
def settle (p : Pkt) (d : Dev) : Dev :=
  let d := match p.inPort with | some i => xoffUpdate i.val p.tc.val d | none => d
  gxUpdate d

/-- The spill region has run out of slots (R181): FULL and a CE event at the first occurrence since it was cleared. -/
def noteFull (d : Dev) : Dev :=
  if spillFull d && !d.on R.RES_SPILL_STAT_FULL then raiseCE blkRes 2 0 (d.set R.RES_SPILL_STAT_FULL 1) else d

/-- A queue starts spilling when its cistern cells reach SPILL_ON (R176): KEEP pages stay in H. -/
def startSpill (q : Nat) (u : UQueue) (d : Dev) : UQueue :=
  if d.on (R.CIST_QPROF_A_SPILLEN (d.prof q)) && !u.spilling && decide (d.get (R.CIST_QPROF_B_SPILL_ON (d.prof q)) ≤ u.h + u.t) then
    let keep := min (u.h + u.t) (64 * d.get (R.CIST_QPROF_B_KEEP (d.prof q)))
    { u with spilling := true, h := keep, t := u.h + u.t - keep }
  else u

/-- A packet takes its place at the end of a unicast queue (R175, R176). -/
def enqueue (q : Nat) (p : Pkt) (d : Dev) : Dev :=
  let u := d.uq q
  let u := { u with pkts := u.pkts ++ [p], hdrm := u.hdrm + (if p.headroom then p.cells else 0) }
  let u := if u.spilling then { u with t := u.t + p.cells } else { u with h := u.h + p.cells }
  setUQ q (startSpill q u d) d

/-! ### Places of cells in a queue -/

/-- S is empty: T joins onto H, and spilling ends below SPILL_ON (R179). -/
def joinTail (q : Nat) (u : UQueue) (d : Dev) : UQueue :=
  if u.spilling && d.pages q == 0 then
    let u := { u with h := u.h + u.t, t := 0 }
    if u.h < d.get (R.CIST_QPROF_B_SPILL_ON (d.prof q)) then { u with spilling := false } else u
  else u

/-- A tail has changed the cells of the queue: with S empty and the cells below SPILL_ON it stops spilling (R179). -/
def endSpill (q : Nat) (u : UQueue) (d : Dev) : UQueue :=
  if u.spilling && d.pages q == 0 && decide (u.h + u.t < d.get (R.CIST_QPROF_B_SPILL_ON (d.prof q))) then
    { u with h := u.h + u.t, t := 0, spilling := false }
  else u

/-! ### Spill pages -/

/-- The cells of the places lo to lo + 63 leave the cistern: their packets leave the ingress account by as much (R164, R171). -/
def spillCells (lo : Nat) (ps : List (Nat × Pkt)) (d : Dev) : List Pkt × Nat × Dev :=
  ps.foldl (fun r x =>
    let k := overlap x.1 x.2.cells lo 64
    if k = 0 then (r.1 ++ [x.2], r.2.1, r.2.2)
    else
      let l := leaveIngress x.2 k r.2.2
      (r.1 ++ [{ l.1 with spilled := true }], r.2.1 + (if x.2.headroom then min k x.2.ingr else 0), l.2)) ([], 0, d)

/-- A page of 64 cells is written or read (R456): its slot is a free one of partition 0. -/
def spillAccess (cls : Nat) (d : Dev) : Dev :=
  let x := d.draw
  countLines 1 (requester 1 0) cls 0 (d.partBase 0 + 16384 * (x.1.toNat % (spillSlots d))) 16384 x.2

/-- T of the queue holds a page that is wholly written, and its profile spills (R177). -/
def pageReady (d : Dev) (q : Nat) (u : UQueue) : Bool :=
  let lo := u.h + 64 * d.pages q
  u.spilling && decide (64 ≤ u.t) && d.on (R.CIST_QPROF_A_SPILLEN (d.prof q)) &&
  u.places.all (fun x => overlap x.1 x.2.cells lo 64 == 0 || x.2.whole)

/-- The queue whose page is written next: the first after the last one that has a page and has not stopped (R180, R181). -/
def nextSpill (d : Dev) : Option Nat :=
  let ready := (d.cist.uq.filter (fun e => pageReady d e.1 e.2 && !spillStopped d e.1 e.2)).map (fun e => e.1)
  match ready.find? (fun q => decide (d.cist.lastSpill < q)) with
  | some q => some q
  | none => ready.head?

/-- Packets with cells in the n places from lo on are poisoned (R163). -/
def poisonCells (lo n : Nat) (ps : List (Nat × Pkt)) : List (Nat × Pkt) :=
  ps.map (fun x => if overlap x.1 x.2.cells lo n = 0 then x else (x.1, { x.2 with poisoned := true }))

/-- SPILL_PAGE_WRITE (R177, R180, R181): T's oldest 64 cells go to a free page slot, in the queue's turn and within the write cap. `bad` are the
cells of the page that are read back uncorrectable (R163). -/
def spillPageWrite (q : Nat) (bad : List (Fin 64)) (d : Dev) : Dev :=
  let u := d.uq q
  let lo := u.h + 64 * d.pages q
  if !pageReady d q u then d
  else if spillFull d then showAllSpilling (noteFull d)
  else if nextSpill d != some q || d.cist.wleft == 0 then d
  else
    let ps := bad.foldl (fun ps k => poisonCells (lo + k.val) 1 ps) u.places
    let r := spillCells lo ps (Dev.each bad (fun _ => raiseDE blkCist 2 q) d)
    let d := { r.2.2 with cist := { r.2.2.cist with wleft := r.2.2.cist.wleft - 1, lastSpill := q } }
    let d := noteFull (d.incr R.RES_SPILL_STAT_USED)
    let d := d.set (R.CIST_QSPILL_PAGES q) (d.pages q + 1)
    let d := gxUpdate (setUQ q { u with pkts := r.1, t := u.t - 64, hdrm := u.hdrm - r.2.1 } d)
    spillAccess 1 (if spillFull d then showAllSpilling d else d)

def execSpillPageWrite (q : UniQueue) (bad : List (Fin 64)) (s : State) : Host.Outcome State Fault Refusal :=
  onDev (Dev.whenApplied (spillPageWrite q.val bad)) s

/-- SPILL_PREFETCH (R178, R180): the prefetch that was raised first starts, within the read cap. -/
def spillPrefetch (q : Nat) (d : Dev) : Dev :=
  let u := d.uq q
  if d.cist.raised.head? == some q && d.cist.rleft != 0 && decide (64 ≤ d.cist.free) then
    spillAccess 0 (setUQ q { u with prefetch := u.prefetch + 1 }
      { d with cist := { d.cist with rleft := d.cist.rleft - 1, raised := d.cist.raised.drop 1 } })
  else d

def execSpillPrefetch (q : UniQueue) (s : State) : Host.Outcome State Fault Refusal :=
  onDev (Dev.whenApplied (spillPrefetch q.val)) s

/-- PREFETCH_COMPLETE (R163, R178, R179): the page's cells join H and its slot is free again. -/
def prefetchComplete (q : Nat) (bad : Bool) (d : Dev) : Dev :=
  let u := d.uq q
  if u.prefetch = 0 || d.pages q == 0 then d
  else
    let full := spillFull d
    let d := if bad then raiseDE blkCist 2 q d else d
    let pkts := if bad then (poisonCells (if u.h = 0 then 0 else u.h) 64 u.places).map (fun x => x.2) else u.pkts
    let d := (d.drop R.RES_SPILL_STAT_USED).set (R.CIST_QSPILL_PAGES q) (d.pages q - 1)
    let u := { u with pkts := pkts, h := u.h + (64 - u.dead), dead := 0, prefetch := u.prefetch - 1 }
    let d := gxUpdate (setUQ q (joinTail q u d) d)
    if full then showAllSpilling d else d

def execPrefetchComplete (q : UniQueue) (uncorrectable : Bool) (s : State) : Host.Outcome State Fault Refusal :=
  onDev (Dev.whenApplied (prefetchComplete q.val uncorrectable)) s

/-! ### Taking packets out of a unicast queue -/

/-- The head packet leaves: its cells and charges are released, or those of a packet whose tail is still to come stay its own (R174); a
spilling queue whose H empties with pages left starves (R178). -/
def popHead (q : Nat) (d : Dev) : Dev :=
  let u := d.uq q
  match u.pkts with
  | [] => d
  | p :: rest =>
    let d := if p.whole then discharge p d else holdCells p.cells p.headroom d
    let u := { u with pkts := rest, h := u.h - p.cells, hdrm := u.hdrm - (if p.headroom then p.ingr else 0) }
    let d := if u.spilling && u.h == 0 && d.pages q != 0 then d.bump R.CIST_STARVE_COUNT else d
    gxUpdate (setUQ q (joinTail q u d) d)

/-- The head packet of a queue is wholly in H (R175, R178). -/
def headInH (u : UQueue) : Option Pkt :=
  match u.pkts with
  | [] => none
  | p :: _ => if p.cells ≤ u.h then some p else none

/-- The packets of a queue from the front on are dropped (R179, R204, R205): pages are freed unread. `n` packets go. -/
def dropFront (q n : Nat) (d : Dev) : List Pkt × Dev :=
  let u := d.uq q
  let gone := u.pkts.take n
  let cells := (gone.map (·.cells)).foldl (· + ·) 0
  let hd := (gone.map (fun p => if p.headroom then p.ingr else 0)).foldl (· + ·) 0
  let d := Dev.each gone discharge d
  let inH := min cells u.h
  let inS := min (cells - inH + u.dead) (64 * d.pages q)
  let inT := cells - inH - (inS - u.dead)
  let freed := if cells ≤ u.h then 0 else inS / 64
  let dead := if cells ≤ u.h then u.dead else inS % 64
  let full := spillFull d
  let d := d.drop R.RES_SPILL_STAT_USED freed
  let d := if freed = 0 then d else d.set (R.CIST_QSPILL_PAGES q) (d.pages q - freed)
  let u := { u with pkts := u.pkts.drop n, h := u.h - inH, t := u.t - inT, hdrm := u.hdrm - hd, dead := dead,
                    prefetch := min u.prefetch (d.pages q) }
  let d := gxUpdate (setUQ q (joinTail q u d) d)
  (gone, if full then showAllSpilling d else d)

/-- The charge of a packet is corrected to c cells (R168, R174): its accounts and what it has in the ingress account. -/
def recharge (old : Pkt) (c : Nat) (d : Dev) : Pkt × Dev :=
  let less := old.cells - c
  let more := c - old.cells
  let r := leaveIngress old less (subUse old less d)
  if more = 0 then ({ r.1 with cells := c }, r.2)
  else
    let d := addUse old more r.2
    let d := if old.headroom then { d with cist := { d.cist with hdrmUsed := d.cist.hdrmUsed + more } } else d
    match old.inPort with
    | none => ({ old with cells := c }, d)
    | some i =>
      ({ old with cells := c, ingr := old.ingr + more },
        d.modLink i.val (fun l =>
          let l := l.setIngr old.tc.val (l.ingrOf old.tc.val + more)
          if old.headroom then { l with hdrmUse := l.hdrmUse + more } else l))

/-- One packet anywhere in a queue takes new bytes and c cells, or is dropped where c is 0 (R168, R174). The packet's cells are all in
H or T. -/
def replacePkt (q id c : Nat) (f : Pkt → Pkt) (d : Dev) : Dev :=
  let u := d.uq q
  match u.places.find? (fun x => x.2.id == id) with
  | none => d
  | some x =>
    let old := x.2
    let less := old.cells - c
    let more := c - old.cells
    let fromH := overlap (x.1 + c) less 0 u.h
    let r := recharge old c d
    let inH := decide (x.1 + old.cells ≤ u.h)
    let u := { u with
      pkts := u.pkts.flatMap (fun p => if p.id = id then (if c = 0 then [] else [f r.1]) else [p])
      h := u.h - fromH + (if inH then more else 0)
      t := u.t - (less - fromH) + (if inH then 0 else more)
      hdrm := u.hdrm - (if old.headroom then min less old.ingr else 0) + (if old.headroom then more else 0) }
    gxUpdate (setUQ q (startSpill q (endSpill q u r.2) r.2) r.2)

end Sys2Proof.Machine
end

