-- ==== Sys2Proof/Machine/Forward.lean ====
section
/-! DEFINITION. Parsing and the forwarding tables (R134 to R156): headers, result words, lookups, learning, aging and the update ring. -/

namespace Sys2Proof.Machine

/-! ### Ethernet, IP and UDP headers (R135) -/

/-- The register of the CRC-32 of IEEE 802.3, least significant bit first, after further bytes. -/
def crcRun (c : Nat) (bs : List Byte) : Nat :=
  bs.foldl (fun c b => (List.range 8).foldl (fun v _ => if v % 2 = 1 then Nat.xor (v / 2) 0xEDB88320 else v / 2) (Nat.xor c b.toNat)) c

def crcStart : Nat := 0xFFFFFFFF

/-- What the register holds behind a frame whose FCS is right. -/
def crcGood : Nat := 0xDEBB20E3

/-- FCS of an Ethernet frame. -/
def crc32 (bs : List Byte) : Nat := Nat.xor 0xFFFFFFFF (crcRun crcStart bs)

/-- A frame of DA to payload with its FCS. -/
def withFcs (bs : List Byte) : List Byte := bs ++ leBytes 4 (crc32 bs)

/-- A frame whose bytes before the FCS have been changed: the FCS is computed again. -/
def fixFcs (bs : List Byte) : List Byte := withFcs (bs.take (bs.length - 4))

/-- What the parser finds in an Ethernet frame (R135). Offsets are from byte 0 of the frame. -/
structure EthHdr where
  da : Nat
  sa : Nat
  /-- Number of VLAN tags recognised, outer PCP and VID. -/
  tags : Nat
  pcp : Nat
  vid : Nat
  etype : Nat
  /-- Where the payload behind the EtherType starts. -/
  l3 : Nat
  /-- A third VLAN tag or IPv6 extension header, or headers that do not end within 256 bytes (R136). -/
  trunc : Bool
  /-- 4, 6 or 0. -/
  ip : Nat
  src : Nat
  dst : Nat
  proto : Nat
  ttl : Nat
  dscp : Nat
  ecn : Nat
  /-- Where the layer 4 header starts, its ports, and whether it carries them here. -/
  l4 : Nat
  sport : Nat
  dport : Nat
  hasL4 : Bool
  /-- Length of the frame that the IP header implies, with the FCS, where there is one (R168). -/
  ipLen : Option Nat
  /-- An IPv4 header that R136 drops, and one whose total length runs past the bytes there are. -/
  bad : Bool
  short : Bool

/-- Ones' complement sum of 16-bit words. -/
def sum16 (bs : List Byte) : Nat :=
  let s := ((List.range (divUp bs.length 2)).map (fun i => beAt (padTo bs (2 * divUp bs.length 2)) (2 * i) 2)).foldl (· + ·) 0
  let s := s % 65536 + s / 65536
  s % 65536 + s / 65536

/-- Protocols whose header begins with a source and a destination port: TCP, UDP, DCCP, SCTP, UDP-Lite. -/
def hasPorts (proto : Nat) : Bool := [6, 17, 33, 132, 136].contains proto

/-- IPv6 extension headers (R135): Hop-by-Hop 0, Routing 43, Fragment 44, Destination Options 60. Answers next header, offset, whether a
third one stands there, and whether a Fragment header gave an offset other than 0. -/
def skipExt (bs : List Byte) : Nat → Nat → Nat → Bool → Nat × Nat × Bool × Bool
  | 0, nh, off, later => (nh, off, [0, 43, 44, 60].contains nh, later)
  | n + 1, nh, off, later =>
    if [0, 43, 44, 60].contains nh then
      skipExt bs n (beAt bs off 1) (off + (if nh = 44 then 8 else 8 + 8 * beAt bs (off + 1) 1)) (later || (nh == 44 && beBits bs (off + 2) 2 15 3 != 0))
    else (nh, off, false, later)

def isTpidOuter (t : Nat) : Bool := t == 0x8100 || t == 0x88A8

def parseEth (bs : List Byte) : EthHdr :=
  let t0 := beAt bs 12 2
  let tags := if !isTpidOuter t0 then 0 else if beAt bs 16 2 == 0x8100 then 2 else 1
  let l3 := 14 + 4 * tags
  let etype := beAt bs (l3 - 2) 2
  let third := tags == 2 && isTpidOuter etype
  let base : EthHdr :=
    { da := beAt bs 0 6, sa := beAt bs 6 6, tags := tags, pcp := if tags = 0 then 0 else beBits bs 14 2 15 13,
      vid := if tags = 0 then 0 else beBits bs 14 2 11 0, etype := etype, l3 := l3, trunc := third, ip := 0, src := 0, dst := 0,
      proto := 0, ttl := 0, dscp := 0, ecn := 0, l4 := l3, sport := 0, dport := 0, hasL4 := false, ipLen := none, bad := false, short := false }
  let ports (later : Bool) (h : EthHdr) : EthHdr :=
    if later || !hasPorts h.proto then h
    else if h.proto == 17 && decide (256 < h.l4 + 8) then { h with trunc := true }
    else if 256 < h.l4 + 4 then h
    else { h with sport := beAt bs h.l4 2, dport := beAt bs (h.l4 + 2) 2, hasL4 := true }
  if third then base
  else if etype = 0x0800 then
    let ihl := beBits bs l3 1 3 0
    let total := beAt bs (l3 + 2) 2
    let hl := 4 * ihl
    let bad := decide (ihl < 5) || sum16 (slice bs l3 hl) != 0xFFFF
    let h := { base with ip := 4, src := beAt bs (l3 + 12) 4, dst := beAt bs (l3 + 16) 4, proto := beAt bs (l3 + 9) 1,
                         ttl := beAt bs (l3 + 8) 1, dscp := beBits bs (l3 + 1) 1 7 2, ecn := beBits bs (l3 + 1) 1 1 0,
                         l4 := l3 + hl, ipLen := some (max 64 (l3 + total + 4)), bad := bad, short := decide (bs.length < l3 + total + 4) }
    if 256 < l3 + hl then { h with trunc := true } else ports (beBits bs (l3 + 6) 2 12 0 != 0) h
  else if etype = 0x86DD then
    let e := skipExt bs 2 (beAt bs (l3 + 6) 1) (l3 + 40) false
    let h := { base with ip := 6, src := beAt bs (l3 + 8) 16, dst := beAt bs (l3 + 24) 16, proto := e.1,
                         ttl := beAt bs (l3 + 7) 1, dscp := beBits bs l3 2 11 6, ecn := beBits bs l3 2 5 4, l4 := e.2.1,
                         ipLen := some (max 64 (l3 + 40 + beAt bs (l3 + 4) 2 + 4)) }
    if e.2.2.1 || decide (256 < e.2.1) then { h with trunc := true } else ports e.2.2.2 h
  else base

/-! ### Table entries and result words -/

def Dev.tbl (d : Dev) (t : Nat) : SMap TblEntry := d.tables.vis.getD t []

def Dev.entry (d : Dev) (t k : Nat) : Option TblEntry := SMap.get? (d.tbl t) k

def setTbl (t : Nat) (m : SMap TblEntry) (d : Dev) : Dev := { d with tables := { d.tables with vis := d.tables.vis.set t m } }

/-- Result word of an entry: bytes 32 to 35 of the record (R153). -/
def TblEntry.result (e : TblEntry) : Nat := leAt e.data 0 4

/-- KIND of a result word, with the reserved kinds as KIND 0 (R139). -/
def resKind (w : Nat) : Nat := let k := bitsOf w 29 3; if 5 < k then 0 else k
def resDest (w : Nat) : Nat := bitsOf w 0 16

/-- A result word of a reserved KIND is counted (R139). -/
def countKind (w : Nat) (d : Dev) : Dev :=
  if 5 < bitsOf w 29 3 then { d with tables := { d.tables with badKinds := d.tables.badKinds + 1 } } else d

/-- A result word of KIND k. -/
def mkResult (kind dest : Nat) : Nat := kind * 2 ^ 29 + dest

/-- The page entry that the directory sends an endpoint ID to, where it is paged (R142). -/
def pageOf (dst : Nat) (d : Dev) : Option Nat :=
  let dir := match d.entry 0 (dst / 4096) with
    | none => 0
    | some e => leAt e.data 0 8
  if bitAt dir 32 then some (bitsOf dir 33 10 * 4096 + dst % 4096) else none

/-- Result word that directory and page give an endpoint ID (R142). -/
def ofpEntry (dst : Nat) (d : Dev) : Nat :=
  match pageOf dst d with
  | some i => (match d.entry 1 i with | none => 0 | some e => e.result)
  | none => match d.entry 0 (dst / 4096) with
    | none => 0
    | some e => leAt e.data 0 4

/-- Result word for an endpoint ID: a miss takes FWD_OFP_MISS (R143). -/
def ofpLookup (dst : Nat) (d : Dev) : Nat :=
  let w := ofpEntry dst d
  if resKind w = 0 then d.get R.FWD_OFP_MISS_RESULT else w

/-- Keys of the keyed tables: host (FAM, VRF, address), LPM (length, VRF, prefix), MAC (VID, address). -/
def hostKey (fam vrf addr : Nat) : Nat := (fam * 256 + vrf) * 2 ^ 128 + addr
def lpmKey (w plen vrf addr : Nat) : Nat := (plen * 256 + vrf) * 2 ^ w + addr / 2 ^ (w - plen) * 2 ^ (w - plen)
def macKey (vid mac : Nat) : Nat := vid * 2 ^ 48 + mac

/-- The entry of a host or LPM key; one that is zero is a miss (R134). -/
def Dev.hitOf (d : Dev) (t k : Nat) : Option TblEntry := (d.entry t k).filter (fun e => e.result != 0)

/-- An LPM key of a family names a prefix of an address (R146). -/
def prefixOf (w vrf addr k : Nat) : Bool := k == lpmKey w (k / 2 ^ (w + 8)) vrf addr

/-- Longest match among the prefixes of a family (R147), from a length down. -/
def lpmProbe (d : Dev) (t w vrf addr : Nat) : Nat → Option TblEntry
  | 0 => d.hitOf t (lpmKey w 0 vrf addr)
  | n + 1 =>
    match d.hitOf t (lpmKey w (n + 1) vrf addr) with
    | some e => some e
    | none => lpmProbe d t w vrf addr n

/-- Result of the L3 lookup: host table, then LPM (R145); 0 is a miss. -/
def l3Lookup (d : Dev) (h : EthHdr) (vrf : Nat) : Nat :=
  let fam := if h.ip = 6 then 1 else 0
  match d.hitOf 2 (hostKey fam vrf h.dst) with
  | some e => e.result
  | none =>
    match (if h.ip = 6 then lpmProbe d 4 128 vrf h.dst 128 else lpmProbe d 3 32 vrf h.dst 32) with
    | some e => e.result
    | none => 0

/-- Lengths that hash mode probes for an address (R147): those of 17 and above that exist beneath its top 16 bits, and those
up to 16 that exist at all, from the longest down to the hit. -/
def lpmProbes (d : Dev) (t w vrf addr : Nat) : Nat :=
  let keys := (d.tbl t).map (·.1)
  let lens := (List.range (w + 1)).filter (fun n => keys.any (fun k =>
    k / 2 ^ (w + 8) == n && (decide (n < 17) || k % 2 ^ w / 2 ^ (w - 16) == addr / 2 ^ (w - 16))))
  match lens.reverse.findIdx? (fun n => (d.hitOf t (lpmKey w n vrf addr)).isSome) with
  | some i => i + 1
  | none => lens.length

/-- Passes beyond the first of a hash-mode lookup count in FWD_LPM_STAT.EXTRA, four probes to a pass (R146, R147). -/
def countLpm (h : EthHdr) (vrf : Nat) (d : Dev) : Dev :=
  let fam6 := h.ip == 6
  if (d.hitOf 2 (hostKey (b2n fam6) vrf h.dst)).isSome || d.on (if fam6 then R.FWD_LPM_CFG_V6MODE else R.FWD_LPM_CFG_V4MODE) then d
  else
    let n := if fam6 then lpmProbes d 4 128 vrf h.dst else lpmProbes d 3 32 vrf h.dst
    d.bump R.FWD_LPM_STAT_EXTRA (divUp n 4 - 1)

/-- VLAN entry of a VID (R153, TABLE 7). -/
structure Vlan where
  vrf : Nat
  valid : Bool
  learn : Bool
  route : Bool
  flood : Nat

def Dev.vlan (d : Dev) (vid : Nat) : Vlan :=
  let w := match d.entry 7 vid with | none => 0 | some e => e.result
  ⟨bitsOf w 0 8, bitAt w 8, bitAt w 9, bitAt w 10, bitsOf w 16 10⟩

/-- Next-hop entry (R153, TABLE 6): result, destination MAC, VID, ENC, destination IPv6 address. -/
structure NextHop where
  result : Nat
  dmac : Nat
  vid : Nat
  enc : Nat
  ip6 : Nat

def Dev.nextHop (d : Dev) (i : Nat) : NextHop :=
  match d.entry 6 i with
  | none => ⟨0, 0, 0, 0, 0⟩
  | some e => ⟨e.result, beAt e.data 4 6, leBits e.data 10 2 11 0, leAt e.data 12 1, beAt e.data 16 16⟩

/-! ### MAC learning (R149) and aging (R150) -/

/-- The entry of a key with the changes of this turn so far. -/
def pendingEntry (d : Dev) (t k : Nat) : Option TblEntry :=
  match (d.tables.aged ++ d.tables.learned ++ d.tables.batch).reverse.find? (fun c => c.table.val == t && c.key == k) with
  | some c => c.val
  | none => d.entry t k

def setEntry (t k : Nat) (e : TblEntry) (d : Dev) : Dev := setTbl t (SMap.put (d.tbl t) k e) d

/-! ### The update ring (R153 to R156) -/

def tblRing : RingRef := ⟨R.FWD_RING_BASE, R.FWD_RING_CFG_LOG2SIZE, R.FWD_RING_CFG_EN, R.FWD_RING_HEAD_HEAD, R.FWD_RING_TAIL_TAIL, 64, 6, 16⟩

def recOp (r : List Byte) : Nat := beBits r 0 1 7 4
def recTable (r : List Byte) : Nat := beBits r 0 1 3 0
def recEnd (r : List Byte) : Bool := beBits r 1 1 0 0 == 1

/-- Cost of a record (R154). -/
def recCost (r : List Byte) : Nat := if recOp r == 1 && decide (2 ≤ recTable r) && decide (recTable r ≤ 5) then 9 else 1

/-- Records of the batch that starts k records from HEAD, up to its BATCHEND; none while it is unfinished (R154). -/
def batchFrom (d : Dev) : Nat → Nat → Option (List (List Byte))
  | 0, _ => none
  | fuel + 1, k =>
    match d.ringAt tblRing k with
    | none => none
    | some r => if recEnd r then some [r] else (batchFrom d fuel (k + 1)).map (fun t => r :: t)

def batchAtHead (d : Dev) : Option (List (List Byte)) := batchFrom d (d.ringCount tblRing) 0

def batchCost (b : List (List Byte)) : Nat := (b.map recCost).foldl (· + ·) 0

/-- Key of a record in its table. -/
def recKey (r : List Byte) : Nat :=
  match recTable r with
  | 2 => if beBits r 1 1 2 2 = 1 then hostKey 1 (leAt r 4 1) (beAt r 16 16) else hostKey 0 (leAt r 4 1) (beAt r 16 4)
  | 3 => lpmKey 32 (leAt r 3 1) (leAt r 4 1) (beAt r 16 4)
  | 4 => lpmKey 128 (leAt r 3 1) (leAt r 4 1) (beAt r 16 16)
  | 5 => macKey (leBits r 4 2 11 0) (beAt r 16 6)
  | _ => leAt r 8 4

/-- BADARG (R156). -/
def recBad (r : List Byte) : Bool :=
  let t := recTable r
  decide (3 < recOp r) || decide (7 < t) ||
  ((t == 0 || t == 7) && decide (4095 < leAt r 8 4)) || (t == 1 && decide (4194303 < leAt r 8 4)) ||
  (t == 6 && decide (65535 < leAt r 8 4)) || (t == 3 && decide (32 < leAt r 3 1)) || (t == 4 && decide (128 < leAt r 3 1)) ||
  ((t == 2 || t == 3 || t == 4) && leBits r 4 2 15 8 != 0) || (t == 5 && leBits r 4 2 15 12 != 0)

def keyed (t : Nat) : Bool := decide (2 ≤ t) && decide (t ≤ 5)

/-- Keys of a table with the changes of this turn. -/
def heldKeys (d : Dev) (t : Nat) : List Nat :=
  let cs := (d.tables.aged ++ d.tables.learned ++ d.tables.batch).filter (fun c => c.table.val == t)
  ((d.tbl t).map (·.1) ++ cs.map (·.key)).eraseDups.filter (fun k => (pendingEntry d t k).isSome)

/-- Places that the keys of the host table take: IPv4 one, IPv6 two (R134, R144). -/
def hostPlaces (ks : List Nat) : Nat := (ks.map (fun k => if k / 2 ^ 136 = 1 then 2 else 1)).foldl (· + ·) 0

/-- Units that the prefixes of a family hold, added one after another (R146). -/
def lpmUnits (d : Dev) (t : Nat) (ks : List Nat) : Nat :=
  let v6 := t == 4
  if !d.on (if v6 then R.FWD_LPM_CFG_V6MODE else R.FWD_LPM_CFG_V4MODE) then (if v6 then 2 else 1) * ks.length
  else (ks.foldl (fun r k => (k :: r.1, r.2 + min (if v6 then 8 else 2) (Config.trieUnits t r.1 k))) ([], 0)).2

/-- Units of a family's share: V4UNITS holds a multiple of 1,024 (R146, R158). -/
def lpmShare (d : Dev) (t : Nat) : Nat :=
  let v4 := min 1048576 (1024 * d.get R.FWD_LPM_CFG_V4UNITS)
  if t = 4 then 1048576 - v4 else v4

/-- An insert of a key finds room (R144, R146, R148). -/
def insertRoom (d : Dev) (t k : Nat) : Bool :=
  let ks := heldKeys d t
  if ks.contains k then true
  else match t with
    | 2 => decide (hostPlaces (k :: ks) ≤ 2097152) && Config.insertFits 2 ks k
    | 5 => decide (ks.length < 262144) && Config.insertFits 5 ks k
    | _ =>
      let trie := d.on (if t = 4 then R.FWD_LPM_CFG_V6MODE else R.FWD_LPM_CFG_V4MODE)
      decide (lpmUnits d t (ks ++ [k]) ≤ lpmShare d t) && (trie || Config.insertFits t ks k)

/-! ### Learning and aging at work (R149, R150, R155) -/

/-- HIT of a visible MAC entry changes; what it was when the turn began is kept for reads (R155). -/
def setHit (k : Nat) (e : TblEntry) (hit : Bool) (d : Dev) : Dev :=
  let d := setEntry 5 k { e with hit := hit } d
  if SMap.has d.tables.hitWas k || e.hit == hit then d
  else { d with tables := { d.tables with hitWas := SMap.put d.tables.hitWas k e.hit } }

/-- Look up the SA of an L2-path frame (R149): HIT, a queued learn, or a move, at most RATE per turn. `seen` is the device as the port's die
reads its tables. A move takes its place among the RATE learns of the turn, one beyond them counts as a move and as dropped, and a result of
another KIND counts as a different port (DESIGN CHOICE, log 100). -/
def macLearn (seen : Dev) (port vid sa : Nat) (d : Dev) : Dev :=
  let k := macKey vid sa
  let res := mkResult 1 port
  let room := decide (d.tables.learns < d.get R.FWD_LEARN_CFG_RATE)
  let learn (e : TblEntry) (d : Dev) : Dev :=
    { d with tables := { d.tables with learned := d.tables.learned ++ [⟨5, k, some e⟩], learns := d.tables.learns + 1 } }
  match seen.entry 5 k with
  | some e =>
    let d := setHit k e true d
    if e.result = res then d
    else
      let d := d.bump R.FWD_LEARN_STAT_MOVES
      if e.static_ then d
      else if room then learn { e with data := leBytes 4 res ++ e.data.drop 4, hit := true } d
      else d.bump R.FWD_LEARN_STAT_DROPPED
  | none =>
    if d.on (R.FWD_PORT_CFG_LEARN port) && (seen.vlan vid).learn then
      if room && insertRoom d 5 k then learn ⟨leBytes 4 res, false, true⟩ d
      else d.bump R.FWD_LEARN_STAT_DROPPED
    else d

/-- MAC_AGING_QUANTUM (R150): a quantum that is due visits the next QUANT places of the MAC table, round its end: HIT is cleared, or an idle
entry is removed. -/
def macAging (d : Dev) : Dev :=
  let q := d.get R.FWD_AGE_CFG_QUANT
  if q = 0 || !d.tables.ageDue then d
  else
    let pos := d.tables.agePos
    let seen := (d.tbl 5).filter (fun e => !e.2.static_ && decide ((Config.macIndex e.1 + 262144 - pos) % 262144 < q))
    let d := Dev.each (seen.filter (fun e => e.2.hit)) (fun e => setHit e.1 e.2 false) d
    { d with tables := { d.tables with
        aged := d.tables.aged ++ (seen.filter (fun e => !e.2.hit)).map (fun e => ⟨5, e.1, none⟩)
        agePos := (pos + q) % 262144, ageDue := false } }

def execMacAgingQuantum (s : State) : Host.Outcome State Fault Refusal := onDev (Dev.whenTurning macAging) s

/-- A turn begins: every TURNS turns a quantum falls due; one that is still due stays so (R83, R150). -/
def agingTurn (d : Dev) : Dev :=
  if d.get R.FWD_AGE_CFG_QUANT = 0 || d.tables.ageDue then d
  else
    let n := d.tables.ageWait + 1
    let due := decide (max 1 (d.get R.FWD_AGE_CFG_TURNS) ≤ n)
    { d with tables := { d.tables with ageWait := if due then 0 else n, ageDue := due } }

/-! ### Taking records -/

/-- Where the record at an index from HEAD stands in memory. -/
def recAddr (d : Dev) (k : Nat) : Nat := d.rd64 R.FWD_RING_BASE + 64 * ((d.get R.FWD_RING_HEAD_HEAD + k) % d.ringSize tblRing)

def writeStatus (k : Nat) (st : Nat) (d : Dev) : Dev := d.writeMem 1 (recAddr d k + 2) (beBytes 1 st)

def stage_ (c : TblChange) (d : Dev) : Dev := { d with tables := { d.tables with batch := d.tables.batch ++ [c] } }

/-- DATA of a record as the table holds it: reserved bits are ignored (R8, R142, R153). -/
def keptData (t : Nat) (data : List Byte) : List Byte :=
  let word (mask : Nat) : List Byte := leBytes 4 (Nat.land (leAt data 0 4) mask)
  match t with
  | 0 => padTo (leBytes 8 (leAt data 0 8 % 2 ^ 43)) 32
  | 6 => word 0xE000FFFF ++ slice data 4 6 ++ leBytes 2 (leAt data 10 2 % 4096) ++ slice data 12 1 ++ zeros 3 ++ slice data 16 16
  | 7 => padTo (word 0x03FF07FF) 32
  | _ => padTo (word 0xE000FFFF) 32

/-- One record takes effect (R155, R156): its change becomes visible at the boundary; STATUS is written. -/
def applyRecord (k : Nat) (r : List Byte) (d : Dev) : Dev :=
  let t := recTable r
  let tf : Fin 8 := Fin.ofNat 8 t
  let key := recKey r
  if recBad r then writeStatus k 4 d
  else match recOp r with
    | 1 =>
      if keyed t && !insertRoom d t key then writeStatus k 2 d
      else writeStatus k 1 (stage_ ⟨tf, key, some ⟨keptData t (slice r 32 32), beBits r 1 1 1 1 == 1 && t == 5, false⟩⟩ d)
    | 2 =>
      if keyed t && (pendingEntry d t key).isNone then writeStatus k 3 d
      else writeStatus k 1 (stage_ ⟨tf, key, none⟩ d)
    | 3 =>
      let e := d.entry t key
      let data := match e with
        | none => zeros 32
        | some x => if t = 5 then padTo (leBytes 4 x.result ++ [BitVec.ofNat 8 (b2n (SMap.getD d.tables.hitWas key x.hit))]) 32 else padTo x.data 32
      (writeStatus k (if keyed t && e.isNone then 3 else 1) d).writeMem 1 (recAddr d k + 32) data
    | _ => writeStatus k 1 d

/-- The record a TABLE_* command takes is of its operation: TABLE_NOP also takes undefined operations (log 12). -/
def recIs (op : Nat) (r : List Byte) : Bool := recOp r == op || (op == 0 && decide (3 < recOp r))

/-- Begin the complete batch at HEAD when its cost fits in the turn's 1,024 (R154); WAIT shows one that does not. -/
def beginBatch (d : Dev) : Dev :=
  if d.tables.batchLen ≠ 0 then d
  else match batchAtHead d with
    | none => d.set R.FWD_RING_HEAD_WAIT 0
    | some b =>
      if 1024 < batchCost b then d
      else if 1024 < d.tables.spent + batchCost b then d.set R.FWD_RING_HEAD_WAIT 1
      else { d.set R.FWD_RING_HEAD_WAIT 0 with
        tables := { d.tables with batchDone := 0, batchLen := b.length, spent := d.tables.spent + batchCost b } }

/-- After a record: HEAD passes the batch once its last record is done (R156). -/
def endRecord (d : Dev) : Dev :=
  if d.tables.batchDone + 1 = d.tables.batchLen then
    let d' := d.ringAdvance tblRing d.tables.batchLen
    { d' with tables := { d'.tables with batchDone := 0, batchLen := 0 } }
  else { d with tables := { d.tables with batchDone := d.tables.batchDone + 1 } }

/-- Take the next record of the update ring when it is of the command's operation (R154 to R156). -/
def tableTake (op : Nat) (d : Dev) : Dev :=
  let d := beginBatch d
  if d.tables.batchLen = 0 then d
  else match d.ringAt tblRing d.tables.batchDone with
    | none => d
    | some r => if recIs op r then endRecord (applyRecord d.tables.batchDone r d) else d

def execTableNop (s : State) : Host.Outcome State Fault Refusal := onDev (Dev.whenApplied (tableTake 0)) s
def execTableWrite (s : State) : Host.Outcome State Fault Refusal := onDev (Dev.whenApplied (tableTake 1)) s
def execTableDelete (s : State) : Host.Outcome State Fault Refusal := onDev (Dev.whenApplied (tableTake 2)) s
def execTableRead (s : State) : Host.Outcome State Fault Refusal := onDev (Dev.whenApplied (tableTake 3)) s

/-- TABLE_BATCH_OVERCOST (R154): a complete batch of cost over 1,024 at HEAD gets STATUS 5 throughout and is passed. -/
def tableBatchOvercost (d : Dev) : Dev :=
  if d.tables.batchLen ≠ 0 then d
  else match batchAtHead d with
    | none => d
    | some b =>
      if 1024 < batchCost b then (Dev.each (List.range b.length) (fun k => writeStatus k 5) d).ringAdvance tblRing b.length
      else d

def execTableBatchOvercost (s : State) : Host.Outcome State Fault Refusal := onDev (Dev.whenApplied tableBatchOvercost) s

/-- A turn takes whole batches (R154): at its end the records left of a batch that was begun are taken. -/
def finishBatch (d : Dev) : Dev :=
  Dev.each (List.range (d.tables.batchLen - d.tables.batchDone)) (fun _ d =>
    match d.ringAt tblRing d.tables.batchDone with
    | none => d
    | some r => endRecord (applyRecord d.tables.batchDone r d)) d

/-- The changes of the ending turn become visible: agings, learns, batches (R155); an entry written has good parity in every copy. The turn's
allowances begin anew. -/
def tableUpdateVisible (d : Dev) : Dev :=
  let cs := d.tables.aged ++ d.tables.learned ++ d.tables.batch
  let ap (v : List (SMap TblEntry)) (c : TblChange) : List (SMap TblEntry) := v.set c.table.val (SMap.set (v.getD c.table.val []) c.key c.val)
  { d with tables := { d.tables with
      vis := cs.foldl ap d.tables.vis
      bad := d.tables.bad.filter (fun x => !cs.any (fun c => c.table.val == x.1 && c.key == x.2.1))
      aged := [], learned := [], batch := [], spent := 0, learns := 0, punts := [], hitWas := [] } }

/-! ### Parity (R151, R152) -/

/-- The tables as the pipelines of a port die read them (R151): an entry whose copy there is bad is a miss, and a directory entry one for its
whole block. -/
def Dev.seenBy (d : Dev) (die : Nat) : Dev :=
  let bad := d.tables.bad.filter (fun x => x.2.2 == die)
  if bad.isEmpty then d
  else { d with tables := { d.tables with vis := (List.range 8).map (fun t => (d.tbl t).filter (fun e => !bad.any (fun x => x.1 == t && x.2.1 == e.1))) } }

/-- Place of an entry in the scrub of each copy, table after table (R134, R152). -/
def scrubPlace (t k : Nat) : Nat :=
  match t with
  | 0 => k
  | 1 => 4096 + k
  | 2 => 4198400 + Config.entryIndex 2 k % 2097152
  | 3 => 6295552 + Config.entryIndex 3 k % 1048576
  | 4 => 6295552 + Config.entryIndex 4 k % 1048576
  | 5 => 7344128 + Config.macIndex k % 262144
  | 6 => 7606272 + k
  | _ => 7671808 + k

/-- Entries of each copy (R134): the scrub reads them once in 119,936 turns. -/
def scrubSize : Nat := 7675904

/-- Index of an entry in the events of R151: its place in its table, or its index. -/
def entryNumber (t k : Nat) : Nat :=
  match t with
  | 2 => Config.entryIndex 2 k % 2097152
  | 3 => Config.entryIndex 3 k % 1048576
  | 4 => Config.entryIndex 4 k % 1048576
  | 5 => Config.macIndex k % 262144
  | _ => k

/-- An entry is zero in every copy. Tables 8 and 9 are the job map and the job table. -/
def loseEntry (t k : Nat) (d : Dev) : Dev :=
  if t < 8 then setTbl t (SMap.del (d.tbl t) k) d
  else
    let f (j : JobTables) : JobTables := if t = 8 then { j with map := SMap.del j.map k } else { j with entry := SMap.del j.entry k }
    { d with jobs := { d.jobs with vis := f d.jobs.vis, next := f d.jobs.next } }

/-- A bad copy has been read (R151): it is rewritten from a good one with a CE event, or the entry becomes zero in every copy with a FATAL
event. ARG0 is the table and ARG1 the die. -/
def parityRepair (x : Nat × Nat × Nat) (d : Dev) : Dev :=
  let (t, k, die) := x
  if !d.tables.bad.contains x then d
  else
    let good := (List.range 8).any (fun c => d.portDieFitted c && !d.tables.bad.contains (t, k, c))
    let keep := d.tables.bad.filter (fun y => if good then y != x else !(y.1 == t && y.2.1 == k))
    let d := { d with tables := { d.tables with bad := keep } }
    if good then raiseCE blkFwd 2 (entryNumber t k) d t die
    else raiseFatal blkFwd 3 (entryNumber t k) (loseEntry t k d) t die

/-- The bad copies of a die among the entries that a lookup has read. -/
def repairRead (die : Nat) (reads : Nat → Nat → Bool) (d : Dev) : Dev :=
  Dev.each (d.tables.bad.filter (fun x => x.2.2 == die && reads x.1 x.2.1)) parityRepair d

/-- The scrub of a turn (R152): 64 entries of each copy. -/
def scrubTables (d : Dev) : Dev :=
  let pos := d.tables.scrubPos
  let hit := d.tables.bad.filter (fun x => decide (x.1 < 8) && decide ((scrubPlace x.1 x.2.1 + scrubSize - pos) % scrubSize < 64))
  Dev.each hit parityRepair { d with tables := { d.tables with scrubPos := (pos + 64) % scrubSize } }

end Sys2Proof.Machine
end

