-- ==== Sys2Proof/Machine/TimeUnit.lean ====
section
/-! DEFINITION. The clepsydra (R121 to R123, R409 to R431): corrected time, samples, root and parent, servo, holdover,
steering, captures and PPS. Time values are counts of 2^-16 ns. -/

namespace Sys2Proof.Machine

def nsUnit : Int := 65536
def secUnit : Int := 1000000000 * 65536
/-- A turn of 2.048 µs (R77). -/
def turnUnit : Int := 2048 * 65536

/-- T at sixteenths of a raw tick of 0.8 ns (R410, R428): the product is truncated toward −∞ to 2^-16 ns. -/
def timeAt (t : Clepsydra) (raw16 : Int) : Int :=
  t.baseT + (raw16 - 16 * t.baseRaw) * (8 * 65536) * (2 ^ 40 + t.adj) / (160 * 2 ^ 40)

/-- Corrected time now (R410). -/
def Dev.now (d : Dev) : Int := timeAt d.time (16 * d.time.raw)

/-- Seconds, nanoseconds and fraction of a time value (R410). -/
def secOf (t : Int) : Nat := (t / secUnit).toNat % 2 ^ 48
def nsOf (t : Int) : Nat := (t % secUnit / nsUnit).toNat
def fracOf (t : Int) : Nat := (t % nsUnit).toNat

/-- A 32-bit two's complement value, and its word. -/
def signed (w n : Nat) : Int := if n < 2 ^ (w - 1) then n else (n : Int) - 2 ^ w
def unsigned (w : Nat) (i : Int) : Nat := (i % 2 ^ w).toNat

def clampI (x lo hi : Int) : Int := if x < lo then lo else if hi < x then hi else x
def absI (x : Int) : Int := if x < 0 then -x else x

def tmode (d : Dev) : Nat := d.get R.TIME_STATUS_MODE

/-- MODE of the clepsydra, the same in TIME_STATUS and GLB_TURN_STATUS (R430). -/
def setMode (m : Nat) (d : Dev) : Dev := (d.set R.TIME_STATUS_MODE m).set R.GLB_TURN_STATUS_MODE m

def swid (d : Dev) : Nat := (d.rd (R.PORT_SWID 0)).toNat

/-! ### Timestamps (R413, R415) -/

/-- Mode m of TIME_CORR for a port (R413). -/
def corrMode (d : Dev) (p : Nat) : Nat :=
  match d.rate p with
  | 0 => 0
  | 1 => 1
  | 2 => if d.width p = 2 then 2 else if d.width p = 4 then 3 else 4
  | _ => 5

/-- Constants of a port in 2^-16 ns; haul ports with MACsec add row 7. -/
def txCorr (d : Dev) (p : Nat) : Int :=
  256 * (d.get (R.TIME_CORR_TX (corrMode d p)) +
    (if d.isHaul p && d.get (R.HAUL_MSEC_MODE p) != 0 then d.get (R.TIME_CORR_TX 7) else 0) : Nat)
def rxCorr (d : Dev) (p : Nat) : Int :=
  256 * (d.get (R.TIME_CORR_RX (corrMode d p)) +
    (if d.isHaul p && d.get (R.HAUL_MSEC_MODE p) != 0 then d.get (R.TIME_CORR_RX 7) else 0) : Nat)

/-- A PTP event message seen by a port (R415). -/
structure PtpMsg where
  mtype : BitVec 4
  domain : Byte
  seqid : BitVec 16
  spid : List Byte
  deriving DecidableEq, Repr

def tsRing : RingRef := ⟨R.TIME_TSR_BASE, R.TIME_TSR_CFG_LOG2SIZE, R.TIME_TSR_CFG_EN, R.TIME_TSR_HEAD_HEAD, R.TIME_TSR_TAIL_TAIL, 32, 6, 16⟩

/-- The record of R415. -/
def tsBytes (port dir : Nat) (m : PtpMsg) (t : Int) : List Byte :=
  leBytes 2 port ++ leBytes 1 dir ++ leBytes 1 m.mtype.toNat ++ [m.domain, 0] ++ leBytes 2 m.seqid.toNat ++
  padTo (m.spid.take 10) 10 ++ zeros 2 ++ leBytes 6 (secOf t) ++ leBytes 4 (nsOf t) ++ leBytes 2 (fracOf t)

/-- Record a PTP event message: messageType 0 to 3 while TIME_TSR_CFG.EN is 1 (R415). `t` is the corrected instant. -/
def tsRecord (port dir : Nat) (m : PtpMsg) (t : Int) (d : Dev) : Dev :=
  if !d.ringOn tsRing || decide (3 < m.mtype.toNat) then d
  else if d.ringFull tsRing then d.bump (R.TIME_CNT_COUNT 6)
  else (d.ringPush tsRing (tsBytes port dir m t)).bump (R.TIME_CNT_COUNT 7)

/-! ### Samples (R123, R414, R416) -/

def offsetOf (m : TimeMsg) (t4 : Int) : Int := ((m.trx - m.techo) + (m.ttx - t4)) / 2
def delayOf (m : TimeMsg) (t4 : Int) : Int := ((t4 - m.techo) - (m.ttx - m.trx)) / 2

/-- Conditions of R416 other than the domain. -/
def sampleOk (m : TimeMsg) (delay : Int) (d : Dev) : Bool :=
  m.xver == 1 && m.echov && (m.locked || m.hold) && m.root != 0 &&
  (m.root.toNat != swid d || d.on R.TIME_STATUS_ISROOT) && decide (m.dist.toNat < d.get R.TIME_CFG_MAXDIST) &&
  decide (-4 * nsUnit ≤ delay)

/-- A received time message of an input that came by port p (R416): accepted, or counted as refused. -/
def timeSample (input p : Nat) (m : TimeMsg) (d : Dev) : Dev :=
  let t4 := m.t4 - rxCorr d p
  let delay := delayOf m t4
  if m.domain.toNat ≠ d.get R.TIME_CFG_DOMAIN then d.bump (R.TIME_CNT_COUNT 1)
  else if !sampleOk m delay d then d.bump (R.TIME_CNT_COUNT 2)
  else
    let o := offsetOf m t4 + 256 * signed 16 (d.get (R.TIME_PORT_ASYM_ASYM p))
    let d := d.bump (R.TIME_CNT_COUNT 0)
    { d with time := { d.time with
        inputs := SMap.put d.time.inputs input ⟨m.root, m.prio, m.dist, m.hold, o, delay, true, t4, d.turn⟩ } }

/-- A time value on the wire (R121): 48-bit seconds, 32-bit nanoseconds, 16-bit fraction. -/
def timeValue (t : Int) : List Byte := beBytes 6 (secOf t) ++ beBytes 4 (nsOf t) ++ beBytes 2 (fracOf t)
def timeValueOf (bs : List Byte) (off : Nat) : Int :=
  (beAt bs off 6 : Nat) * secUnit + (beAt bs (off + 6) 4 : Nat) * nsUnit + (beAt bs (off + 10) 2 : Nat)

/-- The 64 bytes of a time exchange or of a keepalive's TIME field (R121, R323). -/
def timeBytes (m : TimeMsg) : List Byte :=
  beBytes 1 (16 * m.xver + b2n m.locked * 8 + b2n m.hold * 4 + b2n m.echov * 2) ++ [m.domain] ++ beBytes 2 m.xseq.toNat ++
  beBytes 2 m.echoseq.toNat ++ zeros 2 ++ timeValue m.ttx ++ timeValue m.techo ++ timeValue m.trx ++ beBytes 4 m.root.toNat ++
  [m.prio, m.dist] ++ zeros 2 ++ beBytes 4 m.adj.toNat ++ zeros 8

/-- The fields of those bytes, with the receive time and whether they came in a replayed pair (R121, R123). -/
def timeOf (bs : List Byte) (t4 : TimeVal) (replayed : Bool) : TimeMsg where
  xver := beBits bs 0 1 7 4
  locked := beBits bs 0 1 3 3 == 1
  hold := beBits bs 0 1 2 2 == 1
  echov := beBits bs 0 1 1 1 == 1
  domain := BitVec.ofNat 8 (beAt bs 1 1)
  xseq := BitVec.ofNat 16 (beAt bs 2 2)
  echoseq := BitVec.ofNat 16 (beAt bs 4 2)
  ttx := timeValueOf bs 8
  techo := timeValueOf bs 20
  trx := timeValueOf bs 32
  root := BitVec.ofNat 32 (beAt bs 44 4)
  prio := BitVec.ofNat 8 (beAt bs 48 1)
  dist := BitVec.ofNat 8 (beAt bs 49 1)
  adj := BitVec.ofNat 32 (beAt bs 52 4)
  t4 := t4
  replayed := replayed

/-- TIME_EXCHANGE_RECEIVE (R116, R117, R121, R123): the packet, without a join tag, whose first pair passed the receive point at `t4`. A packet with a wrong header
or trailer is dropped and counted; a message is discarded in a replayed pair or on a port that is no OFP port; the echo is remembered. -/
def timeExchangeReceive (p : PortNo) (bs : List Byte) (t4 : TimeVal) (replayed : Bool) (d : Dev) : Dev :=
  let h := ofpHdr bs
  if !d.isOfp p.val || !d.isUp p.val then d
  else if d.farLoop p.val then Dev.each (pairGroups bs) (fun f => sequencePair p.val 0 0 f []) d
  else if replayed || h.ver != 1 || h.type != 7 || h.len != 64 then d
  else if !hcrcOk bs || !trailerOk bs then countPort p.val 10 d
  else
    let m := timeOf (ofpPayload bs) t4 replayed
    let d := d.modLink p.val (fun l => { l with echo := some (m.xseq, m.ttx, t4 - rxCorr d p.val) })
    if d.on (R.PORT_PCTL_TSEN p.val) then timeSample p.val p.val m d else d

def execTimeExchangeReceive (p : PortNo) (bytes : List Byte) (t4 : TimeVal) (replayed : Bool) (s : State) : Host.Outcome State Fault Refusal :=
  onDev (Dev.whenApplied (timeExchangeReceive p bytes t4 replayed)) s

/-- The parent input, where there is one. -/
def parentOf (d : Dev) : Option Nat :=
  if d.get R.TIME_STATUS_PARENT = 0x7FF then none else some (d.get R.TIME_STATUS_PARENT)

/-- What the device advertises (R418): the fields of a time message sent at T = ttx that answers the last one received. -/
def advertise (ttx : Int) (echo : Option (BitVec 16 × TimeVal × TimeVal)) (d : Dev) : TimeMsg :=
  let root := d.on R.TIME_STATUS_ISROOT
  let silent := tmode d == 0 && !root
  let parent := (parentOf d).bind (fun i => SMap.get? d.time.inputs i)
  { xver := 1
    locked := tmode d == 1
    hold := tmode d == 2 || (!silent && (match parent with | some i => i.hold | none => false))
    echov := echo.isSome
    domain := BitVec.ofNat 8 (d.get R.TIME_CFG_DOMAIN)
    xseq := BitVec.ofNat 16 d.turn
    echoseq := match echo with | some e => e.1 | none => 0
    ttx := ttx
    techo := match echo with | some e => e.2.1 | none => 0
    trx := match echo with | some e => e.2.2 | none => 0
    root := if root then BitVec.ofNat 32 (swid d) else if silent then 0 else d.rd R.TIME_ROOTID
    prio := if root then BitVec.ofNat 8 (d.get R.TIME_CFG_PRIO) else d.time.rootPrio
    dist := BitVec.ofNat 8 (d.get R.TIME_STATUS_DIST)
    adj := BitVec.ofNat 32 (unsigned 32 d.time.adj)
    t4 := 0
    replayed := false }

/-- The OFP packet of a time exchange (R118, R121), behind the tag of a built packet on a join port (R41). Its TC, which it has no use for, is 0. -/
def timePacket (d : Dev) (p : Nat) (m : TimeMsg) : List Byte :=
  (if d.isJoin p then tagBytes (d.get (R.PORT_JOIN_CFG_DEVIDX 0)) false true 0 1 else []) ++ ofpPacket { type := 7 } (timeBytes m)

/-- Pairs that carry no packet go out up to the next pair of the slot-0 lane (R122). -/
def toSlotZero (p : Nat) (d : Dev) : Dev :=
  let w := max 1 (d.width p)
  Dev.each (List.range ((w - (d.link p).nextLane % w) % w)) (fun _ => sendIdle p ackAck) d

/-- TIME_EXCHANGE_SEND (R122, R413, R418): one message a turn, and no more, on each up OFP port with TSEN, in the next pair of the slot-0 lane
while no packet is in progress, from word 0 of flit 0 on. It is not forwarded and takes no credit. -/
def timeExchangeSend (p : PortNo) (d : Dev) : Dev :=
  if d.isOfp p.val && d.isUp p.val && d.on (R.PORT_PCTL_TSEN p.val) && !(d.link p.val).exchanged && (d.link p.val).tx.isNone &&
      decide (0 < retryRoom d p.val) then
    let d := toSlotZero p.val d
    let bs := timePacket d p.val (advertise (d.now + txCorr d p.val) (d.link p.val).echo d)
    (Dev.each (pairGroups bs) (fun f => sequencePair p.val 0 0 f []) d).modLink p.val (fun l => { l with exchanged := true })
  else d

def execTimeExchangeSend (p : PortNo) (s : State) : Host.Outcome State Fault Refusal :=
  onDev (Dev.whenTurning (timeExchangeSend p)) s

/-- An input is lost (R416). -/
def loseInput (input : Nat) (d : Dev) : Dev :=
  { d with time := { d.time with inputs := SMap.del d.time.inputs input } }

/-- Turns without a sample after which an input is lost: LOSSO, or 8 × LOSSH for haul; 0 acts as 1. -/
def lossTurns (d : Dev) (input : Nat) : Nat :=
  if input < 1024 then max 1 (d.get R.TIME_HOLD_LOSSO) else 8 * max 1 (d.get R.TIME_HOLD_LOSSH)

/-- TIME_INPUT_LOSS (R416): no sample has been accepted from the input for its limit. -/
def timeInputLoss (input : Fin 1152) (d : Dev) : Dev :=
  match SMap.get? d.time.inputs input.val with
  | none => d
  | some i => if i.lastTurn + lossTurns d input.val ≤ d.turn then loseInput input.val d else d

def execTimeInputLoss (input : Fin 1152) (s : State) : Host.Outcome State Fault Refusal :=
  onDev (Dev.whenApplied (timeInputLoss input)) s

/-! ### Root and parent (R417) -/

/-- Lexicographic order of lists of keys. -/
def lexLt : List Nat → List Nat → Bool
  | [], [] => false
  | [], _ => true
  | _, [] => false
  | a :: x, b :: y => decide (a < b) || (a == b && lexLt x y)

/-- (PRIO, ROOT), then DIST, then OFP before haul, then the input's number. -/
def inputKey (i : Nat × TimeInput) : List Nat :=
  [i.2.prio.toNat, i.2.root.toNat, i.2.dist.toNat, b2n (decide (1024 ≤ i.1)), i.1]

def bestInput (l : List (Nat × TimeInput)) : Option (Nat × TimeInput) :=
  l.foldl (fun b i => match b with
    | none => some i
    | some x => if lexLt (inputKey i) (inputKey x) then some i else some x) none

def isRootNow (d : Dev) : Bool :=
  d.on R.TIME_CFG_ROOTEN &&
    !d.time.inputs.any (fun i => lexLt [i.2.prio.toNat, i.2.root.toNat] [d.get R.TIME_CFG_PRIO, swid d])

/-- The parent after a boundary of a device that is not root (R417). -/
def nextParent (d : Dev) : Option (Nat × TimeInput) :=
  match (parentOf d).bind (fun p => (SMap.get? d.time.inputs p).map (fun i => (p, i))) with
  | none => bestInput d.time.inputs
  | some cur =>
    if d.time.inputs.any (fun i => lexLt ((inputKey i).take 3) ((inputKey cur).take 3)) then bestInput d.time.inputs
    else some cur

/-! ### The boundary update (R411, R419 to R424, R427) -/

/-- Median of a list of samples: the middle one, or the mean of the two middle ones toward −∞ (log 14). -/
def median (l : List Int) : Int :=
  let s := l.mergeSort (fun a b => decide (a ≤ b))
  let n := s.length
  if n % 2 = 1 then s.getD (n / 2) 0 else (s.getD (n / 2 - 1) 0 + s.getD (n / 2) 0) / 2

def stepThr (d : Dev) : Int := (d.get R.TIME_STEP_STEPTHR : Nat) * nsUnit
def stepN (d : Dev) : Nat := max 1 (d.get R.TIME_STEP_STEPN)
def maxPhase : Int := 28 * nsUnit

/-- What the boundary decides: mode, phase p, step, ADJ. -/
structure ServoOut where
  mode : Nat
  p : Int
  step : Int
  adj : Int

/-- A step of T is counted, shown and reported (R424, R430). -/
def noteStep (parent : Nat) (d : Dev) : Dev :=
  raiseCE blkTime 3 parent ((d.set R.TIME_STATUS_STEPEVT 1).bump (R.TIME_CNT_COUNT 3))

/-- The servo's rate and phase for one sample (R420). -/
def servoStep (d : Dev) (o : Int) (delta : Int) : Int × Int :=
  let kp := d.get R.TIME_SERVO_KPSH
  let ki := d.get R.TIME_SERVO_KISH
  (clampI (o / 2 ^ kp) (-maxPhase) maxPhase,
   clampI (d.time.adj + o * 2 ^ 40 / (delta * nsUnit) / 2 ^ ki) (-(2 ^ 31 - 1)) (2 ^ 31 - 1))

/-- Nanoseconds since the previous sample used; 2,048 for an OFP parent and for a first sample (R420, log 14). -/
def deltaNs (d : Dev) (input : Nat) (t4 : Int) : Int :=
  match d.time.lastUsed with
  | none => 2048
  | some t => if input < 1024 then 2048 else max 1 ((t4 - t) / nsUnit)

/-- Append an ADJ value made in MODE 1 and show the mean of the last 64 (R420). -/
def noteAdj (adj : Int) (d : Dev) : Dev :=
  let h := (d.time.adjHist ++ [adj]).drop (d.time.adjHist.length + 1 - 64)
  { d.wr R.TIME_ADJAVG (BitVec.ofNat 32 (unsigned 32 (h.foldl (· + ·) 0 / h.length))) with time := { d.time with adjHist := h } }

/-- Enter holdover (R423). -/
def enterHoldover (cause : Nat) (d : Dev) : Dev :=
  let d := raiseCE blkTime 2 cause (((setMode 2 d).set R.TIME_STATUS_HCAUSE cause).bump (R.TIME_CNT_COUNT 4))
  { d with time := { d.time with adj := signed 32 (d.rd R.TIME_ADJAVG).toNat, holdFrom := some d.turn, samples := [],
                                 stepped := false, lockRun := 0 } }

/-- Take the parent's sample, where it has an unused one, and show it (R420, R430). -/
def takeSample (input : Nat) (d : Dev) : Option TimeInput × Dev :=
  match SMap.get? d.time.inputs input with
  | none => (none, d)
  | some i =>
    if !i.fresh then (none, d)
    else
      let d := (d.wr R.TIME_OFFSET (BitVec.ofNat 32 (unsigned 32 (i.offset / 256)))).wr R.TIME_DELAY
        (BitVec.ofNat 32 (unsigned 32 (i.delay / 256)))
      (some i, { d with time := { d.time with
        inputs := SMap.put d.time.inputs input { i with fresh := false }, lastUsed := some i.t4 } })

/-- The servo with a parent (R420 to R424). Answers the phase and the step for this boundary. -/
def servo (parent : Nat) (d : Dev) : Int × Int × Dev :=
  let delta (i : TimeInput) := deltaNs d parent i.t4
  let r := takeSample parent d
  match r.1 with
  | none => (0, 0, r.2)
  | some i =>
    let d := r.2
    let o := i.offset
    match tmode d with
    | 1 =>
      if stepThr d < absI o then (0, 0, enterHoldover 4 d)
      else
        let q := servoStep d o (delta i)
        (q.1, 0, noteAdj q.2 { d with time := { d.time with adj := q.2 } })
    | 2 =>
      let s := d.time.samples ++ [o]
      if s.length < stepN d then (0, 0, { d with time := { d.time with samples := s } })
      else
        let est := median s
        let d := setMode 1 { d with time := { d.time with samples := [], holdFrom := none } }
        if absI est ≤ stepThr d then (0, 0, d)
        else (0, est, noteStep parent { d with time := { d.time with realignNext := true } })
    | _ =>
      if !d.time.stepped then
        let s := d.time.samples ++ [o]
        if s.length < stepN d then (0, 0, { d with time := { d.time with samples := s } })
        else (0, median s, noteStep parent { d with time := { d.time with samples := [], stepped := true, lockRun := 0 } })
      else
        let q := servoStep d o (delta i)
        let run := if absI o ≤ (d.get R.TIME_SERVO_LOCKTOL : Nat) * nsUnit then d.time.lockRun + 1 else 0
        let d := { d with time := { d.time with adj := q.2, lockRun := run } }
        if max 1 (d.get R.TIME_SERVO_LOCKN) ≤ run then
          (q.1, 0, setMode 1 { d with time := { d.time with realignNext := true } })
        else (q.1, 0, d)

/-- Mode of a root (R419); first lock moves the grid (R79). -/
def rootMode (d : Dev) : Dev :=
  let old := tmode d
  let m := if !d.on R.TIME_CFG_SRC then 1 else if d.on R.TIME_CTL_SWLOCK then 1 else if d.time.swlockSeen then 2 else 0
  let d := { d with time := { d.time with
    swlockSeen := d.time.swlockSeen || (d.on R.TIME_CFG_SRC && d.on R.TIME_CTL_SWLOCK)
    realignNext := d.time.realignNext || (old == 0 && m == 1) } }
  setMode m d

/-- Software steering (R427), taken at a boundary by a root: SETGO, then SLEWGO, then ADJGO. Answers the phase. -/
def steer (d : Dev) : Int × Option Int × Dev :=
  let set := d.on R.TIME_CTL_SETGO
  let slew := d.on R.TIME_CTL_SLEWGO
  let adj := d.on R.TIME_CTL_ADJGO
  let newT := if set then some (((d.rd64 R.TIME_SET_SEC : Nat) : Int) * secUnit + (d.get R.TIME_SET_NS_NS : Nat) * nsUnit) else none
  let d := if set then { (d.bump (R.TIME_CNT_COUNT 3)).set R.TIME_STATUS_STEPEVT 1 with
    time := { d.time with realignNext := true } } else d
  let d := if slew then { d with time := { d.time with
    slewLeft := d.time.slewLeft + 256 * signed 32 (d.rd R.TIME_STEER_PH).toNat } } else d
  let d := if adj then { d with time := { d.time with adj := signed 32 (d.rd R.TIME_STEER_ADJ).toNat } } else d
  let p := clampI d.time.slewLeft (-maxPhase) maxPhase
  let d := { d with time := { d.time with slewLeft := d.time.slewLeft - p } }
  (p, newT, ((d.set R.TIME_CTL_SETGO 0).set R.TIME_CTL_SLEWGO 0).set R.TIME_CTL_ADJGO 0)

/-- BASE_RAW, BASE_T and ADJ take their values for the next turn in one tick (R411). -/
def rebase (t : Int) (d : Dev) : Dev := { d with time := { d.time with baseRaw := d.time.raw, baseT := t } }

/-- The clepsydra's work at a boundary (R411, R417 to R424, R427). -/
def timeBoundary (d : Dev) : Dev :=
  let now := d.now
  let wasRoot := d.on R.TIME_STATUS_ISROOT
  let oldParent := parentOf d
  let oldRoot := (d.rd R.TIME_ROOTID).toNat
  if isRootNow d then
    let d := rootMode d
    let d := (((d.set R.TIME_STATUS_ISROOT 1).set R.TIME_STATUS_PARENT 0x7FF).set R.TIME_STATUS_DIST 0).set R.TIME_STATUS_REMEAS 0
    let d := d.wr R.TIME_ROOTID (BitVec.ofNat 32 (swid d))
    let r := steer d
    rebase (match r.2.1 with | some t => t + r.1 | none => now + r.1) r.2.2
  else
    let np := nextParent d
    let d := d.set R.TIME_STATUS_ISROOT 0
    let newRoot := match np with | some i => i.2.root.toNat | none => oldRoot
    let cause :=
      if oldParent.any (fun p => !SMap.has d.time.inputs p) then 1
      else if oldParent.isSome && (np.map (·.1)) != oldParent then 2
      else if wasRoot || (oldRoot != 0 && newRoot != oldRoot) then 3 else 0
    let d := if (np.map (·.1)) != oldParent then { d with time := { d.time with samples := [], stepped := false, lockRun := 0, lastUsed := none } } else d
    let d := match np with
      | some i =>
        let d := { d with time := { d.time with rootPrio := i.2.prio } }
        ((d.set R.TIME_STATUS_PARENT i.1).set R.TIME_STATUS_DIST (i.2.dist.toNat + 1)).wr R.TIME_ROOTID i.2.root
      | none =>
        let d := d.set R.TIME_STATUS_PARENT 0x7FF
        if tmode d = 0 then (d.wr R.TIME_ROOTID 0).set R.TIME_STATUS_DIST 0 else d
    let d := if cause ≠ 0 && (tmode d == 1 || (tmode d == 2 && wasRoot)) then enterHoldover cause d else d
    let r := match np with
      | some i => if cause ≠ 0 then (0, 0, d) else servo i.1 d
      | none => (0, 0, d)
    let d := r.2.2
    let d := d.set R.TIME_STATUS_REMEAS (b2n (tmode d == 2 && np.isSome))
    rebase (now + r.1 + r.2.1) d

/-- HOLDOVER_EXPIRY (R80, R425): HOLDMAX × 1,024 turns after entry the device enters MODE 0 and keeps ADJ. -/
def holdoverExpiry (d : Dev) : Dev :=
  let h := d.get R.TIME_HOLD_HOLDMAX
  match d.time.holdFrom with
  | none => d
  | some t0 =>
    if tmode d == 2 && h != 0 && decide (t0 + 1024 * h ≤ d.turn) then
      let d := raiseCE blkTime 4 0 ((setMode 0 d).set R.TIME_STATUS_REMEAS 0)
      { d with time := { d.time with holdFrom := none, samples := [], stepped := false, lockRun := 0 } }
    else d

def execHoldoverExpiry (s : State) : Host.Outcome State Fault Refusal := onDev (Dev.whenApplied holdoverExpiry) s

/-! ### Snapshot and steering writes (R412, R427) -/

/-- TIME_SNAPSHOT (R412): RAW, BASE_RAW, BASE_T, ADJ and T are latched from one tick. -/
def timeSnapshot (w : CsrW) (d : Dev) : Dev :=
  let d := writeOwn RF.TIME_SNAP R.TIME_SNAP w d
  if !wOn w R.TIME_SNAP_GO then d
  else
    let t := d.now
    let b := d.time.baseT
    let d := ((d.wr64 R.TIME_SNAP_RAW d.time.raw).wr64 R.TIME_SNAP_BRAW d.time.baseRaw).wr64 R.TIME_SNAP_BSEC (secOf b)
    let d := ((d.wr R.TIME_SNAP_BNS (BitVec.ofNat 32 (nsOf b))).wr R.TIME_SNAP_BFRAC (BitVec.ofNat 32 (fracOf b))).wr
      R.TIME_SNAP_ADJ (BitVec.ofNat 32 (unsigned 32 d.time.adj))
    let d := ((d.wr64 R.TIME_SNAP_TSEC (secOf t)).wr R.TIME_SNAP_TNS (BitVec.ofNat 32 (nsOf t))).wr R.TIME_SNAP_TFRAC
      (BitVec.ofNat 32 (fracOf t))
    d.set R.TIME_SNAP_GO 0

def execTimeSnapshot (w : CsrW) (s : State) : Host.Outcome State Fault Refusal := onDev (Dev.whenRunning (timeSnapshot w)) s

/-- A write of TIME_CTL (R427): while the device is not root the GO bits are ignored with a CE event; SWLOCK is written. -/
def timeCtl (w : CsrW) (d : Dev) : Dev :=
  let go := wOn w R.TIME_CTL_SETGO || wOn w R.TIME_CTL_SLEWGO || wOn w R.TIME_CTL_ADJGO
  let d' := writeOwn RF.TIME_CTL R.TIME_CTL w d
  if go && !d.on R.TIME_STATUS_ISROOT then
    refuseWrite R.TIME_CTL w.req w.val false
      (((d'.set R.TIME_CTL_SETGO (d.get R.TIME_CTL_SETGO)).set R.TIME_CTL_SLEWGO (d.get R.TIME_CTL_SLEWGO)).set R.TIME_CTL_ADJGO
        (d.get R.TIME_CTL_ADJGO))
  else d'

def execSetgo (w : CsrW) (s : State) : Host.Outcome State Fault Refusal := onDev (Dev.whenRunning (timeCtl w)) s
def execSlewgo (w : CsrW) (s : State) : Host.Outcome State Fault Refusal := onDev (Dev.whenRunning (timeCtl w)) s
def execAdjgo (w : CsrW) (s : State) : Host.Outcome State Fault Refusal := onDev (Dev.whenRunning (timeCtl w)) s

/-! ### Captures (R428) -/

def capsOf (d : Dev) (n : Nat) : List (Int × Bool) := SMap.getD d.time.caps n []

/-- The head of a capture FIFO and its COUNT show in the registers. -/
def showCaps (n : Nat) (l : List (Int × Bool)) (d : Dev) : Dev :=
  let d := { d with time := { d.time with caps := SMap.write d.time.caps n l [] } }
  let d := d.set (R.TIME_CAP_STAT_COUNT n) l.length
  match l with
  | [] => d
  | h :: _ => ((d.wr64 (R.TIME_CAP_SEC n) (secOf h.1)).set (R.TIME_CAP_NS_NS n) (nsOf h.1)).set (R.TIME_CAP_STAT_FRAC n)
      (fracOf h.1) |>.set (R.TIME_CAP_STAT_FALL n) (b2n h.2)

/-- TS_IN_EDGE (R428): T at the edge, in sixteenths of 0.8 ns, which are 50 ps. -/
def tsInEdge (n : Fin 8) (falling : Bool) (sub : Fin 16) (d : Dev) : Dev :=
  let e := d.get (R.TIME_CAP_CFG_EDGE n.val)
  let wanted := if falling then e == 2 || e == 3 else e == 1 || e == 3
  let t := timeAt d.time (16 * d.time.raw + sub.val)
  let near := match SMap.get? d.time.lastEdge n.val with | some x => decide (absI (t - x) < 4 * nsUnit) | none => false
  if !wanted || near then d
  else
    let d := { d with time := { d.time with lastEdge := SMap.put d.time.lastEdge n.val t } }
    if 16 ≤ (capsOf d n.val).length then (d.set (R.TIME_CAP_STAT_OVF n.val) 1).bump (R.TIME_CNT_COUNT 5)
    else showCaps n.val (capsOf d n.val ++ [(t, falling)]) d

def execTsInEdge (n : Fin 8) (falling : Bool) (sub : Fin 16) (s : State) : Host.Outcome State Fault Refusal :=
  onDev (Dev.whenRunning (tsInEdge n falling sub)) s

/-- CAPTURE_POP (R428, R430): POP removes the head; OVF is W1C. -/
def capturePop (n : Fin 8) (w : CsrW) (d : Dev) : Dev :=
  let d := writeOwn RF.TIME_CAP_STAT (R.TIME_CAP_STAT n.val) w d
  if wOn w (R.TIME_CAP_STAT_POP n.val) then showCaps n.val ((capsOf d n.val).drop 1) (d.set (R.TIME_CAP_STAT_POP n.val) 0) else d

def execCapturePop (n : Fin 8) (w : CsrW) (s : State) : Host.Outcome State Fault Refusal :=
  onDev (Dev.whenRunning (capturePop n w)) s

/-! ### Pulse outputs (R429) -/

/-- Period in 2^-16 ns: PERIOD ms, 0 and values above 1,000 acting as 1,000. -/
def ppsPeriod (d : Dev) (k : Nat) : Int :=
  let p := d.get (R.TIME_PPS_CFG_PERIOD k)
  ((if p = 0 ∨ 1000 < p then 1000 else p : Nat) : Int) * 1000000 * nsUnit

/-- The latest instant n × PERIOD + PHASE at or before T. -/
def ppsInstant (d : Dev) (k : Nat) : Int :=
  let ph := signed 32 (d.rd (R.TIME_PPS_PHASE k)).toNat * nsUnit
  (d.now - ph) / ppsPeriod d k * ppsPeriod d k + ph

def ppsOf (d : Dev) (k : Nat) : Option (Bool × Int) := SMap.get? d.time.pps k

def setPps (k : Fin 2) (v : Bool × Int) (d : Dev) : Dev :=
  ({ d with time := { d.time with pps := SMap.put d.time.pps k.val v } }).emit (.pps k v.1)

/-- PPS_RISE (R429): the output rises at an instant not emitted before; it is held low in MODE 0 unless ONFREE is 1. -/
def ppsRise (k : Fin 2) (d : Dev) : Dev :=
  let inst := ppsInstant d k.val
  let again := match ppsOf d k.val with | some x => decide (inst ≤ x.2) || x.1 | none => false
  if d.on (R.TIME_PPS_CFG_EN k.val) && (tmode d != 0 || d.on (R.TIME_PPS_CFG_ONFREE k.val)) && !again then
    setPps k (true, inst) d
  else d

def execPpsRise (k : Fin 2) (s : State) : Host.Outcome State Fault Refusal := onDev (Dev.whenApplied (ppsRise k)) s

/-- PPS_FALL (R429): a pulse in progress ends. -/
def ppsFall (k : Fin 2) (d : Dev) : Dev :=
  match ppsOf d k.val with
  | some (true, x) => setPps k (false, x) d
  | _ => d

def execPpsFall (k : Fin 2) (s : State) : Host.Outcome State Fault Refusal := onDev (Dev.whenApplied (ppsFall k)) s

end Sys2Proof.Machine
end

