-- ==== Sys2Proof/Machine/Sample.lean ====
section
/-! DEFINITION. Packet samplers (R467 to R469) and what every drop of a packet counts (R454, R456, R469). -/

namespace Sys2Proof.Machine

/-- What a sampler sees of a packet at a point. -/
structure Sight where
  point : Nat
  outPort : Option Nat := none
  marked : Bool := false
  dropSrc : Nat := 0
  dropIdx : Nat := 0
  qdepth : Nat := 0

/-- Ingress port of a packet: INPORT of its join tag, or its port (R41). -/
def Pkt.inLabel (p : Pkt) : Nat := p.inport.val

/-- VC, ECN, DST, JOB and GEN of a packet, zero where it has none. -/
def Pkt.vc (p : Pkt) : Nat := if p.ofp then (ofpHdr p.bytes).vc else 0
def Pkt.ecn (p : Pkt) : Nat := if p.ofp then (ofpHdr p.bytes).ecn else (parseEth p.bytes).ecn
def Pkt.dst (p : Pkt) : Nat := if p.ofp then (ofpHdr p.bytes).dst else 0
def Pkt.jobId (p : Pkt) : Nat := if p.ofp then (ofpHdr p.bytes).job else 0
def Pkt.gen (p : Pkt) : Nat := if p.ofp then (ofpHdr p.bytes).gen else 0

/-- Size of a packet (R160): from LEN, or the bytes of the frame. -/
def Pkt.size (p : Pkt) : Nat := if p.ofp then 36 + (ofpHdr p.bytes).len else p.bytes.length

def Sampler.init : Sampler := ⟨0, 0, 0, 0, 1⟩
def sampler (d : Dev) (n : Nat) : Sampler := SMap.getD d.gauge.samplers n Sampler.init
def setSampler (n : Nat) (x : Sampler) (d : Dev) : Dev :=
  { d with gauge := { d.gauge with samplers := SMap.write d.gauge.samplers n x Sampler.init } }

def smpRing : RingRef :=
  ⟨R.GAUGE_SRING_BASE, R.GAUGE_SRING_CFG_LOG2SIZE, R.GAUGE_SRING_CFG_EN, R.GAUGE_SRING_HEAD_HEAD, R.GAUGE_SRING_TAIL_TAIL, 192, 6, 16⟩

/-- The record of R469. -/
def sampleBytes (n : Nat) (p : Pkt) (x : Sight) (skipped sseq : Nat) (now : Int) : List Byte :=
  let cap := if x.point == 3 && p.spilled then 0 else min 128 p.bytes.length
  leBytes 1 (n + 32 * x.point) ++ leBytes 1 (p.tc.val + 8 * p.vc + 16 * p.ecn + 64 * b2n x.marked + 128 * b2n (x.point == 2 && p.spilled)) ++
  leBytes 2 p.inLabel ++ leBytes 2 (match x.outPort with | some o => o | none => 0x3FF) ++ leBytes 1 x.dropSrc ++ leBytes 1 x.dropIdx ++
  leBytes 2 (match p.job with | some j => j.val | none => 0) ++ leBytes 2 p.jobId ++ leBytes 1 p.gen ++ leBytes 1 cap ++
  leBytes 2 (match p.fset with | some f => f.val | none => 0) ++ leBytes 4 p.result.toNat ++ leBytes 4 x.qdepth ++ leBytes 4 p.size ++
  leBytes 4 skipped ++ leBytes 4 sseq ++ leBytes 6 (secOf now) ++ leBytes 4 (nsOf now) ++ leBytes 2 (fracOf now) ++ zeros 16 ++
  padTo (p.bytes.take cap) 128

/-- The packet matches sampler n (R467). -/
def sampleMatch (n : Nat) (p : Pkt) (x : Sight) (d : Dev) : Bool :=
  let port := if x.point = 2 then (match x.outPort with | some o => o | none => 0x3FF) else p.inLabel
  d.get (R.GAUGE_SMP_A_POINT n) == x.point && bitAt (d.get (R.GAUGE_SMP_A_TCMASK n)) p.tc.val &&
  (d.on (R.GAUGE_SMP_A_ANYPORT n) || d.get (R.GAUGE_SMP_A_PORT n) == port) &&
  (d.on (R.GAUGE_SMP_C_ANYJOB n) || p.job.any (fun j => j.val == d.get (R.GAUGE_SMP_C_JIDX n))) &&
  (x.point != 3 || bitAt (d.get (R.GAUGE_SMP_C_DROPMASK n)) x.dropSrc)

/-- One sampler and one packet: count the match, choose, and write the record within the limits (R467, R468). -/
def sampleOne (p : Pkt) (x : Sight) (n : Nat) (d : Dev) : Dev :=
  if !sampleMatch n p x d then d
  else
    let m := sampler d n
    let rate := max 1 (d.get (R.GAUGE_SMP_B_RATE n))
    let rnd := lfsrSteps 24 m.lfsr.toNat
    let random := d.on (R.GAUGE_SMP_A_RANDOM n)
    let take := if random then decide (rnd % 2 ^ 24 < 2 ^ 24 / rate) else decide (rate ≤ m.matches_ + 1)
    let m := { m with matches_ := if take then 0 else m.matches_ + 1, lfsr := if random then BitVec.ofNat 32 rnd else m.lfsr }
    let miss := setSampler n { m with skipped := m.skipped + 1 } d
    if !take then miss
    else if d.get (R.GAUGE_SMP_B_MAXPT n) ≤ m.thisTurn || decide (1024 ≤ d.gauge.samplesThisTurn) then
      miss.bump (R.GAUGE_SMP_CNT_COUNT 2)
    else if !d.ringOn smpRing || d.ringFull smpRing then miss.bump (R.GAUGE_SMP_CNT_COUNT 1)
    else
      let d := d.ringPush smpRing (sampleBytes n p x m.skipped m.sseq d.now)
      let d := setSampler n { m with skipped := 0, thisTurn := m.thisTurn + 1, sseq := (m.sseq + 1) % 2 ^ 32 } d
      { d with gauge := { d.gauge with samplesThisTurn := d.gauge.samplesThisTurn + 1 } }.bump (R.GAUGE_SMP_CNT_COUNT 0)

/-- Every sampler sees a packet at a point. -/
def sample (p : Pkt) (x : Sight) (d : Dev) : Dev := Dev.each (List.range 32) (sampleOne p x) d

/-! ### Drops -/

/-- A received packet is dropped before admission, or a stored one before it is sent, charged to its ingress port: fixed counter 6,
SRC 3 and the samplers (R454, R456, R467). `src` and `idx` are DROPSRC and DROPIDX of R469. -/
def dropIn (p : Pkt) (src idx : Nat) (d : Dev) : Dev :=
  let d := match p.inPort with | some i => countPort i.val 6 d | none => d
  let d := countEvent ⟨3, 1, p.inLabel, some p.dst, src, 0⟩ d
  sample p { point := 3, dropSrc := src, dropIdx := idx } d

/-- A stored packet, or one copy of a multicast packet, for an egress port is dropped after admission (R454 counters 6 and 7). -/
def dropOut (port : Nat) (p : Pkt) (copy : Bool) (src idx : Nat) (d : Dev) : Dev :=
  dropIn (if copy then { p with inPort := none } else p) src idx (countPort port 7 d)

/-- Credits of a packet that is dropped before it holds a cell go back at once (R111). -/
def dropArrived (p : Pkt) (vc : BitVec 4) (credits src idx : Nat) (d : Dev) : Dev :=
  let d := match p.inPort with | some i => returnCredits i.val vc credits d | none => d
  dropIn p src idx d

end Sys2Proof.Machine
end

