-- ==== Sys2Proof/Machine/Spray.lean ====
section
/-! DEFINITION. The spray stage (R208 to R239): furrow sets, the choice of a member, levels and weights, imbalance checks, scheduled
mode, congestion maps (R470 to R473) and PATH_LOST answers (R231, R234). -/

namespace Sys2Proof.Machine

/-! ### Ports as forwarding sees them -/

/-- The haul link whose home port this is (R318). -/
def homeLink (d : Dev) (p : Nat) : Option Nat :=
  (List.range 64).find? (fun k => d.on (R.HAUL_LINK_CFG_EN k) && d.get (R.HAUL_LINK_PORTS_PORT0 k) == p)

/-- Step 0 of a bypass window has been taken on the port (R448). -/
def atStep0 (d : Dev) (p : Nat) : Bool := d.opt.windows.any (fun w => w.stage == 2 && w.ports.any (fun x => x.1.val == p))

/-- The port counts as up: a haul port by the link it is home to (R319), any other by its own state (R106). -/
def countsUp (d : Dev) (p : Nat) : Bool :=
  if d.isHaul p then (homeLink d p).any (fun k => d.get (R.HAUL_LINK_STAT_STATE k) != 0) else d.isUp p && !atStep0 d p

def inLoopback (d : Dev) (p : Nat) : Bool := d.get (R.PORT_PSTAT_STATE p) == 9

/-- A bypass window has taken the port out of every set, until it relocks (R448). -/
def outOfSets (d : Dev) (p : Nat) : Bool :=
  d.opt.windows.any (fun w => decide (0 < w.stage) && decide (w.stage < 4) && w.ports.any (fun x => x.1.val == p))

/-- The packet kind may leave by the port (R140): `enc` is ENC of a next hop, 0 without one; OFP in UDP while UDPPORT is not 0 (R124). -/
def roleOk (d : Dev) (ofp : Bool) (enc p : Nat) : Bool :=
  if ofp then d.isOfp p || ((d.isEth p || d.isHaul p) && (enc == 1 || (enc == 2 && d.get (R.PORT_OFPE_UDPPORT 0) != 0)))
  else d.isEth p || d.isHaul p || d.isJoin p

/-- Expected peer of a join port: its place among the ports of its group (R45). -/
def joinPeer (d : Dev) (p : Nat) : Nat :=
  let k := ((List.range (p % 16)).filter (fun s => bitAt (d.startBits (groupOf p)) s)).length
  d.get ⟨R.PORT_JOIN_PEER (groupOf p), 4 * k, 4⟩

/-- Both are join ports to the same neighbour (R209, R235). -/
def sameNeighbour (d : Dev) (a b : Nat) : Bool := d.isJoin a && d.isJoin b && joinPeer d a == joinPeer d b

/-! ### Furrow sets (R208, R209) -/

def setCount (d : Dev) (k : Nat) : Nat := d.get (R.SPRAY_SET_A_COUNT k)
def setBase (d : Dev) (k : Nat) : Nat := d.get (R.SPRAY_SET_A_BASE k)
def setValid (d : Dev) (k : Nat) : Bool := setCount d k != 0 && decide (setBase d k + setCount d k ≤ 131072)
def memberPort (d : Dev) (x : Nat) : Nat := d.get (R.SPRAY_MEMBER_PORT x)

/-- The circuit tag of entry x lets it take packets (R442). -/
def tagOk (d : Dev) (x : Nat) : Bool :=
  let t := d.get ⟨R.OPT_MTAG (x / 8), 4 * (x % 8), 4⟩
  t == 0 || d.get (R.OPT_PTAG_TAG (memberPort d x)) == t

/-- Entry x may take new packets, whatever the packet. -/
def memberLive (d : Dev) (x : Nat) : Bool :=
  d.on (R.SPRAY_MEMBER_VALID x) && d.get (R.SPRAY_MEMBER_WEIGHT x) != 0 && countsUp d (memberPort d x) &&
  !inLoopback d (memberPort d x) && !outOfSets d (memberPort d x) && tagOk d x

def eligible (d : Dev) (p : Pkt) (enc x : Nat) : Bool :=
  memberLive d x && roleOk d p.ofp enc (memberPort d x) &&
  !(match p.inPort with | some i => sameNeighbour d i.val (memberPort d x) | none => false)

/-- Members of a set as indices within it; none where the set is invalid. -/
def membersOf (d : Dev) (k : Nat) : List Nat := if setValid d k then List.range (setCount d k) else []

def effWeight (d : Dev) (x : Nat) : Nat := d.get (R.SPRAY_MEMBER_WEIGHT x) * (16 - d.get (R.SPRAY_PLVL_EFF (memberPort d x)))

/-- First use of a set that runs past the pool (R208). -/
def noteBadSet (k : Nat) (d : Dev) : Dev :=
  if setCount d k != 0 && decide (131072 < setBase d k + setCount d k) && !d.spray.badSeen.contains k then
    raiseCE blkSpray 2 k { d with spray := { d.spray with badSeen := d.spray.badSeen ++ [k] } }
  else d

/-! ### The choice (R212 to R216, R224) -/

/-- The first member whose cumulative weight exceeds x. -/
def cumulative (x : Nat) : List (Nat × Nat) → Option Nat
  | [] => none
  | (m, w) :: t => if x < w then some m else cumulative (x - w) t

/-- R212 over the eligible members, for a 12-byte head of the key. -/
def hashed (head : List Byte) (tail : List Byte) (salt k : Nat) (ms : List Nat) (d : Dev) : Option Nat :=
  let ws := ms.map (fun m => (m, effWeight d (setBase d k + m)))
  let total := (ws.map (·.2)).foldl (· + ·) 0
  let h := crc32c (head ++ beBytes 2 salt ++ beBytes 2 k ++ tail)
  cumulative (h / 65536 * total / 65536) ws

/-- MODE of a set (R213): the second candidate wins when its queue is shorter. -/
def byMode (head tail : List Byte) (k tc : Nat) (ms : List Nat) (d : Dev) : Option Nat :=
  let salt := d.get (R.SPRAY_SET_B_SALT k)
  let a := hashed head tail salt k ms d
  if d.get (R.SPRAY_SET_A_MODE k) ≠ 1 then a
  else
    let b := hashed head tail (Nat.xor salt 0xFFFF) k ms d
    match a, b with
    | some x, some y =>
      if d.depth (uniQ (memberPort d (setBase d k + y)) tc) < d.depth (uniQ (memberPort d (setBase d k + x)) tc) then b else a
    | _, _ => a

/-- Flow key of R215 for an Ethernet frame on VLAN vid with its VRF (the widths of its parts are a DESIGN CHOICE, log 16). -/
def flowKey (bs : List Byte) (vid vrf k : Nat) : List Byte :=
  let h := parseEth bs
  if h.ip = 0 || h.trunc then beBytes 2 vid ++ beBytes 6 h.sa ++ beBytes 6 h.da ++ beBytes 2 h.etype ++ beBytes 2 k
  else
    let n := if h.ip = 4 then 4 else 16
    let ports := if h.hasL4 then beBytes 2 h.sport ++ beBytes 2 h.dport else []
    beBytes 1 vrf ++ beBytes n h.src ++ beBytes n h.dst ++ beBytes 1 h.proto ++ ports ++ beBytes 2 k

/-- The packets of a TC are scheduled now (R224, R227). -/
def scheduled (d : Dev) (tc : Nat) : Bool :=
  bitAt (d.get R.SPRAY_SCHED_CFG_TCMASK) tc && (d.on R.SPRAY_SCHED_CFG_ACTIVE || !d.on R.SPRAY_SCHED_CFG_ONUNLOCK)

/-- The next eligible member from index i on, in pool order (R224), with whether it is a substitute. -/
def fromIndex (i n : Nat) (ok : Nat → Bool) : Option (Nat × Bool) :=
  (((List.range n).map (fun j => (i + j) % n)).find? ok).map (fun m => (m, m != i))

/-- 256 ns units of the flowlet clock (R215). -/
def flowNow (d : Dev) : Nat := d.time.raw / 320 % 2 ^ 20

/-- Pick a member of set k for a packet. `vid`, `vrf` and `pipe` are those of an Ethernet frame; `l23` holds on the L2 and L3
paths. Answers the index within the set. -/
def pick (p : Pkt) (enc vid vrf pipe : Nat) (l23 : Bool) (k : Nat) (d : Dev) : Option Nat × Dev :=
  let d := noteBadSet k d
  let base := setBase d k
  let ms := (membersOf d k).filter (fun m => eligible d p enc (base + m))
  if ms.isEmpty then (none, d)
  else if scheduled d p.tc.val then
    let r := d.draw
    let ent := if p.ofp then (ofpHdr p.bytes).entropy else r.1.toNat
    let d := if p.ofp then d else r.2
    match fromIndex ((ent + d.get R.SPRAY_SCHED_STAT_SLOT) % setCount d k) (setCount d k) (fun m => ms.contains m) with
    | some (m, sub) => (some m, if sub then d.bump (R.SPRAY_CNT_COUNT 7) else d)
    | none => (none, d)
  else if p.ofp then
    let h := ofpHdr p.bytes
    (byMode (beBytes 3 h.src ++ beBytes 3 h.dst ++ beBytes 2 h.entropy ++ beBytes 4 h.seq) [] k p.tc.val ms d, d)
  else
    let fh := crc32c (flowKey p.bytes vid vrf k)
    if l23 && bitAt (d.get R.SPRAY_CFG_FLOWTC) p.tc.val then
      let die := (match p.inPort with | some i => i.val / 128 | none => pipe / 16)
      let slot := 131072 * die + fh % 131072
      let gap := max 1 (d.get R.SPRAY_CFG_FLOWGAP)
      let now := flowNow d
      let write (m : Nat) (d : Dev) : Dev := { d with spray := { d.spray with flow := SMap.put d.spray.flow slot (m, now) } }
      let fresh (d : Dev) : Option Nat × Dev :=
        let c := byMode (beBytes 4 fh ++ beBytes 4 now) (zeros 4) k p.tc.val ms d
        (c, match c with | some m => write m d | none => d)
      match SMap.get? d.spray.flow slot with
      | none => fresh d
      | some e =>
        if gap < (now + 2 ^ 20 - e.2) % 2 ^ 20 then fresh d
        else if ms.contains e.1 then (some e.1, write e.1 d)
        else fresh (d.bump (R.SPRAY_CNT_COUNT 2))
    else
      let cnt := SMap.getD d.spray.pipeCnt pipe 0
      (byMode (beBytes 4 fh ++ beBytes 4 cnt) (zeros 4) k p.tc.val ms d, d)

/-- The spray decision (R210, R211): the set, then its ALTSET once. Answers the set used and the egress port. -/
def spray (p : Pkt) (enc vid vrf pipe : Nat) (l23 : Bool) (k : Nat) (d : Dev) : Option (Nat × Nat) × Dev :=
  let r := pick p enc vid vrf pipe l23 k d
  match r.1 with
  | some m => (some (k, memberPort r.2 (setBase r.2 k + m)), r.2)
  | none =>
    if r.2.on (R.SPRAY_SET_A_ALTEN k) then
      let a := r.2.get (R.SPRAY_SET_B_ALTSET k)
      let q := pick p enc vid vrf pipe l23 a (r.2.bump (R.SPRAY_CNT_COUNT 1))
      (q.1.map (fun m => (a, memberPort q.2 (setBase q.2 a + m))), q.2)
    else (none, r.2)

/-! ### PATH_LOST (R231, R234) -/

/-- A built packet with a number of its own. -/
def newPkt (bs : List Byte) (job : Option JobIdx) (d : Dev) : Pkt × Dev :=
  (builtPkt d.cist.nextId d.turn bs job, { d with cist := { d.cist with nextId := d.cist.nextId + 1 } })

/-- A discarded fence or fence copy is answered with STATUS 1, unless the FIFO of 4,096 acknowledgements is full. -/
def pathLost (p : Pkt) (d : Dev) : Dev :=
  let h := ofpHdr p.bytes
  if !p.ofp || h.type != 2 then d
  else if 4096 ≤ d.cist.fenceAcks.length then raiseCE blkSpray 7 0 (d.bump (R.SPRAY_CNT_COUNT 6))
  else
    let pl := patch (ofpPayload p.bytes) 7 [1]
    let r := newPkt (ofpPacket { type := 3, tc := h.tc, dst := h.src, src := d.get R.FWD_SELF_EID, job := h.job, gen := h.gen,
                                 seq := h.seq, entropy := h.entropy } pl) p.job d
    { r.2 with cist := { r.2.cist with fenceAcks := r.2.cist.fenceAcks ++ [r.1] } }.bump (R.SPRAY_CNT_COUNT 4)

/-! ### Levels (R217 to R219) -/

/-- EFF of a port from its local and remote levels. -/
def setLevels (p loc rem : Nat) (d : Dev) : Dev :=
  ((d.set (R.SPRAY_PLVL_LOCAL p) loc).set (R.SPRAY_PLVL_REMOTE p) rem).set (R.SPRAY_PLVL_EFF p) (max loc rem)

/-- New levels of one port at a boundary; `late`: class 0 overran, so LOCAL stays. -/
def portLevel (late : Bool) (p : Nat) (d : Dev) : Dev :=
  let pages := ((List.range 8).map (fun tc => d.depth (uniQ p tc))).foldl (· + ·) 0 / 64
  let l0 := min 15 (pages / max 1 (d.get R.SPRAY_GAUGE_CFG_LSTEP))
  let echoes := (d.ctr (4096 + 16 * p + 9)).1
  let inTurn := echoes - SMap.getD d.gauge.echoLast p 0
  let thr := d.get R.SPRAY_GAUGE_CFG_ECHOTHR
  let l1 := if thr != 0 && decide (thr ≤ inTurn) then max l0 (d.get R.SPRAY_GAUGE_CFG_ECHOLVL) else l0
  let old := d.get (R.SPRAY_PLVL_LOCAL p)
  let loc := if late then old else max l1 (old - max 1 (d.get R.SPRAY_GAUGE_CFG_DECAY))
  let ttl := d.get (R.SPRAY_RLVL_TTL p)
  let rem := if 1 < ttl then d.get (R.SPRAY_RLVL_LEVEL p) else 0
  let d := { d with gauge := { d.gauge with echoLast := SMap.write d.gauge.echoLast p echoes 0 } }
  setLevels p loc rem (d.set (R.SPRAY_RLVL_TTL p) (ttl - 1))

/-- REMOTE_LEVEL_EXPIRY (R218): a remote level whose TTL is 0 counts as 0. -/
def remoteLevelExpiry (p : Nat) (d : Dev) : Dev :=
  if d.get (R.SPRAY_RLVL_TTL p) = 0 then setLevels p (d.get (R.SPRAY_PLVL_LOCAL p)) 0 d else d

def execRemoteLevelExpiry (p : PortNo) (s : State) : Host.Outcome State Fault Refusal :=
  onDev (Dev.whenApplied (remoteLevelExpiry p.val)) s

/-! ### Imbalance checks (R221 to R223) -/

/-- A detection in set k whose eligible members have these levels (R222, R223). -/
def detect (k : Nat) (levels : List Nat) (d : Dev) : Dev :=
  let mode := d.get (R.SPRAY_SET_A_MODE k)
  let args := Config.imbalanceArgs mode levels
  let d := raiseCE blkSpray 3 k d args.1 args.2
  let d := d.bump R.SPRAY_ADV_EVT_DETECT
  let d := (d.set (R.SPRAY_SET_B_SALT k) (d.get (R.SPRAY_SET_B_SALT k) + 0x9E37)).set (R.SPRAY_IMB_IMBCNT k) 0
  let d := d.set (R.SPRAY_IMB_LASTDET k) d.turn
  let since := SMap.get? d.spray.sinceDet k
  let esc := d.on R.SPRAY_ADV_CFG_ESCALATE && mode == 0 && since.any (fun n => decide (n ≤ d.get R.SPRAY_ADV_WIN_ESCWIN))
  let d := { d with spray := { d.spray with detections := d.spray.detections ++ [(false, k)], sinceDet := SMap.put d.spray.sinceDet k 0 } }
  if esc then
    let d := ((d.set (R.SPRAY_SET_A_MODE k) 1).set (R.SPRAY_SET_B_ESCALATED k) 1).bump R.SPRAY_ADV_EVT_ESCAL
    raiseCE blkSpray 4 k { d with spray := { d.spray with detections := d.spray.detections ++ [(true, k)] } }
  else d

/-- One check of one set. -/
def checkSet (k : Nat) (d : Dev) : Dev :=
  let live := (membersOf d k).filter (fun m => memberLive d (setBase d k + m))
  if live.length < 2 then d
  else
    let effs := live.map (fun m => d.get (R.SPRAY_PLVL_EFF (memberPort d (setBase d k + m))))
    let hi := effs.foldl max 0
    let lo := effs.foldl min 15
    let d := match SMap.get? d.spray.sinceDet k with
      | some n => { d with spray := { d.spray with sinceDet := SMap.put d.spray.sinceDet k (n + 1) } }
      | none => d
    if max 2 (d.get R.SPRAY_ADV_CFG_SPREAD) ≤ hi - lo then
      let d := d.bump (R.SPRAY_IMB_IMBCNT k)
      if max 1 (d.get R.SPRAY_ADV_CFG_ADVTHR) ≤ d.get (R.SPRAY_IMB_IMBCNT k) then detect k effs d else d
    else d.drop (R.SPRAY_IMB_IMBCNT k)

/-- The 512 checks of a turn, in index order (R221). -/
def imbalanceChecks (d : Dev) : Dev :=
  let pos := d.spray.checkPos
  let d := Dev.each ((List.range 512).map (fun i => (pos + i) % 16384)) checkSet d
  let n := d.spray.visited.2 + 512
  let first := if 16384 < n then (pos + 512) % 16384 else d.spray.visited.1
  { d with spray := { d.spray with checkPos := (pos + 512) % 16384,
                                   visited := (if d.spray.visited.2 = 0 then pos else first, min 16384 n) } }

/-! ### Scheduled mode (R225 to R228) -/

/-- ACTIVE takes a new value with a CE event (R227). -/
def setActive (v : Bool) (d : Dev) : Dev :=
  if d.on R.SPRAY_SCHED_CFG_ACTIVE == v then d
  else raiseCE blkSpray 5 (b2n v) (d.set R.SPRAY_SCHED_CFG_ACTIVE (b2n v))

/-- Slot of a turn (R225). -/
def slotOf (d : Dev) (turn : Nat) : Nat :=
  let per : Int := (d.get R.SPRAY_SCHED_STAT_PERIOD + 1 : Nat)
  (((turn : Int) - d.spray.start) % per).toNat

/-- Grant of a port in a slot of the bank in force, in bytes; none for no limit (R225, R226). -/
def grantOf (d : Dev) (slot p : Nat) : Option Nat :=
  let b := d.get R.SPRAY_SCHED_CFG_BANK
  let g := d.get (if p % 2 = 0 then R.SPRAY_GRANT_G0 b slot (p / 2) else R.SPRAY_GRANT_G1 b slot (p / 2))
  if g = 0xFFF then none else some (256 * g)

/-- SCHEDULE_SWAP_REQUEST (R228, R238): SWAP sets PENDING, or is refused while PENDING = 1; a T0 that has passed is reported. -/
def scheduleSwapRequest (w : CsrW) (d : Dev) : Dev :=
  let was := d.on R.SPRAY_SCHED_CFG_PENDING
  let d := writeOwn RF.SPRAY_SCHED_CFG R.SPRAY_SCHED_CFG w d
  if !wOn w R.SPRAY_SCHED_CFG_SWAP then d
  else
    let d := d.set R.SPRAY_SCHED_CFG_SWAP 0
    if was then refuseWrite R.SPRAY_SCHED_CFG w.req w.val false d
    else
      let d := if d.rd64 R.SPRAY_SCHED_START ≤ d.turn then raiseCE blkSpray 6 0 d else d
      d.set R.SPRAY_SCHED_CFG_PENDING 1

def execScheduleSwapRequest (w : CsrW) (s : State) : Host.Outcome State Fault Refusal := onDev (Dev.whenRunning (scheduleSwapRequest w)) s

/-! ### Congestion maps (R470 to R473) -/

/-- Body of the port fragment. -/
def portBody (d : Dev) (dets : List (Bool × Nat)) : List Byte :=
  (List.range 1024).map (fun p => BitVec.ofNat 8 (16 * d.get (R.SPRAY_PLVL_LOCAL p) + d.get (R.SPRAY_PLVL_EFF p))) ++
  (List.range 128).map (fun b => BitVec.ofNat 8 (((List.range 8).map (fun k => if (d.link (8 * b + k)).flushed then 2 ^ k else 0)).foldl (· + ·) 0)) ++
  dets.flatMap (fun e => beBytes 2 (b2n e.1 * 32768 + e.2))

/-- Body of a set fragment (R473). -/
def setBody (d : Dev) (first n : Nat) : List Byte :=
  (List.range n).flatMap (fun i => beBytes 2 (d.get (R.SPRAY_IMB_IMBCNT (first + i)))) ++
  (List.range (divUp n 8)).map (fun b => BitVec.ofNat 8
    (((List.range 8).map (fun k => if 8 * b + k < n && d.on (R.SPRAY_SET_B_ESCALATED (first + 8 * b + k)) then 2 ^ k else 0)).foldl (· + ·) 0))

/-- A range of n sets from `first`, cut into fragments of at most 3,840. -/
def cutRange : Nat → Nat → Nat → List (Nat × Nat)
  | 0, _, _ => []
  | fuel + 1, first, n => if n = 0 then [] else (first, min n 3840) :: cutRange fuel (first + 3840) (n - 3840)

/-- Set fragments of the visited range; none crosses from 16,383 to 0 (R470). -/
def mapRanges (first n : Nat) : List (Nat × Nat) :=
  let a := min n (16384 - first)
  cutRange 5 first a ++ cutRange 5 0 (n - a)

/-- A fragment of a map is still unsent. -/
def mapUnsent (d : Dev) : Bool := d.cist.built.any (fun b => b.engine == 3 || b.engine == 6)

/-- CONGESTION_MAP (R220, R470, R471): at a boundary whose turn is a multiple of INT, the map is taken and its fragments are queued,
or skipped while another is being sent. -/
def congestionMap (d : Dev) : Dev :=
  let int := d.get R.SPRAY_MAP_CFG_INT
  let dest := d.get R.SPRAY_MAP_CFG_DEST
  if int = 0 || (dest != 1 && dest != 2) || d.turn % int != 0 || d.spray.mapTurn == some d.turn then d
  else
    let seq := d.spray.mapSeq
    let next (d : Dev) : Dev := { d with spray := { d.spray with mapSeq := (seq + 1) % 65536, mapTurn := some d.turn } }
    if mapUnsent d then next (d.bump (R.GAUGE_TEL_CNT_COUNT 2))
    else
      let dets := d.spray.detections
      let trunc := decide (3504 < dets.length)
      let rs := mapRanges d.spray.visited.1 d.spray.visited.2
      let nf := 1 + rs.length
      let sender := (d.rd (R.PORT_SWID 0)).toNat
      let head (fk : Nat) (tr : Bool) (frag first n : Nat) : List Byte := mapHeader fk false tr seq frag nf int d.turn sender first n
      let frag0 := head 0 trunc 0 0 (min 3504 dets.length) ++ portBody d (dets.take 3504)
      let frags := (List.range rs.length).map (fun i =>
        let r := rs.getD i (0, 0)
        head 1 false (i + 1) r.1 r.2 ++ setBody d r.1 r.2)
      let d := if trunc then d.bump (R.GAUGE_TEL_CNT_COUNT 3) else d
      let d := Dev.each (frag0 :: frags) (sendTelemetry 3) d
      next { d with spray := { d.spray with visited := (0, 0), detections := [], mapLate := false } }

def execCongestionMap (s : State) : Host.Outcome State Fault Refusal := onDev (Dev.whenTurning congestionMap) s

/-- At a boundary, fragments of a map still unsent go out late (R470). -/
def lateMap (d : Dev) : Dev :=
  if d.spray.mapLate || !mapUnsent d then d
  else
    let mark (b : Built) : Built :=
      if b.engine = 3 || b.engine = 6 then
        let pl := ofpPayload b.pkt.bytes
        let pl := patch pl 1 [BitVec.ofNat 8 (128 + beBits pl 1 1 6 0)]
        { b with pkt := { b.pkt with bytes := ofpPacket (ofpHdr b.pkt.bytes) pl } }
      else b
    { d with cist := { d.cist with built := d.cist.built.map mark }, spray := { d.spray with mapLate := true } }.bump (R.GAUGE_TEL_CNT_COUNT 1)

end Sys2Proof.Machine
end

