-- ==== Sys2Proof/Machine/Basin.lean ====
section
/-! DEFINITION. The basin (R240 to R268, R284 to R287) and the adds into delta regions (R353 to R355): groups, the claim of a packet,
slot admission, accumulation, the commit point, aborts, timeouts, emission, statuses and completion records. -/

namespace Sys2Proof.Machine

/-! ### Group entries (R240, R245) -/

def gGroup (e : List Byte) : Nat := beBits e 0 4 31 12
def gEpoch (e : List Byte) : Nat := beBits e 0 4 11 0
def gValid (e : List Byte) : Bool := beBits e 4 2 15 15 == 1
def gJidx (e : List Byte) : Nat := beBits e 4 2 11 0
def gOvflen (e : List Byte) : Bool := beBits e 6 1 7 7 == 1
def gDown (e : List Byte) : Nat := beBits e 6 1 6 5
def gRoot (e : List Byte) : Bool := beBits e 6 1 4 4 == 1
def gLevel (e : List Byte) : Nat := beBits e 6 1 3 0
def gFmt (e : List Byte) : Nat := beAt e 7 1
def gClog (e : List Byte) : Nat := beBits e 8 1 7 4
def gOp (e : List Byte) : Nat := beBits e 8 1 3 0
def gSparse (e : List Byte) : Bool := beBits e 9 1 7 7 == 1
def gPlog (e : List Byte) : Nat := beBits e 9 1 1 0
def gNmemb (e : List Byte) : Nat := beAt e 10 2
def gGquota (e : List Byte) : Nat := beAt e 12 2
def gOquota (e : List Byte) : Nat := beAt e 14 2
def gCtmo (e : List Byte) : Nat := beAt e 16 2
def gUpmember (e : List Byte) : Nat := beAt e 18 2
def gUpdst (e : List Byte) : Nat := beAt e 20 3
def gRdst (e : List Byte) : Nat := beAt e 24 3
def gDowngrp (e : List Byte) : Nat := beBits e 28 2 15 6
def gRtc (e : List Byte) : Nat := beBits e 28 2 5 3
def gRpipe (e : List Byte) : Nat := beBits e 30 1 6 0
def gCring (e : List Byte) : Bool := beBits e 31 1 0 0 == 1
def gReport (e : List Byte) : Bool := beBits e 31 1 1 1 == 1
def gRepeid (e : List Byte) : Nat := beAt e 32 3
def gScatbase (e : List Byte) : Nat := beAt e 36 2
def gNscat (e : List Byte) : Nat := if beAt e 38 2 = 0 then 65536 else beAt e 38 2
def gElems (e : List Byte) : Nat := beBits e 40 6 43 0

/-- CSIZE, PSIZE, CAPE, PELEM, NPIECE and S of R245; CAPE and PELEM also serve a sparse chunk (R284). -/
def csize (e : List Byte) : Nat := 2 ^ (12 + gClog e)
def psize (e : List Byte) : Nat := 2 ^ (10 + gPlog e)
def cape (e : List Byte) : Nat := csize e * 8 / fmtBits (gFmt e)
def pelem (e : List Byte) : Nat := psize e * 8 / fmtBits (gFmt e)
def npiece (e : List Byte) : Nat := csize e / psize e
def slotsOf (e : List Byte) : Nat := max 1 (divUp (cape e * 4) 65536)
/-- Key blocks of a chunk (R285). -/
def kblocksOf (e : List Byte) : Nat := if gSparse e then divUp (cape e) 4096 else 0

/-- The active entry that a GROUP maps to, with its index (R242). -/
def groupFor (grp : Nat) (d : Dev) : Option (Nat × List Byte) :=
  match SMap.get? d.basin.map grp with
  | none => none
  | some g =>
    match SMap.get? d.basin.groups g with
    | none => none
    | some e => if gValid e then some (g, e) else none

/-- What a packet is claimed as (R242). -/
inductive Claim where
  | contribution | down | abort
  deriving DecidableEq, Repr

def ckind (pl : List Byte) : Nat := beBits pl 0 1 7 6

/-- The entry and the row of R242 under which a packet of TYPE 1 or 10 is claimed. -/
def claimOf (bs : List Byte) (d : Dev) : Option (Nat × List Byte × Claim) :=
  let h := ofpHdr bs
  match groupFor h.group d with
  | none => none
  | some (g, e) =>
    if (h.type == 10) != gSparse e then none
    else match ckind (ofpPayload bs) with
      | 0 => if h.level = gLevel e then some (g, e, .contribution) else none
      | 1 => if h.level = gLevel e + 1 && !gRoot e then some (g, e, .down) else none
      | 2 => if h.level = gLevel e then some (g, e, .abort) else none
      | _ => none

/-- The check of R242 that a claimed packet of job index j fails: BASIN_CNT counter and STATUS. -/
def claimBad (h : OfpHdr) (j : Option JobIdx) (e : List Byte) : Option (Nat × Nat) :=
  if h.epoch ≠ gEpoch e then some (8, 6)
  else if (match j with | some x => x.val != gJidx e | none => true) || h.fmt != gFmt e || h.op != gOp e then some (9, 5)
  else none

/-! ### Contexts (R253) -/

def Ctx.tomb (c : Ctx) : Bool := c.st == .done || c.st == .aborted || c.st == .timedout

/-- The context of (group index, CHUNK), with its number. -/
def findCtx (g chunk : Nat) (d : Dev) : Option (Nat × Ctx) :=
  d.basin.ctx.find? (fun x => x.2.gidx.val == g && x.2.chunk.toNat == chunk)

def ctxSum (f : Ctx → Nat) (d : Dev) : Nat := (d.basin.ctx.map (fun x => f x.2)).foldl (· + ·) 0

/-- The status registers of R269 and R288 follow the contexts. -/
def showBasin (d : Dev) : Dev :=
  let c := ctxSum (fun x => if x.overflow then 0 else x.slots) d
  let o := ctxSum (fun x => if x.overflow then x.slots else 0) d
  let d := d.set R.BASIN_STAT_CFREE (d.get R.BASIN_CFG_SLOTS - c)
  let d := d.set R.BASIN_OVSTAT_OFREE (1024 * d.get R.BASIN_CFG_OVSLOTS - o)
  let d := d.set R.BASIN_SPARSE_STAT_KFREE (d.get R.BASIN_SPARSE_CFG_KBLOCKS - ctxSum (fun x => x.kblocks) d)
  let d := d.set R.BASIN_CTXSTAT_INUSE d.basin.ctx.length
  d.set R.BASIN_CTXSTAT_TOMB (d.basin.ctx.filter (fun x => x.2.tomb)).length

/-- Slots that job index j holds. -/
def showJuse (j : Nat) (d : Dev) : Dev :=
  d.set (R.BASIN_JUSE_SLOTS j) (ctxSum (fun x => if gJidx x.entry = j then x.slots else 0) d)

def putCtx (n : Nat) (c : Ctx) (d : Dev) : Dev :=
  showJuse (gJidx c.entry) (showBasin { d with basin := { d.basin with ctx := SMap.put d.basin.ctx n c } })

/-- The lowest context number that is free, below 32,768. -/
def freeCtx (d : Dev) : Option Nat :=
  if 32768 ≤ d.basin.ctx.length then none
  else some (d.basin.ctx.foldl (fun n x => if x.1 = n then n + 1 else n) 0)

/-- Basin lanes in service, and the lane that serves a context (R257, R488). -/
def lanesUp (d : Dev) : List Nat := (List.range 256).filter (fun l => !d.ras.basinOut.contains l)
def laneOf (g chunk : Nat) (d : Dev) : Nat :=
  let ls := lanesUp d
  ls.getD (Config.hash 9 g chunk % max 1 ls.length) 0

def laneGen (l : Nat) (d : Dev) : Nat := (SMap.getD d.basin.lfsr l 1).toNat
def setLaneGen (l g : Nat) (d : Dev) : Dev := { d with basin := { d.basin with lfsr := SMap.put d.basin.lfsr l (BitVec.ofNat 32 g) } }

/-- BASIN_ARITH_CNT counts. -/
def arith (cs : List Nat) (d : Dev) : Dev := Dev.each cs (fun r d => d.bump (R.BASIN_ARITH_CNT_COUNT r)) d

/-! ### Completion records and status packets (R266 to R268) -/

/-- The completion record of R267 of a context. -/
def ctxRecord (c : Ctx) (status : Nat) : List Byte :=
  let full := c.mcount.filter (fun m => decide (npiece c.entry ≤ (c.arrived.filter (fun a => a.1 == m.1)).length))
  let padded := c.mcount.filter (fun m => decide (m.2 < cape c.entry))
  beBytes 4 (gGroup c.entry * 4096 + gEpoch c.entry) ++ beBytes 4 c.chunk.toNat ++ beBytes 1 status ++
  beBytes 1 (gLevel c.entry * 16 + b2n c.overflow * 8) ++ beBytes 2 full.length ++ beBytes 4 (min 0xFFFFFFFF c.ovfl) ++
  beBytes 4 (min 0xFFFFFFFF c.dups) ++ beBytes 2 padded.length ++ beBytes 2 (slotsOf c.entry) ++ beBytes 8 c.markTurn

/-- A record where there is no context: zeros in every count. -/
def bareRecord (h : OfpHdr) (chunk status : Nat) : List Byte :=
  beBytes 4 (h.group * 4096 + h.epoch) ++ beBytes 4 chunk ++ beBytes 1 status ++ beBytes 1 (h.level * 16) ++ zeros 22

/-- The chunk header of R246. -/
def chunkHeader (kind : Nat) (poison : Bool) (piece member retry mcount status reason tag : Nat) : List Byte :=
  beBytes 1 (kind * 64 + b2n poison * 32) ++ beBytes 2 (piece * 64) ++ zeros 1 ++ beBytes 2 member ++ beBytes 2 retry ++
  beBytes 4 mcount ++ beBytes 1 status ++ beBytes 1 reason ++ beBytes 2 tag

/-- Queue a status packet in the FIFO of 4,096, or count it as dropped (R266). -/
def queueStatus (h : OfpHdr) (pl : List Byte) (job : Option JobIdx) (d : Dev) : Dev :=
  if 4096 ≤ d.basin.status.length then d.bump (R.BASIN_CNT_COUNT 12)
  else
    let r := newPkt (ofpPacket h pl) job d
    { r.2 with basin := { r.2.basin with status := r.2.basin.status ++ [r.1] } }

/-- Answer a packet (R266). `c`: its context; `chunk`: the CHUNK answered. -/
def answerAt (chunk : Nat) (bs : List Byte) (job : Option JobIdx) (status reason retry : Nat) (c : Option Ctx) (d : Dev) : Dev :=
  let h := ofpHdr bs
  let pl := ofpPayload bs
  let rec_ := match c with
    | some c => ctxRecord c status
    | none => bareRecord h chunk status
  queueStatus { type := h.type, tc := h.tc, dst := h.src, src := d.get R.FWD_SELF_EID, job := h.job, gen := h.gen, group := h.group,
                epoch := h.epoch, chunk := chunk, fmt := h.fmt, op := h.op, level := h.level, entropy := h.entropy }
    (chunkHeader 3 false 0 (beAt pl 4 2) retry 0 status reason (beAt pl 14 2) ++ rec_) job d

def answer (bs : List Byte) (job : Option JobIdx) (status : Nat) (c : Option Ctx) (d : Dev) : Dev :=
  answerAt (ofpHdr bs).chunk bs job status 0 0 c d

def cring : RingRef := ⟨R.BASIN_CRING_BASE, R.BASIN_CRING_CFG_LOG2SIZE, R.BASIN_CRING_CFG_EN, R.BASIN_CRING_HEAD_HEAD,
  R.BASIN_CRING_TAIL_TAIL, 32, 6, 20⟩

/-- JOB and GEN that the job table holds for an index. -/
def jobIdOf (j : Nat) (d : Dev) : Nat × Nat := (d.get (R.FWD_JOB_JOBID j), d.get (R.FWD_JOB_GEN j))

/-- The owning job's index, for a packet's charge (R530). -/
def jobIdxOf (j : Nat) : Option JobIdx := some (Fin.ofNat 4096 j)

/-- Reports of an outcome (R268): the completion ring and the status packet to REPEID. -/
def report (c : Ctx) (status : Nat) (d : Dev) : Dev :=
  let e := c.entry
  let r := ctxRecord c status
  let commit := status == 0 || status == 7
  let d := if status != 0 || gCring e then
      (if !d.ringOn cring then d
       else if d.ringFull cring then d.bump (R.BASIN_CNT_COUNT 14)
       else d.ringPush cring r)
    else d
  if !commit || gReport e then
    let jg := jobIdOf (gJidx e) d
    queueStatus { type := if gSparse e then 10 else 1, tc := gRtc e, dst := gRepeid e, src := d.get R.FWD_SELF_EID, job := jg.1,
                  gen := jg.2, group := gGroup e, epoch := gEpoch e, chunk := c.chunk.toNat, fmt := gFmt e, op := gOp e,
                  level := gLevel e, entropy := c.chunk.toNat % 65536 }
      (chunkHeader 3 false 0 0 0 0 status 0 0 ++ r) (jobIdxOf (gJidx e)) d
  else d

/-- A context ends as a tombstone: its slots are freed (R253, R262), and the outcome is reported. -/
def endCtx (n : Nat) (c : Ctx) (st : CtxState) (status : Nat) (d : Dev) : Dev :=
  let c' := { c with st := st, since := d.turn, slots := 0, places := [], kblocks := 0, acc := [], keys := [],
                     markTurn := if st = .done then c.markTurn else d.turn }
  report c' status (putCtx n c' d)

/-- A packet that takes no egress queue leaves the cistern (R162). -/
def consumePkt (p : Pkt) (d : Dev) : Dev := gxUpdate (freeCells p.cells p.headroom (discharge p d))

/-! ### Overflow (R250, R252) -/

/-- The OVFLCNT and COMMITS words of a group entry. -/
def setGroupWord (g off v : Nat) (d : Dev) : Dev :=
  match SMap.get? d.basin.groups g with
  | some e => { d with basin := { d.basin with groups := SMap.put d.basin.groups g (patch e off (beBytes 4 v)) } }
  | none => d

def groupWord (g off : Nat) (d : Dev) : Nat :=
  match SMap.get? d.basin.groups g with
  | some e => beAt e off 4
  | none => 0

/-- Overflow elements of a group (R252). -/
def overflowed (g n : Nat) (d : Dev) : Dev :=
  if n = 0 then d
  else
    let d := (setGroupWord g 56 (min 0xFFFFFFFF (groupWord g 56 d + n)) d).bump (R.BASIN_CNT_COUNT 10) n
    if d.basin.ovfSeen.contains g then d
    else raiseCE blkBasin 2 g { d with basin := { d.basin with ovfSeen := d.basin.ovfSeen ++ [g] } }

/-! ### Admission (R254) -/

/-- Slots of a kind that a group holds. -/
def groupSlots (g : Nat) (ov : Bool) (d : Dev) : Nat := ctxSum (fun x => if x.gidx.val = g && x.overflow == ov then x.slots else 0) d

/-- The decision of R254: overflow slots or not, or the REASON of a refusal. -/
def admitChunk (g : Nat) (e : List Byte) (d : Dev) : Except Nat (Nat × Bool) :=
  let s := slotsOf e
  let j := gJidx e
  let kb := decide (kblocksOf e ≤ d.get R.BASIN_SPARSE_STAT_KFREE)
  let gq := decide (groupSlots g false d + s ≤ gGquota e)
  let oq := decide (groupSlots g true d + s ≤ gOquota e)
  match freeCtx d with
  | none => .error 4
  | some n =>
    if d.get (R.BASIN_JQUOTA_SLOTS j) ≠ 0x3FFFF ∧ d.get (R.BASIN_JQUOTA_SLOTS j) < d.get (R.BASIN_JUSE_SLOTS j) + s then .error 2
    else if gq && kb && decide (s ≤ d.get R.BASIN_STAT_CFREE) then .ok (n, false)
    else if gOvflen e && oq && kb && decide (s ≤ d.get R.BASIN_OVSTAT_OFREE) then .ok (n, true)
    else .error (if !gq || (gOvflen e && !oq) then 1 else 3)

/-- The lowest n free overflow slots of partition 4 (R256; which ones a chunk gets is a DESIGN CHOICE, log 103). -/
def freePlaces (n : Nat) (d : Dev) : List Nat :=
  let used := d.basin.ctx.flatMap (fun x => x.2.places)
  ((List.range (n + used.length)).filter (fun k => !used.contains k)).take n

/-- A context without arrivals. -/
def newCtx (g chunk : Nat) (e : List Byte) (st : CtxState) (ov : Bool) (turn : Nat) : Ctx where
  gidx := Fin.ofNat 65536 g
  chunk := BitVec.ofNat 32 chunk
  entry := e
  st := st
  since := turn
  opened := turn
  overflow := ov
  places := []
  slots := if st = .opened then slotsOf e else 0
  kblocks := if st = .opened then kblocksOf e else 0
  arrived := []
  mcount := []
  acc := []
  keys := []
  ovfl := 0
  dups := 0
  poison := []
  markTurn := turn

/-! ### Accumulation (R257, R258, R286) -/

/-- Address of accumulator word i of an overflow chunk (R256): 16,384 words to a slot of 65 KiB, little-endian as R7 has memory. -/
def overflowAddr (c : Ctx) (i : Nat) (d : Dev) : Nat := d.partBase 4 + 66560 * c.places.getD (i / 16384) 0 + 4 * (i % 16384)

/-- An access to n accumulator words of an overflow chunk from word i on, within a slot (R256, R456). -/
def overflowLines (c : Ctx) (cls i n : Nat) (d : Dev) : Dev :=
  if c.overflow then countLines 1 (requester 2 (laneOf c.gidx.val c.chunk.toNat d)) cls 0 (overflowAddr c i d) (4 * n) d else d

/-- The accumulator words of an overflow chunk stand in its slots (R256). -/
def storeOverflow (c : Ctx) (rows : List Nat) (d : Dev) : Dev :=
  if !c.overflow then d
  else Dev.each rows (fun i d =>
    d.writeMem 1 (overflowAddr c i d) (leBytes 4 (SMap.getD c.acc i (BitVec.ofNat 32 (identity (gOp c.entry) (gFmt c.entry)))).toNat)) d

/-- The slots of an overflow chunk are claimed and cleared to the identity of OP (R254, R256). -/
def claimOverflow (c : Ctx) (d : Dev) : Ctx × Dev :=
  if !c.overflow then (c, d)
  else
    let c := { c with places := freePlaces c.slots d }
    let d := storeOverflow c (List.range (16384 * c.slots)) d
    (c, Dev.each (List.range c.slots) (fun k => overflowLines c 1 (16384 * k) 16384) d)

/-- Elements of a contribution, none where its length is not whole (R273, R274, R284). A sparse entry is a key and a value. -/
def elements (e : List Byte) (data : List Byte) : Option (List (Nat × Nat × List Nat)) :=
  let fmt := gFmt e
  if gSparse e then
    let w := 4 + fmtBits fmt / 8
    if data.length % w ≠ 0 then none
    else some ((List.range (data.length / w)).map (fun i => (beAt data (w * i) 4, plainIn fmt (beAt data (w * i + 4) (w - 4)), [])))
  else if isMx fmt then
    let w := if fmtCode fmt = 12 then 17 else 33
    if data.length % w ≠ 0 then none
    else some ((mxElems fmt data (data.length / w)).map (fun x => (0, x.1, x.2)))
  else if data.length % (fmtBits fmt / 8) ≠ 0 then none
  else some ((plainElems fmt data).map (fun x => (0, x.1, x.2)))

/-- Apply OP to accumulator word i. -/
def accumulate (i v : Nat) (c : Ctx) : Ctx × List Nat :=
  let op := gOp c.entry
  let fmt := gFmt c.entry
  let id := BitVec.ofNat 32 (identity op fmt)
  let r := applyOp op fmt (SMap.getD c.acc i id).toNat v
  ({ c with acc := SMap.write c.acc i (BitVec.ofNat 32 r.1) id }, r.2)

/-- Dense elements from index `base` on. -/
def addDense (base : Nat) (els : List (Nat × Nat × List Nat)) (c : Ctx) : Ctx × List Nat :=
  let r := els.foldl (fun (r : Ctx × List Nat × Nat) x =>
    let q := accumulate r.2.2 x.2.1 r.1
    (q.1, r.2.1 ++ x.2.2 ++ q.2, r.2.2 + 1)) (c, [], base)
  (r.1, r.2.1)

/-- Sparse entries in order (R284, R286), with the number that are overflow. -/
def addSparse (els : List (Nat × Nat × List Nat)) (c : Ctx) : Ctx × List Nat × Nat :=
  els.foldl (fun (r : Ctx × List Nat × Nat) x =>
    let c := r.1
    if x.1 = 0xFFFFFFFF then (c, r.2.1 ++ [6], r.2.2)
    else match c.keys.findIdx? (fun k => k.toNat == x.1) with
      | some row => let q := accumulate row x.2.1 c; (q.1, r.2.1 ++ q.2, r.2.2)
      | none =>
        if c.keys.length < cape c.entry && Config.insertFits 8 (c.keys.map (fun k => k.toNat)) x.1 then
          let q := accumulate c.keys.length x.2.1 { c with keys := c.keys ++ [BitVec.ofNat 32 x.1] }
          (q.1, r.2.1 ++ q.2, r.2.2)
        else (c, r.2.1 ++ [5], r.2.2 + 1)) (c, [], 0)

/-- Pieces of a member that its first packet marks as delivered (R249, R250). -/
def paddedPieces (e : List Byte) (mc : Nat) : List Nat :=
  (List.range (npiece e)).filter (fun k => decide (min mc (cape e) ≤ k * pelem e))

/-- The commit point (R258). -/
def commitAt (n : Nat) (c : Ctx) (d : Dev) : Dev :=
  if c.st == .opened && decide (gNmemb c.entry * npiece c.entry ≤ c.arrived.length) then
    let d := putCtx n { c with st := .emitting, since := d.turn, markTurn := d.turn } d
    let d := setGroupWord c.gidx.val 60 ((groupWord c.gidx.val 60 d + 1) % 2 ^ 32) d
    d.bump (R.BASIN_CNT_COUNT 3)
  else putCtx n c d

/-- A claimed packet is dropped and answered with BADARG. -/
def basinBad (p : Pkt) (c : Option Ctx) (d : Dev) : Dev := answer p.bytes p.job 5 c (d.bump (R.BASIN_CNT_COUNT 9))

/-- A contribution to a context that holds slots (R248 to R250, R257). -/
def contribute (n : Nat) (c : Ctx) (p : Pkt) (bad : Bool) (els : List (Nat × Nat × List Nat)) (d : Dev) : Dev :=
  let e := c.entry
  let pl := ofpPayload p.bytes
  let piece := beBits pl 1 2 15 6
  let m := beAt pl 4 2
  let mc := beAt pl 8 4
  let first := !c.mcount.any (fun x => x.1 == m)
  let pads := if first then paddedPieces e mc else []
  if c.arrived.contains (m, piece) then putCtx n { c with dups := c.dups + 1 } (d.bump (R.BASIN_CNT_COUNT 7))
  else
    let c := if first then { c with mcount := c.mcount ++ [(m, mc)], arrived := c.arrived ++ pads.map (fun k => (m, k)) } else c
    if pads.contains piece then commitAt n c d
    else
      let extra := els.length - pelem e
      let els := els.take (pelem e)
      let r := if gSparse e then addSparse els c else
        let q := addDense (piece * pelem e) els c
        (q.1, q.2, 0)
      let extra := extra + r.2.2
      let c := { r.1 with arrived := r.1.arrived ++ [(m, piece)], ovfl := r.1.ovfl + extra,
                          poison := if bad && !r.1.poison.contains piece then r.1.poison ++ [piece] else r.1.poison }
      let rows := if gSparse e then List.range c.keys.length else (List.range els.length).map (fun i => piece * pelem e + i)
      let d := if gSparse e then Dev.each rows (fun i => overflowLines c 2 i 1) d else overflowLines c 2 (piece * pelem e) els.length d
      commitAt n c (overflowed c.gidx.val extra (arith r.2.1 (storeOverflow c rows d)))

/-- What the lane does with a claimed contribution (R245, R248 to R258). -/
def takeContribution (p : Pkt) (g : Nat) (e : List Byte) (bad : Bool) (d : Dev) : Dev :=
  let h := ofpHdr p.bytes
  let pl := ofpPayload p.bytes
  let m := beAt pl 4 2
  let mc := beAt pl 8 4
  let piece := beBits pl 1 2 15 6
  let found := findCtx g h.chunk d
  let ge := match found with | some x => x.2.entry | none => e
  match found.filter (fun x => x.2.tomb) with
  | some x =>
    answer p.bytes p.job (match x.2.st with | .aborted => 3 | .timedout => 4 | _ => 2) (some x.2) (d.bump (R.BASIN_CNT_COUNT 11))
  | none =>
    if gElems ge ≤ h.chunk * cape ge || decide (gNmemb ge ≤ m) || decide (pl.length < 16)
        || found.any (fun x => x.2.mcount.any (fun y => y.1 == m && y.2 != mc)) then basinBad p (found.map (·.2)) d
    else match elements ge (pl.drop 16) with
      | none => basinBad p (found.map (·.2)) d
      | some els =>
        if npiece ge ≤ piece then
          let d := overflowed g els.length d
          match found with
          | some x => if x.2.st = .opened then putCtx x.1 { x.2 with ovfl := x.2.ovfl + els.length } d else d
          | none => d
        else match found with
          | some x => contribute x.1 x.2 p bad els d
          | none =>
            match admitChunk g e d with
            | .error reason =>
              answerAt h.chunk p.bytes p.job 1 reason (d.get R.BASIN_TIMING_RHINT) none (d.bump (R.BASIN_CNT_COUNT 2))
            | .ok (n, ov) =>
              let r := claimOverflow (newCtx g h.chunk e .opened ov d.turn) (d.bump (R.BASIN_CNT_COUNT (if ov then 1 else 0)))
              contribute n r.1 p bad els (putCtx n r.1 r.2)

/-- The claimed packet at the front, when it is of one kind and whole, leaves the cistern and is acted on. A packet whose entry no longer
claims it is dropped, and answered as R242 gives. -/
def basinTake (k : Claim) (f : Pkt → Nat → List Byte → Dev → Dev) (d : Dev) : Dev :=
  match d.cist.toBasin with
  | [] => d
  | p :: rest =>
    let kind := match ckind (ofpPayload p.bytes) with | 1 => Claim.down | 2 => .abort | _ => .contribution
    if !p.whole || kind != k then d
    else
      let d := consumePkt p { d with cist := { d.cist with toBasin := rest } }
      match claimOf p.bytes d with
      | none => d
      | some (g, e, _) =>
        match claimBad (ofpHdr p.bytes) p.job e with
        | some (r, st) => answer p.bytes p.job st none (d.bump (R.BASIN_CNT_COUNT r))
        | none => f p g e d

def execBasinContribution (uncorrectable : Bool) (s : State) : Host.Outcome State Fault Refusal :=
  onDev (Dev.whenApplied (basinTake .contribution (fun p g e => takeContribution p g e uncorrectable))) s

/-! ### Aborts (R262) -/

/-- The decision for one context or for none. Answers the STATUS and the context. -/
def decideAbort (g chunk : Nat) (e : Option (List Byte)) (d : Dev) : (Nat × Option Ctx) × Dev :=
  match findCtx g chunk d with
  | some (n, c) =>
    match c.st with
    | .opened =>
      let d := endCtx n c .aborted 3 (d.bump (R.BASIN_CNT_COUNT 4))
      ((3, SMap.get? d.basin.ctx n), d)
    | .aborted => ((3, some c), d)
    | .timedout => ((4, some c), d)
    | _ => ((2, some c), d.bump (R.BASIN_CNT_COUNT 5))
  | none =>
    match e, freeCtx d with
    | some e, some n =>
      let c := newCtx g chunk e .aborted false d.turn
      ((3, some c), report c 3 (putCtx n c d))
    | _, _ => ((3, none), d)

/-- An abort of every context of a group at an epoch. -/
def abortAll (g epoch : Nat) (d : Dev) : Dev :=
  Dev.each (d.basin.ctx.filter (fun x => x.2.gidx.val == g && gEpoch x.2.entry == epoch))
    (fun x d => (decideAbort g x.2.chunk.toNat none d).2) d

/-- Every open context of a group ends, aborted (R244) or timed out (R265). -/
def endOpen (g : Nat) (timeout : Bool) (d : Dev) : Dev :=
  Dev.each (d.basin.ctx.filter (fun x => x.2.gidx.val == g && x.2.st == .opened)) (fun x d =>
    if timeout then endCtx x.1 x.2 .timedout 4 (d.bump (R.BASIN_CNT_COUNT 6))
    else endCtx x.1 x.2 .aborted 3 (d.bump (R.BASIN_CNT_COUNT 4))) d

/-- A claimed abort request. -/
def takeAbort (p : Pkt) (g : Nat) (e : List Byte) (d : Dev) : Dev :=
  let h := ofpHdr p.bytes
  if beBits (ofpPayload p.bytes) 0 1 4 4 = 1 then answerAt 0xFFFFFFFF p.bytes p.job 3 0 0 none (abortAll g h.epoch d)
  else if gElems e ≤ h.chunk * cape e then basinBad p none d
  else
    let r := decideAbort g h.chunk (some e) d
    answer p.bytes p.job r.1.1 r.1.2 r.2

def execBasinAbortPacket (s : State) : Host.Outcome State Fault Refusal := onDev (Dev.whenApplied (basinTake .abort takeAbort)) s

/-- BASIN_ABORT (R262, R269): GO submits the abort of GIDX and BASIN_ABORT_CHUNK, or of the whole group at its current EPOCH. The
outcome goes to RESULT and GO clears. -/
def basinAbortWrite (w : CsrW) (d : Dev) : Dev :=
  let busy := d.on R.BASIN_ABORT_BUSY
  if wOn w R.BASIN_ABORT_GO && busy then refuseCsr R.BASIN_ABORT w d
  else
    let d := writeOwn RF.BASIN_ABORT R.BASIN_ABORT w d
    if !wOn w R.BASIN_ABORT_GO then d
    else
      let g := wBits w R.BASIN_ABORT_GIDX
      let e := (SMap.get? d.basin.groups g).filter gValid
      let r := if wOn w R.BASIN_ABORT_ALL then
          (3, match e with | some e => abortAll g (gEpoch e) d | none => d)
        else
          let q := decideAbort g (d.get R.BASIN_ABORT_CHUNK_CHUNK) e d
          (q.1.1, q.2)
      (r.2.set R.BASIN_ABORT_GO 0).set R.BASIN_ABORT_RESULT r.1

def execBasinAbortWrite (w : CsrW) (s : State) : Host.Outcome State Fault Refusal := onDev (Dev.whenRunning (basinAbortWrite w)) s

/-! ### Retirement visits (R263, R391) -/

/-- The job of an index is DRAINING, as is visible now. -/
def draining (j : Nat) (d : Dev) : Bool :=
  match SMap.get? d.jobs.vis.entry j with
  | some x => x.2.2 == 2
  | none => false

/-- The visits of this turn come to the context (R263): 2,048 in index order, from context 0 at the first boundary on, and after a class 3
overrun those that the turn before left (R83). -/
def visited (d : Dev) (n : Nat) : Bool :=
  let at_ := (d.ras.boundaries + 15) % 16
  n / 2048 == at_ || (d.basin.visitLate && n / 2048 == (at_ + 15) % 16)

/-- CTMO has passed, or the job is draining. -/
def chunkDue (c : Ctx) (d : Dev) : Bool :=
  c.st == .opened && (draining (gJidx c.entry) d || decide (c.opened + gCtmo c.entry ≤ d.turn))

/-- RETIRE turns have passed. -/
def tombDue (c : Ctx) (d : Dev) : Bool := c.tomb && decide (c.since + max 64 (d.get R.BASIN_TIMING_RETIRE) ≤ d.turn)

/-- CHUNK_TIMEOUT: a visit to an OPEN context whose CTMO has passed, or whose job is draining. -/
def chunkTimeout (n : Nat) (d : Dev) : Dev :=
  match SMap.get? d.basin.ctx n with
  | none => d
  | some c =>
    if !visited d n || !chunkDue c d then d
    else if draining (gJidx c.entry) d then endCtx n c .aborted 3 (d.bump (R.BASIN_CNT_COUNT 4))
    else endCtx n c .timedout 4 (d.bump (R.BASIN_CNT_COUNT 6))

def execChunkTimeout (ctx : Fin 32768) (s : State) : Host.Outcome State Fault Refusal := onDev (Dev.whenTurning (chunkTimeout ctx.val)) s

/-- TOMBSTONE_RETIRE: a visit to a tombstone that has stood for RETIRE turns. -/
def tombstoneRetire (n : Nat) (d : Dev) : Dev :=
  match SMap.get? d.basin.ctx n with
  | none => d
  | some c =>
    if visited d n && tombDue c d then
      showBasin { d with basin := { d.basin with ctx := SMap.del d.basin.ctx n } }
    else d

def execTombstoneRetire (ctx : Fin 32768) (s : State) : Host.Outcome State Fault Refusal := onDev (Dev.whenTurning (tombstoneRetire ctx.val)) s

/-! ### Emission (R251, R259, R277, R287) -/

/-- MCOUNT of the result (R251, R287). -/
def resultCount (c : Ctx) : Nat :=
  if gSparse c.entry then c.keys.length else min (cape c.entry) ((c.mcount.map (·.2)).foldl max 0)

def accWord (c : Ctx) (i : Nat) : Nat := (SMap.getD c.acc i (BitVec.ofNat 32 (identity (gOp c.entry) (gFmt c.entry)))).toNat

/-- The multiplier of a root stage of an average group (R277). -/
def avgScale (c : Ctx) (d : Dev) : Option Nat :=
  if gRoot c.entry && gOp c.entry == 3 then
    let s := d.get (R.BASIN_AVGSCALE_SCALE c.gidx.val)
    some (if s % 2 ^ 31 = 0 then recipF (gNmemb c.entry) else s)
  else none

/-- Accumulator words from a to b, scaled, with counters. -/
def scaledWords (c : Ctx) (a b : Nat) (d : Dev) : List Nat × List Nat :=
  match avgScale c d with
  | none => ((List.range (b - a)).map (fun i => accWord c (a + i)), [])
  | some s => (List.range (b - a)).foldl (fun r i => let q := mulF (accWord c (a + i)) s; (r.1 ++ [q.1], r.2 ++ q.2)) ([], [])

/-- Data of piece k of a result of mc elements (R251, R287). -/
def pieceData (c : Ctx) (lane mc k : Nat) (d : Dev) : List Byte × Dev :=
  let e := c.entry
  let fmt := gFmt e
  let lo := k * pelem e
  let n := min (pelem e) (mc - lo)
  let w := scaledWords c lo (lo + n) d
  let ws := if isMx fmt then w.1 ++ List.replicate (32 * divUp n 32 - n) 0 else w.1
  let o := emitElems fmt (laneGen lane d) ws
  let d := setLaneGen lane o.2.1 (arith (w.2 ++ o.2.2) d)
  if gSparse e then
    let v := fmtBits fmt / 8
    ((List.range n).flatMap (fun i => beBytes 4 (c.keys.getD (lo + i) 0).toNat ++ slice o.1 (v * i) v), d)
  else (o.1, d)

/-- Where a result packet goes (R259): DST, and the multicast group and queue of DOWN = 1. -/
def resultDest (c : Ctx) (d : Dev) : Nat × Option (Nat × Nat) :=
  let e := c.entry
  if !gRoot e then (gUpdst e, none)
  else match gDown e with
    | 1 => (0xFFFFFF, some (gDowngrp e, 8 * gRpipe e + gRtc e))
    | 2 => (gRdst e, none)
    | _ => ((SMap.getD d.basin.scatter (gScatbase e + c.chunk.toNat % gNscat e) 0).toNat, none)

/-- Queue a built packet of the basin. -/
def basinOut (route : Option (Nat × Nat)) (h : OfpHdr) (pl : List Byte) (job : Option JobIdx) (d : Dev) : Dev :=
  let r := newPkt (ofpPacket h pl) job d
  { r.2 with cist := { r.2.cist with built := r.2.cist.built ++ [⟨0, route, r.1⟩] } }

/-- One result packet: piece k of n. -/
def emitPiece (c : Ctx) (lane mc n : Nat) (k : Nat) (d : Dev) : Dev :=
  let e := c.entry
  let root := gRoot e
  let data := pieceData c lane mc k d
  let d := data.2
  let pz := c.poison.contains k
  let last := k + 1 == n
  let st := if !root then 0 else if pz || (last && !c.poison.isEmpty) then 7 else 0
  let dst := resultDest c d
  let jg := jobIdOf (gJidx e) d
  let head := chunkHeader (b2n root) pz k (if root then 0 else gUpmember e) 0 mc st 0 0
  let tail := if root && last then ctxRecord c (if c.poison.isEmpty then 0 else 7) else []
  basinOut dst.2 { type := if gSparse e then 10 else 1, tc := gRtc e, last := last, dst := dst.1, src := d.get R.FWD_SELF_EID,
                   job := jg.1, gen := jg.2, group := gGroup e, epoch := gEpoch e, chunk := c.chunk.toNat, fmt := gFmt e, op := gOp e,
                   level := if root then gLevel e else gLevel e + 1, entropy := Nat.xor (c.chunk.toNat % 65536) k }
    (head ++ data.1 ++ tail) (jobIdxOf (gJidx e)) d

/-! ### Adds into delta regions (R351 to R355) -/

def regionBase (r : Nat) (d : Dev) : Nat := d.partBase 1 + d.get (R.FLUME_DREG_A_BASE r) * 2 ^ 20
def regionElem (r : Nat) (d : Dev) : Nat := fmtBits (d.get (R.FLUME_DREG_C_RFMT r)) / 8
def regionCelog (r : Nat) (d : Dev) : Nat := d.get (R.FLUME_DREG_B_CELOG r)
/-- Address of element x of region chunk i, and of its chunk record. -/
def regionAddr (r i x : Nat) (d : Dev) : Nat := regionBase r d + (i * 2 ^ regionCelog r d + x) * regionElem r d
def regionRecord (r i : Nat) (d : Dev) : Nat :=
  regionBase r d + d.get (R.FLUME_DREG_B_NCHUNK r) * 2 ^ regionCelog r d * regionElem r d + 16 * i

/-- Add one FP32 word into element x of region chunk i: exact read, FP32 add, conversion under the region's RND (R353). Lines that were
poisoned stay poisoned. -/
def addElem (r i lane : Nat) (x v : Nat) (d : Dev) : Dev :=
  let fmt := d.get (R.FLUME_DREG_C_RFMT r)
  let n := regionElem r d
  let a := regionAddr r i x d
  let was := d.poisoned 1 a n
  let s := addF (plainIn fmt (leAt (d.readMem 1 a n) 0 n)) v
  let o := emitElems fmt (laneGen lane d) [s.1]
  let d := setLaneGen lane o.2.1 (arith (s.2 ++ o.2.2) d)
  let d := d.writeMem 1 a o.1.reverse
  if was then d.setPoison 1 a else d

/-- Add to STEPS of a chunk record, which saturates. -/
def addSteps (r i k : Nat) (d : Dev) : Dev :=
  let a := regionRecord r i d
  d.writeMem 1 a (leBytes 4 (min 0xFFFFFFFF (leAt (d.readMem 1 a 4) 0 4 + k)))

/-- The result of a context is added into a region bound to its group (R353, R354, R355). -/
def addRegion (c : Ctx) (lane : Nat) (r : Nat) (d : Dev) : Dev :=
  let e := c.entry
  let cb := d.get (R.FLUME_DREG_D_CBASE r)
  let i := c.chunk.toNat - cb
  if c.chunk.toNat < cb || decide (d.get (R.FLUME_DREG_B_NCHUNK r) ≤ i) || cape e != 2 ^ regionCelog r d || gSparse e then
    let d := d.bump (R.FLUME_CNT_COUNT 7)
    if d.basin.regSeen.contains r then d
    else raiseCE blkFlume 2 r { d with basin := { d.basin with regSeen := d.basin.regSeen ++ [r] } }
  else
    let mc := resultCount c
    let w := scaledWords c 0 mc d
    let d := Dev.each (w.1.zip (List.range mc)) (fun x => addElem r i lane x.2 x.1) (arith w.2 d)
    let tag (k : Nat) (d : Dev) : Dev :=
      Dev.each (List.range (min (pelem e) (mc - k * pelem e))) (fun x d => d.setPoison 1 (regionAddr r i (k * pelem e + x) d)) d
    let d := Dev.each c.poison tag d
    let d := if c.poison.isEmpty then d else d.bump (R.FLUME_CNT_COUNT 10)
    let d := addSteps r i 1 (d.bump (R.FLUME_CNT_COUNT 6))
    let d := countLines 1 (requester 2 lane) 2 0 (regionAddr r i 0 d) (mc * regionElem r d) d
    countLines 1 (requester 2 lane) 2 0 (regionRecord r i d) 4 d

/-- A packet that the basin has built waits for admission: nothing is built behind it (R530; the packets of one result are built together, log
104). -/
def basinWaits (d : Dev) : Bool := d.cist.built.any (fun b => b.engine == 0)

/-- CHUNK_EMIT (R259, R265, R353): an EMITTING context sends or adds its result and becomes DONE. `bad`: pieces of which a line was
uncorrectable when it was read. -/
def chunkEmit (n : Nat) (bad : List Nat) (d : Dev) : Dev :=
  match SMap.get? d.basin.ctx n with
  | none => d
  | some c =>
    if c.st ≠ .emitting || basinWaits d then d
    else
      let e := c.entry
      let mc := resultCount c
      let np := max 1 (divUp mc (pelem e))
      let c := { c with poison := (c.poison ++ bad).eraseDups.filter (fun k => decide (k < np)) }
      let lane := laneOf c.gidx.val c.chunk.toNat d
      let d := Dev.each (List.range (divUp mc 16384)) (fun k => overflowLines c 0 (16384 * k) (min 16384 (mc - 16384 * k))) d
      let silent := gRoot e && gDown e == 0
      let d := if silent then
          Dev.each ((List.range 16).filter (fun r => d.on (R.FLUME_DREG_C_EN r) && d.on (R.FLUME_DREG_C_GBIND r)
            && d.get (R.FLUME_DREG_C_GIDX r) == c.gidx.val)) (addRegion c lane) d
        else Dev.each (List.range np) (emitPiece c lane mc np) d
      if c.poison.isEmpty then endCtx n c .done 0 d
      else
        let jg := jobIdOf (gJidx e) d
        let d := raise ⟨1, blkBasin, 3, c.gidx.val, c.chunk.toNat, 0, some jg⟩ (d.bump (R.BASIN_CNT_COUNT 13))
        endCtx n c .done 7 d

def execChunkEmit (ctx : Fin 32768) (bad : List Nat) (s : State) : Host.Outcome State Fault Refusal :=
  onDev (Dev.whenApplied (chunkEmit ctx.val bad)) s

/-- DOWN_RESULT_REBROADCAST (R260): the piece goes out through the stage's own DOWNGRP with its LEVEL and RTC. -/
def rebroadcast (p : Pkt) (_g : Nat) (e : List Byte) (d : Dev) : Dev :=
  let bs := withHdr p.bytes { ofpHdr p.bytes with tc := gRtc e, level := gLevel e, hops := (ofpHdr p.bytes).hops + 1 }
  let r := newPkt bs p.job d
  { r.2 with cist := { r.2.cist with built := r.2.cist.built ++ [⟨0, some (gDowngrp e, 8 * gRpipe e + gRtc e), r.1⟩] } }

def execDownResultRebroadcast (s : State) : Host.Outcome State Fault Refusal := onDev (Dev.whenApplied (fun d => if basinWaits d then d else basinTake .down rebroadcast d)) s

/-! ### Bad parity in the group tables (R265) -/

/-- A group-map entry (`isMap`) or group entry with bad parity: cleared, counted and reported; the open contexts of the group index that
it named time out. A map entry that named none is reported with ARG0 0. -/
def groupParity (isMap : Bool) (i : Nat) (d : Dev) : Dev :=
  let g := if isMap then SMap.get? d.basin.map i else some i
  let d := if isMap then { d with basin := { d.basin with map := SMap.del d.basin.map i } }
    else { d with basin := { d.basin with groups := SMap.del d.basin.groups i } }
  let d := raiseCE blkBasin 4 (g.getD 0) (d.bump (R.BASIN_CNT_COUNT 15))
  match g with
  | some g => endOpen g true d
  | none => d

end Sys2Proof.Machine
end

