-- ==== Sys2Proof/Machine/Tally.lean ====
section
/-! DEFINITION. Tally memory (R372 to R385): intake, combining, the operations, answers, lost regions. -/

namespace Sys2Proof.Machine

/-! ### Windows and lines (R372, R373) -/

def jwin (j : Nat) (d : Dev) : Nat := d.rd64 (R.TALLY_JWIN j)
def jwinValid (j : Nat) (d : Dev) : Bool := bitAt (jwin j d) 62
def jwinSize (j : Nat) (d : Dev) : Nat := bitsOf (jwin j d) 32 23
def jwinBase (j : Nat) (d : Dev) : Nat := bitsOf (jwin j d) 0 23

/-- Number in partition 5 of a line of a job's window. -/
def tallyLine (j line : Nat) (d : Dev) : Nat := 1024 * jwinBase j d + line
def lineAddr (n : Nat) (d : Dev) : Nat := d.partBase 5 + 64 * n

/-! ### Requests (R375) -/

def tOpc (pl : List Byte) : Nat := beBits pl 0 1 7 4
def tAtype (pl : List Byte) : Nat := beBits pl 0 1 3 0
def tWmask (pl : List Byte) : Nat := beAt pl 1 1
def tOffset (pl : List Byte) : Nat := beBits pl 2 1 5 0
def tLine (pl : List Byte) : Nat := beAt pl 8 4

/-- Bytes of an operand. -/
def atypeBytes (a : Nat) : Nat := if a < 2 then 8 else 4

/-- The operand and the swap value of a request. -/
def tOpnd (pl : List Byte) : Nat := if atypeBytes (tAtype pl) = 8 then beAt pl 16 8 else beAt pl 20 4
def tSwap (pl : List Byte) : Nat := if atypeBytes (tAtype pl) = 8 then beAt pl 24 8 else beAt pl 28 4

/-- LEN, OPC, ATYPE, WMASK and OFFSET agree with R375 and R377. -/
def requestOk (pl : List Byte) : Bool :=
  let o := tOpc pl
  let a := tAtype pl
  (pl.length == (if o = 1 then 96 else 32)) && decide (o ≤ 4) &&
  (if o ≤ 1 then a == 0 && tOffset pl == 0
   else (decide (a ≤ 3) || (a == 4 && o != 3)) && tOffset pl % atypeBytes a == 0) &&
  (if o = 1 then tWmask pl != 0 else tWmask pl == 0)

def tallyPkt (p : Pkt) : TallyPkt :=
  let h := ofpHdr p.bytes
  ⟨BitVec.ofNat 24 h.src, BitVec.ofNat 16 h.job, BitVec.ofNat 8 h.gen, BitVec.ofNat 32 h.seq, p.tc, BitVec.ofNat 16 h.entropy, h.hops,
   p.job.getD 0, ofpPayload p.bytes⟩

/-! ### Answers (R376, R379, R382) -/

/-- The engine that serves a line. -/
def tallyEngine (n : Nat) : Nat := Config.hash 10 0 n % 16

/-- Queue a response. `eng` is 2 for refusals, 16 + e for those that engine e builds. -/
def respond (eng : Nat) (a : TallyAns) (retry : Nat) (d : Dev) : Dev :=
  let r := a.req
  let pl := beBytes 1 (tOpc r.payload * 16 + a.status) ++ beBytes 1 (b2n a.swapped) ++ beBytes 2 retry ++ zeros 4 ++
    beBytes 4 (tLine r.payload) ++ zeros 4 ++ beBytes 8 a.old ++ zeros 8 ++ a.data
  let q := newPkt (ofpPacket { type := 5, tc := r.tc.val, dst := r.src.toNat, src := d.get R.FWD_SELF_EID, job := r.job.toNat,
                                 gen := r.gen.toNat, seq := r.seq.toNat, entropy := r.entropy.toNat } pl) (some r.jidx) d
  { q.2 with cist := { q.2.cist with built := q.2.cist.built ++ [⟨eng, none, q.1⟩] } }

/-- Refuse a request at intake (R378, R379): counter, STATUS. -/
def tallyRefuse (cnt status : Nat) (r : TallyPkt) (d : Dev) : Dev :=
  let d := d.bump (R.TALLY_CNT_COUNT cnt)
  if 4096 ≤ (d.cist.built.filter (fun b => b.engine == 2)).length then d.bump (R.TALLY_CNT_COUNT 11)
  else respond 2 ⟨r, status, 0, false, []⟩ (if status = 1 then d.get R.TALLY_CFG_RHINT else 0) d

/-! ### Lost regions (R383, R384) -/

/-- The entries of TALLY_LOST that are VALID, with their regions. -/
def lostRegions (d : Dev) : List (Nat × Nat) :=
  (List.range 256).filterMap (fun n => let v := d.rd64 (R.TALLY_LOST n); if bitAt v 63 then some (n, bitsOf v 0 27) else none)

def regionLost (region : Nat) (d : Dev) : Bool := d.on R.TALLY_STAT_LOSTFULL || (lostRegions d).any (fun x => x.2 == region)

/-- Requests of a line that are pending (R378). -/
def linePending (n : Nat) (d : Dev) : Nat :=
  ((SMap.getD d.tally.q n []).map (fun e => e.reqs.length)).foldl (· + ·) 0 + (SMap.getD d.tally.ans n []).length

def setTallyQ (n : Nat) (l : List TallyEntry) (d : Dev) : Dev := { d with tally := { d.tally with q := SMap.write d.tally.q n l [] } }
def setTallyAns (n : Nat) (l : List TallyAns) (d : Dev) : Dev := { d with tally := { d.tally with ans := SMap.write d.tally.ans n l [] } }

/-- Every pending request of a line is answered POISON. -/
def poisonLine (n : Nat) (d : Dev) : Dev :=
  let rs := (SMap.getD d.tally.q n []).flatMap (fun e => e.reqs)
  setTallyQ n [] (setTallyAns n (SMap.getD d.tally.ans n [] ++ rs.map (fun r => ⟨r, 2, 0, false, []⟩)) d)

/-- A line read with an error loses its region (R383): recorded with the job index, counted and reported; what is pending there is answered
POISON. -/
def loseRegion (n : Nat) (r : TallyPkt) (d : Dev) : Dev :=
  let region := n / 64
  let d := d.bump (R.TALLY_CNT_COUNT 10)
  let jg := some (r.job.toNat, r.gen.toNat)
  let d := match (List.range 256).find? (fun k => !bitAt (d.rd64 (R.TALLY_LOST k)) 63) with
    | some k =>
      let d := d.wr64 (R.TALLY_LOST k) (region + r.jidx.val * 2 ^ 32 + 2 ^ 63)
      raise ⟨2, blkTally, 2, region, tLine r.payload, 0, jg⟩ (d.incr R.TALLY_STAT_NLOST)
    | none => raise ⟨3, blkTally, 3, region, tLine r.payload, 0, jg⟩ (d.set R.TALLY_STAT_LOSTFULL 1)
  Dev.each ((d.tally.q.filter (fun x => x.1 / 64 == region)).map (·.1)) poisonLine d

/-! ### Intake (R378, R382) -/

/-- First check of R378 that a request fails: counter and STATUS. -/
def intakeCheck (r : TallyPkt) (d : Dev) : Option (Nat × Nat) :=
  let j := r.jidx.val
  let pl := r.payload
  let n := tallyLine j (tLine pl) d
  if !requestOk pl then some (6, 3)
  else if d.get R.TALLY_CFG_MAXHOPS < r.hops then some (8, 5)
  else if !jwinValid j d || decide (1024 * jwinSize j d ≤ tLine pl) then some (7, 4)
  else if regionLost (n / 64) d then some (5, 2)
  else if d.get (R.TALLY_JQUOTA_PEND j) ≠ 0xFFFFF ∧ d.get (R.TALLY_JQUOTA_PEND j) ≤ d.get (R.TALLY_JUSE_PEND j) then some (4, 1)
  else if 4096 ≤ linePending n d then some (2, 1)
  else if 524288 ≤ d.get R.TALLY_STAT_PEND then some (3, 1)
  else none

/-- A request joins its line's combining queue: a run of ADDs or MAXs of equal ATYPE and OFFSET merges. -/
def combine (n : Nat) (r : TallyPkt) (d : Dev) : Dev :=
  let q := SMap.getD d.tally.q n []
  let o := tOpc r.payload
  let e : TallyEntry := ⟨o, tAtype r.payload, tOffset r.payload, [r]⟩
  match q.getLast? with
  | some x =>
    if (o == 2 || o == 4) && x.opc == o && x.atype == e.atype && x.offset == e.offset then
      setTallyQ n (q.dropLast ++ [{ x with reqs := x.reqs ++ [r] }]) (d.bump (R.TALLY_CNT_COUNT 1))
    else setTallyQ n (q ++ [e]) d
  | none => setTallyQ n [e] d

/-- A command takes a request of its operation; TALLY_READ also takes the reserved ones, which are refused. -/
def opcIs (op : Nat) (pl : List Byte) : Bool := tOpc pl == op || (op == 0 && decide (4 < tOpc pl))

/-- Take the request at the front when it is of the command's operation (R378). -/
def tallyTake (op : Nat) (d : Dev) : Dev :=
  match d.cist.toTally with
  | [] => d
  | p :: rest =>
    if !p.whole || !opcIs op (ofpPayload p.bytes) || decide (8192 ≤ (d.cist.built.filter (fun b => decide (16 ≤ b.engine))).length) then d
    else
      let d := consumePkt p { d with cist := { d.cist with toTally := rest } }
      let r := tallyPkt p
      match intakeCheck r d with
      | some (cnt, st) => tallyRefuse cnt st r d
      | none =>
        let d := (d.incr R.TALLY_STAT_PEND).incr (R.TALLY_JUSE_PEND r.jidx.val)
        combine (tallyLine r.jidx.val (tLine r.payload) d) r d

def execTallyRead (s : State) : Host.Outcome State Fault Refusal := onDev (Dev.whenApplied (tallyTake 0)) s
def execTallyWrite (s : State) : Host.Outcome State Fault Refusal := onDev (Dev.whenApplied (tallyTake 1)) s
def execTallyAdd (s : State) : Host.Outcome State Fault Refusal := onDev (Dev.whenApplied (tallyTake 2)) s
def execTallyCas (s : State) : Host.Outcome State Fault Refusal := onDev (Dev.whenApplied (tallyTake 3)) s
def execTallyMax (s : State) : Host.Outcome State Fault Refusal := onDev (Dev.whenApplied (tallyTake 4)) s

/-! ### Lines (R377, R382) -/

/-- An engine of the tally accesses a line: it reads the reservoir, or reads, writes or changes the commons, where the line's place is
not given (R456). -/
def tallyFetch (n : Nat) (d : Dev) : Dev := countLines 1 (requester 6 (tallyEngine n)) 0 0 (lineAddr n d) 64 d
def tallyAccess (n opc : Nat) (d : Dev) : Dev :=
  countLines 0 (requester 6 (tallyEngine n)) (min 2 opc) 0 (Config.hash 21 0 n % 2 ^ 28) 1 d

/-- TALLY_LINE_FILL: a line that a queue waits for is read from the reservoir into the commons. -/
def tallyLineFill (n : Nat) (d : Dev) : Dev :=
  match (SMap.getD d.tally.q n []).head? with
  | none => d
  | some e =>
    if d.tally.cached.contains n then d
    else
      let d := d.bump (R.TALLY_CNT_COUNT 9)
      tallyFetch n (if d.poisoned 1 (lineAddr n d) 64 then (match e.reqs.head? with | some r => loseRegion n r d | none => d)
        else { d with tally := { d.tally with cached := d.tally.cached ++ [n] } })

def execTallyLineFill (line : Fin 8589934592) (s : State) : Host.Outcome State Fault Refusal :=
  onDev (Dev.whenApplied (tallyLineFill line.val)) s

/-- ADD or MAX of two operands of a type (R377), with the counters of R279. -/
def tallyOp (opc atype a b : Nat) : Nat × List Nat :=
  let w := 8 * atypeBytes atype
  if atype = 4 then (if opc = 2 then addF a b else (maxF a b, []))
  else if opc = 2 then ((a + b) % 2 ^ w, [])
  else if atype = 1 ∨ atype = 3 then (if sInt w a < sInt w b then b else a, [])
  else (max a b, [])

/-- Merge the operands of a run in arrival order: for each request the merge of those ahead of it (none for the first), and the merge of
all (R382). -/
def mergeRun (opc atype : Nat) (vs : List Nat) : List (Option Nat) × Option Nat × List Nat :=
  vs.foldl (fun (r : List (Option Nat) × Option Nat × List Nat) v =>
    match r.2.1 with
    | none => (r.1 ++ [none], some v, r.2.2)
    | some m => let q := tallyOp opc atype m v; (r.1 ++ [some m], some q.1, r.2.2 ++ q.2)) ([], none, [])

/-- The line after an entry, its answers and the counters. -/
def applyEntry (e : TallyEntry) (line : List Byte) : List Byte × List TallyAns × List Nat :=
  let w := atypeBytes e.atype
  let cur := leAt line e.offset w
  match e.opc with
  | 0 => (line, e.reqs.map (fun r => ⟨r, 0, 0, false, line⟩), [])
  | 1 =>
    match e.reqs.head? with
    | none => (line, [], [])
    | some r =>
      let m := tWmask r.payload
      let data := slice r.payload 32 64
      ((List.range 64).map (fun i => if bitAt m (i / 8) then data.getD i 0 else line.getD i 0), [⟨r, 0, 0, false, []⟩], [])
  | 3 =>
    match e.reqs.head? with
    | none => (line, [], [])
    | some r =>
      if cur = tOpnd r.payload then (patch line e.offset (leBytes w (tSwap r.payload)), [⟨r, 0, cur, true, []⟩], [])
      else (line, [⟨r, 0, cur, false, []⟩], [])
  | o =>
    let m := mergeRun o e.atype (e.reqs.map (fun r => tOpnd r.payload))
    let olds := m.1.map (fun x => match x with | none => cur | some v => (tallyOp o e.atype cur v).1)
    let fin := match m.2.1 with | none => (cur, []) | some v => tallyOp o e.atype cur v
    (patch line e.offset (leBytes w fin.1), (e.reqs.zip olds).map (fun x => ⟨x.1, 0, x.2, false, []⟩), m.2.2 ++ fin.2)

/-- TALLY_ENTRY_APPLY: the first entry of a line that is present takes effect; an uncorrectable read loses the region. -/
def tallyEntryApply (n : Nat) (d : Dev) : Dev :=
  match SMap.getD d.tally.q n [] with
  | [] => d
  | e :: rest =>
    if !d.tally.cached.contains n then d
    else
      let a := lineAddr n d
      tallyAccess n e.opc (if d.poisoned 1 a 64 then (match e.reqs.head? with | some r => loseRegion n r d | none => d)
        else
          let r := applyEntry e (d.readMem 1 a 64)
          let d := arith r.2.2 (d.writeMem 1 a r.1)
          setTallyQ n rest (setTallyAns n (SMap.getD d.tally.ans n [] ++ r.2.1) d))

def execTallyEntryApply (line : Fin 8589934592) (s : State) : Host.Outcome State Fault Refusal :=
  onDev (Dev.whenApplied (tallyEntryApply line.val)) s

/-- TALLY_RESPONSE_BUILD: the line's next answer becomes a response, unless one of its engine's waits for admission. -/
def tallyResponseBuild (n : Nat) (d : Dev) : Dev :=
  match SMap.getD d.tally.ans n [] with
  | [] => d
  | a :: rest =>
    let eng := 16 + tallyEngine n
    if d.cist.built.any (fun b => b.engine == eng) then d
    else
      let d := (d.drop R.TALLY_STAT_PEND).drop (R.TALLY_JUSE_PEND a.req.jidx.val)
      let d := d.bump (R.TALLY_CNT_COUNT (if a.status = 0 then 0 else 5))
      setTallyAns n rest (respond eng a 0 d)

def execTallyResponseBuild (line : Fin 8589934592) (s : State) : Host.Outcome State Fault Refusal :=
  onDev (Dev.whenApplied (tallyResponseBuild line.val)) s

/-- Some valid job window covers a region (R384). -/
def windowCovers (region : Nat) (d : Dev) : Bool :=
  (d.csr.filter (fun x => decide (R.TALLY_JWIN 0 ≤ x.1) && decide (x.1 < R.TALLY_JWIN 4096) && x.1 % 8 == 4)).any (fun x =>
    let j := (x.1 - R.TALLY_JWIN 0) / 8
    jwinValid j d && decide (jwinBase j d ≤ region / 16) && decide (region / 16 < jwinBase j d + jwinSize j d))

/-- TALLY_LOST_CLR (R384): GO zeroes the region of IDX and frees the entry; with a valid window over it, the write is ignored. -/
def tallyRegionRelease (w : CsrW) (d : Dev) : Dev :=
  let k := wBits w R.TALLY_LOST_CLR_IDX
  let v := d.rd64 (R.TALLY_LOST k)
  let region := bitsOf v 0 27
  if wOn w R.TALLY_LOST_CLR_GO && bitAt v 63 && windowCovers region d then refuseCsr R.TALLY_LOST_CLR w d
  else
    let d := writeOwn RF.TALLY_LOST_CLR R.TALLY_LOST_CLR w d
    if !wOn w R.TALLY_LOST_CLR_GO then d
    else
      let d := if bitAt v 63 then
          let d := (d.writeMem 1 (d.partBase 5 + 4096 * region) (zeros 4096)).drop R.TALLY_STAT_NLOST
          { d with tally := { d.tally with cached := d.tally.cached.filter (fun n => n / 64 != region) } }
        else d
      (d.set R.TALLY_LOST_CLR_GO 0).wr64 (R.TALLY_LOST k) 0

def execTallyRegionRelease (w : CsrW) (s : State) : Host.Outcome State Fault Refusal := onDev (Dev.whenRunning (tallyRegionRelease w)) s

end Sys2Proof.Machine
end

