-- ==== Sys2Proof/Machine/Jobs.lean ====
section
/-! DEFINITION. Jobs, the update interface and the canal tree (R388 to R407): admission, records, lanes, what becomes visible at a
boundary, drains, quarantine, canal entries. -/

namespace Sys2Proof.Machine

/-! ### Admission (R157, R389) -/

/-- Job-table index of an OFP packet checked under R157, or the reason r of its drop. -/
def admitJob (h : OfpHdr) (job0 : Bool) (d : Dev) : Except Nat JobIdx :=
  if h.job = 0 then
    if [1, 4, 5, 8, 10].contains h.type || !job0 then .error 3 else .ok 0
  else match SMap.get? d.jobs.vis.map h.job with
    | none => .error 0
    | some (none, _) => .error 0
    | some (some j, _) =>
      match SMap.get? d.jobs.vis.entry j.val with
      | none => .error 0
      | some e =>
        if e.2.1.toNat ≠ h.gen then .error 1
        else if e.2.2 ≠ 1 ∧ h.type ≠ 3 ∧ h.type ≠ 5 then .error 2
        else .ok j

/-! ### Records (R395) -/

def jupdRing : RingRef := ⟨R.FWD_JUPD_BASE, R.FWD_JUPD_CFG_LOG2SIZE, R.FWD_JUPD_CFG_EN, R.FWD_JUPD_HEAD_HEAD,
  R.FWD_JUPD_TAIL_TAIL, 128, 6, 16⟩

def jOp (r : List Byte) : Nat := leBits r 0 1 7 4
def jEnd (r : List Byte) : Bool := leBits r 1 1 0 0 == 1
def jJob (r : List Byte) : Nat := leAt r 4 2
def jGen (r : List Byte) : Nat := leAt r 6 1
def jIndex (r : List Byte) : Nat := leAt r 8 4
def jValue (r : List Byte) : Nat := leAt r 12 4

/-- STATUS of the record at a ring index. -/
def jobStatus (idx st : Nat) (d : Dev) : Dev := d.writeMem 1 (d.rd64 R.FWD_JUPD_BASE + 128 * idx + 2) (beBytes 1 st)

/-! ### The tables with the changes of this turn -/

def setNext (t : JobTables) (d : Dev) : Dev := { d with jobs := { d.jobs with next := t } }

def mapOf (job : Nat) (d : Dev) : Option JobIdx × Option Byte := SMap.getD d.jobs.next.map job (none, none)

def entryOf (j : Nat) (d : Dev) : Option (BitVec 16 × Byte × BitVec 2) := SMap.get? d.jobs.next.entry j

/-- The entry that a JOB maps to, with its index. -/
def jobEntry (job : Nat) (d : Dev) : Option (JobIdx × Byte × BitVec 2) :=
  match (mapOf job d).1 with
  | none => none
  | some j => (entryOf j.val d).map (fun e => (j, e.2))

/-- The index of the ACTIVE entry a JOB maps to. -/
def activeIdx (job : Nat) (d : Dev) : Option Nat :=
  (jobEntry job d).bind (fun e => if e.2.2 = 1 then some e.1.val else none)

/-- Group entry with the changes of this turn. -/
def groupPend (g : Nat) (d : Dev) : Option (List Byte) :=
  match d.jobs.groupChanges.reverse.find? (fun c => c.1 == g) with
  | some c => some c.2
  | none => SMap.get? d.basin.groups g

def canalSaddr (e : List Byte) : Nat := beAt e 0 3
def canalValid (e : List Byte) : Bool := beBits e 3 1 7 7 == 1

/-- Canal entry of a stream address as it is visible, with its place. -/
def canalFind (saddr : Nat) (d : Dev) : Option (Nat × CanalEntry) := d.jobs.canal.find? (fun x => canalSaddr x.2.bytes == saddr)

/-- Stream addresses held with the changes of this turn. -/
def canalHeld (d : Dev) : List Nat :=
  d.jobs.canalChanges.foldl (fun ks c => match c.2.1 with
    | some _ => if ks.contains c.1 then ks else ks ++ [c.1]
    | none => ks.filter (fun k => k != c.1)) (d.jobs.canal.map (fun x => canalSaddr x.2.bytes))

/-! ### What a record does (R390, R391, R396). None: it waits. -/

/-- ACTIVATE (R390). -/
def recActivate (job gen j : Nat) (d : Dev) : Option (Nat × Dev) :=
  let m := jobEntry job d
  let e := entryOf j d
  if j = 0 ∨ 4095 < j then some (3, d)
  else if e.any (fun x => x.2.2 == 1) || m.any (fun x => x.2.2 == 1) then some (2, d)
  else if (mapOf job d).2 == some (BitVec.ofNat 8 gen) then some (4, d)
  else if e.isSome || m.isSome then none
  else
    let t := d.jobs.next
    some (1, setNext { map := SMap.put t.map job (jobIdxOf j, (mapOf job d).2)
                       entry := SMap.put t.entry j (BitVec.ofNat 16 job, BitVec.ofNat 8 gen, 1) } d)

/-- TEARDOWN (R391). -/
def recTeardown (job gen : Nat) (d : Dev) : Option (Nat × Dev) :=
  match jobEntry job d with
  | none => some (7, d)
  | some (j, g, st) =>
    if st ≠ 1 ∨ g.toNat ≠ gen then some (7, d)
    else
      let t := d.jobs.next
      some (1, setNext { map := SMap.put t.map job (some j, some g)
                         entry := SMap.put t.entry j.val (BitVec.ofNat 16 job, g, 2) } d)

/-- The checks of R241 and R272. -/
def groupBad (e : List Byte) (d : Dev) : Bool :=
  (gValid e && (gNmemb e == 0 || decide (1024 < gNmemb e))) || decide (8 < gClog e) || gPlog e == 3 ||
  decide (csize e < psize e) || decide (2 ^ 44 < gElems e) ||
  (gDown e == 1 && !d.on (R.QUE_MCG_CFG_VALID (gDowngrp e))) ||
  (gDown e == 3 && decide (65536 < gScatbase e + gNscat e)) ||
  decide (8192 * slotsOf e < gNmemb e * npiece e) ||
  fmtRnd (gFmt e) == 3 || !fmtKnown (gFmt e) || !opOk (gOp e) (gFmt e) || (gSparse e && isMx (gFmt e))

/-- A group entry (R240, R241, R396). -/
def recGroup (job g : Nat) (e : List Byte) (d : Dev) : Option (Nat × Dev) :=
  if 65535 < g then some (3, d)
  else if gValid e && activeIdx job d != some (gJidx e) then some (3, d)
  else if groupBad e d then some (3, d)
  else if gValid e && d.basin.ctx.any (fun x => x.2.gidx.val == g) &&
      (match groupPend g d with | some o => !gValid o || gGroup o != gGroup e | none => true) then none
  else some (1, { d with jobs := { d.jobs with groupChanges := d.jobs.groupChanges ++ [(g, e)] } })

/-- A group-map entry (R240). -/
def recMap (grp v : Nat) (d : Dev) : Option (Nat × Dev) :=
  some (1, { d with jobs := { d.jobs with
    mapChanges := d.jobs.mapChanges ++ [(grp % 2 ^ 20, if bitAt v 16 then some (v % 65536) else none)] } })

/-- A scatter entry (R240). -/
def recScatter (i v : Nat) (d : Dev) : Option (Nat × Dev) :=
  if 65535 < i then some (3, d)
  else some (1, { d with jobs := { d.jobs with scatterChanges := d.jobs.scatterChanges ++ [(i, BitVec.ofNat 24 v)] } })

/-- A canal entry (R396, R401, R404). -/
def recCanal (job : Nat) (e : List Byte) (d : Dev) : Option (Nat × Dev) :=
  let k := canalSaddr e
  let ks := canalHeld d
  let put (v : Option (List Byte)) : Dev := { d with jobs := { d.jobs with canalChanges := d.jobs.canalChanges ++ [(k, v, d.turn)] } }
  if canalValid e then
    if activeIdx job d ≠ some (beBits e 4 2 11 0) then some (3, d)
    else if ks.contains k then some (1, put (some e))
    else if ks.length < 4096 && Config.insertFits 9 ks k then some (1, put (some e))
    else some (6, d)
  else if ks.contains k then some (1, put none)
  else some (7, d)

/-- One record: its STATUS, or it waits. -/
def jobRecord (r : List Byte) (d : Dev) : Option (Nat × Dev) :=
  let job := jJob r
  if jOp r = 0 then some (1, d)
  else if job = 0 then some (3, d)
  else match jOp r with
    | 1 => recActivate job (jGen r) (jIndex r) d
    | 2 => recTeardown job (jGen r) d
    | 3 => recGroup job (jIndex r) (slice r 32 64) d
    | 4 => recMap (jIndex r) (jValue r) d
    | 5 => recScatter (jIndex r) (jValue r) d
    | 6 => recCanal job (slice r 32 32) d
    | _ => some (3, d)

/-! ### Staging (R397) -/

/-- Records from HEAD up to a BATCHEND, with their ring indices; none while the batch is unfinished. -/
def jobBatchFrom (d : Dev) : Nat → Nat → Option (List JobRec)
  | 0, _ => none
  | fuel + 1, k =>
    match d.ringAt jupdRing k with
    | none => none
    | some r =>
      let x : JobRec := ⟨(d.get R.FWD_JUPD_HEAD_HEAD + k) % d.ringSize jupdRing, r⟩
      if jEnd r then some [x] else (jobBatchFrom d fuel (k + 1)).map (fun t => x :: t)

def batchBroken (b : List JobRec) : Bool :=
  decide (512 < b.length) || (match b with | x :: t => t.any (fun y => jJob y.bytes != jJob x.bytes) | [] => false)

/-- JOB_BATCH_STAGE (R397). -/
def jobBatchStage (d : Dev) : Dev :=
  match jobBatchFrom d (d.ringCount jupdRing) 0 with
  | none => d
  | some b =>
    if batchBroken b then (Dev.each b (fun x => jobStatus x.idx 5) d).ringAdvance jupdRing b.length
    else
      let job := BitVec.ofNat 16 (match b with | x :: _ => jJob x.bytes | [] => 0)
      let held := d.jobs.lanes.any (fun l => l.job == job)
      if 16384 < d.jobs.staged + b.length || (!held && decide (4096 ≤ d.jobs.lanes.length)) then d
      else
        let lanes := if held then d.jobs.lanes.map (fun l => if l.job = job then { l with batches := l.batches ++ [b] } else l)
          else d.jobs.lanes ++ [⟨d.jobs.nextLane, job, [b]⟩]
        { d.ringAdvance jupdRing b.length with jobs := { d.jobs with
            lanes := lanes
            nextLane := if held then d.jobs.nextLane else d.jobs.nextLane + 1
            staged := d.jobs.staged + b.length } }

def execJobBatchStage (s : State) : Host.Outcome State Fault Refusal := onDev (Dev.whenApplied jobBatchStage) s

/-! ### The choice of a turn's batches (R398, R399) -/

/-- The device after every record of a batch; none where one would wait. -/
def tryBatch (b : List JobRec) (d : Dev) : Option Dev :=
  b.foldl (fun o x => o.bind (fun d => (jobRecord x.bytes d).map (·.2))) (some d)

structure Intake where
  d : Dev
  taken : List JobRec
  stop : Bool
  waiting : List Nat
  last : Nat

/-- The head batch of one lane. -/
def intakeLane (num : Nat) (s : Intake) : Intake :=
  if s.stop || s.waiting.contains num then s
  else match s.d.jobs.lanes.find? (fun l => l.num == num) with
    | none => s
    | some l =>
      match l.batches with
      | [] => s
      | b :: rest =>
        match tryBatch b s.d with
        | none => { s with waiting := s.waiting ++ [num] }
        | some d =>
          if 512 < s.taken.length + b.length then { s with stop := true }
          else
            let lanes := if rest.isEmpty then d.jobs.lanes.filter (fun x => x.num != num)
              else d.jobs.lanes.map (fun x => if x.num = num then { x with batches := rest } else x)
            { s with d := { d with jobs := { d.jobs with lanes := lanes } }, taken := s.taken ++ b, last := num }

/-- Passes over the lanes, from the one after the last served, until nothing more is taken. -/
def intakePasses : Nat → List Nat → Intake → Intake
  | 0, _, s => s
  | n + 1, order, s =>
    let s' := order.foldl (fun s k => intakeLane k s) s
    if s'.stop || s'.taken.length == s.taken.length then s' else intakePasses n order s'

/-- Class 4 takes its batches for the turn that begins, behind those that an overrun left (R83, R398). -/
def jobIntake (d : Dev) : Dev :=
  let nums := d.jobs.lanes.map (·.num)
  let order := nums.filter (fun n => decide (d.jobs.lastLane < n)) ++ nums.filter (fun n => decide (n ≤ d.jobs.lastLane))
  let left := (tryBatch d.jobs.apply d).getD d
  let s := intakePasses 513 order ⟨left, d.jobs.apply, false, [], d.jobs.lastLane⟩
  { d.set R.FWD_JUPD_HEAD_WAIT (b2n !s.waiting.isEmpty) with
    jobs := { d.jobs with lanes := s.d.jobs.lanes, apply := s.taken, lastLane := s.last } }

/-! ### Applying a record (R398 to R400) -/

/-- A command takes a record of its operation; JOB_UPDATE_NOP also takes the undefined ones. -/
def jobOpIs (op : Nat) (r : List Byte) : Bool := jOp r == op || (op == 0 && decide (6 < jOp r))

/-- The next record of the turn applies where `sel` takes it: STATUS is written and its staging place released. -/
def jobNext (sel : List Byte → Bool) (d : Dev) : Dev :=
  match d.jobs.apply with
  | [] => d
  | x :: rest =>
    if !sel x.bytes then d
    else match jobRecord x.bytes d with
      | none => d
      | some (st, d) =>
        jobStatus x.idx st { d with jobs := { d.jobs with apply := rest, begun := !jEnd x.bytes, staged := d.jobs.staged - 1 } }

/-- The next record, when it is of the command's operation. -/
def jobTake (op : Nat) (d : Dev) : Dev := jobNext (jobOpIs op) d

/-- At a boundary the batch that was begun is finished (R84), so that whole batches become visible together (R399). -/
def finishJobBatch (d : Dev) : Dev :=
  Dev.each (List.range 512) (fun _ d => if d.jobs.begun then jobNext (fun _ => true) d else d) d

def execJobUpdateNop (s : State) : Host.Outcome State Fault Refusal := onDev (Dev.whenTurning (jobTake 0)) s
def execActivate (s : State) : Host.Outcome State Fault Refusal := onDev (Dev.whenTurning (jobTake 1)) s
def execTeardown (s : State) : Host.Outcome State Fault Refusal := onDev (Dev.whenTurning (jobTake 2)) s
def execGroupEntryWrite (s : State) : Host.Outcome State Fault Refusal := onDev (Dev.whenTurning (jobTake 3)) s
def execGroupMapWrite (s : State) : Host.Outcome State Fault Refusal := onDev (Dev.whenTurning (jobTake 4)) s
def execScatterEntryWrite (s : State) : Host.Outcome State Fault Refusal := onDev (Dev.whenTurning (jobTake 5)) s
def execCanalEntryWrite (s : State) : Host.Outcome State Fault Refusal := onDev (Dev.whenTurning (jobTake 6)) s

/-! ### What becomes visible at a boundary (R399) -/

/-- A group entry comes into force (R244, R252, R255). OVFLCNT and COMMITS continue while the index keeps its GROUP. -/
def groupVisible (g : Nat) (e : List Byte) (d : Dev) : Dev :=
  let old := SMap.get? d.basin.groups g
  let d := match old with
    | some o => if gValid o && (!gValid e || gEpoch e != gEpoch o) then endOpen g false d else d
    | none => d
  let counts := match SMap.get? d.basin.groups g with
    | some o => if gGroup o = gGroup e then slice o 56 8 else zeros 8
    | none => zeros 8
  let d := { d with basin := { d.basin with groups := SMap.put d.basin.groups g (e.take 56 ++ counts)
                                            ovfSeen := d.basin.ovfSeen.filter (fun x => x != g) } }
  let cut (use q : Nat) (d : Dev) : Dev :=
    if q < use then raise ⟨0, blkBasin, 5, gJidx e, use - q, 0, some (jobIdOf (gJidx e) d)⟩ d else d
  if gValid e then cut (groupSlots g true d) (gOquota e) (cut (groupSlots g false d) (gGquota e) d) else d

/-- The lowest free place of the canal table. -/
def canalPlace (d : Dev) : Nat := d.jobs.canal.foldl (fun n x => if x.1 = n then n + 1 else n) 0

/-- A canal change comes into force (R404). -/
def canalVisible (k : Nat) (v : Option (List Byte)) (turn : Nat) (d : Dev) : Dev :=
  let put (m : SMap CanalEntry) : Dev := { d with jobs := { d.jobs with canal := m } }
  match v, canalFind k d with
  | some e, some (i, c) => put (SMap.put d.jobs.canal i { c with bytes := e, last := turn })
  | some e, none => put (SMap.put d.jobs.canal (canalPlace d) ⟨e, 0, false, false, turn⟩)
  | none, some (i, _) => put (SMap.del d.jobs.canal i)
  | none, none => d

/-- FWD_JOB shows an entry (R407); a FREE one keeps JOBID and GEN. -/
def showJob (j : Nat) (d : Dev) : Dev :=
  match SMap.get? d.jobs.vis.entry j with
  | some (job, gen, st) =>
    let d := ((d.set (R.FWD_JOB_JOBID j) job.toNat).set (R.FWD_JOB_GEN j) gen.toNat).set (R.FWD_JOB_STATE j) st.toNat
    if st = 2 then d else d.set (R.FWD_JOB_RESID j) 0
  | none => (d.set (R.FWD_JOB_STATE j) 0).set (R.FWD_JOB_RESID j) 0

/-- Sluice queues that serve a job (R309). -/
def jobQueues (j : Nat) (d : Dev) : List (Nat × Nat) :=
  ((List.range 2).flatMap (fun m => (List.range 64).map (fun q => (m, q)))).filter (fun x =>
    d.on (R.SLU_WQ_CFG_JOBQ x.1 x.2) && d.get (R.SLU_WQ_CFG_JIDX x.1 x.2) == j)

/-- DRAINING of an entry becomes visible (R391, R393): its sluice queues stop. -/
def drainBegins (j : Nat) (d : Dev) : Dev :=
  let d := { d with jobs := { d.jobs with drainFrom := SMap.put d.jobs.drainFrom j d.turn } }
  Dev.each (jobQueues j d) (fun x d => d.set (R.SLU_WQ_HEAD_STOPPED x.1 x.2) 1) d

/-- The changes of the turn that ends come into force. -/
def jobsVisible (d : Dev) : Dev :=
  let touched := (d.jobs.vis.entry ++ d.jobs.next.entry).map (·.1)
  let d := { d with jobs := { d.jobs with vis := d.jobs.next } }
  let d := Dev.each touched.eraseDups showJob d
  let d := Dev.each (d.jobs.vis.entry.filter (fun x => x.2.2.2 == 2 && !SMap.has d.jobs.drainFrom x.1)) (fun x => drainBegins x.1) d
  let d := Dev.each d.jobs.groupChanges (fun c => groupVisible c.1 c.2) d
  let d := Dev.each d.jobs.mapChanges (fun c d => { d with basin := { d.basin with map := SMap.set d.basin.map c.1 c.2 } }) d
  let d := Dev.each d.jobs.scatterChanges (fun c d =>
    { d with basin := { d.basin with scatter := SMap.write d.basin.scatter c.1 c.2 0 } }) d
  let d := Dev.each d.jobs.canalChanges (fun c => canalVisible c.1 c.2.1 c.2.2) d
  { d with jobs := { d.jobs with groupChanges := [], mapChanges := [], scatterChanges := [], canalChanges := [] } }

/-! ### Drains and quarantine (R392 to R394) -/

/-- A sluice queue is drained (R309): nothing taken, and nothing left before TAIL. -/
def queueDrained (x : Nat × Nat) (d : Dev) : Bool :=
  (match SMap.get? d.eng.wq (64 * x.1 + x.2) with | some w => w.taken.isEmpty | none => true) &&
  d.get (R.SLU_WQ_HEAD_HEAD x.1 x.2) == d.get (R.SLU_WQ_TAIL_TAIL x.1 x.2)

/-- Unmet drain conditions, bit 0 CIST (R392). -/
def residOf (j : Nat) (d : Dev) : Nat :=
  b2n (d.get (R.CIST_JUSE_CELLS j) != 0) + 2 * b2n (d.get (R.BASIN_JUSE_SLOTS j) != 0) +
  4 * b2n (d.basin.groups.any (fun x => gValid x.2 && gJidx x.2 == j)) +
  8 * b2n (d.jobs.canal.any (fun x => beBits x.2.bytes 4 2 11 0 == j)) +
  16 * b2n (d.get (R.TALLY_JUSE_PEND j) != 0) + 32 * b2n ((jobQueues j d).any (fun x => !queueDrained x d))

/-- The state of an entry in both tables. -/
def setJobState (j : Nat) (st : BitVec 2) (d : Dev) : Dev :=
  let f (t : JobTables) : JobTables := match SMap.get? t.entry j with
    | some e => { t with entry := SMap.put t.entry j (e.1, e.2.1, st) }
    | none => t
  { d with jobs := { d.jobs with vis := f d.jobs.vis, next := f d.jobs.next } }

/-- JOB_DRAIN_CHECK (R392, R394) of one entry at a boundary. -/
def drainCheck (j : Nat) (d : Dev) : Dev :=
  let r := residOf j d
  if r = 0 then
    let d := setJobState j 3 d
    showJob j { d with jobs := { d.jobs with drainFrom := SMap.del d.jobs.drainFrom j, quarFrom := SMap.put d.jobs.quarFrom j d.turn } }
  else d.set (R.FWD_JOB_RESID j) r

def drainChecks (d : Dev) : Dev :=
  Dev.each ((d.jobs.vis.entry.filter (fun x => x.2.2.2 == 2)).map (·.1)) drainCheck d

/-- QUARANTINE entries of which a boundary finds that QTURNS have passed and no cell is charged (R394). -/
def quarReady (d : Dev) : List Nat :=
  (d.jobs.vis.entry.map (·.1)).filter (fun j =>
    match SMap.get? d.jobs.vis.entry j, SMap.get? d.jobs.quarFrom j with
    | some e, some t => e.2.2 == 3 && decide (t + max 64 (d.get R.FWD_JOB_CFG_QTURNS) ≤ d.turn) && d.get (R.CIST_JUSE_CELLS j) == 0
    | _, _ => false)

/-- What the boundary does with jobs. -/
def jobBoundary (d : Dev) : Dev :=
  let d := jobIntake (drainChecks (jobsVisible (finishJobBatch d)))
  { d with jobs := { d.jobs with quarDone := quarReady d } }

/-- JOB_DRAIN_OVERDUE (R393): an entry still DRAINING after DRAINTMO turns, and again every DRAINTMO turns. -/
def jobDrainOverdue (j : Nat) (d : Dev) : Dev :=
  let tmo := max 1 (d.get R.FWD_JOB_CFG_DRAINTMO)
  match SMap.get? d.jobs.vis.entry j, SMap.get? d.jobs.drainFrom j with
  | some e, some t =>
    if e.2.2 = 2 ∧ t + tmo ≤ d.turn then
      raise ⟨0, blkFwd, 4, j, d.get (R.FWD_JOB_RESID j), 0, some (e.1.toNat, e.2.1.toNat)⟩
        { d with jobs := { d.jobs with drainFrom := SMap.put d.jobs.drainFrom j (t + tmo) } }
    else d
  | _, _ => d

def execJobDrainOverdue (j : JobIdx) (s : State) : Host.Outcome State Fault Refusal := onDev (Dev.whenApplied (jobDrainOverdue j.val)) s

/-- JOB_QUARANTINE_END (R394): where the boundary has found QTURNS over and CIST_JUSE at 0, the entry is FREE and the map entry of its JOB
cleared. -/
def jobQuarantineEnd (j : Nat) (d : Dev) : Dev :=
  match SMap.get? d.jobs.vis.entry j with
  | some e =>
    if e.2.2 = 3 ∧ d.jobs.quarDone.contains j then
      let f (x : JobTables) : JobTables := { map := SMap.put x.map e.1.toNat (none, (SMap.getD x.map e.1.toNat (none, none)).2)
                                             entry := SMap.del x.entry j }
      let d := raise ⟨0, blkFwd, 5, j, 0, 0, some (e.1.toNat, e.2.1.toNat)⟩ d
      showJob j { d with jobs := { d.jobs with vis := f d.jobs.vis, next := f d.jobs.next, quarFrom := SMap.del d.jobs.quarFrom j } }
    else d
  | none => d

def execJobQuarantineEnd (j : JobIdx) (s : State) : Host.Outcome State Fault Refusal := onDev (Dev.whenApplied (jobQuarantineEnd j.val)) s

/-! ### The canal tree (R401 to R404) -/

def cJidx (e : List Byte) : Nat := beBits e 4 2 11 0
def cPany (e : List Byte) : Bool := beBits e 3 1 6 6 == 1
def cParent (e : List Byte) : Nat := beBits e 6 2 9 0
def cDowngrp (e : List Byte) : Nat := beBits e 8 2 15 6
def cCtc (e : List Byte) : Nat := beBits e 8 2 5 3
def cPipe (e : List Byte) : Nat := beBits e 10 1 6 0
def cCtmo (e : List Byte) : Nat := beAt e 12 2
def cRgen (e : List Byte) : Nat := beAt e 14 2
def cResgrp (e : List Byte) : Nat := beBits e 16 2 15 6
def cResen (e : List Byte) : Bool := beBits e 16 2 0 0 == 1

/-- Counter r of FWD_CANAL_CNT under which a matched segment is dropped (R403), or its multicast group. -/
def canalCheck (e : List Byte) (bs : List Byte) (j : Option JobIdx) (port : Option PortNo) : Except Nat Nat :=
  let pl := ofpPayload bs
  let resume := beBits pl 0 1 3 3 == 1
  if (ofpHdr bs).len < 16 || beBits pl 0 1 7 4 != 1 then .error 4
  else if j.map (·.val) ≠ some (cJidx e) then .error 6
  else if !cPany e && port.map (·.val) != some (cParent e) then .error 2
  else if resume && (!cResen e || beAt pl 2 2 != cRgen e) then .error 3
  else .ok (if resume then cResgrp e else cDowngrp e)

/-- A segment has been replicated (R403, R404). -/
def canalReplicated (i : Nat) (bs : List Byte) (d : Dev) : Dev :=
  let pl := ofpPayload bs
  let h := ofpHdr bs
  let d := d.bump (R.FWD_CANAL_CNT_COUNT (beBits pl 0 1 3 3))
  match SMap.get? d.jobs.canal i with
  | some c =>
    if canalSaddr c.bytes ≠ h.dst then d
    else
      let c' := { c with hioff := max c.hioff (beAt pl 4 6 + h.len - 16), done := c.done || h.last, stalled := false, last := d.turn }
      { d with jobs := { d.jobs with canal := SMap.put d.jobs.canal i c' } }
  | none => d

/-- CANAL_STALL (R404): the check of one place, in the turns of its visits. -/
def canalStall (i : Nat) (d : Dev) : Dev :=
  match SMap.get? d.jobs.canal i with
  | none => d
  | some c =>
    if d.turn % 16 = i / 256 ∧ !c.done ∧ !c.stalled ∧ cCtmo c.bytes ≠ 0 ∧ c.last + cCtmo c.bytes ≤ d.turn then
      let d := { d with jobs := { d.jobs with canal := SMap.put d.jobs.canal i { c with stalled := true } } }
      let jg := jobIdOf (cJidx c.bytes) d
      raise ⟨0, blkFwd, 6, canalSaddr c.bytes, c.hioff % 2 ^ 32, c.hioff / 2 ^ 32, some jg⟩ (d.bump (R.FWD_CANAL_CNT_COUNT 5))
    else d

def execCanalStall (slot : Fin 4096) (s : State) : Host.Outcome State Fault Refusal := onDev (Dev.whenApplied (canalStall slot.val)) s

end Sys2Proof.Machine
end

