-- ==== Sys2Proof/Machine/Levee.lean ====
section
/-! DEFINITION. The levee code (R331, R332): arithmetic in GF(2^8), parity units, and the recovery of missing units. -/

namespace Sys2Proof.Machine

/-- Product in GF(2^8) with x^8 + x^4 + x^3 + x^2 + 1: the bits of b from the top. -/
def gfMul (a b : Nat) : Nat :=
  (List.range 8).foldl (fun r i =>
    let dbl := if 128 ≤ r then Nat.xor (2 * r) 0x11D else 2 * r
    if bitAt b (7 - i) then Nat.xor dbl a else dbl) 0

def gfPow (a : Nat) : Nat → Nat
  | 0 => 1
  | n + 1 => gfMul a (gfPow a n)

/-- Inverse: a^254. -/
def gfInv (a : Nat) : Nat := gfPow a 254

/-- Coefficient c(p, i) of R331. -/
def leveeCoef (p i : Nat) : Nat := gfInv (Nat.xor (64 + p) i)

/-- Coding unit of an inner frame, before padding. -/
def codingUnit (inner : List Byte) : List Byte := beBytes 2 inner.length ++ inner

/-- acc + c × u, byte by byte, to the length of acc. -/
def gfAddScaled (acc : List Nat) (c : Nat) (u : List Byte) : List Nat :=
  (List.range acc.length).map (fun j => Nat.xor (acc.getD j 0) (gfMul c (u.getD j 0).toNat))

/-- Parity unit p of a stripe's inner frames. -/
def parityUnit (p : Nat) (inners : List (List Byte)) : List Byte :=
  let us := inners.map codingUnit
  let n := (us.map (fun u => u.length)).foldl max 0
  let r := (List.range us.length).foldl (fun acc i => gfAddScaled acc (leveeCoef p i) (us.getD i [])) (List.replicate n 0)
  r.map (fun v => BitVec.ofNat 8 v)

/-- A row of a linear system: coefficients and right-hand bytes. -/
abbrev GfRow := List Nat × List Nat

def rowScale (c : Nat) (r : GfRow) : GfRow := (r.1.map (gfMul c), r.2.map (gfMul c))
def rowSub (c : Nat) (a b : GfRow) : GfRow :=
  ((List.range a.1.length).map (fun j => Nat.xor (a.1.getD j 0) (gfMul c (b.1.getD j 0))),
   (List.range a.2.length).map (fun j => Nat.xor (a.2.getD j 0) (gfMul c (b.2.getD j 0))))

/-- One column of the elimination; the matrices of R331 have no zero pivot. -/
def gfColumn (rows : List GfRow) (j : Nat) : List GfRow :=
  let piv := rowScale (gfInv ((rows.getD j ([], [])).1.getD j 0)) (rows.getD j ([], []))
  (List.range rows.length).map (fun i => if i = j then piv else rowSub ((rows.getD i ([], [])).1.getD j 0) (rows.getD i ([], [])) piv)

/-- The unknowns of a square system. -/
def gfSolve (rows : List GfRow) : List (List Byte) :=
  ((List.range rows.length).foldl gfColumn rows).map (fun r => r.2.map (fun v => BitVec.ofNat 8 v))

/-- Inner frames at the missing positions of a stripe of k frames, from the frames held and as many parity units. -/
def leveeRecover (k : Nat) (held : SMap (List Byte)) (parity : SMap (List Byte)) : List (Nat × List Byte) :=
  let missing := (List.range k).filter (fun i => !held.any (fun x => x.1 == i))
  let ps := parity.take missing.length
  let rows := ps.map (fun p =>
    (missing.map (leveeCoef p.1),
     held.foldl (fun acc x => gfAddScaled acc (leveeCoef p.1 x.1) (codingUnit x.2)) (p.2.map (fun b => b.toNat))))
  let us := gfSolve rows
  (missing.zip us).map (fun x => (x.1, slice x.2 2 (beAt x.2 0 2)))

end Sys2Proof.Machine
end

