-- ==== Sys2Proof/Machine/Haul.lean ====
section
/-! DEFINITION. Long-haul transport (R317 to R350): routes and failover, frames sent and received, MACsec, stripes, sequencing,
retransmission, resequencing. -/

namespace Sys2Proof.Machine

/-! ### Links, shares and routes -/

def Share.init : Share := ⟨0, [], 0, 1, 0, [], [], 0, 0⟩
def Route.init : Route := ⟨false, false, false, false, none, 0, none, none, none, none⟩
def HLink.init : HLink := ⟨.init, .init, .init, .init, 0, none, none, false, none, 0, 1, 0, [], [], [], []⟩

def Dev.hl (d : Dev) (k : Nat) : HLink := SMap.getD d.haul.links k HLink.init
def Dev.modHl (d : Dev) (k : Nat) (f : HLink → HLink) : Dev :=
  { d with haul := { d.haul with links := SMap.put d.haul.links k (f (d.hl k)) } }

def HLink.share (l : HLink) (n : Fin 2) : Share := if n = 0 then l.share0 else l.share1
def HLink.modShare (l : HLink) (n : Fin 2) (f : Share → Share) : HLink :=
  if n = 0 then { l with share0 := f l.share0 } else { l with share1 := f l.share1 }
def HLink.route (l : HLink) (r : Fin 2) : Route := if r = 0 then l.route0 else l.route1
def HLink.modRoute (l : HLink) (r : Fin 2) (f : Route → Route) : HLink :=
  if r = 0 then { l with route0 := f l.route0 } else { l with route1 := f l.route1 }

def linkOn (d : Dev) (k : Nat) : Bool := d.on (R.HAUL_LINK_CFG_EN k)
def routePort (d : Dev) (k : Nat) (r : Fin 2) : Nat := if r = 0 then d.get (R.HAUL_LINK_PORTS_PORT0 k) else d.get (R.HAUL_LINK_PORTS_PORT1 k)
def routeExists (d : Dev) (k : Nat) (r : Fin 2) : Bool := r == 0 || d.on (R.HAUL_LINK_PORTS_P1EN k)

/-- The active route (R349 STATE). -/
def activeRoute (d : Dev) (k : Nat) : Option (Fin 2) :=
  match d.get (R.HAUL_LINK_STAT_STATE k) with | 1 => some 0 | 2 => some 1 | _ => none

/-- Enabled links and routes on a port. -/
def routesOn (d : Dev) (p : Nat) : List (Nat × Fin 2) :=
  ((List.range 64).filter (linkOn d)).flatMap (fun k =>
    ([0, 1] : List (Fin 2)).filterMap (fun r => if routeExists d k r && routePort d k r == p then some (k, r) else none))

/-- Bytes of the part of a buffer of n MiB that a share has (R333). -/
def shareBytes (d : Dev) (k n : Nat) (s : Fin 2) : Nat :=
  let v := d.get (R.HAUL_LINK_CFG_VC1SH k)
  n * 2 ^ 20 * (if s = 1 then v else 16 - v) / 16

def rtxUse (s : Share) : Nat := (s.rtx.map (fun f => f.inner.length)).foldl (· + ·) 0
def rsqUse (s : Share) : Nat := (s.held.map (fun x => x.2.length)).foldl (· + ·) 0

/-- HAUL_LINK_USE follows the buffers. -/
def showUse (k : Nat) (d : Dev) : Dev :=
  let l := d.hl k
  (d.set (R.HAUL_LINK_USE_RTXUSE k) ((rtxUse l.share0 + rtxUse l.share1) / 2 ^ 20)).set (R.HAUL_LINK_USE_RSQUSE k)
    ((rsqUse l.share0 + rsqUse l.share1) / 2 ^ 20)

def lcnt (k r : Nat) (d : Dev) (n : Nat := 1) : Dev := d.bump (R.HAUL_LCNT_COUNT k r) n

/-! ### MACsec state (R326, R327) -/

def msecMode (d : Dev) (p : Nat) : Nat := d.get (R.HAUL_MSEC_MODE p)
def txAn (d : Dev) (p : Nat) : Nat := d.get (R.HAUL_MSEC_TXAN p)
/-- The transmit SA condition of R327. -/
def saOk (d : Dev) (p : Nat) : Bool := msecMode d p == 0 || d.on (R.HAUL_SA_CTL_VALID p 0 (txAn d p))

/-! ### RTO (R337, R338) -/

def usUnit : Int := 1000 * 65536

def srttOf (d : Dev) (k : Nat) (r : Fin 2) : Int := ((d.hl k).route r).srtt.getD 0

/-- Base RTO of a route, in 2^-16 ns. -/
def baseRto (d : Dev) (k : Nat) (r : Fin 2) : Int :=
  max ((d.get (R.HAUL_LINK_TMR_RTOMIN k) : Nat) * usUnit) (srttOf d k r + max (4 * ((d.hl k).route r).rttvar) (20 * usUnit))

/-- A duration in the 24-bit units of 8 ns. -/
def units8 (x : Int) : Nat := (x / (8 * 65536)).toNat

def showRtt (k : Nat) (d : Dev) : Dev :=
  let d := (d.set (R.HAUL_LINK_SRTT0_SRTT k) (units8 (srttOf d k 0))).set (R.HAUL_LINK_SRTT1_SRTT k) (units8 (srttOf d k 1))
  match activeRoute d k with
  | some r => d.set (R.HAUL_LINK_RTO_RTO k) (units8 (baseRto d k r))
  | none => d

/-! ### Stripes in transmission (R330, R331) -/

/-- The open stripe closes: its parity frames are queued on its route. -/
def closeStripe (k : Nat) (d : Dev) : Dev :=
  match activeRoute d k with
  | none => d
  | some r =>
    d.modHl k (fun l =>
      if l.units.isEmpty then l
      else
        let ps := (List.range l.npar).map (fun p => ⟨r, l.stripe, l.units.length, l.npar, p, parityUnit p l.units⟩)
        { l.modRoute r (fun x => { x with lastStripe := some l.stripe }) with
          units := [], stripe := (l.stripe + 1) % 65536, parityQ := l.parityQ ++ ps })

/-- A failover abandons the open stripe: its parity is not sent. -/
def abandonStripe (k : Nat) (d : Dev) : Dev :=
  d.modHl k (fun l => if l.units.isEmpty then l else { l with units := [], stripe := (l.stripe + 1) % 65536 })

/-! ### Resequencing (R339, R341) -/

/-- Distance of an HSEQ ahead of another, modulo 2^48. -/
def ahead (h e : Nat) : Nat := (h + 2 ^ 48 - e) % 2 ^ 48
/-- h is later than e (R322). -/
def laterH (h e : Nat) : Bool := h != e && decide (ahead h e < 2 ^ 47)

/-- Deliver the frames held from E on that follow without a gap. -/
def drainHeld : Nat → Share → Share
  | 0, s => s
  | n + 1, s =>
    match SMap.get? s.held s.expect with
    | none => s
    | some f => drainHeld n { s with held := SMap.del s.held s.expect, deliver := s.deliver ++ [f], expect := (s.expect + 1) % 2 ^ 48 }

def drainShare (s : Share) : Share := drainHeld s.held.length s

/-- Held frames in order from E. -/
def heldInOrder (s : Share) : List (Nat × List Byte) :=
  s.held.filter (fun x => decide (s.expect ≤ x.1)) ++ s.held.filter (fun x => decide (x.1 < s.expect))

/-- E moves to h: held frames before it are delivered in order, and the HSEQs skipped are answered. -/
def moveExpect (h : Nat) (s : Share) : Share × Nat :=
  let before := (heldInOrder s).filter (fun x => decide (ahead x.1 s.expect < ahead h s.expect))
  let skipped := ahead h s.expect - before.length
  (drainShare { s with held := s.held.filter (fun x => !before.any (fun y => y.1 == x.1)), deliver := s.deliver ++ before.map (·.2),
                       expect := h }, skipped)

/-- Where a share's part of a buffer begins in partition 2 (R347), the retransmit region's or, with `rsq`, the resequencing region's: the enabled
links stand in link order, and share 0 before share 1 (DESIGN CHOICE, log 108). -/
def haulBase (d : Dev) (k : Nat) (rsq : Bool) (n : Fin 2) : Nat :=
  let mib (j : Nat) : Nat := if rsq then d.get (R.HAUL_LINK_BUF_RSQMIB j) else d.get (R.HAUL_LINK_BUF_RTXMIB j)
  d.partBase 2 + (if rsq then 2 ^ 30 * d.get R.HAUL_CFG_RTXGIB else 0) +
    2 ^ 20 * (((List.range k).filter (linkOn d)).map mib).sum + (if n = 1 then shareBytes d k (mib k) 0 else 0)

/-- The haul engine writes or reads a frame in a buffer in the reservoir (R348, R456), at a place in the share's part that no rule gives. -/
def haulAccess (k : Nat) (rsq : Bool) (n : Fin 2) (cls len : Nat) (d : Dev) : Dev :=
  let x := d.draw
  let size := shareBytes d k (if rsq then d.get (R.HAUL_LINK_BUF_RSQMIB k) else d.get (R.HAUL_LINK_BUF_RTXMIB k)) n
  countLines 1 (requester 5 0) cls 0 (haulBase d k rsq n + 64 * (x.1.toNat % max 1 (size / 64))) len x.2

/-- Frames that leave the resequencing buffer of a share are read from it. -/
def readHeld (k : Nat) (n : Fin 2) (s t : Share) (d : Dev) : Dev :=
  Dev.each (s.held.filter (fun x => !SMap.has t.held x.1)) (fun x => haulAccess k true n 0 x.2.length) d

/-- A data frame, however it arrived (R339). -/
def resequence (k : Nat) (n : Fin 2) (h : Nat) (inner : List Byte) (d : Dev) : Dev :=
  let s := (d.hl k).share n
  if (h != s.expect && !laterH h s.expect) || SMap.has s.held h then lcnt k 7 d
  else if h = s.expect then
    let t := drainShare { s with deliver := s.deliver ++ [inner], expect := (h + 1) % 2 ^ 48 }
    showUse k (lcnt k 3 ((readHeld k n s t d).modHl k (fun l => { l.modShare n (fun _ => t) with ackDue := true })))
  else if rsqUse s + inner.length ≤ shareBytes d k (d.get (R.HAUL_LINK_BUF_RSQMIB k)) n then
    showUse k (lcnt k 3 ((haulAccess k true n 1 inner.length d).modHl k (fun l =>
      { l.modShare n (fun s => { s with held := SMap.put s.held h inner }) with ackDue := true })))
  else lcnt k 9 d

/-! ### Stripes in reception (R332, R336) -/

/-- The fields of a haul header (R322). -/
structure HaulHdr where
  hver : Nat
  kind : Nat
  share : Fin 2
  retx : Bool
  linkid : Nat
  hseq : Nat
  sidx : Nat
  pidx : Nat
  stripe : Nat
  crcOk : Bool

def haulHdr (bs : List Byte) : HaulHdr where
  hver := beBits bs 0 1 7 4
  kind := beBits bs 0 1 3 0
  share := Fin.ofNat 2 (beBits bs 1 1 7 7)
  retx := beBits bs 1 1 5 5 == 1
  linkid := beAt bs 2 2
  hseq := beAt bs 4 6
  sidx := beBits bs 10 1 7 2
  pidx := beBits bs 11 1 3 0
  stripe := beAt bs 12 2
  crcOk := crc16 (bs.take 14) == beAt bs 14 2

/-- SHARE of an inner frame (R322): 1 when it carries an OFP header with VC 1. -/
def ofpOffset (d : Dev) (p : Nat) (bs : List Byte) : Option Nat :=
  let h := parseEth bs
  let udp := d.get (R.PORT_OFPE_UDPPORT (p / 128))
  if h.etype = d.get (R.PORT_OFPE_ETYPE (p / 128)) then some h.l3
  else if h.ip = 6 ∧ h.proto = 17 ∧ udp ≠ 0 ∧ h.dport = udp then some (h.l4 + 8)
  else none

def innerShare (d : Dev) (p : Nat) (bs : List Byte) : Fin 2 :=
  match ofpOffset d p bs with
  | some o => if beBits bs (o + 1) 1 4 4 = 1 then 1 else 0
  | none => 0

/-- HSEQ of a recovered frame of share n at position i (log): new frames of a share are numbered in the order of the stripe. -/
def recoveredHseq (s : RxStripe) (n : Fin 2) (i dflt : Nat) : Nat :=
  let mine := s.data.filter (fun x => x.2.share == n && !x.2.retx)
  match (mine.filter (fun x => decide (x.1 < i))).getLast? with
  | some x => (x.2.hseq + 1) % 2 ^ 48
  | none => match mine.head? with
    | some x => (x.2.hseq + 2 ^ 48 - 1) % 2 ^ 48
    | none => dflt

/-- A stripe of which enough is held yields its missing data frames. -/
def repair (k : Nat) (r : Fin 2) (d : Dev) : Dev :=
  match ((d.hl k).route r).stripe with
  | none => d
  | some s =>
    match s.total with
    | none => d
    | some t =>
      if t ≤ s.data.length || decide (s.data.length + s.parity.length < t) then d
      else
        let p := routePort d k 0
        let got := leveeRecover t (s.data.map (fun x => (x.1, x.2.inner))) s.parity
        Dev.each got (fun x d =>
          match ((d.hl k).route r).stripe with
          | none => d
          | some s =>
            let n := innerShare d p x.2
            let h := recoveredHseq s n x.1 ((d.hl k).share n).expect
            let d := d.modHl k (fun l => l.modRoute r (fun y =>
              { y with stripe := some { s with data := SMap.put s.data x.1 ⟨x.2, n, h, false⟩ } }))
            resequence k n h x.2 (lcnt k 4 d)) d

/-- A stripe is final: what is missing is counted, and the frames missing before its new frames become due for a NAK. -/
def finalise (k : Nat) (r : Fin 2) (d : Dev) : Dev :=
  match ((d.hl k).route r).stripe with
  | none => d
  | some s =>
    let top := (s.data.map (fun x => x.1 + 1)).foldl max 0
    let lost := decide (s.data.length < s.total.getD top)
    let d := if lost then lcnt k 5 d else d
    let mark (n : Fin 2) (x : Share) : Share :=
      { x with nakTo := (s.data.filter (fun y => y.2.share == n && !y.2.retx)).foldl (fun a y => if laterH y.2.hseq a then y.2.hseq else a) x.nakTo }
    d.modHl k (fun l => ((l.modShare 0 (mark 0)).modShare 1 (mark 1)).modRoute r (fun y => { y with stripe := none, rxFinal := some s.num }))

/-- STRIPE a is equal to or later than b, modulo 2^16. -/
def stripeGe (a b : Nat) : Bool := decide ((a + 65536 - b) % 65536 < 32768)

/-- A frame of stripe n arrives on a route: an earlier stripe there is final. Answers whether n is the stripe now being received, which
a stripe that is final is not. -/
def openStripe (k : Nat) (r : Fin 2) (n : Nat) (d : Dev) : Bool × Dev :=
  match ((d.hl k).route r).stripe with
  | some s =>
    if s.num = n then (true, d)
    else if stripeGe n s.num then
      (true, (finalise k r d).modHl k (fun l => l.modRoute r (fun y => { y with stripe := some ⟨n, none, [], []⟩ })))
    else (false, d)
  | none =>
    if ((d.hl k).route r).rxFinal.any (fun q => stripeGe q n) then (false, d)
    else (true, d.modHl k (fun l => l.modRoute r (fun y => { y with stripe := some ⟨n, none, [], []⟩ })))

def modStripe (k : Nat) (r : Fin 2) (f : RxStripe → RxStripe) (d : Dev) : Dev :=
  d.modHl k (fun l => l.modRoute r (fun y => { y with stripe := y.stripe.map f }))

/-- A new frame of a stripe that is final: what is missing before it is due for a NAK at once (R336). -/
def nakBefore (k : Nat) (n : Fin 2) (h : Nat) (d : Dev) : Dev :=
  d.modHl k (fun l => l.modShare n (fun s => if laterH h s.nakTo then { s with nakTo := h } else s))

/-- A data frame with its place in a stripe. -/
def receiveData (k : Nat) (r : Fin 2) (f : HaulHdr) (inner : List Byte) (d : Dev) : Dev :=
  let o := openStripe k r f.stripe d
  let d := if o.1 then modStripe k r (fun s => { s with data := SMap.put s.data f.sidx ⟨inner, f.share, f.hseq, f.retx⟩ }) o.2
    else if f.retx then o.2 else nakBefore k f.share f.hseq o.2
  repair k r (resequence k f.share f.hseq inner d)

def receiveParity (k : Nat) (r : Fin 2) (f : HaulHdr) (unit : List Byte) (d : Dev) : Dev :=
  let o := openStripe k r f.stripe d
  if o.1 then repair k r (modStripe k r (fun s => { s with total := some (f.sidx + 1), parity := SMap.put s.parity f.pidx unit }) o.2)
  else o.2

/-! ### Routes and failover (R342 to R345) -/

/-- The conditions of R342. -/
def routeUp (d : Dev) (k : Nat) (r : Fin 2) : Bool :=
  let x := (d.hl k).route r
  let p := routePort d k r
  linkOn d k && routeExists d k r && d.isUp p && x.rx && !x.badSwid && x.peerRx && saOk d p && !x.rmaxHit

def upFld (k : Nat) (r : Fin 2) : Fld := if r = 0 then R.HAUL_LINK_STAT_R0UP k else R.HAUL_LINK_STAT_R1UP k

/-- The home port's queues count as down or up (R319, R204). -/
def homeState (k : Nat) (up : Bool) (d : Dev) : Dev :=
  d.modLink (routePort d k 0) (fun l => if up then { l with downSince := none, flushed := false } else { l with downSince := some d.turn })

/-- The link moves to a route: 0 down, r + 1 (R343, R344). -/
def setState (k v : Nat) (d : Dev) : Dev :=
  let was := d.get (R.HAUL_LINK_STAT_STATE k)
  let d := d.set (R.HAUL_LINK_STAT_STATE k) v
  let d := if (was == 0) != (v == 0) then homeState k (v != 0) d else d
  showRtt k d

/-- Unacknowledged frames last sent on a route: share and HSEQ. -/
def lastSentOn (r : Fin 2) (l : HLink) : List (Fin 2 × Nat) :=
  ([0, 1] : List (Fin 2)).flatMap (fun n => ((l.share n).rtx.filter (fun f => f.route == r)).map (fun f => (n, f.hseq)))

/-- The active route has gone down (R343, R344). -/
def failover (k : Nat) (from_ : Fin 2) (d : Dev) : Dev :=
  let dest := 1 - from_
  let d := (abandonStripe k d).modHl k (fun l => { l with resend := l.resend ++ lastSentOn from_ l, parityQ := l.parityQ.filter (fun x => x.route != from_) })
  let d := d.set (R.HAUL_LINK_STAT_FAILEVT k) 1
  if routeUp d k dest then raiseCE blkHaul 2 k ((setState k (dest.val + 1) d).bump (R.HAUL_LINK_STAT_FAILOVERS k))
  else raiseCE blkHaul 3 k (setState k 0 d)

/-- Bring the shown state of a route in line with R342; `cause` is recorded where it goes down. -/
def updateRoute (k : Nat) (r : Fin 2) (cause : Nat) (d : Dev) : Dev :=
  let was := d.on (upFld k r)
  let now := routeUp d k r
  if was == now then d
  else
    let d := d.set (upFld k r) (b2n now)
    if now then
      let d := d.modHl k (fun l => l.modRoute r (fun x => { x with rxFinal := none }))
      if (activeRoute d k).isNone then setState k (r.val + 1) d else d
    else
      let d := loseInput (1024 + 2 * k + r.val) (finalise k r (d.set (R.HAUL_LINK_STAT_CAUSE k) cause))
      if activeRoute d k == some r then failover k r d else d

def updateLink (k cause : Nat) (d : Dev) : Dev := updateRoute k 1 cause (updateRoute k 0 cause d)

/-- Every link with a route on a port follows a change of the port (R342). -/
def haulPortChange (p cause : Nat) (d : Dev) : Dev := Dev.each (routesOn d p) (fun x => updateRoute x.1 x.2 cause) d

/-- KEEPALIVE_MISS (R342): no valid keepalive on the route for KAMISS × KAINT. -/
def keepaliveMiss (k : Nat) (r : Fin 2) (d : Dev) : Dev :=
  if !((d.hl k).route r).rx then d
  else updateRoute k r 2 (lcnt k 8 (d.modHl k (fun l => l.modRoute r (fun x => { x with rx := false }))))

def execKeepaliveMiss (k : LinkNo) (route : Fin 2) (s : State) : Host.Outcome State Fault Refusal :=
  onDev (Dev.whenApplied (keepaliveMiss k.val route)) s

/-- Frames that a share has unacknowledged are discarded, and OLDEST passes them (R344). -/
def dropRtx (s : Share) : Share := { s with rtx := [], expiries := 0, backoff := 1 }

/-- HAUL_HOLD_EXPIRY (R344): both routes have been down for HOLD. -/
def haulHoldExpiry (k : Nat) (d : Dev) : Dev :=
  if !linkOn d k || (activeRoute d k).isSome then d
  else
    let l := d.hl k
    let n := l.share0.rtx.length + l.share1.rtx.length
    let d := d.modHl k (fun l => { (l.modShare 0 dropRtx).modShare 1 dropRtx with
      rtxQ := [], route0 := { l.route0 with rmaxHit := false }, route1 := { l.route1 with rmaxHit := false } })
    updateLink k 0 (showUse k (lcnt k 11 d n))

def execHaulHoldExpiry (k : LinkNo) (s : State) : Host.Outcome State Fault Refusal := onDev (Dev.whenApplied (haulHoldExpiry k.val)) s

/-- A switch or revert to a route (R345): the open stripe closes and its parity goes first. -/
def moveTo (k : Nat) (r : Fin 2) (d : Dev) : Dev :=
  let d := (closeStripe k d).set (R.HAUL_LINK_STAT_CAUSE k) 7
  raiseCE blkHaul 2 k ((setState k (r.val + 1) d).bump (R.HAUL_LINK_STAT_FAILOVERS k))

/-- HAUL_SWITCH (R345): moves to the other route, or is ignored with a CE event while that is down. -/
def haulSwitch (k : Nat) (w : CsrW) (d : Dev) : Dev :=
  if !wOn w (R.HAUL_LINK_CTL_SWITCH k) then writeOwn RF.HAUL_LINK_CTL (R.HAUL_LINK_CTL k) w d
  else match activeRoute d k with
    | some r =>
      if d.on (upFld k (1 - r)) then
        moveTo k (1 - r) ((writeOwn RF.HAUL_LINK_CTL (R.HAUL_LINK_CTL k) w d).set (R.HAUL_LINK_CTL_SWITCH k) 0)
      else refuseCsr (R.HAUL_LINK_CTL k) w d
    | none => refuseCsr (R.HAUL_LINK_CTL k) w d

def execHaulSwitch (k : LinkNo) (w : CsrW) (s : State) : Host.Outcome State Fault Refusal := onDev (Dev.whenRunning (haulSwitch k.val w)) s

/-- HAUL_REVERT (R345): route 0 has been up for REVWAIT. -/
def haulRevert (k : Nat) (d : Dev) : Dev :=
  if d.on (R.HAUL_LINK_REV_REVERT k) && activeRoute d k == some 1 && d.on (upFld k 0) then moveTo k 0 d else d

def execHaulRevert (k : LinkNo) (s : State) : Host.Outcome State Fault Refusal := onDev (Dev.whenApplied (haulRevert k.val)) s

/-! ### Sending (R320, R321, R327, R330) -/

/-- The haul header of R322. -/
def haulHeader (kind share route retx linkid hseq sidx npar pidx stripe : Nat) : List Byte :=
  let b := beBytes 1 (32 + kind) ++ beBytes 1 (share * 128 + route * 64 + retx * 32) ++ beBytes 2 linkid ++ beBytes 6 hseq ++
    beBytes 1 (sidx * 4) ++ beBytes 1 (npar * 16 + pidx) ++ beBytes 2 stripe
  b ++ beBytes 2 (crc16 b)

/-- Words of a write-only register of an SA, as bytes. -/
def saBytes (a : Nat → Nat) (n : Nat) (d : Dev) : List Byte := (List.range n).flatMap (fun w => beBytes 4 (SMap.getD d.hidden (a w) 0).toNat)

/-- Nonce of GCM-AES-XPN-256: SSCI and the 64-bit PN, exclusive-or the salt (R325). -/
def xpnNonce (p dir an pn : Nat) (d : Dev) : List Byte :=
  ((beBytes 4 (d.get (R.HAUL_SA_SSCI_SSCI p dir an)) ++ beBytes 8 pn).zip (saBytes (R.HAUL_SA_SALT p dir an) 3 d)).map (fun x => x.1 ^^^ x.2)

/-- What stands behind the SecTAG under an SA: the data, encrypted where the port's mode says so, and the ICV over it and the bytes before it. -/
def gcmXpn (p dir an pn : Nat) (encrypt : Bool) (head data : List Byte) (d : Dev) : List Byte :=
  let key := saBytes (R.HAUL_SA_KEY p dir an) 8 d
  let nonce := xpnNonce p dir an pn d
  if encrypt then aesGcm key nonce head data else data ++ aesGcm key nonce (head ++ data) []

/-- A frame of a link leaves by a port (R321, R327): addresses, SecTAG, haul frame, ICV, FCS. -/
def haulSend (k p kind : Nat) (body : List Byte) (d : Dev) : Dev :=
  let mode := msecMode d p
  let da := beBytes 6 (d.rd64 (R.HAUL_LINK_PMAC k))
  let sa := beBytes 6 (d.rd64 R.FWD_RMAC)
  let rest := beBytes 2 (d.get (R.PORT_OFPE_ETYPE (p / 128))) ++ body
  if mode = 0 then d.emit (.haul (Fin.ofNat 1024 p) kind (withFcs (padTo (da ++ sa ++ rest) 60)))
  else
    let an := txAn d p
    let pn := d.rd64 (R.HAUL_SA_PN p 0 an)
    let tag := beBytes 2 0x88E5 ++ beBytes 1 (0x20 + (if mode = 2 then 0x0C else 0) + an) ++
      beBytes 1 (if rest.length < 48 then rest.length else 0) ++ beBytes 4 pn ++ sa ++ beBytes 2 (p + 1)
    let sec := gcmXpn p 0 an pn (mode == 2) (da ++ sa ++ tag) rest d
    let bit := d.get R.HAUL_CFG_PNBIT
    let warn := bitAt (pn + 1) bit && !bitAt pn bit
    let d := d.wr64 (R.HAUL_SA_PN p 0 an) (pn + 1)
    let d := if warn then raiseCE blkHaul 5 p (d.set (R.HAUL_MSEC_PNWARN p) 1) else d
    d.emit (.haul (Fin.ofNat 1024 p) kind (withFcs (da ++ sa ++ tag ++ sec)))

/-- A data frame takes its place in the stripe and goes out (R330). -/
def sendData (k p : Nat) (r n : Fin 2) (retx : Bool) (hseq : Nat) (inner : List Byte) (d : Dev) : Dev :=
  let d := d.modHl k (fun l => if l.units.isEmpty then
      { l with k := d.get (R.HAUL_LINK_LEVEE_KM1 k) + 1, npar := min 8 (d.get (R.HAUL_LINK_LEVEE_NPAR k)) } else l)
  let l := d.hl k
  let body := haulHeader 0 n.val r.val (b2n retx) (d.get (R.HAUL_LINK_CFG_LINKID k)) hseq l.units.length l.npar 0 l.stripe ++ inner
  let d := haulSend k p 0 body d
  let d := d.modHl k (fun l => { l with units := l.units ++ [inner] })
  if l.k ≤ l.units.length + 1 then closeStripe k d else d

/-- The next retransmission of a link, if its frame is still held (R338). -/
def sendRetx (k p : Nat) (r : Fin 2) (d : Dev) : Dev :=
  match (d.hl k).rtxQ with
  | [] => d
  | (n, h) :: rest =>
    let d := d.modHl k (fun l => { l with rtxQ := rest, resend := l.resend.filter (fun x => x != (n, h)) })
    match ((d.hl k).share n).rtx.find? (fun f => f.hseq == h) with
    | none => d
    | some f =>
      let d := d.modHl k (fun l => l.modShare n (fun s =>
        { s with rtx := s.rtx.map (fun x => if x.hseq = h then { x with sentRaw := d.time.raw, route := r } else x) }))
      lcnt k 2 (sendData k p r n true h f.inner (haulAccess k false n 0 f.inner.length d))

/-- The new frame in a link's transmit FIFO is numbered, held and sent (R333, R334). -/
def sendNew (k p : Nat) (r : Fin 2) (inner : List Byte) (d : Dev) : Dev :=
  let n := innerShare d p inner
  let h := ((d.hl k).share n).nextHseq
  let d := d.modHl k (fun l => { l.modShare n (fun s =>
    { s with nextHseq := (h + 1) % 2 ^ 48, rtx := s.rtx ++ [⟨h, inner, d.time.raw, r⟩] }) with txFifo := none })
  lcnt k 0 (showUse k (sendData k p r n false h inner (haulAccess k false n 1 inner.length d)))

/-- Deficit round-robin among candidates (id, size), given quanta and the one served last: the first, from the one after the last served,
whose deficit covers its size, after as few rounds of quanta as that takes. -/
def drrChoose (cands : List (Nat × Nat)) (quantum deficit : Nat → Nat) (last : Nat) : Option (Nat × (Nat → Nat)) :=
  let order := cands.filter (fun c => decide (last < c.1)) ++ cands.filter (fun c => decide (c.1 ≤ last))
  let keep := cands.filter (fun c => c.1 == last && decide (c.2 ≤ deficit last))
  match keep with
  | c :: _ => some (c.1, fun i => if i = c.1 then deficit i - c.2 else deficit i)
  | [] =>
    let rounds (c : Nat × Nat) : Nat := divUp (c.2 - deficit c.1) (max 1 (quantum c.1))
    match (order.map rounds).min? with
    | none => none
    | some m =>
      match order.find? (fun c => rounds c == m) with
      | none => none
      | some c =>
        let idx := order.findIdx (fun x => x.1 == c.1)
        let add (i : Nat) : Nat :=
          match order.findIdx? (fun x => x.1 == i) with
          | some j => quantum i * (if j ≤ idx then m else m - 1)
          | none => 0
        some (c.1, fun i => if i = c.1 then deficit i + add i - c.2 else deficit i + add i)

/-- Links active on a port whose new frame waits, with its size; parity for the other route goes first (R345). -/
def newCands (d : Dev) (p : Nat) : List (Nat × Nat) :=
  (routesOn d p).filterMap (fun x =>
    if activeRoute d x.1 == some x.2 && (d.hl x.1).parityQ.isEmpty then (d.hl x.1).txFifo.map (fun f => (x.1, f.length)) else none)

def ctxRing : RingRef := ⟨R.HAUL_CTX_BASE, R.HAUL_CTX_CFG_LOG2SIZE, R.HAUL_CTX_CFG_EN, R.HAUL_CTX_HEAD_HEAD, R.HAUL_CTX_TAIL_TAIL, 2048, 2, 10⟩

/-- HAUL_FRAME_SEND (R320): parity, then retransmissions, then new frames, behind a control-ring frame of the port. -/
def haulFrameSend (p : Nat) (d : Dev) : Dev :=
  if !d.isHaul p || !d.isUp p || !saOk d p || (d.ringAt ctxRing 0).any (fun e => leAt e 0 2 == p) then d
  else
    let rs := routesOn d p
    match rs.findSome? (fun x => ((d.hl x.1).parityQ.find? (fun q => q.route == x.2)).map (fun q => (x, q))) with
    | some (x, q) =>
      let d := d.modHl x.1 (fun l => { l with parityQ := l.parityQ.erase q })
      let body := haulHeader 1 0 x.2.val 0 (d.get (R.HAUL_LINK_CFG_LINKID x.1)) 0 (q.count - 1) q.npar q.pidx q.stripe ++ q.unit
      lcnt x.1 1 (haulSend x.1 p 1 body d)
    | none =>
      match rs.find? (fun x => activeRoute d x.1 == some x.2 && !(d.hl x.1).rtxQ.isEmpty && (d.hl x.1).parityQ.isEmpty) with
      | some x => sendRetx x.1 p x.2 d
      | none =>
        let cands := newCands d p
        match drrChoose cands (fun k => 1024 * max 1 (d.get (R.HAUL_LINK_CFG_QUANT k))) (fun k => SMap.getD d.haul.drr k 0)
            (SMap.getD d.haul.last p 64) with
        | none => d
        | some (k, def') =>
          match (d.hl k).txFifo, activeRoute d k with
          | some inner, some r =>
            let drr := cands.foldl (fun m c => SMap.write m c.1 (def' c.1) 0) d.haul.drr
            sendNew k p r inner { d with haul := { d.haul with drr := drr, last := SMap.put d.haul.last p k } }
          | _, _ => d

def execHaulFrameSend (p : PortNo) (s : State) : Host.Outcome State Fault Refusal := onDev (Dev.whenApplied (haulFrameSend p.val)) s

/-- STRIPE_TIMEOUT (R330): STMO has passed since the open stripe's first frame. -/
def execStripeTimeout (k : LinkNo) (s : State) : Host.Outcome State Fault Refusal := onDev (Dev.whenApplied (closeStripe k.val)) s

/-- Own INCARN, drawn by the enclave at each reset. -/
def ownIncarn (d : Dev) : Word × Dev :=
  match d.haul.incarn with
  | some w => (w, d)
  | none =>
    let r := d.draw
    let w : Word := r.1.setWidth 32
    (w, { r.2 with haul := { r.2.haul with incarn := some w } })

def oldest (s : Share) : Nat := match s.rtx.head? with | some f => f.hseq | none => s.nextHseq

/-- STRIPE of a keepalive or ACK frame (R322): before a stripe has closed on the route a free value. -/
def lastClosed (k : Nat) (r : Fin 2) (d : Dev) : Nat × Dev :=
  match ((d.hl k).route r).lastStripe with
  | some n => (n, d)
  | none => let x := d.draw; (x.1.toNat % 65536, x.2)

/-- KEEPALIVE_SEND (R323, R342): one keepalive of the link on a route, up or not. -/
def keepaliveSend (k : Nat) (r : Fin 2) (d : Dev) : Dev :=
  let p := routePort d k r
  if !linkOn d k || !routeExists d k r || !d.isHaul p || !d.isUp p || !saOk d p then d
  else
    let i := ownIncarn d
    let c := lastClosed k r i.2
    let d := c.2
    let l := d.hl k
    let t := { advertise (d.now + txCorr d p) (l.route r).echo d with xseq := BitVec.ofNat 16 l.kaSeq }
    let body := timeBytes t ++ beBytes 6 l.share0.expect ++ beBytes 6 l.share1.expect ++ beBytes 6 (oldest l.share0) ++
      beBytes 6 (oldest l.share1) ++
      beBytes 1 (b2n l.route0.rx + 2 * b2n l.route1.rx + 4 * b2n (activeRoute d k == some 1)) ++ zeros 3 ++ beBytes 4 (swid d) ++
      beBytes 4 i.1.toNat ++ zeros 4
    let head := haulHeader 2 0 r.val 0 (d.get (R.HAUL_LINK_CFG_LINKID k)) 0 0 0 0 c.1
    (haulSend k p 2 (head ++ body) d).modHl k (fun l => { l with kaSeq := (l.kaSeq + 1) % 65536 })

def execKeepaliveSend (k : LinkNo) (route : Fin 2) (s : State) : Host.Outcome State Fault Refusal :=
  onDev (Dev.whenApplied (keepaliveSend k.val route)) s

/-! ### NAKs and ACK frames (R335, R336) -/

/-- Missing ranges (start, count) from `from_` up to `to`, given the HSEQs held in order; counts of at most 255. -/
def gaps : Nat → Nat → Nat → List Nat → List (Nat × Nat)
  | 0, _, _, _ => []
  | fuel + 1, from_, upto, held =>
    if !laterH upto from_ then []
    else match held with
      | [] =>
        let n := min 255 (ahead upto from_)
        (from_, n) :: gaps fuel ((from_ + n) % 2 ^ 48) upto []
      | h :: t =>
        if h = from_ then gaps fuel ((h + 1) % 2 ^ 48) upto t
        else if laterH from_ h then gaps fuel from_ upto t
        else
          let stop := if laterH h upto then upto else h
          let n := min 255 (ahead stop from_)
          (from_, n) :: gaps fuel ((from_ + n) % 2 ^ 48) upto held

/-- Ranges of a share that are due for a NAK, at most 17 of them. -/
def nakRanges (s : Share) : List (Nat × Nat) :=
  let from_ := if laterH s.nakd s.expect then s.nakd else s.expect
  gaps (17 + s.held.length) from_ s.nakTo ((heldInOrder s).map (·.1))

/-- HAUL_ACK_SEND (R335): an ACK frame on the active route, with at most 16 ranges. -/
def haulAckSend (k : Nat) (d : Dev) : Dev :=
  match activeRoute d k with
  | none => d
  | some r =>
    let p := routePort d k r
    let l := d.hl k
    let all := (nakRanges l.share0).map (fun x => ((0 : Fin 2), x.1, x.2)) ++ (nakRanges l.share1).map (fun x => ((1 : Fin 2), x.1, x.2))
    if (!l.ackDue && all.isEmpty) || !saOk d p then d
    else
      let rs := all.take 16
      let body := beBytes 6 l.share0.expect ++ beBytes 6 l.share1.expect ++ beBytes 1 rs.length ++ zeros 3 ++
        rs.flatMap (fun x => beBytes 6 x.2.1 ++ beBytes 1 x.1.val ++ beBytes 1 x.2.2)
      let c := lastClosed k r d
      let d := c.2
      let head := haulHeader 3 0 r.val 0 (d.get (R.HAUL_LINK_CFG_LINKID k)) 0 0 0 0 c.1
      let d := lcnt k 6 (haulSend k p 3 (head ++ body) d) rs.length
      d.modHl k (fun l => { rs.foldl (fun l x => l.modShare x.1 (fun s => { s with nakd := (x.2.1 + x.2.2) % 2 ^ 48 })) l with ackDue := false })

def execHaulAckSend (k : LinkNo) (s : State) : Host.Outcome State Fault Refusal := onDev (Dev.whenApplied (haulAckSend k.val)) s

/-- HAUL_NAK_REPEAT (R336): what a share still misses is NAKed again, one RTO after its last NAK. -/
def execHaulNakRepeat (k : LinkNo) (share : Fin 2) (s : State) : Host.Outcome State Fault Refusal :=
  onDev (Dev.whenApplied (fun d => d.modHl k.val (fun l => l.modShare share (fun s => { s with nakd := s.expect })))) s

/-! ### Acknowledgements and retransmission (R334, R338) -/

def queueRetx (n : Fin 2) (h : Nat) (l : HLink) : HLink :=
  if l.rtxQ.contains (n, h) then l else { l with rtxQ := l.rtxQ ++ [(n, h)] }

/-- ACKSEQ of a share (R334, R338): what it passes is released; any advance restores the RTO. -/
def ackShare (k : Nat) (n : Fin 2) (ack : Nat) (d : Dev) : Dev :=
  let s := (d.hl k).share n
  let keep := s.rtx.filter (fun f => f.hseq == ack || laterH f.hseq ack)
  if keep.length = s.rtx.length then d
  else
    let d := d.modHl k (fun l => { l.modShare n (fun s => { s with rtx := keep, expiries := 0, backoff := 1 }) with
      route0 := { l.route0 with rmaxHit := false }, route1 := { l.route1 with rmaxHit := false } })
    updateLink k 0 (showUse k d)

/-- An ACK or keepalive on the active route after a failover: frames last sent on the failed route go again (R343). -/
def resendFailed (k : Nat) (r : Fin 2) (d : Dev) : Dev :=
  if (d.hl k).resend.isEmpty || activeRoute d k ≠ some r then d
  else d.modHl k (fun l =>
    { (l.resend.filter (fun x => (l.share x.1).rtx.any (fun f => f.hseq == x.2))).foldl (fun l x => queueRetx x.1 x.2 l) l with resend := [] })

/-- A NAK range (R338): its frames go again, unless sent within half the active route's SRTT. -/
def nakRange (k : Nat) (x : Nat × Nat × Nat) (d : Dev) : Dev :=
  let n : Fin 2 := Fin.ofNat 2 x.2.1
  match activeRoute d k with
  | none => d
  | some r =>
    let half := srttOf d k r / 2
    let due := ((d.hl k).share n).rtx.filter (fun f => decide (ahead f.hseq x.1 < x.2.2)
      && decide (10 * half ≤ (((d.time.raw - f.sentRaw) * 524288 : Nat) : Int)))
    d.modHl k (fun l => due.foldl (fun l f => queueRetx n f.hseq l) l)

/-- HAUL_RTO_EXPIRY (R338): a frame's RTO has passed without ACKSEQ passing it. -/
def haulRtoExpiry (k : Nat) (n : Fin 2) (h : Nat) (d : Dev) : Dev :=
  match activeRoute d k with
  | none => d
  | some r =>
    if !((d.hl k).share n).rtx.any (fun f => f.hseq == h) then d
    else
      let d := d.modHl k (fun l => queueRetx n h (l.modShare n (fun s =>
        { s with expiries := s.expiries + 1, backoff := min 64 (2 * s.backoff) })))
      if max 1 (d.get (R.HAUL_LINK_TMR_RMAX k)) ≤ ((d.hl k).share n).expiries then
        updateRoute k r 4 (d.modHl k (fun l => l.modRoute r (fun x => { x with rmaxHit := true })))
      else d

def execHaulRtoExpiry (k : LinkNo) (share : Fin 2) (hseq : Nat) (s : State) : Host.Outcome State Fault Refusal :=
  onDev (Dev.whenApplied (haulRtoExpiry k.val share hseq)) s

/-- RESEQ_GAP_TIMEOUT (R341): the gap at E has lasted RSQTMO. -/
def reseqGapTimeout (k : Nat) (n : Fin 2) (d : Dev) : Dev :=
  match (heldInOrder ((d.hl k).share n)).head? with
  | none => d
  | some x =>
    let m := moveExpect x.1 ((d.hl k).share n)
    showUse k (lcnt k 10 ((readHeld k n ((d.hl k).share n) m.1 d).modHl k (fun l => l.modShare n (fun _ => m.1))) m.2)

def execReseqGapTimeout (k : LinkNo) (share : Fin 2) (s : State) : Host.Outcome State Fault Refusal :=
  onDev (Dev.whenApplied (reseqGapTimeout k.val share)) s

/-! ### Keepalives and ACK frames received (R332, R337, R341, R342) -/

/-- RTT sample of a keepalive (R337). -/
def rttSample (k : Nat) (r : Fin 2) (m : TimeMsg) (t4 : Int) (d : Dev) : Dev :=
  let s := (t4 - m.techo) - (m.ttx - m.trx)
  let x := (d.hl k).route r
  let put (a b : Int) (d : Dev) : Dev := showRtt k (d.modHl k (fun l => l.modRoute r (fun y => { y with srtt := some a, rttvar := b })))
  match x.srtt with
  | none => put s (s / 8) d
  | some a =>
    if (d.get R.HAUL_CFG_STEPTHR : Nat) * usUnit < absI (s - a) then put s (s / 8) (lcnt k 14 d)
    else
      let a' := (7 * a + s) / 8
      put a' ((3 * x.rttvar + absI (a' - s)) / 4) d

/-- OLDESTn and INCARN of a keepalive (R341). -/
def peerOldest (k : Nat) (n : Fin 2) (o : Nat) (fresh : Bool) (d : Dev) : Dev :=
  let s := (d.hl k).share n
  if fresh then
    let skipped := if laterH o s.expect then ahead o s.expect else 0
    showUse k (lcnt k 10 (d.modHl k (fun l => l.modShare n (fun s => { s with held := [], expect := o, nakTo := o, nakd := o }))) skipped)
  else if laterH o s.expect then
    let m := moveExpect o s
    showUse k (lcnt k 10 ((readHeld k n s m.1 d).modHl k (fun l => l.modShare n (fun _ => m.1))) m.2)
  else d

/-- A stripe on the route is final by the STRIPE of a keepalive or ACK frame (R332). -/
def finalBy (k : Nat) (r : Fin 2) (n : Nat) (d : Dev) : Dev :=
  match ((d.hl k).route r).stripe with
  | some s => if stripeGe n s.num then (finalise k r d).modHl k (fun l => l.modRoute r (fun y => { y with rxFinal := some n })) else d
  | none => d.modHl k (fun l => l.modRoute r (fun y => if y.rxFinal.all (fun q => stripeGe n q) then { y with rxFinal := some n } else y))

/-- A keepalive of the link (R323, R337, R341, R342, R346). -/
def receiveKeepalive (k p : Nat) (r : Fin 2) (stripe : Nat) (pl : List Byte) (t4 : TimeVal) (d : Dev) : Dev :=
  let m := timeOf pl t4 false
  let incarn : Word := BitVec.ofNat 32 (beAt pl 96 4)
  let d := finalBy k r stripe d
  if beAt pl 92 4 ≠ d.get (R.HAUL_LINK_PEER_PEERSWID k) then
    if ((d.hl k).route r).badSwid then d
    else updateRoute k r 6 (raiseCE blkHaul 4 k (d.modHl k (fun l => l.modRoute r (fun x => { x with badSwid := true }))))
  else
    let t4 := t4 - rxCorr d p
    let d := d.modHl k (fun l => l.modRoute r (fun x => { x with rx := true, badSwid := false, echo := some (m.xseq, m.ttx, t4) }))
    let late := match (d.hl k).peerKaSeq with | none => true | some q => stripeGe m.xseq.toNat q
    let d := if late then
        (d.modHl k (fun l => { l with peerKaSeq := some m.xseq.toNat
                                      route0 := { l.route0 with peerRx := beBits pl 88 1 0 0 == 1 }
                                      route1 := { l.route1 with peerRx := beBits pl 88 1 1 1 == 1 } }))
      else d
    let fresh := (d.hl k).incarn.any (fun w => w != incarn)
    let restart (x : Route) : Route := if fresh then { x with rxFinal := none } else x
    let d := d.modHl k (fun l => { l with incarn := some incarn, route0 := restart l.route0, route1 := restart l.route1 })
    let d := peerOldest k 1 (beAt pl 82 6) fresh (peerOldest k 0 (beAt pl 76 6) fresh d)
    let d := ackShare k 1 (beAt pl 70 6) (ackShare k 0 (beAt pl 64 6) d)
    let d := if m.echov then rttSample k r m t4 d else d
    let d := if d.on (R.HAUL_LINK_CFG_TSEN k) then timeSample (1024 + 2 * k + r.val) p m d else d
    resendFailed k r (updateLink k 3 d)

/-- NAK ranges of an ACK payload (R323): start, share, count. -/
def nakList (pl : List Byte) : List (Nat × Nat × Nat) :=
  (List.range (beAt pl 12 1)).map (fun m => (beAt pl (16 + 8 * m) 6, beBits pl (22 + 8 * m) 1 0 0, beAt pl (23 + 8 * m) 1))

/-- An ACK frame. -/
def receiveAck (k : Nat) (r : Fin 2) (stripe : Nat) (pl : List Byte) (d : Dev) : Dev :=
  let d := ackShare k 1 (beAt pl 6 6) (ackShare k 0 (beAt pl 0 6) (finalBy k r stripe d))
  resendFailed k r (Dev.each (nakList pl) (nakRange k) d)

/-! ### Reception (R317, R321, R324, R325, R328) -/

def hasTag (bs : List Byte) : Bool := beAt bs 12 2 == 0x88E5

/-- What stands between the SecTAG and the FCS: the data that SL says there is, and the ICV (R321, R325). -/
def secured (bs : List Byte) : List Byte :=
  let x := slice bs 28 (bs.length - 32)
  if beAt bs 15 1 = 0 then x else x.take (beAt bs 15 1 + 16)

/-- A SecTAG of V = 0, ES = 0, SC = 1, SCB = 0 (R325), with E and C as MODE has them (R329; DEDUCED, log 107) and an SL that the frame bears out. -/
def secTagOk (mode : Nat) (bs : List Byte) : Bool :=
  beBits bs 14 1 7 4 == 2 && beBits bs 14 1 3 2 == (if mode = 2 then 3 else 0) && decide (beAt bs 15 1 < 48) &&
  decide ((if beAt bs 15 1 = 0 then 48 else beAt bs 15 1) + 16 ≤ (secured bs).length)

def tagAn (bs : List Byte) : Nat := beBits bs 14 1 1 0

/-- The 64-bit PN of a received frame: its low half is in the SecTAG, its high half that of the lowest acceptable PN, or one more where the low
half has wrapped since (IEEE 802.1AE; PRESUMED, log 107). -/
def rxPn (p : Nat) (bs : List Byte) (d : Dev) : Nat :=
  let low := d.rd64 (R.HAUL_SA_PN p 1 (tagAn bs))
  let x := beAt bs 16 4
  (low / 2 ^ 32 + (if bitAt low 31 && !bitAt x 31 then 1 else 0)) * 2 ^ 32 + x

/-- The data of a frame whose ICV verifies. -/
def gcmOpen (p : Nat) (bs : List Byte) (d : Dev) : Option (List Byte) :=
  let an := tagAn bs
  let x := secured bs
  let data := x.take (x.length - 16)
  if msecMode d p = 2 then aesGcmOpen (saBytes (R.HAUL_SA_KEY p 1 an) 8 d) (xpnNonce p 1 an (rxPn p bs d) d) (bs.take 28) x
  else if gcmXpn p 1 an (rxPn p bs d) false (bs.take 28) data d = x then some data else none

/-- The check of R328 that a frame fails, as its HAUL_PCNT counter, or what the frame carries from its EtherType on. -/
def macsecCheck (d : Dev) (p : Nat) (bs : List Byte) : Except Nat (List Byte) :=
  if msecMode d p = 0 then (if hasTag bs then .error 1 else .ok (slice bs 12 (bs.length - 16)))
  else if !hasTag bs || !secTagOk (msecMode d p) bs then .error 1
  else if !d.on (R.HAUL_SA_CTL_VALID p 1 (tagAn bs)) || !(routesOn d p).any (fun x => d.rd64 (R.HAUL_LINK_PMAC x.1) == beAt bs 20 6) then .error 2
  else if rxPn p bs d < d.rd64 (R.HAUL_SA_PN p 1 (tagAn bs)) then .error 3
  else match gcmOpen p bs d with
    | none => .error 0
    | some x => .ok x

/-- A frame is accepted on its SA: the lowest acceptable PN moves (R328). -/
def macsecAccept (p : Nat) (bs : List Byte) (d : Dev) : Dev :=
  if msecMode d p = 0 then d
  else
    let a := R.HAUL_SA_PN p 1 (tagAn bs)
    (d.wr64 a (max (d.rd64 a) (rxPn p bs d + 1 - d.get (R.HAUL_MSEC_REPLAY p)))).set (R.HAUL_SA_CTL_INUSE p 1 (tagAn bs)) 1

/-- The payload of a keepalive or an ACK frame is all there (R323; a shorter one is a header error, DESIGN CHOICE, log 107). -/
def bodyOk (kind : Nat) (pl : List Byte) : Bool :=
  if kind = 2 then decide (104 ≤ pl.length)
  else kind != 3 || (decide (beAt pl 12 1 ≤ 16) && decide (16 + 8 * beAt pl 12 1 ≤ pl.length))

/-- The enabled link and route that a valid haul header names on a port. -/
def haulMatch (d : Dev) (p : Nat) (h : HaulHdr) (pl : List Byte) : Option (Nat × Fin 2) :=
  if h.hver ≠ 2 || !h.crcOk || decide (3 < h.kind) || !bodyOk h.kind pl then none
  else (routesOn d p).find? (fun x => d.get (R.HAUL_LINK_CFG_LINKID x.1) == h.linkid)

/-- A haul frame of a link by its HKIND. -/
def haulKind (p k : Nat) (r : Fin 2) (h : HaulHdr) (pl : List Byte) (t4 : TimeVal) (d : Dev) : Dev :=
  match h.kind with
  | 0 => receiveData k r h pl d
  | 1 => receiveParity k r h pl d
  | 2 => receiveKeepalive k p r h.stripe pl t4 d
  | _ => receiveAck k r h.stripe pl d

/-- The frame is a haul frame by its EtherType, in the clear or behind a SecTAG (R321). -/
def isHaulFrame (d : Dev) (p : Nat) (bs : List Byte) : Bool := hasTag bs || beAt bs 12 2 == d.get (R.PORT_OFPE_ETYPE (p / 128))

/-- HAUL_FRAME_RECEIVE after the frames of punt reason 5 (R317, R324). -/
def haulReceive (p : Nat) (bs : List Byte) (t4 : TimeVal) (d : Dev) : Dev :=
  let pc (r : Nat) (d : Dev) : Dev := d.bump (R.HAUL_PCNT_COUNT p r)
  if !isHaulFrame d p bs then pc 6 d
  else match macsecCheck d p bs with
    | .error r => pc r d
    | .ok x =>
      let d := macsecAccept p bs d
      if beAt x 0 2 ≠ d.get (R.PORT_OFPE_ETYPE (p / 128)) then pc 6 d
      else
        let h := haulHdr (slice x 2 16)
        match haulMatch d p h (x.drop 18) with
        | none => pc 5 d
        | some (k, r) => haulKind p k r h (x.drop 18) t4 d

/-! ### The control ring, SAs, disabling a link -/

/-- CONTROL_RING_SEND (R325): the entry at HEAD goes out unprotected on its haul port. -/
def controlRingSend (d : Dev) : Dev :=
  match d.ringAt ctxRing 0 with
  | none => d
  | some e =>
    let p := leAt e 0 2
    let n := leAt e 2 2
    let d := if p < 1024 && d.isHaul p && decide (60 ≤ n) && decide (n ≤ 2040) then
        d.emit (.packet (Fin.ofNat 1024 p) (withFcs (slice e 4 n)) false)
      else d
    d.ringAdvance ctxRing

def execControlRingSend (s : State) : Host.Outcome State Fault Refusal := onDev (Dev.whenApplied controlRingSend) s

/-- INUSE of the transmit SAs of a port: that of TXAN (R349). -/
def showInuse (p : Nat) (d : Dev) : Dev :=
  Dev.each (List.range 4) (fun a d => d.set (R.HAUL_SA_CTL_INUSE p 0 a) (b2n (txAn d p == a))) d

/-- SA_VALID_WRITE (R326): VALID = 0 erases the key and the salt. -/
def saValidWrite (p dir an : Nat) (w : CsrW) (d : Dev) : Dev :=
  let d := writeOwn RF.HAUL_SA_CTL (R.HAUL_SA_CTL p dir an) w d
  let d := if wOn w (R.HAUL_SA_CTL_VALID p dir an) then d
    else
      let d := if dir = 1 then d.set (R.HAUL_SA_CTL_INUSE p dir an) 0 else d
      { d with hidden := d.hidden.filter (fun x => !(decide (R.HAUL_SA_KEY p dir an 0 ≤ x.1) && decide (x.1 < R.HAUL_SA_SSCI p dir an))) }
  haulPortChange p 5 (showInuse p d)

def execSaValidWrite (p : PortNo) (dir : Fin 2) (an : Fin 4) (w : CsrW) (s : State) : Host.Outcome State Fault Refusal :=
  onDev (Dev.whenRunning (fun d => onUnit (d.portDieFitted (p.val / 128)) (R.HAUL_SA_CTL p.val dir.val an.val) w
    (saValidWrite p.val dir.val an.val w) d)) s

/-- The buffers of a link are discarded; its numbering goes on. -/
def discardLink (l : HLink) : HLink :=
  let f (s : Share) : Share := { s with rtx := [], expiries := 0, backoff := 1, held := [], deliver := [] }
  { (l.modShare 0 f).modShare 1 f with
    route0 := { Route.init with lastStripe := l.route0.lastStripe }, route1 := { Route.init with lastStripe := l.route1.lastStripe },
    peerKaSeq := none, ackDue := false, txFifo := none, units := [], parityQ := [], rtxQ := [], resend := [] }

/-- HAUL_LINK_DISABLE (R350): a write of EN = 0 discards the link's buffers and leaves STATE at 0. -/
def haulLinkDisable (k : Nat) (w : CsrW) (d : Dev) : Dev :=
  let was := linkOn d k
  let d := writeOwn RF.HAUL_LINK_CFG (R.HAUL_LINK_CFG k) w d
  if linkOn d k || !was then d
  else
    let l := d.hl k
    let n (s : Share) : Nat := s.rtx.length + s.held.length + s.deliver.length
    let d := lcnt k 11 (d.modHl k discardLink) (n l.share0 + n l.share1)
    let d := loseInput (1024 + 2 * k) (loseInput (1025 + 2 * k) (showUse k d))
    setState k 0 ((d.set (R.HAUL_LINK_STAT_R0UP k) 0).set (R.HAUL_LINK_STAT_R1UP k) 0)

def execHaulLinkDisable (k : LinkNo) (w : CsrW) (s : State) : Host.Outcome State Fault Refusal :=
  onDev (Dev.whenRunning (haulLinkDisable k.val w)) s

/-! ### From the home port's queues (R320) -/

/-- The transmit FIFO is empty and the frame's share has room. -/
def haulRoom (d : Dev) (k : Nat) (inner : List Byte) : Bool :=
  let n := innerShare d (routePort d k 0) inner
  (d.hl k).txFifo.isNone &&
  decide (rtxUse ((d.hl k).share n) + inner.length ≤ shareBytes d k (d.get (R.HAUL_LINK_BUF_RTXMIB k)) n)

def haulAccept (k : Nat) (inner : List Byte) (d : Dev) : Dev := d.modHl k (fun l => { l with txFifo := some inner })

end Sys2Proof.Machine
end

