-- ==== Sys2Proof/Machine/Receive.lean ====
section
/-! DEFINITION. What a port receives: the packet behind a join tag, its size, credits, class and cells (R41, R111, R138, R160, R165, R168). -/

namespace Sys2Proof.Machine

/-- The packet behind the join tag, where there is one. -/
def rxBody (d : Dev) (p : Nat) (bs : List Byte) : List Byte := if d.isJoin p then bs.drop 4 else bs

/-- An OFP packet, else an Ethernet frame (R41, R138). -/
def rxOfp (d : Dev) (p : Nat) (bs : List Byte) : Bool := if d.isJoin p then beBits bs 0 1 2 2 == 0 else d.isOfp p

/-- TC of an Ethernet frame on the L2 and L3 paths (R138). A trusting port has no DSCP of a frame that is not IP and takes the PCP map for it, and
an untagged frame has PCP 0 (DESIGN CHOICE, log 102). -/
def ethTc (d : Dev) (p : Nat) (h : EthHdr) : Nat := if d.on (R.FWD_PORT_CFG_TRUST p) && h.ip != 0 then h.dscp / 8 else pcpTc d h.pcp

/-- Size of a received packet, without its join tag (R160); for a frame whose tail has not arrived, its bytes so far. -/
def rxSize (ofp : Bool) (body : List Byte) : Nat := if ofp then 36 + (ofpHdr body).len else body.length

/-- VC number and credits that a packet used on an OFP port (R110, R111); no credits on other ports. -/
def rxCredits (d : Dev) (p : Nat) (bs : List Byte) : BitVec 4 × Nat :=
  if !d.isOfp p then (0, 0)
  else
    let body := rxBody d p bs
    let ofp := rxOfp d p bs
    let n := divUp (4 * divUp (rxSize ofp body + (if d.isJoin p then 4 else 0)) 4) 64
    if ofp then (BitVec.ofNat 4 (2 * (ofpHdr body).tc + (ofpHdr body).vc), n)
    else (BitVec.ofNat 4 (2 * ethTc d p (parseEth body)), n)

/-- Cells that the headgate sets aside (R168). -/
def firstCells (ofp : Bool) (body : List Byte) : Nat :=
  if ofp then cellsFor (36 + (ofpHdr body).len)
  else match (parseEth body).ipLen with | some n => if (parseEth body).trunc then 37 else cellsFor n | none => 37

/-- The entry class of R165: an OFP port, or a PFC port and an outer PCP in PRIMASK. -/
def rxLossless (d : Dev) (p : Nat) (bs : List Byte) : Bool :=
  d.isOfp p || (d.isEth p && d.on (R.PORT_PCTL_PFC p) && (parseEth bs).tags != 0 && bitAt (d.get (R.PORT_PFC_CFG_PRIMASK 0)) (parseEth bs).pcp)

/-- The packet as the pipeline first sees it, with the next number. -/
def rxPkt (d : Dev) (p : Nat) (bs : List Byte) : Pkt :=
  let body := rxBody d p bs
  let ofp := rxOfp d p bs
  let join := d.isJoin p
  let devidx := if join then beBits bs 0 1 5 3 else d.get (R.PORT_JOIN_CFG_DEVIDX 0)
  let inport := if join then beBits bs 1 2 15 6 else p
  let orig := join && beBits bs 0 1 1 1 == 1
  { id := d.cist.nextId, bytes := body, ofp := ofp, inPort := some (Fin.ofNat 1024 p)
    acct := if orig then none else some (Fin.ofNat 8192 (1024 * devidx + inport))
    job := none, tc := Fin.ofNat 8 (if ofp then (ofpHdr body).tc else ethTc d p (parseEth body)), lossless := rxLossless d p bs
    cells := firstCells ofp body, headroom := false, ingr := 0, creditsDue := none, crc := if ofp then 0 else crcRun crcStart body, whole := false, cutThrough := false, poisoned := false
    spilled := false, turn := d.turn, result := 0, fset := none, encap := none, jhops := if join then beBits bs 1 2 5 3 else 0
    orig := orig, dev := BitVec.ofNat 3 devidx, inport := Fin.ofNat 1024 inport, built := false, ether := !ofp }

end Sys2Proof.Machine
end

