-- ==== Sys2Proof/Machine/Egress.lean ====
section
/-! DEFINITION. Egress: what a packet looks like when it leaves a port (R41, R113 to R116, R124, R153), scheduling (R193 to R196, R226),
ECN marking (R197, R198), multicast (R201 to R203), ports that are down and queue flushes (R204, R205). -/

namespace Sys2Proof.Machine

/-! ### The packet as it leaves -/

/-- HCRC recomputed (R115). -/
def rehash (bs : List Byte) : List Byte := patch bs 30 (beBytes 2 (crc16 (bs.take 30)))

/-- The port turns its traffic back at L5 (R492). -/
def inL5 (d : Dev) (port : Nat) : Bool := d.get (R.TEST_PORT_LOOP_DEPTH port) == 6
def inL4 (d : Dev) (port : Nat) : Bool := d.get (R.TEST_PORT_LOOP_DEPTH port) == 5

/-- VC a packet leaves with (R113). -/
def outVc (d : Dev) (port : Nat) (p : Pkt) : Nat := if p.ofp && d.on (R.PORT_PCTL_DATELINE port) && !inL5 d port then 1 else p.vc

/-- VC number of a packet on a link (R110); an Ethernet frame on a join port goes on VC 0 of its TC. -/
def vcNumber (p : Pkt) (vc : Nat) : Nat := 2 * p.tc.val + (if p.ofp then vc else 0)

/-- OFP header as sent: VC of the dateline, HOPS + 1 on forwarding, HCRC (R113, R115, R116); at L5 HCRC alone. -/
def outHeader (d : Dev) (port : Nat) (p : Pkt) : List Byte :=
  if !p.ofp then p.bytes
  else if inL5 d port then rehash p.bytes
  else
    let h := ofpHdr p.bytes
    let b1 := h.tc * 32 + outVc d port p * 16 + h.ecn * 4 + b2n h.echo * 2 + b2n h.last
    let hops := if p.built then h.hops else h.hops + 1
    rehash (patch (patch p.bytes 1 (beBytes 1 b1)) 11 (beBytes 1 (hops * 16 + beBits p.bytes 11 1 3 0)))

/-- The join tag (R41): DEV is this device for a packet that it built, else the one the packet entered at. -/
def joinTag (d : Dev) (port : Nat) (p : Pkt) : List Byte :=
  tagBytes (if p.built then d.get (R.PORT_JOIN_CFG_DEVIDX 0) else p.dev.toNat) (!p.ofp) p.orig p.inport.val
    (if inL5 d port then p.jhops else p.jhops + 1)

/-- Encapsulation of an OFP packet (R124, R125): `free` gives PCP, DSCP, flow label and hop limit, which the spec leaves open. -/
def encapsulate (d : Dev) (e : Nat × Nat × Nat × Nat) (free : Nat) (bs : List Byte) : List Byte :=
  let (dmac, vid, enc, ip6) := e
  let tag := if vid = 0 then [] else beBytes 2 0x8100 ++ beBytes 2 (free % 16 * 4096 + vid)
  let head := beBytes 6 dmac ++ beBytes 6 (d.rd64 R.FWD_RMAC) ++ tag
  let h := ofpHdr bs
  if enc = 2 then
    let self := (List.range 4).flatMap (fun n => beBytes 4 (d.get (R.FWD_SELF_IP6_ADDR n)))
    let n := 8 + bs.length
    let udp := beBytes 2 (0xC000 + h.entropy % 16384) ++ beBytes 2 (d.get (R.PORT_OFPE_UDPPORT 0)) ++ beBytes 2 n ++ zeros 2
    let ip := beBytes 4 (6 * 2 ^ 28 + (free / 16 % 64 * 4 + h.ecn) * 2 ^ 20 + free / 1024 % 2 ^ 20) ++ beBytes 2 n ++ [17] ++
      beBytes 1 (free / 2 ^ 30 % 256) ++ self ++ beBytes 16 ip6
    head ++ beBytes 2 0x86DD ++ ip ++ udp ++ bs
  else head ++ beBytes 2 (d.get (R.PORT_OFPE_ETYPE 0)) ++ bs

/-- Bytes of the encapsulation in front of an OFP packet. -/
def encapLen (e : Nat × Nat × Nat × Nat) : Nat := 14 + (if e.2.1 = 0 then 0 else 4) + (if e.2.2.1 = 2 then 48 else 0)

/-- What stands on the link from the first byte on: tag or encapsulation, and the packet. `fin` adds what ends a frame. -/
def frontOf (d : Dev) (port free : Nat) (p : Pkt) : List Byte :=
  if d.isJoin port then joinTag d port p ++ outHeader d port p
  else if d.isOfp port then outHeader d port p
  else match p.ofp, p.encap with
    | true, some e => encapsulate d e free (outHeader d port p)
    | _, _ => p.bytes

/-- Padding to the Ethernet minimum and the FCS of an encapsulated packet (R124). -/
def finish_ (d : Dev) (port : Nat) (p : Pkt) (bs : List Byte) : List Byte :=
  if p.ofp && !d.isOfp port then withFcs (padTo bs 60) else bs

/-- Size of a packet on the link, for deficits, shapers and grants (R102, R194). -/
def linkSize (d : Dev) (port : Nat) (p : Pkt) : Nat :=
  if d.isOfp port then 4 * divUp (p.size + (if d.isJoin port then 4 else 0)) 4
  else match p.ofp, p.encap with
    | true, some e => max 64 (encapLen e + p.size + 4) + 20
    | _, _ => p.size + 20

/-- Size that the link must have room for: that of the largest frame while the tail of an Ethernet frame is still to come (DESIGN CHOICE,
log 101). -/
def boundSize (d : Dev) (port : Nat) (p : Pkt) : Nat :=
  if p.whole || p.ofp then linkSize d port p else linkSize d port { p with bytes := zeros 9216 }

/-- Credits that a packet takes (R111). -/
def creditsOf (d : Dev) (port : Nat) (p : Pkt) : Nat := divUp (linkSize d port p) 64

/-- Inner frame for the haul engine (R321): the frame without its FCS. -/
def innerOf (d : Dev) (port free : Nat) (p : Pkt) : List Byte :=
  let bs := finish_ d port p (frontOf d port free p)
  bs.take (bs.length - 4)

/-- The PTP message of a frame (R415): EtherType 0x88F7, or UDP destination port 319, within the parser's reach. -/
def ptpOf (bs : List Byte) : Option PtpMsg :=
  let h := parseEth bs
  let msg (o : Nat) : Option PtpMsg :=
    some ⟨BitVec.ofNat 4 (beAt bs o 1), BitVec.ofNat 8 (beAt bs (o + 4) 1), BitVec.ofNat 16 (beAt bs (o + 30) 2), slice bs (o + 20) 10⟩
  if h.trunc then none
  else if h.etype = 0x88F7 then msg h.l3
  else if h.ip != 0 && h.proto == 17 && h.dport == 319 then msg (h.l4 + 8)
  else none

/-- A PTP event message passes an Ethernet port: DIR 0 received, 1 transmitted. -/
def ptpSeen (port dir : Nat) (bs : List Byte) (d : Dev) : Dev :=
  if !d.isEth port then d
  else match ptpOf bs with
    | some m => tsRecord port dir m (if dir = 0 then d.now - rxCorr d port else d.now + txCorr d port) d
    | none => d

/-- The packet stands on the link: as sequenced pairs on an OFP port (R98, R107), else as a frame. -/
def putOut (port : Nat) (p : Pkt) (bs : List Byte) (stomp : Bool) (d : Dev) : Dev :=
  if d.isOfp port then sequencePacket port bs p d else d.emit (.packet (Fin.ofNat 1024 port) bs stomp)

/-- Counters and output of a packet whose last byte leaves (R454, R117, R163). A stomp inverts the packet's own trailer or FCS. -/
def sendTail (port : Nat) (p : Pkt) (front : List Byte) (stomp : Bool) (d : Dev) : Dev :=
  let bs := if stomp then stompBytes front else front
  let d := countPort port 2 d p.size
  let d := countPort port 5 d
  let d := if p.ofp && (ofpHdr p.bytes).echo then countPort port 9 d else d
  let d := if stomp then countPort port 11 d else d
  match homeLink d port with
  | some k =>
    let f := finish_ d port p bs
    haulAccept k (f.take (f.length - 4)) d
  | none => putOut port p (finish_ d port p bs) stomp (ptpSeen port 1 bs d)

/-- n credits of VC v are used (R111). -/
def useCredits (port v n : Nat) (d : Dev) : Dev :=
  d.modLink port (fun l => { l with credits := (List.range 16).map (fun k => l.credits.getD k 0 - (if k = v then n else 0)) })

/-- A packet that already has VC 1 leaves through a dateline (R113). -/
def noteDateline (port : Nat) (p : Pkt) (d : Dev) : Dev :=
  if p.ofp && p.vc == 1 && d.on (R.PORT_PCTL_DATELINE port) && !inL5 d port then d.modLink port (fun l => { l with dateRep := l.dateRep + 1 }) else d

/-- A packet leaves by a port: a poisoned one is stomped and counted (R163); one whose tail is missing holds the port (R174). -/
def transmit (port : Nat) (p : Pkt) (d : Dev) : Dev :=
  let r := if p.ofp && p.encap.isSome then d.draw else (0, d)
  let d := noteDateline port p r.2
  let d := if d.isOfp port then useCredits port (vcNumber p (outVc d port p)) (creditsOf d port p) d else d
  let front := frontOf d port r.1.toNat p
  if !p.whole then d.modLink port (fun l => { l with tx := some (p, front) })
  else if p.poisoned then sendTail port p front true (d.bump (R.CIST_DROP_COUNT 7))
  else sendTail port p front false d

/-! ### ECN (R197, R198) -/

/-- K0 and K1 of a profile, in cells. -/
def ecnK0 (d : Dev) (e : Nat) : Nat := 64 * d.get (R.QUE_ECN_A_KMIN e)
def ecnK1 (d : Dev) (e : Nat) : Nat :=
  if d.get (R.QUE_ECN_B_KMAX e) ≤ d.get (R.QUE_ECN_A_KMIN e) then ecnK0 d e else 64 * d.get (R.QUE_ECN_B_KMAX e)

/-- The packet is ECN-capable, congestion experienced included (R198). -/
def ecnCapable (p : Pkt) : Bool := p.ecn != 0 && (p.ofp || (parseEth p.bytes).ip != 0)

/-- Header checksum after a 16-bit word has changed from `old` to `new` (R145, R198). -/
def incCsum (sum old new : Nat) : Nat :=
  let c := Nat.xor sum 0xFFFF + Nat.xor old 0xFFFF + new
  let c := c % 65536 + c / 65536
  Nat.xor (c % 65536 + c / 65536) 0xFFFF

/-- Marking sets the field; header checksum and FCS follow. -/
def markBytes (p : Pkt) : List Byte :=
  if p.ofp then rehash (patch p.bytes 1 (beBytes 1 (beAt p.bytes 1 1 / 16 * 16 + 12 + beAt p.bytes 1 1 % 4)))
  else
    let h := parseEth p.bytes
    if h.ip = 4 then
      let old := beAt p.bytes h.l3 2
      let new := old / 4 * 4 + 3
      let bs := patch (patch p.bytes h.l3 (beBytes 2 new)) (h.l3 + 10) (beBytes 2 (incCsum (beAt p.bytes (h.l3 + 10) 2) old new))
      if p.whole then fixFcs bs else bs
    else if h.ip = 6 then
      let bs := patch p.bytes (h.l3 + 1) (beBytes 1 (beAt p.bytes (h.l3 + 1) 1 / 64 * 64 + 48 + beAt p.bytes (h.l3 + 1) 1 % 16))
      if p.whole then fixFcs bs else bs
    else p.bytes

/-- Outcome of the decision at a depth: mark, drop. -/
inductive EcnOut where
  | send | mark | drop
  deriving DecidableEq, Repr

/-- The decision of R197 for a profile and depth; `rnd` is the 16-bit random value. -/
def ecnDecide (d : Dev) (e depth rnd : Nat) (p : Pkt) : EcnOut :=
  let k0 := ecnK0 d e
  let k1 := ecnK1 d e
  if !d.on (R.QUE_ECN_C_EN e) || decide (depth < k0) then .send
  else if ecnCapable p then
    if k1 ≤ depth then .mark
    else if rnd % 65536 < d.get (R.QUE_ECN_C_PMAX e) * (depth - k0) / (k1 - k0) then .mark else .send
  else if decide (k1 ≤ depth) && !p.lossless && d.on (R.QUE_ECN_C_DROPNECT e) then .drop
  else .send

def ecnProfile (d : Dev) (q : Nat) : Nat := if q < 8192 then d.get (R.QUE_ECN_SEL_EPROF q) else d.get R.QUE_MC_CFG_EPROF

/-- A packet or copy that has left the head of queue q, at total depth `depth`: marked, dropped or sent by a port (R197, R467 point 2). A
poisoned packet is sent whatever the decision (R163); a fence dropped is answered (R231). -/
def leaveQueue (port q depth : Nat) (copy : Bool) (p : Pkt) (d : Dev) : Dev :=
  let r := d.draw
  let d := r.2
  match ecnDecide d (ecnProfile d q) depth r.1.toNat p with
  | .drop =>
    if p.poisoned then transmit port p (sample p { point := 2, outPort := some port, qdepth := depth } d)
    else pathLost p (dropOut port p copy 7 0 (d.bump (R.QUE_ECN_MARK_NDROP q)))
  | .mark =>
    let d := countPort port 8 (d.bump (R.QUE_ECN_MARK_MARKS q))
    let p := { p with bytes := markBytes p }
    transmit port p (sample p { point := 2, outPort := some port, marked := true, qdepth := depth } d)
  | .send => transmit port p (sample p { point := 2, outPort := some port, qdepth := depth } d)

/-! ### Shapers and grants (R195, R226) -/

def Sched.init : Sched := ⟨[], [], [], 0, [], [], 0, 0, none⟩
def Dev.schedOf (d : Dev) (port : Nat) : Sched := SMap.getD d.cist.sched port Sched.init
def Dev.setSched (d : Dev) (port : Nat) (x : Sched) : Dev := { d with cist := { d.cist with sched := SMap.put d.cist.sched port x } }

/-- A token count after n RAW ticks: RATE × 100 Mb/s is 2 RATE / 25 bits a tick, up to BURST KiB. -/
def accrue (rate burst ticks : Nat) (t : Int) : Int := min (t + (2 * rate * ticks : Nat)) ((max 1 burst * 8192 * 25 : Nat) : Int)

/-- The token counts of a port brought up to date. -/
def freshTokens (d : Dev) (port : Nat) (x : Sched) : Sched :=
  let n := d.time.raw - x.tick
  { x with
    tokens := (List.range 8).map (fun tc =>
      accrue (d.get (R.QUE_TC_SHAPE_RATE port tc)) (d.get (R.QUE_TC_SHAPE_BURST port tc)) n (x.tokens.getD tc 0))
    portTokens := accrue (d.get (R.QUE_PORT_SHAPE_RATE port)) (d.get (R.QUE_PORT_SHAPE_BURST port)) n x.portTokens
    tick := d.time.raw }

def shaperOk (d : Dev) (port tc : Nat) (x : Sched) : Bool :=
  (d.get (R.QUE_TC_SHAPE_RATE port tc) == 0 || decide (0 ≤ x.tokens.getD tc 0)) &&
  (d.get (R.QUE_PORT_SHAPE_RATE port) == 0 || decide (0 ≤ x.portTokens))

/-- The grant of a scheduled TC covers n bytes (R226, R227). -/
def grantOk (d : Dev) (tc n : Nat) (x : Sched) : Bool :=
  if !scheduled d tc then true
  else if !d.on R.SPRAY_SCHED_CFG_ACTIVE then false
  else match x.grant with | none => true | some g => decide (n ≤ g)

/-! ### Eligibility (R193, R320) -/

/-- A pause holds the frames of a TC (R127). -/
def pausedTc (d : Dev) (port tc : Nat) : Bool := (pfcPriorities d port tc).any (fun k => (d.link port).paused.getLsbD k)

/-- The head packet can begin to be sent (R174). -/
def headEligible (p : Pkt) : Bool := p.whole || (p.cutThrough && decide (512 ≤ p.bytes.length))

def creditOk (d : Dev) (port : Nat) (p : Pkt) : Bool :=
  !d.isOfp port || decide (divUp (boundSize d port p) 64 ≤ (d.link port).credits.getD (vcNumber p (outVc d port p)) 0)

/-- Room beyond the link's credits: the retry buffer of an OFP port (R109), the share and transmit FIFO of a haul link (R320). -/
def roomOk (d : Dev) (port : Nat) (p : Pkt) : Bool :=
  if d.isOfp port then decide (divUp (divUp (boundSize d port p) 252) 5 ≤ retryRoom d port)
  else if d.isHaul port then (homeLink d port).any (fun k => haulRoom d k (innerOf d port 0 p))
  else true

/-- Every condition on a head packet but its credits. -/
def headReady (d : Dev) (port : Nat) (x : Sched) (p : Pkt) : Bool :=
  headEligible p && countsUp d port && (!inLoopback d port || inL5 d port) && !(d.link port).squelched && !pausedTc d port p.tc.val &&
  shaperOk d port p.tc.val x && grantOk d p.tc.val (boundSize d port p) x && roomOk d port p

/-- The packet was admitted to the queue before the flush of it that runs (R205). -/
def doomed (d : Dev) (q : Nat) (p : Pkt) : Bool := d.cist.flushing.any (fun f => f.1 == q && decide (p.id < f.2))

/-- Head of a port's unicast queue of a TC. -/
def uniHead (d : Dev) (port tc : Nat) : Option Pkt := (headInH (d.uq (uniQ port tc))).filter (fun p => !doomed d (uniQ port tc) p)

def fifoKey (port tc : Nat) : Nat := 8 * port + tc
def Dev.fifo (d : Dev) (port tc : Nat) : List (Nat × Nat) := SMap.getD d.cist.fifo (fifoKey port tc) []
def Dev.setFifo (d : Dev) (port tc : Nat) (l : List (Nat × Nat)) : Dev :=
  { d with cist := { d.cist with fifo := SMap.write d.cist.fifo (fifoKey port tc) l [] } }

def mpktOf (d : Dev) (m id : Nat) : Option MPkt := (d.mq m).find? (fun x => x.pkt.id == id)

/-- Head copy of a multicast FIFO: its queue and packet. -/
def mcHead (d : Dev) (port tc : Nat) : Option (Nat × Pkt) :=
  match d.fifo port tc with
  | [] => none
  | r :: _ => (mpktOf d r.1 r.2).map (fun x => (r.1, x.pkt))

/-- Heads of a TC that are eligible: unicast, multicast. -/
def eligibleHeads (d : Dev) (port tc : Nat) (x : Sched) : Option Pkt × Option (Nat × Pkt) :=
  let ok (p : Pkt) : Bool := headReady d port x p && creditOk d port p
  (match uniHead d port tc with | some p => if ok p then some p else none | none => none,
   match mcHead d port tc with | some e => if ok e.2 then some e else none | none => none)

/-- A queue of the port waits for credit (R193). -/
def waitsForCredit (d : Dev) (port : Nat) (x : Sched) : Bool :=
  (List.range 8).any (fun tc =>
    ((uniHead d port tc).any (fun p => headReady d port x p && !creditOk d port p)) ||
    ((mcHead d port tc).any (fun e => headReady d port x e.2 && !creditOk d port e.2)))

/-! ### The choice (R194) -/

def quantOf (d : Dev) (port tc : Nat) : Nat := 64 * max 1 (d.get (R.QUE_TC_CFG_QUANT port tc))

/-- Deficit round-robin whose counters may run below zero: the one served last goes on while its deficit is positive, else the first from
the one after it whose deficit becomes positive after the fewest rounds of quanta. Answers the choice and the deficits after the quanta. -/
def drrPick (cands : List Nat) (quantum : Nat → Nat) (deficit : Nat → Int) (last : Nat) : Option (Nat × (Nat → Int)) :=
  if cands.contains last && decide (0 < deficit last) then some (last, deficit)
  else
    let order := cands.filter (fun c => decide (last < c)) ++ cands.filter (fun c => decide (c ≤ last))
    let rounds (c : Nat) : Nat := if 0 < deficit c then 1 else ((-(deficit c)) / (max 1 (quantum c) : Nat)).toNat + 1
    match (order.map rounds).min? with
    | none => none
    | some m =>
      match order.findIdx? (fun c => rounds c == m) with
      | none => none
      | some i =>
        some (order.getD i 0, fun c => match order.findIdx? (fun y => y == c) with
          | some j => deficit c + (quantum c * (if j ≤ i then m else m - 1) : Nat)
          | none => min (deficit c) (quantum c : Nat))

/-- The TC that is served: the highest eligible strict one, else by round-robin. -/
def pickTc (d : Dev) (port : Nat) (tcs : List Nat) (x : Sched) : Option (Nat × Sched) :=
  match (tcs.filter (fun tc => d.on (R.QUE_TC_CFG_STRICT port tc))).max? with
  | some tc => some (tc, x)
  | none =>
    match drrPick tcs (quantOf d port) (fun tc => min (x.deficit.getD tc 0) (quantOf d port tc : Nat)) x.lastTc with
    | none => none
    | some (tc, df) => some (tc, { x with deficit := (List.range 8).map df, lastTc := tc })

def mcQuantOf (d : Dev) (port tc : Nat) : Nat := 64 * d.get (R.QUE_TC_CFG_MCQUANT port tc)

/-- Whether the TC's multicast FIFO is served, given which of the two is eligible. With MCQUANT = 0 it is served outside the rounds. -/
def pickMc (d : Dev) (port tc : Nat) (uni mc : Bool) (x : Sched) : Bool × Sched :=
  let quantum (i : Nat) : Nat := if i = 0 then quantOf d port tc else mcQuantOf d port tc
  let cands := (if uni then [0] else []) ++ (if mc && mcQuantOf d port tc != 0 then [1] else [])
  if cands.isEmpty then (true, x)
  else
    let df (i : Nat) : Int := min (if i = 0 then x.uniDeficit.getD tc 0 else x.mcDeficit.getD tc 0) (quantum i : Nat)
    match drrPick cands quantum df (b2n (x.lastMc.getD tc false)) with
    | none => (false, x)
    | some (i, df) =>
      (i == 1, { x with uniDeficit := (List.range 8).map (fun t => if t = tc then df 0 else x.uniDeficit.getD t 0)
                        mcDeficit := (List.range 8).map (fun t => if t = tc then df 1 else x.mcDeficit.getD t 0)
                        lastMc := (List.range 8).map (fun t => if t = tc then i == 1 else x.lastMc.getD t false) })

/-- A packet of n bytes on the link is charged to the deficits that its choice went by (R194), to the shapers that are on (R195) and to the
grant. -/
def chargeSched (d : Dev) (port tc n : Nat) (mc : Bool) (x : Sched) : Sched :=
  let less (l : List Int) (c : Bool) (v : Nat) : List Int := (List.range 8).map (fun t => l.getD t 0 - (if t = tc && c then (v : Int) else 0))
  { x with
    deficit := less x.deficit (!d.on (R.QUE_TC_CFG_STRICT port tc)) n
    uniDeficit := less x.uniDeficit (!mc) n
    mcDeficit := less x.mcDeficit (mc && mcQuantOf d port tc != 0) n
    tokens := less x.tokens (d.get (R.QUE_TC_SHAPE_RATE port tc) != 0) (200 * n)
    portTokens := x.portTokens - (if d.get (R.QUE_PORT_SHAPE_RATE port) = 0 then 0 else ((200 * n : Nat) : Int))
    grant := if scheduled d tc then x.grant.map (fun g => g - n) else x.grant }

/-- What the tail of an Ethernet frame adds to its size is charged as its first bytes were (R111, R194, R195, R226). -/
def chargeTail (port : Nat) (p q : Pkt) (d : Dev) : Dev :=
  let d := if d.isOfp port then useCredits port (vcNumber p (outVc d port p)) (creditsOf d port q - creditsOf d port p) d else d
  d.setSched port (chargeSched d port p.tc.val (linkSize d port q - linkSize d port p) false (d.schedOf port))

/-- A multicast packet with no residue and no unsent copies leaves its queue (R202). -/
def sweepMq (m : Nat) (d : Dev) : Dev :=
  let l := d.mq m
  let gone := l.filter (fun x => x.taken && x.placed == 0 && x.residue.isEmpty)
  if gone.isEmpty then d
  else
    let d := Dev.each gone (fun x => discharge x.pkt) d
    gxUpdate (setMQ m (l.filter (fun x => !(x.taken && x.placed == 0 && x.residue.isEmpty))) d)

def modMpkt (m id : Nat) (f : MPkt → MPkt) (d : Dev) : Dev := setMQ m ((d.mq m).map (fun x => if x.pkt.id = id then f x else x)) d

/-- The head copy of a FIFO leaves it. -/
def popCopy (port tc : Nat) (d : Dev) : Dev :=
  match d.fifo port tc with
  | [] => d
  | r :: rest => sweepMq r.1 (modMpkt r.1 r.2 (fun x => { x with placed := x.placed - 1 }) (d.setFifo port tc rest))

/-- A port at L4 sends the head of its loop buffer back, unchanged (R492). -/
def sendLoop (port : Nat) (d : Dev) : Dev :=
  match (d.link port).loop with
  | [] => d
  | bs :: rest =>
    let ofp := d.isOfp port
    let x := rxPkt d port bs
    let c := rxCredits d port bs
    if ofp && (decide ((d.link port).credits.getD c.1.toNat 0 < c.2) || decide (retryRoom d port < divUp (divUp bs.length 252) 5)) then d
    else
      let d := d.modLink port (fun l => { l with loop := rest })
      let d := countPort port 5 (countPort port 2 d x.size)
      let d := if x.ofp && (ofpHdr x.bytes).echo then countPort port 9 d else d
      let d := putOut port { x with whole := true } bs false (ptpSeen port 1 bs (if ofp then useCredits port c.1.toNat c.2 d else d))
      if ofp then returnCredits port c.1 c.2 d else d

/-- EGRESS_DEQUEUE (R193 to R197): the port's next packet by strict priority and round-robin, within shapers, grants and credits. `bad` of its
cells are read back uncorrectable: each names the queue, and the packet is poisoned (R163). -/
def egressDequeue (port bad : Nat) (d : Dev) : Dev :=
  if inL4 d port && d.isPort port then sendLoop port d
  else if !d.isPort port || (d.link port).tx.isSome then d
  else
    let x := freshTokens d port (d.schedOf port)
    let d := if waitsForCredit d port x then d.modLink port (fun l => { l with waited := true }) else d
    let heads := (List.range 8).map (fun tc => eligibleHeads d port tc x)
    let tcs := (List.range 8).filter (fun tc => let e := heads.getD tc (none, none); e.1.isSome || e.2.isSome)
    match pickTc d port tcs x with
    | none => d.setSched port x
    | some (tc, x) =>
      let e := heads.getD tc (none, none)
      let r := pickMc d port tc e.1.isSome e.2.isSome x
      let poison (q : Nat) (p : Pkt) (d : Dev) : Pkt × Dev :=
        if bad = 0 then (p, d) else ({ p with poisoned := true }, Dev.each (List.range (min bad p.cells)) (fun _ => raiseDE blkCist 2 q) d)
      match r.1, e.1, e.2 with
      | false, some p, _ =>
        let q := uniQ port tc
        let depth := d.depth q
        let d := d.setSched port (chargeSched d port tc (linkSize d port p) false r.2)
        let y := poison q p (popHead q d)
        leaveQueue port q depth false y.1 y.2
      | true, _, some (m, p) =>
        let depth := d.depth (8192 + m)
        let d := d.setSched port (chargeSched d port tc (linkSize d port p) true r.2)
        let y := poison (8192 + m) p (popCopy port tc d)
        leaveQueue port (8192 + m) depth true y.1 y.2
      | _, _, _ => d

def execEgressDequeue (p : PortNo) (bad : Nat) (s : State) : Host.Outcome State Fault Refusal :=
  onDev (Dev.whenApplied (egressDequeue p.val bad)) s

/-! ### The replicator (R201 to R203) -/

/-- The port is ready for a TC. -/
def mcReady (d : Dev) (port tc : Nat) : Bool := countsUp d port && decide ((d.fifo port tc).length < 64)

/-- A copy reference goes into a FIFO. -/
def placeCopy (m id port tc : Nat) (d : Dev) : Dev := d.setFifo port tc (d.fifo port tc ++ [(m, id)])

/-- MULTICAST_REPLICATE (R201, R202): the oldest packet not yet taken; one whose targets have all left is freed. -/
def multicastReplicate (m : Nat) (d : Dev) : Dev :=
  match (d.mq m).find? (fun x => !x.taken && !doomed d (8192 + m) x.pkt) with
  | none => d
  | some x =>
    if !x.pkt.whole then d
    else
      let tc := x.pkt.tc.val
      let blocked (t : PortNo) : Bool := (d.mq m).any (fun y => y.taken && y.residue.contains t)
      let go := x.targets.filter (fun t => mcReady d t.val tc && !blocked t)
      let d := modMpkt m x.pkt.id (fun y => { y with taken := true, placed := go.length, residue := x.targets.filter (fun t => !go.contains t) }) d
      sweepMq m (Dev.each go (fun t => placeCopy m x.pkt.id t.val tc) d)

def execMulticastReplicate (q : Fin 1024) (s : State) : Host.Outcome State Fault Refusal :=
  onDev (Dev.whenApplied (multicastReplicate q.val)) s

/-- MULTICAST_RESIDUE_SERVE (R201): a ready port is served from the oldest packet that holds it. -/
def residueServe (m : Nat) (port : PortNo) (d : Dev) : Dev :=
  match (d.mq m).find? (fun x => x.residue.contains port && !doomed d (8192 + m) x.pkt) with
  | none => d
  | some x =>
    if !mcReady d port.val x.pkt.tc.val then d
    else placeCopy m x.pkt.id port.val x.pkt.tc.val
      (modMpkt m x.pkt.id (fun y => { y with placed := y.placed + 1, residue := y.residue.filter (fun t => t != port) }) d)

def execMulticastResidueServe (q : Fin 1024) (p : PortNo) (s : State) : Host.Outcome State Fault Refusal :=
  onDev (Dev.whenApplied (residueServe q.val p)) s

/-- The ports of a packet's residue are removed (R203). -/
def ageOne (m : Nat) (x : MPkt) (d : Dev) : Dev :=
  let d := Dev.each x.residue (fun t d => dropOut t.val x.pkt true 8 1 (d.bump R.QUE_MC_AGEDROP_COUNT)) d
  sweepMq m (modMpkt m x.pkt.id (fun y => { y with residue := [] }) d)

/-- MULTICAST_RESIDUE_AGE (R203): every packet whose residue is not empty AGE turns after its admission. -/
def residueAge (d : Dev) : Dev :=
  let age := d.get R.QUE_MC_CFG_AGE
  if age = 0 then d
  else Dev.each d.cist.mq (fun e d =>
    Dev.each (e.2.filter (fun x => x.taken && !x.residue.isEmpty && decide (x.pkt.turn + age ≤ d.turn))) (ageOne e.1) d) d

def execMulticastResidueAge (s : State) : Host.Outcome State Fault Refusal := onDev (Dev.whenApplied residueAge) s

/-! ### Ports that are down, and flushes (R204, R205) -/

/-- Every packet of a unicast queue in front of its n-th is dropped; fences are answered PATH_LOST (R231). -/
def flushFront (q n : Nat) (d : Dev) : Dev :=
  let r := dropFront q n d
  Dev.each r.1 (fun p d => pathLost p (dropOut (q / 8) p false 9 0 d)) r.2

/-- The multicast FIFO of a port and TC is flushed. -/
def flushFifo (port tc : Nat) (d : Dev) : Dev :=
  let l := d.fifo port tc
  Dev.each l (fun r d =>
    let d := match mpktOf d r.1 r.2 with | some x => dropOut port x.pkt true 9 0 d | none => d
    sweepMq r.1 (modMpkt r.1 r.2 (fun x => { x with placed := x.placed - 1 }) d)) (d.setFifo port tc [])

/-- A port leaves every residue, and the targets of packets that the replicator has not taken. -/
def leaveResidues (port : PortNo) (d : Dev) : Dev :=
  Dev.each d.cist.mq (fun e d =>
    let held := e.2.filter (fun x => x.residue.contains port)
    let d := Dev.each held (fun x => dropOut port.val x.pkt true 9 0) d
    sweepMq e.1 (setMQ e.1 ((d.mq e.1).map (fun x =>
      { x with residue := x.residue.filter (fun t => t != port), targets := x.targets.filter (fun t => t != port) })) d)) d

/-- The flush of a port that is down (R204). -/
def flushPort (port : PortNo) (d : Dev) : Dev :=
  let d := Dev.each (List.range 8) (fun tc d => flushFront (uniQ port.val tc) (d.uq (uniQ port.val tc)).pkts.length d) d
  let d := Dev.each (List.range 8) (flushFifo port.val) d
  (leaveResidues port d).modLink port.val (fun l => { l with flushed := true })

/-- DOWNFLUSH_EXPIRY (R204): the port has been down for DOWNFLUSH turns. -/
def downflushExpiry (port : PortNo) (d : Dev) : Dev :=
  let l := d.link port.val
  if !l.flushed && l.downSince.any (fun t => decide (t + d.get R.QUE_CFG_DOWNFLUSH ≤ d.turn)) then flushPort port d else d

def execDownflushExpiry (p : PortNo) (s : State) : Host.Outcome State Fault Refusal := onDev (Dev.whenApplied (downflushExpiry p)) s

/-- QUEUE_FLUSH (R205): GO starts a flush of the packets admitted so far, or is refused while BUSY. -/
def queueFlush (w : CsrW) (d : Dev) : Dev :=
  if d.on R.QUE_FLUSH_BUSY then refuseCsr R.QUE_FLUSH w d
  else
    let d := writeOwn RF.QUE_FLUSH R.QUE_FLUSH w d
    if !wOn w R.QUE_FLUSH_GO then d
    else
      let d := { d with cist := { d.cist with flushing := some (wBits w R.QUE_FLUSH_QUEUE, d.cist.nextId) } }
      ((d.set R.QUE_FLUSH_GO 0).set R.QUE_FLUSH_COUNT 0).set R.QUE_FLUSH_BUSY 1

def execQueueFlush (w : CsrW) (s : State) : Host.Outcome State Fault Refusal := onDev (Dev.whenRunning (queueFlush w)) s

/-- A multicast queue is flushed: residues and packets not taken go, copies in FIFOs stay. Answers the packets dropped. -/
def flushMc (m mark : Nat) (d : Dev) : Nat × Dev :=
  let hit := (d.mq m).filter (fun x => decide (x.pkt.id < mark) && (!x.taken || !x.residue.isEmpty))
  let d := Dev.each hit (fun x d => Dev.each (if x.taken then x.residue else x.targets) (fun t => dropOut t.val x.pkt true 9 0) d) d
  let d := setMQ m ((d.mq m).map (fun x =>
    if x.pkt.id < mark then { x with taken := true, placed := if x.taken then x.placed else 0, residue := [] } else x)) d
  (hit.length, sweepMq m d)

/-- QUEUE_FLUSH_DONE (R205): the packets admitted before the write are gone, COUNT holds their number and BUSY clears. -/
def queueFlushDone (d : Dev) : Dev :=
  match d.cist.flushing with
  | none => d
  | some (q, mark) =>
    let r : Nat × Dev :=
      if q < 8192 then
        let n := ((d.uq q).pkts.filter (fun p => decide (p.id < mark))).length
        (n, flushFront q n d)
      else if q < 9216 then flushMc (q - 8192) mark d
      else (0, d)
    let d := { r.2 with cist := { r.2.cist with flushing := none } }
    (d.set R.QUE_FLUSH_COUNT (min 16383 r.1)).set R.QUE_FLUSH_BUSY 0

def execQueueFlushDone (s : State) : Host.Outcome State Fault Refusal := onDev (Dev.whenApplied queueFlushDone) s

end Sys2Proof.Machine
end

