-- ==== Sys2Proof/Machine/Pipeline.lean ====
section
/-! DEFINITION. The way of a packet from its port to its queue: receive buffers (R192), join tags (R41, R42), header checks (R116, R136),
lookup paths (R138 to R149), punts (R137), job admission (R157), claims (R242), canal segments (R403), fences (R229, R230), multicast groups
(R200), the headgate (R167), tails (R174), packets that the device builds (R530) and frames that the haul engine delivers (R340). -/

namespace Sys2Proof.Machine

/-! ### Before the pipeline -/

/-- Where a frame's OFP packet would start, and whether by UDP (R138). -/
def ofpAt (d : Dev) (h : EthHdr) : Option (Nat × Bool) :=
  let udp := d.get (R.PORT_OFPE_UDPPORT 0)
  let self := (List.range 4).foldl (fun a n => a * 2 ^ 32 + d.get (R.FWD_SELF_IP6_ADDR n)) 0
  if h.trunc then none
  else if h.da = d.rd64 R.FWD_RMAC && h.etype = d.get (R.PORT_OFPE_ETYPE 0) then some (h.l3, false)
  else if h.ip = 6 && h.dst = self && h.proto = 17 && udp != 0 && h.dport = udp then some (h.l4 + 8, true)
  else none

/-- How a frame is decapsulated (R138), where the OFP header ends within 256 bytes (R136). -/
def decapAt (d : Dev) (h : EthHdr) : Option (Nat × Bool) := (ofpAt d h).filter (fun x => decide (x.1 + 32 ≤ 256))

/-- The headers do not end within the parser's reach, those of an OFP packet among them (R136). -/
def truncated (d : Dev) (h : EthHdr) : Bool := h.trunc || ((ofpAt d h).isSome && (decapAt d h).isNone)

/-- The packet is a fence, on its own or encapsulated. -/
def rxFence (d : Dev) (p : Nat) (bs : List Byte) : Bool :=
  let body := rxBody d p bs
  if rxOfp d p bs then (ofpHdr body).type == 2
  else match decapAt d (parseEth body) with
    | some (off, _) => (ofpHdr (body.drop off)).type == 2
    | none => false

/-- A MAC control frame with an opcode: 0x0001 PAUSE, 0x0101 PFC (IEEE 802.3). -/
def macControl (body : List Byte) (opcode : Nat) : Bool :=
  beAt body 0 6 == 0x0180C2000001 && beAt body 12 2 == 0x8808 && beAt body 14 2 == opcode

/-- The port die takes time exchanges and PFC frames out before the buffer (R127, R162, R192). -/
def consumedInPort (d : Dev) (p : Nat) (bs : List Byte) : Bool :=
  let body := rxBody d p bs
  if rxOfp d p bs then hcrcOk body && (ofpHdr body).type == 7 else macControl body 0x0101

/-- The MAC of an Ethernet port takes frames of 64 to 9,216 bytes (R96); another is dropped and counted as one that the parser refuses (DESIGN
CHOICE, log 106). -/
def sizeBad (d : Dev) (p : Nat) (f : RxFrame) : Bool :=
  d.isEth p && !f.early && (decide (f.bytes.length < 64) || decide (9216 < f.bytes.length))

/-- The pipeline that takes the next packet of a port (R191). -/
def pipeOf (d : Dev) (p : Nat) : Nat := p / 8 + (if d.width p = 16 then (d.link p).taken % 2 else 0)

def rxUse (l : Link) : Nat := (l.rx.map (fun f => f.bytes.length)).foldl (· + ·) 0
def loopUse (l : Link) : Nat := (l.loop.map (fun f => f.length)).foldl (· + ·) 0

/-- The header checks of R116. -/
def ofpBad (bs : List Byte) : Bool :=
  let h := ofpHdr bs
  !hcrcOk bs || h.ver != 1 || decide (10 < h.type) || decide (8192 < h.len) || h.hops == 15 ||
  ((h.type == 1 || h.type == 10) && decide (4 < h.level))

/-- A trailer or FCS check (R117): the fixed counter under which it fails. -/
def tailFault (ofp : Bool) (bs : List Byte) (fcsOk : Bool) : Option Nat :=
  if !fcsOk then some 10
  else if !ofp || trailerOk bs then none
  else if trailerStomped bs then some 12 else some 10

/-- The FCS of a packet that came as an Ethernet frame, once the rest of it is there. -/
def fcsRight (p : Pkt) (extra : List Byte) : Bool := !p.ether || crcRun p.crc extra == crcGood

/-- A received packet fails a check of its header or its tail: fixed counter k. -/
def countFault (p : Pkt) (k : Nat) (d : Dev) : Dev := match p.inPort with | some i => countPort i.val k d | none => d

/-- A packet into the 16 KiB loop buffer of a port at L4 (R492). -/
def loopIn (p : Nat) (f : RxFrame) (d : Dev) : Dev :=
  let x := rxPkt d p f.bytes
  let c := rxCredits d p f.bytes
  if x.ofp && ofpBad x.bytes then dropArrived x c.1 c.2 4 0 (if hcrcOk x.bytes then d else countFault x 10 d)
  else if !x.ofp && ((parseEth x.bytes).bad || (parseEth x.bytes).short || !fcsRight x []) then dropArrived x c.1 c.2 4 1 (if fcsRight x [] then d else countFault x 10 d)
  else if 16384 < loopUse (d.link p) + f.bytes.length then
    dropArrived x c.1 c.2 3 (pipeOf d p) (d.bump (R.QUE_PIPE_DROP_COUNT (pipeOf d p)))
  else d.modLink p (fun l => { l with loop := l.loop ++ [f.bytes] })

/-- A packet that a port sends back at F1 or F2 (R131). -/
def turnBack (p : Nat) (bs : List Byte) (d : Dev) : Dev :=
  if d.isOfp p then
    let c := rxCredits d p bs
    returnCredits p c.1 c.2 (sequencePacket p bs { rxPkt d p bs with whole := true } d)
  else d.emit (.packet (Fin.ofNat 1024 p) bs false)

/-- A packet arrives (R96, R112, R192, R454): counted, checked against its credit, and into the receive buffer, or dropped when that is full. A
fence is there once it is whole, and so is a packet that the port turns back at F1, F2 or L4 (R131, R492). A PAUSE frame is counted and ignored. -/
def arrive (p : Nat) (f : RxFrame) (d : Dev) : Dev :=
  if d.isPort p && d.farLoop p then (if f.early then d else turnBack p f.bytes d)
  else if !d.isPort p || !d.isUp p || d.isHaul p || consumedInPort d p f.bytes then d
  else
    let x := rxPkt d p f.bytes
    if f.early && (rxFence d p f.bytes || inL4 d p) then d
    else
      let d := ptpSeen p 0 f.bytes (countPort p 4 (countPort p 0 d (rxSize x.ofp x.bytes)))
      let c := rxCredits d p f.bytes
      if !x.ofp && macControl x.bytes 0x0001 then d
      else if sizeBad d p f then dropIn x 4 1 d
      else if (d.link p).granted.getD c.1.toNat 0 < c.2 then dropIn x 4 4 (raiseCE (blkPort (p / 128)) 8 p d)
      else
        let d := if c.2 = 0 then d else d.modLink p (fun l => { l with
          granted := (List.range 16).map (fun k => l.granted.getD k 0 - (if k = c.1.toNat then c.2 else 0)) })
        if inL4 d p then loopIn p f d
        else if 16384 < rxUse (d.link p) + f.bytes.length then
          dropArrived x c.1 c.2 3 (pipeOf d p) (d.bump (R.QUE_PIPE_DROP_COUNT (pipeOf d p)))
        else d.modLink p (fun l => { l with rx := l.rx ++ [f] })

/-- PACKET_ARRIVAL. In near-end loopback nothing of the peer arrives (R131). -/
def packetArrival (p : Nat) (f : RxFrame) (d : Dev) : Dev := if d.nearLoop p then d else arrive p f d

def execPacketArrival (p : PortNo) (f : RxFrame) (s : State) : Host.Outcome State Fault Refusal :=
  onDev (Dev.whenApplied (packetArrival p.val f)) s

/-! ### The headgate -/

/-- A packet on its way through a pipeline, with the credits it holds. `haul`: delivered by the haul engine. `early`: its tail is still to
come. -/
structure Ingress where
  pipe : Nat
  pkt : Pkt
  vc : BitVec 4
  credits : Nat
  haul : Bool
  early : Bool
  fcsOk : Bool

/-- The device as the packet's pipeline reads its tables (R134, R151). -/
def Ingress.seen (x : Ingress) (d : Dev) : Dev := d.seenBy (x.pipe / 16)

/-- The bad copies among the entries that the packet's lookups read are repaired (R151). -/
def Ingress.repair (x : Ingress) (reads : Nat → Nat → Bool) (d : Dev) : Dev := repairRead (x.pipe / 16) reads d

/-- A packet is discarded before admission; a fence is answered (R231). -/
def discard (x : Ingress) (src idx : Nat) (d : Dev) : Option Nat × Dev := (none, pathLost x.pkt (dropArrived x.pkt x.vc x.credits src idx d))

/-- The counters and samplers of an admission (R456, R467). -/
def countAdmit (p : Pkt) (q : Option Nat) (d : Dev) : Dev :=
  let d := countEvent ⟨1, 1, p.inLabel, some p.dst, p.tc.val, 0⟩ d
  let d := countEvent ⟨2, p.size, p.inLabel, some p.dst, p.tc.val, 0⟩ d
  let d := countEvent ⟨8, 1, (match p.job with | some j => j.val | none => 0), some p.dst, p.tc.val, 0⟩ d
  sample p { point := 1, qdepth := match q with | some q => d.depth q | none => 0 } d

/-- The headgate (R167): the packet is refused, or charged and put in its place. Answers the check of a refusal that the offerer sees: one of a
haul delivery (R340) or of a built packet (R530). -/
def headgate (x : Ingress) (q : Option Nat) (place : Pkt → Dev → Dev) (d : Dev) : Option Nat × Dev :=
  let d := settle x.pkt d
  match refusal x.pkt q x.pkt.built d with
  | some r =>
    if x.pkt.built || (x.haul && (r == 3 || r == 4 || r == 6)) then (some r, d)
    else
      let d := d.bump (R.CIST_DROP_COUNT r)
      let d := if r = 5 && !d.cist.hdrmEvent then
          raiseCE blkCist 3 (match x.pkt.inPort with | some i => i.val | none => 0) { d with cist := { d.cist with hdrmEvent := true } }
        else d
      (if x.haul then some r else none, (discard x 1 r d).2)
  | none =>
    let c := chargeIn x.pkt x.vc x.credits d
    (none, countAdmit c.1 q (settle c.1 (place c.1 c.2)))

/-! ### Places that are no egress queue (R162) -/

def holdIn (f : Cistern → Cistern) (p : Pkt) (d : Dev) : Dev := holdCells p.cells p.headroom { d with cist := f d.cist }

def toCores (reason : Nat) (x : Ingress) (d : Dev) : Option Nat × Dev :=
  headgate x none (fun p => holdIn (fun c => { c with toCores := c.toCores ++ [(reason, p)] }) p) d

/-- One more at place k of a list of seven counts. -/
def countAt (l : List Nat) (k : Nat) : List Nat := (List.range 7).map (fun i => l.getD i 0 + (if i = k then 1 else 0))

/-- A punt, within RATE a turn for its reason (R137); the excess is dropped and counted by reason. -/
def punt (reason : Nat) (x : Ingress) (d : Dev) : Option Nat × Dev :=
  if d.get R.FWD_PUNT_CFG_RATE ≤ d.tables.punts.getD reason 0 then
    discard x 5 reason { d with tables := { d.tables with puntDrops := countAt d.tables.puntDrops reason } }
  else
    let r := toCores reason x d
    (r.1, { r.2 with tables := { r.2.tables with punts := countAt r.2.tables.punts reason } })

/-! ### Result words (R139, R140) -/

/-- Cut-through (R173), for a packet whose tail has not arrived. -/
def cutsThrough (x : Ingress) (port : Nat) (d : Dev) : Bool :=
  match x.pkt.inPort with
  | none => false
  | some i =>
    let u := d.uq (uniQ port x.pkt.tc.val)
    bitAt (d.get (R.CIST_PORT_CFG_CTMASK i.val)) x.pkt.tc.val && decide (d.portRate i.val ≤ d.portRate port) && u.pkts.isEmpty &&
    !u.spilling && !d.isHaul port && !(d.isHaul i.val && msecMode d i.val != 0)

/-- Into the unicast queue of a port (R140, R190, R204). -/
def toPort (x : Ingress) (enc port : Nat) (d : Dev) : Option Nat × Dev :=
  if !d.isPort port || !roleOk d x.pkt.ofp enc port then discard x 5 1 d
  else if (d.link port).flushed then discard x 9 0 (d.bump R.QUE_DOWN_DROP_COUNT)
  else
    let q := uniQ port x.pkt.tc.val
    headgate { x with pkt := { x.pkt with cutThrough := cutsThrough x port d } } (some q) (enqueue q) d

/-- Into a multicast queue (R200). -/
def toGroup (x : Ingress) (g m : Nat) (d : Dev) : Option Nat × Dev :=
  if !d.on (R.QUE_MCG_CFG_VALID g) || (x.pkt.ofp && (ofpHdr x.pkt.bytes).type == 2) then
    discard x 8 0 (if d.on (R.QUE_MCG_CFG_VALID g) then d else d.bump R.QUE_MCG_DROP_COUNT)
  else
    let members := (List.range 1024).filter (fun t => bitAt (d.get (R.QUE_MCG_MEMBER g (t / 32))) (t % 32))
    let hair := d.on (R.QUE_MCG_CFG_HAIRPIN g)
    let targets := members.filter (fun t => (hair || x.pkt.inPort.all (fun i => i.val != t)) && countsUp d t)
    let good := targets.filter (fun t => roleOk d x.pkt.ofp 0 t)
    let bad := targets.length - good.length
    let d := d.bump R.QUE_MCG_DROP_COUNT bad
    let d := if bad = 0 then d else countEvent ⟨3, bad, x.pkt.inLabel, some x.pkt.dst, 5, 0⟩ d
    if good.isEmpty then discard x (if bad = 0 then 8 else 5) 1 (if bad = 0 then d.bump R.QUE_MCG_DROP_COUNT else d)
    else
      let targets := good.map (fun t => Fin.ofNat 1024 t)
      headgate x (some (8192 + m)) (fun p d => setMQ m (d.mq m ++ [⟨p, [], 0, false, targets⟩]) d) d

/-- Copy k of n of a fence (R230), with its trailer. -/
def fenceCopy (bs : List Byte) (own n k : Nat) : List Byte :=
  let pl := ofpPayload bs
  let first := beAt pl 4 3 == 0
  let nc := if first then 1 else beAt pl 10 2
  let c := if first then 0 else beAt pl 8 2
  let pl := patch (patch (patch pl 10 (beBytes 2 (nc * n))) 8 (beBytes 2 (c * n + k))) 4 (beBytes 3 (if first then own else beAt pl 4 3))
  bs.take 32 ++ pl ++ trailerOf pl

/-- Entries of a set that a fence is copied to: VALID ones, whatever their WEIGHT and port (R229). -/
def fenceMembers (d : Dev) (k : Nat) : List Nat := (membersOf d k).filter (fun m => d.on (R.SPRAY_MEMBER_VALID (setBase d k + m)))

/-- One copy, counted as made (R230), takes its place in a queue, or is dropped there and answered (R204, R231). -/
def placeFence (p : Pkt) (enc own n : Nat) (x : Nat × Nat) (d : Dev) : Dev :=
  let (k, port) := x
  let c : Pkt := { p with id := d.cist.nextId, bytes := fenceCopy p.bytes own n k, inPort := none, acct := none, cells := 1, headroom := false,
                          ingr := 0, creditsDue := none, whole := true, cutThrough := false, udp := none }
  let d := { d with cist := { d.cist with nextId := d.cist.nextId + 1 } }
  let d := d.bump (R.SPRAY_CNT_COUNT 3)
  if !d.isPort port || !roleOk d true enc port then pathLost c (dropOut port c true 5 1 d)
  else if (d.link port).flushed then pathLost c (dropOut port c true 9 0 (d.bump R.QUE_DOWN_DROP_COUNT))
  else if d.cist.free < 1 then pathLost c (dropOut port c true 1 6 (d.bump (R.CIST_DROP_COUNT 6)))
  else
    gxUpdate (enqueue (uniQ port c.tc.val) c (addUse c 1 d))

/-- A fence whose result is a furrow set: its trailer is checked, it is admitted, and one copy goes to every entry while its own cells are held
(R115, R229, R230). -/
def replicateFence (x : Ingress) (enc k : Nat) (d : Dev) : Option Nat × Dev :=
  let p := x.pkt
  let bs := p.bytes.take (36 + (ofpHdr p.bytes).len)
  match tailFault true bs x.fcsOk with
  | some c => (none, dropArrived p x.vc x.credits 0 0 (countFault p c d))
  | none =>
    let d := noteBadSet k d
    let empty := (fenceMembers d k).isEmpty
    let alt := empty && d.on (R.SPRAY_SET_A_ALTEN k)
    let s := if alt then d.get (R.SPRAY_SET_B_ALTSET k) else k
    let d := if alt then d.bump (R.SPRAY_CNT_COUNT 1) else d
    let ms := fenceMembers d s
    let pl := ofpPayload bs
    if ms.isEmpty then discard x 6 0 (d.bump (R.SPRAY_CNT_COUNT 0))
    else if 65535 < (if beAt pl 4 3 = 0 then 1 else beAt pl 10 2) * ms.length then discard x 6 5 (d.bump (R.SPRAY_CNT_COUNT 5))
    else
      let copies := (List.range ms.length).map (fun i => (i, memberPort d (setBase d s + ms.getD i 0)))
      let own := d.get R.FWD_SELF_EID
      headgate { x with pkt := { p with bytes := bs, fset := some (Fin.ofNat 16384 s) } } none
        (fun q d => discharge q (freeCells q.cells q.headroom
          (Dev.each copies (placeFence q enc own ms.length) (holdCells q.cells q.headroom d)))) d

/-- Through a furrow set (R210, R229). -/
def toSet (x : Ingress) (enc vid vrf : Nat) (l23 : Bool) (k : Nat) (d : Dev) : Option Nat × Dev :=
  if x.pkt.ofp && (ofpHdr x.pkt.bytes).type == 2 then replicateFence x enc k d
  else
    let r := spray x.pkt enc vid vrf x.pipe l23 k d
    match r.1 with
    | none => discard x 6 0 (r.2.bump (R.SPRAY_CNT_COUNT 0))
    | some (s, port) => toPort { x with pkt := { x.pkt with fset := some (Fin.ofNat 16384 s) } } enc port r.2

/-- DA and VID of a routed frame come from the next hop (R145); an untagged frame gets a tag where VID is not 0, its PCP a free value. -/
def routeTo (nh : NextHop) (p : Pkt) (d : Dev) : Pkt × Dev :=
  let bs := patch p.bytes 0 (beBytes 6 nh.dmac)
  if (parseEth bs).tags ≠ 0 then ({ p with bytes := patch bs 14 (beBytes 2 (beAt bs 14 2 / 4096 * 4096 + nh.vid)) }, d)
  else if nh.vid = 0 then ({ p with bytes := bs }, d)
  else
    let r := d.draw
    ({ p with bytes := bs.take 12 ++ beBytes 2 0x8100 ++ beBytes 2 (r.1.toNat % 16 * 4096 + nh.vid) ++ bs.drop 12 }, r.2)

/-- A result word takes effect (R139). `path`: 0 OFP, 2 L2, 3 L3. -/
def forward (x : Ingress) (path vid vrf w : Nat) (d : Dev) : Option Nat × Dev :=
  let x := { x with pkt := { x.pkt with result := BitVec.ofNat 32 w } }
  let d := countKind w d
  let l23 := path != 0
  let multi (d : Dev) : Option Nat × Dev := toGroup x (resDest w % 1024) (8 * x.pipe + x.pkt.tc.val) d
  match resKind w with
  | 1 => toPort x 0 (resDest w % 1024) d
  | 2 => toSet x 0 vid vrf l23 (resDest w % 16384) d
  | 3 => multi d
  | 4 =>
    if path = 2 then discard x 5 0 d
    else
      let nh := (x.seen d).nextHop (resDest w)
      let d := countKind nh.result (x.repair (fun t k => t == 6 && k == resDest w) d)
      let r := if path = 3 then routeTo nh x.pkt d else ({ x.pkt with encap := some (nh.dmac, nh.vid, nh.enc, nh.ip6) }, d)
      let x := { x with pkt := r.1 }
      (match resKind nh.result with
      | 1 => toPort x nh.enc (resDest nh.result % 1024) r.2
      | 2 => toSet x nh.enc vid vrf l23 (resDest nh.result % 16384) r.2
      | _ => discard x 5 2 r.2)
  | 5 => punt 6 x d
  | _ => discard x 5 0 d

/-! ### The OFP path (R141) -/

/-- A packet to the device's own endpoint ID (R120, R141). -/
def toSelf (x : Ingress) (h : OfpHdr) (d : Dev) : Option Nat × Dev :=
  if h.type = 9 then
    let m := beAt x.pkt.bytes 32 1
    if h.len < 4 || decide (2 < m) then discard x 5 3 d else toCores (if m = 2 then 7 else 0) x d
  else if h.type = 4 then headgate x none (fun p => holdIn (fun c => { c with toTally := c.toTally ++ [p] }) p) d
  else discard x 5 0 d

/-- A canal segment that an entry matches (R403). -/
def toCanal (x : Ingress) (i : Nat) (c : CanalEntry) (d : Dev) : Option Nat × Dev :=
  match canalCheck c.bytes x.pkt.bytes x.pkt.job x.pkt.inPort with
  | .error r => discard x 5 r (d.bump (R.FWD_CANAL_CNT_COUNT r))
  | .ok g =>
    let ctc := cCtc c.bytes
    let bs := rehash (patch x.pkt.bytes 1 (beBytes 1 (ctc * 32 + beAt x.pkt.bytes 1 1 % 32)))
    toGroup { x with pkt := { x.pkt with bytes := bs, tc := Fin.ofNat 8 ctc, canal := some (Fin.ofNat 4096 i) } } g (8 * cPipe c.bytes + ctc) d

/-- The result word for an endpoint ID (R142, R143), as the packet's pipeline finds it; a reserved KIND that FWD_OFP_MISS replaces is counted
too (R139). -/
def lookupDst (x : Ingress) (dst : Nat) (d : Dev) : Nat × Dev :=
  let s := x.seen d
  let w := ofpEntry dst s
  let d := if ofpLookup dst s = w then d else countKind w d
  (ofpLookup dst s, x.repair (fun t k => (t == 0 && k == dst / 4096) || (t == 1 && pageOf dst s == some k)) d)

/-- By DST: the own endpoint ID, canal entries, the tables (R141 to R143, R403). -/
def byDst (x : Ingress) (h : OfpHdr) (d : Dev) : Option Nat × Dev :=
  if h.dst = d.get R.FWD_SELF_EID then toSelf x h d
  else match (if h.type = 8 then canalFind h.dst d else none) with
    | some (i, c) => toCanal x i c d
    | none =>
      let r := lookupDst x h.dst d
      forward x 0 0 0 r.1 r.2

/-- A packet that a local group claims (R242). -/
def claimed (x : Ingress) (h : OfpHdr) (e : List Byte) (d : Dev) : Option Nat × Dev :=
  match claimBad h x.pkt.job e with
  | some (cnt, st) => discard x 10 cnt (answer x.pkt.bytes x.pkt.job st none (d.bump (R.BASIN_CNT_COUNT cnt)))
  | none => headgate x none (fun p => holdIn (fun c => { c with toBasin := c.toBasin ++ [p] }) p) d

/-- Lookup of an admitted OFP packet. -/
def ofpRoute (x : Ingress) (h : OfpHdr) (d : Dev) : Option Nat × Dev :=
  match (if h.type = 1 || h.type = 10 then claimOf x.pkt.bytes d else none) with
  | some (_, e, _) => claimed x h e d
  | none => byDst x h d

/-- Into the own queue of a port at L5, cut through where R173 allows it (R492). -/
def turnQueue (port : Nat) (x : Ingress) (d : Dev) : Option Nat × Dev :=
  let q := uniQ port x.pkt.tc.val
  headgate { x with pkt := { x.pkt with cutThrough := cutsThrough x port d } } (some q) (enqueue q) d

/-- The job-map or the job-table entry of a JOB has bad parity in the copy of a die (R151, R157). Tables 8 and 9 stand for the two. -/
def jobParityBad (die : Nat) (job : Nat) (d : Dev) : Bool :=
  d.tables.bad.any (fun b => b.2.2 == die && ((b.1 == 8 && b.2.1 == job) ||
    (b.1 == 9 && (SMap.get? d.jobs.vis.map job).any (fun m => m.1.any (fun j => j.val == b.2.1)))))

/-- Job admission of a packet (R157). TYPE 6, 7 and 9 are not checked. -/
def admission (port : Nat) (x : Ingress) (h : OfpHdr) (d : Dev) : Except Nat (Option JobIdx) :=
  if h.type = 6 || h.type = 9 then .ok none
  else if h.job ≠ 0 ∧ jobParityBad (x.pipe / 16) h.job d then .error 0
  else (admitJob h (d.on (R.FWD_PORT_CFG_JOB0 port)) d).map some

/-- The job entries that admission reads are repaired. -/
def repairJob (x : Ingress) (h : OfpHdr) (d : Dev) : Dev :=
  let m := (SMap.get? d.jobs.vis.map h.job).bind (fun m => m.1)
  if h.type = 6 || h.type = 9 then d
  else x.repair (fun t k => (t == 8 && k == h.job) || (t == 9 && m.any (fun j => j.val == k))) d

/-- Outer ECN goes inward on decapsulation (R125). -/
def decapEcn (outer : Nat) (bs : List Byte) : List Byte :=
  let e := (ofpHdr bs).ecn
  if outer = 3 && (e == 1 || e == 2) then rehash (patch bs 1 (beBytes 1 (beAt bs 1 1 / 16 * 16 + 12 + beAt bs 1 1 % 4))) else bs

/-- Header checks, job admission (R116, R157) and lookup. A port at L5 takes the packet into its own queue (R492). `outer` is the ECN field of
the encapsulation, 0 without one. -/
def ofpPath (port outer : Nat) (x : Ingress) (d : Dev) : Option Nat × Dev :=
  let bs := x.pkt.bytes
  let h := ofpHdr bs
  let x := { x with pkt := { x.pkt with bytes := bs.take (36 + h.len), ofp := true, tc := Fin.ofNat 8 h.tc, cells := cellsFor (36 + h.len) } }
  if ofpBad bs || h.type == 7 then
    (none, dropArrived x.pkt x.vc x.credits 4 0 (if hcrcOk bs then d else countFault x.pkt 10 d))
  else if inL5 d port && !bitAt (d.get (R.TEST_L5_CFG_TCMASK port)) h.tc then (none, dropArrived x.pkt x.vc x.credits 0 0 d)
  else
    match admission port x h d with
    | .error r => (none, dropArrived x.pkt x.vc x.credits 2 r ((repairJob x h d).bump (R.FWD_ADM_DROP_COUNT r)))
    | .ok j =>
      let x := { x with pkt := { x.pkt with job := j, bytes := decapEcn outer x.pkt.bytes } }
      if inL5 d port then turnQueue port x d else ofpRoute x h (repairJob x h d)

/-! ### The Ethernet paths (R136 to R138, R145, R148) -/

/-- Pseudo-header and datagram of UDP over IPv6, as far as they are there. -/
def udpSum (h : EthHdr) (bs : List Byte) : List Byte :=
  let n := beAt bs (h.l4 + 4) 2
  beBytes 16 h.src ++ beBytes 16 h.dst ++ beBytes 2 n ++ beBytes 2 17 ++ slice bs h.l4 n

/-- UDP checksum of OFP in UDP over IPv6 (R124): zero, or right. -/
def udpOk (h : EthHdr) (bs : List Byte) : Bool := beAt bs (h.l4 + 6) 2 == 0 || sum16 (udpSum h bs) == 0xFFFF

/-- What is left to check of a UDP checksum when the tail is still to come (R124). -/
def udpRest (h : EthHdr) (bs : List Byte) : Option (List Byte × Nat) :=
  if beAt bs (h.l4 + 6) 2 == 0 then none else some (udpSum h bs, beAt bs (h.l4 + 4) 2 - (bs.length - h.l4))

/-- Result word of the destination's host entry. -/
def hostResult (d : Dev) (h : EthHdr) (vrf : Nat) : Nat :=
  if h.ip = 0 then 0 else match d.entry 2 (hostKey (b2n (h.ip == 6)) vrf h.dst) with | some e => e.result | none => 0

/-- Punt reasons 1, 2 and 4 of a frame (R137). -/
def puntReason (d : Dev) (h : EthHdr) (vrf : Nat) (bs : List Byte) : Option Nat :=
  let self := (List.range 4).foldl (fun a n => a * 2 ^ 32 + d.get (R.FWD_SELF_IP6_ADDR n)) 0
  if h.etype = 0x0806 then some 1
  else if h.trunc then none
  else if h.ip = 6 && h.proto = 58 && decide (133 ≤ beAt bs h.l4 1) && decide (beAt bs h.l4 1 ≤ 137) then some 2
  else if (h.ip = 6 && h.dst == self) || resKind (hostResult d h vrf) == 5 then some 4
  else none

/-- A routed frame: TTL or hop limit less one, checksum, SA (R145). -/
def routed (rmac : Nat) (h : EthHdr) (bs : List Byte) : List Byte :=
  let bs := patch bs 6 (beBytes 6 rmac)
  if h.ip = 4 then
    let old := beAt bs (h.l3 + 8) 2
    patch (patch bs (h.l3 + 8) (beBytes 2 (old - 256))) (h.l3 + 10) (beBytes 2 (incCsum (beAt bs (h.l3 + 10) 2) old (old - 256)))
  else patch bs (h.l3 + 7) (beBytes 1 (h.ttl - 1))

/-- The L2 path (R148, R149); a frame that the parser could not follow to its end is counted (R136). An entry that the table holds is a hit
whatever its result (DESIGN CHOICE, log 105). -/
def l2Path (port vid : Nat) (v : Vlan) (x : Ingress) (h : EthHdr) (d : Dev) : Option Nat × Dev :=
  let s := x.seen d
  let d := if truncated d h then { d with tables := { d.tables with truncs := d.tables.truncs + 1 } } else d
  let d := macLearn s port vid h.sa d
  let d := x.repair (fun t k => t == 5 && (k == macKey vid h.da || k == macKey vid h.sa)) d
  forward x 2 vid v.vrf (match s.entry 5 (macKey vid h.da) with | some e => e.result | none => mkResult 3 v.flood) d

/-- The L3 path (R145). A result of KIND 5 punts the frame as it goes out, with its TTL, checksum and SA rewritten (DESIGN CHOICE, log 110). -/
def l3Path (vid : Nat) (v : Vlan) (x : Ingress) (h : EthHdr) (d : Dev) : Option Nat × Dev :=
  let s := x.seen d
  let w := l3Lookup s h v.vrf
  let reads (t k : Nat) : Bool := (t == 2 && k == hostKey (b2n (h.ip == 6)) v.vrf h.dst) ||
    ((s.hitOf 2 (hostKey (b2n (h.ip == 6)) v.vrf h.dst)).isNone &&
      ((t == 3 && h.ip == 4 && prefixOf 32 v.vrf h.dst k) || (t == 4 && h.ip == 6 && prefixOf 128 v.vrf h.dst k)))
  let d := x.repair reads (countLpm h v.vrf d)
  forward { x with pkt := { x.pkt with bytes := routed (d.rd64 R.FWD_RMAC) h x.pkt.bytes } } 3 vid v.vrf w d

def ethPath (port : Nat) (x : Ingress) (d : Dev) : Option Nat × Dev :=
  let bs := x.pkt.bytes
  let h := parseEth bs
  let vid := if h.tags = 0 then d.get (R.FWD_PORT_CFG_PVID port) else h.vid
  let v := (x.seen d).vlan vid
  let d := x.repair (fun t k => t == 7 && k == vid) d
  if h.bad || (!x.early && h.short) then discard x 4 1 d
  else if inL5 d port then
    if !bitAt (d.get (R.TEST_L5_CFG_TCMASK port)) x.pkt.tc.val then discard x 0 0 d
    else turnQueue port x d
  else if 0x0180C2000000 ≤ h.da && decide (h.da ≤ 0x0180C200000F) then punt 5 x d
  else if (h.tags == 0 && d.on (R.FWD_PORT_CFG_TAGONLY port)) || !v.valid then discard x 5 4 d
  else match decapAt d h with
    | some (off, udp) =>
      let x := { x with pkt := { x.pkt with bytes := bs.drop off, udp := if udp && x.early then udpRest h bs else none },
                        fcsOk := x.fcsOk && (!udp || x.early || udpOk h bs) }
      ofpPath port (if udp then h.ecn else 0) x d
    | none =>
      match puntReason d h v.vrf bs with
      | some r => punt r { x with pkt := { x.pkt with result := BitVec.ofNat 32 (if r = 4 then hostResult d h v.vrf else 0) } } d
      | none =>
        if h.da = d.rd64 R.FWD_RMAC && v.route && h.ip != 0 && !truncated d h then
          if h.ttl ≤ 1 then punt 3 x d else l3Path vid v x h d
        else l2Path port vid v x h d

/-! ### Tails (R174) -/

/-- A phase-boundary message is dropped and counted: its PKIND is none of R445, or its PVER or LEN is another (DESIGN CHOICE, log 109). -/
def unknownPhase (payload : List Byte) : Bool :=
  decide (3 < beBits payload 4 1 3 0) || beBits payload 4 1 7 4 != 1 || payload.length != 40

/-- A phase-boundary message is handed to the bypass engine (R445). -/
def handPhase (viaMgmt : Bool) (bs : List Byte) (d : Dev) : Dev :=
  if unknownPhase (ofpPayload bs) then d.bump (R.OPT_CNT_COUNT 11) else { d with opt := { d.opt with inbox := d.opt.inbox ++ [(viaMgmt, bs)] } }

/-- The tag passed to software with a packet whose result has KIND 5: its DEST (R139). -/
def puntTag (x : Nat × Pkt) : Nat := if resKind x.2.result.toNat = 5 then resDest x.2.result.toNat else 0

/-- A packet whose checks are done is handed to the control cores: its cells are freed. -/
def handOver (d : Dev) : Dev :=
  let ready := d.cist.toCores.filter (fun x => x.2.whole)
  let d := { d with cist := { d.cist with toCores := d.cist.toCores.filter (fun x => !x.2.whole) } }
  Dev.each ready (fun x d =>
    let d := consumePkt x.2 d
    if x.1 == 7 then handPhase false x.2.bytes d else d.emit (.toCores x.1 (puntTag x) x.2.bytes)) d

/-- The bytes of a packet once its tail is there. -/
def finalBytes (p : Pkt) (extra : List Byte) : List Byte :=
  let bs := p.bytes ++ extra
  if p.ofp then bs.take (36 + (ofpHdr bs).len) else bs

/-- Charge of a packet held for an engine after its tail: corrected, or given back. -/
def holdTail (p : Pkt) (c : Nat) (d : Dev) : Pkt × Dev :=
  let r := recharge p c d
  (r.1, gxUpdate (holdCells (c - p.cells) p.headroom (freeCells (p.cells - c) p.headroom r.2)))

/-- Credits of the bytes that the tail of an Ethernet frame adds on a join port (R111). -/
def tailCredits (p : Pkt) (total : Nat) (d : Dev) : Pkt × Dev :=
  match p.inPort with
  | none => (p, d)
  | some i =>
    if !d.isJoin i.val || !p.ether then (p, d)
    else
      let n := divUp (total + 4) 64 - divUp (p.bytes.length + 4) 64
      match p.creditsDue with
      | some c => ({ p with creditsDue := some (c.1, c.2 + n) }, d.modLink i.val (fun l => { l with
          granted := (List.range 16).map (fun k => l.granted.getD k 0 - (if k = c.1.toNat then n else 0)) }))
      | none => (p, if n = 0 then d else pushCredits i.val (BitVec.ofNat 4 (vcNumber p 0)) n d)

/-- A packet in its queue or held for an engine, found by its number. -/
inductive Where where
  | uni (q : Nat) | multi (m : Nat) | cores (reason : Nat) | basin | tally
  deriving DecidableEq, Repr

def findPkt (id : Nat) (d : Dev) : Option (Where × Pkt) :=
  let hit (p : Pkt) : Bool := p.id == id && !p.whole
  match d.cist.uq.findSome? (fun e => (e.2.pkts.find? hit).map (fun p => (Where.uni e.1, p))) with
  | some x => some x
  | none => match d.cist.mq.findSome? (fun e => (e.2.find? (fun y => hit y.pkt)).map (fun y => (Where.multi e.1, y.pkt))) with
    | some x => some x
    | none => match d.cist.toCores.find? (fun y => hit y.2) with
      | some y => some (.cores y.1, y.2)
      | none => match d.cist.toBasin.find? hit with
        | some p => some (.basin, p)
        | none => (d.cist.toTally.find? hit).map (fun p => (.tally, p))

/-- The packet found becomes `new`, or goes where `new` is none, with c cells (0 then). -/
def settleTail (w : Where) (p : Pkt) (c : Nat) (f : Pkt → Pkt) (d : Dev) : Dev :=
  let upd (l : List Pkt) (q : Pkt) : List Pkt := l.flatMap (fun y => if y.id = p.id then (if c = 0 then [] else [f q]) else [y])
  match w with
  | .uni q => replacePkt q p.id c f d
  | .multi m =>
    let r := recharge p c d
    gxUpdate (setMQ m ((r.2.mq m).flatMap (fun y => if y.pkt.id = p.id then (if c = 0 then [] else [{ y with pkt := f r.1 }]) else [y])) r.2)
  | .cores reason =>
    let r := holdTail p c d
    handOver { r.2 with cist := { r.2.cist with toCores := r.2.cist.toCores.flatMap (fun y =>
      if y.2.id = p.id then (if c = 0 then [] else [(reason, f r.1)]) else [y]) } }
  | .basin =>
    let r := holdTail p c d
    { r.2 with cist := { r.2.cist with toBasin := upd r.2.cist.toBasin r.1 } }
  | .tally =>
    let r := holdTail p c d
    { r.2 with cist := { r.2.cist with toTally := upd r.2.cist.toTally r.1 } }

/-- What a packet's tail shows (R117, R124, R136): the fixed counter of a wrong check, or none for an IPv4 total length past the frame or a frame
beyond the largest, with DROPSRC and DROPIDX. A frame that was routed may have grown by a tag. -/
def tailVerdict (p : Pkt) (bs extra : List Byte) (fcsOk : Bool) : Option (Option Nat × Nat × Nat) :=
  let udpOk := p.udp.all (fun u => sum16 (u.1 ++ extra.take u.2) == 0xFFFF)
  match tailFault p.ofp bs (fcsOk && udpOk) with
  | some k => some (some k, 0, 0)
  | none =>
    if !p.ofp && ((parseEth bs).short || decide ((if resKind p.result.toNat = 4 then 9220 else 9216) < bs.length)) then some (none, 4, 1) else none

/-- A stored packet's tail (R117, R168, R174): dropped on a wrong check or for want of a further cell, else complete with the cells it uses.
A canal segment counts as replicated from then on, since one that fails is dropped before any byte of it is sent (R403). -/
def storedTail (w : Where) (p : Pkt) (extra : List Byte) (fcsOk : Bool) (d : Dev) : Dev :=
  let bs := finalBytes p extra
  let t := tailCredits p (p.bytes.length + extra.length) d
  let d := if t.1.creditsDue = p.creditsDue then t.2 else settleTail w p p.cells (fun y => { y with creditsDue := t.1.creditsDue }) t.2
  let p := t.1
  match tailVerdict p bs extra fcsOk with
  | some (k, src, idx) => pathLost p (dropIn p src idx (k.elim id (countFault p) (settleTail w p 0 id d)))
  | none =>
    let c := cellsFor bs.length
    if p.cells + d.cist.free < c then
      pathLost p (dropIn p 1 6 (settleTail w p 0 id (d.bump (R.CIST_DROP_COUNT 6))))
    else
      let d := settleTail w p c (fun y => { y with bytes := if p.ofp then bs else fixFcs bs, whole := true }) d
      match p.canal with
      | some i => canalReplicated i.val bs d
      | none => d

/-- The cells and charges of a packet whose last byte leaves: corrected to c cells where they are to be had, then released (R164, R168). -/
def releaseSent (p : Pkt) (c : Nat) (d : Dev) : Dev :=
  let r := if p.cells + d.cist.free < c then (p, d) else holdTail p c d
  gxUpdate (freeCells r.1.cells r.1.headroom (discharge r.1 r.2))

/-- The tail of a packet that is being sent: the rest goes out, stomped where a check fails (R117), where it lacks a further cell (R168), or where
a line of it was uncorrectable (R163). -/
def sentTail (port : Nat) (p : Pkt) (front extra : List Byte) (fcsOk : Bool) (d : Dev) : Dev :=
  let bs := finalBytes p extra
  let q := { p with bytes := bs }
  let whole := front ++ bs.drop p.bytes.length
  let t := tailCredits p (p.bytes.length + extra.length) (d.modLink port (fun l => { l with tx := none }))
  let c := cellsFor bs.length
  let lack := decide (p.cells + t.2.cist.free < c)
  let d := releaseSent t.1 c (chargeTail port p q t.2)
  match tailVerdict p bs extra fcsOk with
  | some (k, _) => sendTail port q (if p.ofp then whole.take (whole.length - 4) ++ trailerOf (ofpPayload bs) else fixFcs whole) true
      (k.elim id (countFault p) d)
  | none =>
    let d := if lack then d.bump (R.CIST_DROP_COUNT 6) else d
    let d := if p.poisoned then d.bump (R.CIST_DROP_COUNT 7) else d
    sendTail port q (if p.ofp then whole else fixFcs whole) (lack || p.poisoned) d

/-- PACKET_TAIL_ARRIVAL (R117, R174): the rest of packet `id`. -/
def tailArrival (id : Nat) (extra : List Byte) (d : Dev) : Dev :=
  let cnt (p : Pkt) (d : Dev) : Dev := if p.ether then (match p.inPort with | some i => countPort i.val 0 d extra.length | none => d) else d
  match d.links.findSome? (fun e => match e.2.tx with | some y => if y.1.id = id then some (e.1, y) else none | none => none) with
  | some (port, p, front) => sentTail port p front extra (fcsRight p extra) (cnt p d)
  | none =>
    match findPkt id d with
    | some (w, p) => storedTail w p extra (fcsRight p extra) (cnt p d)
    | none => d

def execPacketTailArrival (id : Nat) (extra : List Byte) (s : State) : Host.Outcome State Fault Refusal :=
  onDev (Dev.whenApplied (tailArrival id extra)) s

/-! ### PIPELINE_TAKE -/

/-- A packet that fails a check of its join tag (R42). -/
def tagBad (d : Dev) (bs : List Byte) : Bool :=
  crc8 (bs.take 3) != beAt bs 3 1 || beBits bs 0 1 7 6 != 1 || decide (d.get (R.PORT_JOIN_CFG_MAXHOPS 0) < beBits bs 1 2 5 3) ||
  beBits bs 0 1 5 3 == d.get (R.PORT_JOIN_CFG_DEVIDX 0)

/-- A packet through its pipeline; a whole one has its tail checked once it is stored (R174). -/
def takePacket (port pipe : Nat) (f : RxFrame) (haul : Bool) (d : Dev) : Option Nat × Dev :=
  let p := rxPkt d port f.bytes
  let c := rxCredits d port f.bytes
  let x : Ingress := ⟨pipe, p, c.1, c.2, haul, f.early, f.early || fcsRight p []⟩
  let d := { d with cist := { d.cist with nextId := d.cist.nextId + 1 } }
  let d := { d with spray := { d.spray with pipeCnt := SMap.put d.spray.pipeCnt pipe ((SMap.getD d.spray.pipeCnt pipe 0 + 1) % 2 ^ 32) } }
  if d.isJoin port && tagBad d f.bytes then (none, dropArrived p c.1 c.2 4 3 d)
  else
    let r := if p.ofp then ofpPath port 0 x d else ethPath port x d
    (r.1, if f.early then r.2
      else match findPkt p.id r.2 with
        | some (w, q) =>
          let h := parseEth (rxBody r.2 port f.bytes)
          let udpBad := p.ether && q.ofp && (decapAt r.2 h).any (fun y => y.2) && !udpOk h (rxBody r.2 port f.bytes)
          storedTail w q [] (x.fcsOk && !udpBad) r.2
        | none => r.2)

/-- PIPELINE_TAKE (R138, R191): the oldest packet of a port's receive buffer. The pipelines of a failed port die take none (R529). -/
def pipelineTake (p : Nat) (d : Dev) : Dev :=
  if d.dieState (p / 128 + 2) = 3 then d
  else
    match (d.link p).rx with
    | [] => d
    | f :: rest =>
      let pipe := pipeOf d p
      (takePacket p pipe f false (d.modLink p (fun l => { l with rx := rest, taken := l.taken + 1 }))).2

def execPipelineTake (p : PortNo) (s : State) : Host.Outcome State Fault Refusal := onDev (Dev.whenApplied (pipelineTake p.val)) s

/-! ### Packets that the device builds (R530) -/

/-- Offer a built packet to the headgate: admitted or dropped by forwarding (true), or to wait. -/
def offerBuilt (p : Pkt) (route : Option (Nat × Nat)) (d : Dev) : Bool × Dev :=
  let r := d.draw
  let pipe := r.1.toNat % 128
  let p := { p with id := d.cist.nextId, turn := d.turn }
  let x : Ingress := ⟨pipe, p, 0, 0, false, false, true⟩
  let d' := { r.2 with cist := { r.2.cist with nextId := d.cist.nextId + 1 } }
  let o := match route with
    | some (g, m) => toGroup x g m d'
    | none => byDst x (ofpHdr p.bytes) d'
  if o.1.isSome then (false, d) else (true, handOver o.2)

/-- The head of one engine's output is offered; a map fragment for management port 1 goes out by it (R471). -/
def admitEngine (e : Nat) (d : Dev) : Dev :=
  match d.cist.built.find? (fun b => b.engine == e) with
  | none => d
  | some b =>
    if e = 6 then
      ({ d with cist := { d.cist with built := d.cist.built.erase b } }.emit (.mgmt 1 (mgmtTelemetry d b.pkt.bytes))).bump (R.GAUGE_TEL_CNT_COUNT 0)
    else
    let o := offerBuilt b.pkt b.route d
    if !o.1 then d
    else
      let d := { o.2 with cist := { o.2.cist with built := o.2.cist.built.erase b } }
      if e = 3 then d.bump (R.GAUGE_TEL_CNT_COUNT 0) else d

def admitStatus (d : Dev) : Dev :=
  match d.basin.status with
  | [] => d
  | p :: rest =>
    let o := offerBuilt p none { d with basin := { d.basin with status := rest } }
    if o.1 then o.2 else d

def admitAck (d : Dev) : Dev :=
  match d.cist.fenceAcks with
  | [] => d
  | p :: rest =>
    let o := offerBuilt p none { d with cist := { d.cist with fenceAcks := rest } }
    if o.1 then o.2 else d

/-- An OFP packet that software on the control cores sends into the fabric, as engine 7: it is taken while no earlier one waits, and charged to
the entry that its JOB names (R530). -/
def softwareSend (bs : List Byte) (d : Dev) : Dev :=
  if d.cist.built.any (fun b => b.engine == 7) then d
  else
    let r := newPkt bs ((SMap.get? d.jobs.vis.map (ofpHdr bs).job).bind (fun m => m.1)) d
    { r.2 with cist := { r.2.cist with built := r.2.cist.built ++ [⟨7, none, r.1⟩] } }

/-- The packet at the head of each engine's output is offered to the headgate (R530). -/
def builtAdmit (d : Dev) : Dev :=
  let es := (d.cist.built.map (fun b => b.engine)).eraseDups
  admitAck (admitStatus (Dev.each es admitEngine d))

/-- BUILT_PACKET_ADMIT (R530), with the packet that software hands over in this cycle, if it does. -/
def execBuiltPacketAdmit (software : Option (List Byte)) (s : State) : Host.Outcome State Fault Refusal :=
  onDev (Dev.whenApplied (fun d => builtAdmit (software.elim d (fun bs => softwareSend bs d)))) s

/-! ### Haul frames (R317, R340) -/

/-- HAUL_FRAME_RECEIVE (R317, R324): a wrong size or FCS, punt reason 5, then the haul engine. `t4` is the receive time at the port's MAC. -/
def haulFrameReceive (p : Nat) (bs : List Byte) (t4 : TimeVal) (d : Dev) : Dev :=
  if !d.isPort p || !d.isHaul p || d.nearLoop p || d.farLoop p || !d.isUp p then d
  else if bs.length < 64 || 9280 < bs.length then d.bump (R.HAUL_PCNT_COUNT p 6)
  else if crcRun crcStart bs ≠ crcGood then d.bump (R.HAUL_PCNT_COUNT p 4)
  else if macControl bs 0x0001 || macControl bs 0x0101 then d.bump (R.HAUL_PCNT_COUNT p 6)
  else if 0x0180C2000000 ≤ beAt bs 0 6 && decide (beAt bs 0 6 ≤ 0x0180C200000F) then
    let d := { d.bump (R.HAUL_PCNT_COUNT p 7) with cist := { d.cist with nextId := d.cist.nextId + 1 } }
    let x := { rxPkt d p bs with id := d.cist.nextId - 1 }
    let d := (punt 5 ⟨p / 8, x, 0, 0, false, false, true⟩ d).2
    match findPkt x.id d with
    | some (w, q) => storedTail w q [] true d
    | none => d
  else haulReceive p bs t4 d

def execHaulFrameReceive (p : PortNo) (bytes : List Byte) (t4 : TimeVal) (s : State) : Host.Outcome State Fault Refusal :=
  onDev (Dev.whenApplied (haulFrameReceive p.val bytes t4)) s

/-- HAUL_DELIVERY (R340): the oldest delivered frame of a share is offered as a frame received on the home port. -/
def haulDelivery (k : Nat) (n : Fin 2) (d : Dev) : Dev :=
  match ((d.hl k).share n).deliver with
  | [] => d
  | inner :: rest =>
    let home := routePort d k 0
    let d1 := d.modHl k (fun l => l.modShare n (fun s => { s with deliver := rest }))
    let d1 := countPort home 4 (countPort home 0 d1 (inner.length + 4))
    let r := takePacket home (home / 8) ⟨withFcs inner, false⟩ true d1
    match r.1 with
    | none => r.2
    | some c => if c = 3 || c = 4 || c = 6 then lcnt k 12 d else lcnt k 13 r.2

def execHaulDelivery (k : LinkNo) (share : Fin 2) (s : State) : Host.Outcome State Fault Refusal :=
  onDev (Dev.whenApplied (haulDelivery k.val share)) s

end Sys2Proof.Machine
end

