-- ==== Sys2Proof/Machine/Links.lean ====
section
/-! DEFINITION. Links (R95 to R113, R126 to R133) and lane steering (R27 to R29, R485): start-up and training, markers, codeword pairs and
retry, fast relock, loopback, PFC. -/

namespace Sys2Proof.Machine

/-! ### Markers (R103) -/

/-- The port's transmitter sends: it is not squelched by a window (R448) nor by near-end loopback with TXMODE 1 (R131). -/
def transmits (d : Dev) (p : Nat) : Bool := !(d.link p).squelched && !(d.nearLoop p && d.on (R.TEST_PORT_LOOP_TXMODE p))

/-- The marker of the lane in a slot. What it asks of the peer's taps follows from the receiver's adaptation, a free value. -/
def ownMarker (d : Dev) (p slot : Nat) (relock : Bool) (free : Nat) : Marker where
  rate := BitVec.ofNat 2 (d.rate p)
  width := BitVec.ofNat 4 (log2 (d.width p))
  slot := BitVec.ofNat 4 slot
  llane := BitVec.ofNat 10 (p + slot)
  chan := BitVec.ofNat 16 (d.get (R.PORT_LCHAN_SEND (p + slot)))
  frame := (d.link p).frame
  sender := d.rd (R.PORT_SWID 0)
  devidx := BitVec.ofNat 3 (d.get (R.PORT_JOIN_CFG_DEVIDX 0))
  joined := d.isJoin p
  tap := BitVec.ofNat 4 (free / 4 % 5)
  req := BitVec.ofNat 2 (free % 4 % 3)
  txack := (d.link p).txack.getD slot 0
  hold := (d.link p).holdFault != 0
  relock := relock
  retrain := false
  fault := (d.link p).holdFault

/-- n marker pairs go out on the lane in a slot, all with the FRAME of that position. -/
def sendMarker (p slot n : Nat) (relock : Bool) (d : Dev) : Dev :=
  let r := d.draw
  r.2.emit (.marker (Fin.ofNat 1024 (p + slot)) n (markerBytes (ownMarker d p slot relock r.1.toNat)))

/-- Every lane of an OFP port sends its markers at the same place of the frame, and FRAME goes on (R99). -/
def sendMarkers (p n : Nat) (relock : Bool) (d : Dev) : Dev :=
  if !d.isOfp p || !transmits d p then d
  else (Dev.each (List.range (d.width p)) (fun k => sendMarker p k n relock) d).modLink p (fun l => { l with frame := l.frame + 1 })

/-! ### Stages, going down, coming up -/

/-- The stage of a port; PORT_PSTAT.STATE shows 9 in any loopback (R131, R132). -/
def showStage (p v : Nat) (d : Dev) : Dev :=
  (d.modLink p (fun l => { l with stage := v })).set (R.PORT_PSTAT_STATE p) (if d.get (R.TEST_PORT_LOOP_DEPTH p) = 0 then v else 9)

def stageOf (d : Dev) (p : Nat) : Nat := (d.link p).stage

/-- Packets of a discarded retry buffer, and one whose tail is still to come, are lost; fences are answered (R109, R129, R231). -/
def discardRetry (p : Nat) (d : Dev) : Dev :=
  let l := d.link p
  let held := match l.tx with | some x => [x.1] | none => []
  let d := Dev.each held (fun x d => gxUpdate (freeCells x.cells x.headroom (discharge x d))) d
  let d := d.modLink p (fun l => { l with retry := [], due := [], tx := none })
  Dev.each (l.retry.flatMap (fun e => e.pkts) ++ held) (fun x d => pathLost x (countEvent ⟨3, 1, x.inLabel, some x.dst, 9, 0⟩ d)) d

/-- An up port goes down (R106, R204, R416, R342). -/
def linkDown (p : Nat) (d : Dev) : Dev :=
  let d := (d.set (R.PORT_PSTAT_UP p) 0).set (R.PORT_PSTAT_DOWNEVT p) 1
  let d := discardRetry p (loseInput p d)
  let haul := d.isHaul p
  let d := d.modLink p (fun l => { l with
    credits := [], granted := [], paused := 0, echo := none, replays := 0, nakOut := false, part := none, looped := []
    downSince := if haul then l.downSince else some d.turn })
  haulPortChange p 1 d

def takeDown (p : Nat) (d : Dev) : Dev := if d.isUp p then linkDown p d else d

/-- The module agent holds the port down (R433, R438, R439). -/
def agentHeld (d : Dev) (p : Nat) : Bool := d.opt.mods.any (fun m => m.2.holding.any (fun q => q.2.val == p))

/-- An abandoned window holds the port down (R449). -/
def windowHeld (d : Dev) (p : Nat) : Bool := d.opt.windows.any (fun w => w.abandoned && w.ports.any (fun x => x.1.val == p))

def shiftOf (v s : Nat) : Nat := bitsOf v (2 * s) 2
def shiftReg (x : Nat) : Nat := R.PORT_LANE_SHIFT x
def posFailed (d : Dev) (x k : Nat) : Bool := bitAt (d.rd (R.TEST_LANE_FAIL x)).toNat k

/-- No position serves the lane: it is held (R29), or the position of its shift is marked failed (R27). -/
def unserved (d : Dev) (l : Nat) : Bool :=
  d.ras.heldLanes.contains l || posFailed d (l / 16) (l % 16 + shiftOf (d.rd (shiftReg (l / 16))).toNat (l % 16))

/-- Nothing keeps the port from training: ADMIN, no lane without a position (R27, R29), no module agent or abandoned window that holds it, no
squelch of a window (R448), no join mismatch (R43), no EXTEST (R494). -/
def mayTrain (d : Dev) (p : Nat) : Bool :=
  d.isPort p && !d.ras.extest && d.on (R.PORT_PCTL_ADMIN p) && !(d.lanesOf p).any (unserved d) &&
  !agentHeld d p && !windowHeld d p && !(d.link p).squelched && !(d.link p).joinHeld

/-- A training or relock takes EXPECT of the port's lanes and PEER as they stand, and waits for new markers (R133). -/
def latchPeer (p : Nat) (d : Dev) : Dev :=
  d.modLink p (fun l => { l with
    marks := [], badMarks := [], peerHold := none
    expect := (d.lanesOf p).map (fun k => BitVec.ofNat 16 (d.get (R.PORT_LCHAN_EXPECT k))), peer := d.rd (R.PORT_RELOCK_PEER p) })

/-- The receiver of every lane has adapted: its equaliser state is a free value (R95, R105). -/
def adapt (p : Nat) (d : Dev) : Dev :=
  Dev.each (List.range (d.width p)) (fun _ d => let r := d.draw; r.2.modLink p (fun l => { l with eq := l.eq ++ [r.1] })) (d.modLink p (fun l => { l with eq := [] }))

/-- While the link of a C2M port is down it takes the transmit settings that its module requests, a free value (R95). -/
def hostSettings (p : Nat) (d : Dev) : Dev :=
  if (d.isEth p || d.isHaul p) && d.get (R.PORT_PCTL_MEDIA p) == 0 then
    let r := d.draw
    r.2.modLink p (fun l => { l with hostTx := r.1 })
  else d

/-- Full training begins at signal detection (R105), or the port stays held down. -/
def startTraining (p : Nat) (d : Dev) : Dev :=
  if mayTrain d p then
    let d := ((d.set (R.PORT_PSTAT_CHANMIS p) 0).set (R.PORT_PSTAT_PEERMIS p) 0).set (R.PORT_PSTAT_SKEW p) 0
    let d := hostSettings p (latchPeer p (d.bump (R.PORT_PSTAT_RETRAINS p)))
    showStage p 1 (d.modLink p (fun l => { l with signal := false, holdFault := 0, txack := [], taps := [] }))
  else showStage p (if d.on (R.PORT_PCTL_ADMIN p) then 8 else 0) d

def retrain (p : Nat) (d : Dev) : Dev := startTraining p (takeDown p d)

/-- The port is held down, with HOLD and a FAULT in its markers (R103, R106). -/
def holdDown (p fault : Nat) (d : Dev) : Dev :=
  let d := showStage p 8 (takeDown p d)
  sendMarkers p 1 false (d.modLink p (fun l => { l with holdFault := BitVec.ofNat 8 fault }))

/-- The port comes up: sequence numbers and credits restart from zero, and an OFP receiver returns its initial allowance (R107, R111, R129, R171). -/
def portUp (p : Nat) (d : Dev) : Dev :=
  let haul := d.isHaul p
  let d := d.modLink p (fun l => { l with
    txSeq := 1, txAcked := 0, retry := [], due := [], nextLane := 0, replays := 0, rxSeq := 0, nakOut := false, part := none
    credits := [], granted := [], badMarks := []
    signal := true, holdFault := 0, peerHold := none, ethFails := 0
    downSince := if haul then l.downSince else none, flushed := l.flushed && haul })
  let d := showStage p 6 (d.set (R.PORT_PSTAT_UP p) 1)
  let d := if d.isOfp p then
      Dev.each (List.range 16) (fun v => returnCredits p (BitVec.ofNat 4 v) (d.get (R.CIST_PORT_CFG_ALLOW p))) d
    else d
  haulPortChange p 0 d

/-! ### Training (R104 to R106, R43) -/

/-- A stage of an OFP port ends. -/
def advance (p was now : Nat) (d : Dev) : Dev := if d.isOfp p && mayTrain d p && stageOf d p == was then showStage p now d else d

def execSignalDetect (p : PortNo) (s : State) : Host.Outcome State Fault Refusal :=
  onDev (Dev.whenApplied (fun d => advance p.val 1 2 (d.modLink p.val (fun l => { l with signal := true })))) s

/-- EQUALISATION_DONE (R105). -/
def equalisationDone (p : Nat) (d : Dev) : Dev := if stageOf d p = 2 then advance p 2 3 (adapt p d) else d

def execEqualisationDone (p : PortNo) (s : State) : Host.Outcome State Fault Refusal := onDev (Dev.whenApplied (equalisationDone p.val)) s

def execMarkerLock (p : PortNo) (s : State) : Host.Outcome State Fault Refusal := onDev (Dev.whenApplied (advance p.val 3 4)) s

/-- The lanes are aligned (R99, R105): within 100 ns by marker position, with one FRAME on all. -/
def aligned (d : Dev) (p skewNs : Nat) : Bool :=
  let fs := (d.link p).marks.filterMap (fun m => m.map (fun m => m.frame))
  decide (skewNs ≤ 100) && fs.all (fun f => some f == fs.head?)

/-- DESKEW_DONE (R99, R105, R106): lanes aligned, or the port is held down for skew. -/
def deskewDone (p skewNs : Nat) (d : Dev) : Dev :=
  if !(d.isOfp p && mayTrain d p && stageOf d p == 4) then d
  else if aligned d p skewNs then showStage p 5 d
  else holdDown p 4 (raiseCE (blkPort (p / 128)) 6 p (d.set (R.PORT_PSTAT_SKEW p) 1))

def execDeskewDone (p : PortNo) (skewNs : Nat) (s : State) : Host.Outcome State Fault Refusal :=
  onDev (Dev.whenApplied (deskewDone p.val skewNs)) s

/-- The CHAN of the lane in a slot fails its check (R104), by the EXPECT that the training took (R133). -/
def chanBad (d : Dev) (p slot : Nat) (m : Marker) : Bool := let e := (d.link p).expect.getD slot 0; e != 0 && e != m.chan

/-- WIDTH, RATE or SLOT of a marker is not that of the lane in a slot (R106). -/
def shapeBad (d : Dev) (p slot : Nat) (m : Marker) : Bool :=
  m.width.toNat != log2 (d.width p) || m.rate.toNat != d.rate p || m.slot.toNat != slot

def shapeMismatch (p : Nat) (d : Dev) : Dev := holdDown p 3 (raiseCE (blkPort (p / 128)) 6 p d)

/-- A channel mismatch holds the port down and names the lane (R104). -/
def chanMismatch (p lane : Nat) (d : Dev) : Dev :=
  holdDown p 1 (raiseCE (blkPort (p / 128)) 5 lane (d.set (R.PORT_PSTAT_CHANMIS p) 1))

/-- The last marker of each lane, where every lane has had one. -/
def allMarks (d : Dev) (p : Nat) : Option (List Marker) :=
  (List.range (d.width p)).mapM (fun k => (d.link p).marks.getD k none)

/-- The other end's index is not the one expected of a join port, or is this device's own (R43). -/
def joinBad (d : Dev) (p : Nat) (m : Marker) : Bool :=
  d.isJoin p && (m.devidx.toNat != joinPeer d p || m.devidx.toNat == d.get (R.PORT_JOIN_CFG_DEVIDX 0))

/-- PEER_EXCHANGE (R105, R106, R104, R43): the checks at the end of training, on the markers of every lane. -/
def peerExchange (p : Nat) (d : Dev) : Dev :=
  if !(d.isOfp p && mayTrain d p && stageOf d p == 5) || (d.link p).peerHold.isSome then d
  else match allMarks d p with
    | none => d
    | some ms =>
      let bad (f : Nat → Marker → Bool) : Option Nat := (List.range ms.length).find? (fun k => (ms[k]?).any (f k))
      if (bad (shapeBad d p)).isSome then shapeMismatch p d
      else match bad (chanBad d p) with
        | some k => chanMismatch p (p + k) d
        | none =>
          if ms.any (joinBad d p) then
            holdDown p 2 (raiseFatal (blkPort (p / 128)) 3 p ((d.set (R.PORT_PSTAT_PEERMIS p) 1).modLink p (fun l => { l with joinHeld := true })))
          else portUp p d

def execPeerExchange (p : PortNo) (s : State) : Host.Outcome State Fault Refusal := onDev (Dev.whenApplied (peerExchange p.val)) s

/-- A fast relock (R129): the equaliser takes the profile, and RLEN marker pairs go out with RELOCK, FRAME going on. Whether the peer's FTXLOCK
is 1 stands in no marker. -/
def relockStart (p : Nat) (d : Dev) : Dev :=
  if !d.isOfp p || !mayTrain d p || !d.on (R.PORT_PCTL_FTXLOCK p) then d
  else
    let d := latchPeer p (showStage p 7 (discardRetry p (takeDown p d)))
    sendMarkers p (d.get (R.PORT_RELOCK_RLEN p)) true (d.modLink p (fun l => { l with
      txSeq := 1, txAcked := 0, rxSeq := 0, holdFault := 0, eq := l.profiles.getD (d.get (R.PORT_RELOCK_PROFILE p)) l.eq }))

/-- A port has lost its signal: it relocks where FASTRELOCK and FTXLOCK are 1, else it trains again (R106, R129). -/
def lose (p : Nat) (d : Dev) : Dev :=
  if d.isOfp p && d.on (R.PORT_PCTL_FASTRELOCK p) && d.on (R.PORT_PCTL_FTXLOCK p) && d.isUp p then relockStart p d else retrain p d

/-- LINK_SIGNAL_LOSS (R106, R129): on a lane of an up or training port. -/
def linkSignalLoss (l : Nat) (d : Dev) : Dev :=
  let p := d.portOf l
  if !d.isPort p then d
  else
    let d := d.modLink p (fun l => { l with signal := false })
    if d.isUp p || (decide (1 ≤ stageOf d p) && decide (stageOf d p ≤ 5)) then lose p d else d

def execLinkSignalLoss (l : LaneNo) (s : State) : Host.Outcome State Fault Refusal := onDev (Dev.whenApplied (linkSignalLoss l.val)) s

def setAt (l : List Nat) (n k v : Nat) : List Nat := (List.range n).map (fun i => if i = k then v else l.getD i 0)

/-- The peer asks for one step of one of the lane's transmit taps (R95, R103): taken, unless the tap is at its limit, which is a free value.
TXACK tells which; a marker that asks nothing is answered with 0. -/
def steerTap (p slot : Nat) (m : Marker) (d : Dev) : Dev :=
  let put {α : Type} (l : List α) (z v : α) : List α := (List.range 16).map (fun i => if i = slot then v else l.getD i z)
  if (m.req = 1 || m.req = 2) && decide (m.tap.toNat < 5) then
    let r := d.draw
    let limit := r.1.getLsbD 0
    let step : Int := if limit then 0 else if m.req = 1 then 1 else -1
    r.2.modLink p (fun l =>
      let taps := (List.range 5).map (fun t => (l.taps.getD slot []).getD t 0 + (if t = m.tap.toNat then step else 0))
      { l with txack := put l.txack 0 (if limit then 2 else 1), taps := put l.taps [] taps })
  else d.modLink p (fun l => { l with txack := put l.txack 0 0 })

/-- The marker of a received marker pair; in near-end loopback the lane hears its own (R131). -/
def heard (d : Dev) (p slot : Nat) (payload : Option (List Byte)) : Option Marker :=
  if d.nearLoop p then some (ownMarker d p slot false 0) else payload.bind findMarker

/-- What a valid marker does (R103, R104, R106): the lane's count starts anew, the tap that it names is steered, HOLD and its fields are noted;
a wrong CHAN, WIDTH, RATE or SLOT holds the port down, and RETRAIN is obeyed. -/
def takeMarker (p slot : Nat) (m : Marker) (d : Dev) : Dev :=
  let d := steerTap p slot m (d.modLink p (fun l => { l with
    badMarks := setAt l.badMarks 16 slot 0
    peerHold := if m.hold then some m.fault else none
    marks := (List.range 16).map (fun i => if i = slot then some m else l.marks.getD i none) }))
  let st := stageOf d p
  if decide (3 ≤ st) && decide (st ≤ 7) && chanBad d p slot m then chanMismatch p (p + slot) d
  else if decide (5 ≤ st) && decide (st ≤ 7) && shapeBad d p slot m then shapeMismatch p d
  else if m.retrain && d.isUp p then retrain p d
  else d

/-- MARKER_RECEIVE (R103, R104, R106): none is a missing marker. MKLOSS missing or invalid ones in a row retrain an up port. The lane's own next
marker, with its TXACK, goes out. -/
def markerReceive (lane : Nat) (payload : Option (List Byte)) (d : Dev) : Dev :=
  let p := d.portOf lane
  if !d.isPort p || !d.isOfp p then d
  else
    let slot := lane - p
    match heard d p slot payload with
    | none =>
      let n := (d.link p).badMarks.getD slot 0 + 1
      let d := d.modLink p (fun l => { l with badMarks := setAt l.badMarks 16 slot n })
      if d.isUp p && decide (max 1 (d.get (R.PORT_LINK_CFG_MKLOSS 0)) ≤ n) then retrain p d else d
    | some m =>
      let d := takeMarker p slot m d
      if !transmits d p || stageOf d p == 0 then d
      else (sendMarker p slot 1 false d).modLink p (fun l => { l with frame := if slot + 1 = d.width p then l.frame + 1 else l.frame })

def execMarkerReceive (l : LaneNo) (payload : Option (List Byte)) (s : State) : Host.Outcome State Fault Refusal :=
  onDev (Dev.whenApplied (markerReceive l.val payload)) s

/-! ### Ethernet start-up (R97) -/

/-- ETH_LINK_UP (R97): the port completes its start-up. -/
def ethLinkUp (p : Nat) (d : Dev) : Dev :=
  if (d.isEth p || d.isHaul p) && mayTrain d p && !d.isUp p then portUp p d else d

def execEthLinkUp (p : PortNo) (s : State) : Host.Outcome State Fault Refusal := onDev (Dev.whenApplied (ethLinkUp p.val)) s

/-- ETH_LINK_START_TIMEOUT (R97): the start-up begins again, with an event on every third failure in a row. -/
def ethStartTimeout (p : Nat) (d : Dev) : Dev :=
  if (d.isEth p || d.isHaul p) && mayTrain d p && !d.isUp p then
    let n := (d.link p).ethFails + 1
    let d := startTraining p (d.modLink p (fun l => { l with ethFails := n }))
    if n % 3 = 0 then raiseCE (blkPort (p / 128)) 4 p d else d
  else d

def execEthLinkStartTimeout (p : PortNo) (s : State) : Host.Outcome State Fault Refusal := onDev (Dev.whenApplied (ethStartTimeout p.val)) s

/-! ### Pairs and retry (R107 to R111) -/

/-- ACKSEQ releases the retry buffer up to a pair; any progress ends the count of replays, and credits that waited for room go out. -/
def acknowledge (p : Nat) (a : BitVec 12) (d : Dev) : Dev :=
  sendDue p (d.modLink p (fun l =>
    let keep := l.retry.filter (fun e => !decide ((a - e.pseq).toNat < 2048))
    { l with retry := keep, txAcked := if keep.length < l.retry.length then a else l.txAcked
             replays := if keep.length < l.retry.length then 0 else l.replays }))

/-- The pairs of the retry buffer go out again, oldest first (R109). -/
def resendPairs (p : Nat) (d : Dev) : Dev :=
  Dev.each (d.link p).retry (fun e d => sendPair p (pairBytes e.pseq (d.link p).rxSeq ackAck e.crvc e.crcnt e.flits) d) d

/-- The transmitter replays from the oldest unacknowledged pair, or after RMAX replays without progress the port retrains (R109). -/
def replay (p : Nat) (d : Dev) : Dev :=
  let l := d.link p
  if max 1 (d.get (R.PORT_LINK_CFG_RMAX 0)) ≤ l.replays then retrain p (raiseCE (blkPort (p / 128)) 7 p d)
  else if l.retry.isEmpty then d
  else resendPairs p (countPort p 14 (d.modLink p (fun l => { l with replays := l.replays + 1 })))

/-- A rejected pair: NAK once (R108). -/
def reject (p : Nat) (d : Dev) : Dev :=
  if (d.link p).nakOut then d
  else sendIdle p ackNak (d.modLink p (fun l => { l with nakOut := true }))

/-- An accepted sequenced pair: its credits, its acknowledgement, and the packets that end in it. -/
def deliver (p : Nat) (x : Pair) (d : Dev) : Dev :=
  let ps := pairPackets (d.isJoin p) (d.link p).part x
  let d := d.modLink p (fun l => { l with
    rxSeq := pairPseq x, nakOut := false, part := ps.2
    credits := (List.range 16).map (fun v => l.credits.getD v 0 + (if v = (pairCrvc x).toNat then (pairCrcnt x).toNat else 0)) })
  Dev.each ps.1 (fun bs => arrive p ⟨bs, false⟩) (sendIdle p ackAck d)

/-- An accepted pair: its acknowledgement, then its sequenced content in order (R108, R109). -/
def acceptPair (p : Nat) (x : Pair) (d : Dev) : Dev :=
  let k := pairAckkind x
  let d := if k = ackAck || k = ackNak then acknowledge p (pairAckseq x) d else d
  let d := if k = ackNak then replay p d else d
  if pairSequenced x && pairPseq x == (d.link p).rxSeq + 1 && d.isUp p then deliver p x d else d

/-- A pair that a port has received: after a rejection every pair but the next in order is discarded whole (R108); at F1 it goes back as it came
(R131). -/
def takePair (p : Nat) (x : Pair) (d : Dev) : Dev :=
  if d.get (R.TEST_PORT_LOOP_DEPTH p) = 8 then sendPair p x.payload d
  else if !pairGood x then reject p d
  else if (d.link p).nakOut && !(pairSequenced x && pairPseq x == (d.link p).rxSeq + 1) then d
  else acceptPair p x d

/-- PAIR_RECEIVE (R98 to R102, R108, R109). In near-end loopback the port receives the oldest pair that it has sent (R131). -/
def pairReceive (p : Nat) (x : Pair) (d : Dev) : Dev :=
  if !d.isPort p || !d.isOfp p || !d.isUp p then d
  else if d.nearLoop p then
    match (d.link p).looped with
    | [] => d
    | bs :: rest => takePair p ⟨true, bs⟩ (d.modLink p (fun l => { l with looped := rest }))
  else takePair p x d

def execPairReceive (p : PortNo) (x : Pair) (s : State) : Host.Outcome State Fault Refusal := onDev (Dev.whenApplied (pairReceive p.val x)) s

/-- NAK_REPEAT_TIMEOUT (R108). -/
def nakRepeat (p : Nat) (d : Dev) : Dev :=
  if d.isUp p && (d.link p).nakOut then sendIdle p ackNak d else d

def execNakRepeatTimeout (p : PortNo) (s : State) : Host.Outcome State Fault Refusal := onDev (Dev.whenApplied (nakRepeat p.val)) s

/-- RETRY_TIMEOUT (R109). -/
def retryTimeout (p : Nat) (d : Dev) : Dev := if d.isUp p && !(d.link p).retry.isEmpty then replay p d else d

def execRetryTimeout (p : PortNo) (s : State) : Host.Outcome State Fault Refusal := onDev (Dev.whenApplied (retryTimeout p.val)) s

/-! ### Fast relock (R129, R130) -/

def execFastRelockStart (p : PortNo) (s : State) : Host.Outcome State Fault Refusal := onDev (Dev.whenApplied (relockStart p.val)) s

/-- RELOCK_STREAM_DONE (R129): SENDER of the lanes' markers is checked against the PEER that the relock took, and normal frames resume. -/
def relockDone (p : Nat) (d : Dev) : Dev :=
  if stageOf d p ≠ 7 then d
  else match allMarks d p with
    | none => d
    | some ms =>
      let want := (d.link p).peer
      if want != 0 && ms.any (fun m => m.sender != want) then
        holdDown p 2 (raiseCE (blkPort (p / 128)) 9 p (d.set (R.PORT_PSTAT_PEERMIS p) 1))
      else portUp p d

def execRelockStreamDone (p : PortNo) (s : State) : Host.Outcome State Fault Refusal :=
  onDev (Dev.whenApplied (relockDone p.val)) s

/-- RELOCK_TIMEOUT (R130). -/
def relockTimeout (p : Nat) (d : Dev) : Dev :=
  if stageOf d p = 7 then raiseCE (blkPort (p / 128)) 10 p (startTraining p d) else d

def execRelockTimeout (p : PortNo) (s : State) : Host.Outcome State Fault Refusal := onDev (Dev.whenApplied (relockTimeout p.val)) s

/-- RELOCK_CAPTURE (R95, R130): the equaliser state of every lane, as it has adapted, goes into slot PROFILE, and CAPTURE clears. -/
def relockCapture (p : Nat) (w : CsrW) (d : Dev) : Dev :=
  let d := writeOwn RF.PORT_RELOCK (R.PORT_RELOCK p) w d
  if wOn w (R.PORT_RELOCK_CAPTURE p) then
    let slot := d.get (R.PORT_RELOCK_PROFILE p)
    ((adapt p d).modLink p (fun l => { l with
      profiles := (List.range 4).map (fun k => if k = slot then l.eq else l.profiles.getD k []) })).set (R.PORT_RELOCK_CAPTURE p) 0
  else d

def execRelockCapture (p : PortNo) (w : CsrW) (s : State) : Host.Outcome State Fault Refusal :=
  onDev (Dev.whenRunning (fun d => onUnit (d.portDieFitted (p.val / 128)) (R.PORT_RELOCK p.val) w (relockCapture p.val w) d)) s

/-! ### Loopback, ADMIN, lane steering -/

/-- LOOPBACK_SET (R131): a change of DEPTH is accepted while ADMIN is 0, else ignored with a CE event. Near-end loopback with TXMODE 0 sends HOLD
with FAULT 5, with TXMODE 1 it is silent. -/
def loopbackSet (p : Nat) (w : CsrW) (d : Dev) : Dev :=
  let a := R.TEST_PORT_LOOP p
  let depth := wBits w (R.TEST_PORT_LOOP_DEPTH p)
  if d.on (R.PORT_PCTL_ADMIN p) && depth != d.get (R.TEST_PORT_LOOP_DEPTH p) then
    refuseCsr a w d
  else
    let d := writeOwn RF.TEST_PORT_LOOP a w d
    let d := if !d.isPort p || !d.nearLoop p then d
      else if wOn w (R.TEST_PORT_LOOP_TXMODE p) then d.emit (.squelch (Fin.ofNat 1024 p))
      else sendMarkers p 1 false (d.modLink p (fun l => { l with holdFault := 5 }))
    showStage p (stageOf d p) (d.modLink p (fun l => { l with loop := [], looped := [] }))

def execLoopbackSet (p : PortNo) (w : CsrW) (s : State) : Host.Outcome State Fault Refusal :=
  onDev (Dev.whenRunning (fun d => onUnit (d.portDieFitted (p.val / 128)) (R.TEST_PORT_LOOP p.val) w (loopbackSet p.val w) d)) s

/-- PORT_ADMIN_WRITE (R133, R204): ADMIN 1 starts training; ADMIN 0 takes the port down and flushes it at once. -/
def portAdminWrite (p : PortNo) (w : CsrW) (d : Dev) : Dev :=
  let was := d.on (R.PORT_PCTL_ADMIN p.val)
  let d := writeOwn RF.PORT_PCTL (R.PORT_PCTL p.val) w d
  if !d.applied || !d.isPort p.val then d
  else
    let d := if d.on (R.PORT_PCTL_TSEN p.val) then d else loseInput p.val d
    match was, d.on (R.PORT_PCTL_ADMIN p.val) with
    | false, true => startTraining p.val d
    | true, false =>
      let d := showStage p.val 0 (takeDown p.val d)
      flushPort p (sendMarkers p.val 1 false (d.modLink p.val (fun l => { l with holdFault := 5 })))
    | _, _ => d

def execPortAdminWrite (p : PortNo) (w : CsrW) (s : State) : Host.Outcome State Fault Refusal :=
  onDev (Dev.whenRunning (fun d => onUnit (d.portDieFitted (p.val / 128)) (R.PORT_PCTL p.val) w (portAdminWrite p w) d)) s

/-- A shift value that R28 refuses; a held slot is exempt from the failed-position check (R485). -/
def shiftBad (d : Dev) (x v : Nat) : Bool :=
  (List.range 16).any (fun s => shiftOf v s == 3 || (s != 0 && decide (shiftOf v s < shiftOf v (s - 1))) ||
    (posFailed d x (s + shiftOf v s) && !d.ras.heldLanes.contains (16 * x + s)))

/-- Ports with a lane whose shift changes go down and retrain (R28). -/
def moveLanes (x old new : Nat) (d : Dev) : Dev :=
  let ports := (((List.range 16).filter (fun s => shiftOf old s != shiftOf new s)).map (fun s => d.portOf (16 * x + s))).eraseDups
  Dev.each (ports.filter (fun p => d.isPort p)) retrain d

/-- LANE_SHIFT_WRITE (R28). -/
def laneShiftWrite (x : Nat) (w : CsrW) (d : Dev) : Dev :=
  let old := (d.rd (shiftReg x)).toNat
  if shiftBad d x w.val.toNat then
    refuseCsr (shiftReg x) w d
  else
    let d := writeOwn RF.PORT_LANE_SHIFT (shiftReg x) w d
    let d := { d with ras := { d.ras with heldLanes := d.ras.heldLanes.filter (fun l =>
      l / 16 != x || posFailed d x (l % 16 + shiftOf w.val.toNat (l % 16))) } }
    moveLanes x old w.val.toNat d

def execLaneShiftWrite (x : GroupNo) (w : CsrW) (s : State) : Host.Outcome State Fault Refusal :=
  onDev (Dev.whenRunning (fun d => onUnit (d.portDieFitted (x.val / 8)) (shiftReg x.val) w (laneShiftWrite x.val w) d)) s

/-- The first position from k on that has not failed. -/
def nextPos (failed : Nat → Bool) (k : Nat) : Nat := ((List.range 18).find? (fun j => decide (k ≤ j) && !failed j)).getD 18

/-- The shifts that R485 computes, as (shift, held) of the slots from s on, given the next position and the shift before. -/
def autoShifts (failed : Nat → Bool) : Nat → Nat → Nat → Nat → List (Nat × Bool)
  | 0, _, _, _ => []
  | n + 1, s, k, prev =>
    let k := nextPos failed k
    if k < 18 ∧ k - s ≤ 2 then (k - s, false) :: autoShifts failed n (s + 1) (k + 1) (k - s)
    else
      let sh := if s = 0 then 0 else prev
      (sh, true) :: autoShifts failed n (s + 1) k sh

/-- Logical lanes without a position are held down with their ports, each with a FATAL event that names it (R29, R485). -/
def holdLanes (ls : List Nat) (d : Dev) : Dev :=
  Dev.each ls (fun l d =>
    let d := raiseFatal blkTest 3 l { d with ras := { d.ras with heldLanes := d.ras.heldLanes ++ [l] } }
    if d.isPort (d.portOf l) then retrain (d.portOf l) d else d) d

/-- Failed positions of a group. -/
def failedCount (d : Dev) (x : Nat) : Nat := ((List.range 18).filter (posFailed d x)).length

/-- With LANEAUTO the group's shifts are recomputed and applied, and a slot without a position is held (R485). Without it software writes the
shifts, but from the third failed position on a slot that a failed one serves is held (R29; DEDUCED, log 119). -/
def autoSteer (x : Nat) (d : Dev) : Dev :=
  if !d.on R.TEST_SPARE_CFG_LANEAUTO then
    if failedCount d x < 3 then d
    else holdLanes (((List.range 16).map (fun s => 16 * x + s)).filter (fun l => unserved d l && !d.ras.heldLanes.contains l)) d
  else
    let r := autoShifts (posFailed d x) 16 0 0 0
    let old := (d.rd (shiftReg x)).toNat
    let new := (List.range 16).foldl (fun v s => v + (r.getD s (0, false)).1 * 4 ^ s) 0
    let held := ((List.range 16).filter (fun s => (r.getD s (0, false)).2)).map (fun s => 16 * x + s)
    let fresh := held.filter (fun l => !d.ras.heldLanes.contains l)
    let d := { d.wr (shiftReg x) (BitVec.ofNat 32 new) with ras := { d.ras with
      heldLanes := d.ras.heldLanes.filter (fun l => l / 16 != x || held.contains l) } }
    moveLanes x old new (holdLanes fresh d)

/-- Slots of a group's ports that have no position when the image takes effect (R27, R485, R491). -/
def steerGroups (d : Dev) : Dev :=
  Dev.each ((List.range 64).filter (fun x => d.rd (R.TEST_LANE_FAIL x) != 0 &&
    ((List.range 16).map (fun s => 16 * x + s)).any (fun l => d.isPort (d.portOf l) && unserved d l))) autoSteer d

/-- LANE_POSITION_FAIL (R485): the position is marked. A start-up self-test marks it before the shifts of the image are known. -/
def lanePositionFail (l : Nat) (d : Dev) : Dev :=
  let x := 8 * (l / 144) + l % 144 / 18
  let k := l % 18
  if !d.portDieFitted (l / 144) || posFailed d x k then d
  else
    let d := raiseCE blkTest 2 l (d.wr (R.TEST_LANE_FAIL x) (d.rd (R.TEST_LANE_FAIL x) ||| BitVec.ofNat 32 (2 ^ k)))
    if d.applied then autoSteer x d else d

def execLanePositionFail (l : PhysLane) (s : State) : Host.Outcome State Fault Refusal := onDev (Dev.whenRunning (lanePositionFail l.val)) s

/-- LANE_FAIL_WRITE (R485): software sets positions. -/
def laneFailWrite (x : Nat) (w : CsrW) (d : Dev) : Dev :=
  let old := d.rd (R.TEST_LANE_FAIL x)
  let d := writeOwn RF.TEST_LANE_FAIL (R.TEST_LANE_FAIL x) w d
  if d.rd (R.TEST_LANE_FAIL x) = old then d else autoSteer x d

def execLaneFailWrite (x : GroupNo) (w : CsrW) (s : State) : Host.Outcome State Fault Refusal :=
  onDev (Dev.whenRunning (fun d => onUnit (d.portDieFitted (x.val / 8)) (R.TEST_LANE_FAIL x.val) w (laneFailWrite x.val w) d)) s

/-! ### PFC (R127, R171) -/

def pfcEnabled (d : Dev) (p pri : Nat) : Bool :=
  d.isEth p && d.on (R.PORT_PCTL_PFC p) && bitAt (d.get (R.PORT_PFC_CFG_PRIMASK 0)) pri

def setPaused (p : Nat) (pri : TC) (v : Bool) (d : Dev) : Dev :=
  d.modLink p (fun l => { l with paused := if v then l.paused ||| BitVec.ofNat 8 (2 ^ pri.val) else l.paused &&& ~~~(BitVec.ofNat 8 (2 ^ pri.val)) })

/-- Priorities that a PFC frame names in its class-enable vector, with the pause quanta of each (IEEE 802.1Qbb). -/
def pfcTimes (bs : List Byte) : List (TC × Nat) :=
  ((List.finRange 8).filter (fun k => bitAt (beAt bs 16 2) k.val)).map (fun k => (k, beAt bs (18 + 2 * k.val) 2))

/-- PFC_FRAME_RECEIVE (R127, R454): quanta other than 0 pause an enabled priority and 0 ends its pause; others are counted and ignored. A frame
that is no PFC frame does nothing here, and one with a wrong FCS is counted as such. -/
def pfcFrameReceive (p : Nat) (bs : List Byte) (d : Dev) : Dev :=
  if !macControl bs 0x0101 then d
  else if d.isPort p && d.farLoop p then d.emit (.packet (Fin.ofNat 1024 p) bs false)
  else if !(d.isEth p || d.isHaul p) || !d.isUp p || d.nearLoop p then d
  else if crcRun crcStart bs ≠ crcGood then countPort p 10 d
  else Dev.each (pfcTimes bs) (fun x d => if pfcEnabled d p x.1.val then setPaused p x.1 (x.2 != 0) d else d) (countPort p 13 d)

def execPfcFrameReceive (p : PortNo) (bytes : List Byte) (s : State) : Host.Outcome State Fault Refusal :=
  onDev (Dev.whenApplied (pfcFrameReceive p.val bytes)) s

/-- PFC_PAUSE_EXPIRY (R127). -/
def execPfcPauseExpiry (p : PortNo) (pri : TC) (s : State) : Host.Outcome State Fault Refusal :=
  onDev (Dev.whenApplied (setPaused p.val pri false)) s

/-- PFC_REFRESH (R171): the pause is sent again while XOFF holds. -/
def pfcRefresh (p : Nat) (tc : TC) (d : Dev) : Dev :=
  if (d.link p).xoffOf tc.val && d.isUp p then sendPfc p tc.val (d.get (R.PORT_PFC_CFG_QUANTA 0)) d else d

def execPfcRefresh (p : PortNo) (tc : TC) (s : State) : Host.Outcome State Fault Refusal := onDev (Dev.whenApplied (pfcRefresh p.val tc)) s

end Sys2Proof.Machine
end

