-- ==== Sys2Proof/Machine/Optics.lean ====
section
/-! DEFINITION. Optics and circuit bypass (R432 to R452): the module agent, the mailbox, phase-boundary messages and bypass windows. -/

namespace Sys2Proof.Machine

/-! ### The module agent -/

def ModAgent.idle : ModAgent := ⟨[], [], [], false, false, []⟩

def Dev.agent (d : Dev) (m : Nat) : ModAgent := SMap.getD d.opt.mods m ModAgent.idle
def Dev.setAgent (d : Dev) (m : Nat) (a : ModAgent) : Dev := { d with opt := { d.opt with mods := SMap.write d.opt.mods m a ModAgent.idle } }
def Dev.modAgent (d : Dev) (m : Nat) (f : ModAgent → ModAgent) : Dev := d.setAgent m (f (d.agent m))

/-- Ports of the group that the module serves, and the port of a module lane. -/
def modPorts (d : Dev) (m : Nat) : List Nat := ((List.range 16).map (fun s => 16 * m + s)).filter (fun p => d.isPort p)
def sendOf (d : Dev) (l : Nat) : Nat := d.get (R.PORT_LCHAN_SEND l)
def tunedOf (d : Dev) (l : Nat) : Nat := d.get (R.OPT_LANE_STAT_TUNED l)

/-- The agent holds a port for a cause: it sends HOLD with a FAULT. -/
def agentHold (m cause fault p : Nat) (d : Dev) : Dev :=
  if !d.isPort p then d
  else holdDown p fault (d.modAgent m (fun a => { a with holding := a.holding.filter (fun h => h != (cause, Fin.ofNat 1024 p)) ++ [(cause, Fin.ofNat 1024 p)] }))

/-- The new peer and tag of a port that a window skipped (R440). -/
def applyLater (p : Nat) (d : Dev) : Dev :=
  match d.opt.later.find? (fun x => x.1.val == p) with
  | some x =>
    ({ d with opt := { d.opt with later := d.opt.later.filter (fun y => y.1.val != p) } }.wr (R.PORT_RELOCK_PEER p) x.2.2).set
      (R.OPT_PTAG_TAG p) x.2.1.toNat
  | none => d

/-- The agent releases its holds for a cause; a port that nothing else holds trains (R105). -/
def agentRelease (m cause : Nat) (d : Dev) : Dev :=
  let mine := ((d.agent m).holding.filter (fun h => h.1 == cause)).map (fun h => h.2.val)
  let d := d.modAgent m (fun a => { a with holding := a.holding.filter (fun h => h.1 != cause) })
  Dev.each (mine.filter (fun p => !agentHeld d p)) (fun p d => startTraining p (applyLater p d)) d

/-- A module that faults, fits no application or is absent: its ports are held down (R433). -/
def moduleDown (m : Nat) (d : Dev) : Dev :=
  let d := d.modAgent m (fun a => { a with retuning := [], taking := [], deferred := [] })
  raiseCE blkOpt 2 m (Dev.each (modPorts d m) (agentHold m 0 5) d)

/-- TUNED as read back (R437). -/
def readTuned (m : Nat) (tuned : List (BitVec 16)) (d : Dev) : Dev :=
  Dev.each (List.range 16) (fun s d => match tuned[s]? with
    | some c => d.set (R.OPT_LANE_STAT_TUNED (16 * m + s)) c.toNat
    | none => d) d

/-- Lanes of the module whose laser is on another channel than SEND; a lane with SEND 0 is not tuned (R437, R438). -/
def wrongLanes (m : Nat) (d : Dev) : List (Fin 16) :=
  (List.finRange 16).filter (fun s => sendOf d (16 * m + s.val) != 0 && tunedOf d (16 * m + s.val) != sendOf d (16 * m + s.val))

/-- The port of a wrong lane, and the port of the lane that should send the channel its laser is on (R438 step 1). -/
def retunePorts (m : Nat) (s : Fin 16) (d : Dev) : List Nat :=
  let l := 16 * m + s.val
  let others := ((List.range 16).map (fun k => 16 * m + k)).filter (fun k => k != l && tunedOf d l != 0 && sendOf d k == tunedOf d l)
  ((l :: others).map (fun k => d.portOf k)).eraseDups


/-- The agent commands a lane to re-tune to SEND (R438 step 2). -/
def commandRetune (m : ModNo) (s : Fin 16) (d : Dev) : Dev :=
  ((d.modAgent m.val (fun a => { a with busy := true })).bump (R.OPT_CNT_COUNT 1)).emit (.bus m 0 (16 * s.val + 0))

/-- A port of these is in a window between step 0 and its close (R440). -/
def inBypass (d : Dev) (ps : List Nat) : Bool := d.opt.windows.any (fun w => decide (2 ≤ w.stage) && w.ports.any (fun x => ps.contains x.1.val))

/-- The wrong-wavelength procedure on lanes not yet found wrong (R438 steps 1 and 2). -/
def startRetune (m : ModNo) (lanes : List (Fin 16)) (d : Dev) : Dev :=
  let d := Dev.each lanes (fun s d =>
    let l := 16 * m.val + s.val
    let d := Dev.each (retunePorts m.val s d) (fun p d => Dev.each (d.lanesOf p) (fun k d => d.set (R.OPT_LANE_STAT_HELD k) 1) (agentHold m.val 1 1 p d)) d
    ((d.set (R.OPT_LANE_STAT_WRONG l) 1).set (R.OPT_LANE_STAT_RETRIES l) 0).bump (R.OPT_CNT_COUNT 0)) d
  let d := d.modAgent m.val (fun a => { a with retuning := a.retuning ++ lanes })
  Dev.each lanes (commandRetune m) d

/-- Every lane of the module reads TUNED = SEND: the holds are released together (R438 step 4). -/
def endRetune (m : Nat) (d : Dev) : Dev :=
  let held := ((d.agent m).holding.filter (fun h => h.1 == 1)).map (fun h => h.2.val)
  let d := Dev.each (held.flatMap (fun p => d.lanesOf p)) (fun l d => d.set (R.OPT_LANE_STAT_HELD l) 0) d
  let d := Dev.each (List.range 16) (fun s d => d.set (R.OPT_LANE_STAT_WRONG (16 * m + s)) 0) d
  agentRelease m 1 d

/-- A spare takeover fails, or no spare is left (R439). -/
def takeoverFails (l : Nat) (d : Dev) : Dev := raiseCE blkOpt 5 l (d.bump (R.OPT_CNT_COUNT 4))

/-- A spare laser is to take lane l (R439 steps 1 and 2). -/
def startTakeover (m : ModNo) (s : Fin 16) (d : Dev) : Dev :=
  let l := 16 * m.val + s.val
  let d := (agentHold m.val (2 + l) 5 (d.portOf l) d).set (R.OPT_LANE_STAT_HELD l) 1
  if d.get (R.OPT_MOD_STAT_SPARES m.val) = 0 then takeoverFails l d
  else (d.modAgent m.val (fun a => { a with taking := a.taking ++ [s], busy := true })).emit (.bus m 1 l)

/-- A port of the module receives markers with HOLD and FAULT 1 (R438). -/
def peerFault1 (d : Dev) (m : Nat) : Bool := (modPorts d m).any (fun p => (d.link p).peerHold == some 1)

/-- What the agent does with the flags of a poll (R433, R438, R439, R440). -/
def agentActs (m : ModNo) (f : ModFlags) (d : Dev) : Dev :=
  let taken (s : Fin 16) : Bool := (d.agent m.val).holding.any (fun h => h.1 == 2 + 16 * m.val + s.val)
  let lanes := if d.on (R.OPT_SPARE_CFG_SPAREN m.val) then (f.faults.eraseDups).filter (fun s => !taken s) else []
  let wrong := (wrongLanes m.val d).filter (fun s => !d.on (R.OPT_LANE_STAT_WRONG (16 * m.val + s.val)))
  let ports := lanes.map (fun s => d.portOf (16 * m.val + s.val)) ++ wrong.flatMap (fun s => retunePorts m.val s d)
  if inBypass d ports then d.modAgent m.val (fun a => { a with deferred := a.deferred ++ [f] })
  else
    let d := Dev.each lanes (startTakeover m) d
    if !wrong.isEmpty then startRetune m wrong d
    else if (wrongLanes m.val d).isEmpty then
      let d := if peerFault1 d m.val then raiseCE blkOpt 4 m.val d else d
      if (d.agent m.val).retuning.isEmpty then endRetune m.val d else d
    else d

/-- A poll of the module by the agent (R433): state, spares, TUNED, then what they call for. -/
def agentPoll (m : ModNo) (f : ModFlags) (d : Dev) : Dev :=
  let d := (d.set (R.OPT_MOD_STAT_MSTATE m.val) f.mstate.toNat).set (R.OPT_MOD_STAT_SPARES m.val) f.spares.toNat
  let d := readTuned m.val f.tuned d
  if f.mstate = 5 then (if (d.agent m.val).holding.any (fun h => h.1 == 0) then d else moduleDown m.val d)
  else agentActs m f d

/-- The agent manages the module and its bus runs. -/
def managed (d : Dev) (m : Nat) : Bool := d.on (R.OPT_MOD_CTL_AUTO m) && d.get (R.OPT_BUS_CFG_MODE m) != 0

/-- The module's position is fitted. -/
def modFitted (d : Dev) (m : Nat) : Bool := d.portDieFitted (m / 8)

/-- MODULE_INSERT (R433): the agent releases RESET_N, chooses the application, tunes the lasers and activates the data paths, or holds the
ports down. -/
def moduleInsert (m : ModNo) (fits : Bool) (f : ModFlags) (d : Dev) : Dev :=
  if !modFitted d m.val then d
  else
    let d := d.set (R.OPT_MOD_STAT_PRESENT m.val) 1
    if !managed d m.val then d
    else
      let d := d.set (R.OPT_MOD_CTL_RESET m.val) 0
      if !fits then moduleDown m.val ((d.set (R.OPT_MOD_STAT_MSTATE m.val) f.mstate.toNat).set (R.OPT_MOD_STAT_SPARES m.val) f.spares.toNat)
      else
        let d := if f.mstate = 5 then d else agentRelease m.val 0 d
        agentPoll m f d

def execModuleInsert (m : ModNo) (matches_ : Bool) (f : ModFlags) (s : State) : Host.Outcome State Fault Refusal :=
  onDev (Dev.whenRunning (moduleInsert m matches_ f)) s

/-- MODULE_REMOVE (R433). -/
def moduleRemove (m : Nat) (d : Dev) : Dev :=
  if !modFitted d m then d
  else
    let d := if managed d m then moduleDown m d else d
    ((d.set (R.OPT_MOD_STAT_MSTATE m) 0).set (R.OPT_MOD_STAT_INT m) 0).set (R.OPT_MOD_STAT_PRESENT m) 0

def execModuleRemove (m : ModNo) (s : State) : Host.Outcome State Fault Refusal := onDev (Dev.whenRunning (moduleRemove m.val)) s

/-- MODULE_INTERRUPT (R433): INT_N asserts, and the agent polls the flags. -/
def moduleInterrupt (m : ModNo) (f : ModFlags) (d : Dev) : Dev :=
  if !modFitted d m.val then d
  else
    let d := if managed d m.val && d.on (R.OPT_MOD_STAT_PRESENT m.val) then agentPoll m f d else d
    d.set (R.OPT_MOD_STAT_INT m.val) 1

def execModuleInterrupt (m : ModNo) (f : ModFlags) (s : State) : Host.Outcome State Fault Refusal :=
  onDev (Dev.whenRunning (moduleInterrupt m f)) s

/-- MODULE_FLAG_POLL (R433): the poll of every POLL turns; INT_N is high again (log 60). -/
def moduleFlagPoll (m : ModNo) (f : ModFlags) (d : Dev) : Dev :=
  if managed d m.val && d.on (R.OPT_MOD_STAT_PRESENT m.val) && d.get (R.OPT_BUS_CFG_POLL m.val) != 0 then
    (agentPoll m f d).set (R.OPT_MOD_STAT_INT m.val) 0
  else d

def execModuleFlagPoll (m : ModNo) (f : ModFlags) (s : State) : Host.Outcome State Fault Refusal :=
  onDev (Dev.whenApplied (moduleFlagPoll m f)) s

/-- A lane after an attempt: tuned, tried again, or given up after RETUNEMAX attempts (R438). -/
def attemptDone (m : ModNo) (timedOut : Bool) (s : Fin 16) (d : Dev) : Dev :=
  let l := 16 * m.val + s.val
  let out := d.modAgent m.val (fun a => { a with retuning := a.retuning.filter (fun x => x != s) })
  if !timedOut && tunedOf d l == sendOf d l then out
  else
    let n := d.get (R.OPT_LANE_STAT_RETRIES l) + 1
    if n < max 1 (d.get R.OPT_CFG_RETUNEMAX) then commandRetune m s (d.set (R.OPT_LANE_STAT_RETRIES l) n)
    else raiseCE blkOpt 3 l ((out.set (R.OPT_LANE_STAT_RETRIES l) n).bump (R.OPT_CNT_COUNT 2))

/-- RETUNE_COMPLETE (R438): TUNED is read back; the holds are released when every lane is on its channel. -/
def retuneComplete (m : ModNo) (timedOut : Bool) (tuned : List (BitVec 16)) (d : Dev) : Dev :=
  let lanes := (d.agent m.val).retuning
  if lanes.isEmpty then d
  else
    let d := Dev.each lanes (attemptDone m timedOut) (readTuned m.val tuned d)
    if (wrongLanes m.val d).isEmpty && (d.agent m.val).retuning.isEmpty then endRetune m.val d else d

def execRetuneComplete (m : ModNo) (timedOut : Bool) (tuned : List (BitVec 16)) (s : State) : Host.Outcome State Fault Refusal :=
  onDev (Dev.whenApplied (retuneComplete m timedOut tuned)) s

/-- SPARE_TAKEOVER_DONE (R439): the flag is clear and TUNED = SEND, or the port stays held. -/
def spareTakeoverDone (l : LaneNo) (ok : Bool) (tuned : BitVec 16) (d : Dev) : Dev :=
  let m := l.val / 16
  let s : Fin 16 := Fin.ofNat 16 l.val
  if !(d.agent m).taking.contains s then d
  else
    let d := (d.modAgent m (fun a => { a with taking := a.taking.filter (fun x => x != s) })).set (R.OPT_LANE_STAT_TUNED l.val) tuned.toNat
    if ok && tuned.toNat == sendOf d l.val then
      let d := agentRelease m (2 + l.val) ((d.set (R.OPT_LANE_STAT_HELD l.val) 0).set (R.OPT_LANE_STAT_SPARE l.val) 1)
      (d.drop (R.OPT_MOD_STAT_SPARES m)).bump (R.OPT_CNT_COUNT 3)
    else takeoverFails l.val d

def execSpareTakeoverDone (l : LaneNo) (ok : Bool) (tuned : BitVec 16) (s : State) : Host.Outcome State Fault Refusal :=
  onDev (Dev.whenApplied (spareTakeoverDone l ok tuned)) s

/-! ### The mailbox (R432, R434) -/

/-- A waiting mailbox transaction goes out. -/
def startMailbox (m : ModNo) (d : Dev) : Dev :=
  (d.modAgent m.val (fun a => { a with mbxRunning := true })).emit (.bus m 2 (d.rd (R.OPT_MBX_CMD m.val)).toNat)

/-- The mailbox transaction ends with a RESULT; a read fills OPT_MBX_DATA. -/
def endMailbox (m result : Nat) (data : List Byte) (d : Dev) : Dev :=
  let n := d.get (R.OPT_MBX_CMD_NM1 m) + 1
  let bs := if d.on (R.OPT_MBX_CMD_WR m) then [] else data.take n
  let d := Dev.each (List.range bs.length) (fun i d => d.set ⟨R.OPT_MBX_DATA m (i / 4), 8 * (i % 4), 8⟩ (bs.getD i 0).toNat) d
  ((d.modAgent m (fun a => { a with mbxRunning := false })).set (R.OPT_MBX_CTL_RESULT m) result).set (R.OPT_MBX_CTL_BUSY m) 0

/-- BUS_TRANSACTION_END (R432): the transaction on the bus ends; errors are counted, and a mailbox transaction that waited starts. -/
def busTransactionEnd (m : ModNo) (e : BusEnd) (d : Dev) : Dev :=
  let r : Nat × List Byte := match e with | .ok data => (0, data) | .nack => (1, []) | .timeout => (2, [])
  let d := if r.1 = 0 then d else d.bump (R.OPT_CNT_COUNT 5)
  if (d.agent m.val).mbxRunning then endMailbox m.val r.1 r.2 d
  else
    let d := d.modAgent m.val (fun a => { a with busy := false })
    if d.on (R.OPT_MBX_CTL_BUSY m.val) then startMailbox m d else d

def execBusTransactionEnd (m : ModNo) (e : BusEnd) (s : State) : Host.Outcome State Fault Refusal :=
  onDev (Dev.whenApplied (busTransactionEnd m e)) s

/-- Under AUTO, software may not write the pages that the agent keeps (R434). -/
def mailboxRefused (d : Dev) (m : Nat) : Bool :=
  let page := d.get (R.OPT_MBX_CMD_PAGE m)
  d.on (R.OPT_MOD_CTL_AUTO m) && d.on (R.OPT_MBX_CMD_WR m) &&
  (page == 0x10 || page == 0x12 || (d.on (R.OPT_SPARE_CFG_SPAREN m) && page == d.get (R.OPT_SPARE_CFG_VPAGE m)))

/-- MODULE_MAILBOX (R434): GO sends the transaction after the agent's, or is refused with RESULT 3. -/
def moduleMailbox (m : ModNo) (w : CsrW) (d : Dev) : Dev :=
  let was := d.on (R.OPT_MBX_CTL_BUSY m.val)
  let d := (writeOwn RF.OPT_MBX_CTL (R.OPT_MBX_CTL m.val) w d).set (R.OPT_MBX_CTL_GO m.val) 0
  if !wOn w (R.OPT_MBX_CTL_GO m.val) || was then d
  else if mailboxRefused d m.val then d.set (R.OPT_MBX_CTL_RESULT m.val) 3
  else
    let d := if (d.agent m.val).busy then d else startMailbox m d
    (d.set (R.OPT_MBX_CTL_RESULT m.val) 0).set (R.OPT_MBX_CTL_BUSY m.val) 1

def execModuleMailbox (m : ModNo) (w : CsrW) (s : State) : Host.Outcome State Fault Refusal :=
  onDev (Dev.whenRunning (fun d => onUnit (modFitted d m.val) (R.OPT_MBX_CTL m.val) w (moduleMailbox m w) d)) s

/-! ### Windows (R443, R444) -/

def minLead (d : Dev) : Nat := max 2 (d.get R.OPT_BYP_CFG_MINLEAD)
def leadOf (d : Dev) : Nat := max (minLead d + 4) (d.get R.OPT_BYP_CFG_LEAD)

/-- A plan with entries, all of them in the table (R443). -/
def planValid (d : Dev) (p : Nat) : Bool :=
  let n := d.get (R.OPT_BYP_PLAN_A_COUNT p)
  n != 0 && decide (n ≤ 256) && decide (d.get (R.OPT_BYP_PLAN_A_BASE p) + n ≤ 4096)

/-- The window cannot be armed beside those there are (R444). -/
def conflicts (d : Dev) (w : Nat) : Bool :=
  decide (4 ≤ d.opt.windows.length) || d.opt.windows.any (fun x => decide (w < x.w + 4) && decide (x.w < w + 4))

/-- OPT_BYP_STAT and OPT_BYP_WTURN follow the windows. -/
def showBypass (d : Dev) : Dev :=
  let ws := d.opt.windows
  let st := if ws.any (fun w => w.abandoned) then 3 else if ws.any (fun w => decide (2 ≤ w.stage)) then 2 else if ws.isEmpty then 0 else 1
  let d := ((d.set R.OPT_BYP_STAT_STATE st).set R.OPT_BYP_STAT_NARMED ws.length)
  match ws.head? with
  | some w => (d.set R.OPT_BYP_STAT_PLAN w.plan.val).wr64 R.OPT_BYP_WTURN w.w
  | none => d

def putWindows (ws : List Window) (d : Dev) : Dev := showBypass { d with opt := { d.opt with windows := ws } }

/-- Change the window of a plan and start turn. -/
def modWindow (x : Window) (f : Window → Window) (d : Dev) : Dev :=
  putWindows (d.opt.windows.map (fun y => if y.plan = x.plan ∧ y.w = x.w then f y else y)) d

def dropWindow (x : Window) (d : Dev) : Dev := putWindows (d.opt.windows.filter (fun y => !(y.plan == x.plan && y.w == x.w))) d

def insertWindow (x : Window) : List Window → List Window
  | [] => [x]
  | y :: t => if x.w < y.w then x :: y :: t else y :: insertWindow x t

def armed (d : Dev) (p : Fin 64) (w : Nat) : Option Window := d.opt.windows.find? (fun x => x.plan == p && x.w == w)

/-- Destinations of an originator's messages (R444): (EID, VIA). -/
def destinations (d : Dev) : List (Nat × Nat) :=
  ((List.range 16).filter (fun n => d.on (R.OPT_BYP_DST_VALID n))).map (fun n => (d.get (R.OPT_BYP_DST_EID n), d.get (R.OPT_BYP_DST_VIA n)))

/-! ### Phase-boundary messages (R445) -/

/-- A phase-boundary message (R445). -/
structure PhaseMsg where
  plan : Fin 64
  wturn : Nat
  tsw : TimeVal
  configid : Word
  sender : Word
  reason : Byte
  /-- It came on management port 1 (else through the fabric). -/
  viaMgmt : Bool
  src : BitVec 24
  deriving DecidableEq, Repr

/-- The start of turn W + 1 plus SWOFF (R445). -/
def tswOf (d : Dev) (w : Nat) : Int := (w + 1 : Nat) * turnUnit + (d.get R.OPT_BYP_CFG_SWOFF : Nat) * nsUnit

/-- The 40-byte payload. -/
def phaseBytes (kind mseq : Nat) (x : PhaseMsg) : List Byte :=
  [2, 0] ++ beBytes 2 mseq ++ beBytes 1 (16 + kind) ++ beBytes 1 x.plan.val ++ zeros 2 ++ beBytes 8 x.wturn ++ timeValue x.tsw ++
  beBytes 4 x.configid.toNat ++ beBytes 4 x.sender.toNat ++ [x.reason] ++ zeros 3

/-- The message that an OFP packet carries. -/
def phaseOf (viaMgmt : Bool) (bs : List Byte) : PhaseMsg :=
  let pl := (ofpPayload bs).drop 4
  { plan := Fin.ofNat 64 (beAt pl 1 1), wturn := beAt pl 4 8, tsw := timeValueOf pl 12, configid := BitVec.ofNat 32 (beAt pl 24 4)
    sender := BitVec.ofNat 32 (beAt pl 28 4), reason := BitVec.ofNat 8 (beAt pl 32 1), viaMgmt := viaMgmt
    src := BitVec.ofNat 24 (ofpHdr bs).src }

/-- The oldest message handed to the bypass engine is taken, where it is of the command's PKIND. -/
def takePhase (kind : Nat) (f : PhaseMsg → Dev → Dev) (d : Dev) : Dev :=
  match d.opt.inbox with
  | [] => d
  | x :: rest =>
    if beBits (ofpPayload x.2) 4 1 3 0 = kind then f (phaseOf x.1 x.2) { d with opt := { d.opt with inbox := rest } } else d

/-- Send a message to an endpoint, through the fabric or on management port 1. -/
def sendPhase (kind : Nat) (x : PhaseMsg) (dst : Nat × Nat) (d : Dev) : Dev :=
  let bs := ofpPacket { type := 9, tc := 7, dst := dst.1, src := d.get R.FWD_SELF_EID } (phaseBytes kind d.opt.mseq x)
  let d := { d with opt := { d.opt with mseq := (d.opt.mseq + 1) % 65536 } }
  if dst.2 = 0 then
    let r := newPkt bs none d
    { r.2 with cist := { r.2.cist with built := r.2.cist.built ++ [⟨5, none, r.1⟩] } }
  else d.emit (.mgmt 1 (ofpOverEth (d.rd64 R.OPT_BYP_MGTDA) (d.rd64 (R.MGT_MP_MAC 1)) (d.get (R.PORT_OFPE_ETYPE 0)) bs))

/-- The message of a window. -/
def windowMsg (d : Dev) (p : Fin 64) (w : Nat) : PhaseMsg :=
  ⟨p, w, tswOf d w, BitVec.ofNat 32 (d.get (R.OPT_BYP_PLAN_B_CONFIGID p.val)), d.rd (R.PORT_SWID 0), 0, false, 0⟩

/-- The answer to a message, to its sender by the way it came. -/
def answerPhase (kind reason : Nat) (x : PhaseMsg) (d : Dev) : Dev :=
  let d := if kind = 3 then d.bump (R.OPT_CNT_COUNT 8) else d
  sendPhase kind { x with sender := d.rd (R.PORT_SWID 0), reason := BitVec.ofNat 8 reason } (x.src.toNat, b2n x.viaMgmt) d

/-- Arm a window; its originator sends ARM to every destination (R444). -/
def armWindow (p : Fin 64) (w : Nat) (originator : Bool) (d : Dev) : Dev :=
  let dsts := if originator then destinations d else []
  let d := Dev.each dsts (fun t d => sendPhase 0 (windowMsg d p w) t d) d
  putWindows (insertWindow ⟨p, w, originator, dsts.map (·.1), [], false, 0, false, []⟩ d.opt.windows) d

/-- Disarm a window; ports that had left the sets return (R446). -/
def disarm (x : Window) (d : Dev) : Dev := dropWindow x (d.bump (R.OPT_CNT_COUNT 7))

/-- Send CANCEL to every destination (R447), counting each. -/
def sendCancels (x : Window) (d : Dev) : Dev :=
  Dev.each (destinations d) (fun t d => sendPhase 1 (windowMsg d x.plan x.w) t (d.bump (R.OPT_CNT_COUNT 10))) d

/-- BYPASS_ARM (R444): refused where the plan is invalid, W is not later than the current turn + MINLEAD or the window conflicts. -/
def bypassArm (w : CsrW) (d : Dev) : Dev :=
  let d := ((writeOwn RF.OPT_BYP_ARM R.OPT_BYP_ARM w d).set R.OPT_BYP_ARM_GO 0).set R.OPT_BYP_ARM_CANCEL 0
  let p : Fin 64 := Fin.ofNat 64 (wBits w R.OPT_BYP_ARM_PLAN)
  let t := d.rd64 R.OPT_BYP_ARMW
  if !wOn w R.OPT_BYP_ARM_GO || !planValid d p.val || decide (t ≤ d.turn + minLead d) || conflicts d t then d
  else armWindow p t (wOn w R.OPT_BYP_ARM_SEND) d

def execBypassArm (w : CsrW) (s : State) : Host.Outcome State Fault Refusal := onDev (Dev.whenRunning (bypassArm w)) s

/-- A window may still be disarmed: the current turn is at most W − 1 (R446). -/
def cancellable (d : Dev) (x : Window) : Bool := decide (d.turn + 1 ≤ x.w) && decide (x.stage < 2) && !x.abandoned

/-- BYPASS_CANCEL (R446, R451). -/
def bypassCancel (w : CsrW) (d : Dev) : Dev :=
  let d := ((writeOwn RF.OPT_BYP_ARM R.OPT_BYP_ARM w d).set R.OPT_BYP_ARM_GO 0).set R.OPT_BYP_ARM_CANCEL 0
  let p : Fin 64 := Fin.ofNat 64 (wBits w R.OPT_BYP_ARM_PLAN)
  if !wOn w R.OPT_BYP_ARM_CANCEL then d
  else match armed d p (d.rd64 R.OPT_BYP_ARMW) with
    | some x => if cancellable d x then disarm x (if wOn w R.OPT_BYP_ARM_SEND then sendCancels x d else d) else d
    | none => d

def execBypassCancel (w : CsrW) (s : State) : Host.Outcome State Fault Refusal := onDev (Dev.whenRunning (bypassCancel w)) s

/-- COMMITS of a group entry (R240). -/
def commitsOf (d : Dev) (g : Nat) : Nat := groupWord g 60 d

/-- A write of a trigger's control word: enabling it notes COMMITS, disabling it forgets them (R444). -/
def triggerWritten (n : Nat) (was : Bool) (d : Dev) : Dev :=
  let now := d.on (R.OPT_BYP_TRIG_A_EN n)
  if now == was then d
  else
    let v := if now then some (commitsOf d (d.get (R.OPT_BYP_TRIG_A_GIDX n))) else none
    { d with opt := { d.opt with trigCommits := SMap.set d.opt.trigCommits n v } }

/-- BYPASS_TRIGGER (R444): COMMITS have advanced by NCHUNK; the plan is armed at the next multiple of 4 from the current turn + LEAD. -/
def bypassTrigger (n : Nat) (d : Dev) : Dev :=
  let c := commitsOf d (d.get (R.OPT_BYP_TRIG_A_GIDX n))
  match SMap.get? d.opt.trigCommits n with
  | none => d
  | some base =>
    if (c + 2 ^ 32 - base) % 2 ^ 32 < d.get (R.OPT_BYP_TRIG_B_NCHUNK n) then d
    else
      let d := { d with opt := { d.opt with trigCommits := SMap.set d.opt.trigCommits n (if d.on (R.OPT_BYP_TRIG_A_REPEAT n) then some c else none) } }
      let p : Fin 64 := Fin.ofNat 64 (d.get (R.OPT_BYP_TRIG_A_PLAN n))
      let w := divUp (d.turn + leadOf d) 4 * 4
      if !planValid d p.val || conflicts d w then d else armWindow p w true d

def execBypassTrigger (n : Fin 32) (s : State) : Host.Outcome State Fault Refusal := onDev (Dev.whenApplied (bypassTrigger n.val)) s

/-- ARM (R446), in the order of its table. -/
def armReceived (x : PhaseMsg) (d : Dev) : Dev :=
  if d.get R.GLB_TURN_STATUS_MODE = 0 then answerPhase 3 4 x d
  else if !planValid d x.plan.val then answerPhase 3 2 x d
  else if (armed d x.plan x.wturn).isSome then answerPhase 2 0 x d
  else if x.wturn < d.turn + minLead d then answerPhase 3 1 x d
  else if conflicts d x.wturn then answerPhase 3 3 x d
  else answerPhase 2 0 x (armWindow x.plan x.wturn false d)

def execArm (s : State) : Host.Outcome State Fault Refusal := onDev (Dev.whenApplied (takePhase 0 armReceived)) s

/-- CANCEL (R446). -/
def cancelReceived (x : PhaseMsg) (d : Dev) : Dev :=
  match armed d x.plan x.wturn with
  | some y => if cancellable d y then answerPhase 2 0 x (disarm y d) else answerPhase 3 1 x d
  | none => answerPhase 3 1 x d

def execCancel (s : State) : Host.Outcome State Fault Refusal := onDev (Dev.whenApplied (takePhase 1 cancelReceived)) s

/-- ACK (R447): recorded for the originator's check. -/
def ackReceived (x : PhaseMsg) (d : Dev) : Dev :=
  match armed d x.plan x.wturn with
  | some y => if y.originator then modWindow y (fun z => { z with acked := z.acked ++ [x.src.toNat] }) d else d
  | none => d

def execAck (s : State) : Host.Outcome State Fault Refusal := onDev (Dev.whenApplied (takePhase 2 ackReceived)) s

/-- NAK (R447): counted and recorded. -/
def nakReceived (x : PhaseMsg) (d : Dev) : Dev :=
  let d := match armed d x.plan x.wturn with
    | some y => if y.originator then modWindow y (fun z => { z with nakd := true }) d else d
    | none => d
  d.bump (R.OPT_CNT_COUNT 9)

def execNak (s : State) : Host.Outcome State Fault Refusal := onDev (Dev.whenApplied (takePhase 3 nakReceived)) s

/-! ### The steps of a window (R447 to R449) -/

/-- The first window of the plan that stands at a stage and whose boundary W + k has come. -/
def dueWindow (d : Dev) (p : Fin 64) (stage : Nat) (ahead behind : Nat) : Option Window :=
  d.opt.windows.find? (fun x => x.plan == p && x.stage == stage && !x.abandoned && decide (x.w + behind ≤ d.turn + ahead))

/-- BYPASS_ACK_CHECK (R447): at W − 2 the originator cancels the window unless every destination has acknowledged it. -/
def bypassAckCheck (p : Fin 64) (d : Dev) : Dev :=
  match dueWindow d p 0 2 0 with
  | none => d
  | some x =>
    if x.originator && d.on R.OPT_BYP_CFG_ACKREQ && (x.nakd || x.sendTo.any (fun e => !x.acked.contains e)) then disarm x (sendCancels x d)
    else d

def execBypassAckCheck (plan : Fin 64) (s : State) : Host.Outcome State Fault Refusal := onDev (Dev.whenApplied (bypassAckCheck plan)) s

/-- The entries of a plan that are valid: port, profile, new tag, new peer (R443). -/
def planEntries (d : Dev) (p : Nat) : List (PortNo × Nat × BitVec 4 × Word) :=
  if !planValid d p then []
  else
    let b := d.get (R.OPT_BYP_PLAN_A_BASE p)
    (((List.range (d.get (R.OPT_BYP_PLAN_A_COUNT p))).map (fun i => b + i)).filter (fun x => d.on (R.OPT_BYP_PENT_A_VALID x))).map (fun x =>
      (Fin.ofNat 1024 (d.get (R.OPT_BYP_PENT_A_PORT x)), d.get (R.OPT_BYP_PENT_A_PROFILE x), BitVec.ofNat 4 (d.get (R.OPT_BYP_PENT_A_NEWTAG x)),
        d.rd (R.OPT_BYP_PENT_B x)))

/-- A bypass port: fabric or join, FTXLOCK 1, in no loopback (R441). -/
def bypassPort (d : Dev) (p : Nat) : Bool := d.isPort p && d.isOfp p && d.on (R.PORT_PCTL_FTXLOCK p) && !inLoopback d p

/-- BYPASS_LEAVE_SETS (R448): the window's ports leave every furrow set; entries of other ports are skipped with an event (R441). -/
def bypassLeaveSets (p : Fin 64) (d : Dev) : Dev :=
  match dueWindow d p 0 2 0 with
  | none => d
  | some x =>
    let es := planEntries d p.val
    let d := Dev.each (es.filter (fun e => !bypassPort d e.1.val)) (fun e d => raiseCE blkOpt 6 p.val d e.1.val) d
    modWindow x (fun y => { y with stage := 1, ports := es.filter (fun e => bypassPort d e.1.val) }) d

def execBypassLeaveSets (plan : Fin 64) (s : State) : Host.Outcome State Fault Refusal := onDev (Dev.whenApplied (bypassLeaveSets plan)) s

/-- DOWNFLUSH does not count while a window has the port (R448). -/
def noDownflush (p : Nat) (d : Dev) : Dev := d.modLink p (fun l => { l with downSince := none })

/-- The device abandons a window (R449): its ports are held down until W + 4. -/
def abandon (x : Window) (d : Dev) : Dev :=
  let d := Dev.each x.ports (fun e d => (noDownflush e.1.val (holdDown e.1.val 5 d)).modLink e.1.val (fun l => { l with squelched := false })) d
  let d := modWindow x (fun y => { y with abandoned := true, stage := max 2 y.stage }) d
  raiseCE blkOpt 8 x.plan.val ((d.set R.OPT_BYP_STAT_ABEVT 1).bump (R.OPT_CNT_COUNT 7))

/-- BYPASS_STEP0 (R448): ports finish their packets and idle. Ports that the module agent holds are skipped (R440); with MODE 0 the window is
abandoned (R449). -/
def bypassStep0 (p : Fin 64) (d : Dev) : Dev :=
  match dueWindow d p 1 0 0 with
  | none => d
  | some x =>
    let skip := x.ports.filter (fun e => agentHeld d e.1.val)
    let d := { d with opt := { d.opt with later := d.opt.later.filter (fun y => !skip.any (fun e => e.1 == y.1)) ++ skip.map (fun e => (e.1, e.2.2.1, e.2.2.2)) } }
    let y := { x with ports := x.ports.filter (fun e => !agentHeld d e.1.val) }
    if d.get R.GLB_TURN_STATUS_MODE = 0 then abandon y (modWindow x (fun _ => y) d)
    else modWindow x (fun _ => { y with stage := 2 }) (d.set R.OPT_BYP_STAT_STEP 0)

def execBypassStep0 (plan : Fin 64) (s : State) : Host.Outcome State Fault Refusal := onDev (Dev.whenApplied (bypassStep0 plan)) s

/-- One port at step 1: flushed, its retry buffer discarded, squelched, and given its new tag. -/
def portStep1 (e : PortNo × Nat × BitVec 4 × Word) (d : Dev) : Dev :=
  let was := (d.link e.1.val).flushed
  let d := takeDown e.1.val (discardRetry e.1.val (flushPort e.1 d))
  let d := showStage e.1.val 8 (noDownflush e.1.val d)
  ((d.modLink e.1.val (fun l => { l with squelched := true, flushed := was })).set (R.OPT_PTAG_TAG e.1.val) e.2.2.1.toNat).emit (.squelch e.1)

/-- BYPASS_STEP1 (R448). -/
def bypassStep1 (p : Fin 64) (d : Dev) : Dev :=
  match dueWindow d p 2 0 1 with
  | none => d
  | some x => modWindow x (fun y => { y with stage := 3 }) ((Dev.each x.ports portStep1 d).set R.OPT_BYP_STAT_STEP 1)

def execBypassStep1 (plan : Fin 64) (s : State) : Host.Outcome State Fault Refusal := onDev (Dev.whenApplied (bypassStep1 plan)) s

/-- One port at step 2: new peer, profile and a fast relock. -/
def portStep2 (e : PortNo × Nat × BitVec 4 × Word) (d : Dev) : Dev :=
  let d := (d.wr (R.PORT_RELOCK_PEER e.1.val) e.2.2.2).set (R.PORT_RELOCK_PROFILE e.1.val) e.2.1
  noDownflush e.1.val (relockStart e.1.val (d.modLink e.1.val (fun l => { l with squelched := false })))

/-- BYPASS_STEP2 (R448). -/
def bypassStep2 (p : Fin 64) (d : Dev) : Dev :=
  match dueWindow d p 3 0 2 with
  | none => d
  | some x => modWindow x (fun y => { y with stage := 4 }) ((Dev.each x.ports portStep2 d).set R.OPT_BYP_STAT_STEP 2)

def execBypassStep2 (plan : Fin 64) (s : State) : Host.Outcome State Fault Refusal := onDev (Dev.whenApplied (bypassStep2 plan)) s

/-- DOWNFLUSH counts from now for a port that is still down. -/
def countDown (p : Nat) (d : Dev) : Dev := if d.isUp p then d else d.modLink p (fun l => { l with downSince := some d.turn })

/-- What the module agents found while a window had their ports (R440). -/
def agentsResume (d : Dev) : Dev :=
  let waiting := d.opt.mods.flatMap (fun e => e.2.deferred.map (fun f => (e.1, f)))
  let d := { d with opt := { d.opt with mods := d.opt.mods.map (fun e => (e.1, { e.2 with deferred := [] })) } }
  Dev.each waiting (fun x d => agentActs (Fin.ofNat 64 x.1) x.2 d) d

/-- BYPASS_STEP3 (R448): the window closes; ports not yet up raise events. -/
def bypassStep3 (p : Fin 64) (d : Dev) : Dev :=
  match dueWindow d p 4 0 4 with
  | none => d
  | some x =>
    let d := Dev.each x.ports (fun e d => if d.isUp e.1.val then d else countDown e.1.val (raiseCE blkOpt 7 p.val d e.1.val)) d
    agentsResume (dropWindow x ((d.set R.OPT_BYP_STAT_STEP 3).bump (R.OPT_CNT_COUNT 6)))

def execBypassStep3 (plan : Fin 64) (s : State) : Host.Outcome State Fault Refusal := onDev (Dev.whenApplied (bypassStep3 plan)) s

/-- BYPASS_ABANDON_END (R449): the new tag and peer take effect and the ports train fully. -/
def bypassAbandonEnd (p : Fin 64) (d : Dev) : Dev :=
  match d.opt.windows.find? (fun x => x.plan == p && x.abandoned && decide (x.w + 4 ≤ d.turn)) with
  | none => d
  | some x =>
    agentsResume (Dev.each x.ports (fun e d =>
      countDown e.1.val (startTraining e.1.val ((d.set (R.OPT_PTAG_TAG e.1.val) e.2.2.1.toNat).wr (R.PORT_RELOCK_PEER e.1.val) e.2.2.2))) (dropWindow x d))

def execBypassAbandonEnd (plan : Fin 64) (s : State) : Host.Outcome State Fault Refusal := onDev (Dev.whenApplied (bypassAbandonEnd plan)) s

/-- At a boundary (R81, R449): running windows are abandoned on a class 7 overrun, and when MODE is 0. -/
def bypassBoundary (overrun : Bool) (d : Dev) : Dev :=
  let mode0 := d.get R.GLB_TURN_STATUS_MODE == 0
  Dev.each (d.opt.windows.filter (fun x => !x.abandoned &&
    ((mode0 && decide (2 ≤ x.stage)) || (overrun && decide (1 ≤ x.stage) && decide (x.w ≤ d.turn))))) abandon d

end Sys2Proof.Machine
end

