-- ==== Sys2Proof/Machine/WorkQ.lean ====
section
/-! DEFINITION. Work queues of the sluice and flume engines (R292 to R297, R304 to R310, R365): windows, taking a descriptor, its
end, and its completion record. -/

namespace Sys2Proof.Machine

/-- The registers of a work queue. -/
structure Wq where
  /-- Its place among the queues: 64 m + q, or 128 + q of the flume. -/
  key : Nat
  q : Nat
  block : Nat
  ring : RingRef
  cr : RingRef
  flush : Fld
  busy : Fld
  crwait : Fld
  stopped : Fld
  wdog : Fld
  /-- Address of window 0. -/
  win : Nat

def sluWq (m q : Nat) : Wq where
  key := 64 * m + q
  q := q
  block := blkSlu m
  ring := ⟨R.SLU_WQ_BASE m q, R.SLU_WQ_CFG_LOG2SIZE m q, R.SLU_WQ_CFG_EN m q, R.SLU_WQ_HEAD_HEAD m q, R.SLU_WQ_TAIL_TAIL m q, 64, 4, 16⟩
  cr := ⟨R.SLU_WQ_CR_BASE m q, R.SLU_WQ_CR_CFG_LOG2SIZE m q, R.SLU_WQ_CR_CFG_EN m q, R.SLU_WQ_CR_HEAD_HEAD m q,
    R.SLU_WQ_CR_TAIL_TAIL m q, 32, 4, 16⟩
  flush := R.SLU_WQ_CTL_FLUSH m q
  busy := R.SLU_WQ_CTL_BUSY m q
  crwait := R.SLU_WQ_HEAD_CRWAIT m q
  stopped := R.SLU_WQ_HEAD_STOPPED m q
  wdog := R.SLU_WQ_WDOG_TURNS m q
  win := R.SLU_WIN m q 0

def flumeWq (q : Nat) : Wq where
  key := 128 + q
  q := q
  block := blkFlume
  ring := ⟨R.FLUME_WQ_BASE q, R.FLUME_WQ_CFG_LOG2SIZE q, R.FLUME_WQ_CFG_EN q, R.FLUME_WQ_HEAD_HEAD q, R.FLUME_WQ_TAIL_TAIL q, 64, 4, 16⟩
  cr := ⟨R.FLUME_WQ_CR_BASE q, R.FLUME_WQ_CR_CFG_LOG2SIZE q, R.FLUME_WQ_CR_CFG_EN q, R.FLUME_WQ_CR_HEAD_HEAD q,
    R.FLUME_WQ_CR_TAIL_TAIL q, 32, 4, 16⟩
  flush := R.FLUME_WQ_CTL_FLUSH q
  busy := R.FLUME_WQ_CTL_BUSY q
  crwait := R.FLUME_WQ_HEAD_CRWAIT q
  stopped := R.FLUME_WQ_HEAD_STOPPED q
  wdog := R.FLUME_WQ_WDOG_TURNS q
  win := R.FLUME_WIN q 0

def Dev.workQ (d : Dev) (key : Nat) : WorkQ := SMap.getD d.eng.wq key ⟨[], none⟩
def Dev.setWorkQ (d : Dev) (key : Nat) (w : WorkQ) : Dev := { d with eng := { d.eng with wq := SMap.put d.eng.wq key w } }

/-- Change the taken descriptor of a number. -/
def modJob (key id : Nat) (f : Job → Job) (d : Dev) : Dev :=
  let w := d.workQ key
  d.setWorkQ key { w with taken := w.taken.map (fun j => if j.id = id then f j else j) }

def jobOf (key id : Nat) (d : Dev) : Option Job := (d.workQ key).taken.find? (fun j => j.id == id)

def Job.live (j : Job) : Bool := j.status.isNone

/-! ### Descriptor fields -/

def Job.op (j : Job) : Nat := leAt j.bytes 0 1
def Job.crec (j : Job) : Bool := bitAt (leAt j.bytes 1 1) 0
def Job.order (j : Job) : Bool := bitAt (leAt j.bytes 1 1) 1
def Job.tag (j : Job) : Nat := leAt j.bytes 4 4

/-- SPACE and address of an operand (R292). -/
def spOf (a : Nat) : Nat := a / 2 ^ 63 % 2
def adrOf (a : Nat) : Nat := a % 2 ^ 40

/-- The form of an operand address: bits 62 to 40 zero, a multiple of 64. -/
def addrForm (a : Nat) : Bool := a / 2 ^ 40 % 2 ^ 23 == 0 && a % 64 == 0

/-- The addresses that exist (R292). -/
def addrExists (a len : Nat) (d : Dev) : Bool :=
  decide (a % 2 ^ 63 + len ≤ (if spOf a = 0 then 2 ^ 28 else d.get R.RES_STATUS_USABLE * 2 ^ 30))

/-- A region lies in one window of the queue (R294). -/
def opWindow (w : Wq) (write : Bool) (a len : Nat) (d : Dev) : Bool :=
  addrExists a len d && (List.range 4).any (fun i =>
    let v := d.rd64 (w.win + 8 * i)
    bitAt v 62 && bitsOf v 60 1 == spOf a && (!write || bitAt v 61) && decide (bitsOf v 0 23 * 65536 ≤ adrOf a)
      && decide (adrOf a + len ≤ (bitsOf v 0 23 + bitsOf v 32 23) * 65536))

/-- Two regions share a byte. -/
def overlaps (a la b lb : Nat) : Bool :=
  spOf a == spOf b && decide (adrOf a < adrOf b + lb) && decide (adrOf b < adrOf a + la)

/-- The byte offset of the first field in error. -/
def firstBad (l : List (Nat × Bool)) : Option Nat := (l.find? (fun x => !x.2)).map (·.1)

/-- An engine of a work queue's unit accesses a region: a compute die, or one of the flume's eight engines, which the spec does not say. -/
def unitAccess (key cls : Nat) (r : Nat × Nat) (d : Dev) : Dev :=
  if key < 128 then countLines (spOf r.1) (requester 3 (key / 64)) cls 0 (adrOf r.1) r.2 d
  else
    let x := d.draw
    countLines (spOf r.1) (requester 4 (x.1.toNat % 8)) cls 0 (adrOf r.1) r.2 x.2

/-- The same for an address of the reservoir. -/
def resAccess (key cls a n : Nat) (d : Dev) : Dev := unitAccess key cls (2 ^ 63 + a, n) d

/-! ### Taking a descriptor -/

/-- The completion ring is full (R310). -/
def crFull (w : Wq) (d : Dev) : Bool := d.ringOn w.cr && d.ringFull w.cr

/-- CRWAIT follows the completion ring. -/
def showCr (w : Wq) (d : Dev) : Dev := d.set w.crwait (b2n (crFull w d))

/-- The queue may take descriptors, apart from room on the die and STOPPED (R295, R308, R310). -/
def mayTake (w : Wq) (d : Dev) : Bool := d.ringOn w.ring && !d.ringEmpty w.ring && !d.on w.busy && !crFull w d

/-- A job with nothing done. -/
def newJob (id didx : Nat) (bs : List Byte) : Job where
  id := id
  didx := didx
  bytes := bs
  per := 0
  tiles := 0
  dealt := 0
  computed := 0
  ended := 0
  good := 0
  errs := []
  status := none
  detail := 0
  detail2 := 0
  prevTurn := 0
  turn := 0
  sat := 0
  cycles := 0
  charge := 0
  wrote := []

/-- Take the descriptor at HEAD, of which there is one: it joins the queue's taken descriptors and HEAD passes it. -/
def takeJob (w : Wq) (f : Job → Job) (d : Dev) : Dev :=
  let h := d.get w.ring.head
  let j := f (newJob d.eng.nextJob h (d.readMem 1 (d.rd64 w.ring.base + 64 * h) 64))
  let q := d.workQ w.key
  let d := (d.setWorkQ w.key { q with taken := q.taken ++ [j] }).ringAdvance w.ring
  resAccess w.key 0 (d.rd64 w.ring.base + 64 * h) 64 { d with eng := { d.eng with nextJob := d.eng.nextJob + 1 } }

/-! ### Completion (R297, R304, R308, R310) -/

/-- A descriptor completes with a STATUS: its running tiles, if any are left, stop. -/
def finishJob (w : Wq) (cnt : Nat → Option Fld) (id status : Nat) (d : Dev) : Dev :=
  let d := modJob w.key id (fun j => { j with status := some status, turn := d.turn }) d
  let d := { d with eng := { d.eng with running := d.eng.running.filter (fun x => !(x.2.1 == w.key && x.2.2.1 == id)) } }
  match cnt status with
  | some f => d.bump f
  | none => d

/-- Every earlier descriptor of the queue has completed (R297). -/
def earlierDone (w : Wq) (id : Nat) (d : Dev) : Bool :=
  ((d.workQ w.key).taken.takeWhile (fun j => j.id != id)).all (fun j => !j.live)

/-- The flush is over once it has been taken and every record is written (R308). -/
def endFlush (w : Wq) (d : Dev) : Dev :=
  let q := d.workQ w.key
  if q.taken.isEmpty && q.flushTail.isNone && d.on w.busy && !d.on w.flush then d.set w.busy 0 else d

/-- The oldest taken descriptor, once it has completed, gives its record in order and leaves the queue; with the completion ring full
it waits. -/
def complete (w : Wq) (record : Job → Nat → Dev → List Byte) (d : Dev) : Dev :=
  let q := d.workQ w.key
  match q.taken with
  | [] => d
  | j :: rest =>
    match j.status with
    | none => d
    | some st =>
      let pop (d : Dev) : Dev := endFlush w (d.setWorkQ w.key { q with taken := rest })
      if st = 0 && !j.crec then pop d
      else if !d.ringOn w.cr then d
      else if d.ringFull w.cr then showCr w d
      else showCr w (pop (resAccess w.key 1 (d.rd64 w.cr.base + 32 * d.get w.cr.head) 32 (d.ringPush w.cr (record j st d))))

/-! ### Flush (R308) and watchdog (R307) -/

/-- A write of the control register. -/
def flushWrite (w : Wq) (fs : List FieldDef) (addr : Nat) (x : CsrW) (d : Dev) : Dev :=
  if x.val.toNat % 2 = 1 && d.on w.busy then refuseCsr addr x d
  else
    let d := writeOwn fs addr x d
    if x.val.toNat % 2 = 0 then d
    else (d.setWorkQ w.key { d.workQ w.key with flushTail := some (d.get w.ring.tail, d.ras.boundaries) }).set w.busy 1

/-- Each line of a region keeps what it holds or takes what it holds in `after` (R306): a free choice for each. -/
def mixLines (after : Dev) (regions : List (Nat × Nat)) (d : Dev) : Dev :=
  Dev.each regions (fun r d =>
    Dev.each (List.range (divUp r.2 64)) (fun i d =>
      let x := d.draw
      if x.1.toNat % 2 = 0 then x.2
      else
        let a := adrOf r.1 + 64 * i
        x.2.writeMem (spOf r.1) a (after.readMem (spOf r.1) a (min 64 (r.2 - 64 * i)))) d) d

/-- Once a boundary has come since a flush: `stop` leaves the outputs of a live descriptor undefined. Descriptors up to the TAIL of the write
are taken and end with them. -/
def flushApply (w : Wq) (cnt : Nat → Option Fld) (stop : Job → Dev → Dev) (d : Dev) : Dev :=
  match (d.workQ w.key).flushTail with
  | none => d
  | some (t, since) =>
    if d.ras.boundaries ≤ since then d
    else
    let n := (t + d.ringSize w.ring - d.get w.ring.head) % d.ringSize w.ring
    let d := Dev.each ((d.workQ w.key).taken.filter Job.live) (fun j d => finishJob w cnt j.id 6 (stop j d)) d
    let d := Dev.each (List.range n) (fun _ d => finishJob w cnt d.eng.nextJob 6 (takeJob w id d)) d
    let d := d.setWorkQ w.key { d.workQ w.key with flushTail := none }
    endFlush w (d.set w.flush 0)

/-- Charge the running descriptors of a queue at a boundary. -/
def chargeJobs (w : Wq) (duty : Nat) (d : Dev) : Dev :=
  let q := d.workQ w.key
  d.setWorkQ w.key { q with taken := q.taken.map (fun j => if j.live && decide (0 < j.dealt) then { j with charge := j.charge + duty } else j) }

/-- The descriptors whose charge has reached TURNS. -/
def timedOut (w : Wq) (d : Dev) : List Job :=
  let t := d.get w.wdog
  (d.workQ w.key).taken.filter (fun j => j.live && t != 0 && decide (0 < j.dealt) && decide (128 * t ≤ j.charge))

/-- A write of `new` words over a region marks its lines when they come from an uncorrectable line. -/
def poisonRegion (r : Nat × Nat) (d : Dev) : Dev :=
  Dev.each (List.range (divUp (adrOf r.1 % 64 + r.2) 64)) (fun i d => d.setPoison (spOf r.1) (adrOf r.1 + 64 * i)) d

def regionPoisoned (r : Nat × Nat) (d : Dev) : Bool := d.poisoned (spOf r.1) (adrOf r.1) r.2

end Sys2Proof.Machine
end

