-- ==== Sys2Proof/Machine/Sluice.lean ====
section
/-! DEFINITION. The sluice engines (R289 to R316): descriptor checks, tiles, the fixed kernels, loadable kernels, completions,
watchdog, flush and engine faults. -/

namespace Sys2Proof.Machine

def sluCnt (m : Nat) (st : Nat) : Option Fld := some (R.SLU_CNT_COUNT m st)

/-- Die and queue of a work queue's key. -/
def sluDie (key : Nat) : Nat := key / 64

/-! ### Tensors in memory (R292) -/

/-- Bytes of n elements, packed MXFP6 where `pack`, without scales. -/
def elemBytes (fmt n : Nat) (pack : Bool) : Nat :=
  if pack && (fmtCode fmt == 10 || fmtCode fmt == 11) then divUp (n * 3) 4
  else divUp (n * fmtBits fmt) 8

/-- Bytes from the address of a tensor to its end, scales included. -/
def tensorLen (fmt n : Nat) (pack : Bool) : Nat :=
  if isMx fmt then divUp (elemBytes fmt n pack) 64 * 64 + divUp n 32 else elemBytes fmt n pack

/-- A tensor: address, format, elements. -/
structure Tensor where
  addr : Nat
  fmt : Nat
  n : Nat

def scaleAt (t : Tensor) (i : Nat) (d : Dev) : Nat :=
  (d.readByte (spOf t.addr) (adrOf t.addr + divUp (elemBytes t.fmt t.n false) 64 * 64 + i / 32)).toNat

/-- Encoding of element i. -/
def rawElem (t : Tensor) (i : Nat) (d : Dev) : Nat :=
  if fmtCode t.fmt = 12 then (d.readByte (spOf t.addr) (adrOf t.addr + i / 2)).toNat / (if i % 2 = 0 then 1 else 16) % 16
  else
    let k := fmtBits t.fmt / 8
    ofLe (d.readMem (spOf t.addr) (adrOf t.addr + k * i) k)

/-- Element i as an FP32 word (R278). -/
def elemAt (t : Tensor) (i : Nat) (d : Dev) : Nat :=
  if isMx t.fmt then (mxIn t.fmt (scaleAt t i d) (rawElem t i d)).1 else plainIn t.fmt (rawElem t i d)

/-- Dot product of k elements of A from i and of B from j, in the order of R291. -/
def dot (a b : Tensor) (i j k : Nat) (d : Dev) : Nat :=
  if isMx a.fmt && isMx b.fmt then
    (List.range (k / 32)).foldl (fun acc blk =>
      let sa := scaleAt a (i + 32 * blk) d
      let sb := scaleAt b (j + 32 * blk) d
      let sum := (List.range 32).foldl (fun s x =>
        addN s (mulN (mxElemN a.fmt (rawElem a (i + 32 * blk + x) d)) (mxElemN b.fmt (rawElem b (j + 32 * blk + x) d)))) (.fin false 0 0)
      let term := if sa = 0xFF ∨ sb = 0xFF then .nan else mulN sum (.fin false 1 ((sa : Int) + sb - 254))
      (toFp32 (addN (fromFp32 acc) term)).1) 0
  else (List.range k).foldl (fun acc x => fmaF (elemAt a (i + x) d) (elemAt b (j + x) d) acc) 0

/-! ### Writing elements (R281, R282, R301) -/

/-- Four MXFP6 elements in three bytes. -/
def pack6 : Nat → List Nat → List Byte
  | 0, _ => []
  | n + 1, l =>
    if l.isEmpty then []
    else leBytes 3 (l.getD 0 0 % 64 + 64 * (l.getD 1 0 % 64) + 4096 * (l.getD 2 0 % 64) + 262144 * (l.getD 3 0 % 64)) ++ pack6 n (l.drop 4)

/-- Write FP32 words from element lo of a tensor on, with a generator. Answers the generator and how many were clipped or overflowed. -/
def putElems (t : Tensor) (pack : Bool) (lo : Nat) (ws : List Nat) (g : Nat) (d : Dev) : (Nat × Nat) × Dev :=
  let sp := spOf t.addr
  let base := adrOf t.addr
  if isMx t.fmt then
    let r := (blocksOf (ws.length + 1) ws).foldl (fun (r : List Nat × List Byte × Nat × List Nat) b =>
      let o := mxBlock t.fmt (fmtRnd t.fmt) r.2.2.1 b
      (r.1 ++ o.1, r.2.1 ++ [BitVec.ofNat 8 o.2.1], o.2.2.1, r.2.2.2 ++ o.2.2.2)) ([], [], g, [])
    let p := pack && (fmtCode t.fmt == 10 || fmtCode t.fmt == 11)
    let d := d.writeMem sp (base + elemBytes t.fmt lo pack) (if p then pack6 (r.1.length + 1) r.1 else mxBytes t.fmt r.1)
    let d := d.writeMem sp (base + divUp (elemBytes t.fmt t.n pack) 64 * 64 + lo / 32) r.2.1
    ((r.2.2.1, (r.2.2.2.filter (· == 2)).length), d)
  else
    let r := ws.foldl (fun (r : List Byte × Nat × List Nat) w =>
      let o := emitElems t.fmt r.2.1 [w]
      (r.1 ++ o.1.reverse, o.2.1, r.2.2 ++ o.2.2)) ([], g, [])
    ((r.2.1, (r.2.2.filter (· == 2)).length), d.writeMem sp (base + fmtBits t.fmt / 8 * lo) r.1)

/-! ### Descriptor checks (R297 to R303) -/

def Job.fmtA (j : Job) : Nat := leAt j.bytes 8 1
def Job.fmtB (j : Job) : Nat := leAt j.bytes 9 1
def Job.fmtO (j : Job) : Nat := leAt j.bytes 10 1
def Job.variant (j : Job) : Nat := leAt j.bytes 11 1
def Job.m (j : Job) : Nat := leAt j.bytes 12 4
def Job.n (j : Job) : Nat := leAt j.bytes 16 4
def Job.k (j : Job) : Nat := leAt j.bytes 20 4
def Job.addrA (j : Job) : Nat := leAt j.bytes 24 8
def Job.addrB (j : Job) : Nat := leAt j.bytes 32 8
def Job.addrC (j : Job) : Nat := leAt j.bytes 40 8
def Job.addrO (j : Job) : Nat := leAt j.bytes 48 8
def Job.param0 (j : Job) : Nat := leAt j.bytes 56 4
def Job.param1 (j : Job) : Nat := leAt j.bytes 60 4
def Job.pack6 (j : Job) : Bool := j.op == 4 && bitAt j.variant 0

/-- "Any float": FP32, BF16, FP16 or an MX format. -/
def anyFloat (fmt : Nat) : Bool := fmtKnown fmt && !isInt fmt && fmtRnd fmt != 3
/-- A multiplier format (R290). -/
def multFmt (fmt : Nat) : Bool := anyFloat fmt && fmtCode fmt != 1
def plainFloat (fmt : Nat) : Bool := anyFloat fmt && !isMx fmt

/-- Bytes of a POOL entry or row (R303). -/
def poolRow (fmt n : Nat) : Nat := 4 + divUp (n * fmtBits fmt / 8) 4 * 4

/-- Operands of a descriptor: 0 A, 1 B, 2 C, 3 O as DETAIL numbers them, its region, and whether it is an output. -/
def regions (j : Job) : List (Nat × (Nat × Nat) × Bool) :=
  match j.op with
  | 1 => [(0, (j.addrA, tensorLen j.fmtA (j.m * j.n) false), false), (1, (j.addrB, tensorLen j.fmtB (j.k * j.n) false), false),
          (3, (j.addrO, tensorLen j.fmtO (j.m * j.k) false), true)]
  | 2 => [(0, (j.addrA, tensorLen j.fmtA (j.m * j.k) false), false), (1, (j.addrB, tensorLen j.fmtB (j.n * j.k) false), false)] ++
         (if j.addrC = 0 then [] else [(2, (j.addrC, tensorLen j.fmtO (j.m * j.n) false), false)]) ++
         [(3, (j.addrO, tensorLen j.fmtO (j.m * j.n) false), true)]
  | 3 => [(0, (j.addrA, tensorLen j.fmtA j.m false), false), (2, (j.addrC, tensorLen j.fmtB j.m false), true),
          (3, (j.addrO, tensorLen j.fmtO j.m false), true)]
  | 4 => [(0, (j.addrA, tensorLen j.fmtA j.m false), false), (3, (j.addrO, tensorLen j.fmtO j.m j.pack6), true)]
  | 5 => [(0, (j.addrA, j.m * poolRow j.fmtA j.n), false), (1, (j.addrB, divUp j.k 4096 * 65536), false),
          (3, (j.addrO, j.k * poolRow j.fmtO j.n), true)]
  | _ => []

/-- Operand x overlaps none of the regions numbered in `ys` (R297). -/
def clearOf (j : Job) (x : Nat) (ys : List Nat) : Bool :=
  let rs := regions j
  match rs.find? (fun r => r.1 == x) with
  | none => true
  | some r => rs.all (fun s => !(ys.contains s.1) || !overlaps r.2.1.1 r.2.1.2 s.2.1.1 s.2.1.2)

/-- The fields of a descriptor in byte order, with whether each meets its limits (R299 to R303). Reserved bits count as unused fields (DESIGN
CHOICE, log 118). -/
def fieldChecks (j : Job) : List (Nat × Bool) :=
  let zero (off n : Nat) : Nat × Bool := (off, leAt j.bytes off n == 0)
  let head : List (Nat × Bool) := [(1, decide (leAt j.bytes 1 1 < 4)), zero 2 2]
  head ++ match j.op with
  | 0 => [zero 8 1, zero 9 1, zero 10 1, zero 11 1, zero 12 4, zero 16 4, zero 20 4, zero 24 8, zero 32 8, zero 40 8, zero 48 8,
          zero 56 4, zero 60 4]
  | 1 => [(8, multFmt j.fmtA), (9, multFmt j.fmtB), (10, anyFloat j.fmtO), zero 11 1, (16, j.n % 32 == 0),
          (20, decide (1 ≤ j.k) && decide (j.k ≤ 1024) && (!isMx j.fmtO || j.k % 32 == 0)), (24, addrForm j.addrA),
          (32, addrForm j.addrB), zero 40 8, (48, addrForm j.addrO && clearOf j 3 [0, 1]), zero 56 4, zero 60 4]
  | 2 => [(8, multFmt j.fmtA), (9, multFmt j.fmtB), (10, anyFloat j.fmtO), zero 11 1, (16, !isMx j.fmtO || j.n % 32 == 0),
          (20, decide (32 ≤ j.k) && decide (j.k ≤ 1024) && j.k % 32 == 0), (24, addrForm j.addrA), (32, addrForm j.addrB),
          (40, addrForm j.addrC), (48, addrForm j.addrO && clearOf j 3 [0, 1] && (j.addrO == j.addrC || clearOf j 3 [2])), zero 60 4]
  | 3 => [(8, anyFloat j.fmtA), (9, plainFloat j.fmtB && fmtCode j.fmtB != 3), (10, plainFloat j.fmtO), (11, decide (j.variant < 2)),
          zero 16 4, zero 20 4, (24, addrForm j.addrA), zero 32 8, (40, addrForm j.addrC && clearOf j 2 [0]),
          (48, addrForm j.addrO && clearOf j 3 [0, 2])]
  | 4 => [(8, anyFloat j.fmtA), zero 9 1, (10, anyFloat j.fmtO), (11, decide (j.variant < 2)),
          (12, !(isMx j.fmtA || isMx j.fmtO) || j.m % 32 == 0), zero 16 4, zero 20 4, (24, addrForm j.addrA), zero 32 8, zero 40 8,
          (48, addrForm j.addrO && clearOf j 3 [0]), zero 56 4, zero 60 4]
  | 5 => [(8, plainFloat j.fmtA), zero 9 1, (10, plainFloat j.fmtO), zero 11 1, (16, decide (1 ≤ j.n) && decide (j.n ≤ 4096)),
          (20, decide (1 ≤ j.k) && decide (j.k ≤ 1048576)), (24, addrForm j.addrA),
          (32, addrForm j.addrB && spOf j.addrB == 0 && clearOf j 1 [0]), zero 40 8, (48, addrForm j.addrO && clearOf j 3 [0, 1]),
          zero 56 4, zero 60 4]
  | _ => []

/-- The job of an index is active and not draining. -/
def jobActive (j : Nat) (d : Dev) : Bool :=
  match SMap.get? d.jobs.vis.entry j with
  | some x => x.2.2 == 1
  | none => false

/-- The kernel is present in SLU_KPRES. -/
def kernelPresent (m kid : Nat) (d : Dev) : Bool := bitAt (d.get (R.SLU_KPRES_PRESENT m (kid / 32))) (kid % 32)

/-- The first check of R298 that a descriptor fails: STATUS and DETAIL. -/
def sluCheck (m q : Nat) (j : Job) (d : Dev) : Option (Nat × Nat) :=
  if !kernelPresent m j.op d then some (1, 0)
  else if d.on (R.SLU_WQ_CFG_JOBQ m q) && !jobActive (d.get (R.SLU_WQ_CFG_JIDX m q)) d then some (7, 0)
  else match firstBad (fieldChecks j) with
    | some off => some (2, off)
    | none => ((regions j).find? (fun r => !opWindow (sluWq m q) r.2.2 r.2.1.1 r.2.1.2 d)).map (fun r => (3, r.1))

/-! ### Taking and splitting (R296) -/

def enginePool (m e : Nat) (d : Dev) : Nat := bitsOf (d.get (R.SLU_ENG_POOL_POOL m (e / 8))) (4 * (e % 8)) 4
def engineUp (m e : Nat) (d : Dev) : Bool := !d.eng.outOfService.contains (128 * m + e)
def poolSize (m p : Nat) (d : Dev) : Nat := ((List.range 128).filter (fun e => engineUp m e d && enginePool m e d == p)).length

/-- Descriptors of a die that are taken and have not completed. -/
def dieLoad (m : Nat) (d : Dev) : Nat :=
  ((d.eng.wq.filter (fun x => x.1 / 64 == m)).map (fun x => (x.2.taken.filter Job.live).length)).foldl (· + ·) 0

/-- How a kernel splits: 0 none, 1 by rows of M, 2 by element range (R296, R311). -/
def splitOf (kid : Nat) (d : Dev) : Nat :=
  match kid with
  | 1 => 1
  | 2 => 1
  | 3 => 2
  | 4 => 2
  | _ => match d.boot.kernels.find? (fun k => k.1.toNat == kid) with
    | some k => k.2.1
    | none => 0

/-- Rows or elements of a tile, and the number of tiles, for E engines in the pool. -/
def splitJob (split mm e : Nat) : Nat × Nat :=
  match split with
  | 1 =>
    let per := 8 * divUp mm (8 * e)
    (per, if per = 0 then 0 else divUp mm per)
  | 2 => (65536, divUp mm 65536)
  | _ => (mm, 1)

/-- E of R296; with no engine in service the number of a later tile split is left open. -/
def poolE (m q : Nat) (d : Dev) : Nat × Dev :=
  let e := poolSize m (d.get (R.SLU_WQ_CFG_POOL m q)) d
  if e = 0 then
    let r := d.draw
    (r.1.toNat % 128 + 1, r.2)
  else (e, d)

/-- Take a descriptor and check it (R296, R298); with STOPPED, end it with JOBGONE once those before it have completed (R309). -/
def sluTake (m q : Nat) (d : Dev) : Dev :=
  let w := sluWq m q
  if !mayTake w d then showCr w d
  else if d.dieState (m + 10) == 3 then finishJob w (sluCnt m) d.eng.nextJob 8 (takeJob w id d)
  else if d.on w.stopped then
    if (d.workQ w.key).taken.all (fun j => !j.live) then finishJob w (sluCnt m) d.eng.nextJob 7 (takeJob w id d) else d
  else if 32 ≤ dieLoad m d then d
  else
    let n := d.eng.nextJob
    let d := takeJob w id d
    match jobOf w.key n d with
    | none => d
    | some j =>
      match sluCheck m q j d with
      | some (st, detail) => finishJob w (sluCnt m) n st (modJob w.key n (fun j => { j with detail := detail }) d)
      | none =>
        if j.op = 0 then d
        else
          let e := poolE m q d
          let s := splitJob (splitOf j.op d) j.m e.1
          let d := modJob w.key n (fun j => { j with per := s.1, tiles := s.2 }) e.2
          if s.2 = 0 then finishJob w (sluCnt m) n 0 d else d

def execSluDescriptorTake (q : SluQ) (s : State) : Host.Outcome State Fault Refusal :=
  onDev (Dev.whenApplied (sluTake q.die.val q.q.val)) s

/-- The oldest live descriptor of a queue that a command of kernel `op` acts on. -/
def liveJob (key : Nat) (p : Job → Bool) (d : Dev) : Option Job := (d.workQ key).taken.find? (fun j => j.live && p j)

/-- SLU_NOP (R299): a NOP completes once every earlier descriptor of its queue has. -/
def sluNop (m q : Nat) (d : Dev) : Dev :=
  let w := sluWq m q
  match liveJob w.key (fun j => j.op == 0) d with
  | some j => if earlierDone w j.id d then finishJob w (sluCnt m) j.id 0 d else d
  | none => d

def execSluNop (q : SluQ) (s : State) : Host.Outcome State Fault Refusal := onDev (Dev.whenApplied (sluNop q.die.val q.q.val)) s

/-! ### Dispatch (R296, R297) -/

/-- The next tile of a queue: that of its first descriptor with tiles left, unless ORDER holds it. -/
def nextTile (w : Wq) (d : Dev) : Option Job :=
  match liveJob w.key (fun j => decide (j.dealt < j.tiles)) d with
  | some j => if j.order && !earlierDone w j.id d then none else some j
  | none => none

/-- The queue that the pool serves next: PRIO highest, round-robin from the one served last. -/
def nextQueue (m pool : Nat) (d : Dev) : Option (Nat × Nat × Job) :=
  let cands := (List.range 64).filterMap (fun q =>
    if d.get (R.SLU_WQ_CFG_POOL m q) = pool then (nextTile (sluWq m q) d).map (fun j => (q, d.get (R.SLU_WQ_CFG_PRIO m q), j)) else none)
  let top := (cands.map (fun c => c.2.1)).foldl max 0
  let best := cands.filter (fun c => c.2.1 == top)
  let last := SMap.getD d.eng.rr (64 * m + 4 * pool + top) 63
  match best.find? (fun c => decide (last < c.1)) with
  | some c => some c
  | none => best.head?

def tileDispatch (m e : Nat) (d : Dev) : Dev :=
  if !engineUp m e d || SMap.has d.eng.running (128 * m + e) then d
  else match nextQueue m (enginePool m e d) d with
    | none => d
    | some (q, prio, j) =>
      let key := 64 * m + q
      let d := modJob key j.id (fun j => { j with dealt := j.dealt + 1 }) d
      { d with eng := { d.eng with
          rr := SMap.put d.eng.rr (64 * m + 4 * enginePool m e d + prio) q
          running := SMap.put d.eng.running (128 * m + e) (key, j.id, j.dealt) } }

def execTileDispatch (die : Fin 2) (engine : Fin 128) (s : State) : Host.Outcome State Fault Refusal :=
  onDev (Dev.whenApplied (tileDispatch die.val engine.val)) s

/-! ### The fixed kernels (R300 to R303) -/

/-- Rows or elements of tile t: first and number. -/
def tileSpan (j : Job) (t : Nat) : Nat × Nat := (t * j.per, min j.per (j.m - t * j.per))

/-- MACs per engine per cycle of a multiplier class (R290). -/
def macRate (fmt : Nat) : Nat :=
  match fmtCode fmt with
  | 12 => 16384
  | 2 => 4096
  | 3 => 4096
  | _ => 8192

/-- Array issue cycles of a projection or expansion tile of so many rows. -/
def macCycles (j : Job) (rows : Nat) : Nat := divUp (rows * j.n * j.k) (min (macRate j.fmtA) (macRate j.fmtB))

/-- Generator of a tile under RND 2 (R291). -/
def tileGen (m : Nat) (j : Job) (t : Nat) (d : Dev) : Nat :=
  let g := Nat.xor (Nat.xor (d.get (R.SLU_CFG_SEED m)) j.tag) (t % 2 ^ 32)
  if g = 0 then 1 else g

def lrpOut (j : Job) (lo n : Nat) (d : Dev) : List Nat :=
  (List.range n).flatMap (fun r => (List.range j.k).map (fun c =>
    dot ⟨j.addrA, j.fmtA, j.m * j.n⟩ ⟨j.addrB, j.fmtB, j.k * j.n⟩ ((lo + r) * j.n) (c * j.n) j.n d))

def lrxOut (j : Job) (lo n : Nat) (d : Dev) : List Nat :=
  (List.range n).flatMap (fun r => (List.range j.n).map (fun c =>
    let p := dot ⟨j.addrA, j.fmtA, j.m * j.k⟩ ⟨j.addrB, j.fmtB, j.n * j.k⟩ ((lo + r) * j.k) (c * j.k) j.k d
    fmaF j.param0 p (if j.addrC = 0 then 0 else elemAt ⟨j.addrC, j.fmtO, j.m * j.n⟩ ((lo + r) * j.n + c) d)))

/-- θ and v of one element (R302). -/
def outerElem (j : Job) (i : Nat) (d : Dev) : Nat × Nat :=
  let delta := elemAt ⟨j.addrA, j.fmtA, j.m⟩ i d
  let v := elemAt ⟨j.addrC, j.fmtB, j.m⟩ i d
  let v1 := fmaF j.param1 v delta
  let u := if j.variant = 1 then fmaF j.param1 v1 delta else v1
  let neg := if j.param0 < 2 ^ 31 then j.param0 + 2 ^ 31 else j.param0 - 2 ^ 31
  (fmaF neg u (elemAt ⟨j.addrO, j.fmtO, j.m⟩ i d), v1)

/-- What a tile leaves: clipped elements, cycles where the spec gives them, keys held. -/
structure TileOut where
  sat : Nat
  cycles : Option Nat
  keys : Nat
  dev : Dev

def putOuter (j : Job) (lo n g : Nat) (d : Dev) : TileOut :=
  let r := (List.range n).foldl (fun (r : (Nat × Nat) × Dev) i =>
    let x := outerElem j (lo + i) d
    let a := putElems ⟨j.addrC, j.fmtB, j.m⟩ false (lo + i) [x.2] r.1.1 r.2
    let b := putElems ⟨j.addrO, j.fmtO, j.m⟩ false (lo + i) [x.1] a.1.1 a.2
    ((b.1.1, r.1.2 + a.1.2 + b.1.2), b.2)) ((g, 0), d)
  ⟨r.1.2, none, 0, r.2⟩

/-- Rows of a POOL: keys and their FP32 sums in order of first arrival, and entries dropped (R303). -/
def poolRows (j : Job) (d : Dev) : List (Nat × List Nat) × Nat :=
  let w := fmtBits j.fmtA / 8
  (List.range j.m).foldl (fun (r : List (Nat × List Nat) × Nat) i =>
    let a := adrOf j.addrA + i * poolRow j.fmtA j.n
    let key := ofLe (d.readMem (spOf j.addrA) a 4)
    let vs := (List.range j.n).map (fun c => plainIn j.fmtA (ofLe (d.readMem (spOf j.addrA) (a + 4 + w * c) w)))
    let add (row : List Nat) : List Nat := List.zipWith (fun x y => (addF x y).1) row vs
    if key = 0xFFFFFFFF then (r.1, r.2 + 1)
    else if r.1.any (fun x => x.1 == key) then (r.1.map (fun x => if x.1 = key then (key, add x.2) else x), r.2)
    else if j.k ≤ r.1.length || !Config.insertFits 9 (r.1.map (·.1)) key then (r.1, r.2 + 1)
    else (r.1 ++ [(key, add (List.replicate j.n 0))], r.2)) ([], 0)

/-- Write n bytes of unknown contents. -/
def scribble (sp a n : Nat) (d : Dev) : Dev :=
  Dev.each (List.range n) (fun i d => let r := d.draw; r.2.writeMem sp (a + i) [BitVec.ofNat 8 r.1.toNat]) d

def putPool (j : Job) (g : Nat) (d : Dev) : TileOut :=
  let r := poolRows j d
  let o := (r.1.zip (List.range r.1.length)).foldl (fun (o : Nat × Dev) x =>
    let a := adrOf j.addrO + x.2 * poolRow j.fmtO j.n
    let e := x.1.2.foldl (fun (e : List Byte × Nat) v => let q := emitElems j.fmtO e.2 [v]; (e.1 ++ q.1.reverse, q.2.1)) ([], o.1)
    (e.2, o.2.writeMem (spOf j.addrO) a (padTo (leBytes 4 x.1.1 ++ e.1) (poolRow j.fmtO j.n))))
    (g, scribble 0 (adrOf j.addrB) (divUp j.k 4096 * 65536) d)
  ⟨r.2, none, r.1.length, o.2⟩

/-- Compute tile t of a descriptor of a fixed kernel, its lines not yet counted. -/
def calcTile (m : Nat) (j : Job) (t : Nat) (d : Dev) : TileOut :=
  let s := tileSpan j t
  let g := tileGen m j t d
  match j.op with
  | 1 =>
    let r := putElems ⟨j.addrO, j.fmtO, j.m * j.k⟩ false (s.1 * j.k) (lrpOut j s.1 s.2 d) g d
    ⟨r.1.2, some (macCycles j s.2), 0, r.2⟩
  | 2 =>
    let r := putElems ⟨j.addrO, j.fmtO, j.m * j.n⟩ false (s.1 * j.n) (lrxOut j s.1 s.2 d) g d
    ⟨r.1.2, some (macCycles j s.2), 0, r.2⟩
  | 3 => putOuter j s.1 s.2 g d
  | 4 =>
    let ws := (List.range s.2).map (fun i => elemAt ⟨j.addrA, j.fmtA, j.m⟩ (s.1 + i) d)
    let r := putElems ⟨j.addrO, j.fmtO, j.m⟩ j.pack6 s.1 ws g d
    ⟨r.1.2, none, 0, r.2⟩
  | 5 => putPool j g d
  | _ => ⟨0, none, 0, d⟩

/-- Bytes of elements lo to lo + n − 1 of a tensor, and of their scales. -/
def spanOf (addr fmt total lo n : Nat) (pack : Bool) : List (Nat × Nat) :=
  let a := elemBytes fmt lo pack
  [(addr + a, elemBytes fmt (lo + n) pack - a)] ++
  (if isMx fmt then [(addr + divUp (elemBytes fmt total pack) 64 * 64 + lo / 32, divUp n 32)] else [])

/-- What tile t reads and writes. -/
def tileReads (j : Job) (t : Nat) : List (Nat × Nat) :=
  let s := tileSpan j t
  match j.op with
  | 1 => spanOf j.addrA j.fmtA (j.m * j.n) (s.1 * j.n) (s.2 * j.n) false ++ spanOf j.addrB j.fmtB (j.k * j.n) 0 (j.k * j.n) false
  | 2 => spanOf j.addrA j.fmtA (j.m * j.k) (s.1 * j.k) (s.2 * j.k) false ++ spanOf j.addrB j.fmtB (j.n * j.k) 0 (j.n * j.k) false ++
      (if j.addrC = 0 then [] else spanOf j.addrC j.fmtO (j.m * j.n) (s.1 * j.n) (s.2 * j.n) false)
  | 3 => spanOf j.addrA j.fmtA j.m s.1 s.2 false ++ spanOf j.addrC j.fmtB j.m s.1 s.2 false ++ spanOf j.addrO j.fmtO j.m s.1 s.2 false
  | 4 => spanOf j.addrA j.fmtA j.m s.1 s.2 false
  | 5 => [(j.addrA, j.m * poolRow j.fmtA j.n)]
  | _ => []

def tileWrites (j : Job) (t : Nat) : List (Nat × Nat) :=
  let s := tileSpan j t
  match j.op with
  | 1 => spanOf j.addrO j.fmtO (j.m * j.k) (s.1 * j.k) (s.2 * j.k) false
  | 2 => spanOf j.addrO j.fmtO (j.m * j.n) (s.1 * j.n) (s.2 * j.n) false
  | 3 => spanOf j.addrC j.fmtB j.m s.1 s.2 false ++ spanOf j.addrO j.fmtO j.m s.1 s.2 false
  | 4 => spanOf j.addrO j.fmtO j.m s.1 s.2 j.pack6
  | 5 => [(j.addrO, j.detail * poolRow j.fmtO j.n)]
  | _ => (j.wrote.filter (fun x => x.1 == t)).map (fun x => x.2)

/-- Compute tile t of a descriptor of a fixed kernel; the die accesses each line of its operands and outputs (R456). -/
def runTile (m : Nat) (j : Job) (t : Nat) (d : Dev) : TileOut :=
  let o := calcTile m j t d
  let d := Dev.each (tileReads j t) (unitAccess (64 * m) 0) o.dev
  { o with dev := Dev.each (tileWrites { j with detail := o.keys } t) (unitAccess (64 * m) 1) d }

/-- Tiles dealt and neither computed nor ended by a fault, in order. -/
def openTiles (j : Job) : List Nat :=
  ((List.range (j.dealt - j.computed)).map (fun i => j.computed + i)).filter (fun t => !j.errs.any (fun x => x.1 == t))

/-- Run the next tile that has been dealt and not computed of the queue's oldest such descriptor of a kernel. An operand line that is
uncorrectable ends the tile with POISON, and the lines it writes carry the tag (R305). -/
def computeTile (m q op : Nat) (d : Dev) : Dev :=
  let w := sluWq m q
  match liveJob w.key (fun j => j.op == op && !(openTiles j).isEmpty) d with
  | none => d
  | some j =>
    let t := (openTiles j).headD 0
    let bad := (tileReads j t).any (fun r => regionPoisoned r d)
    let o := runTile m j t d
    let c := match o.cycles with
      | some c => (c, o.dev)
      | none => let r := o.dev.draw; (r.1.toNat, r.2)
    let j' := { j with computed := t + 1, sat := j.sat + o.sat, cycles := j.cycles + c.1, detail := o.keys,
                       errs := if bad then j.errs ++ [(t, 4)] else j.errs }
    let d := modJob w.key j.id (fun _ => j') c.2
    if bad then Dev.each (tileWrites j' t) poisonRegion d else d

def execLrp (q : SluQ) (s : State) : Host.Outcome State Fault Refusal := onDev (Dev.whenApplied (computeTile q.die.val q.q.val 1)) s
def execLrx (q : SluQ) (s : State) : Host.Outcome State Fault Refusal := onDev (Dev.whenApplied (computeTile q.die.val q.q.val 2)) s
def execOuter (q : SluQ) (s : State) : Host.Outcome State Fault Refusal := onDev (Dev.whenApplied (computeTile q.die.val q.q.val 3)) s
def execReq (q : SluQ) (s : State) : Host.Outcome State Fault Refusal := onDev (Dev.whenApplied (computeTile q.die.val q.q.val 4)) s
def execPool (q : SluQ) (s : State) : Host.Outcome State Fault Refusal := onDev (Dev.whenApplied (computeTile q.die.val q.q.val 5)) s

/-- LOADABLE_KERNEL (R311, R313): the next tile of a loadable kernel makes its writes, each checked against the windows when it is made.
An access outside them (a write, or a read where `outside`) stops the tile with BADADDR. -/
def loadableTile (m q cycles : Nat) (outside : Bool) (writes : List (Nat × List Byte)) (d : Dev) : Dev :=
  let w := sluWq m q
  match liveJob w.key (fun j => decide (0x40 ≤ j.op) && !(openTiles j).isEmpty) d with
  | none => d
  | some j =>
    let t := (openTiles j).headD 0
    let ok := writes.takeWhile (fun x => opWindow w true x.1 x.2.length d)
    let d := Dev.each ok (fun x d => unitAccess (64 * m) 1 (x.1, x.2.length) (d.writeMem (spOf x.1) (adrOf x.1) x.2)) d
    let stop := outside || decide (ok.length < writes.length)
    modJob w.key j.id (fun j => { j with computed := t + 1, cycles := j.cycles + cycles, detail := if stop then 4 else j.detail,
                                         errs := if stop then j.errs ++ [(t, 3)] else j.errs,
                                         wrote := j.wrote ++ ok.map (fun x => (t, x.1, x.2.length)) }) d

def execLoadableKernel (q : SluQ) (cycles : Nat) (outside : Bool) (writes : List (Nat × List Byte)) (s : State) :
    Host.Outcome State Fault Refusal := onDev (Dev.whenApplied (loadableTile q.die.val q.q.val cycles outside writes)) s

/-! ### The end of a tile and of a descriptor -/

/-- The first error status in tile order. -/
def firstErr (j : Job) : Option Nat :=
  let low := (j.errs.map (·.1)).foldl min j.tiles
  (j.errs.find? (fun x => x.1 == low)).map (·.2)

/-- The last tile has ended: the descriptor completes, with the event of its STATUS (R305). -/
def endIfLast (m : Nat) (w : Wq) (id : Nat) (d : Dev) : Dev :=
  match jobOf w.key id d with
  | none => d
  | some j =>
    if j.ended < j.tiles then d
    else
      let st := (firstErr j).getD 0
      let d := finishJob w (sluCnt m) id st d
      if st = 3 then raiseCE w.block 2 w.q d else if st = 4 then raiseDE w.block 3 w.q d j.didx else d

/-- One tile of engine (m, e) ends, with a new error or without. -/
def endTile (m e : Nat) (err : Option Nat) (d : Dev) : Dev :=
  match SMap.get? d.eng.running (128 * m + e) with
  | none => d
  | some (key, id, t) =>
    let d := { d with eng := { d.eng with running := SMap.del d.eng.running (128 * m + e) } }
    let d := modJob key id (fun j =>
      let errs := match err with | some x => j.errs ++ [(t, x)] | none => j.errs
      { j with ended := j.ended + 1, errs := errs, good := if errs.any (fun x => x.1 == t) then j.good else j.good + 1 }) d
    endIfLast m (sluWq m (key % 64)) id d

/-- TILE_COMPLETE: a computed tile ends. `poison`: an uncorrectable line was met, in local memory or on a read. -/
def tileComplete (m e : Nat) (poison : Bool) (d : Dev) : Dev :=
  match SMap.get? d.eng.running (128 * m + e) with
  | none => d
  | some (key, id, t) =>
    match jobOf key id d with
    | none => d
    | some j =>
      if j.computed ≤ t then d
      else endTile m e (if poison then some 4 else none) (if poison then Dev.each (tileWrites j t) poisonRegion d else d)

def execTileComplete (die : Fin 2) (engine : Fin 128) (poison : Bool) (s : State) : Host.Outcome State Fault Refusal :=
  onDev (Dev.whenApplied (tileComplete die.val engine.val poison)) s

/-- DETAIL of the record (R304). -/
def sluDetail (j : Job) (st : Nat) : Nat :=
  match st with
  | 0 => if j.op = 5 then j.detail else 0
  | 2 => j.detail
  | 3 => j.detail
  | 1 => 0
  | _ => j.good

/-- The completion record of R304. -/
def sluRecord (j : Job) (st : Nat) (_ : Dev) : List Byte :=
  leBytes 4 j.tag ++ leBytes 2 j.didx ++ leBytes 1 st ++ leBytes 1 j.op ++ leBytes 4 (sluDetail j st) ++
  leBytes 4 (min 0xFFFFFFFF j.sat) ++ leBytes 4 (min 0xFFFFFFFF (j.cycles / 256)) ++ zeros 4 ++ leBytes 8 j.turn

def execSluCompletion (q : SluQ) (s : State) : Host.Outcome State Fault Refusal :=
  onDev (Dev.whenApplied (complete (sluWq q.die.val q.q.val) sluRecord)) s

/-- A live descriptor stops: every tile that was dealt and not computed may have written some of its lines (R306). -/
def stopJob (m : Nat) (j : Job) (d : Dev) : Dev :=
  Dev.each (openTiles j) (fun t d =>
    mixLines (runTile m j t d).dev (tileWrites j t) d) d

/-- SLU_WATCHDOG_TIMEOUT (R307): the oldest descriptor whose charge has reached TURNS stops. -/
def sluWatchdog (m q : Nat) (d : Dev) : Dev :=
  let w := sluWq m q
  match timedOut w d with
  | [] => d
  | j :: _ => finishJob w (sluCnt m) j.id 5 (raiseCE w.block 4 q (stopJob m j d) j.didx)

def execSluWatchdogTimeout (q : SluQ) (s : State) : Host.Outcome State Fault Refusal :=
  onDev (Dev.whenApplied (sluWatchdog q.die.val q.q.val)) s

def execSluQueueFlush (q : SluQ) (w : CsrW) (s : State) : Host.Outcome State Fault Refusal :=
  onDev (Dev.whenRunning (fun d => onUnit (d.computeFitted q.die.val) (R.SLU_WQ_CTL q.die.val q.q.val) w
    (flushWrite (sluWq q.die.val q.q.val) RF.SLU_WQ_CTL (R.SLU_WQ_CTL q.die.val q.q.val) w) d)) s

def execSluFlushApply (q : SluQ) (s : State) : Host.Outcome State Fault Refusal :=
  onDev (Dev.whenApplied (flushApply (sluWq q.die.val q.q.val) (sluCnt q.die.val) (stopJob q.die.val))) s

/-! ### Engine spares (R488) -/

/-- Field of TEST_SLU_MAP for logical engine e of die m. -/
def sluMapFld (m e : Nat) : Fld := ⟨R.TEST_SLU_MAP m (e / 4), 8 * (e % 4), 8⟩

/-- Physical engines of a die that are neither mapped nor failed. -/
def spareEngines (m : Nat) (d : Dev) : List Nat :=
  (List.range 136).filter (fun p => !((List.range 128).any (fun e => d.get (sluMapFld m e) == p)) && !d.ras.failed.contains (6, 136 * m + p))

/-- Unit of a TEST event: kind and number (R527). -/
def testUnit (kind n : Nat) : Nat := kind * 2 ^ 28 + n

/-- A logical engine loses its physical one: a spare takes its number, any of those left, or it leaves service. -/
def replaceEngine (m e : Nat) (failed : Bool) (d : Dev) : Dev :=
  let p := d.get (sluMapFld m e)
  let sp := spareEngines m d
  let d := if failed then { d with ras := { d.ras with failed := d.ras.failed ++ [(6, 136 * m + p)] } } else d
  let d := match sp with
    | [] => (raiseFatal blkTest 5 (testUnit 6 (136 * m + p)) ({ d with eng := { d.eng with
        outOfService := d.eng.outOfService ++ [128 * m + e] } }.set (sluMapFld m e) 0xFF)).drop (R.SLU_STAT_INSVC m)
    | _ =>
      let r := d.draw
      raiseCE blkTest 4 (testUnit 6 (136 * m + p)) (r.2.set (sluMapFld m e) (sp.getD (r.1.toNat % sp.length) 0))
  d.set (R.SLU_STAT_SPARES m) (spareEngines m d).length

/-- SLU_ENGINE_FAULT (R305, R488). -/
def sluEngineFault (m e : Nat) (d : Dev) : Dev :=
  match SMap.get? d.eng.running (128 * m + e) with
  | none => d
  | some (key, id, t) =>
    let d := match jobOf key id d with
      | some j => if j.computed ≤ t then mixLines (runTile m j t d).dev (tileWrites j t) d else d
      | none => d
    endTile m e (some 8) (replaceEngine m e true (raiseDE (blkSlu m) 5 e d))

def execSluEngineFault (die : Fin 2) (engine : Fin 128) (s : State) : Host.Outcome State Fault Refusal :=
  onDev (Dev.whenApplied (sluEngineFault die.val engine.val)) s

end Sys2Proof.Machine
end

