-- ==== Sys2Proof/Machine/Ras.lean ====
section
/-! DEFINITION. Reliability, spares, self-test and JTAG (R481 to R494, R511, R529). -/

namespace Sys2Proof.Machine

/-! ### Units that fail in operation -/

/-- D2D_INTERFACE_FAIL (R490, R529): more than 1,024 retries in one turn. A port or compute die leaves service; a control die stops the device. -/
def d2dInterfaceFail (i : Fin 11) (d : Dev) : Dev :=
  let die := if i.val < 10 then i.val + 2 else 0
  if d.dieState die = 0 || d.on (R.TEST_D2D_STAT_FAILED i.val) then d
  else
    let r := d.draw
    let d := raiseFatal blkTest 9 i.val (r.2.bump (R.TEST_D2D_STAT_RETRY i.val) (1025 + r.1.toNat))
    let d :=
      if 10 ≤ i.val || !d.dieReady die then d
      else
        let ports := ((List.range 128).map (fun k => 128 * i.val + k)).filter (fun p => d.isPort p)
        let d := if i.val < 8 then Dev.each ports (fun p d => showStage p 8 (takeDown p d)) d else d
        let d := d.setDie die 3
        if i.val < 8 then d
        else
          let m := i.val - 8
          Dev.each (List.range 64) (fun q d =>
            Dev.each ((d.workQ (sluWq m q).key).taken.filter (fun j => j.live)) (fun j d => finishJob (sluWq m q) (sluCnt m) j.id 8 d) d) d
    let d := d.set (R.TEST_D2D_STAT_FAILED i.val) 1
    if i.val < 10 then d else stop 3 (d.setDie 0 3)

def execD2dInterfaceFail (i : Fin 11) (s : State) : Host.Outcome State Fault Refusal := onDev (Dev.whenRunning (d2dInterfaceFail i)) s

/-- A cistern bank leaves service with no spare left (R486): its free cells leave the free list now, as many as it has (free), and the others
as they are freed. -/
def retireBank (d : Dev) : Dev :=
  let gone := 1024 * (d.ras.failed.filter (fun x => x.1 == 0)).length
  let least := 1024 - min 1024 d.cist.free
  let most := min 1024 (Config.cisternCells - gone - d.cist.free)
  let r := d.draw
  let held := least + r.1.toNat % (most - least + 1)
  let d := { r.2 with cist := { d.cist with free := d.cist.free - (1024 - held), retiring := d.cist.retiring + held } }
  gxUpdate (showFree (d.drop R.CIST_POOL_STAT_SHARED 1024))

/-- A bank, a memory channel or sluice local memory counts as failing (R484): a copy to a free spare begins (R486, R487). -/
def memoryFails (kind unit : Nat) (d : Dev) : Dev :=
  if !d.on R.TEST_SPARE_CFG_MEMAUTO || d.ras.copying.contains (kind, unit) || d.ras.failed.contains (kind, unit) then d
  else
    let copy (d : Dev) : Dev := { d with ras := { d.ras with copying := d.ras.copying ++ [(kind, unit)] } }
    let lost (d : Dev) : Dev := raiseFatal blkTest 5 (testUnit kind unit) { d with ras := { d.ras with failed := d.ras.failed ++ [(kind, unit)] } }
    match kind with
    | 0 =>
      if 0 < d.get R.TEST_SPARE_STAT_CISTSP then copy (d.drop R.TEST_SPARE_STAT_CISTSP)
      else lost (retireBank d)
    | 1 => if 0 < d.get R.TEST_SPARE_STAT_COMSP then copy (d.drop R.TEST_SPARE_STAT_COMSP) else lost d
    | 2 =>
      let st := unit / 32
      if d.get (R.TEST_HBM_STAT_FAILCH st) = 31 && !bitAt (d.get R.RES_STATUS_SPARED) st && !d.on (R.TEST_HBM_STAT_EXHAUST st) then
        ((copy (raiseCE blkTest 4 (testUnit 2 unit) (d.set (R.TEST_HBM_STAT_EXHAUST st) 1))).set (R.TEST_HBM_STAT_COPY st) 1).set (R.TEST_HBM_STAT_PROGRESS st) 0
      else lost d
    | _ => d

/-- One corrected line in a unit: CETHR of them within CEWIN turns make it fail (R484). -/
def countCorrected (kind unit : Nat) (d : Dev) : Dev :=
  let was := (d.ras.ceCount.find? (fun e => e.1 == (kind, unit))).map (·.2)
  let now := match was with
    | some (n, t) => if t ≤ d.turn ∧ d.turn - t < d.get R.TEST_SPARE_CFG_CEWIN then (n + 1, t) else (1, d.turn)
    | none => (1, d.turn)
  let d := { d with ras := { d.ras with ceCount := d.ras.ceCount.filter (fun e => e.1 != (kind, unit)) ++ [((kind, unit), now)] } }
  if max 1 (d.get R.TEST_SPARE_CFG_CETHR) ≤ now.1 then memoryFails kind unit d else d

/-- A row of a stack that failed is repaired at run time, and the repair is counted (R183, R487). -/
def softRepair (st : Nat) (d : Dev) : Dev := d.bump (R.TEST_HBM_STAT_PPR (st % 8))

/-- A line that the scrub found in error (R483, R484): an uncorrectable one keeps POISON and raises a DE event. A failed row is repaired. -/
def scrubLine (x : Nat × Nat × Nat × Bool) (d : Dev) : Dev :=
  if x.1 = 9 then softRepair x.2.1 d
  else if x.2.2.2 then
    let d := if x.1 = 1 then d.setPoison 0 x.2.2.1 else if x.1 = 2 then d.setPoison 1 x.2.2.1 else d
    memoryFails x.1 x.2.1 (raiseDE blkTest 6 (testUnit x.1 x.2.1) d (x.2.2.1 % 2 ^ 32) (x.2.2.1 / 2 ^ 32))
  else countCorrected x.1 x.2.1 d

/-- A channel copy is under way: PROGRESS shows how far it has come, a free number that does not fall (R487, R495). -/
def copyProgress (st : Nat) (d : Dev) : Dev :=
  if d.on (R.TEST_HBM_STAT_COPY st) then
    d.draw.2.set (R.TEST_HBM_STAT_PROGRESS st) (max (d.get (R.TEST_HBM_STAT_PROGRESS st)) (d.draw.1.toNat % 256))
  else d

/-- A copy to a spare ends. -/
def copyDone (kind unit : Nat) (d : Dev) : Dev :=
  raiseCE blkTest 4 (testUnit kind unit) { d with ras := { d.ras with copying := d.ras.copying.filter (fun c => c != (kind, unit)) } }

/-- BANK_SPARE_DONE (R486): the bank's addresses move to the spare. -/
def bankSpareDone (commons : Bool) (bank : Nat) (d : Dev) : Dev :=
  if d.ras.copying.contains (b2n commons, bank) then copyDone (b2n commons) bank d else d

def execBankSpareDone (commons : Bool) (bank : Fin 2048) (_spare : Nat) (s : State) : Host.Outcome State Fault Refusal :=
  onDev (Dev.whenRunning (bankSpareDone commons bank.val)) s

/-- CHANNEL_SPARE_DONE (R487). -/
def channelSpareDone (st ch : Nat) (d : Dev) : Dev :=
  if !d.ras.copying.contains (2, 32 * st + ch) then d
  else
    let d := copyDone 2 (32 * st + ch) d
    let d := ((d.set (R.TEST_HBM_STAT_COPY st) 0).set (R.TEST_HBM_STAT_PROGRESS st) 255).set (R.TEST_HBM_STAT_FAILCH st) ch
    d.set ⟨R.RES_STATUS, 24 + st, 1⟩ 1

def execChannelSpareDone (stack : Fin 8) (channel : Fin 32) (s : State) : Host.Outcome State Fault Refusal :=
  onDev (Dev.whenRunning (channelSpareDone stack.val channel.val)) s

/-- Field of TEST_BASIN_MAP for a logical lane. -/
def basinMapFld (l : Nat) : Fld := ⟨R.TEST_BASIN_MAP (l / 2), 16 * (l % 2), 9⟩

/-- Physical basin lanes that are neither mapped nor failed. -/
def spareLanes (d : Dev) : List Nat :=
  (List.range 272).filter (fun p => !(List.range 256).any (fun l => d.get (basinMapFld l) == p) && !d.ras.failed.contains (7, p))

/-- A logical basin lane loses its physical one: a spare takes its number, any of those left, or it leaves service (R488). -/
def replaceLane (l : Nat) (d : Dev) : Dev :=
  let p := d.get (basinMapFld l)
  let sp := spareLanes d
  let d := { d with ras := { d.ras with failed := d.ras.failed ++ [(7, p)] } }
  match sp with
  | [] => raiseFatal blkTest 5 (testUnit 7 p) ({ d with ras := { d.ras with basinOut := d.ras.basinOut ++ [l] } }.set (basinMapFld l) 0x1FF)
  | _ =>
    let r := d.draw
    raiseCE blkTest 4 (testUnit 7 p) ((r.2.set (basinMapFld l) (sp.getD (r.1.toNat % sp.length) 0)).set R.TEST_SPARE_STAT_BASINSP (sp.length - 1))

/-- BASIN_LANE_FAULT (R488): the lane's OPEN contexts are aborted, with one DE event, and a spare takes its place. -/
def basinLaneFault (l : Nat) (d : Dev) : Dev :=
  if d.ras.basinOut.contains l then d
  else
    let hit := d.basin.ctx.filter (fun x => x.2.st == .opened && laneOf x.2.gidx.val x.2.chunk.toNat d == l)
    let d := Dev.each hit (fun x d => endCtx x.1 x.2 .aborted 3 (d.bump (R.BASIN_CNT_COUNT 4))) d
    replaceLane l (if hit.isEmpty then d else raiseDE blkTest 7 l d)

def execBasinLaneFault (lane : Fin 256) (s : State) : Host.Outcome State Fault Refusal := onDev (Dev.whenApplied (basinLaneFault lane.val)) s

/-- A flume engine leaves service for good (R488). -/
def loseFlume (e : Nat) (d : Dev) : Dev :=
  raiseFatal blkTest 5 (testUnit 8 e) { d with ras := { d.ras with failed := d.ras.failed ++ [(8, e)] } }

/-- FLUME_ENGINE_FAULT (R488). -/
def flumeEngineFault (e : Nat) (d : Dev) : Dev :=
  if d.ras.failed.contains (8, e) then d else (loseFlume e d).drop R.FLUME_STAT_INSVC

def execFlumeEngineFault (e : Fin 8) (s : State) : Host.Outcome State Fault Refusal := onDev (Dev.whenApplied (flumeEngineFault e.val)) s

/-- CORE_MACHINE_CHECK (R489): of a core that runs, which none does before APPLIED (R59). -/
def coreMachineCheck (c : Nat) (d : Dev) : Dev :=
  let f : Fld := ⟨R.TEST_CORE_STAT, c, 1⟩
  if d.on f then d else (raiseFatal blkTest 8 c d).set f 1

def execCoreMachineCheck (core : Fin 18) (s : State) : Host.Outcome State Fault Refusal := onDev (Dev.whenApplied (coreMachineCheck core.val)) s

/-! ### Self-test (R493) -/

/-- A write of TEST_BIST_CTL that starts target t on unit n, where `ok` holds; else RESULT 3. -/
def bistWrite (t n : Nat) (ok : Dev → Bool) (begin_ : Dev → Option Nat × Dev) (w : CsrW) (d : Dev) : Dev :=
  let busy := d.on R.TEST_BIST_CTL_BUSY
  if busy && wOn w R.TEST_BIST_CTL_GO then discardHeld w.req R.TEST_BIST_CTL (countCsr w.req R.TEST_BIST_CTL 1 3 d)
  else
    let d := (writeOwn RF.TEST_BIST_CTL R.TEST_BIST_CTL w d).set R.TEST_BIST_CTL_GO 0
    if !wOn w R.TEST_BIST_CTL_GO || wBits w R.TEST_BIST_CTL_TARGET != t || wBits w R.TEST_BIST_CTL_INDEX != n then d
    else if !ok d then d.set R.TEST_BIST_CTL_RESULT 3
    else
      let r := begin_ d
      ({ r.2 with ras := { r.2.ras with bist := some (t, n, r.1) } }.set R.TEST_BIST_CTL_RESULT 0).set R.TEST_BIST_CTL_BUSY 1

def noBegin (d : Dev) : Option Nat × Dev := (none, d)

/-- Slot of its group that a physical lane serves now, if any (R27, R30). -/
def slotOfLane (l : Nat) (d : Dev) : Option Nat :=
  let x := 8 * (l / 144) + l % 144 / 18
  (List.range 16).find? (fun s => s + shiftOf (d.rd (shiftReg x)).toNat s == l % 18)

/-- Target 0: the port of the lane has ADMIN 0, or the position is spare or failed. -/
def serdesFree (l : Nat) (d : Dev) : Bool :=
  let x := 8 * (l / 144) + l % 144 / 18
  d.portDieFitted (l / 144) && (posFailed d x (l % 18) ||
    (match slotOfLane l d with | some s => !d.on (R.PORT_PCTL_ADMIN (d.portOf (16 * x + s))) | none => true))

def execBistSerdesLane (l : PhysLane) (w : CsrW) (s : State) : Host.Outcome State Fault Refusal :=
  onDev (Dev.whenRunning (bistWrite 0 l.val (serdesFree l.val) noBegin w)) s

/-- Logical engine that a physical one serves as. -/
def logicalEngine (u : Nat) (d : Dev) : Option Nat := (List.range 128).find? (fun e => d.get (sluMapFld (u / 136) e) == u % 136)

/-- Target 1: an engine in service leaves it, and a spare stands in while one is left. -/
def engineOut (u : Nat) (d : Dev) : Option Nat × Dev :=
  let m := u / 136
  match logicalEngine u d with
  | none => (none, d)
  | some e =>
    let d := match spareEngines m d with
      | [] => ({ d with eng := { d.eng with outOfService := d.eng.outOfService ++ [128 * m + e] } }.set (sluMapFld m e) 0xFF).drop (R.SLU_STAT_INSVC m)
      | sp => let r := d.draw; r.2.set (sluMapFld m e) (sp.getD (r.1.toNat % sp.length) 0)
    (some e, d.set (R.SLU_STAT_SPARES m) ((spareEngines m d).length - 1))

def execBistSluiceEngine (e : Fin 272) (w : CsrW) (s : State) : Host.Outcome State Fault Refusal :=
  onDev (Dev.whenRunning (bistWrite 1 e.val (fun d => d.computeFitted (e.val / 136)) (engineOut e.val) w)) s

/-- Target 2: the flume engine leaves service for the test. -/
def execBistFlumeEngine (e : Fin 8) (w : CsrW) (s : State) : Host.Outcome State Fault Refusal :=
  onDev (Dev.whenRunning (bistWrite 2 e.val (fun _ => true)
    (fun d => (none, if d.ras.failed.contains (8, e.val) then d else d.drop R.FLUME_STAT_INSVC)) w)) s

/-- Target 3: the basin lane is spare or out of service. -/
def execBistBasinLane (l : Fin 272) (w : CsrW) (s : State) : Host.Outcome State Fault Refusal :=
  onDev (Dev.whenRunning (bistWrite 3 l.val (fun d => !(List.range 256).any (fun k => d.get (basinMapFld k) == l.val)) noBegin w)) s

/-- The life-cycle state opens every function of the TEST block, and the debug of control cores and enclave over JTAG (R69). No command is
a debug access: the spec gives the debug unit no registers. -/
def allTests (d : Dev) : Bool := lcOf d == 1 || lcOf d == 4

/-- Targets 4 to 7: life-cycle TEST or RETURN, in the factory default state. -/
def factoryTest (d : Dev) : Bool := d.factory && allTests d

def execBistD2dLoopback (i : Fin 11) (w : CsrW) (s : State) : Host.Outcome State Fault Refusal :=
  onDev (Dev.whenRunning (bistWrite 4 i.val factoryTest noBegin w)) s
def execBistHbmPhy (stack : Fin 8) (w : CsrW) (s : State) : Host.Outcome State Fault Refusal :=
  onDev (Dev.whenRunning (bistWrite 5 stack.val factoryTest noBegin w)) s
def execBistHbmMemory (stack : Fin 8) (w : CsrW) (s : State) : Host.Outcome State Fault Refusal :=
  onDev (Dev.whenRunning (bistWrite 6 stack.val factoryTest noBegin w)) s
def execBistSramMarch (i : Fin 4) (w : CsrW) (s : State) : Host.Outcome State Fault Refusal :=
  onDev (Dev.whenRunning (bistWrite 7 i.val factoryTest noBegin w)) s

/-- The 256 B unit of the reservoir lies in the stack: its place in the interleave of R184 is not given. -/
def inStack (st a : Nat) : Bool := Config.hash 20 st (a / 256) % 2 == 1

/-- A tested engine that passed takes its number back, and the spare that stood in is free again. -/
def engineBack (u : Nat) (e : Option Nat) (d : Dev) : Dev :=
  let m := u / 136
  let d := match e with
    | none => d
    | some e =>
      if d.eng.outOfService.contains (128 * m + e) then
        ({ d with eng := { d.eng with outOfService := d.eng.outOfService.filter (fun x => x != 128 * m + e) } }.set (sluMapFld m e) (u % 136)).bump
          (R.SLU_STAT_INSVC m)
      else d.set (sluMapFld m e) (u % 136)
  d.set (R.SLU_STAT_SPARES m) (spareEngines m d).length

/-- What a test that ends leaves: a failed unit is marked, and the spare rules apply; a wiped memory reads zero. -/
def bistEnds (t n : Nat) (e : Option Nat) (pass : Bool) (d : Dev) : Dev :=
  match t with
  | 0 => if pass then d else lanePositionFail n d
  | 1 =>
    if pass then engineBack n e d
    else
      let d := { d with ras := { d.ras with failed := d.ras.failed ++ [(6, n)] } }
      let gone := e.any (fun x => d.eng.outOfService.contains (128 * (n / 136) + x))
      let d := if gone || (spareEngines (n / 136) d).isEmpty && e.isNone then raiseFatal blkTest 5 (testUnit 6 n) d else raiseCE blkTest 4 (testUnit 6 n) d
      d.set (R.SLU_STAT_SPARES (n / 136)) (spareEngines (n / 136) d).length
  | 2 =>
    if d.ras.failed.contains (8, n) then d else if pass then d.bump R.FLUME_STAT_INSVC else loseFlume n d
  | 3 =>
    if pass || d.ras.failed.contains (7, n) then d
    else
      let d := { d with ras := { d.ras with failed := d.ras.failed ++ [(7, n)] } }
      let k := (spareLanes d).length
      (if k = 0 then raiseFatal blkTest 5 (testUnit 7 n) d else raiseCE blkTest 4 (testUnit 7 n) d).set R.TEST_SPARE_STAT_BASINSP k
  | 4 => if pass then d else d.set (R.TEST_D2D_STAT_FAILED n) 1
  | 6 => { d with res := d.res.filter (fun c => !inStack n c.1), poison := d.poison.filter (fun x => !(x.1 == 1 && inStack n (64 * x.2))) }
  | 7 => if n = 1 then { d with commons := [], poison := d.poison.filter (fun x => x.1 != 0) } else d
  | _ => d

/-- BIST_COMPLETE (R493). -/
def bistComplete (pass : Bool) (d : Dev) : Dev :=
  match d.ras.bist with
  | none => d
  | some (t, n, e) =>
    let d := bistEnds t n e pass { d with ras := { d.ras with bist := none } }
    (d.set R.TEST_BIST_CTL_RESULT (if pass then 1 else 2)).set R.TEST_BIST_CTL_BUSY 0

def execBistComplete (pass : Bool) (s : State) : Host.Outcome State Fault Refusal := onDev (Dev.whenRunning (bistComplete pass)) s

/-! ### JTAG (R494, R511, R69) -/

/-- The TAP takes an instruction: any while the part has power, IDCODE only in SCRAPPED (R69), and none once EXTEST has run, which only
RESET_N ends. The instruction codes are the model's own numbers. -/
def jtagLoad (code : Nat) (f : Dev → Dev) (d : Dev) : Dev :=
  if d.power == .off || d.ras.extest || (lcOf d == 5 && code != 1) then d
  else f { d with ras := { d.ras with jtag := code } }

def execBypass (s : State) : Host.Outcome State Fault Refusal := onDev (jtagLoad 0 id) s

/-- IDCODE (R511): stepping in [31:28], 0x9000 + PART in [27:12]; the bits below are the boundary-scan file's. -/
def idcodeWord (f : Fuses) (low : Nat) : Nat := f.stepping.toNat / 16 % 16 * 2 ^ 28 + (0x9000 + f.part.toNat) * 2 ^ 12 + low % 4096

def idcode (f : Fuses) (d : Dev) : Dev := let r := d.draw; r.2.emit (.jtag (idcodeWord f r.1.toNat))

def execIdcode (s : State) : Host.Outcome State Fault Refusal := .next { s with dev := jtagLoad 1 (idcode s.fuses) s.dev }
def execSamplePreload (s : State) : Host.Outcome State Fault Refusal := onDev (jtagLoad 2 id) s

/-- EXTEST (R494): every port goes down, until RESET_N. -/
def extestRuns (d : Dev) : Dev :=
  let d := Dev.each (d.ports) (fun p d => showStage p 8 (takeDown p d)) d
  { d with ras := { d.ras with extest := true } }

def execExtest (s : State) : Host.Outcome State Fault Refusal := onDev (jtagLoad 3 extestRuns) s
def execExtestPulse (s : State) : Host.Outcome State Fault Refusal := onDev (jtagLoad 4 id) s
def execExtestTrain (s : State) : Host.Outcome State Fault Refusal := onDev (jtagLoad 5 id) s
def execClamp (s : State) : Host.Outcome State Fault Refusal := onDev (jtagLoad 6 id) s
def execHighz (s : State) : Host.Outcome State Fault Refusal := onDev (jtagLoad 7 id) s

end Sys2Proof.Machine
end

