-- ==== Sys2Proof/Machine/Mgmt.lean ====
section
/-! DEFINITION. Management ports, the PCIe endpoint and the control cores' own accesses (R445, R506 to R509, R518, R520, R482). -/

namespace Sys2Proof.Machine

/-! ### Management ports -/

/-- The port is enabled and up. -/
def mgmtUp (d : Dev) (n : Nat) : Bool := d.on (R.MGT_MP_CFG_EN n) && d.on (R.MGT_MP_STAT_UP n)

/-- A PTP event message on a management port, with the constants of mode 6 (R413, R415). -/
def mgmtPtp (n : Nat) (bs : List Byte) (d : Dev) : Dev :=
  match ptpOf bs with
  | some m => tsRecord (1024 + n) 0 m (d.now - 256 * (d.get (R.TIME_CORR_RX 6) : Nat)) d
  | none => d

/-- The OFP packet of an OFP-over-Ethernet frame (R124). -/
def mgmtOfp (d : Dev) (bs : List Byte) : Option (List Byte) :=
  let h := parseEth bs
  let udp := d.get (R.PORT_OFPE_UDPPORT 0)
  if h.trunc then none
  else if h.etype = d.get (R.PORT_OFPE_ETYPE 0) then some (bs.drop h.l3)
  else if h.ip = 6 && h.proto = 17 && udp != 0 && h.dport = udp && udpOk h bs then some (bs.drop (h.l4 + 8))
  else none

/-- A phase-boundary message: TYPE 9 and MCLASS 2, with a right header and trailer (R120, R445). -/
def isPhase (bs : List Byte) : Bool :=
  hcrcOk bs && (ofpHdr bs).type == 9 && trailerOk bs && beAt (ofpPayload bs) 0 1 == 2

/-- MGMT_FRAME_RECEIVE (R445, R506): MCTP to the enclave, whose requests are rows of their own, phase-boundary messages to the bypass
engine, and everything else to the runtime. PAUSE frames are counted and ignored. In the factory default state the enclave takes the frames of
the ROM loader alone, which come over IPv6, and MCTP (R63). -/
def mgmtFrameReceive (n : Nat) (bs : List Byte) (d : Dev) : Dev :=
  if !mgmtUp d n then d
  else if bs.length < 64 || decide (9216 < bs.length) || crcRun crcStart bs != crcGood then d.bump (R.MGT_MP_STAT_RXERR n)
  else if macControl bs 0x0001 then { d with ras := { d.ras with pauses := SMap.put d.ras.pauses n (SMap.getD d.ras.pauses n 0 + 1) } }
  else
    let h := parseEth bs
    if h.etype = 0x88B6 then d.emit (.toCores 8 0 bs)
    else if d.factory then (if h.ip = 6 then d.emit (.toCores 8 0 bs) else d)
    else
      let d := mgmtPtp n bs d
      match mgmtOfp d bs with
      | some x => if isPhase x then handPhase true (x.take (36 + (ofpHdr x).len)) d else d.emit (.toCores 0 0 bs)
      | none => d.emit (.toCores 0 0 bs)

def execMgmtFrameReceive (n : Fin 2) (bytes : List Byte) (s : State) : Host.Outcome State Fault Refusal :=
  onDev (Dev.whenRunning (mgmtFrameReceive n.val bytes)) s

/-- MGMT_MEDIA_RETRY (R507): C2M, C2C, CR, C2M again, while port 0 is not up in the factory default state. -/
def mediaRetry (d : Dev) : Dev :=
  if !d.factory || d.on (R.MGT_MP_STAT_UP 0) then d
  else d.set (R.MGT_MP_CFG_MEDIA 0) (match d.get (R.MGT_MP_CFG_MEDIA 0) with | 0 => 2 | 2 => 1 | _ => 0)

def execMgmtMediaRetry (s : State) : Host.Outcome State Fault Refusal := onDev mediaRetry s

/-- MGMT_PORT_UP (R507, R518). -/
def mgmtPortUp (n : Nat) (d : Dev) : Dev := if d.on (R.MGT_MP_CFG_EN n) then d.set (R.MGT_MP_STAT_UP n) 1 else d

def execMgmtPortUp (n : Fin 2) (s : State) : Host.Outcome State Fault Refusal := onDev (Dev.whenRunning (mgmtPortUp n.val)) s

/-- MGMT_PORT_DOWN (R518). -/
def mgmtPortDown (n : Nat) (d : Dev) : Dev :=
  if d.on (R.MGT_MP_STAT_UP n) then (d.set (R.MGT_MP_STAT_UP n) 0).set (R.MGT_MP_STAT_DOWNEVT n) 1 else d

def execMgmtPortDown (n : Fin 2) (s : State) : Host.Outcome State Fault Refusal := onDev (Dev.whenRunning (mgmtPortDown n.val)) s

/-! ### The PCIe endpoint (R508, R509) -/

def pcieFitted (d : Dev) : Bool := d.on R.MGT_PCIE_CFG_FITTED

/-- The link is down. -/
def pcieDown (d : Dev) : Dev :=
  ((({ d with ras := { d.ras with d3hot := false } }.set R.MGT_PCIE_STAT_WIDTH 0).set R.MGT_PCIE_STAT_RATE 0).set R.MGT_PCIE_STAT_UP 0)

/-- Link training, at the later of the release of PCIE_PERST_N and APPLIED: whether it ends with the link up, and with which of the
widths and rates allowed, is the host's (free). -/
def pcieTrain (d : Dev) : Dev :=
  if !(d.applied && d.boot.perstHigh && pcieFitted d) then d
  else
    let r := d.draw
    let widths := match d.get R.MGT_PCIE_CFG_MAXW with | 1 => [1, 4] | 2 => [1] | _ => [1, 4, 7]
    let max_ := d.get R.MGT_PCIE_CFG_MAXRATE
    let top := if max_ = 0 ∨ 6 < max_ then 6 else max_
    let v := r.1.toNat
    if v % 2 = 0 then pcieDown r.2
    else ((r.2.set R.MGT_PCIE_STAT_WIDTH (widths.getD (v / 2 % widths.length) 1)).set R.MGT_PCIE_STAT_RATE (1 + v / 8 % top)).set R.MGT_PCIE_STAT_UP 1

/-- PCIE_PERST_RELEASE (R509). -/
def perstRelease (d : Dev) : Dev := pcieTrain { d with boot := { d.boot with perstHigh := true } }

def execPciePerstRelease (s : State) : Host.Outcome State Fault Refusal := onDev perstRelease s

/-- PCIE_PERST_ASSERT (R509). -/
def execPciePerstAssert (s : State) : Host.Outcome State Fault Refusal :=
  onDev (fun d => pcieDown { d with boot := { d.boot with perstHigh := false } }) s

/-- PCIE_FLR (R509): only the endpoint is reset, and FLR is set. -/
def pcieFlr (d : Dev) : Dev :=
  if d.on R.MGT_PCIE_STAT_UP then { d with ras := { d.ras with d3hot := false } }.set R.MGT_PCIE_STAT_FLR 1 else d

def execPcieFlr (s : State) : Host.Outcome State Fault Refusal := onDev (Dev.whenRunning pcieFlr) s

/-- PCIE_HOT_RESET (R509): only the endpoint is reset, and its link trains again. -/
def execPcieHotReset (s : State) : Host.Outcome State Fault Refusal :=
  onDev (Dev.whenRunning (fun d => if d.on R.MGT_PCIE_STAT_UP then pcieTrain (pcieDown d) else d)) s

/-- PCIE_D3HOT_ENTRY (R509): the endpoint is idle; the device carries on. -/
def execPcieD3hotEntry (s : State) : Host.Outcome State Fault Refusal :=
  onDev (Dev.whenRunning (fun d => if d.on R.MGT_PCIE_STAT_UP then { d with ras := { d.ras with d3hot := true } } else d)) s

/-- MSIX_DOORBELL (R508, R518): vector VEC from 1 to 63; a write of 0 is ignored. -/
def msixDoorbell (w : CsrW) (d : Dev) : Dev :=
  let v := wBits w R.MGT_PCIE_DOORBELL_VEC
  let d := discardHeld w.req R.MGT_PCIE_DOORBELL (countCsr w.req R.MGT_PCIE_DOORBELL 1 3 d)
  if v != 0 && d.pcieUp then d.emit (.msix v) else d

def execMsixDoorbell (w : CsrW) (s : State) : Host.Outcome State Fault Refusal := onDev (Dev.whenRunning (msixDoorbell w)) s

/-- BAR0_UNSUPPORTED_REQUEST (R508): a BAR0 access that is not 4 bytes and aligned. -/
def bar0Access (addr bytes : Nat) (d : Dev) : Dev :=
  if d.on R.MGT_PCIE_STAT_UP && !(bytes == 4 && addr % 4 == 0) then d.emit .unsupported else d

def execBar0UnsupportedRequest (addr : Nat) (bytes : Nat) (_write : Bool) (s : State) : Host.Outcome State Fault Refusal :=
  onDev (Dev.whenRunning (bar0Access addr bytes)) s

/-! ### Control cores (R520, R482) -/

/-- CSR_ACCESS_FAULT (R520): a hart access that is not an aligned 32-bit word faults on that hart and writes nothing. -/
def csrAccessFault (hart : Nat) (addr bytes : Nat) (d : Dev) : Dev :=
  if bytes == 4 && addr % 4 == 0 then d else d.emit (.csrFault hart)

def execCsrAccessFault (hart : Fin 18) (addr : Word) (bytes : Nat) (_write : Bool) (s : State) : Host.Outcome State Fault Refusal :=
  onDev (Dev.whenApplied (csrAccessFault hart.val addr.toNat bytes)) s

/-- CONTROL_CORE_LOAD (R482): a load of an uncorrectable line takes a precise exception on the hart and raises a DE event with the
address; every load is one reservoir line access of the hart (R456). -/
def controlCoreLoad (hart addr : Nat) (uncorrectable : Bool) (d : Dev) : Dev :=
  countLines 1 (requester 7 hart) 0 3 addr 1 (if uncorrectable || d.poisoned 1 addr 1 then
    (raiseDE blkMgt 2 hart d (addr % 2 ^ 32) (addr / 2 ^ 32)).emit (.loadException hart)
  else d)

def execControlCoreLoad (hart : Fin 18) (addr : Nat) (uncorrectable : Bool) (s : State) : Host.Outcome State Fault Refusal :=
  onDev (Dev.whenApplied (controlCoreLoad hart.val addr uncorrectable)) s

end Sys2Proof.Machine
end

