-- ==== Sys2Proof/Machine/Apply.lean ====
section
/-! DEFINITION. What an image that has passed its checks sets (R21, R37, R50, R54, R58, R166, R283) and the kernels it carries
(R311, R312). -/

namespace Sys2Proof.Machine

/-! ### The sections -/

/-- A DEFAULTS record: address, value, mask (R50). -/
def applyDefault (r : List Byte) (d : Dev) : Dev := loadWord (beAt r 0 4) (beAt r 4 4) (beAt r 8 4) d

/-- DEFAULTS in image order, then each block's lock (R54). -/
def applyDefaults (img : List Byte) (d : Dev) : Dev :=
  let rs := recordsOf 12 (sectBytes img 4)
  let d := Dev.each (rs.filter (fun r => (Config.lockRecord r).isNone)) applyDefault d
  { d with locks := (rs.filterMap Config.lockRecord).eraseDups }

/-- LANES, MEMORY, ENGINES and POLICY, as the words they set. -/
def applySection (img : List Byte) (t : Nat) (d : Dev) : Dev :=
  Dev.each (Config.sectionRecords t (sectBytes img t)) (fun r d => loadWord r.1 r.2 (2 ^ 32 - 1) d) d

/-- The image's sections take effect (R50, R54): the partitions of the reservoir hold until the next reset (R184). -/
def applySections (img : List Byte) (d : Dev) : Dev :=
  let d := applySection img 8 (applySection img 3 (applySection img 2 (applySection img 1 (applyDefaults img d))))
  { d with boot := { d.boot with
      policy := sectBytes img 8
      parts := (List.range 6).map (fun k => (d.get (R.RES_PART_BASE k), d.get (R.RES_PART_SIZE k))) } }

/-- TURN: the budgets of the classes (R50, R83). -/
def applyTurn (img : List Byte) (d : Dev) : Dev :=
  let b := (List.range 8).map (fun c => match (turnRecords img).find? (fun r => r.1 == c) with | some r => r.2 | none => 0)
  { d with boot := { d.boot with budgets := b } }

/-! ### What follows from the configuration -/

/-- SEL takes effect (R21). -/
def applyRefclk (d : Dev) : Dev :=
  let sel := d.get R.GLB_REFCLK_SEL
  if d.get R.GLB_REFCLK_ACTIVE = sel then d
  else if d.on (losField (Fin.ofNat 2 sel)) then raiseCE blkGlb 8 sel d
  else d.set R.GLB_REFCLK_ACTIVE sel

/-- Lane groups whose layout is invalid are held dark, with an event (R37). -/
def darkGroups (d : Dev) : Dev :=
  Dev.each (List.range 64) (fun x d => if d.groupValid x then d else raiseFatal (blkPort (x / 8)) 2 x d) d

/-- The pools of the cistern (R166). -/
def sizePools (d : Dev) : Dev :=
  let mins := ((d.ports.flatMap (fun p => (List.range 8).map (fun tc => d.minq (8 * p + tc))))).foldl (· + ·) 0
  let d := { d with cist := { d.cist with free := Config.cisternCells } }
  showFree (d.set R.CIST_POOL_STAT_SHARED (Config.cisternCells - d.get R.CIST_POOL_CFG_HDRM - mins))

/-- Every basin lane's generator is seeded (R283). -/
def seedLanes (d : Dev) : Dev :=
  let seed := (d.rd R.BASIN_ARITH_SEED).toNat
  let gens := (List.range 256).map (fun l => (l, BitVec.ofNat 32 (if Nat.xor seed l = 0 then 1 else Nat.xor seed l)))
  { d with basin := { d.basin with lfsr := gens } }

/-- Engines in service, spares and the fixed kernels (R315, R371, R488). -/
def startEngines (d : Dev) : Dev :=
  let d := Dev.each ((List.range 2).filter (fun m => d.computeFitted m)) (fun m d =>
    let n := ((List.range 128).filter (fun e => d.get (sluMapFld m e) != 0xFF)).length
    ((d.set (R.SLU_STAT_INSVC m) n).set (R.SLU_STAT_SPARES m) (spareEngines m d).length).wr (R.SLU_KPRES m 0) 0x3F) d
  let regions := ((List.range 16).filter (fun r => d.on (R.FLUME_DREG_C_EN r))).foldl (fun a r => a + 2 ^ r) 0
  (d.set R.FLUME_STAT_INSVC (8 - ((List.range 8).filter (fun e => d.ras.failed.contains (8, e))).length)).set R.FLUME_STAT_DREGEN regions

/-- Lane training begins on every port whose ADMIN is 1; every port has been down since, and one whose ADMIN is 0 counts as flushed (R58,
R204). -/
def startLanes (d : Dev) : Dev :=
  Dev.each d.ports (fun p d =>
    let up := d.on (R.PORT_PCTL_ADMIN p)
    let d := d.modLink p (fun l => { l with downSince := some 0, flushed := !up })
    if up && stageOf d p == 0 then startTraining p d else d) (steerGroups d)

/-- The minimum duty of a class that is never throttled is fixed at 128 (R86, R88). -/
def fixDuty (c : Nat) (d : Dev) : Dev := if [0, 1, 2, 7].contains c then d.set (R.GLB_PWR_CLASS_MINDUTY c) 128 else d

/-- IMAGE_APPLY (R53, R54, R58, R59): with the checks passed and the wipe complete, the image takes effect and STAGE becomes APPLIED. -/
def imageApply (f : Fuses) (fl : Flash) (d : Dev) : Dev :=
  if d.running && stage d == 3 && d.boot.imageRead && wipeComplete d then
    let img := fl.image
    let d := signAlias f (applyTurn img (applySections img d))
    let d := darkGroups (applyRefclk d)
    let d := Dev.each (List.range 8) fixDuty (startEngines (seedLanes (sizePools d)))
    let d := (d.set R.SEC_BOOT_STATUS_SVN (imgBe img 12 4)).set R.SEC_BOOT_STATUS_RUNTIME (b2n (countType img 6 == 1))
    let d := setStage 4 d
    showBasin (pcieTrain (startLanes d))
  else d

def execImageApply (s : State) : Host.Outcome State Fault Refusal := .next { s with dev := imageApply s.fuses s.flash s.dev }

/-! ### Kernels (R311, R312) -/

def align64 (n : Nat) : Nat := divUp n 64 * 64

/-- Offset of entry n of the library, from the lengths of those before it. -/
def kernelOff (lib : List Byte) : Nat → Nat
  | 0 => 64
  | n + 1 => let o := kernelOff lib n; align64 (o + 128 + beAt lib (o + 4) 4 + beAt lib (o + 12) 4)

/-- The library holds the entry. -/
def kernelThere (lib : List Byte) (n : Nat) : Bool := beAt lib 0 4 == 0x534C4B31 && decide (n < min 192 (beAt lib 4 2))

/-- The kernel's signatures over its 128-byte header and the hash of its code verify (R312, R55). -/
def kernelOk (f : Fuses) (lib : List Byte) (o : Nat) : Bool :=
  let len := beAt lib (o + 4) 4
  let blk := slice lib (o + 128 + len) (beAt lib (o + 12) 4)
  let head := slice lib o 128
  ecKeyOk f blk && lmsKeyOk f blk && ecSigOk blk head && lmsSigOk blk head && sha384 (slice lib (o + 128) len) == slice lib (o + 16) 48

/-- The kernel is present in a die. -/
def showKernel (kid kver : Nat) (m : Nat) (d : Dev) : Dev :=
  let d := d.set ⟨R.SLU_KPRES m (kid / 32), kid % 32, 1⟩ 1
  (d.set ⟨R.SLU_KVER m ((kid - 0x40) / 4), 8 * (kid % 4), 8⟩ kver).bump (R.SLU_STAT_KLOADED m)

/-- KERNEL_LOAD (R312): entry n is checked and loaded into both compute dies, or named in a CE event. -/
def kernelLoad (n : Nat) (f : Fuses) (fl : Flash) (d : Dev) : Dev :=
  let lib := sectBytes fl.image 7
  if !d.applied || !kernelThere lib n then d
  else
    let o := kernelOff lib n
    let kid := beAt lib o 1
    if d.boot.kernels.any (fun k => k.1.toNat == kid) then d
    else if kid < 0x40 || !kernelOk f lib o then raiseCE blkSec 2 kid d
    else
      let d := Dev.each ((List.range 2).filter (fun m => d.computeFitted m)) (showKernel kid (beAt lib (o + 1) 1)) d
      { d with boot := { d.boot with kernels := d.boot.kernels ++ [(BitVec.ofNat 8 kid, beBits lib (o + 2) 1 1 0, beAt lib (o + 8) 4)] } }

def execKernelLoad (n : Nat) (s : State) : Host.Outcome State Fault Refusal :=
  .next { s with dev := kernelLoad n s.fuses s.flash s.dev }

end Sys2Proof.Machine
end

