-- ==== Sys2Proof/Machine/Flume.lean ====
section
/-! DEFINITION. The flume (R356 to R368): code tables, coded blocks, ENCODE and DECODE, SNAP and FOLD of delta regions, their
descriptors and completion records. -/

namespace Sys2Proof.Machine

def flumeCnt (_ : Nat) : Option Fld := none

/-! ### Descriptor fields (R366) -/

def Job.tbuild (j : Job) : Bool := bitAt (leAt j.bytes 1 1) 2
def Job.ffmt (j : Job) : Nat := leAt j.bytes 8 1
def Job.tid (j : Job) : Nat := leAt j.bytes 9 1
def Job.region (j : Job) : Nat := leAt j.bytes 10 1 % 16
def Job.count (j : Job) : Nat := leAt j.bytes 12 4
def Job.first (j : Job) : Nat := leAt j.bytes 16 4
def Job.stepadd (j : Job) : Nat := leAt j.bytes 20 4
def Job.addrIn (j : Job) : Nat := leAt j.bytes 24 8
def Job.addrOut (j : Job) : Nat := leAt j.bytes 32 8
def Job.addrMap (j : Job) : Nat := leAt j.bytes 40 8
def Job.addrTab (j : Job) : Nat := leAt j.bytes 48 8

/-- Elements of a chunk of a region, and bytes of a chunk of `fmt` elements. -/
def chunkElems (r : Nat) (d : Dev) : Nat := 2 ^ regionCelog r d

/-- Input and output regions in the order of the fields: field offset, region, output. -/
def flumeRegions (j : Job) (d : Dev) : List (Nat × (Nat × Nat) × Bool) :=
  match j.op with
  | 1 => [(24, (j.addrIn, j.count * 4096), false), (32, (j.addrOut, j.count * 4096), true), (40, (j.addrMap, j.count * 8), true),
          (48, (j.addrTab, 272), j.tbuild)]
  | 2 => [(24, (j.addrIn, j.count * 4096), false), (32, (j.addrOut, j.count * 4096), true), (40, (j.addrMap, j.count * 8), false),
          (48, (j.addrTab, 272), false)]
  | 3 => [(32, (j.addrOut, j.count * chunkElems j.region d * regionElem j.region d), true)]
  | 4 => [(24, (j.addrIn, j.count * chunkElems j.region d * (fmtBits j.ffmt / 8)), false)]
  | _ => []

/-- No output region overlaps an input region, but for a DECODE in place (R297, R361). Answers whether the region of a field is free
of it. -/
def flumeClear (j : Job) (off : Nat) (d : Dev) : Bool :=
  let rs := flumeRegions j d
  match rs.find? (fun r => r.1 == off) with
  | none => true
  | some r => !r.2.2 || rs.all (fun s => s.2.2 || !overlaps r.2.1.1 r.2.1.2 s.2.1.1 s.2.1.2
      || (j.op == 2 && s.1 == 24 && off == 32 && j.addrOut == j.addrIn))

/-- The fields in byte order with whether each meets its limits (R366, R367). Reserved bytes and bits count as unused fields (DESIGN CHOICE,
log 118). -/
def flumeChecks (j : Job) (d : Dev) : List (Nat × Bool) :=
  let zero (off n : Nat) : Nat × Bool := (off, leAt j.bytes off n == 0)
  let coder := j.op == 1 || j.op == 2
  let chunks := j.op == 3 || j.op == 4
  let r := j.region
  let use (ok : Bool) (x off n : Nat) : Nat × Bool := (off, if ok then addrForm x && flumeClear j off d else leAt j.bytes off n == 0)
  [(1, decide (leAt j.bytes 1 1 < 8) && (j.op == 1 || !j.tbuild)), zero 2 2,
   (8, if coder then j.ffmt == 2 || j.ffmt == 3 else if j.op = 4 then plainFloat j.ffmt else j.ffmt == 0),
   (9, coder || j.tid == 0),
   (10, if chunks then decide (leAt j.bytes 10 1 < 16) && d.on (R.FLUME_DREG_C_EN r) else leAt j.bytes 10 1 == 0), zero 11 1,
   (12, if coder then decide (1 ≤ j.count) && decide (j.count ≤ 2 ^ 24) else j.op != 0 || j.count == 0),
   (16, if chunks then decide (j.first + j.count ≤ d.get (R.FLUME_DREG_B_NCHUNK r)) else j.first == 0),
   (20, j.op == 4 || j.stepadd == 0),
   use (coder || j.op == 4) j.addrIn 24 8, use (coder || j.op == 3) j.addrOut 32 8, use coder j.addrMap 40 8,
   use coder j.addrTab 48 8, zero 56 8]

/-- The first check of R367 that fails. -/
def flumeCheck (q : Nat) (j : Job) (d : Dev) : Option (Nat × Nat) :=
  if 4 < j.op then some (1, 0)
  else match firstBad (flumeChecks j d) with
    | some off => some (2, off)
    | none => ((flumeRegions j d).find? (fun r => !opWindow (flumeWq q) r.2.2 r.2.1.1 r.2.1.2 d)).map (fun _ => (3, 0))

/-- FLUME_DESCRIPTOR_TAKE. -/
def flumeTake (q : Nat) (d : Dev) : Dev :=
  let w := flumeWq q
  if !mayTake w d then showCr w d
  else
    let n := d.eng.nextJob
    let d := takeJob w id d
    match jobOf w.key n d with
    | none => d
    | some j =>
      match flumeCheck q j d with
      | some (st, detail) => finishJob w flumeCnt n st (modJob w.key n (fun j => { j with detail := detail }) d)
      | none => modJob w.key n (fun j => { j with tiles := 1, dealt := if j.order && !earlierDone w n d then 0 else 1 }) d

def execFlumeDescriptorTake (q : Fin 16) (s : State) : Host.Outcome State Fault Refusal :=
  onDev (Dev.whenApplied (flumeTake q.val)) s

def flumeNop (q : Nat) (d : Dev) : Dev :=
  let w := flumeWq q
  match liveJob w.key (fun j => j.op == 0) d with
  | some j => if earlierDone w j.id d then finishJob w flumeCnt j.id 0 d else d
  | none => d

def execFlumeNop (q : Fin 16) (s : State) : Host.Outcome State Fault Refusal := onDev (Dev.whenApplied (flumeNop q.val)) s

/-! ### Code tables (R357, R360) -/

/-- Exponent, and fixed part, of a 16-bit element. -/
def expOf (fmt v : Nat) : Nat := if fmt = 2 then v / 2 ^ 7 % 256 else v / 2 ^ 10 % 32
def fixedBits (fmt : Nat) : Nat := if fmt = 2 then 8 else 11
def fixedOf (fmt v : Nat) : Nat := if fmt = 2 then v / 2 ^ 15 * 2 ^ 7 + v % 2 ^ 7 else v / 2 ^ 15 * 2 ^ 10 + v % 2 ^ 10
/-- The element of an exponent and a fixed part. -/
def joinElem (fmt e f : Nat) : Nat :=
  if fmt = 2 then f / 2 ^ 7 * 2 ^ 15 + e * 2 ^ 7 + f % 2 ^ 7 else f / 2 ^ 10 * 2 ^ 15 + e * 2 ^ 10 + f % 2 ^ 10
def fixedLen (fmt : Nat) : Nat := 2048 * fixedBits fmt / 8

/-- Kraft sum in 2^-15 and total coded length of a set of code lengths. -/
def kraft (lens : List Nat) : Nat := (lens.map (fun l => if l = 0 then 0 else 2 ^ (15 - l))).foldl (· + ·) 0
def codedBits (hist lens : List Nat) : Nat := ((hist.zip lens).map (fun x => x.1 * x.2)).foldl (· + ·) 0

/-- Insert a coin into a list sorted by weight. -/
def coinIns (c : Nat × List Nat) : List (Nat × List Nat) → List (Nat × List Nat)
  | [] => [c]
  | x :: t => if c.1 ≤ x.1 then c :: x :: t else x :: coinIns c t

/-- Pair neighbours of a sorted list; an odd last one is dropped. -/
def coinPairs : List (Nat × List Nat) → List (Nat × List Nat)
  | a :: b :: t => (a.1 + b.1, a.2 ++ b.2) :: coinPairs t
  | _ => []

def coinLevels (leaves : List (Nat × List Nat)) : Nat → List (Nat × List Nat)
  | 0 => leaves
  | n + 1 => leaves.foldl (fun l c => coinIns c l) (coinPairs (coinLevels leaves n))

/-- Code lengths that minimise the coded length with none above 15, by the package-merge method. -/
def bestLengths (hist : List Nat) : List Nat :=
  let syms := (hist.zip (List.range hist.length)).filter (fun x => decide (0 < x.1))
  if syms.length ≤ 1 then hist.map (fun c => if c = 0 then 0 else 1)
  else
    let leaves := syms.foldl (fun l x => coinIns (x.1, [x.2]) l) []
    let picked := ((coinLevels leaves 14).take (2 * syms.length - 2)).flatMap (·.2)
    (List.range hist.length).map (fun s => (picked.filter (· == s)).length)

/-- Lengths that R360 allows for a histogram: a code for each value that occurs, none above 15, the coded length a minimum. -/
def lengthsOk (hist lens : List Nat) : Bool :=
  lens.length == hist.length && (hist.zip lens).all (fun x => decide (x.2 ≤ 15) && (x.1 == 0) == (x.2 == 0)) &&
  decide (kraft lens ≤ 2 ^ 15) && codedBits hist lens == codedBits hist (bestLengths hist)

/-- The lengths the device builds: any that R360 allows. -/
def buildLengths (hist : List Nat) : List Nat :=
  let l := Config.codeLengths hist
  if lengthsOk hist l then l else bestLengths hist

/-- The table of 272 bytes. -/
def tableBytes (fmt tid : Nat) (lens : List Nat) : List Byte :=
  let body := padTo (lens.map (fun l => BitVec.ofNat 8 l)) 256
  beBytes 4 0x464C5431 ++ beBytes 1 fmt ++ beBytes 1 tid ++ beBytes 2 (lens.filter (· != 0)).length ++ zeros 4 ++ beBytes 4 (crc32c body) ++ body

def tableLens (t : List Byte) : List Nat := (t.drop 16).map (fun b => b.toNat)

/-- The validity conditions of R357. -/
def tableOk (t : List Byte) (fmt tid : Nat) : Bool :=
  let lens := tableLens t
  beAt t 0 4 == 0x464C5431 && beAt t 12 4 == crc32c (t.drop 16) && beAt t 4 1 == fmt && beAt t 5 1 == tid && lens.all (fun l => decide (l ≤ 15))
    && (fmt == 2 || (lens.drop 32).all (· == 0)) && beAt t 6 2 == (lens.filter (· != 0)).length && decide (1 ≤ beAt t 6 2)
    && decide (kraft lens ≤ 2 ^ 15)

/-- Values with a code by (LEN, s). -/
def codeOrder (lens : List Nat) : List (Nat × Nat) :=
  (List.range 16).flatMap (fun l => if l = 0 then [] else ((lens.zip (List.range lens.length)).filter (fun x => x.1 == l)))

/-- The canonical code: (LEN, value, code). -/
def canonical (lens : List Nat) : List (Nat × Nat × Nat) :=
  ((codeOrder lens).foldl (fun (r : List (Nat × Nat × Nat) × Nat × Nat) x =>
    let code := if r.2.1 = 0 then 0 else (r.2.2 + 1) * 2 ^ (x.1 - r.2.1)
    (r.1 ++ [(x.1, x.2, code)], x.1, code)) ([], 0, 0)).1

/-! ### Bit streams, most significant bit first (R358) -/

def bitsMsb (n v : Nat) : List Bool := (List.range n).map (fun i => bitAt v (n - 1 - i))
def bitsVal (bs : List Bool) : Nat := bs.foldl (fun a b => 2 * a + b2n b) 0

def packBits : Nat → List Bool → List Byte
  | 0, _ => []
  | n + 1, bs => if bs.isEmpty then [] else
      BitVec.ofNat 8 (bitsVal (bs.take 8 ++ List.replicate (8 - (bs.take 8).length) false)) :: packBits n (bs.drop 8)

def bytesBits (bs : List Byte) : List Bool := bs.flatMap (fun b => bitsMsb 8 b.toNat)

/-- The 2,048 elements of a raw block. -/
def blockElems (raw : List Byte) : List Nat := (List.range 2048).map (fun i => leAt raw (2 * i) 2)

/-- The code of a block: none when it is to be stored raw. -/
def codeBlock (fmt : Nat) (code : List (Nat × Nat × Nat)) (raw : List Byte) : Option (List Byte) :=
  let els := blockElems raw
  let fixed := packBits 4096 (els.flatMap (fun v => bitsMsb (fixedBits fmt) (fixedOf fmt v)))
  let look (v : Nat) := code.find? (fun c => c.2.1 == expOf fmt v)
  if els.any (fun v => (look v).isNone) then none
  else
    let ex := packBits 4096 (els.flatMap (fun v => match look v with | some c => bitsMsb c.1 c.2.2 | none => []))
    if fixed.length + ex.length ≤ 4095 then some (fixed ++ ex) else none

/-- A map entry (R359). -/
def mapEntry (raw_ : Bool) (clen tid : Nat) (raw : List Byte) : List Byte :=
  beBytes 2 (b2n raw_ * 2 ^ 14 + clen) ++ beBytes 1 tid ++ zeros 1 ++ beBytes 4 (crc32c raw)

/-- Read n codes. `none`: the stream ends or holds an unassigned pattern, with which of the two. -/
def readCodes (code : List (Nat × Nat × Nat)) : Nat → List Bool → Except Bool (List Nat × List Bool)
  | 0, bs => .ok ([], bs)
  | n + 1, bs =>
    match code.find? (fun c => decide (c.1 ≤ bs.length) && bitsVal (bs.take c.1) == c.2.2) with
    | some c => (readCodes code n (bs.drop c.1)).map (fun r => (c.2.1 :: r.1, r.2))
    | none => .error (!code.any (fun c => decide (bs.length < c.1) && bitsVal bs == c.2.2 / 2 ^ (c.1 - bs.length)))

/-- Decode a block from its map entry and slot: the raw bytes, or the check of R361 that fails (3 validity, 4 length, 5 CRC). -/
def decodeBlock (fmt : Nat) (table : List Byte) (entry slot : List Byte) : Except Nat (List Byte) :=
  let kind := beBits entry 0 2 15 14
  let clen := beBits entry 0 2 12 0
  let crcOk (raw : List Byte) : Except Nat (List Byte) := if crc32c raw = beAt entry 4 4 then .ok raw else .error 5
  if 2 ≤ kind ∨ beAt entry 2 1 ≠ beAt table 5 1 then .error 3
  else if kind = 1 then (if clen = 4096 then crcOk slot else .error 4)
  else
    let fixed := bytesBits (slice slot 0 (fixedLen fmt))
    let stream := bytesBits (slice slot (fixedLen fmt) (clen - fixedLen fmt))
    if clen < fixedLen fmt ∨ 4096 < clen then .error 4
    else match readCodes (canonical (tableLens table)) 2048 stream with
      | .error unassigned => .error (if unassigned then 3 else 4)
      | .ok (es, rest) =>
        if 8 ≤ rest.length || rest.any id then .error 4
        else
          let b := fixedBits fmt
          crcOk ((es.zip (List.range 2048)).flatMap (fun x =>
            leBytes 2 (joinElem fmt x.1 (bitsVal (slice fixed (b * x.2) b)))))

/-! ### ENCODE and DECODE -/

def rdAt (addr off n : Nat) (d : Dev) : List Byte := d.readMem (spOf addr) (adrOf addr + off) n
def wrAt (addr off : Nat) (bs : List Byte) (d : Dev) : Dev := d.writeMem (spOf addr) (adrOf addr + off) bs

def histOf (fmt : Nat) (els : List Nat) (h : List Nat) : List Nat :=
  els.foldl (fun h v => h.set (expOf fmt v) (h.getD (expOf fmt v) 0 + 1)) h

/-- What a descriptor's run leaves: STATUS, DETAIL, DETAIL2, PREVTURN and the device. -/
structure FlumeOut where
  status : Nat
  detail : Nat
  detail2 : Nat
  prevTurn : Nat
  dev : Dev

/-- One block of the second pass. Answers the sum of CLEN and the blocks stored raw. -/
def encodeBlock (j : Job) (code : List (Nat × Nat × Nat)) (b : Nat) (r : (Nat × Nat) × Dev) : (Nat × Nat) × Dev :=
  let d := r.2
  let bad := regionPoisoned (j.addrIn + 4096 * b, 4096) d
  let raw := rdAt j.addrIn (4096 * b) 4096 d
  let o := codeBlock j.ffmt code raw
  let bytes := o.getD raw
  let d := wrAt j.addrMap (8 * b) (mapEntry o.isNone bytes.length j.tid raw) (wrAt j.addrOut (4096 * b) bytes d)
  let d := d.bump (R.FLUME_CNT_COUNT (if o.isNone then 1 else 0))
  let d := if bad then poisonRegion (j.addrMap + 8 * b, 8) (poisonRegion (j.addrOut + 4096 * b, bytes.length) d) else d
  let d := unitAccess 128 1 (j.addrOut + 4096 * b, bytes.length) (unitAccess 128 0 (j.addrIn + 4096 * b, 4096) d)
  ((r.1.1 + bytes.length, r.1.2 + b2n o.isNone), d)

def runEncode (j : Job) (d : Dev) : FlumeOut :=
  let blocks := List.range j.count
  let poisonedIn := regionPoisoned (j.addrIn, 4096 * j.count) d
  let poisonedTab := !j.tbuild && regionPoisoned (j.addrTab, 272) d
  let hist := blocks.foldl (fun h b => histOf j.ffmt (blockElems (rdAt j.addrIn (4096 * b) 4096 d)) h)
    (List.replicate (if j.ffmt = 2 then 256 else 32) 0)
  let table := if j.tbuild then tableBytes j.ffmt j.tid (buildLengths hist) else rdAt j.addrTab 0 272 d
  let d := if j.tbuild then unitAccess 128 1 (j.addrTab, 272) (unitAccess 128 0 (j.addrIn, 4096 * j.count) d)
    else unitAccess 128 0 (j.addrTab, 272) d
  if !j.tbuild && !poisonedTab && !tableOk table j.ffmt j.tid then ⟨8, 0, 0, 0, d⟩
  else
    let d := unitAccess 128 1 (j.addrMap, 8 * j.count) (if j.tbuild then wrAt j.addrTab 0 table d else d)
    let d := if j.tbuild && poisonedIn then poisonRegion (j.addrTab, 272) d else d
    let r := blocks.foldl (fun r b => encodeBlock j (canonical (tableLens table)) b r) ((0, 0), d)
    let d := if poisonedTab || (j.tbuild && poisonedIn) then
        poisonRegion (j.addrMap, 8 * j.count) (poisonRegion (j.addrOut, 4096 * j.count) r.2) else r.2
    let big := if r.1.1 < 2 ^ 32 then (r.1.1, d) else let x := d.draw; (x.1.toNat % 2 ^ 32, x.2)
    ⟨if poisonedIn || poisonedTab then 4 else 0, big.1, r.1.2, 0, big.2⟩

/-- One block of a DECODE. Answers the first damaged block, the damaged ones and whether an input line was poisoned. -/
def decodeOne (j : Job) (table : List Byte) (b : Nat) (r : (Option Nat × Nat × Bool) × Dev) : (Option Nat × Nat × Bool) × Dev :=
  let d := r.2
  let entry := rdAt j.addrMap (8 * b) 8 d
  let slot := rdAt j.addrIn (4096 * b) 4096 d
  let bad := regionPoisoned (j.addrMap + 8 * b, 8) d || regionPoisoned (j.addrIn + 4096 * b, beBits entry 0 2 12 0) d
  let out := (j.addrOut + 4096 * b, 4096)
  let d := unitAccess 128 1 out (unitAccess 128 0 (j.addrIn + 4096 * b, beBits entry 0 2 12 0) d)
  match decodeBlock j.ffmt table entry slot with
  | .ok raw =>
    let d := (wrAt j.addrOut (4096 * b) raw d).bump (R.FLUME_CNT_COUNT 2)
    ((r.1.1, r.1.2.1, r.1.2.2 || bad), if bad then poisonRegion out d else d)
  | .error k =>
    let d := poisonRegion out ((wrAt j.addrOut (4096 * b) (zeros 4096) d).bump (R.FLUME_CNT_COUNT k))
    ((r.1.1 <|> some b, r.1.2.1 + 1, r.1.2.2 || bad), d)

def runDecode (j : Job) (d : Dev) : FlumeOut :=
  let table := rdAt j.addrTab 0 272 d
  let poisonedTab := regionPoisoned (j.addrTab, 272) d
  let d := unitAccess 128 0 (j.addrTab, 272) d
  if !poisonedTab && !tableOk table j.ffmt j.tid then ⟨8, 0xFFFFFFFF, 0, 0, d⟩
  else
    let d := unitAccess 128 0 (j.addrMap, 8 * j.count) d
    let r := (List.range j.count).foldl (fun r b => decodeOne j table b r) ((none, 0, false), d)
    let d := if poisonedTab then poisonRegion (j.addrOut, 4096 * j.count) r.2 else r.2
    ⟨if r.1.2.2 || poisonedTab then 4 else if r.1.2.1 ≠ 0 then 7 else 0, r.1.1.getD 0xFFFFFFFF, r.1.2.1, 0, d⟩

/-! ### SNAP and FOLD (R362 to R364) -/

/-- SNAPTURN of a chunk record. -/
def snapTurn (r i : Nat) (d : Dev) : Nat := ofLe (d.readMem 1 (regionRecord r i d + 8) 8)
def stepsOf (r i : Nat) (d : Dev) : Nat := ofLe (d.readMem 1 (regionRecord r i d) 4)

/-- One chunk of a SNAP. -/
def snapChunk (j : Job) (k : Nat) (d : Dev) : Dev :=
  let r := j.region
  let i := j.first + k
  let n := chunkElems r d * regionElem r d
  let a := regionAddr r i 0 d
  let lines := d.poison.filter (fun p => p.1 == 1 && decide (a < 64 * p.2 + 64) && decide (64 * p.2 < a + n))
  let d' := d.writeMem 1 a (zeros n)
  let d' := d'.writeMem 1 (regionRecord r i d) (leBytes 4 0)
  let d' := d'.writeMem 1 (regionRecord r i d + 8) (leBytes 8 d.turn)
  let d' := wrAt j.addrOut (k * n) (d.readMem 1 a n) d'
  let d' := Dev.each lines (fun p d => d.setPoison (spOf j.addrOut) (adrOf j.addrOut + k * n + (64 * p.2 - a))) d'
  let d' := unitAccess 128 1 (j.addrOut + k * n, n) (resAccess 128 2 a n (resAccess 128 2 (regionRecord r i d) 16 d'))
  d'.bump (R.FLUME_CNT_COUNT 8)

def runSnap (n : Nat) (j : Job) (d : Dev) : FlumeOut :=
  let ks := List.range n
  let bad := ks.any (fun k => regionPoisoned (2 ^ 63 + regionAddr j.region (j.first + k) 0 d, chunkElems j.region d * regionElem j.region d) d)
  let steps := ks.map (fun k => stepsOf j.region (j.first + k) d)
  let turns := ks.map (fun k => snapTurn j.region (j.first + k) d)
  match steps, turns with
  | s :: st, t :: tt => ⟨if bad then 4 else 0, st.foldl min s, st.foldl max s, tt.foldl min t, Dev.each ks (snapChunk j) d⟩
  | _, _ =>
    let x := d.draw
    let y := x.2.draw
    let z := y.2.draw
    ⟨0, x.1.toNat % 2 ^ 32, y.1.toNat % 2 ^ 32, z.1.toNat, z.2⟩

/-- One chunk of a FOLD: each element is added as in R353; the generator is one of the device's, which the spec does not name. -/
def foldChunk (j : Job) (k : Nat) (d : Dev) : Dev :=
  let r := j.region
  let i := j.first + k
  let w := fmtBits j.ffmt / 8
  let x := d.draw
  let lane := x.1.toNat % 256
  let d := Dev.each (List.range (chunkElems r d)) (fun e d =>
    let off := (k * chunkElems r d + e) * w
    let bad := regionPoisoned (j.addrIn + off, w) d
    let d := addElem r i lane e (plainIn j.ffmt (ofLe (rdAt j.addrIn off w d))) d
    if bad then d.setPoison 1 (regionAddr r i e d) else d) x.2
  let n := chunkElems r d
  let d := resAccess 128 2 (regionAddr r i 0 d) (n * regionElem r d) (unitAccess 128 0 (j.addrIn + k * n * w, n * w) d)
  let d := resAccess 128 2 (regionRecord r i d) 4 d
  (addSteps r i j.stepadd d).bump (R.FLUME_CNT_COUNT 9)

def runFold (n : Nat) (j : Job) (d : Dev) : FlumeOut :=
  let w := fmtBits j.ffmt / 8
  let bad := regionPoisoned (j.addrIn, n * chunkElems j.region d * w) d
    || (List.range n).any (fun k => regionPoisoned (2 ^ 63 + regionAddr j.region (j.first + k) 0 d,
        chunkElems j.region d * regionElem j.region d) d)
  ⟨if bad then 4 else 0, n, 0, 0, Dev.each (List.range n) (foldChunk j) d⟩

/-! ### Running a descriptor -/

def runFlume (j : Job) (d : Dev) : FlumeOut :=
  match j.op with
  | 1 => runEncode j d
  | 2 => runDecode j d
  | 3 => runSnap j.count j d
  | _ => runFold j.count j d

/-- The queue's oldest live descriptor of an operation runs and completes, unless ORDER holds it. -/
def flumeRun (q op : Nat) (d : Dev) : Dev :=
  let w := flumeWq q
  if d.get R.FLUME_STAT_INSVC = 0 then d
  else match liveJob w.key (fun j => j.op == op) d with
  | none => d
  | some j =>
    if j.order && !earlierDone w j.id d then d
    else
      let o := runFlume j d
      let d := modJob w.key j.id (fun j => { j with detail := o.detail, detail2 := o.detail2, prevTurn := o.prevTurn }) o.dev
      finishJob w flumeCnt j.id o.status (if o.status = 4 then raiseDE blkFlume 3 q d j.didx else d)

def execEncode (q : Fin 16) (s : State) : Host.Outcome State Fault Refusal := onDev (Dev.whenApplied (flumeRun q.val 1)) s
def execDecode (q : Fin 16) (s : State) : Host.Outcome State Fault Refusal := onDev (Dev.whenApplied (flumeRun q.val 2)) s
def execSnap (q : Fin 16) (s : State) : Host.Outcome State Fault Refusal := onDev (Dev.whenApplied (flumeRun q.val 3)) s
def execFold (q : Fin 16) (s : State) : Host.Outcome State Fault Refusal := onDev (Dev.whenApplied (flumeRun q.val 4)) s

/-- DETAIL, DETAIL2 and PREVTURN of a descriptor that ended without a run: those of nothing done, BADARG's offset, and for a SNAP
values that the spec leaves open. -/
def flumeDetails (j : Job) (st : Nat) (d : Dev) : Nat × Nat × Nat :=
  if st = 2 then (j.detail, 0, 0)
  else if st = 1 ∨ st = 3 ∨ st = 5 ∨ st = 6 then
    match j.op with
    | 2 => (if st = 1 ∨ st = 3 then 0xFFFFFFFF else j.detail, j.detail2, 0)
    | 3 => if j.dealt = 0 || st == 3 then
        ((Config.freeValue (d.freeCtr - 3)).toNat % 2 ^ 32, (Config.freeValue (d.freeCtr - 2)).toNat % 2 ^ 32,
         (Config.freeValue (d.freeCtr - 1)).toNat)
        else (j.detail, j.detail2, j.prevTurn)
    | _ => (j.detail, j.detail2, 0)
  else (j.detail, j.detail2, j.prevTurn)

/-- The completion record of R368. -/
def flumeRecord (j : Job) (st : Nat) (d : Dev) : List Byte :=
  let x := flumeDetails j st d
  leBytes 4 j.tag ++ leBytes 2 j.didx ++ leBytes 1 st ++ leBytes 1 j.op ++ leBytes 4 x.1 ++ leBytes 4 x.2.1 ++ leBytes 8 x.2.2 ++ leBytes 8 j.turn

def execFlumeCompletion (q : Fin 16) (s : State) : Host.Outcome State Fault Refusal :=
  onDev (Dev.whenApplied (fun d => complete (flumeWq q.val) flumeRecord { d with freeCtr := d.freeCtr + 3 })) s

/-! ### Watchdog and flush at a boundary (R307, R308, R365) -/

/-- A live descriptor that had started stops: lines of its outputs are old or new, and a SNAP or FOLD has done some chunks whole. -/
def stopFlume (q : Nat) (j : Job) (d : Dev) : Dev :=
  if j.dealt = 0 then d
  else match j.op with
    | 1 => mixLines (runEncode j d).dev (((flumeRegions j d).filter (fun r => r.2.2)).map (fun r => r.2.1)) d
    | 2 => mixLines (runDecode j d).dev [(j.addrOut, 4096 * j.count)] d
    | 3 =>
      let x := d.draw
      let o := runSnap (x.1.toNat % (j.count + 1)) j x.2
      modJob (flumeWq q).key j.id (fun j => { j with detail := o.detail, detail2 := o.detail2, prevTurn := o.prevTurn }) o.dev
    | _ =>
      let x := d.draw
      let o := runFold (x.1.toNat % (j.count + 1)) j x.2
      modJob (flumeWq q).key j.id (fun j => { j with detail := o.detail }) o.dev

/-- A flume queue at a turn boundary: a flush takes hold, descriptors are charged, and those whose charge has reached TURNS stop. A
descriptor that ORDER held starts once every earlier one has completed. -/
def flumeBoundary (q : Nat) (d : Dev) : Dev :=
  let w := flumeWq q
  let d := flushApply w flumeCnt (stopFlume q) d
  let d := chargeJobs w (d.get (R.GLB_PWR_GRANT_DUTY 4)) d
  let d := Dev.each (timedOut w d) (fun j d => finishJob w flumeCnt j.id 5 (stopFlume q j d)) d
  d.setWorkQ w.key { d.workQ w.key with taken := (d.workQ w.key).taken.map (fun j =>
    if j.live && j.order && earlierDone w j.id d then { j with dealt := j.tiles } else j) }

end Sys2Proof.Machine
end

