-- ==== Sys2Proof/Machine/Gauge.lean ====
section
/-! DEFINITION. Counter reads, clears and snapshot sets (R460 to R466). -/

namespace Sys2Proof.Machine

/-! ### Reads (R460, R466) -/

/-- Words 0 to 3 of GAUGE_CRD[n] as the counters stand. -/
def crdWords (n : Nat) (d : Dev) : Word × Word × Word × Word :=
  let v := (d.ctr (2 * n)).1 + 2 ^ 48 * (d.ctr (2 * n + 1)).1
  let w (k : Nat) : Word := BitVec.ofNat 32 (v / 2 ^ (32 * k))
  (w 0, w 1, w 2, BitVec.ofNat 32 (b2n (d.ctr (2 * n + 1)).2 + 2 * b2n (d.ctr (2 * n)).2 + 4 * b2n (d.chainBit (2 * n))))

/-- A read of word 0 latches both counters for the requester. -/
def latchPair (r : ReqId) (n : Nat) (d : Dev) : Dev :=
  { d with crd := d.crd.filter (fun e => e.1 != (r, n)) ++ [((r, n), (crdWords n d).2)] }

/-- What words 1 to 3 return: the last latch of word 0, or zero. -/
def pairLatch (r : ReqId) (n : Nat) (d : Dev) : Word × Word × Word :=
  match d.crd.find? (fun e => e.1 == (r, n)) with
  | some e => e.2
  | none => (0, 0, 0)

def counterPairRead (priv : Nat) (r : ReqId) (n : Nat) (d : Dev) : Dev :=
  let d := countCsr r (R.GAUGE_CRD n 0) 0 priv d
  (latchPair r n d).emit (.csrRead r (crdWords n d).1)

def execCounterPairRead (r : ReqId) (n : Fin 10240) (s : State) : Host.Outcome State Fault Refusal :=
  onDev (Dev.whenRunning (counterPairRead 3 r n.val)) s

/-- A counter that user mode may read. -/
def userMay (c : Nat) (d : Dev) : Bool := if c < 4096 then d.on (R.GAUGE_FLT_A_USER c) else d.on R.GAUGE_UCFG_PORTS

/-- A read at an offset of the GAUGE window by a U-mode hart. Outside the user window it is refused; inside, offset less 0x400000
names GAUGE_CTR or GAUGE_CRD. -/
def userWindowRead (r : ReqId) (off : Nat) (d : Dev) : Dev :=
  if off < 0x800000 ∨ 0xB00000 ≤ off then d.emit (.csrFault (r.toNat % 256))
  else
    let d := countCsr r (R.GAUGE_CLR_A + off) 0 1 d
    let o := off - 0x800000
    let deny (d : Dev) : Dev := (d.bump R.GAUGE_UDENY_COUNT).emit (.csrRead r 0)
    if o < 8 * 20480 then
      let c := o / 8
      if !userMay c d then deny d
      else if o % 8 = 0 then
        let v := d.ctrWord c
        (latchHigh r (R.GAUGE_CTR c) (BitVec.ofNat 32 (v / 2 ^ 32)) d).emit (.csrRead r (BitVec.ofNat 32 v))
      else d.emit (.csrRead r (latchedHigh r (R.GAUGE_CTR c) d))
    else if 0x200000 ≤ o ∧ o < 0x200000 + 16 * 10240 then
      let n := (o - 0x200000) / 16
      if !userMay (2 * n) d then deny d
      else
        let l := pairLatch r n d
        match o % 16 / 4 with
        | 0 => (latchPair r n d).emit (.csrRead r (crdWords n d).1)
        | 1 => d.emit (.csrRead r l.1)
        | 2 => d.emit (.csrRead r l.2.1)
        | _ => d.emit (.csrRead r l.2.2)
    else d.emit (.csrRead r 0)

def execUserWindowRead (r : ReqId) (off : BitVec 24) (s : State) : Host.Outcome State Fault Refusal :=
  onDev (Dev.whenRunning (userWindowRead r off.toNat)) s

/-! ### Clears (R461) -/

def counterClearRequest (w : CsrW) (d : Dev) : Dev :=
  if wOn w R.GAUGE_CLR_B_GO && d.on R.GAUGE_CLR_B_BUSY then refuseCsr R.GAUGE_CLR_B w d
  else
    let d := writeOwn RF.GAUGE_CLR_B R.GAUGE_CLR_B w d
    if wOn w R.GAUGE_CLR_B_GO then d.set R.GAUGE_CLR_B_BUSY 1 else d

def execCounterClearRequest (w : CsrW) (s : State) : Host.Outcome State Fault Refusal := onDev (Dev.whenRunning (counterClearRequest w)) s

/-- A clear takes effect at a boundary; what R217 counts from goes with its counter. -/
def applyClear (d : Dev) : Dev :=
  if !d.on R.GAUGE_CLR_B_BUSY then d
  else
    let f := d.get R.GAUGE_CLR_A_FIRST
    let n := d.get R.GAUGE_CLR_A_NUM
    let gone (c : Nat) : Bool := decide (f ≤ c) && decide (c < f + n)
    let d := { d with gauge := { d.gauge with
      ctr := d.gauge.ctr.filter (fun x => !gone x.1), echoLast := d.gauge.echoLast.filter (fun x => !gone (4096 + 16 * x.1 + 9)) } }
    (d.set R.GAUGE_CLR_B_GO 0).set R.GAUGE_CLR_B_BUSY 0

/-! ### Snapshot sets (R462 to R465) -/

/-- The set falls due at a boundary of turn t. -/
def setDue (t s : Nat) (d : Dev) : Bool :=
  let i := d.get (R.GAUGE_SET_B_INTERVAL s)
  let n := d.get (R.GAUGE_SET_A_NUM s)
  i != 0 && t % i == d.get (R.GAUGE_SET_B_PHASE s) % i && decide (1 ≤ n) && decide (n ≤ 20480)

/-- The boundary that starts turn t: sets not copied become late, late ones are abandoned, and the bank is latched when a set is due. -/
def snapshotBoundary (t : Nat) (d : Dev) : Dev :=
  let gone := d.gauge.due.filter (fun x => x.late)
  let d := Dev.each gone (fun x d => { d.bump R.GAUGE_SNAP_CNT_DROP with gauge := { d.gauge with
      lost := SMap.put d.gauge.lost x.set (SMap.getD d.gauge.lost x.set 0 + 1) } }) d
  let late := (d.gauge.due.filter (fun x => !x.late)).map (fun x => { x with late := true })
  let now := (List.range 64).filter (fun s => setDue t s d)
  let d := { d with gauge := { d.gauge with due := late ++ now.map (fun s => ⟨s, t, false, d.get (R.GAUGE_SET_A_FIRST s), d.get (R.GAUGE_SET_A_NUM s)⟩) } }
  if now.isEmpty then d
  else if t % 2 = 0 then { d with gauge := { d.gauge with shadow0 := d.gauge.ctr, shadowTurn := (t, d.gauge.shadowTurn.2) } }
  else { d with gauge := { d.gauge with shadow1 := d.gauge.ctr, shadowTurn := (d.gauge.shadowTurn.1, t) } }

/-- The ring of a set. -/
def setRing (s : Nat) (d : Dev) : RingRef :=
  ⟨R.GAUGE_SET_RBASE s, R.GAUGE_SET_RCFG_LOG2SIZE s, R.GAUGE_SET_RCFG_EN s, R.GAUGE_SET_HEAD_HEAD s, R.GAUGE_SET_TAIL_TAIL s,
   divUp (32 + 8 * d.get (R.GAUGE_SET_A_NUM s)) 64 * 64, 2, 16⟩

/-- The ring for the record of a due set, with the entry size of its NUM (R464). -/
def dueRing (x : DueSet) (d : Dev) : RingRef := { setRing x.set d with esz := divUp (32 + 8 * x.num) 64 * 64 }

/-- The record of R464. -/
def snapshotRecord (x : DueSet) (lost : Nat) (bank : SMap (Nat × Bool)) (d : Dev) : List Byte :=
  let one (i : Nat) : List Byte :=
    let v := SMap.getD bank (x.first + i) (0, false)
    leBytes 6 v.1 ++ leBytes 2 (b2n v.2 + 2 * b2n (d.chainBit (x.first + i)))
  leBytes 1 (x.set + 64 * b2n x.late) ++ zeros 3 ++ leBytes 4 x.num ++ leBytes 8 x.turn ++ leBytes 2 x.first ++ leBytes 2 (min 65535 lost) ++
  zeros 12 ++ (List.range x.num).flatMap one

/-- SNAPSHOT_SET_DUE (R463, R465): class 0 copies the set's oldest due latch into its ring, late sets first and in set order, or the record
counts in LOST where the ring is full. -/
def snapshotCopy (s : Nat) (d : Dev) : Dev :=
  match d.gauge.due.find? (fun x => x.set == s) with
  | none => d
  | some x =>
    if d.gauge.due.any (fun y => y.late && (!x.late || decide (y.set < x.set))) then d
    else
    let d := { d with gauge := { d.gauge with due := d.gauge.due.erase x } }
    let d := if x.late then d.bump R.GAUGE_SNAP_CNT_LATE else d
    let r := dueRing x d
    let lost := SMap.getD d.gauge.lost s 0
    if !d.ringOn r || d.ringFull r then { d with gauge := { d.gauge with lost := SMap.put d.gauge.lost s (lost + 1) } }
    else
      let bank := if x.turn % 2 = 0 then d.gauge.shadow0 else d.gauge.shadow1
      let d := { d with gauge := { d.gauge with lost := SMap.del d.gauge.lost s } }
      d.ringPush r (padTo (snapshotRecord x lost bank d) r.esz)

def execSnapshotSetDue (s : Fin 64) (st : State) : Host.Outcome State Fault Refusal := onDev (Dev.whenTurning (snapshotCopy s.val)) st

/-- A write of a sampler's registers: its match count restarts (R475). -/
def samplerChanged (n : Nat) (d : Dev) : Dev :=
  let x := SMap.getD d.gauge.samplers n ⟨0, 0, 0, 0, 1⟩
  { d with gauge := { d.gauge with samplers := SMap.write d.gauge.samplers n { x with matches_ := 0 } ⟨0, 0, 0, 0, 1⟩ } }

end Sys2Proof.Machine
end

