-- ==== Sys2Proof/Machine/Turn.lean ====
section
/-! DEFINITION. The turn boundary (R77 to R92): the turn number, class overruns, power grants and thermal caps, schedule grants
(R225 to R228), and the work that happens at the boundary. -/

namespace Sys2Proof.Machine

/-! ### Schedule grants -/

/-- Class 6 loads each port's grant for a slot (R226); those that it has not loaded are zero for the turn (R227). -/
def loadGrants (slot : Nat) (d : Dev) : Dev :=
  Dev.each d.ports (fun p d => d.setSched p { d.schedOf p with grant := if d.spray.unloaded.contains p then some 0 else grantOf d slot p }) d

/-- The ports whose grants class 6 leaves unloaded when it overruns: any of them (a free value). -/
def pickUnloaded (overrun : Bool) (d : Dev) : Dev :=
  let d := { d with spray := { d.spray with unloaded := [] } }
  if !overrun then d
  else Dev.each d.ports (fun p d =>
    let r := d.draw
    if r.1.getLsbD 0 then { r.2 with spray := { r.2.spray with unloaded := r.2.spray.unloaded ++ [p] } } else r.2) d

/-- SCHEDULE_SWAP (R228): at the boundary that starts T0, or the next one after it, the pending bank and period take effect. -/
def scheduleSwap (d : Dev) : Dev :=
  let t0 := d.rd64 R.SPRAY_SCHED_START
  if d.on R.SPRAY_SCHED_CFG_PENDING && d.spray.swapDue then
    let d := (d.set R.SPRAY_SCHED_CFG_BANK (1 - d.get R.SPRAY_SCHED_CFG_BANK)).set R.SPRAY_SCHED_STAT_PERIOD (d.get R.SPRAY_SCHED_CFG_NPERIOD)
    let d := { d with spray := { d.spray with start := t0, swapDue := false } }
    let slot := slotOf d d.turn
    let d := if d.on R.SPRAY_SCHED_CFG_ACTIVE then loadGrants slot d else d
    (d.set R.SPRAY_SCHED_STAT_SLOT slot).set R.SPRAY_SCHED_CFG_PENDING 0
  else d

def execScheduleSwap (s : State) : Host.Outcome State Fault Refusal := onDev (Dev.whenTurning scheduleSwap) s

/-- Scheduled mode at a boundary (R81, R225 to R228): a swap whose T0 has come is due, and grants of the slot are in force while MODE is not 0 and some TC is scheduled. -/
def scheduleBoundary (overrun : Bool) (d : Dev) : Dev :=
  let active := d.get R.GLB_TURN_STATUS_MODE != 0 && d.get R.SPRAY_SCHED_CFG_TCMASK != 0
  let due := d.on R.SPRAY_SCHED_CFG_PENDING && decide (d.rd64 R.SPRAY_SCHED_START ≤ d.turn)
  let d := pickUnloaded overrun (setActive active { d with spray := { d.spray with swapDue := due } })
  if active then
    let slot := slotOf d d.turn
    loadGrants slot (d.set R.SPRAY_SCHED_STAT_SLOT slot)
  else d

/-! ### Power and heat (R86 to R92, R501) -/

/-- Classes that may be throttled, and the least duty of a class (R86, R88). -/
def throttleable : List Nat := [3, 4, 5, 6]
def minDuty (d : Dev) (c : Nat) : Nat :=
  let m := min 128 (d.get (R.GLB_PWR_CLASS_MINDUTY c))
  if c = 3 then max 64 m else m

def dutyOf (d : Dev) (c : Nat) : Nat := d.get (R.GLB_PWR_GRANT_DUTY c)

/-- Temperature of a die in units of 0.125 °C. -/
def tempAt (i : TurnInput) (die : Nat) : Nat := i.temps.getD die 0

/-- Hottest of a list of (die, temperature); the lowest die of equals. -/
def hottest (l : List (Nat × Nat)) : Nat × Nat := l.foldl (fun a x => if a.2 < x.2 then x else a) (0, 0)

/-- Dies other than the compute dies. -/
def commonDies : List Nat := (List.range 20).filter (fun k => k != 10 && k != 11)

/-- Throttle caps (R89). A hot compute die lowers its own class; any other hot die lowers the sluice classes, then the flume, then the
basin. A cap rises once no die that lowers it is at 103 °C. -/
def throttle (i : TurnInput) (d : Dev) : Dev :=
  let cap (c : Nat) : Nat := d.ras.cap.getD c 128
  let down (c : Nat) : Nat := min (cap c) (max (minDuty d c) (cap c - 16))
  let hot := commonDies.any (fun k => decide (840 ≤ tempAt i k))
  let warm := commonDies.any (fun k => decide (824 ≤ tempAt i k))
  let left (c : Nat) : Bool := decide (minDuty d c < cap c)
  let stage : List Nat := if left 5 || left 6 then [5, 6] else if left 4 then [4] else [3]
  let next (c : Nat) : Nat :=
    let own := if c = 5 then tempAt i 10 else if c = 6 then tempAt i 11 else 0
    if (hot && stage.contains c) || decide (840 ≤ own) then down c
    else if warm || decide (824 ≤ own) then cap c else min 128 (cap c + 4)
  { d with ras := { d.ras with cap := (List.range 8).map (fun c => if throttleable.contains c then next c else 128) } }

/-- The rate cap of compute die m (R90): `hist` is its temperature over the turns before, newest first. -/
def rateCap (m : Nat) (i : TurnInput) (d : Dev) : Dev :=
  let c := 5 + m
  let hist := tempAt i (10 + m) :: d.ras.temps.getD m []
  let rise : Int := if 16 < hist.length then ((hist.getD 0 0 : Nat) : Int) - (hist.getD 16 0 : Nat) else 0
  let dt : Int := d.get R.GLB_THERM_CFG_RATE_DT
  let meets := decide (16 < hist.length) && decide (dt ≤ rise)
  let since := d.ras.rampFor.getD m 0 + 1
  let cool := if 2 * rise < dt then d.ras.coolFor.getD m 0 + 1 else 0
  let r : Option Nat × Nat := match d.ras.rateCap.getD m none with
    | none => if meets then (some (min (dutyOf d c) (d.get R.GLB_THERM_CFG_RAMP_DUTY)), 0) else (none, 0)
    | some cap =>
      if meets && decide (16 ≤ since) then (some (min cap (max (minDuty d c) (cap / 2))), 0)
      else if 64 ≤ cool then (if 128 ≤ cap + 4 then none else some (cap + 4), since) else (some cap, since)
  let put (l : List Nat) (v : Nat) : List Nat := (List.range 2).map (fun k => if k = m then v else l.getD k 0)
  let caps := (List.range 2).map (fun k => if k = m then r.1 else d.ras.rateCap.getD k none)
  let temps := (List.range 2).map (fun k => if k = m then hist.take 16 else d.ras.temps.getD k [])
  { d with ras := { d.ras with rateCap := caps, rampFor := put d.ras.rampFor r.2, coolFor := put d.ras.coolFor cool, temps := temps } }

/-- The thermal registers and the warning (R89, R92). -/
def thermalStatus (i : TurnInput) (d : Dev) : Dev :=
  let h := hottest ((List.range 20).map (fun k => (k, tempAt i k)))
  let d := (d.set R.GLB_THERM_STATUS_TMAX (min 2047 h.2)).set R.GLB_THERM_STATUS_DIE h.1
  let d := d.set R.GLB_THERM_STATUS_THROTTLE (b2n (d.ras.cap.any (fun c => decide (c < 128))))
  let d := d.set R.GLB_THERM_STATUS_RATECAP (b2n (d.ras.rateCap.any (·.isSome)))
  let warn := 8 * min 104 (d.get R.GLB_THERM_CFG_WARN)
  if d.ras.warned then (if h.2 + 16 ≤ warn then { d with ras := { d.ras with warned := false } } else d)
  else if warn ≤ h.2 then raiseCE blkGlb 7 h.1 { d with ras := { d.ras with warned := true } }
  else d

/-- The lower of a class's throttle cap and, for the class of a compute die, its rate cap (R90). -/
def thermalCap (d : Dev) (c : Nat) : Nat := min (d.ras.cap.getD c 128) (if c < 5 then 128 else (d.ras.rateCap.getD (c - 5) none).getD 128)

/-- Power of a class at duty 128 in 2^-16 W, from the turn that ends; kept from before where the class was at duty 0 (R87). -/
def fullPower (i : TurnInput) (d : Dev) (c : Nat) : Nat :=
  let duty := dutyOf d c
  if duty = 0 then d.ras.fullPower.getD c 0 else i.watts.getD c 0 * 65536 * 128 / duty

/-- A queue of compute die m holds a taken or a ready descriptor: one in the ring of an enabled queue (R314). -/
def dieWorks (d : Dev) (m : Nat) : Bool :=
  (List.range 64).any (fun q =>
    let w := sluWq m q
    (d.workQ w.key).taken.any (fun j => j.live) || (d.ringOn w.ring && !d.ringEmpty w.ring))

/-- The duty a class requests: a compute die that holds work requests 128 and one that does not 0 (R314); the other classes report theirs
(R87). -/
def requestOf (i : TurnInput) (d : Dev) (c : Nat) : Nat :=
  if c = 5 || c = 6 then (if dieWorks d (c - 5) then 128 else 0) else i.requested.getD c 0

/-- Grants of the classes of one PRIO, which share the room evenly (R87). Answers (class, duty before the caps) and the room left. A class that
draws nothing at full duty is not limited by the room, whatever the room is (DESIGN CHOICE, log 71). -/
def grantPrio (i : TurnInput) (d : Dev) (cs : List Nat) (room : Int) : List (Nat × Nat) × Int :=
  let share : Nat := (room / (max 1 cs.length : Nat)).toNat
  let duty (c : Nat) : Nat :=
    let fp := d.ras.fullPower.getD c 0
    let byRoom := if fp = 0 then 128 else 128 * share / fp
    max (minDuty d c) (min (min (min 128 (d.get (R.GLB_PWR_CLASS_MAXDUTY c))) (requestOf i d c)) byRoom)
  let gs := cs.map (fun c => (c, duty c))
  let used : Nat := (gs.map (fun g => d.ras.fullPower.getD g.1 0 * min g.2 (thermalCap d g.1) / 128)).foldl (fun a b => a + b) 0
  (gs, room - (used : Int))

/-- Grants of every throttleable class in ascending PRIO. -/
def grantAll (i : TurnInput) (d : Dev) (room : Int) : List (Nat × Nat) × Int :=
  (List.range 8).foldl (fun a prio =>
    let cs := throttleable.filter (fun c => d.get (R.GLB_PWR_CLASS_PRIO c) == prio)
    if cs.isEmpty then a else
      let r := grantPrio i d cs a.2
      (a.1 ++ r.1, r.2)) ([], room)

/-- The budget in force in W (R88, R501). -/
def budget (d : Dev) : Nat :=
  let b := min 2400 (d.get R.GLB_PWR_BUDGET_WATTS)
  if d.ras.pwrLow then min b (min 2400 (d.get R.GLB_PWR_LIM_WATTS)) else b

/-- The duty in force of a class, and whether a thermal cap keeps it below the duty that was granted before the caps (R88). -/
def setGrant (c duty : Nat) (d : Dev) : Dev :=
  (d.set (R.GLB_PWR_GRANT_DUTY c) (min duty (thermalCap d c))).set (R.GLB_PWR_GRANT_TCAP c) (b2n (thermalCap d c < d.ras.wanted.getD c 128))

/-- The power arbiter at a boundary (R86 to R90). After a class 5 overrun the grants in force stay, under the thermal caps. -/
def powerBoundary (overrun : Bool) (i : TurnInput) (d : Dev) : Dev :=
  let d := rateCap 1 i (rateCap 0 i (throttle i d))
  let d := thermalStatus i d
  let d := { d with ras := { d.ras with fullPower := (List.range 8).map (fullPower i d) } }
  let d := Dev.each (List.range 8) (fun c d => d.set (R.GLB_PWR_GRANT_WATTS c) (min 4095 (i.watts.getD c 0))) d
  let d := d.set R.GLB_PWR_MEAS_TOTAL (min 4095 (i.watts.foldl (· + ·) 0))
  let d := d.set R.GLB_PWR_LIM_ACTIVE (b2n d.ras.pwrLow)
  if overrun then
    Dev.each throttleable (fun c d => setGrant c (dutyOf d c) d) d
  else
    let fixed := i.watts.getD 0 0 + i.watts.getD 1 0 + i.watts.getD 2 0 + i.watts.getD 7 0
    let room : Int := ((budget d : Int) - (d.get R.GLB_PWR_BUDGET_GUARD : Nat) - fixed) * 65536
    let r := grantAll i d room
    let d := { d with ras := { d.ras with wanted := (List.range 8).map (fun c => match r.1.find? (fun g => g.1 == c) with | some g => g.2 | none => 128) } }
    let d := Dev.each r.1 (fun g d => setGrant g.1 g.2 d) d
    if r.2 < 0 then d.set R.GLB_PWR_MEAS_OVER 1 else d

/-! ### Overruns (R84, R85) -/

/-- A class overran in the turn that ends: counted, and reported at most once in 4,096 turns. -/
def noteOverrun (ended c : Nat) (d : Dev) : Dev :=
  let d := (d.bump (R.GLB_TURN_OVR_COUNT c)).set (R.GLB_TURN_OVR_LASTTURN c) ended
  if (SMap.get? d.ras.ovrLast c).any (fun n => decide (d.ras.boundaries < n + 4096)) then d
  else raiseCE blkGlb 6 c { d with ras := { d.ras with ovrLast := SMap.put d.ras.ovrLast c d.ras.boundaries } }

/-! ### The boundary -/

/-- A table entry has gone bad: a copy of a forwarding table below 8, of the job map 8 or of the job table 9, which a lookup or the scrub then
meets (R151, R152, R157); the group map 10 and the group entries 11 have one copy (R265). -/
def tableParity (x : Nat × Nat × Nat) (d : Dev) : Dev :=
  if 10 ≤ x.1 then groupParity (x.1 == 10) x.2.1 d
  else if d.tables.bad.contains x || decide (7 < x.2.2) || !d.portDieFitted x.2.2 then d
  else { d with tables := { d.tables with bad := d.tables.bad ++ [x] } }

/-- A port's queues that waited for credit in the turn (R454 counter 15). -/
def countWaits (d : Dev) : Dev :=
  Dev.each (d.links.filter (fun x => x.2.waited)) (fun x d => countPort x.1 15 (d.modLink x.1 (fun l => { l with waited := false }))) d

/-- Each port may send the time exchange of the turn that begins (R122). -/
def newExchanges (d : Dev) : Dev :=
  Dev.each (d.links.filter (fun x => x.2.exchanged)) (fun x d => d.modLink x.1 (fun l => { l with exchanged := false })) d

/-- Page allowances of a turn: at most 937, and 468 on the VX9-1024S (R180, R187). -/
def pageCap (d : Dev) (n : Nat) : Nat := min (if d.get R.GLB_IDENT_PART = 0x92 then 468 else 937) n

/-- Budgets that start anew with a turn. -/
def newTurn (d : Dev) : Dev :=
  let d := { d with cist := { d.cist with wleft := pageCap d (d.get R.CIST_SPILL_CAP_WPAGES), rleft := pageCap d (d.get R.CIST_SPILL_CAP_RPAGES) } }
  { d with
    ras := { d.ras with fwdThisTurn := 0 }
    gauge := { d.gauge with samplesThisTurn := 0, samplers := d.gauge.samplers.map (fun x => (x.1, { x.2 with thisTurn := 0 })) } }

/-- Levels of every port (R217); after a class 0 overrun any port's snapshot may be late. -/
def levels (overrun : Bool) (d : Dev) : Dev :=
  Dev.each d.ports (fun p d =>
    let r := if overrun then d.draw else (0, d)
    portLevel (overrun && r.1.getLsbD 0) p r.2) d

/-- Work of a class that is left when the turn ends (R83): snapshot sets to copy, map fragments to send, a sweep quantum, retirement checks,
job records. What classes 5 to 7 leave is told by the boundary alone. -/
def workLeft (d : Dev) (c : Nat) : Bool :=
  match c with
  | 0 => !d.gauge.due.isEmpty
  | 1 => mapUnsent d
  | 2 => d.tables.ageDue
  | 3 => d.basin.ctx.any (fun x => visited d x.1 && (chunkDue x.2 d || tombDue x.2 d))
  | 4 => !d.jobs.apply.isEmpty
  | _ => false

/-- The classes that overrun (R83, R84): those with work left, and those that the boundary reports. -/
def overruns (i : TurnInput) (d : Dev) : List Nat :=
  (List.range 8).filter (fun c => workLeft d c || i.overrun.any (fun o => o.val == c))

/-- The sweeps of class 2 (R150, R152). -/
def sweeps (overrun : Bool) (d : Dev) : Dev := agingTurn (if overrun then d else scrubTables d)

/-- The work of a boundary, whose turn number is already in force. -/
def turnWork (i : TurnInput) (late : List Nat) (d : Dev) : Dev :=
  let ovr (c : Nat) : Bool := late.contains c
  let d := Dev.each i.scrub scrubLine (tableUpdateVisible (finishBatch (newExchanges (countWaits d))))
  let d := sweeps (ovr 2) (Dev.each i.parity tableParity { d with basin := { d.basin with visitLate := ovr 3 } })
  let d := imbalanceChecks (levels (ovr 0) (lateMap d))
  let d := bypassBoundary (ovr 7) (scheduleBoundary (ovr 6) d)
  let d := jobBoundary (timeBoundary d)
  let d := applyClear (snapshotBoundary d.turn d)
  let d := Dev.each (List.range 2) (fun m d =>
    Dev.each (List.range 64) (fun q d => chargeJobs (sluWq m q) (dutyOf d (5 + m)) d) d) d
  newTurn (Dev.each (List.range 16) flumeBoundary d)

/-- The turn that a boundary starts (R77, R79, R80): none where no boundary falls yet on the fabric grid. -/
def nextTurn (d : Dev) : Option Nat :=
  if !d.boot.turnsBegun then some 0
  else if d.get R.GLB_TURN_STATUS_MODE = 0 && !d.time.realignNext then some (d.turn + 1)
  else
    let n := (d.now / turnUnit).toNat
    if d.time.realignNext then some n else if d.turn < n then some n else none

/-- Fabric cycles of the turn that ends: 4,096 while it free-runs (R77, R80), 4,032 to 8,127 where it ends at a realignment (R79), and
4,032 to 4,160 on the grid (R78). -/
def turnLen (i : TurnInput) (d : Dev) : Nat :=
  if d.time.realignNext then max 4032 (min 8127 i.len)
  else if d.get R.GLB_TURN_STATUS_MODE = 0 then Config.turnCycles
  else max 4032 (min 4160 i.len)

/-- The status of the boundary itself (R79, R82, R84). -/
def endTurn (i : TurnInput) (late : List Nat) (d : Dev) : Dev :=
  let d := Dev.each late (fun c d => noteOverrun d.turn c d) (d.set R.GLB_TURN_STATUS_LASTLEN (turnLen i d))
  let d := if d.time.realignNext then { d with time := { d.time with realignNext := false } }.set R.GLB_TURN_STATUS_REALIGN 1 else d
  powerBoundary (late.contains 5) i d

/-- TURN_BOUNDARY (R77). No work of the boundary changes the turn number. -/
def turnBoundary (i : TurnInput) (d : Dev) : Dev :=
  match nextTurn d with
  | none => d
  | some n =>
    let late := if d.boot.turnsBegun then overruns i d else []
    let d := if d.boot.turnsBegun then endTurn i late d else { d with boot := { d.boot with turnsBegun := true } }
    let d := { d with ras := { d.ras with boundaries := d.ras.boundaries + 1 } }
    (turnWork i late (d.wr64 R.GLB_TURN_NUM n)).wr64 R.GLB_TURN_NUM n

def execTurnBoundary (i : TurnInput) (s : State) : Host.Outcome State Fault Refusal := onDev (Dev.whenApplied (turnBoundary i)) s

end Sys2Proof.Machine
end

