-- ==== Sys2Proof/Machine/Registers.lean ====
section
/-! DEFINITION. CSR accesses by the access codes (R9 to R11, R523), and what a write of a register with no command of its own does beyond
its fields: quotas (R172), ring configuration (R531), refused writes (R527). -/

namespace Sys2Proof.Machine

/-! ### Writes by the access codes, refused or carried out -/

/-- The register of an address with its unit fitted, for a write of one of its 32-bit or high words. -/
def liveHit (d : Dev) (a : Nat) : Option RegHit :=
  match findReg a with
  | some h => if d.unitFitted h then some h else none
  | none => none

/-- The 64-bit value that a write of the high word at `a + 4` would bring into effect (R10). -/
def wideValue (a : Nat) (w : CsrW) (d : Dev) : Nat :=
  let low : Word := match d.heldLow.find? (fun e => e.1 == w.req && e.2.1 == a) with
    | some e => e.2.2
    | none => d.rd a
  low.toNat + 2 ^ 32 * w.val.toNat

/-! ### Quotas (R172, R255, R381) -/

/-- An account that a write has left below its use: UNIT, excess, ARG1, job index. -/
structure QuotaCut where
  block : Nat
  code : Nat
  unit : Nat
  excess : Nat
  acct : Nat
  job : Option Nat

def cutAbove (block code unit acct : Nat) (job : Option Nat) (use limit : Nat) : List QuotaCut :=
  if limit < use then [⟨block, code, unit, use - limit, acct, job⟩] else []

/-- A limit in pages of 64 cells, with no limit at 0x1FF_FFFF (R187). -/
def cutPages (unit acct : Nat) (job : Option Nat) (use pages : Nat) : List QuotaCut :=
  if pages = 0x1FFFFFF then [] else cutAbove blkCist 4 unit acct job use (64 * pages)

/-- Queues with packets whose profile is p. -/
def queuesOf (p : Nat) (d : Dev) : List Nat :=
  let uni : List Nat := d.cist.uq.map (fun x => x.1)
  let mc : List Nat := d.cist.mq.map (fun x => 8192 + x.1)
  (uni ++ mc).filter (fun q => d.prof q == p)

/-- Accounts below their use after a write of the quota register of a hit: `was` is the device before the write. A queue holds of its MINQ at
most what MINQ was. -/
def quotaCuts (h : RegHit) (was d : Dev) : List QuotaCut :=
  let i := h.ix.getD 0 0
  let b := h.reg.base
  if b = R.CIST_JQUOTA 0 then cutPages i 0 (some i) (d.get (R.CIST_JUSE_CELLS i)) (d.get (R.CIST_JQUOTA_PAGES i))
  else if b = R.CIST_PQUOTA 0 then cutPages i 1 none (d.get (R.CIST_PUSE_CELLS i)) (d.get (R.CIST_PQUOTA_PAGES i))
  else if b = R.CIST_CQUOTA 0 then cutPages i 2 none (d.get (R.CIST_CUSE_CELLS i)) (d.get (R.CIST_CQUOTA_PAGES i))
  else if b = R.CIST_QMAX 0 then (queuesOf i d).flatMap (fun q => cutPages q 3 none (d.depth q) (d.get (R.CIST_QMAX_PAGES i)))
  else if b = R.CIST_QPROF_A 0 then
    (queuesOf i d).flatMap (fun q => cutAbove blkCist 4 q 4 none (d.minHeld q (was.get (R.CIST_QPROF_A_MINQ i))) (d.get (R.CIST_QPROF_A_MINQ i)))
  else if b = R.CIST_PORT_XOFF 0 then
    (List.range 8).flatMap (fun tc => if losslessAcct d i tc then cutAbove blkCist 4 i 5 none ((d.link i).ingrOf tc) (d.get (R.CIST_PORT_XOFF_XOFF i)) else [])
  else if b = R.CIST_PORT_HDRM 0 then cutAbove blkCist 4 i 6 none (d.link i).hdrmUse (d.get (R.CIST_PORT_HDRM_CAP i))
  else if b = R.BASIN_JQUOTA 0 then
    if d.get (R.BASIN_JQUOTA_SLOTS i) = 0x3FFFF then []
    else cutAbove blkBasin 5 i 0 (some i) (d.get (R.BASIN_JUSE_SLOTS i)) (d.get (R.BASIN_JQUOTA_SLOTS i))
  else if b = R.TALLY_JQUOTA 0 then
    if d.get (R.TALLY_JQUOTA_PEND i) = 0xFFFFF then []
    else cutAbove blkTally 4 i 0 (some i) (d.get (R.TALLY_JUSE_PEND i)) (d.get (R.TALLY_JQUOTA_PEND i))
  else []

def quotaBases : List Nat :=
  [R.CIST_JQUOTA 0, R.CIST_PQUOTA 0, R.CIST_CQUOTA 0, R.CIST_QMAX 0, R.CIST_QPROF_A 0, R.CIST_PORT_XOFF 0, R.CIST_PORT_HDRM 0,
   R.BASIN_JQUOTA 0, R.TALLY_JQUOTA 0]

def raiseCut (c : QuotaCut) (d : Dev) : Dev :=
  raise ⟨0, c.block, c.code, c.unit, c.excess, c.acct, c.job.map (fun j => jobIdOf j d)⟩ d

/-- QUOTA_WRITE (R172, R255, R381): nothing is evicted or freed, and an event is raised for every account left below its use. The new limit
is met at the next admission and the next decision (R189). -/
def quotaWrite (a : Nat) (w : CsrW) (d : Dev) : Dev :=
  match findReg a with
  | none => d
  | some h =>
    if !quotaBases.contains h.reg.base then d
    else
      let d' := writeCsr w.req a w.val d
      if !d.unitFitted h then d' else Dev.each (quotaCuts h d d') raiseCut d'

def execQuotaWrite (addr : Word) (w : CsrW) (s : State) : Host.Outcome State Fault Refusal := onDev (Dev.whenRunning (quotaWrite addr.toNat w)) s

/-! ### Rings (R316, R531) -/

/-- Every ring of the device (R295), with the queue whose EN guards its completion-ring fields. -/
def ringsOf (d : Dev) : List (RingRef × Option Fld) :=
  [(evtRing, none), (tsRing, none), (tblRing, none), (jupdRing, none), (cring, none), (ctxRing, none), (smpRing, none)]
  ++ (List.range 64).map (fun s => (setRing s d, none))
  ++ (List.range 16).flatMap (fun q => [((flumeWq q).ring, none), ((flumeWq q).cr, some (flumeWq q).ring.en)])
  ++ (List.range 2).flatMap (fun m => (List.range 64).flatMap (fun q => [((sluWq m q).ring, none), ((sluWq m q).cr, some (sluWq m q).ring.en)]))

/-- The ring of a configuration register. -/
def ringOfCfg (a : Nat) (d : Dev) : Option (RingRef × Option Fld) := (ringsOf d).find? (fun r => r.1.size.addr == a)

/-- STOPPED of a queue clears when its SLU_WQ_CFG is written (R309). -/
def clearStopped (h : RegHit) (d : Dev) : Dev :=
  if h.reg.base = R.SLU_WQ_CFG 0 0 then d.set (R.SLU_WQ_HEAD_STOPPED (h.ix.getD 0 0) (h.ix.getD 1 0)) 0 else d

/-- LOG2SIZE of a ring cannot change: the ring is enabled (R531), or it is that of a work queue whose EN is 1 (R316). -/
def ringFixed (r : RingRef) (d : Dev) : Bool := d.ringOn r || (r.lo == 4 && d.on r.en)

/-- A write of a ring's configuration register (R316, R531). -/
def ringConfig (a : Nat) (w : CsrW) (d : Dev) : Dev :=
  match ringOfCfg a d, findReg a with
  | some (r, guard), some h =>
    if !d.unitFitted h then writeCsr w.req a w.val d
    else
      let resize := wBits w r.size != d.get r.size
      let crChange := match guard with
        | some en => d.on en && (resize || wBits w r.en != d.get r.en)
        | none => false
      if (resize && ringFixed r d) || crChange then refuseCsr a w d
      else
        let d := clearStopped h (writeCsr w.req a w.val d)
        if resize then (d.set r.head 0).set r.tail 0 else d
  | _, _ => d

/-- RING_CONFIG_WRITE (R531). The event ring's held events follow its first enabling (R478). -/
def ringConfigWrite (a : Nat) (w : CsrW) (d : Dev) : Dev := releaseHeld (ringConfig a w d)

def execRingConfigWrite (addr : Word) (w : CsrW) (s : State) : Host.Outcome State Fault Refusal :=
  onDev (Dev.whenRunning (ringConfigWrite addr.toNat w)) s

/-- EVENT_RING_ENABLE (R478): a write of GLB_EVT_CFG. -/
def execEventRingEnable (w : CsrW) (s : State) : Host.Outcome State Fault Refusal :=
  onDev (Dev.whenRunning (ringConfigWrite R.GLB_EVT_CFG w)) s

/-! ### 64-bit registers (R10, R523) -/

/-- LOW_WORD_READ: the high word is latched for the requester. -/
def lowWordRead (r : ReqId) (a : Nat) (d : Dev) : Dev :=
  match findReg a with
  | some h =>
    if !h.reg.wide || h.high then d
    else
      let d := countCsr r a 0 3 d
      let v := if d.unitFitted h then d.value64 a else 0
      (latchHigh r a (BitVec.ofNat 32 (v / 2 ^ 32)) d).emit (.csrRead r (BitVec.ofNat 32 v))
  | none => d

def execLowWordRead (r : ReqId) (addr : Word) (s : State) : Host.Outcome State Fault Refusal :=
  onDev (Dev.whenRunning (lowWordRead r addr.toNat)) s

/-- LOW_WORD_WRITE: the word is held for the requester. -/
def lowWordWrite (a : Nat) (w : CsrW) (d : Dev) : Dev :=
  match findReg a with
  | some h => if h.reg.wide && !h.high then writeCsr w.req a w.val d else d
  | none => d

def execLowWordWrite (addr : Word) (w : CsrW) (s : State) : Host.Outcome State Fault Refusal :=
  onDev (Dev.whenRunning (lowWordWrite addr.toNat w)) s

/-- A 64-bit register that may not take the value now: a ring base in use (R316), a window of an active job (R372), the PN of a valid SA
(R326). -/
def wideRefused (h : RegHit) (a : Nat) (w : CsrW) (d : Dev) : Bool :=
  let i := h.ix.getD 0 0
  let j := h.ix.getD 1 0
  let b := h.reg.base
  let changes := wideValue a w d / 32 != d.rd64 a / 32
  if b = R.SLU_WQ_BASE 0 0 ∨ b = R.SLU_WQ_CR_BASE 0 0 then d.on (R.SLU_WQ_CFG_EN i j) && changes
  else if b = R.FLUME_WQ_BASE 0 ∨ b = R.FLUME_WQ_CR_BASE 0 then d.on (R.FLUME_WQ_CFG_EN i) && changes
  else if b = R.TALLY_JWIN 0 then jobActive i d
  else if b = R.HAUL_SA_PN 0 0 0 then d.on (R.HAUL_SA_CTL_VALID i j (h.ix.getD 2 0))
  else false

/-- HIGH_WORD_WRITE: the 64-bit value takes effect. -/
def highWordWrite (a : Nat) (w : CsrW) (d : Dev) : Dev :=
  match findReg a with
  | some h =>
    if !h.reg.wide || !h.high then d
    else if d.unitFitted h && wideRefused h (a - 4) w d then
      let d := refuseCsr a w d
      { d with heldLow := d.heldLow.filter (fun e => !(e.1 == w.req && e.2.1 == a - 4)) }
    else writeCsr w.req a w.val d
  | none => d

def execHighWordWrite (addr : Word) (w : CsrW) (s : State) : Host.Outcome State Fault Refusal :=
  onDev (Dev.whenRunning (highWordWrite addr.toNat w)) s

/-! ### Reads of 32-bit words -/

/-- The RC bits of a value are cleared (R11). -/
def clearRc (fs : List FieldDef) (v : Nat) : Nat :=
  fs.foldl (fun v f => if f.acc == .rc then withBits v f.lo (f.hi - f.lo + 1) 0 else v) v

/-- The user window (R466). -/
def inUserWindow (a : Nat) : Bool := decide (R.GAUGE_CLR_A + 0x800000 ≤ a) && decide (a < R.GAUGE_CLR_A + 0xB00000)

/-- READ_CLEAR: a read of a word other than the low word of a 64-bit register. RC fields return their value and clear (R11); a high word
returns the requester's latch (R10), words 1 to 3 of a counter pair theirs (R460), and an unassigned word reads zero (R9). -/
def readWord (r : ReqId) (a : Nat) (d : Dev) : Dev :=
  if inUserWindow a then d
  else match findReg a with
  | none => (countCsr r a 0 3 d).emit (.csrRead r 0)
  | some h =>
    if h.reg.wide && !h.high then d
    else
      let d := countCsr r a 0 3 d
      if !d.unitFitted h then d.emit (.csrRead r 0)
      else if h.reg.wide then d.emit (.csrRead r (latchedHigh r (a - 4) d))
      else if h.reg.base = R.GAUGE_CRD 0 0 then
        let l := pairLatch r (h.ix.getD 0 0) d
        match h.ix.getD 1 0 with
        | 0 => d
        | 1 => d.emit (.csrRead r l.1)
        | 2 => d.emit (.csrRead r l.2.1)
        | _ => d.emit (.csrRead r l.2.2)
      else
        let d := if a = R.GLB_WIPE_STATUS then wipeProgress d else if h.reg.base = R.TEST_HBM_STAT 0 then copyProgress (h.ix.getD 0 0) d else d
        let v := d.rd a
        (d.wr a (BitVec.ofNat 32 (clearRc h.reg.fields v.toNat))).emit (.csrRead r v)

def execReadClear (r : ReqId) (addr : Word) (s : State) : Host.Outcome State Fault Refusal :=
  onDev (Dev.whenRunning (readWord r addr.toNat)) s

/-! ### REGISTER_WRITE -/

/-- Registers whose writes are commands of their own. -/
def ownBases : List Nat :=
  [R.SEC_BOOT_RUN, R.GLB_RST_CTL, R.SEC_LC_REQ, R.SEC_KEY_REVOKE, R.SEC_SVN_ADV, R.SEC_MBX_CTL, R.PORT_RELOCK 0, R.TEST_PORT_LOOP 0,
   R.PORT_PCTL 0, R.PORT_LANE_SHIFT 0, R.QUE_FLUSH, R.SPRAY_SCHED_CFG, R.BASIN_ABORT, R.SLU_WQ_CTL 0 0, R.HAUL_LINK_CTL 0,
   R.HAUL_SA_CTL 0 0 0, R.HAUL_LINK_CFG 0, R.TALLY_LOST_CLR, R.TIME_SNAP, R.TIME_CTL, R.TIME_CAP_STAT 0, R.OPT_MBX_CTL 0,
   R.OPT_BYP_ARM, R.GAUGE_CLR_B, R.TEST_LANE_FAIL 0, R.TEST_BIST_CTL, R.MGT_PCIE_DOORBELL]

/-- A write that a rule ignores with a CE event: PFC priorities (R126), the grant bank in force (R228), MODE 3 (R329, R349), a valid SA (R326), a
ring index outside its ring (R531). -/
def writeRefused (h : RegHit) (a : Nat) (w : CsrW) (d : Dev) : Bool :=
  let i := h.ix.getD 0 0
  let b := h.reg.base
  if b = R.PORT_PFC_CFG 0 then decide (2 < popcount w.val.toNat 8)
  else if b = R.SPRAY_GRANT 0 0 0 then i == d.get R.SPRAY_SCHED_CFG_BANK
  else if b = R.HAUL_MSEC 0 then w.val.toNat % 4 == 3
  else if b = R.HAUL_SA_KEY 0 0 0 0 ∨ b = R.HAUL_SA_SALT 0 0 0 0 ∨ b = R.HAUL_SA_SSCI 0 0 0 then
    d.on (R.HAUL_SA_CTL_VALID i (h.ix.getD 1 0) (h.ix.getD 2 0))
  else (ringsOf d).any (fun r => r.1.tail.addr == a && decide (d.ringSize r.1 ≤ wBits w r.1.tail))

/-- Before the write: a port's tokens are brought up to date at the old rates (R196). -/
def beforeWrite (h : RegHit) (d : Dev) : Dev :=
  if h.reg.base = R.QUE_TC_SHAPE 0 0 ∨ h.reg.base = R.QUE_PORT_SHAPE 0 then
    let p := h.ix.getD 0 0
    d.setSched p (freshTokens d p (d.schedOf p))
  else d

/-- A change of MEDIA, FEC or EN takes a management port down; it trains again (R507, R518). -/
def mgmtConfigured (n : Nat) (was d : Dev) : Dev :=
  if (was.rd (R.MGT_MP_CFG n)) = d.rd (R.MGT_MP_CFG n) then d else mgmtPortDown n d

/-- After the write: what the status registers and units take from it at once. `was` is the device before it. -/
def afterWrite (h : RegHit) (was d : Dev) : Dev :=
  let i := h.ix.getD 0 0
  let b := h.reg.base
  if b = R.SPRAY_SET_A 0 then
    ({ d with spray := { d.spray with badSeen := d.spray.badSeen.filter (fun k => k != i) } }).set (R.SPRAY_SET_B_ESCALATED i) 0
  else if b = R.SPRAY_RLVL 0 then
    setLevels i (d.get (R.SPRAY_PLVL_LOCAL i)) (if d.get (R.SPRAY_RLVL_TTL i) = 0 then 0 else d.get (R.SPRAY_RLVL_LEVEL i)) d
  else if b = R.HAUL_MSEC 0 then showInuse i d
  else if b = R.BASIN_CFG ∨ b = R.BASIN_SPARSE_CFG then showBasin d
  else if b = R.FLUME_DREG_C 0 then d.set ⟨R.FLUME_STAT, 16 + i, 1⟩ (d.get (R.FLUME_DREG_C_EN i))
  else if b = R.GAUGE_SMP_A 0 ∨ b = R.GAUGE_SMP_B 0 ∨ b = R.GAUGE_SMP_C 0 then samplerChanged i d
  else if b = R.OPT_BYP_TRIG_A 0 then triggerWritten i (was.on (R.OPT_BYP_TRIG_A_EN i)) d
  else if b = R.MGT_MP_CFG 0 then mgmtConfigured i was d
  else if b = R.GLB_PWR_CLASS 0 then (if d.applied then fixDuty i d else d)
  else d

/-- REGISTER_WRITE (R9, R11): by access code, or refused. The flume's queue control register flushes its queue (R308, R365), and a write
through the user window is ignored and counted (R466). -/
def registerWrite (a : Nat) (w : CsrW) (d : Dev) : Dev :=
  if inUserWindow a then (discardHeld w.req a (countCsr w.req a 1 3 d)).bump R.GAUGE_UDENY_COUNT
  else match findReg a with
  | none => writeCsr w.req a w.val d
  | some h =>
    if h.reg.wide || ownBases.contains h.reg.base || quotaBases.contains h.reg.base || (ringOfCfg a d).isSome then d
    else if !d.unitFitted h then writeCsr w.req a w.val d
    else if h.reg.base = R.FLUME_WQ_CTL 0 then flushWrite (flumeWq (h.ix.getD 0 0)) RF.FLUME_WQ_CTL a w d
    else if writeRefused h a w d then refuseCsr a w d
    else afterWrite h d (writeCsr w.req a w.val (beforeWrite h d))

def execRegisterWrite (addr : Word) (w : CsrW) (s : State) : Host.Outcome State Fault Refusal :=
  onDev (Dev.whenRunning (registerWrite addr.toNat w)) s

end Sys2Proof.Machine
end

