-- ==== Sys2Proof/Machine/Dispatch.lean ====
section
/-! DEFINITION. One arm per command of `Instr`: a direct call of its meaning. -/

namespace Sys2Proof.Machine

def exec (i : Instr) (s : State) : Host.Outcome State Fault Refusal :=
  match i with
  | .resetRelease pcieEn => Sys2Proof.Machine.execResetRelease pcieEn s
  | .resetAssert lowNs => Sys2Proof.Machine.execResetAssert lowNs s
  | .powerLoss => Sys2Proof.Machine.execPowerLoss s
  | .refclkQualified ok0 ok1 => Sys2Proof.Machine.execRefclkQualified ok0 ok1 s
  | .refclkLoss ref => Sys2Proof.Machine.execRefclkLoss ref s
  | .dieReady die => Sys2Proof.Machine.execDieReady die s
  | .dieRelease => Sys2Proof.Machine.execDieRelease s
  | .dieReadyTimeout die => Sys2Proof.Machine.execDieReadyTimeout die s
  | .d2dInterfaceFail n => Sys2Proof.Machine.execD2dInterfaceFail n s
  | .enclaveStartUp => Sys2Proof.Machine.execEnclaveStartUp s
  | .headerCheck => Sys2Proof.Machine.execHeaderCheck s
  | .ecdsaVerifyDone => Sys2Proof.Machine.execEcdsaVerifyDone s
  | .lmsVerifyDone => Sys2Proof.Machine.execLmsVerifyDone s
  | .sramWipeDone => Sys2Proof.Machine.execSramWipeDone s
  | .hbmTrained trained twoBad => Sys2Proof.Machine.execHbmTrained trained twoBad s
  | .controlPartitionWiped => Sys2Proof.Machine.execControlPartitionWiped s
  | .reservoirWipeDone => Sys2Proof.Machine.execReservoirWipeDone s
  | .wipeFail unit => Sys2Proof.Machine.execWipeFail unit s
  | .imageReadDone readOk => Sys2Proof.Machine.execImageReadDone readOk s
  | .imageApply => Sys2Proof.Machine.execImageApply s
  | .kernelLoad n => Sys2Proof.Machine.execKernelLoad n s
  | .bootRun w => Sys2Proof.Machine.execBootRun w s
  | .loaderTftpWrite t => Sys2Proof.Machine.execLoaderTftpWrite t s
  | .loaderFlashWritten readBack => Sys2Proof.Machine.execLoaderFlashWritten readBack s
  | .softReset w => Sys2Proof.Machine.execSoftReset w s
  | .lcRequest w => Sys2Proof.Machine.execLcRequest w s
  | .lcBurnDone => Sys2Proof.Machine.execLcBurnDone s
  | .keyRevoke w => Sys2Proof.Machine.execKeyRevoke w s
  | .svnAdvance w => Sys2Proof.Machine.execSvnAdvance w s
  | .programOwnerSlot w => Sys2Proof.Machine.execProgramOwnerSlot w s
  | .supplyLcRecord w => Sys2Proof.Machine.execSupplyLcRecord w s
  | .checkImageRegion w => Sys2Proof.Machine.execCheckImageRegion w s
  | .getVersion v => Sys2Proof.Machine.execGetVersion v s
  | .getCapabilities v => Sys2Proof.Machine.execGetCapabilities v s
  | .negotiateAlgorithms v => Sys2Proof.Machine.execNegotiateAlgorithms v s
  | .getDigests v => Sys2Proof.Machine.execGetDigests v s
  | .getCertificate v slot off len => Sys2Proof.Machine.execGetCertificate v slot off len s
  | .challenge v slot nonce => Sys2Proof.Machine.execChallenge v slot nonce s
  | .getMeasurements v index signed nonce => Sys2Proof.Machine.execGetMeasurements v index signed nonce s
  | .keyExchange v slot nonce => Sys2Proof.Machine.execKeyExchange v slot nonce s
  | .finish v proof => Sys2Proof.Machine.execFinish v proof s
  | .turnBoundary n => Sys2Proof.Machine.execTurnBoundary n s
  | .thermalTrip die => Sys2Proof.Machine.execThermalTrip die s
  | .pwrlimAssert lowNs => Sys2Proof.Machine.execPwrlimAssert lowNs s
  | .pwrlimDeassert => Sys2Proof.Machine.execPwrlimDeassert s
  | .ethLinkStartTimeout p => Sys2Proof.Machine.execEthLinkStartTimeout p s
  | .signalDetect p => Sys2Proof.Machine.execSignalDetect p s
  | .equalisationDone p => Sys2Proof.Machine.execEqualisationDone p s
  | .markerLock p => Sys2Proof.Machine.execMarkerLock p s
  | .deskewDone p skewNs => Sys2Proof.Machine.execDeskewDone p skewNs s
  | .peerExchange p => Sys2Proof.Machine.execPeerExchange p s
  | .markerReceive l payload => Sys2Proof.Machine.execMarkerReceive l payload s
  | .linkSignalLoss l => Sys2Proof.Machine.execLinkSignalLoss l s
  | .pairReceive p x => Sys2Proof.Machine.execPairReceive p x s
  | .nakRepeatTimeout p => Sys2Proof.Machine.execNakRepeatTimeout p s
  | .retryTimeout p => Sys2Proof.Machine.execRetryTimeout p s
  | .packetArrival p f => Sys2Proof.Machine.execPacketArrival p f s
  | .pipelineTake p => Sys2Proof.Machine.execPipelineTake p s
  | .packetTailArrival id extra => Sys2Proof.Machine.execPacketTailArrival id extra s
  | .builtPacketAdmit software => Sys2Proof.Machine.execBuiltPacketAdmit software s
  | .timeExchangeSend p => Sys2Proof.Machine.execTimeExchangeSend p s
  | .timeExchangeReceive p bytes t4 replayed => Sys2Proof.Machine.execTimeExchangeReceive p bytes t4 replayed s
  | .pfcFrameReceive p bytes => Sys2Proof.Machine.execPfcFrameReceive p bytes s
  | .pfcRefresh p tc => Sys2Proof.Machine.execPfcRefresh p tc s
  | .fastRelockStart p => Sys2Proof.Machine.execFastRelockStart p s
  | .relockStreamDone p => Sys2Proof.Machine.execRelockStreamDone p s
  | .relockTimeout p => Sys2Proof.Machine.execRelockTimeout p s
  | .relockCapture p w => Sys2Proof.Machine.execRelockCapture p w s
  | .loopbackSet p w => Sys2Proof.Machine.execLoopbackSet p w s
  | .portAdminWrite p w => Sys2Proof.Machine.execPortAdminWrite p w s
  | .laneShiftWrite x w => Sys2Proof.Machine.execLaneShiftWrite x w s
  | .tableNop => Sys2Proof.Machine.execTableNop s
  | .tableWrite => Sys2Proof.Machine.execTableWrite s
  | .tableDelete => Sys2Proof.Machine.execTableDelete s
  | .tableRead => Sys2Proof.Machine.execTableRead s
  | .tableBatchOvercost => Sys2Proof.Machine.execTableBatchOvercost s
  | .macAgingQuantum => Sys2Proof.Machine.execMacAgingQuantum s
  | .spillPageWrite q bad => Sys2Proof.Machine.execSpillPageWrite q bad s
  | .spillPrefetch q => Sys2Proof.Machine.execSpillPrefetch q s
  | .prefetchComplete q uncorrectable => Sys2Proof.Machine.execPrefetchComplete q uncorrectable s
  | .quotaWrite addr w => Sys2Proof.Machine.execQuotaWrite addr w s
  | .egressDequeue p bad => Sys2Proof.Machine.execEgressDequeue p bad s
  | .multicastReplicate q => Sys2Proof.Machine.execMulticastReplicate q s
  | .multicastResidueServe q p => Sys2Proof.Machine.execMulticastResidueServe q p s
  | .multicastResidueAge => Sys2Proof.Machine.execMulticastResidueAge s
  | .downflushExpiry p => Sys2Proof.Machine.execDownflushExpiry p s
  | .queueFlush w => Sys2Proof.Machine.execQueueFlush w s
  | .queueFlushDone => Sys2Proof.Machine.execQueueFlushDone s
  | .remoteLevelExpiry p => Sys2Proof.Machine.execRemoteLevelExpiry p s
  | .congestionMap => Sys2Proof.Machine.execCongestionMap s
  | .scheduleSwapRequest w => Sys2Proof.Machine.execScheduleSwapRequest w s
  | .scheduleSwap => Sys2Proof.Machine.execScheduleSwap s
  | .basinContribution uncorrectable => Sys2Proof.Machine.execBasinContribution uncorrectable s
  | .chunkEmit ctx bad => Sys2Proof.Machine.execChunkEmit ctx bad s
  | .downResultRebroadcast => Sys2Proof.Machine.execDownResultRebroadcast s
  | .basinAbortPacket => Sys2Proof.Machine.execBasinAbortPacket s
  | .basinAbortWrite w => Sys2Proof.Machine.execBasinAbortWrite w s
  | .chunkTimeout ctx => Sys2Proof.Machine.execChunkTimeout ctx s
  | .tombstoneRetire ctx => Sys2Proof.Machine.execTombstoneRetire ctx s
  | .sluDescriptorTake q => Sys2Proof.Machine.execSluDescriptorTake q s
  | .sluNop q => Sys2Proof.Machine.execSluNop q s
  | .lrp q => Sys2Proof.Machine.execLrp q s
  | .lrx q => Sys2Proof.Machine.execLrx q s
  | .outer q => Sys2Proof.Machine.execOuter q s
  | .req q => Sys2Proof.Machine.execReq q s
  | .pool q => Sys2Proof.Machine.execPool q s
  | .loadableKernel q cycles outside writes => Sys2Proof.Machine.execLoadableKernel q cycles outside writes s
  | .tileDispatch die engine => Sys2Proof.Machine.execTileDispatch die engine s
  | .tileComplete die engine poison => Sys2Proof.Machine.execTileComplete die engine poison s
  | .sluCompletion q => Sys2Proof.Machine.execSluCompletion q s
  | .sluWatchdogTimeout q => Sys2Proof.Machine.execSluWatchdogTimeout q s
  | .sluQueueFlush q w => Sys2Proof.Machine.execSluQueueFlush q w s
  | .sluFlushApply q => Sys2Proof.Machine.execSluFlushApply q s
  | .sluEngineFault die engine => Sys2Proof.Machine.execSluEngineFault die engine s
  | .ringConfigWrite addr w => Sys2Proof.Machine.execRingConfigWrite addr w s
  | .haulFrameReceive p bytes t4 => Sys2Proof.Machine.execHaulFrameReceive p bytes t4 s
  | .haulDelivery k share => Sys2Proof.Machine.execHaulDelivery k share s
  | .haulFrameSend p => Sys2Proof.Machine.execHaulFrameSend p s
  | .stripeTimeout k => Sys2Proof.Machine.execStripeTimeout k s
  | .keepaliveSend k route => Sys2Proof.Machine.execKeepaliveSend k route s
  | .haulAckSend k => Sys2Proof.Machine.execHaulAckSend k s
  | .haulNakRepeat k share => Sys2Proof.Machine.execHaulNakRepeat k share s
  | .haulRtoExpiry k share hseq => Sys2Proof.Machine.execHaulRtoExpiry k share hseq s
  | .reseqGapTimeout k share => Sys2Proof.Machine.execReseqGapTimeout k share s
  | .keepaliveMiss k route => Sys2Proof.Machine.execKeepaliveMiss k route s
  | .haulHoldExpiry k => Sys2Proof.Machine.execHaulHoldExpiry k s
  | .haulSwitch k w => Sys2Proof.Machine.execHaulSwitch k w s
  | .haulRevert k => Sys2Proof.Machine.execHaulRevert k s
  | .controlRingSend => Sys2Proof.Machine.execControlRingSend s
  | .saValidWrite p dir an w => Sys2Proof.Machine.execSaValidWrite p dir an w s
  | .haulLinkDisable k w => Sys2Proof.Machine.execHaulLinkDisable k w s
  | .flumeDescriptorTake q => Sys2Proof.Machine.execFlumeDescriptorTake q s
  | .flumeNop q => Sys2Proof.Machine.execFlumeNop q s
  | .encode q => Sys2Proof.Machine.execEncode q s
  | .decode q => Sys2Proof.Machine.execDecode q s
  | .snap q => Sys2Proof.Machine.execSnap q s
  | .fold q => Sys2Proof.Machine.execFold q s
  | .flumeCompletion q => Sys2Proof.Machine.execFlumeCompletion q s
  | .tallyRead => Sys2Proof.Machine.execTallyRead s
  | .tallyWrite => Sys2Proof.Machine.execTallyWrite s
  | .tallyAdd => Sys2Proof.Machine.execTallyAdd s
  | .tallyCas => Sys2Proof.Machine.execTallyCas s
  | .tallyMax => Sys2Proof.Machine.execTallyMax s
  | .tallyLineFill line => Sys2Proof.Machine.execTallyLineFill line s
  | .tallyEntryApply line => Sys2Proof.Machine.execTallyEntryApply line s
  | .tallyResponseBuild line => Sys2Proof.Machine.execTallyResponseBuild line s
  | .tallyRegionRelease w => Sys2Proof.Machine.execTallyRegionRelease w s
  | .jobBatchStage => Sys2Proof.Machine.execJobBatchStage s
  | .jobUpdateNop => Sys2Proof.Machine.execJobUpdateNop s
  | .activate => Sys2Proof.Machine.execActivate s
  | .teardown => Sys2Proof.Machine.execTeardown s
  | .groupEntryWrite => Sys2Proof.Machine.execGroupEntryWrite s
  | .groupMapWrite => Sys2Proof.Machine.execGroupMapWrite s
  | .scatterEntryWrite => Sys2Proof.Machine.execScatterEntryWrite s
  | .canalEntryWrite => Sys2Proof.Machine.execCanalEntryWrite s
  | .jobDrainOverdue j => Sys2Proof.Machine.execJobDrainOverdue j s
  | .jobQuarantineEnd j => Sys2Proof.Machine.execJobQuarantineEnd j s
  | .canalStall slot => Sys2Proof.Machine.execCanalStall slot s
  | .timeInputLoss input => Sys2Proof.Machine.execTimeInputLoss input s
  | .holdoverExpiry => Sys2Proof.Machine.execHoldoverExpiry s
  | .timeSnapshot w => Sys2Proof.Machine.execTimeSnapshot w s
  | .setgo w => Sys2Proof.Machine.execSetgo w s
  | .slewgo w => Sys2Proof.Machine.execSlewgo w s
  | .adjgo w => Sys2Proof.Machine.execAdjgo w s
  | .tsInEdge n falling sub => Sys2Proof.Machine.execTsInEdge n falling sub s
  | .capturePop n w => Sys2Proof.Machine.execCapturePop n w s
  | .ppsRise k => Sys2Proof.Machine.execPpsRise k s
  | .ppsFall k => Sys2Proof.Machine.execPpsFall k s
  | .moduleInsert m matches_ f => Sys2Proof.Machine.execModuleInsert m matches_ f s
  | .moduleRemove m => Sys2Proof.Machine.execModuleRemove m s
  | .moduleInterrupt m f => Sys2Proof.Machine.execModuleInterrupt m f s
  | .moduleFlagPoll m f => Sys2Proof.Machine.execModuleFlagPoll m f s
  | .retuneComplete m timedOut tuned => Sys2Proof.Machine.execRetuneComplete m timedOut tuned s
  | .spareTakeoverDone l ok tuned => Sys2Proof.Machine.execSpareTakeoverDone l ok tuned s
  | .busTransactionEnd m e => Sys2Proof.Machine.execBusTransactionEnd m e s
  | .moduleMailbox m w => Sys2Proof.Machine.execModuleMailbox m w s
  | .bypassArm w => Sys2Proof.Machine.execBypassArm w s
  | .bypassCancel w => Sys2Proof.Machine.execBypassCancel w s
  | .bypassTrigger n => Sys2Proof.Machine.execBypassTrigger n s
  | .arm => Sys2Proof.Machine.execArm s
  | .cancel => Sys2Proof.Machine.execCancel s
  | .ack => Sys2Proof.Machine.execAck s
  | .nak => Sys2Proof.Machine.execNak s
  | .bypassAckCheck plan => Sys2Proof.Machine.execBypassAckCheck plan s
  | .bypassLeaveSets plan => Sys2Proof.Machine.execBypassLeaveSets plan s
  | .bypassStep0 plan => Sys2Proof.Machine.execBypassStep0 plan s
  | .bypassStep1 plan => Sys2Proof.Machine.execBypassStep1 plan s
  | .bypassStep2 plan => Sys2Proof.Machine.execBypassStep2 plan s
  | .bypassStep3 plan => Sys2Proof.Machine.execBypassStep3 plan s
  | .bypassAbandonEnd plan => Sys2Proof.Machine.execBypassAbandonEnd plan s
  | .counterPairRead r n => Sys2Proof.Machine.execCounterPairRead r n s
  | .counterClearRequest w => Sys2Proof.Machine.execCounterClearRequest w s
  | .snapshotSetDue set => Sys2Proof.Machine.execSnapshotSetDue set s
  | .userWindowRead r off => Sys2Proof.Machine.execUserWindowRead r off s
  | .eventRingEnable w => Sys2Proof.Machine.execEventRingEnable w s
  | .lanePositionFail l => Sys2Proof.Machine.execLanePositionFail l s
  | .laneFailWrite x w => Sys2Proof.Machine.execLaneFailWrite x w s
  | .bankSpareDone commons bank spare => Sys2Proof.Machine.execBankSpareDone commons bank spare s
  | .channelSpareDone stack channel => Sys2Proof.Machine.execChannelSpareDone stack channel s
  | .basinLaneFault lane => Sys2Proof.Machine.execBasinLaneFault lane s
  | .flumeEngineFault e => Sys2Proof.Machine.execFlumeEngineFault e s
  | .coreMachineCheck core => Sys2Proof.Machine.execCoreMachineCheck core s
  | .bistSerdesLane l w => Sys2Proof.Machine.execBistSerdesLane l w s
  | .bistSluiceEngine e w => Sys2Proof.Machine.execBistSluiceEngine e w s
  | .bistFlumeEngine e w => Sys2Proof.Machine.execBistFlumeEngine e w s
  | .bistBasinLane l w => Sys2Proof.Machine.execBistBasinLane l w s
  | .bistD2dLoopback n w => Sys2Proof.Machine.execBistD2dLoopback n w s
  | .bistHbmPhy stack w => Sys2Proof.Machine.execBistHbmPhy stack w s
  | .bistHbmMemory stack w => Sys2Proof.Machine.execBistHbmMemory stack w s
  | .bistSramMarch n w => Sys2Proof.Machine.execBistSramMarch n w s
  | .bistComplete pass => Sys2Proof.Machine.execBistComplete pass s
  | .bypass => Sys2Proof.Machine.execBypass s
  | .idcode => Sys2Proof.Machine.execIdcode s
  | .samplePreload => Sys2Proof.Machine.execSamplePreload s
  | .extest => Sys2Proof.Machine.execExtest s
  | .extestPulse => Sys2Proof.Machine.execExtestPulse s
  | .extestTrain => Sys2Proof.Machine.execExtestTrain s
  | .clamp => Sys2Proof.Machine.execClamp s
  | .highz => Sys2Proof.Machine.execHighz s
  | .mgmtFrameReceive n bytes => Sys2Proof.Machine.execMgmtFrameReceive n bytes s
  | .mgmtMediaRetry => Sys2Proof.Machine.execMgmtMediaRetry s
  | .pciePerstRelease => Sys2Proof.Machine.execPciePerstRelease s
  | .pcieFlr => Sys2Proof.Machine.execPcieFlr s
  | .pcieHotReset => Sys2Proof.Machine.execPcieHotReset s
  | .msixDoorbell w => Sys2Proof.Machine.execMsixDoorbell w s
  | .lowWordRead r addr => Sys2Proof.Machine.execLowWordRead r addr s
  | .lowWordWrite addr w => Sys2Proof.Machine.execLowWordWrite addr w s
  | .highWordWrite addr w => Sys2Proof.Machine.execHighWordWrite addr w s
  | .readClear r addr => Sys2Proof.Machine.execReadClear r addr s
  | .csrAccessFault hart addr bytes write => Sys2Proof.Machine.execCsrAccessFault hart addr bytes write s
  | .registerWrite addr w => Sys2Proof.Machine.execRegisterWrite addr w s
  | .referenceRestored ref => Sys2Proof.Machine.execReferenceRestored ref s
  | .ethLinkUp p => Sys2Proof.Machine.execEthLinkUp p s
  | .pfcPauseExpiry p pri => Sys2Proof.Machine.execPfcPauseExpiry p pri s
  | .mgmtPortUp n => Sys2Proof.Machine.execMgmtPortUp n s
  | .mgmtPortDown n => Sys2Proof.Machine.execMgmtPortDown n s
  | .pciePerstAssert => Sys2Proof.Machine.execPciePerstAssert s
  | .pcieD3hotEntry => Sys2Proof.Machine.execPcieD3hotEntry s
  | .bar0UnsupportedRequest addr bytes write => Sys2Proof.Machine.execBar0UnsupportedRequest addr bytes write s
  | .controlCoreLoad hart addr uncorrectable => Sys2Proof.Machine.execControlCoreLoad hart addr uncorrectable s

end Sys2Proof.Machine
end

