-- ==== Sys2Proof/Machine/Tick.lean ====
section
/-! DEFINITION. The passage of time: one tick of the 1.25 GHz time clock (R18, R409). -/

namespace Sys2Proof.Machine

/-- RAW advances by 1 while the control die's PLLs run and the device has not stopped (R18, R21, R91, R409). -/
def tick (d : Dev) : Dev :=
  if d.running && d.dieReady 0 then { d with time := { d.time with raw := (d.time.raw + 1) % 2 ^ 64 } } else d

end Sys2Proof.Machine
end

