-- ==== Sys2Proof/Safety.lean ====
section
/-! DEFINITION. What a safe run is, the canonical form of memory, and what legal fuses and their growth are: the terms that statements use. -/

namespace Sys2Proof

/-- The outcome is a next state. -/
def isNext {σ φ ρ : Type} (o : Host.Outcome σ φ ρ) : Bool :=
  match o with
  | .next _ => true
  | _ => false

/-- The next n steps from s answer next states. -/
def safeFor (n : Nat) (s : Machine.State) : Bool := isNext (core.run n s)

namespace Machine

/-- The machine with another device: its queue, fuses and flash stay. -/
def State.setDev (s : State) (d : Dev) : State := { s with dev := d }

/-- The canonical form of memory: addresses strictly rising, and no byte listed that an unlisted address reads as (zero). -/
def Memory.wf (m : List Host.Cell) : Bool := SMap.sorted m && m.all (fun c => c.2 != 0)

/-- Four key slots and at most 64 SVN bits (R56, R57). -/
def fusesLegal (f : Fuses) : Prop := f.slots.length = 4 ∧ f.svn ≤ 64

/-- What a fuse can do: bits are burned and stay (R56, R57, R70, R73). -/
def fusesGain (f g : Fuses) : Prop :=
  f.svn ≤ g.svn ∧ (f.uds ≠ [] → g.uds = f.uds) ∧ g.slots.length = f.slots.length ∧
  g.part = f.part ∧ g.stepping = f.stepping ∧ g.portDies = f.portDies ∧ g.hbmStacks = f.hbmStacks ∧ g.compute = f.compute ∧ g.words = f.words ∧
  ∀ (n : Nat) (k : KeySlot), f.slots[n]? = some k →
    ∃ j : KeySlot, g.slots[n]? = some j ∧ (k.revoked = true → j.revoked = true) ∧ (k.programmed = true → j.programmed = true)

end Machine

end Sys2Proof
end

