-- ==== Sys2Proof/Certificates/Slice0/Obligations.lean ====
section
/-! DEFINITION. Statements about the model for the provers. A clause `exec c s = .next ...` says that the command completes and gives its whole
next state: what the right side does not change is the command's frame. -/

open Sys2Proof Sys2Proof.Machine

/-! ### The block -/

/-- A step takes the command at the front of the queue and runs it with the queue's rest; with no command waiting a tick of the time clock
passes (the model's choice, log 2). -/
def Obligations.StepRunsFront : Prop :=
  (∀ (s : State) (c : Instr) (rest : List Instr), step { s with pending := c :: rest } = exec c { s with pending := rest }) ∧
  (∀ s : State, step { s with pending := [] } = .next { s with pending := [], dev := tick s.dev })

/-- No command ends in a fault or a refusal, and none touches the queue of commands that wait. -/
def Obligations.EveryCommandCompletes : Prop :=
  ∀ (c : Instr) (s : State), ∃ t : State, exec c s = .next t ∧ t.pending = s.pending

/-- R56, R57, R70: fuses only ever gain. From fuses with four slots and at most 64 SVN bits, a step leaves four slots and at most 64 bits, burns
no SVN bit back, revokes no revocation, un-programs no slot and keeps the UDS. -/
def Obligations.FusesOnlyGain : Prop :=
  ∀ s t : State, fusesLegal s.fuses → step s = .next t → fusesLegal t.fuses ∧ fusesGain s.fuses t.fuses

/-- The fuses the model starts with are legal (the part is the model's choice, log 1). -/
def Obligations.ResetFusesLegal : Prop := fusesLegal State.reset.fuses

/-- What RESET_N leaves (R24, R65, R68, R82, R88, R407, R430, R451, R518): the words that are not zero, no byte of memory, no packet, job, table
entry or link state. -/
def Obligations.ResetLeaves : Prop :=
  ∀ (f : Fuses) (cause stp : Fin 4) (n : Nat) (o : List Emission),
    let d := Dev.fresh f cause stp n o
    d.get R.GLB_RST_CAUSE_PIN = b2n (cause == 0) ∧ d.get R.GLB_RST_CAUSE_SOFT = b2n (cause == 1) ∧
    d.get R.GLB_RST_CAUSE_LC = b2n (cause == 2) ∧ d.get R.GLB_RST_CAUSE_LOADER = b2n (cause == 3) ∧ d.get R.GLB_RST_CAUSE_STOP = stp.val ∧
    d.dieState 0 = 1 ∧ d.dieState 1 = 1 ∧ (∀ k : Fin 8, d.dieState (k.val + 2) = b2n (f.portDies.getLsbD k.val)) ∧
    (∀ m : Fin 2, d.dieState (m.val + 10) = b2n (f.compute.getLsbD m.val)) ∧
    (∀ c : Fin 8, d.get (R.GLB_PWR_GRANT_DUTY c.val) = 128) ∧ d.get R.TIME_STATUS_PARENT = 0x7FF ∧ d.get (R.MGT_MP_CFG_FEC 0) = 2 ∧
    d.get (R.MGT_MP_CFG_FEC 1) = 2 ∧ d.turn = 0 ∧ d.get R.SEC_BOOT_STATUS_STAGE = 0 ∧
    (∀ a, R.GLB_PWR_GRANT 8 ≤ a → a < R.TIME_STATUS → d.rd a = 0) ∧ (∀ a, R.FWD_JOB 1 ≤ a → d.rd a = 0) ∧
    (∀ sp a, d.readByte sp a = 0) ∧ d.poison = [] ∧ d.locks = [] ∧ d.latch = [] ∧ d.heldLow = [] ∧
    d.links = [] ∧ d.tables = .init ∧ d.cist = .init ∧ d.jobs = .init ∧ d.gauge = .init

/-- R499, R502, R65, R68, R22: the pins RESET_N and the rails, and a write of GLB_RST_CTL. STOP survives RESET_N and not a loss of power; a pulse
under 1 µs is filtered out, one from 1 µs to 10 µs takes effect or not, which a free value decides; KEY must be 0x5A17. A reset that cuts a
life-cycle burn short leaves any number of its three copies burned (R72). -/
def Obligations.ResetPins : Prop :=
  (∀ (s : State) (en : Bool), s.dev.power = .off →
    exec (.resetRelease en) s = .next (s.setDev ((restart s.fuses 0 0 s.dev).set R.MGT_PCIE_CFG_FITTED (b2n en)))) ∧
  (∀ (s : State) (en : Bool) (c : Fin 4), s.dev.power = .resetLow c →
    exec (.resetRelease en) s = .next (s.setDev ((restart s.fuses 0 c s.dev).set R.MGT_PCIE_CFG_FITTED (b2n en)))) ∧
  (∀ (s : State) (n : Nat), n < 1000 → exec (.resetAssert n) s = .next s) ∧
  (∀ (s : State) (n : Nat), 10000 ≤ n → s.dev.power ≠ .off → s.dev.boot.pendingLc = none →
    exec (.resetAssert n) s = .next (s.setDev ({ restart s.fuses 0 (stopCode s.dev) s.dev with power := .resetLow (stopCode s.dev) }))) ∧
  (∀ (s : State) (n : Nat), 1000 ≤ n → n < 10000 → s.dev.power ≠ .off → s.dev.boot.pendingLc = none →
    exec (.resetAssert n) s = .next (s.setDev (if (Config.freeValue s.dev.freeCtr).getLsbD 0 then holdReset s.fuses s.dev.draw.2 else s.dev.draw.2))) ∧
  (∀ s : State, s.dev.boot.pendingLc = none →
    exec .powerLoss s = .next (s.setDev ({ Dev.fresh s.fuses 0 0 s.dev.freeCtr s.dev.outbox with power := .off }))) ∧
  (∀ (s : State) (x : BitVec 3), s.dev.boot.pendingLc = some x →
    ∃ t : State, exec .powerLoss s = .next t ∧ t.dev.power = .off ∧ t.dev.boot.pendingLc = none ∧
      ∃ n : Nat, n ≤ 3 ∧ t.fuses = burnCopies n x s.fuses) ∧
  (∀ (s : State) (w : CsrW), s.dev.running = true → s.dev.boot.pendingLc = none → wBits w R.GLB_RST_CTL_KEY = 0x5A17 →
    wOn w R.GLB_RST_CTL_DEVICE = true →
    exec (.softReset w) s = .next (s.setDev (restart s.fuses 1 0 (countCsr w.req R.GLB_RST_CTL 1 3 s.dev)))) ∧
  (∀ (s : State) (w : CsrW), s.dev.running = true → wBits w R.GLB_RST_CTL_KEY ≠ 0x5A17 →
    exec (.softReset w) s = .next (s.setDev (discardHeld w.req R.GLB_RST_CTL (countCsr w.req R.GLB_RST_CTL 1 3 s.dev))))

/-- R19, R20, R21: REFCLK0 is chosen when it qualifies, else REFCLK1; the loss of the reference in use switches to the other with a CE event, or
stops the device with a FATAL event; a reference that comes back is no longer lost. -/
def Obligations.References : Prop :=
  (∀ (s : State) (a b : Bool), s.dev.running = true → s.dev.boot.clocked = false → (a || b) = true →
    exec (.refclkQualified a b) s = .next { s with dev :=
      { ((s.dev.set R.GLB_REFCLK_LOS0 (b2n !a)).set R.GLB_REFCLK_LOS1 (b2n !b)).set R.GLB_REFCLK_ACTIVE (b2n !a) with
        boot := { s.dev.boot with clocked := true, released := s.dev.boot.released ||| 1 } } }) ∧
  (∀ (s : State) (r : Fin 2), s.dev.running = true → s.dev.boot.clocked = true → s.dev.get R.GLB_REFCLK_ACTIVE = r.val →
    autoSwitch s.dev = true → s.dev.on (losField (1 - r)) = false →
    exec (.refclkLoss r) s = .next (s.setDev (raiseCE blkGlb 2 (1 - r).val
      (((s.dev.set (losField r) 1).set R.GLB_REFCLK_ACTIVE (1 - r).val).set R.GLB_REFCLK_SWITCHED 1) r.val))) ∧
  (∀ (s : State) (r : Fin 2), s.dev.running = true → s.dev.boot.clocked = true → s.dev.get R.GLB_REFCLK_ACTIVE = r.val →
    (autoSwitch s.dev = false ∨ s.dev.on (losField (1 - r)) = true) →
    exec (.refclkLoss r) s = .next (s.setDev (stop 2 (raiseFatal blkGlb 3 r.val (s.dev.set (losField r) 1)
      (b2n (s.dev.on (losField (1 - r)))))))) ∧
  (∀ (s : State) (r : Fin 2), s.dev.running = true → s.dev.boot.clocked = true → s.dev.get R.GLB_REFCLK_ACTIVE ≠ r.val →
    exec (.refclkLoss r) s = .next (s.setDev (s.dev.set (losField r) 1))) ∧
  (∀ (s : State) (r : Fin 2), s.dev.running = true → s.dev.boot.clocked = true →
    exec (.referenceRestored r) s = .next (s.setDev (s.dev.set (losField r) 0)))

/-- R22, R23, R24, R529, R484: dies become ready or fail. -/
def Obligations.Dies : Prop :=
  (∀ (s : State) (k : DieNo), s.dev.running = true → s.dev.boot.released.getLsbD k.val = true → s.dev.dieState k.val = 1 →
    exec (.dieReady k) s = .next (s.setDev ((loadFuses s.fuses k.val s.dev).setDie k.val 2))) ∧
  (∀ (s : State) (k : Nat), s.dev.running = true → nextDie s.dev = some k → s.dev.dieReady 0 = true → (k = 1 ∨ s.dev.dieReady 1 = true) →
    exec .dieRelease s = .next (s.setDev ({ s.dev with boot := { s.dev.boot with
      released := s.dev.boot.released ||| BitVec.ofNat 12 (2 ^ k) } }))) ∧
  (∀ (s : State) (k : DieNo), s.dev.running = true → s.dev.boot.released.getLsbD k.val = true → s.dev.dieState k.val = 1 → k ≠ 0 →
    exec (.dieReadyTimeout k) s = .next (s.setDev (raiseFatal blkGlb 4 k.val (s.dev.setDie k.val 3)))) ∧
  (∀ s : State, s.dev.running = true → s.dev.boot.released.getLsbD 0 = true → s.dev.dieState 0 = 1 →
    exec (.dieReadyTimeout 0) s = .next (s.setDev (stop 3 (raiseFatal blkGlb 4 0 (s.dev.setDie 0 3)))))

/-- R53, R55, R58, R61: the enclave's start-up and the checks of the image, with STAGE after each. What has been read by then goes on its way. -/
def Obligations.ImageChecks : Prop :=
  (∀ s : State, s.dev.running = true → diesDone s.dev = true → s.dev.boot.enclaveUp = false → dieFailed s.dev = false →
    ∃ t : State, exec .enclaveStartUp s = .next t ∧ t.dev.get R.SEC_BOOT_STATUS_STAGE = 1 ∧ t.fuses = s.fuses ∧ t.flash = s.flash ∧
      t.dev.boot.enclaveUp = true ∧ t.dev.outbox = s.dev.outbox ++ [.pin "XSPI_RESET_N" true] ∧
      ((lcState s.fuses).toNat ≠ 4 → t.dev.boot = { s.dev.boot with enclaveUp := true } ∧ t.dev.freeCtr = s.dev.freeCtr + 2) ∧
      (∀ a, a ≠ R.SEC_BOOT_STATUS → a ≠ R.SEC_LC_NONCE 0 → a ≠ R.SEC_LC_NONCE 1 → a ≠ R.SEC_LC_NONCE 2 → t.dev.rd a = s.dev.rd a)) ∧
  (∀ s : State, s.dev.running = true → diesDone s.dev = true → s.dev.boot.enclaveUp = false → dieFailed s.dev = true →
    s.dev.get R.SEC_BOOT_STATUS_ERR = 0 →
    ∃ t : State, exec .enclaveStartUp s = .next t ∧ t.dev.get R.SEC_BOOT_STATUS_STAGE = 14 ∧ t.dev.get R.SEC_BOOT_STATUS_ERR = 17) ∧
  (∀ s : State, s.dev.running = true → stage s.dev = 1 → readErr s.fuses s.dev s.flash.image = none →
    exec .headerCheck s = .next (s.setDev (readTo s.flash.image (readAt 1000) (setStage 2 { s.dev with boot := { s.dev.boot with
      headerOk := true, header := flashBytes s.flash.image 0 128 } })))) ∧
  (∀ (s : State) (e : BootErr), s.dev.running = true → stage s.dev = 1 → readErr s.fuses s.dev s.flash.image = some e →
    exec .headerCheck s = .next (s.setDev (enterDefault e s.dev))) ∧
  (∀ s : State, s.dev.running = true → stage s.dev = 2 → s.dev.boot.ecdsaOk = false → contentErr s.dev s.flash.image (readAt 5000) = none →
    exec .ecdsaVerifyDone s = .next (s.setDev (if ecdsaVerify (slice (sigBlock s.flash.image) 4 96) (slice (sigBlock s.flash.image) 100 96)
        (flashBytes s.flash.image 0 128)
      then readTo s.flash.image (readAt 5000) (afterVerify { s.dev with boot := { s.dev.boot with ecdsaOk := true } })
      else enterDefault (6, 0) s.dev))) ∧
  (∀ s : State, s.dev.running = true → stage s.dev = 2 → s.dev.boot.lmsOk = false → contentErr s.dev s.flash.image (readAt 9000) = none →
    exec .lmsVerifyDone s = .next (s.setDev (if lmsSigOk (sigBlock s.flash.image) (flashBytes s.flash.image 0 128)
      then readTo s.flash.image (readAt 9000) (afterVerify { s.dev with boot := { s.dev.boot with lmsOk := true } })
      else enterDefault (7, 0) s.dev))) ∧
  (∀ d : Dev, (d.boot.ecdsaOk = true → d.boot.lmsOk = true → stage (afterVerify d) = 3) ∧
    ((d.boot.ecdsaOk = false ∨ d.boot.lmsOk = false) → afterVerify d = d)) ∧
  (∀ s : State, s.dev.running = true → (stage s.dev = 2 ∨ stage s.dev = 3) → s.dev.boot.imageRead = false →
    (contentErr s.dev s.flash.image (imgLen s.flash.image)).or (hashErr s.flash.image) = none →
    ∃ t : State, exec (.imageReadDone true) s = .next t ∧ t.dev.boot.imageRead = true ∧ t.dev.csr = s.dev.csr ∧
      t.fuses = s.fuses ∧ t.flash = s.flash ∧ t.dev.outbox = s.dev.outbox) ∧
  (∀ (s : State) (e : BootErr), s.dev.running = true → (stage s.dev = 2 ∨ stage s.dev = 3) → s.dev.boot.imageRead = false →
    (contentErr s.dev s.flash.image (imgLen s.flash.image)).or (hashErr s.flash.image) = some e →
    exec (.imageReadDone true) s = .next (s.setDev (enterDefault e s.dev))) ∧
  (∀ (e : BootErr) (d : Dev), stage (enterDefault e d) = 14 ∧ (enterDefault e d).boot.staging = [] ∧
    (d.get R.SEC_BOOT_STATUS_ERR ≠ 0 → (enterDefault e d).get R.SEC_BOOT_STATUS_ERR = d.get R.SEC_BOOT_STATUS_ERR) ∧
    (d.get R.SEC_BOOT_STATUS_ERR = 0 → (enterDefault e d).get R.SEC_BOOT_STATUS_ERR = e.1 % 256))

/-- R58, R60, R66, R67, R183: the wipe and the training of the stacks. What the flash read brings before the control-core partition is wiped waits in
the staging buffer. -/
def Obligations.Wipe : Prop :=
  (∀ s : State, s.dev.running = true → s.dev.boot.enclaveUp = true → s.dev.on R.GLB_WIPE_STATUS_SRAM_DONE = false →
    s.dev.on R.GLB_WIPE_STATUS_FAIL = false → s.dev.get R.GLB_LC_STATE ≠ 5 →
    exec .sramWipeDone s = .next (s.setDev ({ s.dev with commons := [], poison := s.dev.poison.filter (fun e => e.1 != 0) }.set
      R.GLB_WIPE_STATUS_SRAM_DONE 1))) ∧
  (∀ (s : State) (two : BitVec 8), s.dev.running = true → s.dev.boot.enclaveUp = true → s.dev.boot.hbmDone = false →
    let fit := BitVec.ofNat 8 (s.dev.get R.GLB_IDENT_FIT_STACKS)
    let d := trainStacks fit two s.dev
    d.boot.hbmDone = true ∧ d.get R.RES_STATUS_TRAINED = s.dev.get R.GLB_IDENT_FIT_STACKS ∧
    (∀ a, a ≠ R.RES_STATUS → d.rd a = s.dev.rd a) ∧
    (stage s.dev ≠ 2 → stage s.dev ≠ 3 → exec (.hbmTrained fit two) s = .next (s.setDev d)) ∧
    ((stage s.dev = 2 ∨ stage s.dev = 3) → contentErr d s.flash.image (readAt 6000) = none →
      exec (.hbmTrained fit two) s = .next (s.setDev (readTo s.flash.image (readAt 6000) d))) ∧
    (∀ e : BootErr, (stage s.dev = 2 ∨ stage s.dev = 3) → contentErr d s.flash.image (readAt 6000) = some e →
      exec (.hbmTrained fit two) s = .next (s.setDev (enterDefault e d)))) ∧
  (∀ (img : List Byte) (n : Nat) (d : Dev), d.boot.controlWiped = false → d.boot.flashRead ≤ n → n ≤ imgLen img →
    let e := readTo img n d
    e.boot.flashRead = n ∧ e.res = d.res ∧ e.csr = d.csr ∧
      e.boot.staging = d.boot.staging ++ flashBytes img d.boot.flashRead (n - d.boot.flashRead)) ∧
  (∀ s : State, s.dev.running = true → s.dev.boot.hbmDone = true → s.dev.boot.controlWiped = false →
    ∃ t : State, exec .controlPartitionWiped s = .next t ∧ t.dev.boot.controlWiped = true ∧ t.fuses = s.fuses ∧ t.flash = s.flash ∧
      ((stage s.dev = 2 ∨ stage s.dev = 3) → t.dev.boot.staging = []) ∧
      (stage s.dev ≠ 2 → stage s.dev ≠ 3 → ∀ a, inControlPart s.flash.image a = true → t.dev.readByte 1 a = 0)) ∧
  (∀ s : State, s.dev.running = true → s.dev.boot.controlWiped = true → s.dev.on R.GLB_WIPE_STATUS_RES_DONE = false →
    s.dev.on R.GLB_WIPE_STATUS_FAIL = false → s.dev.get R.GLB_LC_STATE ≠ 5 →
    exec .reservoirWipeDone s = .next (s.setDev (((wipeRes (fun a => !inControlPart s.flash.image a) s.dev).set
      R.GLB_WIPE_STATUS_RES_DONE 1).set R.GLB_WIPE_STATUS_PROGRESS 255))) ∧
  (∀ (f : Nat → Bool) (d : Dev) (a : Nat), (f a = true → (wipeRes f d).readByte 1 a = 0) ∧
    (f a = false → (wipeRes f d).readByte 1 a = d.readByte 1 a)) ∧
  (∀ (s : State) (u : Byte), s.dev.running = true → s.dev.boot.enclaveUp = true →
    (s.dev.on R.GLB_WIPE_STATUS_SRAM_DONE = false ∨ s.dev.on R.GLB_WIPE_STATUS_RES_DONE = false) →
    exec (.wipeFail u) s = .next (s.setDev (enterDefault (16, 0) (raiseFatal blkGlb 5 u.toNat
      ((s.dev.set R.GLB_WIPE_STATUS_FAIL 1).set R.GLB_WIPE_STATUS_UNIT u.toNat)))))

/-- R61, R63, R64, R526: the runtime's start, and the loader of the factory default state: over management port 0 and its link-local address it
takes the file "zinel", checks it as the flash image is checked, and resets once the flash reads back right. -/
def Obligations.RunAndLoader : Prop :=
  (∀ (s : State) (w : CsrW), s.dev.running = true → wOn w R.SEC_BOOT_RUN_RUN = true → stage s.dev = 4 →
    ∃ t : State, exec (.bootRun w) s = .next t ∧ t.dev.get R.SEC_BOOT_STATUS_STAGE = 5) ∧
  (∀ (s : State) (x : TftpPut), s.dev.factory = true → wipeComplete s.dev = true → s.dev.boot.loading = none →
    s.dev.on (R.MGT_MP_STAT_UP 0) = true → x.dst.toNat = linkLocal (s.dev.rd64 (R.MGT_MP_MAC 0)) →
    (x.name ≠ "zinel" → exec (.loaderTftpWrite x) s = .next (s.setDev (s.dev.emit (.tftpError none)))) ∧
    (x.name = "zinel" → tftpWhole x = true → x.blocks.flatten.length ≤ 124 * 2 ^ 20 →
      ∃ t : State, exec (.loaderTftpWrite x) s = .next t ∧ t.fuses = s.fuses ∧ t.flash = s.flash ∧ t.dev.csr = s.dev.csr ∧
        match imageErr s.fuses s.dev x.blocks.flatten with
        | none => t.dev.boot = { s.dev.boot with loading := some x.blocks.flatten }
        | some e => t.dev.boot = s.dev.boot ∧ t.dev.outbox.getLast? = some (.tftpError (some e.1)))) ∧
  (∀ (s : State) (x : TftpPut), s.dev.on (R.MGT_MP_STAT_UP 0) = false → exec (.loaderTftpWrite x) s = .next s) ∧
  (∀ (s : State) (img bs : List Byte), s.dev.factory = true → s.dev.boot.loading = some img →
    (sha384 (flashBytes bs 128 (sigOff img - 128)) = flashBytes img 32 48 →
      exec (.loaderFlashWritten bs) s = .next { s with flash := { s.flash with image := bs }, dev := restart s.fuses 3 0 s.dev }) ∧
    (sha384 (flashBytes bs 128 (sigOff img - 128)) ≠ flashBytes img 32 48 →
      ∃ t : State, exec (.loaderFlashWritten bs) s = .next t ∧ t.flash.image = bs ∧ t.dev.boot.loading = none ∧
        t.dev.get R.SEC_BOOT_STATUS_ERR = 14 ∧ t.dev.get R.SEC_BOOT_STATUS_SECT = 0 ∧ t.dev.get R.SEC_BOOT_STATUS_STAGE = stage s.dev))

/-- R56, R57, R70 to R72, R526: life cycle, key slots and SVN. -/
def Obligations.LifeCycle : Prop :=
  (∀ (s : State) (w : CsrW), s.dev.running = true → s.dev.boot.pendingLc = none →
    ∃ t : State, exec (.lcRequest w) s = .next t ∧ t.fuses = s.fuses ∧ t.flash = s.flash ∧ t.dev.boot.lcRecord = none ∧
      (lcAuthorised s.fuses s.dev (wBits w R.SEC_LC_REQ_TARGET) = true →
        t.dev.boot.pendingLc = some (BitVec.ofNat 3 (wBits w R.SEC_LC_REQ_TARGET)) ∧ t.dev.get R.SEC_LC_REQ_RESULT = 1 ∧
        t.dev.get R.SEC_LC_REQ_BUSY = 1) ∧
      (lcAuthorised s.fuses s.dev (wBits w R.SEC_LC_REQ_TARGET) = false →
        t.dev.boot.pendingLc = none ∧ t.dev.get R.SEC_LC_REQ_RESULT = 2)) ∧
  (∀ (s : State) (w : CsrW), s.dev.running = true → s.dev.boot.pendingLc ≠ none →
    ∃ t : State, exec (.lcRequest w) s = .next t ∧ t.fuses = s.fuses ∧ t.dev.boot = s.dev.boot ∧ t.dev.get R.SEC_LC_REQ_RESULT = 3) ∧
  (∀ (f : Fuses) (d : Dev) (x : Nat), lcAuthorised f d x = true →
    x = (lcState f).toNat + 1 ∧ x ≤ 4 ∨ x = 5 ∧ (lcState f).toNat ≠ 5) ∧
  (∀ (s : State) (x : BitVec 3), s.dev.running = true → s.dev.boot.pendingLc = some x →
    exec .lcBurnDone s = .next { s with fuses := burnCopies 3 x s.fuses, dev := restart (burnCopies 3 x s.fuses) 2 0 s.dev } ∧
    (burnCopies 3 x s.fuses).lc = (x, x, x)) ∧
  (∀ (n : Nat) (x : BitVec 3) (f : Fuses), f.lc.1 = f.lc.2.1 → f.lc.2.1 = f.lc.2.2 →
    lcState (burnCopies n x f) = if 2 ≤ n then x else lcState f) ∧
  (∀ (s : State) (w : CsrW), s.dev.running = true → s.dev.boot.pendingLc = none → wOn w R.SEC_KEY_REVOKE_GO = true →
    acceptedSlots s.fuses ≠ [wBits w R.SEC_KEY_REVOKE_SLOT] →
    ∃ t : State, exec (.keyRevoke w) s = .next t ∧ t.fuses = revokeSlot (wBits w R.SEC_KEY_REVOKE_SLOT) s.fuses ∧ t.flash = s.flash ∧
      t.dev.get R.SEC_KEY_REVOKE_RESULT = 1 ∧ t.dev.get R.SEC_KEY_REVOKE_GO = 0) ∧
  (∀ (s : State) (w : CsrW), s.dev.running = true → s.dev.boot.pendingLc = none → wOn w R.SEC_KEY_REVOKE_GO = true →
    acceptedSlots s.fuses = [wBits w R.SEC_KEY_REVOKE_SLOT] →
    ∃ t : State, exec (.keyRevoke w) s = .next t ∧ t.fuses = s.fuses ∧ t.dev.get R.SEC_KEY_REVOKE_RESULT = 2) ∧
  (∀ (s : State) (w : CsrW), s.dev.running = true → s.dev.boot.pendingLc = none → wOn w R.SEC_SVN_ADV_GO = true → s.fuses.svn ≤ 64 →
    s.fuses.svn < min (wBits w R.SEC_SVN_ADV_SVN) (s.dev.get R.SEC_BOOT_STATUS_SVN) →
    ∃ t : State, exec (.svnAdvance w) s = .next t ∧
      t.fuses = { s.fuses with svn := min 64 (min (wBits w R.SEC_SVN_ADV_SVN) (s.dev.get R.SEC_BOOT_STATUS_SVN)) } ∧
      t.flash = s.flash ∧ t.dev.get R.SEC_SVN_ADV_RESULT = 1 ∧ t.dev.get R.SEC_SVN_ADV_GO = 0) ∧
  (∀ (s : State) (w : CsrW) (k : KeySlot), s.dev.running = true → s.dev.boot.pendingLc = none → wOn w R.SEC_MBX_CTL_GO = true →
    wBits w R.SEC_MBX_CTL_CMD = 1 → wBits w R.SEC_MBX_CTL_SLOT ≠ 0 → (lcState s.fuses).toNat = 2 →
    s.fuses.slots[wBits w R.SEC_MBX_CTL_SLOT]? = some k → k.programmed = false → k.revoked = false →
    ∃ t : State, exec (.programOwnerSlot w) s = .next t ∧ t.flash = s.flash ∧
      t.fuses.slots[wBits w R.SEC_MBX_CTL_SLOT]? = 
        some ⟨(mbxBytes s.dev).take 48, slice (mbxBytes s.dev) 48 48, true, k.revoked⟩ ∧ t.dev.rd (R.SEC_MBX 0) = 0) ∧
  (∀ (s : State) (w : CsrW), s.dev.running = true → wOn w R.SEC_MBX_CTL_GO = true → wBits w R.SEC_MBX_CTL_CMD = 2 →
    ∃ t : State, exec (.supplyLcRecord w) s = .next t ∧ t.fuses = s.fuses ∧ t.dev.boot = { s.dev.boot with lcRecord := some (mbxBytes s.dev) } ∧
      t.dev.get R.SEC_MBX_CTL_ERR = 0 ∧ t.dev.rd (R.SEC_MBX 0) = 0) ∧
  (∀ (s : State) (w : CsrW), s.dev.running = true → wOn w R.SEC_MBX_CTL_GO = true → wBits w R.SEC_MBX_CTL_CMD = 3 →
    ∃ t : State, exec (.checkImageRegion w) s = .next t ∧ t.fuses = s.fuses ∧ t.flash = s.flash ∧ t.dev.boot = s.dev.boot ∧
      t.dev.get R.SEC_MBX_CTL_ERR = (match imageErr s.fuses s.dev s.flash.image with | none => 0 | some e => e.1 % 256) ∧
      t.dev.rd (R.SEC_MBX 0) = 0)

/-- R73 to R76: the responder's messages in order (their layouts are those of SPDM 1.3, log 8). A request comes over a port that is up; it is
answered in the clear, or in a session secured. -/
def Obligations.Attestation : Prop :=
  (∀ (v : SpdmVia) (req : List Byte) (f : Dev → List Byte × Dev) (d : Dev),
    ((answers d = false ∨ viaUp v d = false) → serve v req f d = d) ∧
    (answers d = true → viaUp v d = true → v.secured = [] → serve v req f d = answerClear v req (f d).1 (f d).2) ∧
    (answers d = true → viaUp v d = true → v.secured ≠ [] → d.spdm.phase = .session →
      openMsg (sessionSecret d 0 32) (sessionSecret d 32 12) d.spdm.taken v.secured = some ([5] ++ req) →
      serve v req f d = answerSealed v (f d).1 (f d).2) ∧
    (v.secured ≠ [] → d.spdm.phase ≠ .session → serve v req f d = d)) ∧
  (∀ (s : State) (v : SpdmVia), answers s.dev = true → viaUp v s.dev = true → v.secured = [] →
    exec (.getVersion v) s = .next (s.setDev (answerClear v [0x10, 0x84, 0, 0] [0x10, 0x04, 0, 0, 0, 1, 0, 0x13]
      { s.dev with spdm := { Spdm.init with phase := .versioned } })) ∧
    (s.dev.spdm.phase ≠ .idle → exec (.getCapabilities v) s = .next (s.setDev (answerClear v (spdmMsg 0xE1 0 0 [])
      (spdmMsg 0x61 0 0 ([0, Config.spdmLimits.1, 0, 0] ++ leBytes 4 (spdmFlags s.dev) ++ leBytes 4 Config.spdmLimits.2 ++
        leBytes 4 Config.spdmLimits.2)) (s.dev.phase .capable)))) ∧
    (s.dev.spdm.phase = .capable → exec (.negotiateAlgorithms v) s = .next (s.setDev (answerClear v (spdmMsg 0xE3 0 0 [])
      (spdmMsg 0x63 1 0 algorithmsRest) (s.dev.phase .negotiated))))) ∧
  (∀ (s : State) (v : SpdmVia), answers s.dev = true → viaUp v s.dev = true → v.secured = [] → noIdentity s.dev = false →
    afterNegotiation s.dev = true →
    let chain := certChain s.flash.identity s.dev
    exec (.getDigests v) s = .next (s.setDev (answerClear v (spdmMsg 0x81 0 0 []) (spdmMsg 0x01 1 1 (sha384 chain)) s.dev)) ∧
    (∀ off len : BitVec 16, off.toNat ≤ chain.length → exec (.getCertificate v 0 off len) s = .next (s.setDev
      (answerClear v (spdmMsg 0x82 0 0 (leBytes 2 off.toNat ++ leBytes 2 len.toNat))
        (spdmMsg 0x02 0 0 (certPortion chain off.toNat len.toNat)) s.dev))) ∧
    (∀ (k : Fin 8) (off len : BitVec 16), k ≠ 0 → exec (.getCertificate v k off len) s = .next (s.setDev
      (answerClear v (spdmMsg 0x82 (BitVec.ofNat 8 k.val) 0 (leBytes 2 off.toNat ++ leBytes 2 len.toNat)) (spdmError spdmInvalid) s.dev))) ∧
    (∀ nonce : List Byte, let req := spdmMsg 0x83 0 0 nonce
      let n := freeNonce s.dev
      let r := signedBy s.fuses req (spdmMsg 0x03 0 1 (sha384 chain ++ n.1 ++ [0, 0])) n.2
      exec (.challenge v 0 nonce) s = .next (s.setDev (answerClear v req r.1 r.2))) ∧
    (∀ nonce : List Byte, let req := spdmMsg 0xE4 0 0 nonce
      let n := freeNonce s.dev
      let r := signedBy s.fuses req (spdmMsg 0x64 0 0 (sha384 chain ++ n.1 ++ [0, 0])) n.2
      exec (.keyExchange v 0 nonce) s = .next (s.setDev (answerClear v req r.1 { r.2 with
        spdm := ⟨.handshake, r.2.spdm.transcript, Config.spdmSecrets (r.2.spdm.transcript ++ req ++ r.1), 0, 0⟩ })))) ∧
  (∀ (s : State) (v : SpdmVia) (i : Byte), answers s.dev = true → viaUp v s.dev = true → v.secured = [] → afterNegotiation s.dev = true →
    1 ≤ i.toNat → i.toNat ≤ 9 →
    let b := measurementBlock s.fuses i.toNat s.dev
    exec (.getMeasurements v i false []) s = .next (s.setDev (answerClear v (spdmMsg 0xE0 0 i [])
      (spdmMsg 0x60 0 0 ([1] ++ leBytes 3 b.length ++ b ++ (freeNonce s.dev).1 ++ [0, 0])) (freeNonce s.dev).2))) ∧
  (∀ (s : State) (v : SpdmVia) (proof : List Byte), answers s.dev = true → viaUp v s.dev = true → v.secured = [] → noIdentity s.dev = false →
    s.dev.spdm.phase = .handshake →
    (proof = hmac384 (sessionSecret s.dev 88 48) (sha384 s.dev.spdm.transcript) →
      exec (.finish v proof) s = .next (s.setDev (answerClear v (spdmMsg 0xE5 0 0 proof) (spdmMsg 0x65 0 0 []) (s.dev.phase .session)))) ∧
    (proof ≠ hmac384 (sessionSecret s.dev 88 48) (sha384 s.dev.spdm.transcript) →
      exec (.finish v proof) s = .next (s.setDev (answerClear v (spdmMsg 0xE5 0 0 proof) (spdmError spdmDecrypt) (s.dev.phase .negotiated))))) ∧
  (∀ (s : State) (v : SpdmVia), answers s.dev = true → viaUp v s.dev = true → v.secured = [] → noIdentity s.dev = true →
    exec (.getDigests v) s = .next (s.setDev (answerClear v (spdmMsg 0x81 0 0 []) (spdmError spdmUnsupported) s.dev)))

/-! ### The turn, power and heat -/

/-- R77, R79, R80, R82: the turn number at a boundary: 0 at the first, one more while free running, and with the boundary locked to the fabric
time the number of the boundary unit, where that is later, or whatever it is at a realignment. -/
def Obligations.TurnNumber : Prop :=
  (∀ (s : State) (i : TurnInput), s.dev.applied = true → s.dev.boot.turnsBegun = false →
    ∃ t : State, exec (.turnBoundary i) s = .next t ∧ t.dev.turn = 0) ∧
  (∀ (s : State) (i : TurnInput), s.dev.applied = true → s.dev.boot.turnsBegun = true → s.dev.get R.GLB_TURN_STATUS_MODE = 0 →
    s.dev.time.realignNext = false →
    ∃ t : State, exec (.turnBoundary i) s = .next t ∧ t.dev.turn = (s.dev.turn + 1) % 2 ^ 64) ∧
  (∀ (s : State) (i : TurnInput) (n : Nat), s.dev.applied = true → s.dev.boot.turnsBegun = true → s.dev.get R.GLB_TURN_STATUS_MODE ≠ 0 →
    s.dev.time.realignNext = false → (s.dev.now / turnUnit).toNat = n → s.dev.turn < n →
    ∃ t : State, exec (.turnBoundary i) s = .next t ∧ t.dev.turn = n % 2 ^ 64) ∧
  (∀ (s : State) (i : TurnInput), s.dev.applied = true → s.dev.boot.turnsBegun = true → s.dev.time.realignNext = true →
    ∃ t : State, exec (.turnBoundary i) s = .next t ∧ t.dev.turn = (s.dev.now / turnUnit).toNat % 2 ^ 64) ∧
  (∀ (s : State) (i : TurnInput), s.dev.applied = true → s.dev.boot.turnsBegun = true → s.dev.get R.GLB_TURN_STATUS_MODE ≠ 0 →
    s.dev.time.realignNext = false → (s.dev.now / turnUnit).toNat ≤ s.dev.turn → exec (.turnBoundary i) s = .next s)

/-- R84, R85: a class overrun is counted (the count saturates) and dated with the turn that ends; it raises a CE event unless one for the class
was raised at one of the last 4,096 boundaries. -/
def Obligations.Overruns : Prop :=
  (∀ (d : Dev) (c : Fin 8) (e : Nat), (noteOverrun e c.val d).get (R.GLB_TURN_OVR_COUNT c.val) =
      min 65535 (d.get (R.GLB_TURN_OVR_COUNT c.val) + 1) ∧
    (noteOverrun e c.val d).get (R.GLB_TURN_OVR_LASTTURN c.val) = e % 65536) ∧
  (∀ (d : Dev) (c : Fin 8) (e n : Nat), SMap.get? d.ras.ovrLast c.val = some n → d.ras.boundaries < n + 4096 →
    noteOverrun e c.val d = (d.bump (R.GLB_TURN_OVR_COUNT c.val)).set (R.GLB_TURN_OVR_LASTTURN c.val) e) ∧
  (∀ (d : Dev) (c : Fin 8) (e : Nat), (∀ n, SMap.get? d.ras.ovrLast c.val = some n → n + 4096 ≤ d.ras.boundaries) →
    noteOverrun e c.val d = raiseCE blkGlb 6 c.val
      (let x := (d.bump (R.GLB_TURN_OVR_COUNT c.val)).set (R.GLB_TURN_OVR_LASTTURN c.val) e
       { x with ras := { x.ras with ovrLast := SMap.put x.ras.ovrLast c.val x.ras.boundaries } }))

/-- R91, R501, R504: the thermal trip stops the device; PWRLIM_N low for 1 µs or more puts the lower budget in force. -/
def Obligations.PowerPins : Prop :=
  (∀ (s : State) (k : Fin 20), s.dev.running = true →
    exec (.thermalTrip k) s = .next (s.setDev
      ((stop 1 { s.dev with ras := { s.dev.ras with thermtrip := true } }).emit (.pin "THERMTRIP_N" false))) ∧
    (stop 1 s.dev).power = .stopped 1 ∧ (stop 1 s.dev).get R.GLB_RST_CAUSE_STOP = 1) ∧
  (∀ (s : State) (n : Nat), s.dev.running = true → 1000 ≤ n →
    exec (.pwrlimAssert n) s = .next (s.setDev ({ s.dev with ras := { s.dev.ras with pwrLow := true } }.set R.GLB_PWR_LIM_SEEN 1))) ∧
  (∀ (s : State) (n : Nat), n < 1000 → exec (.pwrlimAssert n) s = .next s) ∧
  (∀ s : State, exec .pwrlimDeassert s = .next (s.setDev { s.dev with ras := { s.dev.ras with pwrLow := false } })) ∧
  (∀ d : Dev, d.ras.pwrLow = true → budget d ≤ d.get R.GLB_PWR_LIM_WATTS) ∧
  (∀ d : Dev, budget d ≤ 2400 ∧ budget d ≤ d.get R.GLB_PWR_BUDGET_WATTS)

/-- R88, R87: a class keeps its minimum duty, and the arbiter gives none more than 128 or its MAXDUTY allows, but for that minimum. A compute
die whose queues hold no taken and no ready descriptor requests 0, so it keeps its minimum (R314). -/
def Obligations.DutyBounds : Prop :=
  ∀ (i : TurnInput) (d : Dev) (room : Int) (g : Nat × Nat), g ∈ (grantAll i d room).1 →
    minDuty d g.1 ≤ g.2 ∧ g.2 ≤ max (minDuty d g.1) (min 128 (d.get (R.GLB_PWR_CLASS_MAXDUTY g.1))) ∧ g.1 ∈ throttleable ∧
    (∀ m : Fin 2, g.1 = 5 + m.val → dieWorks d m.val = false → g.2 = minDuty d g.1)

/-- R53, R54, R58, R312, R490, R529: the image applied, a kernel loaded, a die-to-die interface that fails: one of the control die stops the device.
The excess of its retry count over 1,024 is free (log 30). -/
def Obligations.ApplyAndDieFail : Prop :=
  (∀ s : State, s.dev.running = true → stage s.dev = 3 → s.dev.boot.imageRead = true → wipeComplete s.dev = true →
    ∃ t : State, exec .imageApply s = .next t ∧ stage t.dev = 4 ∧ t.fuses = s.fuses ∧ t.flash = s.flash) ∧
  (∀ (s : State) (n : Nat), s.dev.applied = true → kernelThere (sectBytes s.flash.image 7) n = true →
    let lib := sectBytes s.flash.image 7
    let kid := beAt lib (kernelOff lib n) 1
    s.dev.boot.kernels.any (fun k => k.1.toNat == kid) = false →
    ((kid < 0x40 ∨ kernelOk s.fuses lib (kernelOff lib n) = false) → exec (.kernelLoad n) s = .next (s.setDev (raiseCE blkSec 2 kid s.dev))) ∧
    (0x40 ≤ kid → ∃ t : State, exec (.kernelLoad n) s = .next t ∧
      t.dev.boot.kernels = (if kernelOk s.fuses lib (kernelOff lib n) then s.dev.boot.kernels ++
        [(BitVec.ofNat 8 kid, beBits lib (kernelOff lib n + 2) 1 1 0, beAt lib (kernelOff lib n + 8) 4)] else s.dev.boot.kernels))) ∧
  (∀ s : State, s.dev.running = true → s.dev.dieState 0 ≠ 0 → s.dev.on (R.TEST_D2D_STAT_FAILED 10) = false →
    ∃ t : State, exec (.d2dInterfaceFail 10) s = .next t ∧ t.dev.power = .stopped 3 ∧ t.dev.dieState 0 = 3 ∧
      t.dev.get R.GLB_RST_CAUSE_STOP = 3 ∧ t.dev.get (R.TEST_D2D_STAT_FAILED 10) = 1) ∧
  (∀ (s : State) (k : Fin 8), s.dev.running = true → s.dev.dieState (k.val + 2) = 2 → s.dev.on (R.TEST_D2D_STAT_FAILED k.val) = false →
    ∃ t : State, exec (.d2dInterfaceFail ⟨k.val, by omega⟩) s = .next t ∧ t.dev.dieState (k.val + 2) = 3 ∧
      t.dev.get (R.TEST_D2D_STAT_FAILED k.val) = 1)

/-! ### Links -/

/-- R97, R99, R104 to R107, R43, R133: start-up and training; a training takes EXPECT and PEER as they stand, and the markers of every lane decide
whether the port comes up or is held down. -/
def Obligations.LinkTraining : Prop :=
  (∀ (s : State) (p : PortNo), s.dev.applied = true → s.dev.isOfp p.val = true → mayTrain s.dev p.val = true →
    (stageOf s.dev p.val = 1 → exec (.signalDetect p) s = .next (s.setDev (showStage p.val 2 (s.dev.modLink p.val (fun l => { l with signal := true }))))) ∧
    (stageOf s.dev p.val = 2 → exec (.equalisationDone p) s = .next (s.setDev (showStage p.val 3 (adapt p.val s.dev)))) ∧
    (stageOf s.dev p.val = 3 → exec (.markerLock p) s = .next (s.setDev (showStage p.val 4 s.dev))) ∧
    (stageOf s.dev p.val = 4 → ∀ n : Nat,
      (aligned s.dev p.val n = true → exec (.deskewDone p n) s = .next (s.setDev (showStage p.val 5 s.dev))) ∧
      (aligned s.dev p.val n = false → exec (.deskewDone p n) s = .next (s.setDev (holdDown p.val 4 (raiseCE (blkPort (p.val / 128)) 6 p.val
        (s.dev.set (R.PORT_PSTAT_SKEW p.val) 1))))))) ∧
  (∀ (d : Dev) (p n : Nat), aligned d p n = true ↔ n ≤ 100 ∧ ∀ a b : Marker, some a ∈ (d.link p).marks → some b ∈ (d.link p).marks →
    a.frame = b.frame) ∧
  (∀ (s : State) (p : PortNo) (ms : List Marker), s.dev.applied = true → s.dev.isOfp p.val = true → mayTrain s.dev p.val = true →
    stageOf s.dev p.val = 5 → (s.dev.link p.val).peerHold = none → allMarks s.dev p.val = some ms →
    ((∃ k m, ms[k]? = some m ∧ shapeBad s.dev p.val k m = true) →
      exec (.peerExchange p) s = .next (s.setDev (holdDown p.val 3 (raiseCE (blkPort (p.val / 128)) 6 p.val s.dev)))) ∧
    ((∀ k m, ms[k]? = some m → shapeBad s.dev p.val k m = false) →
      (∀ k m, ms[k]? = some m → chanBad s.dev p.val k m = true → (∀ j n, j < k → ms[j]? = some n → chanBad s.dev p.val j n = false) →
        exec (.peerExchange p) s = .next (s.setDev (chanMismatch p.val (p.val + k) s.dev))) ∧
      ((∀ k m, ms[k]? = some m → chanBad s.dev p.val k m = false) →
        ((∀ m ∈ ms, joinBad s.dev p.val m = false) → exec (.peerExchange p) s = .next (s.setDev (portUp p.val s.dev))) ∧
        ((∃ m ∈ ms, joinBad s.dev p.val m = true) →
          exec (.peerExchange p) s = .next (s.setDev (holdDown p.val 2 (raiseFatal (blkPort (p.val / 128)) 3 p.val
            ((s.dev.set (R.PORT_PSTAT_PEERMIS p.val) 1).modLink p.val (fun l => { l with joinHeld := true }))))))))) ∧
  (∀ (d : Dev) (p k : Nat) (m : Marker), (shapeBad d p k m = true ↔ m.width.toNat ≠ log2 (d.width p) ∨ m.rate.toNat ≠ d.rate p ∨ m.slot.toNat ≠ k) ∧
    (chanBad d p k m = true ↔ (d.link p).expect.getD k 0 ≠ 0 ∧ (d.link p).expect.getD k 0 ≠ m.chan)) ∧
  (∀ (d : Dev) (p : PortNo), mayTrain d p.val = true → let e := startTraining p.val d
    stageOf e p.val = 1 ∧ (e.link p.val).marks = [] ∧ (e.link p.val).peer = d.rd (R.PORT_RELOCK_PEER p.val) ∧
    (e.link p.val).expect = (d.lanesOf p.val).map (fun k => BitVec.ofNat 16 (d.get (R.PORT_LCHAN_EXPECT k)))) ∧
  (∀ (d : Dev) (p : Nat), (d.link p).joinHeld = true → mayTrain d p = false) ∧
  (∀ (s : State) (p : PortNo), s.dev.applied = true → s.dev.isEth p.val = true → mayTrain s.dev p.val = true → s.dev.isUp p.val = false →
    exec (.ethLinkUp p) s = .next (s.setDev (portUp p.val s.dev)) ∧
    (((s.dev.link p.val).ethFails + 1) % 3 ≠ 0 →
      exec (.ethLinkStartTimeout p) s = .next (s.setDev (startTraining p.val (s.dev.modLink p.val (fun l => { l with ethFails := l.ethFails + 1 }))))) ∧
    (((s.dev.link p.val).ethFails + 1) % 3 = 0 →
      exec (.ethLinkStartTimeout p) s = .next (s.setDev (raiseCE (blkPort (p.val / 128)) 4 p.val
        (startTraining p.val (s.dev.modLink p.val (fun l => { l with ethFails := l.ethFails + 1 }))))))) ∧
  (∀ (d : Dev) (p : PortNo), d.isHaul p.val = false → routesOn d p.val = [] → (portUp p.val d).isUp p.val = true ∧ ((portUp p.val d).link p.val).stage = 6 ∧
    ((portUp p.val d).link p.val).rxSeq = 0 ∧ ((portUp p.val d).link p.val).downSince = none) ∧
  (∀ (d : Dev) (p : PortNo) (f : Nat), let e := holdDown p.val f d
    e.isUp p.val = false ∧ stageOf e p.val = 8 ∧ (e.link p.val).holdFault = BitVec.ofNat 8 f)

/-- R103, R104, R106, R129, R130, R95: markers missed or received, loss of the signal, fast relock. A marker carries every field of R103, and what is
sent is what is read. -/
def Obligations.LinkLoss : Prop :=
  (∀ m : Marker, findMarker (markerPayload (markerBytes m)) = some m) ∧
  (∀ (s : State) (l : LaneNo) (x : Option (List Byte)), s.dev.applied = true → s.dev.isPort (s.dev.portOf l.val) = true →
    s.dev.isOfp (s.dev.portOf l.val) = true → s.dev.nearLoop (s.dev.portOf l.val) = false → x.bind findMarker = none →
    let p := s.dev.portOf l.val
    let n := (s.dev.link p).badMarks.getD (l.val - p) 0 + 1
    let d := s.dev.modLink p (fun k => { k with badMarks := setAt k.badMarks 16 (l.val - p) n })
    ((s.dev.isUp p = false ∨ n < max 1 (s.dev.get (R.PORT_LINK_CFG_MKLOSS 0))) → exec (.markerReceive l x) s = .next (s.setDev d)) ∧
    (s.dev.isUp p = true → max 1 (s.dev.get (R.PORT_LINK_CFG_MKLOSS 0)) ≤ n → exec (.markerReceive l x) s = .next (s.setDev (retrain p d)))) ∧
  (∀ (s : State) (l : LaneNo) (x : List Byte) (m : Marker), s.dev.applied = true → s.dev.isPort (s.dev.portOf l.val) = true →
    s.dev.isOfp (s.dev.portOf l.val) = true → s.dev.nearLoop (s.dev.portOf l.val) = false → findMarker x = some m →
    let p := s.dev.portOf l.val
    let d := takeMarker p (l.val - p) m s.dev
    exec (.markerReceive l (some x)) s = .next (s.setDev (if transmits d p && stageOf d p != 0 then
        (sendMarker p (l.val - p) 1 false d).modLink p (fun k => { k with frame := if l.val - p + 1 = d.width p then k.frame + 1 else k.frame })
      else d))) ∧
  (∀ (d : Dev) (p : PortNo) (slot : Fin 16) (m : Marker), m.retrain = false → chanBad d p.val slot.val m = false → shapeBad d p.val slot.val m = false →
    let l := (takeMarker p.val slot.val m d).link p.val
    l.peerHold = (if m.hold then some m.fault else none) ∧ l.badMarks.getD slot.val 0 = 0 ∧ l.marks.getD slot.val none = some m ∧
    (m.req ≠ 1 → m.req ≠ 2 → l.txack.getD slot.val 0 = 0) ∧
    ((m.req = 1 ∨ m.req = 2) → m.tap.toNat < 5 → l.txack.getD slot.val 0 = 1 ∨ l.txack.getD slot.val 0 = 2)) ∧
  (∀ (d : Dev) (p : PortNo) (slot : Fin 16) (m : Marker), 3 ≤ stageOf d p.val → stageOf d p.val ≤ 7 → chanBad d p.val slot.val m = true →
    let e := takeMarker p.val slot.val m d
    stageOf e p.val = 8 ∧ e.get (R.PORT_PSTAT_CHANMIS p.val) = 1 ∧ (e.link p.val).holdFault = 1) ∧
  (∀ (s : State) (l : LaneNo), s.dev.applied = true → s.dev.isPort (s.dev.portOf l.val) = true → s.dev.isUp (s.dev.portOf l.val) = true →
    let p := s.dev.portOf l.val
    let d := s.dev.modLink p (fun k => { k with signal := false })
    ((s.dev.on (R.PORT_PCTL_FASTRELOCK p) = false ∨ s.dev.on (R.PORT_PCTL_FTXLOCK p) = false ∨ s.dev.isOfp p = false) →
      exec (.linkSignalLoss l) s = .next (s.setDev (startTraining p (linkDown p d)))) ∧
    (s.dev.on (R.PORT_PCTL_FASTRELOCK p) = true → s.dev.on (R.PORT_PCTL_FTXLOCK p) = true → s.dev.isOfp p = true →
      exec (.linkSignalLoss l) s = .next (s.setDev (relockStart p d)))) ∧
  (∀ (s : State) (p : PortNo), s.dev.applied = true → s.dev.isOfp p.val = true → mayTrain s.dev p.val = true →
    s.dev.on (R.PORT_PCTL_FTXLOCK p.val) = true →
    ∃ t : State, exec (.fastRelockStart p) s = .next t ∧ stageOf t.dev p.val = 7 ∧ (t.dev.link p.val).txSeq = 1 ∧ (t.dev.link p.val).rxSeq = 0 ∧
      (t.dev.link p.val).retry = [] ∧ (t.dev.link p.val).peer = s.dev.rd (R.PORT_RELOCK_PEER p.val) ∧ (t.dev.link p.val).marks = []) ∧
  (∀ (s : State) (p : PortNo) (ms : List Marker), s.dev.applied = true → stageOf s.dev p.val = 7 → allMarks s.dev p.val = some ms →
    (((s.dev.link p.val).peer = 0 ∨ ∀ m ∈ ms, m.sender = (s.dev.link p.val).peer) →
      exec (.relockStreamDone p) s = .next (s.setDev (portUp p.val s.dev))) ∧
    ((s.dev.link p.val).peer ≠ 0 → (∃ m ∈ ms, m.sender ≠ (s.dev.link p.val).peer) →
      exec (.relockStreamDone p) s = .next (s.setDev (holdDown p.val 2 (raiseCE (blkPort (p.val / 128)) 9 p.val
        (s.dev.set (R.PORT_PSTAT_PEERMIS p.val) 1)))))) ∧
  (∀ (s : State) (p : PortNo), s.dev.applied = true → stageOf s.dev p.val = 7 →
    exec (.relockTimeout p) s = .next (s.setDev (raiseCE (blkPort (p.val / 128)) 10 p.val (startTraining p.val s.dev)))) ∧
  (∀ (s : State) (p : PortNo) (w : CsrW), s.dev.applied = true → s.dev.portDieFitted (p.val / 128) = true →
    wOn w (R.PORT_RELOCK_CAPTURE p.val) = true →
    ∃ t : State, exec (.relockCapture p w) s = .next t ∧ t.dev.get (R.PORT_RELOCK_CAPTURE p.val) = 0 ∧
      t.dev.get (R.PORT_RELOCK_PROFILE p.val) = wBits w (R.PORT_RELOCK_PROFILE p.val) ∧
      (t.dev.link p.val).profiles.getD (wBits w (R.PORT_RELOCK_PROFILE p.val)) [] = (t.dev.link p.val).eq)

/-- R98, R100 to R102, R107 to R109: a pair that fails is answered by one NAK until a good pair in order arrives; a good pair in order is taken with
its credits and acknowledged. What a pair carries is what is read from it, and a packet that is sent in flits is the packet that they end. -/
def Obligations.PairsAndRetry : Prop :=
  (∀ (a b : BitVec 12) (k : Fin 4) (v : BitVec 4) (n : BitVec 10) (fs : List Byte), fs.length = 1280 → let x : Pair := ⟨true, pairBytes a b k.val v n fs⟩
    pairPseq x = a ∧ pairAckseq x = b ∧ pairAckkind x = k.val ∧ pairCrvc x = v ∧ pairCrcnt x = n ∧ (pairFlits x).flatten = fs) ∧
  (∀ (a b : BitVec 12) (v : BitVec 4) (n : BitVec 10) (bs : List Byte), 36 ≤ bs.length → bs.length ≤ 252 → bs.length % 4 = 0 →
    36 + beAt bs 24 2 = bs.length → beAt bs 0 1 ≠ 0 →
    pairPackets false none ⟨true, pairBytes a b ackAck v n (pairGroups bs).flatten⟩ = ([bs], none)) ∧
  (∀ (s : State) (p : PortNo) (x : Pair), s.dev.applied = true → s.dev.isPort p.val = true → s.dev.isOfp p.val = true → s.dev.isUp p.val = true →
    s.dev.nearLoop p.val = false → s.dev.get (R.TEST_PORT_LOOP_DEPTH p.val) ≠ 8 →
    (pairGood x = false →
      ((s.dev.link p.val).nakOut = true → exec (.pairReceive p x) s = .next s) ∧
      ((s.dev.link p.val).nakOut = false → exec (.pairReceive p x) s = .next (s.setDev
        (sendIdle p.val ackNak (s.dev.modLink p.val (fun l => { l with nakOut := true })))))) ∧
    (pairGood x = true →
      ((pairSequenced x = false ∨ pairPseq x ≠ (s.dev.link p.val).rxSeq + 1) →
        ((s.dev.link p.val).nakOut = true ∨ pairAckkind x = ackNone → exec (.pairReceive p x) s = .next s) ∧
        ((s.dev.link p.val).nakOut = false → pairAckkind x = ackAck →
          exec (.pairReceive p x) s = .next (s.setDev (acknowledge p.val (pairAckseq x) s.dev)))) ∧
      (pairSequenced x = true → pairPseq x = (s.dev.link p.val).rxSeq + 1 → pairAckkind x = ackNone →
        (pairPackets (s.dev.isJoin p.val) (s.dev.link p.val).part x).1 = [] →
        exec (.pairReceive p x) s = .next (s.setDev (sendIdle p.val ackAck (s.dev.modLink p.val (fun l => { l with
          rxSeq := pairPseq x, nakOut := false, part := (pairPackets (s.dev.isJoin p.val) (s.dev.link p.val).part x).2
          credits := (List.range 16).map (fun v => l.credits.getD v 0 + (if v = (pairCrvc x).toNat then (pairCrcnt x).toNat else 0)) }))))))) ∧
  (∀ (d : Dev) (p : PortNo) (a : BitVec 12), (d.link p.val).due = [] →
    ((acknowledge p.val a d).link p.val).retry = (d.link p.val).retry.filter (fun e => !decide ((a - e.pseq).toNat < 2048))) ∧
  (∀ (s : State) (p : PortNo), s.dev.applied = true → s.dev.isUp p.val = true →
    ((s.dev.link p.val).nakOut = true → exec (.nakRepeatTimeout p) s = .next (s.setDev (sendIdle p.val ackNak s.dev))) ∧
    (∀ e rest, (s.dev.link p.val).retry = e :: rest → (s.dev.link p.val).replays < max 1 (s.dev.get (R.PORT_LINK_CFG_RMAX 0)) →
      exec (.retryTimeout p) s = .next (s.setDev (resendPairs p.val (countPort p.val 14 (s.dev.modLink p.val
        (fun l => { l with replays := l.replays + 1 })))))) ∧
    (∀ e rest, (s.dev.link p.val).retry = e :: rest → max 1 (s.dev.get (R.PORT_LINK_CFG_RMAX 0)) ≤ (s.dev.link p.val).replays →
      exec (.retryTimeout p) s = .next (s.setDev (retrain p.val (raiseCE (blkPort (p.val / 128)) 7 p.val s.dev)))))

/-- R28, R29, R131, R133, R485: loopback, ADMIN and lane steering. R127, R171: PFC frames received and sent again. -/
def Obligations.PortControls : Prop :=
  (∀ (s : State) (p : PortNo) (w : CsrW), s.dev.running = true → s.dev.portDieFitted (p.val / 128) = true →
    (s.dev.get (R.PORT_PCTL_ADMIN p.val) = 0 →
      ∃ t : State, exec (.loopbackSet p w) s = .next t ∧ t.dev.get (R.TEST_PORT_LOOP_DEPTH p.val) = wBits w (R.TEST_PORT_LOOP_DEPTH p.val) ∧
        (t.dev.link p.val).loop = [] ∧ (t.dev.link p.val).looped = [] ∧
        (wBits w (R.TEST_PORT_LOOP_DEPTH p.val) ≠ 0 → t.dev.get (R.PORT_PSTAT_STATE p.val) = 9)) ∧
    (s.dev.get (R.PORT_PCTL_ADMIN p.val) = 1 → wBits w (R.TEST_PORT_LOOP_DEPTH p.val) ≠ s.dev.get (R.TEST_PORT_LOOP_DEPTH p.val) →
      exec (.loopbackSet p w) s = .next (s.setDev (refuseCsr (R.TEST_PORT_LOOP p.val) w s.dev)))) ∧
  (∀ (s : State) (p : PortNo) (w : CsrW), s.dev.applied = true → s.dev.portDieFitted (p.val / 128) = true → s.dev.isPort p.val = true →
    wOn w (R.PORT_PCTL_TSEN p.val) = true →
    (s.dev.on (R.PORT_PCTL_ADMIN p.val) = false → wOn w (R.PORT_PCTL_ADMIN p.val) = true →
      exec (.portAdminWrite p w) s = .next (s.setDev (startTraining p.val (writeOwn RF.PORT_PCTL (R.PORT_PCTL p.val) w s.dev)))) ∧
    (s.dev.on (R.PORT_PCTL_ADMIN p.val) = wOn w (R.PORT_PCTL_ADMIN p.val) →
      exec (.portAdminWrite p w) s = .next (s.setDev (writeOwn RF.PORT_PCTL (R.PORT_PCTL p.val) w s.dev))) ∧
    (s.dev.on (R.PORT_PCTL_ADMIN p.val) = true → wOn w (R.PORT_PCTL_ADMIN p.val) = false →
      exec (.portAdminWrite p w) s = .next (s.setDev (flushPort p (sendMarkers p.val 1 false ((showStage p.val 0 (takeDown p.val
        (writeOwn RF.PORT_PCTL (R.PORT_PCTL p.val) w s.dev))).modLink p.val (fun l => { l with holdFault := 5 }))))))) ∧
  (∀ (s : State) (x : GroupNo) (w : CsrW), s.dev.applied = true → s.dev.portDieFitted (x.val / 8) = true →
    (shiftBad s.dev x.val w.val.toNat = true → exec (.laneShiftWrite x w) s = .next (s.setDev (refuseCsr (R.PORT_LANE_SHIFT x.val) w s.dev))) ∧
    (shiftBad s.dev x.val w.val.toNat = false → exec (.laneShiftWrite x w) s = .next (s.setDev
      (let d := writeOwn RF.PORT_LANE_SHIFT (R.PORT_LANE_SHIFT x.val) w s.dev
       moveLanes x.val (s.dev.rd (R.PORT_LANE_SHIFT x.val)).toNat w.val.toNat { d with ras := { d.ras with
        heldLanes := d.ras.heldLanes.filter (fun l => l / 16 != x.val || posFailed d x.val (l % 16 + shiftOf w.val.toNat (l % 16))) } })))) ∧
  (∀ (x v : Nat) (d : Dev), moveLanes x v v d = d) ∧
  (∀ (s : State) (l : PhysLane), s.dev.running = true → s.dev.portDieFitted (l.val / 144) = true →
    posFailed s.dev (8 * (l.val / 144) + l.val % 144 / 18) (l.val % 18) = false →
    let x := 8 * (l.val / 144) + l.val % 144 / 18
    let d := raiseCE blkTest 2 l.val (s.dev.wr (R.TEST_LANE_FAIL x) (s.dev.rd (R.TEST_LANE_FAIL x) ||| BitVec.ofNat 32 (2 ^ (l.val % 18))))
    exec (.lanePositionFail l) s = .next (s.setDev (if d.applied then autoSteer x d else d))) ∧
  (∀ (x : Nat) (d : Dev), d.on R.TEST_SPARE_CFG_LANEAUTO = false → failedCount d x < 3 → autoSteer x d = d) ∧
  (∀ (d : Dev) (p l : Nat), l ∈ d.lanesOf p → unserved d l = true → mayTrain d p = false) ∧
  (∀ (s : State) (x : GroupNo) (w : CsrW), s.dev.running = true → s.dev.portDieFitted (x.val / 8) = true →
    let d := writeOwn RF.TEST_LANE_FAIL (R.TEST_LANE_FAIL x.val) w s.dev
    exec (.laneFailWrite x w) s = .next (s.setDev (if d.rd (R.TEST_LANE_FAIL x.val) = s.dev.rd (R.TEST_LANE_FAIL x.val) then d else autoSteer x.val d))) ∧
  (∀ (s : State) (p : PortNo) (bs : List Byte), s.dev.applied = true →
    (macControl bs 0x0101 = false → exec (.pfcFrameReceive p bs) s = .next s) ∧
    (macControl bs 0x0101 = true → s.dev.isPort p.val = true → s.dev.farLoop p.val = true →
      exec (.pfcFrameReceive p bs) s = .next (s.setDev (s.dev.emit (.packet (Fin.ofNat 1024 p.val) bs false)))) ∧
    (macControl bs 0x0101 = true → s.dev.farLoop p.val = false → s.dev.nearLoop p.val = false → s.dev.isEth p.val = true →
      s.dev.isUp p.val = true →
      (crcRun crcStart bs ≠ crcGood → exec (.pfcFrameReceive p bs) s = .next (s.setDev (countPort p.val 10 s.dev))) ∧
      (crcRun crcStart bs = crcGood → ∀ (pri : TC) (q : Nat), pfcTimes bs = [(pri, q)] → let d := countPort p.val 13 s.dev
        (pfcEnabled s.dev p.val pri.val = false → exec (.pfcFrameReceive p bs) s = .next (s.setDev d)) ∧
        (pfcEnabled s.dev p.val pri.val = true → q ≠ 0 → exec (.pfcFrameReceive p bs) s = .next (s.setDev
          (d.modLink p.val (fun l => { l with paused := l.paused ||| BitVec.ofNat 8 (2 ^ pri.val) })))) ∧
        (pfcEnabled s.dev p.val pri.val = true → q = 0 → exec (.pfcFrameReceive p bs) s = .next (s.setDev
          (d.modLink p.val (fun l => { l with paused := l.paused &&& ~~~(BitVec.ofNat 8 (2 ^ pri.val)) }))))))) ∧
  (∀ (s : State) (p : PortNo) (pri : TC), s.dev.applied = true →
    exec (.pfcPauseExpiry p pri) s = .next (s.setDev (s.dev.modLink p.val (fun l => { l with
      paused := l.paused &&& ~~~(BitVec.ofNat 8 (2 ^ pri.val)) })))) ∧
  (∀ (s : State) (p : PortNo) (tc : TC), s.dev.applied = true → s.dev.isUp p.val = true →
    ((s.dev.link p.val).xoffOf tc.val = true → exec (.pfcRefresh p tc) s = .next (s.setDev (Dev.each (pfcPriorities s.dev p.val tc.val)
      (fun k d => d.emit (.pfc p (Fin.ofNat 8 k) (BitVec.ofNat 16 (s.dev.get (R.PORT_PFC_CFG_QUANTA 0))))) s.dev))) ∧
    ((s.dev.link p.val).xoffOf tc.val = false → exec (.pfcRefresh p tc) s = .next s))

/-- R29, R485: the shifts that steering computes leave out failed positions, never step back, stay within two, and hold the slots for which no
position is left. -/
def Obligations.SteeringLegal : Prop :=
  ∀ (failed : Nat → Bool), let r := autoShifts failed 16 0 0 0
    r.length = 16 ∧ (∀ x ∈ r, x.1 ≤ 2) ∧
    (∀ k, k + 1 < 16 → (r.getD k (0, false)).1 ≤ (r.getD (k + 1) (0, false)).1) ∧
    (∀ k, k < 16 → (r.getD k (0, true)).2 = false → failed (k + (r.getD k (0, true)).1) = false) ∧
    ((∀ k, k < 18 → failed k = false) → ∀ x ∈ r, x = (0, false))

/-! ### Packets -/

/-- R42, R112, R174, R192, R530: a packet that arrives takes its place in the receive buffer or is dropped; the oldest goes into a pipeline; the rest
of a packet joins what is stored or being sent of it. R530: engines offer what waits at their heads, and software one packet at a time.
R114, R116: a packet is bad exactly when a check of its header fails. -/
def Obligations.Packets : Prop :=
  (∀ (s : State) (p : PortNo) (f : RxFrame), s.dev.applied = true → s.dev.nearLoop p.val = true → exec (.packetArrival p f) s = .next s) ∧
  (∀ (s : State) (p : PortNo) (f : RxFrame), s.dev.applied = true → s.dev.nearLoop p.val = false → s.dev.farLoop p.val = true →
    s.dev.isPort p.val = true → f.early = false → exec (.packetArrival p f) s = .next (s.setDev (turnBack p.val f.bytes s.dev)) ∧
    (s.dev.isOfp p.val = false → turnBack p.val f.bytes s.dev = s.dev.emit (.packet (Fin.ofNat 1024 p.val) f.bytes false))) ∧
  (∀ (s : State) (p : PortNo) (f : RxFrame), s.dev.applied = true → s.dev.farLoop p.val = false → s.dev.isUp p.val = false →
    exec (.packetArrival p f) s = .next s) ∧
  (∀ (s : State) (p : PortNo) (f : RxFrame), s.dev.applied = true → s.dev.isPort p.val = true → s.dev.isUp p.val = true →
    s.dev.role p.val = 1 → f.early = false → s.dev.nearLoop p.val = false → s.dev.farLoop p.val = false →
    inL4 s.dev p.val = false → consumedInPort s.dev p.val f.bytes = false → rxOfp s.dev p.val f.bytes = true →
    (rxCredits s.dev p.val f.bytes).2 ≤ (s.dev.link p.val).granted.getD (rxCredits s.dev p.val f.bytes).1.toNat 0 →
    rxUse (s.dev.link p.val) + f.bytes.length ≤ 16384 →
    ∃ t : State, exec (.packetArrival p f) s = .next t ∧ (t.dev.link p.val).rx = (s.dev.link p.val).rx ++ [f] ∧
      (∀ q, q ≠ p.val → t.dev.link q = s.dev.link q)) ∧
  (∀ (s : State) (p : PortNo) (f : RxFrame) (rest : List RxFrame), s.dev.applied = true → s.dev.dieState (p.val / 128 + 2) ≠ 3 →
    (s.dev.link p.val).rx = f :: rest →
    exec (.pipelineTake p) s = .next (s.setDev (takePacket p.val (pipeOf s.dev p.val) f false
      (s.dev.modLink p.val (fun l => { l with rx := rest, taken := l.taken + 1 }))).2)) ∧
  (∀ (s : State) (p : PortNo), s.dev.dieState (p.val / 128 + 2) = 3 ∨ (s.dev.link p.val).rx = [] → exec (.pipelineTake p) s = .next s) ∧
  (∀ (d : Dev) (p : PortNo) (pipe : Nat) (f : RxFrame) (haul : Bool), d.isJoin p.val = true → tagBad d f.bytes = true →
    takePacket p.val pipe f haul d = (none, dropArrived (rxPkt d p.val f.bytes) (rxCredits d p.val f.bytes).1 (rxCredits d p.val f.bytes).2 4 3
      { d with
        cist := { d.cist with nextId := d.cist.nextId + 1 }
        spray := { d.spray with pipeCnt := SMap.put d.spray.pipeCnt pipe ((SMap.getD d.spray.pipeCnt pipe 0 + 1) % 2 ^ 32) } })) ∧
  (∀ (s : State) (id : Nat) (x : List Byte), s.dev.applied = true → s.dev.links = [] → findPkt id s.dev = none →
    exec (.packetTailArrival id x) s = .next s) ∧
  (∀ (s : State) (id : Nat) (x : List Byte) (k : Where) (p : Pkt), s.dev.applied = true → s.dev.links = [] →
    findPkt id s.dev = some (k, p) → p.ether = false →
    exec (.packetTailArrival id x) s = .next (s.setDev (storedTail k p x true s.dev))) ∧
  (∀ (s : State) (p : Pkt) (k : PortNo) (i : PortNo) (front x : List Byte) (l : Link), s.dev.applied = true → s.dev.links = [(k.val, l)] →
    l.tx = some (p, front) → p.ether = true → p.inPort = some i →
    exec (.packetTailArrival p.id x) s = .next (s.setDev (sentTail k.val p front x (crcRun p.crc x == crcGood)
      (countPort i.val 0 s.dev x.length)))) ∧
  (∀ s : State, s.dev.applied = true → s.dev.cist.built = [] → s.dev.basin.status = [] → s.dev.cist.fenceAcks = [] →
    exec (.builtPacketAdmit none) s = .next s) ∧
  (∀ (s : State) (b : Built), s.dev.applied = true → s.dev.cist.built = [b] → s.dev.basin.status = [] → s.dev.cist.fenceAcks = [] →
    b.engine ≠ 3 → b.engine ≠ 6 →
    ((offerBuilt b.pkt b.route s.dev).1 = false → exec (.builtPacketAdmit none) s = .next s) ∧
    ((offerBuilt b.pkt b.route s.dev).1 = true → (offerBuilt b.pkt b.route s.dev).2.basin.status = [] →
      (offerBuilt b.pkt b.route s.dev).2.cist.fenceAcks = [] →
      exec (.builtPacketAdmit none) s = .next (s.setDev (let d := (offerBuilt b.pkt b.route s.dev).2
        { d with cist := { d.cist with built := d.cist.built.erase b } })))) ∧
  (∀ (s : State) (p : Pkt) (rest : List Pkt), s.dev.applied = true → s.dev.cist.built = [] → s.dev.cist.fenceAcks = [] →
    s.dev.basin.status = p :: rest → (offerBuilt p none { s.dev with basin := { s.dev.basin with status := rest } }).1 = false →
    exec (.builtPacketAdmit none) s = .next s) ∧
  (∀ (s : State) (bs : List Byte), s.dev.applied = true →
    exec (.builtPacketAdmit (some bs)) s = .next (s.setDev (builtAdmit (softwareSend bs s.dev)))) ∧
  (∀ (d : Dev) (bs : List Byte), d.cist.built.any (fun b => b.engine == 7) = true → softwareSend bs d = d) ∧
  (∀ (d : Dev) (bs : List Byte), d.cist.built.any (fun b => b.engine == 7) = false → ∃ p : Pkt,
    (softwareSend bs d).cist.built = d.cist.built ++ [⟨7, none, p⟩] ∧ p.bytes = bs ∧ p.lossless = true ∧ p.acct = none ∧ p.inPort = none) ∧
  (∀ bs : List Byte, ofpBad bs = true ↔ (hcrcOk bs = false ∨ (ofpHdr bs).ver ≠ 1 ∨ 10 < (ofpHdr bs).type ∨ 8192 < (ofpHdr bs).len ∨
    (ofpHdr bs).hops = 15 ∨ (((ofpHdr bs).type = 1 ∨ (ofpHdr bs).type = 10) ∧ 4 < (ofpHdr bs).level))) ∧
  (∀ bs : List Byte, crcRun crcStart (withFcs bs) = crcGood)

/-! ### Forwarding tables -/

/-- R144 to R149, R154 to R156: a record of the update ring is taken by the command of its operation. The record's change waits for the
boundary and its STATUS is written at once; what a read returns is what was visible when the turn began. R154, R155, R150: batches begin within
the turn's cost of 1,024, one that costs more is passed with STATUS 5, the changes of a turn become visible together at its end, and every
TURNS turns the aging of the MAC table goes on by QUANT places. -/
def Obligations.TableRecords : Prop :=
  (∀ (s : State) (r : List Byte), s.dev.applied = true → s.dev.tables.batchLen ≠ 0 →
    s.dev.ringAt tblRing s.dev.tables.batchDone = some r →
    let t := s.setDev (endRecord (applyRecord s.dev.tables.batchDone r s.dev))
    ((recOp r = 0 ∨ 3 < recOp r) → exec .tableNop s = .next t) ∧ (recOp r = 1 → exec .tableWrite s = .next t) ∧
    (recOp r = 2 → exec .tableDelete s = .next t) ∧ (recOp r = 3 → exec .tableRead s = .next t)) ∧
  (∀ (d : Dev) (k : Nat) (r : List Byte), recBad r = true → applyRecord k r d = writeStatus k 4 d) ∧
  (∀ (d : Dev) (k : Nat) (r : List Byte), recBad r = false → recOp r = 0 → applyRecord k r d = writeStatus k 1 d) ∧
  (∀ (d : Dev) (k : Nat) (r : List Byte), recBad r = false → recOp r = 1 →
    (keyed (recTable r) = false ∨ insertRoom d (recTable r) (recKey r) = true) →
    applyRecord k r d = writeStatus k 1 (stage_ ⟨Fin.ofNat 8 (recTable r), recKey r,
      some ⟨keptData (recTable r) (slice r 32 32), beBits r 1 1 1 1 == 1 && recTable r == 5, false⟩⟩ d)) ∧
  (∀ (d : Dev) (k : Nat) (r : List Byte), recBad r = false → recOp r = 1 → keyed (recTable r) = true →
    insertRoom d (recTable r) (recKey r) = false → applyRecord k r d = writeStatus k 2 d) ∧
  (∀ (d : Dev) (k : Nat) (r : List Byte), recBad r = false → recOp r = 2 → keyed (recTable r) = true →
    pendingEntry d (recTable r) (recKey r) = none → applyRecord k r d = writeStatus k 3 d) ∧
  (∀ (d : Dev) (k : Nat) (r : List Byte), recBad r = false → recOp r = 2 →
    (keyed (recTable r) = false ∨ pendingEntry d (recTable r) (recKey r) ≠ none) →
    applyRecord k r d = writeStatus k 1 (stage_ ⟨Fin.ofNat 8 (recTable r), recKey r, none⟩ d)) ∧
  (∀ (d : Dev) (k : Nat) (r : List Byte) (e : TblEntry), recBad r = false → recOp r = 3 → recTable r ≠ 5 →
    d.entry (recTable r) (recKey r) = some e →
    applyRecord k r d = (writeStatus k 1 d).writeMem 1 (recAddr d k + 32) (padTo e.data 32)) ∧
  (∀ (d : Dev) (k : Nat) (r : List Byte) (e : TblEntry), recBad r = false → recOp r = 3 → recTable r = 5 → d.entry 5 (recKey r) = some e →
    applyRecord k r d = (writeStatus k 1 d).writeMem 1 (recAddr d k + 32)
      (padTo (leBytes 4 e.result ++ [BitVec.ofNat 8 (b2n (SMap.getD d.tables.hitWas (recKey r) e.hit))]) 32)) ∧
  (∀ (d : Dev) (k : Nat) (r : List Byte), recBad r = false → recOp r = 3 → keyed (recTable r) = true →
    d.entry (recTable r) (recKey r) = none →
    applyRecord k r d = (writeStatus k 3 d).writeMem 1 (recAddr d k + 32) (zeros 32)) ∧
  (∀ (d : Dev) (b : List (List Byte)), d.tables.batchLen = 0 → batchAtHead d = some b → batchCost b ≤ 1024 →
    (d.tables.spent + batchCost b ≤ 1024 → beginBatch d = { d.set R.FWD_RING_HEAD_WAIT 0 with
      tables := { d.tables with batchDone := 0, batchLen := b.length, spent := d.tables.spent + batchCost b } }) ∧
    (1024 < d.tables.spent + batchCost b → beginBatch d = d.set R.FWD_RING_HEAD_WAIT 1)) ∧
  (∀ (s : State) (b : List (List Byte)), s.dev.applied = true → s.dev.tables.batchLen = 0 → batchAtHead s.dev = some b →
    (1024 < batchCost b → exec .tableBatchOvercost s = .next (s.setDev
      ((Dev.each (List.range b.length) (fun k => writeStatus k 5) s.dev).ringAdvance tblRing b.length))) ∧
    (batchCost b ≤ 1024 → exec .tableBatchOvercost s = .next s)) ∧
  (∀ (d : Dev) (c : TblChange), d.tables.vis.length = 8 → (tableUpdateVisible (stage_ c d)).entry c.table.val c.key = c.val ∧
    (stage_ c d).entry c.table.val c.key = d.entry c.table.val c.key) ∧
  (∀ (d seen : Dev) (port vid sa : Nat), seen.entry 5 (macKey vid sa) = none → d.on (R.FWD_PORT_CFG_LEARN port) = true →
    (seen.vlan vid).learn = true →
    macLearn seen port vid sa d =
      if d.tables.learns < d.get R.FWD_LEARN_CFG_RATE ∧ insertRoom d 5 (macKey vid sa) = true then
        { d with tables := { d.tables with learned := d.tables.learned ++ [⟨5, macKey vid sa, some ⟨leBytes 4 (mkResult 1 port), false, true⟩⟩],
                                           learns := d.tables.learns + 1 } }
      else d.bump R.FWD_LEARN_STAT_DROPPED) ∧
  (∀ s : State, (s.dev.get R.FWD_AGE_CFG_QUANT = 0 ∨ s.dev.tables.ageDue = false) → exec .macAgingQuantum s = .next s) ∧
  (∀ (s : State) (q : Nat), s.dev.applied = true → s.dev.boot.turnsBegun = true → s.dev.tables.ageDue = true →
    s.dev.get R.FWD_AGE_CFG_QUANT = q → 0 < q → s.dev.tbl 5 = [] →
    exec .macAgingQuantum s = .next (s.setDev { s.dev with tables := { s.dev.tables with
      agePos := (s.dev.tables.agePos + q) % 262144, ageDue := false } })) ∧
  (∀ (s : State) (q k : Nat) (e : TblEntry), s.dev.applied = true → s.dev.boot.turnsBegun = true → s.dev.tables.ageDue = true →
    s.dev.get R.FWD_AGE_CFG_QUANT = q → s.dev.tbl 5 = [(k, e)] → e.static_ = false →
    (Config.macIndex k + 262144 - s.dev.tables.agePos) % 262144 < q →
    ∃ t : State, exec .macAgingQuantum s = .next t ∧
      (e.hit = true → s.dev.tables.vis.length = 8 → t.dev.entry 5 k = some { e with hit := false }) ∧
      (e.hit = false → t.dev.tables.aged = s.dev.tables.aged ++ [⟨5, k, none⟩])) ∧
  (∀ d : Dev, d.get R.FWD_AGE_CFG_QUANT ≠ 0 → d.tables.ageDue = false →
    ((agingTurn d).tables.ageDue = true ↔ max 1 (d.get R.FWD_AGE_CFG_TURNS) ≤ d.tables.ageWait + 1))

/-! ### Buffering -/

/-- R164, R166 to R169: what the headgate admits is within the account of the job, the port and the class, within its queue's QMAX and dynamic
threshold where it is lossy, and finds its cells; what the device builds itself only needs its cells. -/
def Obligations.Headgate : Prop :=
  (∀ (p : Pkt) (q : Option Nat) (d : Dev), refusal p q true d = none ↔ p.cells ≤ d.cist.free) ∧
  (∀ (p : Pkt) (q : Option Nat) (d : Dev), refusal p q false d = none →
    p.cells ≤ d.cist.free ∧ within (d.get (R.CIST_CUSE_CELLS p.tc.val)) p.cells (d.get (R.CIST_CQUOTA_PAGES p.tc.val)) = true ∧
    (∀ j, p.job = some j → within (d.get (R.CIST_JUSE_CELLS j.val)) p.cells (d.get (R.CIST_JQUOTA_PAGES j.val)) = true) ∧
    (∀ a, p.acct = some a → within (d.get (R.CIST_PUSE_CELLS a.val)) p.cells (d.get (R.CIST_PQUOTA_PAGES a.val)) = true) ∧
    (∀ x, q = some x → p.lossless = false → within (d.depth x) p.cells (d.qmax x) = true ∧ thresholdOk x p.cells d = true)) ∧
  (∀ (p : Pkt) (q : Option Nat) (d : Dev) (j : JobIdx), p.job = some j →
    within (d.get (R.CIST_JUSE_CELLS j.val)) p.cells (d.get (R.CIST_JQUOTA_PAGES j.val)) = false → refusal p q false d = some 0)

/-- R163, R172, R176 to R181: quotas written; a page of the queue whose turn it is goes to the spill region, the prefetch raised first starts,
and its cells come back. -/
def Obligations.Spilling : Prop :=
  (∀ (d : Dev) (q : Nat) (u : UQueue), pageReady d q u = true ↔ (u.spilling = true ∧ 64 ≤ u.t ∧ d.on (R.CIST_QPROF_A_SPILLEN (d.prof q)) = true ∧
    ∀ x ∈ u.places, overlap x.1 x.2.cells (u.h + 64 * d.pages q) 64 = 0 ∨ x.2.whole = true)) ∧
  (∀ (s : State) (q : UniQueue) (bad : List (Fin 64)), pageReady s.dev q.val (s.dev.uq q.val) = false →
    exec (.spillPageWrite q bad) s = .next s) ∧
  (∀ (s : State) (q : UniQueue) (bad : List (Fin 64)), s.dev.applied = true → pageReady s.dev q.val (s.dev.uq q.val) = true →
    (spillFull s.dev = true → exec (.spillPageWrite q bad) s = .next (s.setDev (showAllSpilling (noteFull s.dev)))) ∧
    (spillFull s.dev = false → (nextSpill s.dev ≠ some q.val ∨ s.dev.cist.wleft = 0) → exec (.spillPageWrite q bad) s = .next s)) ∧
  (∀ (s : State) (q : UniQueue) (bad : List (Fin 64)), s.dev.applied = true → pageReady s.dev q.val (s.dev.uq q.val) = true →
    s.dev.get R.RES_SPILL_STAT_USED + 1 < spillSlots s.dev → nextSpill s.dev = some q.val → s.dev.cist.wleft ≠ 0 →
    s.dev.pages q.val + 1 < 2 ^ (R.CIST_QSPILL_PAGES q.val).w →
    ∃ t : State, exec (.spillPageWrite q bad) s = .next t ∧ t.dev.pages q.val = s.dev.pages q.val + 1 ∧
      t.dev.cist.wleft = s.dev.cist.wleft - 1 ∧ t.dev.cist.lastSpill = q.val ∧
      (t.dev.uq q.val).t = (s.dev.uq q.val).t - 64 ∧ (t.dev.uq q.val).h = (s.dev.uq q.val).h) ∧
  (∀ (s : State) (q : UniQueue), s.dev.applied = true →
    (s.dev.cist.raised.head? = some q.val → s.dev.cist.rleft ≠ 0 → 64 ≤ s.dev.cist.free →
      exec (.spillPrefetch q) s = .next (s.setDev (spillAccess 0 (setUQ q.val { s.dev.uq q.val with prefetch := (s.dev.uq q.val).prefetch + 1 }
        { s.dev with cist := { s.dev.cist with rleft := s.dev.cist.rleft - 1, raised := s.dev.cist.raised.drop 1 } })))) ∧
    ((s.dev.cist.raised.head? ≠ some q.val ∨ s.dev.cist.rleft = 0 ∨ s.dev.cist.free < 64) → exec (.spillPrefetch q) s = .next s)) ∧
  (∀ (d : Dev) (q : Nat) (u : UQueue), (raisePrefetch q u d).cist.raised =
    if wantsPage d q u = true then (if q ∈ d.cist.raised then d.cist.raised else d.cist.raised ++ [q]) else d.cist.raised.filter (fun k => k ≠ q)) ∧
  (∀ (s : State) (q : UniQueue), s.dev.applied = true → (s.dev.uq q.val).prefetch ≠ 0 → 1 < s.dev.pages q.val → spillFull s.dev = false →
    ∃ t : State, exec (.prefetchComplete q false) s = .next t ∧ t.dev.pages q.val = s.dev.pages q.val - 1 ∧
      (t.dev.uq q.val).h = (s.dev.uq q.val).h + (64 - (s.dev.uq q.val).dead) ∧ (t.dev.uq q.val).dead = 0 ∧
      (t.dev.uq q.val).pkts = (s.dev.uq q.val).pkts) ∧
  (∀ (s : State) (q : UniQueue) (bad : Bool), ((s.dev.uq q.val).prefetch = 0 ∨ s.dev.pages q.val = 0) →
    exec (.prefetchComplete q bad) s = .next s) ∧
  (∀ (s : State) (a : Word) (w : CsrW) (h : RegHit), s.dev.running = true → findReg a.toNat = some h → quotaBases.contains h.reg.base = true →
    s.dev.unitFitted h = true →
    exec (.quotaWrite a w) s = .next (s.setDev (let d := writeCsr w.req a.toNat w.val s.dev
      Dev.each (quotaCuts h s.dev d) raiseCut d))) ∧
  (∀ (d was : Dev) (h : RegHit) (j : Nat), h.reg.base = R.CIST_JQUOTA 0 → h.ix = [j] →
    (d.get (R.CIST_JUSE_CELLS j) ≤ 64 * d.get (R.CIST_JQUOTA_PAGES j) → quotaCuts h was d = []) ∧
    (d.get (R.CIST_JQUOTA_PAGES j) ≠ 0x1FFFFFF → 64 * d.get (R.CIST_JQUOTA_PAGES j) < d.get (R.CIST_JUSE_CELLS j) → quotaCuts h was d =
      [⟨blkCist, 4, j, d.get (R.CIST_JUSE_CELLS j) - 64 * d.get (R.CIST_JQUOTA_PAGES j), 0, some j⟩]))

/-! ### Queues -/

/-- R194: the traffic class that is served is an eligible one, and a strict one where one is eligible: the highest. -/
def Obligations.StrictPriority : Prop :=
  ∀ (d : Dev) (p : Nat) (tcs : List Nat) (x y : Sched) (tc : Nat), pickTc d p tcs x = some (tc, y) →
    tc ∈ tcs ∧ ∀ c ∈ tcs, d.on (R.QUE_TC_CFG_STRICT p c) = true → d.on (R.QUE_TC_CFG_STRICT p tc) = true ∧ c ≤ tc

/-- R193 to R197, R201 to R203, R205, R492: a port sends its next packet by the choice of TC and of unicast or multicast; copies of multicast
packets are placed, served and aged; what a flush has doomed waits for it. -/
def Obligations.QueueService : Prop :=
  (∀ (s : State) (p : PortNo) (bad : Nat), s.dev.applied = true → inL4 s.dev p.val = false → s.dev.isPort p.val = true →
    (s.dev.link p.val).tx = none → ∀ (tc : Nat) (y : Sched),
    let x := freshTokens s.dev p.val (s.dev.schedOf p.val)
    let d := if waitsForCredit s.dev p.val x then s.dev.modLink p.val (fun l => { l with waited := true }) else s.dev
    let heads := (List.range 8).map (fun tc => eligibleHeads d p.val tc x)
    pickTc d p.val ((List.range 8).filter (fun tc => (heads.getD tc (none, none)).1.isSome || (heads.getD tc (none, none)).2.isSome)) x =
      some (tc, y) →
    let e := heads.getD tc (none, none)
    let r := pickMc d p.val tc e.1.isSome e.2.isSome y
    let poison (q : Nat) (k : Pkt) (d : Dev) : Pkt × Dev :=
      if bad = 0 then (k, d) else ({ k with poisoned := true }, Dev.each (List.range (min bad k.cells)) (fun _ => raiseDE blkCist 2 q) d)
    (∀ k : Pkt, r.1 = false → e.1 = some k → exec (.egressDequeue p bad) s = .next (s.setDev (
      let z := poison (uniQ p.val tc) k (popHead (uniQ p.val tc) (d.setSched p.val (chargeSched d p.val tc (linkSize d p.val k) false r.2)))
      leaveQueue p.val (uniQ p.val tc) (d.depth (uniQ p.val tc)) false z.1 z.2))) ∧
    (∀ (m : Nat) (k : Pkt), r.1 = true → e.2 = some (m, k) → exec (.egressDequeue p bad) s = .next (s.setDev (
      let z := poison (8192 + m) k (popCopy p.val tc (d.setSched p.val (chargeSched d p.val tc (linkSize d p.val k) true r.2)))
      leaveQueue p.val (8192 + m) (d.depth (8192 + m)) true z.1 z.2)))) ∧
  (∀ (d : Dev) (p tc : Nat) (x : Sched), (pickMc d p tc true false x).1 = false ∧ (pickMc d p tc false true x).1 = true) ∧
  (∀ (s : State) (p : PortNo) (bad : Nat), s.dev.applied = true → inL4 s.dev p.val = true → s.dev.isPort p.val = true →
    exec (.egressDequeue p bad) s = .next (s.setDev (sendLoop p.val s.dev))) ∧
  (∀ (s : State) (p : PortNo) (bad : Nat), s.dev.isPort p.val = false → exec (.egressDequeue p bad) s = .next s) ∧
  (∀ (s : State) (m : Fin 1024) (x : MPkt), s.dev.applied = true → s.dev.mq m.val = [x] → x.taken = false →
    (doomed s.dev (8192 + m.val) x.pkt = true ∨ x.pkt.whole = false → exec (.multicastReplicate m) s = .next s) ∧
    (doomed s.dev (8192 + m.val) x.pkt = false → x.pkt.whole = true →
      (∀ t : PortNo, x.targets = [t] → mcReady s.dev t.val x.pkt.tc.val = true →
        exec (.multicastReplicate m) s = .next (s.setDev (placeCopy m.val x.pkt.id t.val x.pkt.tc.val
          (setMQ m.val [{ x with taken := true, placed := 1, residue := [] }] s.dev)))) ∧
      (∀ t : PortNo, x.targets = [t] → mcReady s.dev t.val x.pkt.tc.val = false →
        exec (.multicastReplicate m) s = .next (s.setDev (setMQ m.val [{ x with taken := true, placed := 0, residue := [t] }] s.dev))) ∧
      (x.targets = [] → ∃ t : State, exec (.multicastReplicate m) s = .next t ∧ t.dev.mq m.val = []))) ∧
  (∀ (s : State) (m : Fin 1024) (x : MPkt) (t : PortNo), s.dev.applied = true → s.dev.mq m.val = [x] → x.residue = [t] →
    doomed s.dev (8192 + m.val) x.pkt = false →
    (mcReady s.dev t.val x.pkt.tc.val = true → exec (.multicastResidueServe m t) s = .next (s.setDev (placeCopy m.val x.pkt.id t.val x.pkt.tc.val
      (setMQ m.val [{ x with placed := x.placed + 1, residue := [] }] s.dev)))) ∧
    (mcReady s.dev t.val x.pkt.tc.val = false → exec (.multicastResidueServe m t) s = .next s)) ∧
  (∀ s : State, s.dev.get R.QUE_MC_CFG_AGE = 0 → exec .multicastResidueAge s = .next s) ∧
  (∀ (s : State) (m : Nat) (x : MPkt) (t : PortNo), s.dev.applied = true → s.dev.get R.QUE_MC_CFG_AGE ≠ 0 → s.dev.cist.mq = [(m, [x])] →
    x.taken = true → x.residue = [t] → x.pkt.turn + s.dev.get R.QUE_MC_CFG_AGE ≤ s.dev.turn →
    exec .multicastResidueAge s = .next (s.setDev (sweepMq m (modMpkt m x.pkt.id (fun y => { y with residue := [] })
      (dropOut t.val x.pkt true 8 1 (s.dev.bump R.QUE_MC_AGEDROP_COUNT)))))) ∧
  (∀ (d : Dev) (m id p tc : Nat), (placeCopy m id p tc d).fifo p tc = d.fifo p tc ++ [(m, id)])

/-- R204, R205: a port that stays down is flushed; software flushes one queue of the packets it held, a unicast queue of all of them and a
multicast queue of what the replicator still holds. -/
def Obligations.QueueFlushes : Prop :=
  (∀ (s : State) (p : PortNo) (n : Nat), s.dev.applied = true → (s.dev.link p.val).flushed = false → (s.dev.link p.val).downSince = some n →
    (n + s.dev.get R.QUE_CFG_DOWNFLUSH ≤ s.dev.turn → exec (.downflushExpiry p) s = .next (s.setDev (flushPort p s.dev))) ∧
    (s.dev.turn < n + s.dev.get R.QUE_CFG_DOWNFLUSH → exec (.downflushExpiry p) s = .next s)) ∧
  (∀ (d : Dev) (p : PortNo), ((flushPort p d).link p.val).flushed = true) ∧
  (∀ (s : State) (w : CsrW), s.dev.running = true → s.dev.on R.QUE_FLUSH_BUSY = false → wOn w R.QUE_FLUSH_GO = true →
    ∃ t : State, exec (.queueFlush w) s = .next t ∧ (∃ n, t.dev.cist.flushing = some (wBits w R.QUE_FLUSH_QUEUE, n)) ∧
      t.dev.get R.QUE_FLUSH_BUSY = 1 ∧ t.dev.get R.QUE_FLUSH_GO = 0 ∧ t.dev.get R.QUE_FLUSH_COUNT = 0) ∧
  (∀ (s : State) (w : CsrW), s.dev.running = true → s.dev.on R.QUE_FLUSH_BUSY = true →
    exec (.queueFlush w) s = .next (s.setDev (refuseCsr R.QUE_FLUSH w s.dev))) ∧
  (∀ (s : State) (q mark : Nat), s.dev.applied = true → s.dev.cist.flushing = some (q, mark) →
    ∃ t : State, exec .queueFlushDone s = .next t ∧ t.dev.cist.flushing = none ∧ t.dev.get R.QUE_FLUSH_BUSY = 0 ∧
      (q < 8192 → t.dev.get R.QUE_FLUSH_COUNT = min 16383 ((s.dev.uq q).pkts.filter (fun p => decide (p.id < mark))).length) ∧
      (8192 ≤ q → q < 9216 → t.dev.get R.QUE_FLUSH_COUNT = min 16383 ((s.dev.mq (q - 8192)).filter (fun x =>
        decide (x.pkt.id < mark) && (!x.taken || !x.residue.isEmpty))).length)) ∧
  (∀ s : State, s.dev.cist.flushing = none → exec .queueFlushDone s = .next s)

/-- R218, R220, R225 to R228, R470: remote levels expire; a swap whose T0 has come is due at the boundary and the schedule changes; congestion
maps are taken at their interval, whichever way they are sent. -/
def Obligations.SprayAndSchedule : Prop :=
  (∀ (s : State) (p : PortNo), s.dev.applied = true → s.dev.get (R.SPRAY_RLVL_TTL p.val) = 0 →
    ∃ t : State, exec (.remoteLevelExpiry p) s = .next t ∧ t.dev.get (R.SPRAY_PLVL_REMOTE p.val) = 0 ∧
      t.dev.get (R.SPRAY_PLVL_EFF p.val) = s.dev.get (R.SPRAY_PLVL_LOCAL p.val) ∧
      (∀ a, a ≠ R.SPRAY_PLVL p.val → t.dev.rd a = s.dev.rd a)) ∧
  (∀ (s : State) (w : CsrW), s.dev.running = true → s.dev.on R.SPRAY_SCHED_CFG_PENDING = false → wOn w R.SPRAY_SCHED_CFG_SWAP = true →
    ∃ t : State, exec (.scheduleSwapRequest w) s = .next t ∧ t.dev.get R.SPRAY_SCHED_CFG_PENDING = 1 ∧ t.dev.get R.SPRAY_SCHED_CFG_SWAP = 0) ∧
  (∀ (late : Bool) (d : Dev), (scheduleBoundary late d).spray.swapDue =
    (d.on R.SPRAY_SCHED_CFG_PENDING && decide (d.rd64 R.SPRAY_SCHED_START ≤ d.turn))) ∧
  (∀ s : State, s.dev.applied = true → s.dev.boot.turnsBegun = true → s.dev.on R.SPRAY_SCHED_CFG_PENDING = true → s.dev.spray.swapDue = true →
    ∃ t : State, exec .scheduleSwap s = .next t ∧ t.dev.get R.SPRAY_SCHED_CFG_BANK = 1 - s.dev.get R.SPRAY_SCHED_CFG_BANK ∧
      t.dev.get R.SPRAY_SCHED_STAT_PERIOD = s.dev.get R.SPRAY_SCHED_CFG_NPERIOD ∧ t.dev.get R.SPRAY_SCHED_CFG_PENDING = 0 ∧
      t.dev.spray.start = s.dev.rd64 R.SPRAY_SCHED_START ∧ t.dev.spray.swapDue = false) ∧
  (∀ s : State, (s.dev.on R.SPRAY_SCHED_CFG_PENDING = false ∨ s.dev.spray.swapDue = false) → exec .scheduleSwap s = .next s) ∧
  (∀ s : State, s.dev.get R.SPRAY_MAP_CFG_INT = 0 → exec .congestionMap s = .next s) ∧
  (∀ s : State, s.dev.applied = true → s.dev.boot.turnsBegun = true → s.dev.get R.SPRAY_MAP_CFG_INT ≠ 0 →
    (s.dev.get R.SPRAY_MAP_CFG_DEST = 1 ∨ s.dev.get R.SPRAY_MAP_CFG_DEST = 2) →
    s.dev.turn % s.dev.get R.SPRAY_MAP_CFG_INT = 0 → s.dev.spray.mapTurn ≠ some s.dev.turn →
    (mapUnsent s.dev = false →
      ∃ t : State, exec .congestionMap s = .next t ∧ t.dev.spray.mapSeq = (s.dev.spray.mapSeq + 1) % 65536 ∧ t.dev.spray.detections = [] ∧
        t.dev.spray.visited = (0, 0) ∧ mapUnsent t.dev = true) ∧
    (mapUnsent s.dev = true →
      exec .congestionMap s = .next (s.setDev (let d := s.dev.bump (R.GAUGE_TEL_CNT_COUNT 2)
        { d with spray := { d.spray with mapSeq := (s.dev.spray.mapSeq + 1) % 65536, mapTurn := some s.dev.turn } }))))

/-! ### The basin -/

/-- R242, R245, R260, R262, R530: a claimed packet at the front is acted on by the command of its kind once it is whole; one that fails its
checks is answered; a down result goes out again through the stage's own group, once nothing that the basin built waits before it. -/
def Obligations.BasinClaims : Prop :=
  (∀ (s : State) (p : Pkt) (rest : List Pkt) (g : Nat) (e : List Byte) (k : Claim), s.dev.applied = true → s.dev.cist.toBasin = p :: rest →
    p.whole = true →
    let d := consumePkt p { s.dev with cist := { s.dev.cist with toBasin := rest } }
    claimOf p.bytes d = some (g, e, k) → claimBad (ofpHdr p.bytes) p.job e = none →
    (ckind (ofpPayload p.bytes) ≠ 1 → ckind (ofpPayload p.bytes) ≠ 2 →
      ∀ u : Bool, exec (.basinContribution u) s = .next (s.setDev (takeContribution p g e u d))) ∧
    (ckind (ofpPayload p.bytes) = 1 → basinWaits s.dev = false → exec .downResultRebroadcast s = .next (s.setDev (rebroadcast p g e d))) ∧
    (ckind (ofpPayload p.bytes) = 2 → exec .basinAbortPacket s = .next (s.setDev (takeAbort p g e d)))) ∧
  (∀ (s : State) (p : Pkt) (rest : List Pkt) (g : Nat) (e : List Byte) (k : Claim) (r st : Nat), s.dev.applied = true →
    s.dev.cist.toBasin = p :: rest → p.whole = true →
    let d := consumePkt p { s.dev with cist := { s.dev.cist with toBasin := rest } }
    claimOf p.bytes d = some (g, e, k) → claimBad (ofpHdr p.bytes) p.job e = some (r, st) →
    let t := s.setDev (answer p.bytes p.job st none (d.bump (R.BASIN_CNT_COUNT r)))
    (ckind (ofpPayload p.bytes) ≠ 1 → ckind (ofpPayload p.bytes) ≠ 2 → ∀ u : Bool, exec (.basinContribution u) s = .next t) ∧
    (ckind (ofpPayload p.bytes) = 1 → basinWaits s.dev = false → exec .downResultRebroadcast s = .next t) ∧
    (ckind (ofpPayload p.bytes) = 2 → exec .basinAbortPacket s = .next t)) ∧
  (∀ (s : State) (p : Pkt) (rest : List Pkt) (u : Bool), s.dev.cist.toBasin = p :: rest → p.whole = false →
    exec (.basinContribution u) s = .next s ∧ exec .basinAbortPacket s = .next s ∧ exec .downResultRebroadcast s = .next s) ∧
  (∀ s : State, basinWaits s.dev = true → exec .downResultRebroadcast s = .next s)

/-- R248 to R250, R258, R262: a second copy of a piece changes no sum; the last piece of the last member commits the chunk; a tombstone only
answers; an abort closes an open context. R259, R262, R263, R265, R269, R530: emission, aborts by software, and timeouts and retirement at the
visits of a turn. -/
def Obligations.BasinContexts : Prop :=
  (∀ (n : Nat) (c : Ctx) (p : Pkt) (bad : Bool) (els : List (Nat × Nat × List Nat)) (d : Dev),
    c.arrived.contains (beAt (ofpPayload p.bytes) 4 2, beBits (ofpPayload p.bytes) 1 2 15 6) = true →
    contribute n c p bad els d = putCtx n { c with dups := c.dups + 1 } (d.bump (R.BASIN_CNT_COUNT 7))) ∧
  (∀ (n : Nat) (c : Ctx) (d : Dev), c.st = .opened → gNmemb c.entry * npiece c.entry ≤ c.arrived.length →
    SMap.get? (commitAt n c d).basin.ctx n = some { c with st := .emitting, since := d.turn, markTurn := d.turn }) ∧
  (∀ (n : Nat) (c : Ctx) (d : Dev), (c.st ≠ .opened ∨ c.arrived.length < gNmemb c.entry * npiece c.entry) → commitAt n c d = putCtx n c d) ∧
  (∀ (p : Pkt) (g : Nat) (e : List Byte) (u : Bool) (d : Dev) (n : Nat) (c : Ctx), findCtx g (ofpHdr p.bytes).chunk d = some (n, c) →
    c.tomb = true → (takeContribution p g e u d).basin.ctx = d.basin.ctx) ∧
  (∀ (n : Nat) (c : Ctx) (st : CtxState) (status : Nat) (d : Dev), ∃ x, SMap.get? (endCtx n c st status d).basin.ctx n = some x ∧ x.st = st ∧
    x.slots = 0 ∧ x.places = [] ∧ x.acc = [] ∧ x.arrived = c.arrived ∧ x.dups = c.dups) ∧
  (∀ (g chunk : Nat) (e : Option (List Byte)) (d : Dev) (n : Nat) (c : Ctx), findCtx g chunk d = some (n, c) → c.st = .opened →
    (decideAbort g chunk e d).2 = endCtx n c .aborted 3 (d.bump (R.BASIN_CNT_COUNT 4)) ∧ (decideAbort g chunk e d).1.1 = 3) ∧
  (∀ (g chunk : Nat) (e : Option (List Byte)) (d : Dev) (n : Nat) (c : Ctx), findCtx g chunk d = some (n, c) → c.st = .done →
    (decideAbort g chunk e d).2 = d.bump (R.BASIN_CNT_COUNT 5) ∧ (decideAbort g chunk e d).1.1 = 2) ∧
  (∀ (s : State) (n : Fin 32768) (c : Ctx) (bad : List Nat), s.dev.applied = true → SMap.get? s.dev.basin.ctx n.val = some c → c.st = .emitting →
    basinWaits s.dev = false → ∃ t : State, exec (.chunkEmit n bad) s = .next t ∧
      ∃ x, SMap.get? t.dev.basin.ctx n.val = some x ∧ x.st = .done ∧ x.slots = 0) ∧
  (∀ (s : State) (n : Fin 32768) (bad : List Nat),
    ((SMap.get? s.dev.basin.ctx n.val).all (fun c => c.st != .emitting) = true ∨ basinWaits s.dev = true) →
    exec (.chunkEmit n bad) s = .next s) ∧
  (∀ (s : State) (n : Fin 32768) (c : Ctx), s.dev.applied = true → s.dev.boot.turnsBegun = true → visited s.dev n.val = true →
    SMap.get? s.dev.basin.ctx n.val = some c → c.st = .opened →
    (draining (gJidx c.entry) s.dev = true →
      exec (.chunkTimeout n) s = .next (s.setDev (endCtx n.val c .aborted 3 (s.dev.bump (R.BASIN_CNT_COUNT 4))))) ∧
    (draining (gJidx c.entry) s.dev = false → c.opened + gCtmo c.entry ≤ s.dev.turn →
      exec (.chunkTimeout n) s = .next (s.setDev (endCtx n.val c .timedout 4 (s.dev.bump (R.BASIN_CNT_COUNT 6))))) ∧
    (draining (gJidx c.entry) s.dev = false → s.dev.turn < c.opened + gCtmo c.entry → exec (.chunkTimeout n) s = .next s)) ∧
  (∀ (s : State) (n : Fin 32768) (c : Ctx), s.dev.applied = true → s.dev.boot.turnsBegun = true → visited s.dev n.val = true →
    SMap.get? s.dev.basin.ctx n.val = some c → c.tomb = true →
    (c.since + max 64 (s.dev.get R.BASIN_TIMING_RETIRE) ≤ s.dev.turn →
      ∃ t : State, exec (.tombstoneRetire n) s = .next t ∧ SMap.get? t.dev.basin.ctx n.val = none ∧
        (∀ m, m ≠ n.val → SMap.get? t.dev.basin.ctx m = SMap.get? s.dev.basin.ctx m)) ∧
    (s.dev.turn < c.since + max 64 (s.dev.get R.BASIN_TIMING_RETIRE) → exec (.tombstoneRetire n) s = .next s)) ∧
  (∀ (s : State) (n : Fin 32768), visited s.dev n.val = false → exec (.chunkTimeout n) s = .next s ∧ exec (.tombstoneRetire n) s = .next s) ∧
  (∀ d : Dev, d.basin.visitLate = false → ∀ n, visited d n = true ↔ n / 2048 = (d.ras.boundaries + 15) % 16) ∧
  (∀ (s : State) (w : CsrW), s.dev.running = true → s.dev.on R.BASIN_ABORT_BUSY = false → wOn w R.BASIN_ABORT_GO = true →
    wOn w R.BASIN_ABORT_ALL = false →
    ∃ t : State, exec (.basinAbortWrite w) s = .next t ∧ t.dev.get R.BASIN_ABORT_GO = 0 ∧
      (s.dev.basin.ctx = [] → s.dev.basin.groups = [] → t.dev.get R.BASIN_ABORT_RESULT = 3)) ∧
  (∀ (s : State) (w : CsrW), s.dev.running = true → s.dev.on R.BASIN_ABORT_BUSY = true → wOn w R.BASIN_ABORT_GO = true →
    exec (.basinAbortWrite w) s = .next (s.setDev (refuseCsr R.BASIN_ABORT w s.dev)))

/-! ### Work queues and sluice engines -/

/-- R295 to R299: a descriptor is taken from HEAD and checked: one that fails a check completes with its STATUS and DETAIL, a NOP once every
earlier one has completed, one for an engine is split into tiles. -/
def Obligations.SluiceTake : Prop :=
  (∀ (s : State) (q : SluQ), s.dev.applied = true → mayTake (sluWq q.die.val q.q.val) s.dev = false →
    exec (.sluDescriptorTake q) s = .next (s.setDev (showCr (sluWq q.die.val q.q.val) s.dev))) ∧
  (∀ (s : State) (q : SluQ), s.dev.applied = true → mayTake (sluWq q.die.val q.q.val) s.dev = true → s.dev.dieState (q.die.val + 10) = 3 →
    exec (.sluDescriptorTake q) s = .next (s.setDev (finishJob (sluWq q.die.val q.q.val) (sluCnt q.die.val) s.dev.eng.nextJob 8
      (takeJob (sluWq q.die.val q.q.val) id s.dev)))) ∧
  (∀ (s : State) (q : SluQ) (j : Job), s.dev.applied = true → mayTake (sluWq q.die.val q.q.val) s.dev = true →
    s.dev.dieState (q.die.val + 10) = 2 → s.dev.on (R.SLU_WQ_HEAD_STOPPED q.die.val q.q.val) = false → dieLoad q.die.val s.dev < 32 →
    let w := sluWq q.die.val q.q.val
    let d := takeJob w id s.dev
    jobOf w.key s.dev.eng.nextJob d = some j →
    (∀ st detail, sluCheck q.die.val q.q.val j d = some (st, detail) →
      exec (.sluDescriptorTake q) s = .next (s.setDev (finishJob w (sluCnt q.die.val) s.dev.eng.nextJob st
        (modJob w.key s.dev.eng.nextJob (fun j => { j with detail := detail }) d)))) ∧
    (sluCheck q.die.val q.q.val j d = none → j.op = 0 → exec (.sluDescriptorTake q) s = .next (s.setDev d)) ∧
    (sluCheck q.die.val q.q.val j d = none → j.op ≠ 0 → poolSize q.die.val (d.get (R.SLU_WQ_CFG_POOL q.die.val q.q.val)) d ≠ 0 →
      let x := splitJob (splitOf j.op d) j.m (poolSize q.die.val (d.get (R.SLU_WQ_CFG_POOL q.die.val q.q.val)) d)
      0 < x.2 → exec (.sluDescriptorTake q) s = .next (s.setDev
        (modJob w.key s.dev.eng.nextJob (fun j => { j with per := x.1, tiles := x.2 }) d)))) ∧
  (∀ (s : State) (q : SluQ) (j : Job), s.dev.applied = true → liveJob (sluWq q.die.val q.q.val).key (fun j => j.op == 0) s.dev = some j →
    (earlierDone (sluWq q.die.val q.q.val) j.id s.dev = true →
      exec (.sluNop q) s = .next (s.setDev (finishJob (sluWq q.die.val q.q.val) (sluCnt q.die.val) j.id 0 s.dev))) ∧
    (earlierDone (sluWq q.die.val q.q.val) j.id s.dev = false → exec (.sluNop q) s = .next s))

/-- R290, R300 to R303, R305: the next tile dealt and not computed of a queue's oldest such descriptor runs: what it wrote, its clipped elements and
its cycles stand, and an uncorrectable operand ends it with POISON. R311, R313: a loadable kernel makes its writes, and one outside the windows
ends the tile with BADADDR. -/
def Obligations.SluiceKernels : Prop :=
  (∀ (s : State) (q : SluQ) (op : Nat) (j : Job), s.dev.applied = true →
    liveJob (sluWq q.die.val q.q.val).key (fun j => j.op == op && !(openTiles j).isEmpty) s.dev = some j →
    let t := (openTiles j).headD 0
    let o := runTile q.die.val j t s.dev
    (tileReads j t).any (fun r => regionPoisoned r s.dev) = false → ∀ c, o.cycles = some c →
    let u := s.setDev (modJob (sluWq q.die.val q.q.val).key j.id (fun _ => { j with
      computed := t + 1, sat := j.sat + o.sat, cycles := j.cycles + c, detail := o.keys }) o.dev)
    (op = 1 → exec (.lrp q) s = .next u) ∧ (op = 2 → exec (.lrx q) s = .next u)) ∧
  (∀ (s : State) (q : SluQ) (op : Nat) (j : Job), s.dev.applied = true →
    liveJob (sluWq q.die.val q.q.val).key (fun j => j.op == op && !(openTiles j).isEmpty) s.dev = some j →
    let t := (openTiles j).headD 0
    let o := runTile q.die.val j t s.dev
    (tileReads j t).any (fun r => regionPoisoned r s.dev) = false → o.cycles = none →
    let u := s.setDev (modJob (sluWq q.die.val q.q.val).key j.id (fun _ => { j with
      computed := t + 1, sat := j.sat + o.sat, cycles := j.cycles + (Config.freeValue o.dev.freeCtr).toNat, detail := o.keys }) o.dev.draw.2)
    (op = 3 → exec (.outer q) s = .next u) ∧ (op = 4 → exec (.req q) s = .next u) ∧ (op = 5 → exec (.pool q) s = .next u)) ∧
  (∀ (s : State) (q : SluQ) (op : Nat) (j : Job), s.dev.applied = true →
    liveJob (sluWq q.die.val q.q.val).key (fun j => j.op == op && !(openTiles j).isEmpty) s.dev = some j →
    (tileReads j ((openTiles j).headD 0)).any (fun r => regionPoisoned r s.dev) = true →
    let ends (c : Instr) : Prop := ∃ t : State, exec c s = .next t ∧ ∃ k, jobOf (sluWq q.die.val q.q.val).key j.id t.dev = some k ∧
      k.errs = j.errs ++ [((openTiles j).headD 0, 4)] ∧ k.computed = (openTiles j).headD 0 + 1
    (op = 1 → ends (.lrp q)) ∧ (op = 2 → ends (.lrx q)) ∧ (op = 3 → ends (.outer q)) ∧ (op = 4 → ends (.req q)) ∧ (op = 5 → ends (.pool q))) ∧
  (∀ (s : State) (q : SluQ) (j : Job) (cycles : Nat) (ws : List (Nat × List Byte)), s.dev.applied = true →
    liveJob (sluWq q.die.val q.q.val).key (fun j => decide (0x40 ≤ j.op) && !(openTiles j).isEmpty) s.dev = some j →
    (∀ x ∈ ws, opWindow (sluWq q.die.val q.q.val) true x.1 x.2.length s.dev = true) →
    exec (.loadableKernel q cycles false ws) s = .next (s.setDev (modJob (sluWq q.die.val q.q.val).key j.id
      (fun k => { k with computed := (openTiles j).headD 0 + 1, cycles := k.cycles + cycles,
                         wrote := k.wrote ++ ws.map (fun x => ((openTiles j).headD 0, x.1, x.2.length)) })
      (Dev.each ws (fun x d => unitAccess (64 * q.die.val) 1 (x.1, x.2.length) (d.writeMem (spOf x.1) (adrOf x.1) x.2)) s.dev)))) ∧
  (∀ (s : State) (q : SluQ) (j : Job) (cycles : Nat) (outside : Bool) (ws : List (Nat × List Byte)), s.dev.applied = true →
    liveJob (sluWq q.die.val q.q.val).key (fun j => decide (0x40 ≤ j.op) && !(openTiles j).isEmpty) s.dev = some j →
    jobOf (sluWq q.die.val q.q.val).key j.id s.dev = some j →
    (outside = true ∨ ∃ x ∈ ws, opWindow (sluWq q.die.val q.q.val) true x.1 x.2.length s.dev = false) →
    ∃ t : State, exec (.loadableKernel q cycles outside ws) s = .next t ∧ ∃ k, jobOf (sluWq q.die.val q.q.val).key j.id t.dev = some k ∧
      k.errs = j.errs ++ [((openTiles j).headD 0, 3)] ∧ k.computed = (openTiles j).headD 0 + 1) ∧
  (∀ (m : Nat) (j : Job) (t : Nat) (d : Dev), (j.op = 1 ∨ j.op = 2) → (runTile m j t d).cycles = some (macCycles j (tileSpan j t).2)) ∧
  (∀ (m : Nat) (j : Job) (t : Nat) (d : Dev), j.op ≠ 1 → j.op ≠ 2 → (runTile m j t d).cycles = none)

/-- R300, R301: the rows of a projection and an expansion: element (r, c) of a tile is the dot product of row r of A and row c of B, and for the
expansion α times it plus C. -/
def Obligations.MatrixRows : Prop :=
  (∀ (j : Job) (lo n : Nat) (d : Dev), (lrpOut j lo n d).length = n * j.k ∧ (lrxOut j lo n d).length = n * j.n) ∧
  (∀ (j : Job) (lo n r c : Nat) (d : Dev), r < n → c < j.k →
    (lrpOut j lo n d)[r * j.k + c]? = some (dot ⟨j.addrA, j.fmtA, j.m * j.n⟩ ⟨j.addrB, j.fmtB, j.k * j.n⟩ ((lo + r) * j.n) (c * j.n) j.n d)) ∧
  (∀ (j : Job) (lo n r c : Nat) (d : Dev), r < n → c < j.n → j.addrC = 0 →
    (lrxOut j lo n d)[r * j.n + c]? = some (fmaF j.param0
      (dot ⟨j.addrA, j.fmtA, j.m * j.k⟩ ⟨j.addrB, j.fmtB, j.n * j.k⟩ ((lo + r) * j.k) (c * j.k) j.k d) 0))

/-- R296: the tiles of a descriptor cover its rows once: they lie one after another, none past the last row, and none is empty. -/
def Obligations.TilesCover : Prop :=
  ∀ (mm e : Nat), 0 < e → 0 < mm →
    let x := splitJob 1 mm e
    (x.1 % 8 = 0) ∧ x.2 ≤ e ∧ (x.2 - 1) * x.1 < mm ∧ mm ≤ x.2 * x.1

/-- R296, R297, R304, R305, R310: tiles are dealt and end; the last one ends the descriptor; its record is written in order. -/
def Obligations.SluiceEnds : Prop :=
  (∀ (s : State) (m : Fin 2) (e : Fin 128), s.dev.applied = true →
    (engineUp m.val e.val s.dev = false ∨ SMap.has s.dev.eng.running (128 * m.val + e.val) = true) → exec (.tileDispatch m e) s = .next s) ∧
  (∀ (s : State) (m : Fin 2) (e : Fin 128) (q prio : Nat) (j : Job), s.dev.applied = true → engineUp m.val e.val s.dev = true →
    SMap.has s.dev.eng.running (128 * m.val + e.val) = false →
    nextQueue m.val (enginePool m.val e.val s.dev) s.dev = some (q, prio, j) →
    ∃ t : State, exec (.tileDispatch m e) s = .next t ∧
      SMap.get? t.dev.eng.running (128 * m.val + e.val) = some (64 * m.val + q, j.id, j.dealt) ∧
      t.dev.workQ (64 * m.val + q) = { s.dev.workQ (64 * m.val + q) with
        taken := (s.dev.workQ (64 * m.val + q)).taken.map (fun k => if k.id = j.id then { k with dealt := k.dealt + 1 } else k) }) ∧
  (∀ (s : State) (m : Fin 2) (e : Fin 128) (key id t : Nat) (j : Job), s.dev.applied = true →
    SMap.get? s.dev.eng.running (128 * m.val + e.val) = some (key, id, t) → jobOf key id s.dev = some j →
    (j.computed ≤ t → exec (.tileComplete m e false) s = .next s) ∧
    (t < j.computed → exec (.tileComplete m e false) s = .next (s.setDev (endTile m.val e.val none s.dev)))) ∧
  (∀ (m : Nat) (w : Wq) (id : Nat) (d : Dev) (j : Job), jobOf w.key id d = some j →
    (j.ended < j.tiles → endIfLast m w id d = d) ∧
    (j.tiles ≤ j.ended → j.errs = [] → endIfLast m w id d = finishJob w (sluCnt m) id 0 d) ∧
    (j.tiles ≤ j.ended → firstErr j = some 3 → endIfLast m w id d = raiseCE w.block 2 w.q (finishJob w (sluCnt m) id 3 d)) ∧
    (j.tiles ≤ j.ended → firstErr j = some 4 → endIfLast m w id d = raiseDE w.block 3 w.q (finishJob w (sluCnt m) id 4 d) j.didx)) ∧
  (∀ (s : State) (q : SluQ) (j : Job) (rest : List Job), s.dev.applied = true →
    let w := sluWq q.die.val q.q.val
    s.dev.workQ w.key = ⟨j :: rest, none⟩ →
    (j.status = none → exec (.sluCompletion q) s = .next s) ∧
    (j.status = some 0 → j.crec = false → exec (.sluCompletion q) s = .next (s.setDev (endFlush w (s.dev.setWorkQ w.key ⟨rest, none⟩)))) ∧
    (∀ st, j.status = some st → (st ≠ 0 ∨ j.crec = true) → s.dev.ringOn w.cr = false → exec (.sluCompletion q) s = .next s) ∧
    (∀ st, j.status = some st → (st ≠ 0 ∨ j.crec = true) → s.dev.ringOn w.cr = true → s.dev.ringFull w.cr = true →
      exec (.sluCompletion q) s = .next (s.setDev (showCr w s.dev))) ∧
    (∀ st, j.status = some st → (st ≠ 0 ∨ j.crec = true) → s.dev.ringOn w.cr = true → s.dev.ringFull w.cr = false →
      exec (.sluCompletion q) s = .next (s.setDev (showCr w (endFlush w
        ((resAccess w.key 1 (s.dev.rd64 w.cr.base + 32 * s.dev.get w.cr.head) 32 (s.dev.ringPush w.cr (sluRecord j st s.dev))).setWorkQ
          w.key ⟨rest, none⟩)))) ∧
      (sluRecord j st s.dev).length = 32))

/-- R305 to R308, R316, R488, R531: watchdog, flush, a failed engine, and a ring's configuration. -/
def Obligations.SluiceControl : Prop :=
  (∀ (s : State) (q : SluQ) (j : Job) (rest : List Job), s.dev.applied = true → timedOut (sluWq q.die.val q.q.val) s.dev = j :: rest →
    exec (.sluWatchdogTimeout q) s = .next (s.setDev (finishJob (sluWq q.die.val q.q.val) (sluCnt q.die.val) j.id 5
      (raiseCE (blkSlu q.die.val) 4 q.q.val (stopJob q.die.val j s.dev) j.didx)))) ∧
  (∀ (s : State) (q : SluQ), s.dev.applied = true → timedOut (sluWq q.die.val q.q.val) s.dev = [] → exec (.sluWatchdogTimeout q) s = .next s) ∧
  (∀ (s : State) (q : SluQ) (w : CsrW), s.dev.running = true → s.dev.computeFitted q.die.val = true →
    s.dev.on (R.SLU_WQ_CTL_BUSY q.die.val q.q.val) = false → w.val.toNat % 2 = 1 →
    ∃ t : State, exec (.sluQueueFlush q w) s = .next t ∧ t.dev.get (R.SLU_WQ_CTL_BUSY q.die.val q.q.val) = 1 ∧
      (t.dev.workQ (sluWq q.die.val q.q.val).key).flushTail = some (s.dev.get (R.SLU_WQ_TAIL_TAIL q.die.val q.q.val), s.dev.ras.boundaries)) ∧
  (∀ (s : State) (q : SluQ) (w : CsrW), s.dev.running = true → s.dev.computeFitted q.die.val = true →
    s.dev.on (R.SLU_WQ_CTL_BUSY q.die.val q.q.val) = true → w.val.toNat % 2 = 1 →
    exec (.sluQueueFlush q w) s = .next (s.setDev (refuseCsr (R.SLU_WQ_CTL q.die.val q.q.val) w s.dev))) ∧
  (∀ (s : State) (q : SluQ), (s.dev.workQ (sluWq q.die.val q.q.val).key).flushTail = none →
    exec (.sluFlushApply q) s = .next s) ∧
  (∀ (s : State) (q : SluQ) (t since : Nat), (s.dev.workQ (sluWq q.die.val q.q.val).key).flushTail = some (t, since) →
    s.dev.ras.boundaries ≤ since → exec (.sluFlushApply q) s = .next s) ∧
  (∀ (s : State) (q : SluQ) (since : Nat), s.dev.applied = true →
    let w := sluWq q.die.val q.q.val
    s.dev.workQ w.key = ⟨[], some (s.dev.get w.ring.head, since)⟩ → since < s.dev.ras.boundaries → 0 < s.dev.get w.ring.size →
    exec (.sluFlushApply q) s = .next (s.setDev (endFlush w ((s.dev.setWorkQ w.key ⟨[], none⟩).set w.flush 0)))) ∧
  (∀ (s : State) (m : Fin 2) (e : Fin 128), s.dev.applied = true → SMap.get? s.dev.eng.running (128 * m.val + e.val) = none →
    exec (.sluEngineFault m e) s = .next s) ∧
  (∀ (s : State) (m : Fin 2) (e : Fin 128) (key id t : Nat), s.dev.applied = true →
    SMap.get? s.dev.eng.running (128 * m.val + e.val) = some (key, id, t) →
    ((∀ j, jobOf key id s.dev = some j → t < j.computed) → exec (.sluEngineFault m e) s = .next (s.setDev
      (endTile m.val e.val (some 8) (replaceEngine m.val e.val true (raiseDE (blkSlu m.val) 5 e.val s.dev))))) ∧
    (∀ j, jobOf key id s.dev = some j → j.computed ≤ t → exec (.sluEngineFault m e) s = .next (s.setDev
      (endTile m.val e.val (some 8) (replaceEngine m.val e.val true (raiseDE (blkSlu m.val) 5 e.val
        (mixLines (runTile m.val j t s.dev).dev (tileWrites j t) s.dev))))))) ∧
  (∀ (s : State) (a : Word) (w : CsrW) (r : RingRef) (h : RegHit), s.dev.running = true → ringOfCfg a.toNat s.dev = some (r, none) →
    findReg a.toNat = some h → s.dev.unitFitted h = true →
    (ringFixed r s.dev = true → wBits w r.size ≠ s.dev.get r.size →
      exec (.ringConfigWrite a w) s = .next (s.setDev (releaseHeld (refuseCsr a.toNat w s.dev)))) ∧
    (ringFixed r s.dev = false → wBits w r.size ≠ s.dev.get r.size →
      exec (.ringConfigWrite a w) s = .next (s.setDev (releaseHeld (((clearStopped h (writeCsr w.req a.toNat w.val s.dev)).set r.head 0).set r.tail 0)))))

/-! ### The flume -/

/-- R365 to R367: a flume descriptor is taken and checked; it runs in its queue's order where ORDER asks for that, and its outcome is kept for its
record of 32 bytes (R368). -/
def Obligations.FlumeQueue : Prop :=
  (∀ (s : State) (q : Fin 16), s.dev.applied = true → mayTake (flumeWq q.val) s.dev = false →
    exec (.flumeDescriptorTake q) s = .next (s.setDev (showCr (flumeWq q.val) s.dev))) ∧
  (∀ (s : State) (q : Fin 16) (j : Job), s.dev.applied = true → mayTake (flumeWq q.val) s.dev = true →
    let w := flumeWq q.val
    let d := takeJob w id s.dev
    jobOf w.key s.dev.eng.nextJob d = some j →
    (∀ st detail, flumeCheck q.val j d = some (st, detail) →
      exec (.flumeDescriptorTake q) s = .next (s.setDev (finishJob w flumeCnt s.dev.eng.nextJob st
        (modJob w.key s.dev.eng.nextJob (fun j => { j with detail := detail }) d)))) ∧
    (flumeCheck q.val j d = none → j.order = false →
      exec (.flumeDescriptorTake q) s = .next (s.setDev (modJob w.key s.dev.eng.nextJob (fun j => { j with tiles := 1, dealt := 1 }) d)))) ∧
  (∀ (s : State) (q : Fin 16) (j : Job), s.dev.applied = true → liveJob (flumeWq q.val).key (fun j => j.op == 0) s.dev = some j →
    earlierDone (flumeWq q.val) j.id s.dev = true → exec (.flumeNop q) s = .next (s.setDev (finishJob (flumeWq q.val) flumeCnt j.id 0 s.dev))) ∧
  (∀ (s : State) (q : Fin 16) (op : Nat) (j : Job), s.dev.applied = true → s.dev.get R.FLUME_STAT_INSVC ≠ 0 →
    liveJob (flumeWq q.val).key (fun j => j.op == op) s.dev = some j → (j.order = false ∨ earlierDone (flumeWq q.val) j.id s.dev = true) →
    let o : FlumeOut := match op with | 1 => runEncode j s.dev | 2 => runDecode j s.dev | 3 => runSnap j.count j s.dev | _ => runFold j.count j s.dev
    let d := modJob (flumeWq q.val).key j.id (fun j => { j with detail := o.detail, detail2 := o.detail2, prevTurn := o.prevTurn }) o.dev
    let t := s.setDev (finishJob (flumeWq q.val) flumeCnt j.id o.status (if o.status = 4 then raiseDE blkFlume 3 q.val d j.didx else d))
    (op = 1 → exec (.encode q) s = .next t) ∧ (op = 2 → exec (.decode q) s = .next t) ∧
    (op = 3 → exec (.snap q) s = .next t) ∧ (op = 4 → exec (.fold q) s = .next t)) ∧
  (∀ (s : State) (q : Fin 16) (j : Job) (rest : List Job), s.dev.applied = true →
    let w := flumeWq q.val
    let d := { s.dev with freeCtr := s.dev.freeCtr + 3 }
    s.dev.workQ w.key = ⟨j :: rest, none⟩ →
    (j.status = some 0 → j.crec = false → exec (.flumeCompletion q) s = .next (s.setDev (endFlush w (d.setWorkQ w.key ⟨rest, none⟩)))) ∧
    (∀ st, j.status = some st → (st ≠ 0 ∨ j.crec = true) → s.dev.ringOn w.cr = true → s.dev.ringFull w.cr = false →
      exec (.flumeCompletion q) s = .next (s.setDev (showCr w (endFlush w
        ((resAccess w.key 1 (s.dev.rd64 w.cr.base + 32 * s.dev.get w.cr.head) 32 (d.ringPush w.cr (flumeRecord j st d))).setWorkQ
          w.key ⟨rest, none⟩)))))) ∧
  (∀ (j : Job) (st : Nat) (d : Dev), (flumeRecord j st d).length = 32)

/-- R358 to R361: coding keeps every bit. A block of 2,048 elements that is coded under a prefix-free code whose codes fit their lengths, and one
that is stored raw, decode to the bytes they came from, whatever stands in the rest of the slot. -/
def Obligations.FlumeRoundTrip : Prop :=
  ∀ (fmt tid : Nat) (table raw rest : List Byte), (fmt = 2 ∨ fmt = 3) → tid < 256 → beAt table 5 1 = tid → raw.length = 4096 →
    let code := canonical (tableLens table)
    (∀ c ∈ code, 1 ≤ c.1 ∧ c.1 ≤ 15 ∧ c.2.2 < 2 ^ c.1) → (∀ c ∈ code, ∀ e ∈ code, c.1 ≤ e.1 → e.2.2 / 2 ^ (e.1 - c.1) = c.2.2 → c = e) →
    (∀ bytes, codeBlock fmt code raw = some bytes →
      decodeBlock fmt table (mapEntry false bytes.length tid raw) (bytes ++ rest) = .ok raw) ∧
    decodeBlock fmt table (mapEntry true 4096 tid raw) raw = .ok raw

/-! ### Tally memory -/

/-- R378, R379: intake. A request that passes the checks becomes pending and joins its line; one that fails is refused with its counter and
STATUS. -/
def Obligations.TallyIntake : Prop :=
  (∀ (s : State) (p : Pkt) (rest : List Pkt) (op : Nat), s.dev.applied = true → s.dev.cist.toTally = p :: rest → p.whole = true →
    opcIs op (ofpPayload p.bytes) = true → (s.dev.cist.built.filter (fun b => decide (16 ≤ b.engine))).length < 8192 →
    let d := consumePkt p { s.dev with cist := { s.dev.cist with toTally := rest } }
    let r := tallyPkt p
    let u := match intakeCheck r d with
      | some x => tallyRefuse x.1 x.2 r d
      | none => combine (tallyLine r.jidx.val (tLine r.payload) d) r ((d.incr R.TALLY_STAT_PEND).incr (R.TALLY_JUSE_PEND r.jidx.val))
    (op = 0 → exec .tallyRead s = .next (s.setDev u)) ∧ (op = 1 → exec .tallyWrite s = .next (s.setDev u)) ∧
    (op = 2 → exec .tallyAdd s = .next (s.setDev u)) ∧ (op = 3 → exec .tallyCas s = .next (s.setDev u)) ∧
    (op = 4 → exec .tallyMax s = .next (s.setDev u))) ∧
  (∀ (r : TallyPkt) (d : Dev), requestOk r.payload = false → intakeCheck r d = some (6, 3)) ∧
  (∀ (r : TallyPkt) (d : Dev), requestOk r.payload = true → d.get R.TALLY_CFG_MAXHOPS < r.hops → intakeCheck r d = some (8, 5)) ∧
  (∀ (r : TallyPkt) (d : Dev), intakeCheck r d = none → jwinValid r.jidx.val d = true ∧ tLine r.payload < 1024 * jwinSize r.jidx.val d ∧
    r.hops ≤ d.get R.TALLY_CFG_MAXHOPS ∧ regionLost (tallyLine r.jidx.val (tLine r.payload) d / 64) d = false ∧
    linePending (tallyLine r.jidx.val (tLine r.payload) d) d < 4096 ∧ d.get R.TALLY_STAT_PEND < 524288) ∧
  (∀ (d : Dev) (n : Nat) (r : TallyPkt), SMap.getD d.tally.q n [] = [] →
    SMap.getD (combine n r d).tally.q n [] = [⟨tOpc r.payload, tAtype r.payload, tOffset r.payload, [r]⟩])

/-- R377, R382 to R384: lines are read, entries take effect in order, answers go out, and lost regions are released. -/
def Obligations.TallyLines : Prop :=
  (∀ (s : State) (n : Fin 8589934592) (e : TallyEntry) (rest : List TallyEntry), s.dev.applied = true →
    SMap.getD s.dev.tally.q n.val [] = e :: rest → s.dev.tally.cached.contains n.val = false →
    s.dev.poisoned 1 (lineAddr n.val s.dev) 64 = false →
    exec (.tallyLineFill n) s = .next (s.setDev (tallyFetch n.val (let d := s.dev.bump (R.TALLY_CNT_COUNT 9)
      { d with tally := { d.tally with cached := d.tally.cached ++ [n.val] } })))) ∧
  (∀ (s : State) (n : Fin 8589934592) (e : TallyEntry) (r : TallyPkt) (rest : List TallyEntry), s.dev.applied = true →
    SMap.getD s.dev.tally.q n.val [] = e :: rest → e.reqs.head? = some r → s.dev.poisoned 1 (lineAddr n.val s.dev) 64 = true →
    (s.dev.tally.cached.contains n.val = false → exec (.tallyLineFill n) s = .next (s.setDev (tallyFetch n.val
      (loseRegion n.val r (s.dev.bump (R.TALLY_CNT_COUNT 9)))))) ∧
    (s.dev.tally.cached.contains n.val = true → exec (.tallyEntryApply n) s = .next (s.setDev (tallyAccess n.val e.opc (loseRegion n.val r s.dev))))) ∧
  (∀ (s : State) (n : Fin 8589934592), SMap.getD s.dev.tally.q n.val [] = [] →
    exec (.tallyLineFill n) s = .next s ∧ exec (.tallyEntryApply n) s = .next s) ∧
  (∀ (s : State) (n : Fin 8589934592) (e : TallyEntry) (rest : List TallyEntry), s.dev.applied = true →
    SMap.getD s.dev.tally.q n.val [] = e :: rest → s.dev.tally.cached.contains n.val = true →
    s.dev.poisoned 1 (lineAddr n.val s.dev) 64 = false →
    let a := lineAddr n.val s.dev
    let o := applyEntry e (s.dev.readMem 1 a 64)
    exec (.tallyEntryApply n) s = .next (s.setDev (tallyAccess n.val e.opc (setTallyQ n.val rest
      (setTallyAns n.val (SMap.getD s.dev.tally.ans n.val [] ++ o.2.1) (arith o.2.2 (s.dev.writeMem 1 a o.1))))))) ∧
  (∀ (s : State) (n : Fin 8589934592) (a : TallyAns) (rest : List TallyAns), s.dev.applied = true →
    SMap.getD s.dev.tally.ans n.val [] = a :: rest → s.dev.cist.built.any (fun b => b.engine == 16 + tallyEngine n.val) = false →
    exec (.tallyResponseBuild n) s = .next (s.setDev (setTallyAns n.val rest (respond (16 + tallyEngine n.val) a 0
      (((s.dev.drop R.TALLY_STAT_PEND).drop (R.TALLY_JUSE_PEND a.req.jidx.val)).bump (R.TALLY_CNT_COUNT (if a.status = 0 then 0 else 5))))))) ∧
  (∀ (s : State) (w : CsrW), s.dev.running = true → wOn w R.TALLY_LOST_CLR_GO = true →
    (let v := s.dev.rd64 (R.TALLY_LOST (wBits w R.TALLY_LOST_CLR_IDX))
     (bitAt v 63 = false ∨ windowCovers (bitsOf v 0 27) s.dev = false)) →
    ∃ t : State, exec (.tallyRegionRelease w) s = .next t ∧ t.dev.get R.TALLY_LOST_CLR_GO = 0 ∧
      t.dev.rd64 (R.TALLY_LOST (wBits w R.TALLY_LOST_CLR_IDX)) = 0) ∧
  (∀ (e : TallyEntry) (r : TallyPkt) (line : List Byte), e.opc = 3 → e.reqs = [r] →
    (leAt line e.offset (atypeBytes e.atype) = tOpnd r.payload →
      applyEntry e line = (patch line e.offset (leBytes (atypeBytes e.atype) (tSwap r.payload)),
        [⟨r, 0, leAt line e.offset (atypeBytes e.atype), true, []⟩], [])) ∧
    (leAt line e.offset (atypeBytes e.atype) ≠ tOpnd r.payload →
      applyEntry e line = (line, [⟨r, 0, leAt line e.offset (atypeBytes e.atype), false, []⟩], [])))

/-- R382: combining changes no answer of an integer operation. A merged run of ADDs or of MAXs leaves the line, and gives each request the old
value, that the requests give one after another in the order of their arrival. -/
def Obligations.CombiningIsSequential : Prop :=
  ∀ (e : TallyEntry) (line : List Byte), (e.opc = 2 ∨ e.opc = 4) → e.atype ≤ 3 → e.offset + atypeBytes e.atype ≤ line.length →
    let q := e.reqs.foldl (fun (x : List Byte × List TallyAns) r =>
      let o := applyEntry { e with reqs := [r] } x.1
      (o.1, x.2 ++ o.2.1)) (line, [])
    (applyEntry e line).1 = q.1 ∧ (applyEntry e line).2.1 = q.2

/-! ### Jobs, groups and the canal tree -/

/-- R395 to R400: batches are staged whole; a record of the turn's batches is applied by the command of its operation, and its STATUS
written. R390, R391, R240, R396: what an accepted record changes. -/
def Obligations.JobRecords : Prop :=
  (∀ s : State, jobBatchFrom s.dev (s.dev.ringCount jupdRing) 0 = none → exec .jobBatchStage s = .next s) ∧
  (∀ (s : State) (b : List JobRec), s.dev.applied = true → jobBatchFrom s.dev (s.dev.ringCount jupdRing) 0 = some b → batchBroken b = true →
    exec .jobBatchStage s = .next (s.setDev ((Dev.each b (fun x => jobStatus x.idx 5) s.dev).ringAdvance jupdRing b.length))) ∧
  (∀ (s : State) (x : JobRec) (t : List JobRec), s.dev.applied = true →
    let b := x :: t
    jobBatchFrom s.dev (s.dev.ringCount jupdRing) 0 = some b → batchBroken b = false → s.dev.jobs.staged + b.length ≤ 16384 →
    s.dev.jobs.lanes = [] →
    exec .jobBatchStage s = .next (s.setDev (let d := s.dev.ringAdvance jupdRing b.length
      { d with jobs := { s.dev.jobs with lanes := [⟨s.dev.jobs.nextLane, BitVec.ofNat 16 (jJob x.bytes), [b]⟩],
                                         nextLane := s.dev.jobs.nextLane + 1, staged := s.dev.jobs.staged + b.length } }))) ∧
  (∀ (s : State) (x : JobRec) (rest : List JobRec) (st : Nat) (d : Dev), s.dev.applied = true → s.dev.boot.turnsBegun = true →
    s.dev.jobs.apply = x :: rest → jobRecord x.bytes s.dev = some (st, d) →
    let t := s.setDev (jobStatus x.idx st { d with jobs := { d.jobs with apply := rest, begun := !jEnd x.bytes, staged := d.jobs.staged - 1 } })
    ((jOp x.bytes = 0 ∨ 6 < jOp x.bytes) → exec .jobUpdateNop s = .next t) ∧ (jOp x.bytes = 1 → exec .activate s = .next t) ∧
    (jOp x.bytes = 2 → exec .teardown s = .next t) ∧ (jOp x.bytes = 3 → exec .groupEntryWrite s = .next t) ∧
    (jOp x.bytes = 4 → exec .groupMapWrite s = .next t) ∧ (jOp x.bytes = 5 → exec .scatterEntryWrite s = .next t) ∧
    (jOp x.bytes = 6 → exec .canalEntryWrite s = .next t)) ∧
  (∀ (d : Dev) (r : List Byte), jOp r = 0 → jobRecord r d = some (1, d)) ∧
  (∀ (d : Dev) (r : List Byte), jOp r ≠ 0 → jJob r = 0 → jobRecord r d = some (3, d)) ∧
  (∀ (d : Dev) (job gen j : Nat), 1 ≤ j → j ≤ 4095 → entryOf j d = none → mapOf job d = (none, none) →
    ∃ e : Dev, recActivate job gen j d = some (1, e) ∧ entryOf j e = some (BitVec.ofNat 16 job, BitVec.ofNat 8 gen, 1) ∧
      (mapOf job e).1 = some (Fin.ofNat 4096 j) ∧ e.jobs.vis = d.jobs.vis) ∧
  (∀ (d : Dev) (job gen j : Nat), (j = 0 ∨ 4095 < j) → recActivate job gen j d = some (3, d)) ∧
  (∀ (d : Dev) (job gen : Nat) (j : JobIdx) (g : Byte), (mapOf job d).1 = some j → (entryOf j.val d).map (fun e => e.2) = some (g, 1) →
    g.toNat = gen → ∃ e : Dev, recTeardown job gen d = some (1, e) ∧ entryOf j.val e = some (BitVec.ofNat 16 job, g, 2) ∧
      e.jobs.vis = d.jobs.vis) ∧
  (∀ (d : Dev) (job gen : Nat), jobEntry job d = none → recTeardown job gen d = some (7, d)) ∧
  (∀ (d : Dev) (job g : Nat) (e : List Byte), g ≤ 65535 → gValid e = false → groupBad e d = false →
    recGroup job g e d = some (1, { d with jobs := { d.jobs with groupChanges := d.jobs.groupChanges ++ [(g, e)] } })) ∧
  (∀ (d : Dev) (grp v : Nat), recMap grp v d = some (1, { d with jobs := { d.jobs with
    mapChanges := d.jobs.mapChanges ++ [(grp % 2 ^ 20, if bitAt v 16 then some (v % 65536) else none)] } })) ∧
  (∀ (d : Dev) (i v : Nat), i ≤ 65535 → recScatter i v d = some (1, { d with jobs := { d.jobs with
    scatterChanges := d.jobs.scatterChanges ++ [(i, BitVec.ofNat 24 v)] } })) ∧
  (∀ (d : Dev) (job : Nat) (e : List Byte), canalValid e = true → activeIdx job d ≠ some (beBits e 4 2 11 0) →
    recCanal job e d = some (3, d))

/-- R393, R394, R404: overdue drains, the end of quarantine, stalled canals. -/
def Obligations.JobTimers : Prop :=
  (∀ (s : State) (j : JobIdx) (job : BitVec 16) (g : Byte) (n : Nat), s.dev.applied = true →
    SMap.get? s.dev.jobs.vis.entry j.val = some (job, g, 2) → SMap.get? s.dev.jobs.drainFrom j.val = some n →
    let tmo := max 1 (s.dev.get R.FWD_JOB_CFG_DRAINTMO)
    (n + tmo ≤ s.dev.turn → exec (.jobDrainOverdue j) s = .next (s.setDev
      (raise ⟨0, blkFwd, 4, j.val, s.dev.get (R.FWD_JOB_RESID j.val), 0, some (job.toNat, g.toNat)⟩
        { s.dev with jobs := { s.dev.jobs with drainFrom := SMap.put s.dev.jobs.drainFrom j.val (n + tmo) } }))) ∧
    (s.dev.turn < n + tmo → exec (.jobDrainOverdue j) s = .next s)) ∧
  (∀ (d : Dev) (j : Nat) (job : BitVec 16) (g : Byte) (n : Nat), SMap.get? d.jobs.vis.entry j = some (job, g, 3) →
    SMap.get? d.jobs.quarFrom j = some n →
    ((quarReady d).contains j = true ↔ n + max 64 (d.get R.FWD_JOB_CFG_QTURNS) ≤ d.turn ∧ d.get (R.CIST_JUSE_CELLS j) = 0)) ∧
  (∀ d : Dev, (jobBoundary d).jobs.quarDone = quarReady (jobIntake (drainChecks (jobsVisible (finishJobBatch d))))) ∧
  (∀ (s : State) (j : JobIdx) (job : BitVec 16) (g : Byte), s.dev.applied = true →
    SMap.get? s.dev.jobs.vis.entry j.val = some (job, g, 3) →
    (s.dev.jobs.quarDone.contains j.val = true →
      ∃ t : State, exec (.jobQuarantineEnd j) s = .next t ∧ SMap.get? t.dev.jobs.vis.entry j.val = none ∧
        (SMap.getD t.dev.jobs.vis.map job.toNat (none, none)).1 = none ∧ t.dev.get (R.FWD_JOB_STATE j.val) = 0) ∧
    (s.dev.jobs.quarDone.contains j.val = false → exec (.jobQuarantineEnd j) s = .next s)) ∧
  (∀ (s : State) (i : Fin 4096) (c : CanalEntry), s.dev.applied = true → SMap.get? s.dev.jobs.canal i.val = some c →
    s.dev.turn % 16 = i.val / 256 → c.done = false → c.stalled = false → cCtmo c.bytes ≠ 0 →
    (c.last + cCtmo c.bytes ≤ s.dev.turn → ∃ t : State, exec (.canalStall i) s = .next t ∧
      SMap.get? t.dev.jobs.canal i.val = some { c with stalled := true }) ∧
    (s.dev.turn < c.last + cCtmo c.bytes → exec (.canalStall i) s = .next s))

/-! ### Long haul -/

/-- R317, R324, R325, R328, R340: a frame on a haul port is checked in order, each failure under its counter; a frame of a link goes to the haul
engine by its HKIND, and one to a link-local address to the control cores; what a share delivers is offered to the home port's pipeline, and waits
where the cistern has no room. -/
def Obligations.HaulReceive : Prop :=
  (∀ (s : State) (p : PortNo) (bs : List Byte) (t4 : TimeVal), s.dev.applied = true → s.dev.isPort p.val = true → s.dev.isHaul p.val = true →
    s.dev.isUp p.val = true → s.dev.nearLoop p.val = false → s.dev.farLoop p.val = false →
    let counts (r : Nat) (d : Dev) : Prop := exec (.haulFrameReceive p bs t4) s = .next (s.setDev (d.bump (R.HAUL_PCNT_COUNT p.val r)))
    let size : Prop := 64 ≤ bs.length ∧ bs.length ≤ 9280
    let control : Prop := (macControl bs 0x0001 || macControl bs 0x0101) = true
    let local_ : Prop := 0x0180C2000000 ≤ beAt bs 0 6 ∧ beAt bs 0 6 ≤ 0x0180C200000F
    (¬ size → counts 6 s.dev) ∧
    (size → crcRun crcStart bs ≠ crcGood → counts 4 s.dev) ∧
    (size → crcRun crcStart bs = crcGood → control → counts 6 s.dev) ∧
    (size → crcRun crcStart bs = crcGood → ¬ control → local_ →
      ∃ t : State, exec (.haulFrameReceive p bs t4) s = .next t ∧ t.dev.haul = s.dev.haul) ∧
    (size → crcRun crcStart bs = crcGood → ¬ control → ¬ local_ →
      (isHaulFrame s.dev p.val bs = false → counts 6 s.dev) ∧
      (isHaulFrame s.dev p.val bs = true →
        (∀ r, macsecCheck s.dev p.val bs = .error r → counts r s.dev) ∧
        (∀ x, macsecCheck s.dev p.val bs = .ok x → let d := macsecAccept p.val bs s.dev
          (beAt x 0 2 ≠ d.get (R.PORT_OFPE_ETYPE (p.val / 128)) → counts 6 d) ∧
          (beAt x 0 2 = d.get (R.PORT_OFPE_ETYPE (p.val / 128)) → let h := haulHdr (slice x 2 16)
            (haulMatch d p.val h (x.drop 18) = none → counts 5 d) ∧
            (∀ k r, haulMatch d p.val h (x.drop 18) = some (k, r) →
              exec (.haulFrameReceive p bs t4) s = .next (s.setDev (haulKind p.val k r h (x.drop 18) t4 d)))))))) ∧
  (∀ (d : Dev) (p : Nat) (bs : List Byte) (r : Nat), macsecCheck d p bs = .error r → r ≤ 3) ∧
  (∀ (d : Dev) (p : Nat) (bs : List Byte), msecMode d p ≠ 0 → hasTag bs = false → macsecCheck d p bs = .error 1) ∧
  (∀ (s : State) (k : LinkNo) (n : Fin 2), ((s.dev.hl k.val).share n).deliver = [] → exec (.haulDelivery k n) s = .next s) ∧
  (∀ (s : State) (k : LinkNo) (n : Fin 2) (inner : List Byte) (rest : List (List Byte)), s.dev.applied = true →
    ((s.dev.hl k.val).share n).deliver = inner :: rest →
    let home := routePort s.dev k.val 0
    let d := countPort home 4 (countPort home 0 (s.dev.modHl k.val (fun l => l.modShare n (fun x => { x with deliver := rest }))) (inner.length + 4))
    let r := takePacket home (home / 8) ⟨withFcs inner, false⟩ true d
    (r.1 = none → exec (.haulDelivery k n) s = .next (s.setDev r.2)) ∧
    (∀ c, r.1 = some c → (c = 3 ∨ c = 4 ∨ c = 6) → exec (.haulDelivery k n) s = .next (s.setDev (lcnt k.val 12 s.dev))) ∧
    (∀ c, r.1 = some c → c ≠ 3 → c ≠ 4 → c ≠ 6 → exec (.haulDelivery k n) s = .next (s.setDev (lcnt k.val 13 r.2))))

/-- R339: a frame older than the one expected, or held already, is counted and dropped; the expected one is delivered with every frame that follows
it without a gap, in the order of HSEQ, and no frame twice; a later one is held, or dropped where there is no room. -/
def Obligations.HaulInOrder : Prop :=
  (∀ (k : Nat) (n : Fin 2) (h : Nat) (inner : List Byte) (d : Dev),
    ((h ≠ ((d.hl k).share n).expect ∧ laterH h ((d.hl k).share n).expect = false) ∨ SMap.has ((d.hl k).share n).held h = true) →
    resequence k n h inner d = lcnt k 7 d) ∧
  (∀ (k : Nat) (n : Fin 2) (h : Nat) (inner : List Byte) (d : Dev), let x := (d.hl k).share n
    h = x.expect → SMap.has x.held h = false →
    ((resequence k n h inner d).hl k).share n = drainShare { x with deliver := x.deliver ++ [inner], expect := (h + 1) % 2 ^ 48 }) ∧
  (∀ (k : Nat) (n : Fin 2) (h : Nat) (inner : List Byte) (d : Dev), let x := (d.hl k).share n
    h ≠ x.expect → laterH h x.expect = true → SMap.has x.held h = false →
    (rsqUse x + inner.length ≤ shareBytes d k (d.get (R.HAUL_LINK_BUF_RSQMIB k)) n →
      ((resequence k n h inner d).hl k).share n = { x with held := SMap.put x.held h inner }) ∧
    (shareBytes d k (d.get (R.HAUL_LINK_BUF_RSQMIB k)) n < rsqUse x + inner.length → resequence k n h inner d = lcnt k 9 d)) ∧
  (∀ s : Share, s.expect < 2 ^ 48 → SMap.get? (drainShare s).held (drainShare s).expect = none ∧
    ∃ fs : List (List Byte), (drainShare s).deliver = s.deliver ++ fs ∧ (drainShare s).expect = (s.expect + fs.length) % 2 ^ 48 ∧
      ∀ i, i < fs.length → SMap.get? s.held ((s.expect + i) % 2 ^ 48) = fs[i]?)

/-- R320, R323, R325, R330, R335, R345: what a haul port sends, and the frames that close a stripe, keep a link alive and acknowledge. R336,
R338, R341, R342, R344: what the timers of a link do. -/
def Obligations.HaulSend : Prop :=
  (∀ (s : State) (p : PortNo), (s.dev.isHaul p.val = false ∨ s.dev.isUp p.val = false ∨ saOk s.dev p.val = false) →
    exec (.haulFrameSend p) s = .next s) ∧
  (∀ (s : State) (p : PortNo) (x : Nat × Fin 2) (q : ParityFrame), s.dev.applied = true → s.dev.isHaul p.val = true → s.dev.isUp p.val = true →
    saOk s.dev p.val = true → (s.dev.ringAt ctxRing 0).any (fun e => leAt e 0 2 == p.val) = false →
    (routesOn s.dev p.val).findSome? (fun x => ((s.dev.hl x.1).parityQ.find? (fun q => q.route == x.2)).map (fun q => (x, q))) = some (x, q) →
    exec (.haulFrameSend p) s = .next (s.setDev (lcnt x.1 1 (haulSend x.1 p.val 1
      (haulHeader 1 0 x.2.val 0 (s.dev.get (R.HAUL_LINK_CFG_LINKID x.1)) 0 (q.count - 1) q.npar q.pidx q.stripe ++ q.unit)
      (s.dev.modHl x.1 (fun l => { l with parityQ := l.parityQ.erase q })))))) ∧
  (∀ (s : State) (k : LinkNo), activeRoute s.dev k.val = none →
    exec (.stripeTimeout k) s = .next s ∧ exec (.haulAckSend k) s = .next s) ∧
  (∀ (s : State) (k : LinkNo) (r : Fin 2), s.dev.applied = true → activeRoute s.dev k.val = some r → (s.dev.hl k.val).units ≠ [] →
    ∃ t : State, exec (.stripeTimeout k) s = .next t ∧ (t.dev.hl k.val).units = [] ∧
      (t.dev.hl k.val).stripe = ((s.dev.hl k.val).stripe + 1) % 65536 ∧
      (t.dev.hl k.val).parityQ.length = (s.dev.hl k.val).parityQ.length + (s.dev.hl k.val).npar ∧ t.dev.csr = s.dev.csr) ∧
  (∀ (s : State) (k : LinkNo) (r : Fin 2), s.dev.applied = true → linkOn s.dev k.val = true → routeExists s.dev k.val r = true →
    s.dev.isHaul (routePort s.dev k.val r) = true → s.dev.isUp (routePort s.dev k.val r) = true → saOk s.dev (routePort s.dev k.val r) = true →
    ∃ (t : State) (bs : List Byte), exec (.keepaliveSend k r) s = .next t ∧ (t.dev.hl k.val).kaSeq = ((s.dev.hl k.val).kaSeq + 1) % 65536 ∧
      .haul (Fin.ofNat 1024 (routePort s.dev k.val r)) 2 bs ∈ t.dev.outbox ∧ t.dev.haul.incarn.isSome = true ∧
      (msecMode s.dev (routePort s.dev k.val r) = 0 →
        t.dev.outbox = s.dev.outbox ++ [.haul (Fin.ofNat 1024 (routePort s.dev k.val r)) 2 bs])) ∧
  (∀ (s : State) (k : LinkNo) (r : Fin 2), s.dev.applied = true → activeRoute s.dev k.val = some r → (s.dev.hl k.val).ackDue = true →
    saOk s.dev (routePort s.dev k.val r) = true → ∃ t : State, exec (.haulAckSend k) s = .next t ∧ (t.dev.hl k.val).ackDue = false) ∧
  (∀ s : State, s.dev.ringAt ctxRing 0 = none → exec .controlRingSend s = .next s) ∧
  (∀ (s : State) (e : List Byte), s.dev.applied = true → s.dev.ringAt ctxRing 0 = some e →
    (∀ p : PortNo, leAt e 0 2 = p.val → s.dev.isHaul p.val = true → 60 ≤ leAt e 2 2 → leAt e 2 2 ≤ 2040 →
      exec .controlRingSend s = .next (s.setDev ((s.dev.emit (.packet p (withFcs (slice e 4 (leAt e 2 2))) false)).ringAdvance ctxRing))) ∧
    ((1024 ≤ leAt e 0 2 ∨ s.dev.isHaul (leAt e 0 2) = false ∨ leAt e 2 2 < 60 ∨ 2040 < leAt e 2 2) →
      exec .controlRingSend s = .next (s.setDev (s.dev.ringAdvance ctxRing)))) ∧
  (∀ (s : State) (k : LinkNo) (n : Fin 2), s.dev.applied = true →
    exec (.haulNakRepeat k n) s = .next (s.setDev (s.dev.modHl k.val (fun l => l.modShare n (fun x => { x with nakd := x.expect }))))) ∧
  (∀ (s : State) (k : LinkNo) (n : Fin 2) (h : Nat) (r : Fin 2), s.dev.applied = true → activeRoute s.dev k.val = some r →
    (((s.dev.hl k.val).share n).rtx.any (fun f => f.hseq == h) = false → exec (.haulRtoExpiry k n h) s = .next s) ∧
    (((s.dev.hl k.val).share n).rtx.any (fun f => f.hseq == h) = true →
      ((s.dev.hl k.val).share n).expiries + 1 < s.dev.get (R.HAUL_LINK_TMR_RMAX k.val) →
      exec (.haulRtoExpiry k n h) s = .next (s.setDev (s.dev.modHl k.val (fun l => queueRetx n h (l.modShare n (fun x =>
        { x with expiries := x.expiries + 1, backoff := min 64 (2 * x.backoff) }))))))) ∧
  (∀ (s : State) (k : LinkNo) (n : Fin 2), ((s.dev.hl k.val).share n).held = [] → exec (.reseqGapTimeout k n) s = .next s) ∧
  (∀ (s : State) (k : LinkNo) (n : Fin 2) (h : Nat) (f : List Byte), s.dev.applied = true → ((s.dev.hl k.val).share n).held = [(h, f)] →
    ((s.dev.hl k.val).share n).expect < h → h < 2 ^ 47 →
    ∃ t : State, exec (.reseqGapTimeout k n) s = .next t ∧ ((t.dev.hl k.val).share n).expect = h + 1 ∧ ((t.dev.hl k.val).share n).held = [] ∧
      ((t.dev.hl k.val).share n).deliver = ((s.dev.hl k.val).share n).deliver ++ [f]) ∧
  (∀ (s : State) (k : LinkNo) (r : Fin 2), s.dev.applied = true →
    (((s.dev.hl k.val).route r).rx = false → exec (.keepaliveMiss k r) s = .next s) ∧
    (((s.dev.hl k.val).route r).rx = true → exec (.keepaliveMiss k r) s = .next (s.setDev (updateRoute k.val r 2
      (lcnt k.val 8 (s.dev.modHl k.val (fun l => l.modRoute r (fun x => { x with rx := false })))))))) ∧
  (∀ (s : State) (k : LinkNo), s.dev.applied = true → linkOn s.dev k.val = true → activeRoute s.dev k.val = none →
    exec (.haulHoldExpiry k) s = .next (s.setDev (updateLink k.val 0 (showUse k.val (lcnt k.val 11
      (s.dev.modHl k.val (fun l => { (l.modShare 0 dropRtx).modShare 1 dropRtx with
        rtxQ := [], route0 := { l.route0 with rmaxHit := false }, route1 := { l.route1 with rmaxHit := false } }))
      ((s.dev.hl k.val).share0.rtx.length + (s.dev.hl k.val).share1.rtx.length)))))) ∧
  (∀ (d : Dev) (k : Nat) (r : Fin 2) (c : Nat), d.on (upFld k r) = routeUp d k r → updateRoute k r c d = d)

/-- R326, R345, R349, R350: switch and revert, security associations, and a link that is disabled. -/
def Obligations.HaulControl : Prop :=
  (∀ (s : State) (k : LinkNo) (w : CsrW) (r : Fin 2), s.dev.applied = true → wOn w (R.HAUL_LINK_CTL_SWITCH k.val) = true →
    activeRoute s.dev k.val = some r →
    (s.dev.on (upFld k.val (1 - r)) = true → exec (.haulSwitch k w) s = .next (s.setDev (moveTo k.val (1 - r)
      ((writeOwn RF.HAUL_LINK_CTL (R.HAUL_LINK_CTL k.val) w s.dev).set (R.HAUL_LINK_CTL_SWITCH k.val) 0)))) ∧
    (s.dev.on (upFld k.val (1 - r)) = false → exec (.haulSwitch k w) s = .next (s.setDev
      (refuseCsr (R.HAUL_LINK_CTL k.val) w s.dev)))) ∧
  (∀ (s : State) (k : LinkNo) (w : CsrW), s.dev.running = true → wOn w (R.HAUL_LINK_CTL_SWITCH k.val) = true → activeRoute s.dev k.val = none →
    exec (.haulSwitch k w) s = .next (s.setDev (refuseCsr (R.HAUL_LINK_CTL k.val) w s.dev))) ∧
  (∀ (s : State) (k : LinkNo), s.dev.applied = true →
    (s.dev.on (R.HAUL_LINK_REV_REVERT k.val) = true → activeRoute s.dev k.val = some 1 → s.dev.on (upFld k.val 0) = true →
      exec (.haulRevert k) s = .next (s.setDev (moveTo k.val 0 s.dev))) ∧
    (s.dev.on (R.HAUL_LINK_REV_REVERT k.val) = false → exec (.haulRevert k) s = .next s)) ∧
  (∀ (d : Dev) (k : Nat) (r : Fin 2), (moveTo k r d).get (R.HAUL_LINK_STAT_CAUSE k) = 7 ∧ activeRoute (moveTo k r d) k = some r) ∧
  (∀ (s : State) (p : PortNo) (dir : Fin 2) (an : Fin 4) (w : CsrW), s.dev.applied = true → s.dev.portDieFitted (p.val / 128) = true →
    routesOn s.dev p.val = [] → wOn w (R.HAUL_SA_CTL_VALID p.val dir.val an.val) = false →
    ∃ t : State, exec (.saValidWrite p dir an w) s = .next t ∧
      (∀ i, i < 8 → SMap.get? t.dev.hidden (R.HAUL_SA_KEY p.val dir.val an.val i) = none)) ∧
  (∀ (s : State) (k : LinkNo) (w : CsrW), s.dev.applied = true → linkOn s.dev k.val = false →
    exec (.haulLinkDisable k w) s = .next (s.setDev (writeOwn RF.HAUL_LINK_CFG (R.HAUL_LINK_CFG k.val) w s.dev))) ∧
  (∀ (s : State) (k : LinkNo) (w : CsrW), s.dev.applied = true → linkOn s.dev k.val = true → wOn w (R.HAUL_LINK_CFG_EN k.val) = false →
    ∃ t : State, exec (.haulLinkDisable k w) s = .next t ∧ t.dev.get (R.HAUL_LINK_STAT_STATE k.val) = 0 ∧
      (t.dev.hl k.val).share0.rtx = [] ∧ (t.dev.hl k.val).share1.held = [] ∧ (t.dev.hl k.val).parityQ = [])

/-! ### Time -/

/-- R122, R123, R413, R416, R418, R425: time messages sent and received, what makes a sample, the loss of an input and the end of holdover. -/
def Obligations.TimeExchange : Prop :=
  (∀ (s : State) (p : PortNo), s.dev.applied = true → s.dev.boot.turnsBegun = true → s.dev.isOfp p.val = true → s.dev.isUp p.val = true →
    s.dev.on (R.PORT_PCTL_TSEN p.val) = true → (s.dev.link p.val).exchanged = false → (s.dev.link p.val).tx = none → 0 < retryRoom s.dev p.val →
    exec (.timeExchangeSend p) s = .next (s.setDev (let d := toSlotZero p.val s.dev
      (Dev.each (pairGroups (timePacket d p.val (advertise (d.now + txCorr d p.val) (d.link p.val).echo d)))
        (fun f => sequencePair p.val 0 0 f []) d).modLink p.val (fun l => { l with exchanged := true })))) ∧
  (∀ (s : State) (p : PortNo), (s.dev.isOfp p.val = false ∨ s.dev.isUp p.val = false ∨ s.dev.on (R.PORT_PCTL_TSEN p.val) = false ∨
    (s.dev.link p.val).exchanged = true ∨ (s.dev.link p.val).tx ≠ none ∨ retryRoom s.dev p.val = 0) → exec (.timeExchangeSend p) s = .next s) ∧
  (∀ (d : Dev) (p : Nat), 0 < d.width p → ((toSlotZero p d).link p).nextLane % d.width p = 0) ∧
  (∀ (d : Dev) (t : Int) (e : Option (BitVec 16 × TimeVal × TimeVal)), let m := advertise t e d
    m.ttx = t ∧ m.echov = e.isSome ∧ m.locked = (tmode d == 1) ∧
    (d.on R.TIME_STATUS_ISROOT = true → m.root.toNat = swid d ∧ m.prio.toNat = d.get R.TIME_CFG_PRIO) ∧
    (d.on R.TIME_STATUS_ISROOT = false → tmode d = 0 → m.root = 0 ∧ m.hold = false)) ∧
  (∀ (s : State) (p : PortNo) (bs : List Byte) (t4 : TimeVal) (again : Bool), s.dev.applied = true →
    let runs (d : Dev) : Prop := exec (.timeExchangeReceive p bs t4 again) s = .next (s.setDev d)
    ((s.dev.isOfp p.val = false ∨ s.dev.isUp p.val = false) → runs s.dev) ∧
    (s.dev.isOfp p.val = true → s.dev.isUp p.val = true →
      (s.dev.farLoop p.val = true → runs (Dev.each (pairGroups bs) (fun f => sequencePair p.val 0 0 f []) s.dev)) ∧
      (s.dev.farLoop p.val = false → (again = true ∨ (ofpHdr bs).ver ≠ 1 ∨ (ofpHdr bs).type ≠ 7 ∨ (ofpHdr bs).len ≠ 64) → runs s.dev) ∧
      (s.dev.farLoop p.val = false → again = false → (ofpHdr bs).ver = 1 → (ofpHdr bs).type = 7 → (ofpHdr bs).len = 64 →
        ((hcrcOk bs = false ∨ trailerOk bs = false) → runs (countPort p.val 10 s.dev)) ∧
        (hcrcOk bs = true → trailerOk bs = true →
          let m := timeOf (ofpPayload bs) t4 again
          let d := s.dev.modLink p.val (fun l => { l with echo := some (m.xseq, m.ttx, m.t4 - rxCorr s.dev p.val) })
          runs (if s.dev.on (R.PORT_PCTL_TSEN p.val) then timeSample p.val p.val m d else d))))) ∧
  (∀ (m : TimeMsg) (t4 : TimeVal) (again : Bool), m.xver < 16 → 0 ≤ m.ttx → m.ttx < 2 ^ 48 * secUnit → 0 ≤ m.techo → m.techo < 2 ^ 48 * secUnit →
    0 ≤ m.trx → m.trx < 2 ^ 48 * secUnit → (timeBytes m).length = 64 ∧ timeOf (timeBytes m) t4 again = { m with t4 := t4, replayed := again }) ∧
  (∀ (m : TimeMsg) (delay : Int) (d : Dev), sampleOk m delay d = true ↔
    m.xver = 1 ∧ m.echov = true ∧ (m.locked = true ∨ m.hold = true) ∧ m.root ≠ 0 ∧
    (m.root.toNat ≠ swid d ∨ d.on R.TIME_STATUS_ISROOT = true) ∧ m.dist.toNat < d.get R.TIME_CFG_MAXDIST ∧ -4 * 65536 ≤ delay) ∧
  (∀ (k p : Nat) (m : TimeMsg) (d : Dev), let t4 := m.t4 - rxCorr d p
    (m.domain.toNat ≠ d.get R.TIME_CFG_DOMAIN → timeSample k p m d = d.bump (R.TIME_CNT_COUNT 1)) ∧
    (m.domain.toNat = d.get R.TIME_CFG_DOMAIN → sampleOk m (((t4 - m.techo) - (m.ttx - m.trx)) / 2) d = false →
      timeSample k p m d = d.bump (R.TIME_CNT_COUNT 2)) ∧
    (m.domain.toNat = d.get R.TIME_CFG_DOMAIN → sampleOk m (((t4 - m.techo) - (m.ttx - m.trx)) / 2) d = true →
      timeSample k p m d = { d.bump (R.TIME_CNT_COUNT 0) with time := { d.time with inputs := SMap.put d.time.inputs k (TimeInput.mk
        m.root m.prio m.dist m.hold (((m.trx - m.techo) + (m.ttx - t4)) / 2 + 256 * signed 16 (d.get (R.TIME_PORT_ASYM_ASYM p)))
        (((t4 - m.techo) - (m.ttx - m.trx)) / 2) true t4 d.turn) } })) ∧
  (∀ (s : State) (k : Fin 1152) (i : TimeInput), s.dev.applied = true → SMap.get? s.dev.time.inputs k.val = some i →
    (i.lastTurn + lossTurns s.dev k.val ≤ s.dev.turn → exec (.timeInputLoss k) s = .next (s.setDev (loseInput k.val s.dev))) ∧
    (s.dev.turn < i.lastTurn + lossTurns s.dev k.val → exec (.timeInputLoss k) s = .next s)) ∧
  (∀ (s : State) (t0 : Nat), s.dev.applied = true → tmode s.dev = 2 → s.dev.time.holdFrom = some t0 →
    (s.dev.get R.TIME_HOLD_HOLDMAX ≠ 0 → t0 + 1024 * s.dev.get R.TIME_HOLD_HOLDMAX ≤ s.dev.turn →
      ∃ t : State, exec .holdoverExpiry s = .next t ∧ tmode t.dev = 0 ∧ t.dev.get R.GLB_TURN_STATUS_MODE = 0 ∧
        t.dev.time.adj = s.dev.time.adj ∧ t.dev.time.holdFrom = none) ∧
    ((s.dev.get R.TIME_HOLD_HOLDMAX = 0 ∨ s.dev.turn < t0 + 1024 * s.dev.get R.TIME_HOLD_HOLDMAX) →
      exec .holdoverExpiry s = .next s))

/-- R410, R412, R420, R427 to R429: the corrected time, its snapshot, the bounds of the servo and of steering, edge captures and pulses. -/
def Obligations.TimeSteering : Prop :=
  (∀ t : Clepsydra, timeAt t (16 * t.baseRaw) = t.baseT) ∧
  (∀ (s : State) (w : CsrW), s.dev.running = true → wOn w R.TIME_SNAP_GO = true →
    ∃ t : State, exec (.timeSnapshot w) s = .next t ∧ t.dev.time = s.dev.time ∧ t.dev.get R.TIME_SNAP_GO = 0 ∧
      t.dev.rd64 R.TIME_SNAP_RAW = s.dev.time.raw % 2 ^ 64 ∧ t.dev.rd64 R.TIME_SNAP_BRAW = s.dev.time.baseRaw % 2 ^ 64 ∧
      t.dev.rd64 R.TIME_SNAP_BSEC = secOf s.dev.time.baseT ∧ (t.dev.rd R.TIME_SNAP_BNS).toNat = nsOf s.dev.time.baseT ∧
      (t.dev.rd R.TIME_SNAP_BFRAC).toNat = fracOf s.dev.time.baseT ∧
      t.dev.rd64 R.TIME_SNAP_TSEC = secOf s.dev.now ∧ (t.dev.rd R.TIME_SNAP_TNS).toNat = nsOf s.dev.now ∧
      (t.dev.rd R.TIME_SNAP_TFRAC).toNat = fracOf s.dev.now ∧
      t.dev.rd R.TIME_SNAP_ADJ = BitVec.ofNat 32 (unsigned 32 s.dev.time.adj)) ∧
  (∀ (s : State) (w : CsrW), s.dev.applied = true → s.dev.on R.TIME_STATUS_ISROOT = true →
    let t := s.setDev (writeOwn RF.TIME_CTL R.TIME_CTL w s.dev)
    exec (.setgo w) s = .next t ∧ exec (.slewgo w) s = .next t ∧ exec (.adjgo w) s = .next t) ∧
  (∀ (s : State) (w : CsrW), s.dev.applied = true → s.dev.on R.TIME_STATUS_ISROOT = false →
    (wOn w R.TIME_CTL_SETGO = true ∨ wOn w R.TIME_CTL_SLEWGO = true ∨ wOn w R.TIME_CTL_ADJGO = true) →
    ∃ t : State, exec (.setgo w) s = .next t ∧ exec (.slewgo w) s = .next t ∧ exec (.adjgo w) s = .next t ∧
      t.dev.get R.TIME_CTL_SETGO = s.dev.get R.TIME_CTL_SETGO ∧ t.dev.get R.TIME_CTL_SLEWGO = s.dev.get R.TIME_CTL_SLEWGO ∧
      t.dev.get R.TIME_CTL_ADJGO = s.dev.get R.TIME_CTL_ADJGO ∧ t.dev.time = s.dev.time) ∧
  (∀ d : Dev, let r := steer d;
    -(28 * 65536) ≤ r.1 ∧ r.1 ≤ 28 * 65536 ∧ r.2.2.get R.TIME_CTL_SETGO = 0 ∧ r.2.2.get R.TIME_CTL_SLEWGO = 0 ∧
    r.2.2.get R.TIME_CTL_ADJGO = 0 ∧
    r.2.2.time.slewLeft + r.1 = d.time.slewLeft + (if d.on R.TIME_CTL_SLEWGO then 256 * signed 32 (d.rd R.TIME_STEER_PH).toNat else 0) ∧
    r.2.2.time.adj = (if d.on R.TIME_CTL_ADJGO then signed 32 (d.rd R.TIME_STEER_ADJ).toNat else d.time.adj) ∧
    (r.2.1.isSome = d.on R.TIME_CTL_SETGO)) ∧
  (∀ (d : Dev) (o delta : Int), let q := servoStep d o delta;
    -(28 * 65536) ≤ q.1 ∧ q.1 ≤ 28 * 65536 ∧ -(2 ^ 31 - 1) ≤ q.2 ∧ q.2 ≤ 2 ^ 31 - 1) ∧
  (∀ (s : State) (n : Fin 8) (fall : Bool) (x : Fin 16), s.dev.running = true →
    let t := timeAt s.dev.time (16 * s.dev.time.raw + x.val)
    let e := s.dev.get (R.TIME_CAP_CFG_EDGE n.val)
    ((e = 0 ∨ (fall = true ∧ e = 1) ∨ (fall = false ∧ e = 2)) → exec (.tsInEdge n fall x) s = .next s) ∧
    (∀ y, SMap.get? s.dev.time.lastEdge n.val = some y → absI (t - y) < 4 * 65536 → exec (.tsInEdge n fall x) s = .next s) ∧
    ((e = 3 ∨ e = (if fall then 2 else 1)) → SMap.get? s.dev.time.lastEdge n.val = none → (capsOf s.dev n.val).length < 16 →
      ∃ t' : State, exec (.tsInEdge n fall x) s = .next t' ∧ capsOf t'.dev n.val = capsOf s.dev n.val ++ [(t, fall)] ∧
        t'.dev.get (R.TIME_CAP_STAT_COUNT n.val) = (capsOf s.dev n.val).length + 1) ∧
    ((e = 3 ∨ e = (if fall then 2 else 1)) → SMap.get? s.dev.time.lastEdge n.val = none → 16 ≤ (capsOf s.dev n.val).length →
      ∃ t' : State, exec (.tsInEdge n fall x) s = .next t' ∧ capsOf t'.dev n.val = capsOf s.dev n.val ∧
        t'.dev.on (R.TIME_CAP_STAT_OVF n.val) = true)) ∧
  (∀ (s : State) (n : Fin 8) (w : CsrW), s.dev.running = true → wOn w (R.TIME_CAP_STAT_POP n.val) = true →
    ∃ t : State, exec (.capturePop n w) s = .next t ∧ capsOf t.dev n.val = (capsOf s.dev n.val).drop 1 ∧
      t.dev.get (R.TIME_CAP_STAT_COUNT n.val) = ((capsOf s.dev n.val).length - 1) % 32) ∧
  (∀ (s : State) (k : Fin 2), s.dev.applied = true → s.dev.on (R.TIME_PPS_CFG_EN k.val) = true →
    ((tmode s.dev ≠ 0 ∨ s.dev.on (R.TIME_PPS_CFG_ONFREE k.val) = true) →
      (ppsOf s.dev k.val = none ∨ ∃ x, ppsOf s.dev k.val = some (false, x) ∧ x < ppsInstant s.dev k.val) →
      exec (.ppsRise k) s = .next (s.setDev (setPps k (true, ppsInstant s.dev k.val) s.dev))) ∧
    (tmode s.dev = 0 → s.dev.on (R.TIME_PPS_CFG_ONFREE k.val) = false → exec (.ppsRise k) s = .next s)) ∧
  (∀ (s : State) (k : Fin 2) (x : Int), s.dev.applied = true → ppsOf s.dev k.val = some (true, x) →
    exec (.ppsFall k) s = .next (s.setDev (setPps k (false, x) s.dev)))

/-! ### Optics and bypass -/

/-- R432 to R434, R437 to R439: modules inserted, removed and polled, wrong wavelengths, spare lasers and the mailbox. -/
def Obligations.Modules : Prop :=
  (∀ (s : State) (m : ModNo) (fits : Bool) (f : ModFlags), s.dev.running = true → modFitted s.dev m.val = true →
    let d := s.dev.set (R.OPT_MOD_STAT_PRESENT m.val) 1
    let e := d.set (R.OPT_MOD_CTL_RESET m.val) 0
    (managed s.dev m.val = false → exec (.moduleInsert m fits f) s = .next (s.setDev d)) ∧
    (managed s.dev m.val = true → f.mstate ≠ 5 →
      exec (.moduleInsert m true f) s = .next (s.setDev (agentPoll m f (agentRelease m.val 0 e)))) ∧
    (managed s.dev m.val = true → exec (.moduleInsert m false f) s = .next (s.setDev (moduleDown m.val
      ((e.set (R.OPT_MOD_STAT_MSTATE m.val) f.mstate.toNat).set (R.OPT_MOD_STAT_SPARES m.val) f.spares.toNat))))) ∧
  (∀ (s : State) (m : ModNo), s.dev.running = true → modFitted s.dev m.val = true →
    exec (.moduleRemove m) s = .next (s.setDev ((((if managed s.dev m.val then moduleDown m.val s.dev else s.dev).set
      (R.OPT_MOD_STAT_MSTATE m.val) 0).set (R.OPT_MOD_STAT_INT m.val) 0).set (R.OPT_MOD_STAT_PRESENT m.val) 0))) ∧
  (∀ (s : State) (m : ModNo) (f : ModFlags), s.dev.running = true → modFitted s.dev m.val = true →
    exec (.moduleInterrupt m f) s = .next (s.setDev
      ((if managed s.dev m.val && s.dev.on (R.OPT_MOD_STAT_PRESENT m.val) then agentPoll m f s.dev else s.dev).set (R.OPT_MOD_STAT_INT m.val) 1))) ∧
  (∀ (s : State) (m : ModNo) (f : ModFlags), s.dev.applied = true → managed s.dev m.val = true → s.dev.on (R.OPT_MOD_STAT_PRESENT m.val) = true →
    (s.dev.get (R.OPT_BUS_CFG_POLL m.val) ≠ 0 →
      exec (.moduleFlagPoll m f) s = .next (s.setDev ((agentPoll m f s.dev).set (R.OPT_MOD_STAT_INT m.val) 0))) ∧
    (s.dev.get (R.OPT_BUS_CFG_POLL m.val) = 0 → exec (.moduleFlagPoll m f) s = .next s)) ∧
  (∀ (d : Dev) (m : ModNo) (f : ModFlags), f.faults = [] → wrongLanes m.val d = [] → (d.agent m.val).retuning = [] →
    agentActs m f d = endRetune m.val (if peerFault1 d m.val then raiseCE blkOpt 4 m.val d else d)) ∧
  (∀ (d : Dev) (m : Nat), peerFault1 d m = true ↔ ∃ p, d.isPort (16 * m + p) = true ∧ p < 16 ∧ (d.link (16 * m + p)).peerHold = some 1) ∧
  (∀ (s : State) (m : ModNo) (late : Bool) (tuned : List (BitVec 16)), s.dev.applied = true →
    ((s.dev.agent m.val).retuning = [] → exec (.retuneComplete m late tuned) s = .next s) ∧
    ((s.dev.agent m.val).retuning ≠ [] →
      let d := Dev.each (s.dev.agent m.val).retuning (attemptDone m late) (readTuned m.val tuned s.dev)
      (wrongLanes m.val d = [] → (d.agent m.val).retuning = [] → exec (.retuneComplete m late tuned) s = .next (s.setDev (endRetune m.val d))) ∧
      ((wrongLanes m.val d ≠ [] ∨ (d.agent m.val).retuning ≠ []) → exec (.retuneComplete m late tuned) s = .next (s.setDev d)))) ∧
  (∀ (d : Dev) (m : ModNo) (late : Bool) (x : Fin 16), let l := 16 * m.val + x.val
    let out := d.modAgent m.val (fun a => { a with retuning := a.retuning.filter (fun y => y != x) })
    (late = false → tunedOf d l = sendOf d l → attemptDone m late x d = out) ∧
    ((late = true ∨ tunedOf d l ≠ sendOf d l) →
      (d.get (R.OPT_LANE_STAT_RETRIES l) + 1 < max 1 (d.get R.OPT_CFG_RETUNEMAX) →
        attemptDone m late x d = commandRetune m x (d.set (R.OPT_LANE_STAT_RETRIES l) (d.get (R.OPT_LANE_STAT_RETRIES l) + 1))) ∧
      (max 1 (d.get R.OPT_CFG_RETUNEMAX) ≤ d.get (R.OPT_LANE_STAT_RETRIES l) + 1 →
        attemptDone m late x d = raiseCE blkOpt 3 l
          ((out.set (R.OPT_LANE_STAT_RETRIES l) (d.get (R.OPT_LANE_STAT_RETRIES l) + 1)).bump (R.OPT_CNT_COUNT 2))))) ∧
  (∀ (s : State) (l : LaneNo) (ok : Bool) (c : BitVec 16), s.dev.applied = true →
    let m := l.val / 16
    let x : Fin 16 := Fin.ofNat 16 l.val
    let d := (s.dev.modAgent m (fun a => { a with taking := a.taking.filter (fun y => y != x) })).set (R.OPT_LANE_STAT_TUNED l.val) c.toNat
    (x ∉ (s.dev.agent m).taking → exec (.spareTakeoverDone l ok c) s = .next s) ∧
    (x ∈ (s.dev.agent m).taking → (ok = false ∨ c.toNat ≠ sendOf s.dev l.val) →
      exec (.spareTakeoverDone l ok c) s = .next (s.setDev (takeoverFails l.val d))) ∧
    (x ∈ (s.dev.agent m).taking → ok = true → c.toNat = sendOf s.dev l.val →
      exec (.spareTakeoverDone l ok c) s = .next (s.setDev (((agentRelease m (2 + l.val)
        ((d.set (R.OPT_LANE_STAT_HELD l.val) 0).set (R.OPT_LANE_STAT_SPARE l.val) 1)).drop (R.OPT_MOD_STAT_SPARES m)).bump
          (R.OPT_CNT_COUNT 3))))) ∧
  (∀ (s : State) (m : ModNo) (data : List Byte), s.dev.applied = true →
    ((s.dev.agent m.val).mbxRunning = true →
      exec (.busTransactionEnd m (.ok data)) s = .next (s.setDev (endMailbox m.val 0 data s.dev)) ∧
      exec (.busTransactionEnd m .nack) s = .next (s.setDev (endMailbox m.val 1 [] (s.dev.bump (R.OPT_CNT_COUNT 5)))) ∧
      exec (.busTransactionEnd m .timeout) s = .next (s.setDev (endMailbox m.val 2 [] (s.dev.bump (R.OPT_CNT_COUNT 5))))) ∧
    ((s.dev.agent m.val).mbxRunning = false → s.dev.on (R.OPT_MBX_CTL_BUSY m.val) = false →
      exec (.busTransactionEnd m (.ok data)) s = .next (s.setDev (s.dev.modAgent m.val (fun a => { a with busy := false }))))) ∧
  (∀ (s : State) (m : ModNo) (w : CsrW), s.dev.applied = true → modFitted s.dev m.val = true → wOn w (R.OPT_MBX_CTL_GO m.val) = true →
    s.dev.on (R.OPT_MBX_CTL_BUSY m.val) = false →
    let d := (writeOwn RF.OPT_MBX_CTL (R.OPT_MBX_CTL m.val) w s.dev).set (R.OPT_MBX_CTL_GO m.val) 0
    (mailboxRefused s.dev m.val = true → exec (.moduleMailbox m w) s = .next (s.setDev (d.set (R.OPT_MBX_CTL_RESULT m.val) 3))) ∧
    (mailboxRefused s.dev m.val = false → (s.dev.agent m.val).busy = true → exec (.moduleMailbox m w) s = .next (s.setDev
      ((d.set (R.OPT_MBX_CTL_RESULT m.val) 0).set (R.OPT_MBX_CTL_BUSY m.val) 1))) ∧
    (mailboxRefused s.dev m.val = false → (s.dev.agent m.val).busy = false → exec (.moduleMailbox m w) s = .next (s.setDev
      (((startMailbox m d).set (R.OPT_MBX_CTL_RESULT m.val) 0).set (R.OPT_MBX_CTL_BUSY m.val) 1))))

/-- R443 to R449: windows armed by software, a trigger or a message, cancelled, checked, run step by step, and abandoned. -/
def Obligations.Bypass : Prop :=
  (∀ (d : Dev) (w : Nat), conflicts d w = false →
    d.opt.windows.length < 4 ∧ ∀ x ∈ d.opt.windows, x.w + 4 ≤ w ∨ w + 4 ≤ x.w) ∧
  (∀ (s : State) (w : CsrW), s.dev.running = true →
    let d := ((writeOwn RF.OPT_BYP_ARM R.OPT_BYP_ARM w s.dev).set R.OPT_BYP_ARM_GO 0).set R.OPT_BYP_ARM_CANCEL 0
    let p : Fin 64 := Fin.ofNat 64 (wBits w R.OPT_BYP_ARM_PLAN)
    let t := s.dev.rd64 R.OPT_BYP_ARMW
    (wOn w R.OPT_BYP_ARM_GO = true → planValid s.dev p.val = true → s.dev.turn + minLead s.dev < t → conflicts s.dev t = false →
      exec (.bypassArm w) s = .next (s.setDev (armWindow p t (wOn w R.OPT_BYP_ARM_SEND) d))) ∧
    ((wOn w R.OPT_BYP_ARM_GO = false ∨ planValid s.dev p.val = false ∨ t ≤ s.dev.turn + minLead s.dev ∨ conflicts s.dev t = true) →
      exec (.bypassArm w) s = .next (s.setDev d)) ∧
    (∀ x, wOn w R.OPT_BYP_ARM_CANCEL = true → armed s.dev p t = some x → cancellable s.dev x = true →
      exec (.bypassCancel w) s = .next (s.setDev (disarm x (if wOn w R.OPT_BYP_ARM_SEND then sendCancels x d else d)))) ∧
    ((wOn w R.OPT_BYP_ARM_CANCEL = false ∨ armed s.dev p t = none ∨ ∃ x, armed s.dev p t = some x ∧ cancellable s.dev x = false) → exec (.bypassCancel w) s = .next (s.setDev d))) ∧
  (∀ (s : State) (n : Fin 32), s.dev.applied = true →
    let c := commitsOf s.dev (s.dev.get (R.OPT_BYP_TRIG_A_GIDX n.val))
    (SMap.get? s.dev.opt.trigCommits n.val = none → exec (.bypassTrigger n) s = .next s) ∧
    (∀ b, SMap.get? s.dev.opt.trigCommits n.val = some b → (c + 2 ^ 32 - b) % 2 ^ 32 < s.dev.get (R.OPT_BYP_TRIG_B_NCHUNK n.val) →
      exec (.bypassTrigger n) s = .next s) ∧
    (∀ b, SMap.get? s.dev.opt.trigCommits n.val = some b → s.dev.get (R.OPT_BYP_TRIG_B_NCHUNK n.val) ≤ (c + 2 ^ 32 - b) % 2 ^ 32 →
      planValid s.dev (s.dev.get (R.OPT_BYP_TRIG_A_PLAN n.val)) = true → s.dev.get (R.OPT_BYP_TRIG_A_PLAN n.val) < 64 →
      conflicts s.dev (divUp (s.dev.turn + leadOf s.dev) 4 * 4) = false →
      exec (.bypassTrigger n) s = .next (s.setDev (armWindow (Fin.ofNat 64 (s.dev.get (R.OPT_BYP_TRIG_A_PLAN n.val)))
        (divUp (s.dev.turn + leadOf s.dev) 4 * 4) true { s.dev with opt := { s.dev.opt with
          trigCommits := SMap.set s.dev.opt.trigCommits n.val (if s.dev.on (R.OPT_BYP_TRIG_A_REPEAT n.val) then some c else none) } })))) ∧
  (∀ (s : State) (via : Bool) (bs : List Byte) (rest : List (Bool × List Byte)), s.dev.applied = true → s.dev.opt.inbox = (via, bs) :: rest →
    let kind := beBits (ofpPayload bs) 4 1 3 0
    let d := { s.dev with opt := { s.dev.opt with inbox := rest } }
    (kind = 0 → exec .arm s = .next (s.setDev (armReceived (phaseOf via bs) d))) ∧
    (kind = 1 → exec .cancel s = .next (s.setDev (cancelReceived (phaseOf via bs) d))) ∧
    (kind = 2 → exec .ack s = .next (s.setDev (ackReceived (phaseOf via bs) d))) ∧
    (kind = 3 → exec .nak s = .next (s.setDev (nakReceived (phaseOf via bs) d))) ∧
    (kind ≠ 0 → exec .arm s = .next s) ∧ (kind ≠ 1 → exec .cancel s = .next s) ∧ (kind ≠ 2 → exec .ack s = .next s) ∧
    (kind ≠ 3 → exec .nak s = .next s)) ∧
  (∀ s : State, s.dev.opt.inbox = [] → exec .arm s = .next s ∧ exec .cancel s = .next s ∧ exec .ack s = .next s ∧ exec .nak s = .next s) ∧
  (∀ (kind mseq : Nat) (x : PhaseMsg), (phaseBytes kind mseq x).length = 40 ∧ (kind < 16 → beBits (phaseBytes kind mseq x) 4 1 3 0 = kind)) ∧
  (∀ (d : Dev) (x : PhaseMsg),
    (d.get R.GLB_TURN_STATUS_MODE = 0 → armReceived x d = answerPhase 3 4 x d) ∧
    (d.get R.GLB_TURN_STATUS_MODE ≠ 0 →
      (planValid d x.plan.val = false → armReceived x d = answerPhase 3 2 x d) ∧
      (planValid d x.plan.val = true →
        ((armed d x.plan x.wturn).isSome = true → armReceived x d = answerPhase 2 0 x d) ∧
        (armed d x.plan x.wturn = none →
          (x.wturn < d.turn + minLead d → armReceived x d = answerPhase 3 1 x d) ∧
          (d.turn + minLead d ≤ x.wturn →
            (conflicts d x.wturn = true → armReceived x d = answerPhase 3 3 x d) ∧
            (conflicts d x.wturn = false → armReceived x d = answerPhase 2 0 x (armWindow x.plan x.wturn false d))))))) ∧
  (∀ (d : Dev) (x : PhaseMsg),
    (armed d x.plan x.wturn = none → cancelReceived x d = answerPhase 3 1 x d ∧ ackReceived x d = d ∧
      nakReceived x d = d.bump (R.OPT_CNT_COUNT 9)) ∧
    (∀ y, armed d x.plan x.wturn = some y →
      (cancellable d y = true → cancelReceived x d = answerPhase 2 0 x (disarm y d)) ∧
      (cancellable d y = false → cancelReceived x d = answerPhase 3 1 x d) ∧
      (y.originator = true → ackReceived x d = modWindow y (fun z => { z with acked := z.acked ++ [x.src.toNat] }) d ∧
        nakReceived x d = (modWindow y (fun z => { z with nakd := true }) d).bump (R.OPT_CNT_COUNT 9)))) ∧
  (∀ (s : State) (p : Fin 64) (x : Window), s.dev.applied = true → dueWindow s.dev p 0 2 0 = some x →
    (x.originator = true → s.dev.on R.OPT_BYP_CFG_ACKREQ = true → (x.nakd = true ∨ ∃ e ∈ x.sendTo, e ∉ x.acked) →
      exec (.bypassAckCheck p) s = .next (s.setDev (disarm x (sendCancels x s.dev)))) ∧
    ((x.originator = false ∨ s.dev.on R.OPT_BYP_CFG_ACKREQ = false ∨ (x.nakd = false ∧ ∀ e ∈ x.sendTo, e ∈ x.acked)) →
      exec (.bypassAckCheck p) s = .next s) ∧
    exec (.bypassLeaveSets p) s = .next (s.setDev (modWindow x (fun y => { y with
      stage := 1, ports := (planEntries s.dev p.val).filter (fun e => bypassPort s.dev e.1.val) })
        (Dev.each ((planEntries s.dev p.val).filter (fun e => !bypassPort s.dev e.1.val))
          (fun e d => raiseCE blkOpt 6 p.val d e.1.val) s.dev)))) ∧
  (∀ (s : State) (p : Fin 64) (x : Window), s.dev.applied = true → dueWindow s.dev p 1 0 0 = some x →
    (∀ e ∈ x.ports, agentHeld s.dev e.1.val = false) → s.dev.opt.later = [] → s.dev.get R.GLB_TURN_STATUS_MODE ≠ 0 →
    exec (.bypassStep0 p) s = .next (s.setDev (modWindow x (fun _ => { x with stage := 2 }) (s.dev.set R.OPT_BYP_STAT_STEP 0)))) ∧
  (∀ (s : State) (p : Fin 64) (x : Window), s.dev.applied = true → dueWindow s.dev p 1 0 0 = some x →
    (∀ e ∈ x.ports, agentHeld s.dev e.1.val = false) → s.dev.opt.later = [] → s.dev.get R.GLB_TURN_STATUS_MODE = 0 →
    exec (.bypassStep0 p) s = .next (s.setDev (abandon x (modWindow x (fun _ => x) s.dev)))) ∧
  (∀ (s : State) (p : Fin 64) (x : Window), s.dev.applied = true →
    (dueWindow s.dev p 2 0 1 = some x → exec (.bypassStep1 p) s = .next (s.setDev (modWindow x (fun y => { y with stage := 3 })
      ((Dev.each x.ports portStep1 s.dev).set R.OPT_BYP_STAT_STEP 1)))) ∧
    (dueWindow s.dev p 3 0 2 = some x → exec (.bypassStep2 p) s = .next (s.setDev (modWindow x (fun y => { y with stage := 4 })
      ((Dev.each x.ports portStep2 s.dev).set R.OPT_BYP_STAT_STEP 2)))) ∧
    (dueWindow s.dev p 4 0 4 = some x → exec (.bypassStep3 p) s = .next (s.setDev (agentsResume (dropWindow x
      (((Dev.each x.ports (fun e d => if d.isUp e.1.val then d else countDown e.1.val (raiseCE blkOpt 7 p.val d e.1.val)) s.dev).set
        R.OPT_BYP_STAT_STEP 3).bump (R.OPT_CNT_COUNT 6))))))) ∧
  (∀ (d : Dev) (e : PortNo × Nat × BitVec 4 × Word), (portStep1 e d).get (R.OPT_PTAG_TAG e.1.val) = e.2.2.1.toNat ∧
    ((portStep1 e d).link e.1.val).squelched = true ∧ ((portStep1 e d).link e.1.val).downSince = none) ∧
  (∀ (x : Window) (d : Dev), (abandon x d).on R.OPT_BYP_STAT_ABEVT = true ∧ ∀ y ∈ (abandon x d).opt.windows, y.plan = x.plan → y.w = x.w →
    y.abandoned = true) ∧
  (∀ (s : State) (p : Fin 64) (x : Window), s.dev.applied = true → x ∈ s.dev.opt.windows → x.plan = p → x.abandoned = true →
    x.w + 4 ≤ s.dev.turn → (∀ y ∈ s.dev.opt.windows, y.plan = p → y = x) →
    exec (.bypassAbandonEnd p) s = .next (s.setDev (agentsResume (Dev.each x.ports (fun e d => countDown e.1.val (startTraining e.1.val
      ((d.set (R.OPT_PTAG_TAG e.1.val) e.2.2.1.toNat).wr (R.PORT_RELOCK_PEER e.1.val) e.2.2.2))) (dropWindow x s.dev)))))

/-! ### Gauges and events -/

/-- R455, R458 to R466: counters saturate or carry, are read in pairs and by user mode, cleared, and copied as snapshot records. -/
def Obligations.Gauges : Prop :=
  (∀ (d : Dev) (c n : Nat), d.chained c = false →
    ((d.ctr c).2 = true → d.addCtr c n = (d, [])) ∧
    ((d.ctr c).2 = false → (d.ctr c).1 + n < 2 ^ 48 → d.addCtr c n = (d.setCtr c ((d.ctr c).1 + n, false), [])) ∧
    ((d.ctr c).2 = false → 2 ^ 48 ≤ (d.ctr c).1 + n →
      d.addCtr c n = (d.setCtr c (2 ^ 48 - 1, true), if d.ovfEvt c then [c] else []))) ∧
  (∀ (d : Dev) (c n : Nat), d.chained c = true → (d.ctr (c + 1)).2 = false → (d.ctr c).1 + n < 2 ^ 49 →
    (d.ctr (c + 1)).1 + 1 < 2 ^ 48 → let e := (d.addCtr c n).1
      (e.ctr c).1 + 2 ^ 48 * (e.ctr (c + 1)).1 = (d.ctr c).1 + n + 2 ^ 48 * (d.ctr (c + 1)).1) ∧
  (∀ (s : State) (r : ReqId) (n : Fin 10240), s.dev.running = true →
    let d := countCsr r (R.GAUGE_CRD n.val 0) 0 3 s.dev
    exec (.counterPairRead r n) s = .next (s.setDev ((latchPair r n.val d).emit (.csrRead r (crdWords n.val d).1))) ∧
    pairLatch r n.val (latchPair r n.val d) = (crdWords n.val d).2) ∧
  (∀ (s : State) (w : CsrW), s.dev.running = true → wOn w R.GAUGE_CLR_B_GO = true →
    (s.dev.on R.GAUGE_CLR_B_BUSY = false → exec (.counterClearRequest w) s = .next (s.setDev
      ((writeOwn RF.GAUGE_CLR_B R.GAUGE_CLR_B w s.dev).set R.GAUGE_CLR_B_BUSY 1))) ∧
    (s.dev.on R.GAUGE_CLR_B_BUSY = true → exec (.counterClearRequest w) s = .next (s.setDev
      (refuseCsr R.GAUGE_CLR_B w s.dev)))) ∧
  (∀ (d : Dev) (c : Nat), d.on R.GAUGE_CLR_B_BUSY = true → (applyClear d).on R.GAUGE_CLR_B_BUSY = false ∧ (applyClear d).ctr c =
    if d.get R.GAUGE_CLR_A_FIRST ≤ c ∧ c < d.get R.GAUGE_CLR_A_FIRST + d.get R.GAUGE_CLR_A_NUM then (0, false) else d.ctr c) ∧
  (∀ (s : State) (k : Fin 64), (∀ x ∈ s.dev.gauge.due, x.set ≠ k.val) → exec (.snapshotSetDue k) s = .next s) ∧
  (∀ (s : State) (k : Fin 64) (x : DueSet), s.dev.applied = true → s.dev.boot.turnsBegun = true →
    s.dev.gauge.due.find? (fun y => y.set == k.val) = some x →
    ((∃ y ∈ s.dev.gauge.due, y.late = true ∧ (x.late = false ∨ y.set < x.set)) → exec (.snapshotSetDue k) s = .next s) ∧
    ((∀ y ∈ s.dev.gauge.due, y.late = true → x.late = true ∧ x.set ≤ y.set) →
      let d : Dev := { s.dev with gauge := { s.dev.gauge with due := s.dev.gauge.due.erase x } }
      let e := if x.late then d.bump R.GAUGE_SNAP_CNT_LATE else d
      let lost := SMap.getD e.gauge.lost k.val 0
      ((e.ringOn (dueRing x e) = false ∨ e.ringFull (dueRing x e) = true) →
        exec (.snapshotSetDue k) s = .next (s.setDev { e with gauge := { e.gauge with lost := SMap.put e.gauge.lost k.val (lost + 1) } })) ∧
      (e.ringOn (dueRing x e) = true → e.ringFull (dueRing x e) = false →
        let g : Dev := { e with gauge := { e.gauge with lost := SMap.del e.gauge.lost k.val } }
        exec (.snapshotSetDue k) s = .next (s.setDev (g.ringPush (dueRing x e) (padTo (snapshotRecord x lost
          (if x.turn % 2 = 0 then e.gauge.shadow0 else e.gauge.shadow1) g) (dueRing x e).esz)))))) ∧
  (∀ (s : State) (r : ReqId) (c : Fin 20480), s.dev.running = true →
    let off : BitVec 24 := BitVec.ofNat 24 (0x800000 + 8 * c.val)
    let d := countCsr r (R.GAUGE_CTR c.val + 0x400000) 0 1 s.dev
    (userMay c.val s.dev = false →
      exec (.userWindowRead r off) s = .next (s.setDev ((d.bump R.GAUGE_UDENY_COUNT).emit (.csrRead r 0)))) ∧
    (userMay c.val s.dev = true → exec (.userWindowRead r off) s = .next (s.setDev
      ((latchHigh r (R.GAUGE_CTR c.val) (BitVec.ofNat 32 (d.ctrWord c.val / 2 ^ 32)) d).emit (.csrRead r (BitVec.ofNat 32 (d.ctrWord c.val))))))) ∧
  (∀ (s : State) (r : ReqId) (off : BitVec 24), s.dev.running = true → off.toNat < 0x800000 →
    exec (.userWindowRead r off) s = .next (s.setDev (s.dev.emit (.csrFault (r.toNat % 256)))))

/-- R476 to R479, R531: events wait until the event ring is enabled, are written or dropped, and merge while CEHOLD runs. -/
def Obligations.EventRing : Prop :=
  (∀ (s : State) (w : CsrW), s.dev.running = true → s.dev.on R.GLB_EVT_CFG_EN = false → wOn w R.GLB_EVT_CFG_EN = true →
    6 ≤ wBits w R.GLB_EVT_CFG_LOG2SIZE → wBits w R.GLB_EVT_CFG_LOG2SIZE ≤ 16 →
    ∃ t : State, exec (.eventRingEnable w) s = .next t ∧ t.dev.ras.everEnabled = true ∧
      t.dev.on R.GLB_EVT_CFG_EN = true ∧ t.dev.get R.GLB_EVT_CFG_LOG2SIZE = wBits w R.GLB_EVT_CFG_LOG2SIZE ∧
      (s.dev.ras.everEnabled = false → t.dev.ras.held = [])) ∧
  (∀ (s : State) (w : CsrW), s.dev.running = true → s.dev.ringOn evtRing = true → s.dev.ras.everEnabled = true →
    wBits w R.GLB_EVT_CFG_LOG2SIZE ≠ s.dev.get R.GLB_EVT_CFG_LOG2SIZE →
    exec (.eventRingEnable w) s = .next (s.setDev (refuseCsr R.GLB_EVT_CFG w s.dev))) ∧
  (∀ (e : Event) (d : Dev), mergesWith d e = true → (logEvent e d).csr = d.csr ∧ (logEvent e d).res = d.res ∧
    repeatsOf (logEvent e d) e = repeatsOf d e + 1) ∧
  (∀ (e : Event) (d : Dev), mergesWith d e = false → (d.ringOn evtRing = false ∨ d.ringFull evtRing = true) →
    logEvent e d = dropEvent d ∧ (dropEvent d).ras.lost = d.ras.lost + 1) ∧
  (∀ (e : Event) (d : Dev), mergesWith d e = false → d.ringOn evtRing = true → d.ringFull evtRing = false →
    let t := logEvent e d
    t.readMem 1 (d.rd64 R.GLB_EVT_BASE + 32 * d.get R.GLB_EVT_HEAD_HEAD) 32 = eventRecord leBytes e (repeatsOf d e) d.ras.lost ∧
    t.get R.GLB_EVT_HEAD_HEAD = (d.get R.GLB_EVT_HEAD_HEAD + 1) % 2 ^ d.get R.GLB_EVT_CFG_LOG2SIZE ∧ t.ras.lost = 0 ∧ repeatsOf t e = 0) ∧
  (∀ (q : EventReq) (d : Dev), (raise q d).power = d.power ∧ (raise q d).links = d.links ∧ (raise q d).time = d.time ∧
    (raise q d).commons = d.commons ∧ ∀ a, a ≠ R.GLB_EVT_HEAD → a ≠ R.GLB_EVT_CNT → (raise q d).rd a = d.rd a)

/-! ### Reliability, spares and test -/

/-- R484, R486 to R489, R493: copies to spares, lanes and engines that leave service, machine checks, and the self-tests. -/
def Obligations.Spares : Prop :=
  (∀ (s : State) (c : Bool) (b : Fin 2048) (k : Nat), s.dev.running = true →
    (s.dev.ras.copying.contains (b2n c, b.val) = true → exec (.bankSpareDone c b k) s = .next (s.setDev (copyDone (b2n c) b.val s.dev))) ∧
    (s.dev.ras.copying.contains (b2n c, b.val) = false → exec (.bankSpareDone c b k) s = .next s)) ∧
  (∀ (s : State) (st : Fin 8) (ch : Fin 32), s.dev.running = true →
    (s.dev.ras.copying.contains (2, 32 * st.val + ch.val) = true → ∃ t : State, exec (.channelSpareDone st ch) s = .next t ∧
      t.dev.get (R.TEST_HBM_STAT_FAILCH st.val) = ch.val ∧ t.dev.get (R.TEST_HBM_STAT_COPY st.val) = 0 ∧
      t.dev.get (R.TEST_HBM_STAT_PROGRESS st.val) = 255 ∧ bitAt (t.dev.get R.RES_STATUS_SPARED) st.val = true ∧
      t.dev.ras.copying.contains (2, 32 * st.val + ch.val) = false) ∧
    (s.dev.ras.copying.contains (2, 32 * st.val + ch.val) = false → exec (.channelSpareDone st ch) s = .next s)) ∧
  (∀ (s : State) (l : Fin 256), s.dev.applied = true →
    (s.dev.ras.basinOut.contains l.val = true → exec (.basinLaneFault l) s = .next s) ∧
    (s.dev.ras.basinOut.contains l.val = false →
      let hit := s.dev.basin.ctx.filter (fun x => x.2.st == .opened && laneOf x.2.gidx.val x.2.chunk.toNat s.dev == l.val)
      (hit = [] → exec (.basinLaneFault l) s = .next (s.setDev (replaceLane l.val s.dev))) ∧
      (hit ≠ [] → exec (.basinLaneFault l) s = .next (s.setDev (replaceLane l.val (raiseDE blkTest 7 l.val
        (Dev.each hit (fun x d => endCtx x.1 x.2 .aborted 3 (d.bump (R.BASIN_CNT_COUNT 4))) s.dev))))))) ∧
  (∀ (l : Nat) (d : Dev), let p := d.get (basinMapFld l)
    let e : Dev := { d with ras := { d.ras with failed := d.ras.failed ++ [(7, p)] } }
    (spareLanes d = [] → replaceLane l d = raiseFatal blkTest 5 (testUnit 7 p)
      ({ e with ras := { e.ras with basinOut := d.ras.basinOut ++ [l] } }.set (basinMapFld l) 0x1FF)) ∧
    (spareLanes d ≠ [] → ∃ x ∈ spareLanes d, replaceLane l d = raiseCE blkTest 4 (testUnit 7 p)
      ((e.draw.2.set (basinMapFld l) x).set R.TEST_SPARE_STAT_BASINSP ((spareLanes d).length - 1)))) ∧
  (∀ (s : State) (e : Fin 8), s.dev.applied = true →
    (s.dev.ras.failed.contains (8, e.val) = false → exec (.flumeEngineFault e) s = .next (s.setDev
      ((raiseFatal blkTest 5 (testUnit 8 e.val) { s.dev with ras := { s.dev.ras with failed := s.dev.ras.failed ++ [(8, e.val)] } }).drop
        R.FLUME_STAT_INSVC))) ∧
    (s.dev.ras.failed.contains (8, e.val) = true → exec (.flumeEngineFault e) s = .next s)) ∧
  (∀ (s : State) (c : Fin 18), s.dev.applied = true →
    (bitAt (s.dev.get R.TEST_CORE_STAT_FAILED) c.val = true → exec (.coreMachineCheck c) s = .next s) ∧
    (bitAt (s.dev.get R.TEST_CORE_STAT_FAILED) c.val = false → ∃ t : State, exec (.coreMachineCheck c) s = .next t ∧
      bitAt (t.dev.get R.TEST_CORE_STAT_FAILED) c.val = true ∧
      ∀ k : Fin 18, k ≠ c → bitAt (t.dev.get R.TEST_CORE_STAT_FAILED) k.val = bitAt (s.dev.get R.TEST_CORE_STAT_FAILED) k.val)) ∧
  (∀ (s : State) (w : CsrW), s.dev.running = true → wOn w R.TEST_BIST_CTL_GO = true → s.dev.on R.TEST_BIST_CTL_BUSY = false →
    let begun (u : State) (t n : Nat) : Prop := u.dev.on R.TEST_BIST_CTL_BUSY = true ∧ u.dev.get R.TEST_BIST_CTL_RESULT = 0 ∧
      ∃ e : Option Nat, u.dev.ras.bist = some (t, n, e)
    (∀ l : PhysLane, serdesFree l.val s.dev = true → wBits w R.TEST_BIST_CTL_TARGET = 0 → wBits w R.TEST_BIST_CTL_INDEX = l.val →
      ∃ u : State, exec (.bistSerdesLane l w) s = .next u ∧ begun u 0 l.val) ∧
    (∀ e : Fin 272, s.dev.computeFitted (e.val / 136) = true → wBits w R.TEST_BIST_CTL_TARGET = 1 → wBits w R.TEST_BIST_CTL_INDEX = e.val →
      ∃ u : State, exec (.bistSluiceEngine e w) s = .next u ∧ begun u 1 e.val) ∧
    (∀ e : Fin 8, wBits w R.TEST_BIST_CTL_TARGET = 2 → wBits w R.TEST_BIST_CTL_INDEX = e.val →
      ∃ u : State, exec (.bistFlumeEngine e w) s = .next u ∧ begun u 2 e.val) ∧
    (∀ l : Fin 272, (∀ k : Fin 256, s.dev.get (basinMapFld k.val) ≠ l.val) → wBits w R.TEST_BIST_CTL_TARGET = 3 → wBits w R.TEST_BIST_CTL_INDEX = l.val →
      ∃ u : State, exec (.bistBasinLane l w) s = .next u ∧ begun u 3 l.val) ∧
    (factoryTest s.dev = true →
      (∀ n : Fin 11, wBits w R.TEST_BIST_CTL_TARGET = 4 → wBits w R.TEST_BIST_CTL_INDEX = n.val →
        ∃ u : State, exec (.bistD2dLoopback n w) s = .next u ∧ begun u 4 n.val) ∧
      (∀ x : Fin 8, wBits w R.TEST_BIST_CTL_TARGET = 5 → wBits w R.TEST_BIST_CTL_INDEX = x.val →
        ∃ u : State, exec (.bistHbmPhy x w) s = .next u ∧ begun u 5 x.val) ∧
      (∀ x : Fin 8, wBits w R.TEST_BIST_CTL_TARGET = 6 → wBits w R.TEST_BIST_CTL_INDEX = x.val →
        ∃ u : State, exec (.bistHbmMemory x w) s = .next u ∧ begun u 6 x.val) ∧
      (∀ n : Fin 4, wBits w R.TEST_BIST_CTL_TARGET = 7 → wBits w R.TEST_BIST_CTL_INDEX = n.val →
        ∃ u : State, exec (.bistSramMarch n w) s = .next u ∧ begun u 7 n.val)) ∧
    (factoryTest s.dev = false → ∀ x : Fin 8, wBits w R.TEST_BIST_CTL_TARGET = 6 → wBits w R.TEST_BIST_CTL_INDEX = x.val →
      ∃ u : State, exec (.bistHbmMemory x w) s = .next u ∧ u.dev.get R.TEST_BIST_CTL_RESULT = 3 ∧ u.dev.ras.bist = s.dev.ras.bist)) ∧
  (∀ (s : State) (pass : Bool), s.dev.running = true →
    (s.dev.ras.bist = none → exec (.bistComplete pass) s = .next s) ∧
    (s.dev.ras.bist ≠ none → ∃ t : State, exec (.bistComplete pass) s = .next t ∧ t.dev.get R.TEST_BIST_CTL_RESULT = (if pass then 1 else 2) ∧
      t.dev.on R.TEST_BIST_CTL_BUSY = false ∧ t.dev.ras.bist = none))

/-- R494, R511, R506 to R509, R518, R520, R482: JTAG, the management ports, the PCIe endpoint and the control cores' accesses. The JTAG
instruction codes are the model's own, and the low bits of IDCODE and how PCIe training ends are free. -/
def Obligations.Ports : Prop :=
  (∀ s : State, s.dev.power ≠ .off → s.dev.ras.extest = false → lcOf s.dev ≠ 5 →
    let at_ (n : Nat) : Dev := { s.dev with ras := { s.dev.ras with jtag := n } }
    exec .bypass s = .next (s.setDev (at_ 0)) ∧ exec .samplePreload s = .next (s.setDev (at_ 2)) ∧
    exec .extest s = .next (s.setDev (extestRuns (at_ 3))) ∧ exec .extestPulse s = .next (s.setDev (at_ 4)) ∧
    exec .extestTrain s = .next (s.setDev (at_ 5)) ∧ exec .clamp s = .next (s.setDev (at_ 6)) ∧ exec .highz s = .next (s.setDev (at_ 7))) ∧
  (∀ s : State, s.dev.power ≠ .off → s.dev.ras.extest = false → ∃ (t : State) (low : Nat), exec .idcode s = .next t ∧ low < 4096 ∧
    t.dev.outbox = s.dev.outbox ++ [.jtag (s.fuses.stepping.toNat / 16 % 16 * 2 ^ 28 + (0x9000 + s.fuses.part.toNat) * 2 ^ 12 + low)]) ∧
  (∀ d : Dev, (extestRuns d).ras.extest = true ∧ ∀ p ∈ d.ports, (extestRuns d).isUp p = false) ∧
  (∀ (s : State) (n : Fin 2) (bs : List Byte), s.dev.running = true →
    (mgmtUp s.dev n.val = false → exec (.mgmtFrameReceive n bs) s = .next s) ∧
    (mgmtUp s.dev n.val = true → (bs.length < 64 ∨ 9216 < bs.length ∨ crcRun crcStart bs ≠ crcGood) →
      exec (.mgmtFrameReceive n bs) s = .next (s.setDev (s.dev.bump (R.MGT_MP_STAT_RXERR n.val)))) ∧
    (mgmtUp s.dev n.val = true → 64 ≤ bs.length → bs.length ≤ 9216 → crcRun crcStart bs = crcGood →
      (macControl bs 0x0001 = true → exec (.mgmtFrameReceive n bs) s = .next (s.setDev
        { s.dev with ras := { s.dev.ras with pauses := SMap.put s.dev.ras.pauses n.val (SMap.getD s.dev.ras.pauses n.val 0 + 1) } })) ∧
      (macControl bs 0x0001 = false →
        ((parseEth bs).etype = 0x88B6 → exec (.mgmtFrameReceive n bs) s = .next (s.setDev (s.dev.emit (.toCores 8 0 bs)))) ∧
        ((parseEth bs).etype ≠ 0x88B6 → s.dev.factory = true →
          ((parseEth bs).ip = 6 → exec (.mgmtFrameReceive n bs) s = .next (s.setDev (s.dev.emit (.toCores 8 0 bs)))) ∧
          ((parseEth bs).ip ≠ 6 → exec (.mgmtFrameReceive n bs) s = .next s)) ∧
        ((parseEth bs).etype ≠ 0x88B6 → s.dev.factory = false → let d := mgmtPtp n.val bs s.dev
          (∀ x, mgmtOfp d bs = some x → isPhase x = true →
            exec (.mgmtFrameReceive n bs) s = .next (s.setDev (handPhase true (x.take (36 + (ofpHdr x).len)) d))) ∧
          ((mgmtOfp d bs).all (fun x => !isPhase x) = true →
            exec (.mgmtFrameReceive n bs) s = .next (s.setDev (d.emit (.toCores 0 0 bs)))))))) ∧
  (∀ s : State, s.dev.factory = true → s.dev.on (R.MGT_MP_STAT_UP 0) = false → exec .mgmtMediaRetry s = .next (s.setDev
    (s.dev.set (R.MGT_MP_CFG_MEDIA 0) (if s.dev.get (R.MGT_MP_CFG_MEDIA 0) = 0 then 2 else if s.dev.get (R.MGT_MP_CFG_MEDIA 0) = 2 then 1 else 0)))) ∧
  (∀ (s : State) (n : Fin 2), s.dev.running = true →
    (s.dev.on (R.MGT_MP_CFG_EN n.val) = true → exec (.mgmtPortUp n) s = .next (s.setDev (s.dev.set (R.MGT_MP_STAT_UP n.val) 1))) ∧
    (s.dev.on (R.MGT_MP_STAT_UP n.val) = true → exec (.mgmtPortDown n) s = .next (s.setDev
      ((s.dev.set (R.MGT_MP_STAT_UP n.val) 0).set (R.MGT_MP_STAT_DOWNEVT n.val) 1)))) ∧
  (∀ s : State, ∃ t : State, exec .pciePerstRelease s = .next t ∧ t.dev.boot = { s.dev.boot with perstHigh := true } ∧
    (s.dev.applied = true → pcieFitted s.dev = true → (t.dev.get R.MGT_PCIE_STAT_UP = 0 ∨
      (t.dev.get R.MGT_PCIE_STAT_UP = 1 ∧ t.dev.get R.MGT_PCIE_STAT_WIDTH ∈ [1, 4, 7] ∧ 1 ≤ t.dev.get R.MGT_PCIE_STAT_RATE ∧
        t.dev.get R.MGT_PCIE_STAT_RATE ≤ 6 ∧
        (s.dev.get R.MGT_PCIE_CFG_MAXW = 2 → t.dev.get R.MGT_PCIE_STAT_WIDTH = 1) ∧
        (s.dev.get R.MGT_PCIE_CFG_MAXW = 1 → t.dev.get R.MGT_PCIE_STAT_WIDTH ≠ 7))))) ∧
  (∀ s : State, ∃ t : State, exec .pciePerstAssert s = .next t ∧ t.dev.boot = { s.dev.boot with perstHigh := false } ∧
    t.dev.get R.MGT_PCIE_STAT_UP = 0 ∧ t.dev.get R.MGT_PCIE_STAT_WIDTH = 0 ∧ t.dev.links = s.dev.links) ∧
  (∀ s : State, s.dev.running = true → s.dev.on R.MGT_PCIE_STAT_UP = true →
    exec .pcieFlr s = .next (s.setDev ({ s.dev with ras := { s.dev.ras with d3hot := false } }.set R.MGT_PCIE_STAT_FLR 1)) ∧
    exec .pcieHotReset s = .next (s.setDev (pcieTrain (pcieDown s.dev))) ∧
    exec .pcieD3hotEntry s = .next (s.setDev { s.dev with ras := { s.dev.ras with d3hot := true } })) ∧
  (∀ (s : State) (w : CsrW), s.dev.running = true →
    let d := discardHeld w.req R.MGT_PCIE_DOORBELL (countCsr w.req R.MGT_PCIE_DOORBELL 1 3 s.dev)
    (wBits w R.MGT_PCIE_DOORBELL_VEC ≠ 0 → s.dev.pcieUp = true →
      exec (.msixDoorbell w) s = .next (s.setDev (d.emit (.msix (wBits w R.MGT_PCIE_DOORBELL_VEC))))) ∧
    ((wBits w R.MGT_PCIE_DOORBELL_VEC = 0 ∨ s.dev.pcieUp = false) → exec (.msixDoorbell w) s = .next (s.setDev d))) ∧
  (∀ (s : State) (a n : Nat) (wr : Bool), s.dev.running = true → s.dev.on R.MGT_PCIE_STAT_UP = true → (n ≠ 4 ∨ a % 4 ≠ 0) →
    exec (.bar0UnsupportedRequest a n wr) s = .next (s.setDev (s.dev.emit .unsupported))) ∧
  (∀ (s : State) (h : Fin 18) (a : Word) (n : Nat) (wr : Bool), s.dev.applied = true → (n ≠ 4 ∨ a.toNat % 4 ≠ 0) →
    exec (.csrAccessFault h a n wr) s = .next (s.setDev (s.dev.emit (.csrFault h.val)))) ∧
  (∀ (s : State) (h : Fin 18) (a : Nat) (bad : Bool), s.dev.applied = true →
    ((bad = true ∨ s.dev.poisoned 1 a 1 = true) → exec (.controlCoreLoad h a bad) s = .next (s.setDev
      (countLines 1 (requester 7 h.val) 0 3 a 1 ((raiseDE blkMgt 2 h.val s.dev (a % 2 ^ 32) (a / 2 ^ 32)).emit (.loadException h.val))))) ∧
    (bad = false → s.dev.poisoned 1 a 1 = false →
      exec (.controlCoreLoad h a bad) s = .next (s.setDev (countLines 1 (requester 7 h.val) 0 3 a 1 s.dev))))

/-! ### Register access -/

/-- R3, R9 to R11, R523: a 64-bit register is read and written as one by its two words; RC fields clear when read; an unassigned word and an
unfitted unit read zero; a write follows the access codes or is refused. -/
def Obligations.Registers : Prop :=
  (∀ (s : State) (r : ReqId) (a : Word) (h : RegHit), s.dev.running = true → findReg a.toNat = some h → h.reg.wide = true → h.high = false →
    s.dev.unitFitted h = true →
    let d := countCsr r a.toNat 0 3 s.dev
    ∃ t : State, exec (.lowWordRead r a) s = .next t ∧
      t.dev.outbox = d.outbox ++ [.csrRead r (BitVec.ofNat 32 (d.value64 a.toNat))] ∧
      latchedHigh r a.toNat t.dev = BitVec.ofNat 32 (d.value64 a.toNat / 2 ^ 32) ∧ t.dev.csr = d.csr) ∧
  (∀ (s : State) (r : ReqId) (a : Word) (h : RegHit), s.dev.running = true → inUserWindow (a.toNat + 4) = false →
    findReg (a.toNat + 4) = some h → h.reg.wide = true → h.high = true → s.dev.unitFitted h = true → a.toNat + 4 < 2 ^ 32 →
    let d := countCsr r (a.toNat + 4) 0 3 s.dev
    exec (.readClear r (BitVec.ofNat 32 (a.toNat + 4))) s = .next (s.setDev (d.emit (.csrRead r (latchedHigh r a.toNat d))))) ∧
  (∀ (s : State) (a : Word) (w : CsrW) (h : RegHit), s.dev.running = true → findReg a.toNat = some h → h.reg.wide = true → h.high = false →
    s.dev.unitFitted h = true →
    ∃ t : State, exec (.lowWordWrite a w) s = .next t ∧ (w.req, a.toNat, w.val) ∈ t.dev.heldLow ∧
      (∀ b, b ≠ R.GLB_EVT_HEAD → b ≠ R.GLB_EVT_CNT → t.dev.rd b = s.dev.rd b) ∧ t.dev.links = s.dev.links) ∧
  (∀ (s : State) (a : Word) (w : CsrW) (h : RegHit), s.dev.running = true → a.toNat + 4 < 2 ^ 32 → findReg (a.toNat + 4) = some h →
    h.reg.wide = true → h.high = true → s.dev.unitFitted h = true → wideRefused h a.toNat w s.dev = false →
    let d := discardHeld w.req a.toNat (countCsr w.req (a.toNat + 4) 1 3 s.dev)
    let low : Word := match d.heldLow.find? (fun e => e.1 == w.req && e.2.1 == a.toNat) with
      | some e => e.2.2
      | none => d.rd a.toNat
    exec (.highWordWrite (BitVec.ofNat 32 (a.toNat + 4)) w) s = .next (s.setDev (applyFields h.reg.fields true a.toNat w.req
      (low.toNat + 2 ^ 32 * w.val.toNat) (a.toNat + 4) w.val { d with heldLow := d.heldLow.filter (fun e => !(e.1 == w.req && e.2.1 == a.toNat)) }))) ∧
  (∀ (s : State) (r : ReqId) (a : Word), s.dev.running = true → inUserWindow a.toNat = false → findReg a.toNat = none →
    exec (.readClear r a) s = .next (s.setDev ((countCsr r a.toNat 0 3 s.dev).emit (.csrRead r 0)))) ∧
  (∀ (s : State) (r : ReqId) (a : Word) (h : RegHit), s.dev.running = true → inUserWindow a.toNat = false → findReg a.toNat = some h →
    (s.dev.unitFitted h = false → (h.reg.wide = false ∨ h.high = true) →
      exec (.readClear r a) s = .next (s.setDev ((countCsr r a.toNat 0 3 s.dev).emit (.csrRead r 0)))) ∧
    (s.dev.unitFitted h = true → h.reg.wide = false → h.reg.base ≠ R.GAUGE_CRD 0 0 →
      let c := countCsr r a.toNat 0 3 s.dev
      let d := if a.toNat = R.GLB_WIPE_STATUS then wipeProgress c else if h.reg.base = R.TEST_HBM_STAT 0 then copyProgress (h.ix.getD 0 0) c else c
      exec (.readClear r a) s = .next (s.setDev ((d.wr a.toNat (BitVec.ofNat 32 (clearRc h.reg.fields (d.rd a.toNat).toNat))).emit
        (.csrRead r (d.rd a.toNat)))))) ∧
  (∀ (s : State) (a : Word) (w : CsrW), s.dev.running = true → inUserWindow a.toNat = false → findReg a.toNat = none →
    exec (.registerWrite a w) s = .next (s.setDev (countCsr w.req a.toNat 1 3 s.dev))) ∧
  (∀ (s : State) (a : Word) (w : CsrW) (h : RegHit), s.dev.running = true → inUserWindow a.toNat = false → findReg a.toNat = some h →
    h.reg.wide = false → ownBases.contains h.reg.base = false → quotaBases.contains h.reg.base = false → ringOfCfg a.toNat s.dev = none →
    h.reg.base ≠ R.FLUME_WQ_CTL 0 →
    let d := discardHeld w.req a.toNat (countCsr w.req a.toNat 1 3 s.dev)
    (s.dev.unitFitted h = false → exec (.registerWrite a w) s = .next (s.setDev d)) ∧
    (s.dev.unitFitted h = true → writeRefused h a.toNat w s.dev = true →
      exec (.registerWrite a w) s = .next (s.setDev (refuseWrite a.toNat w.req w.val false d))) ∧
    (s.dev.unitFitted h = true → writeRefused h a.toNat w s.dev = false → h.reg.base ≠ R.QUE_TC_SHAPE 0 0 → h.reg.base ≠ R.QUE_PORT_SHAPE 0 →
      exec (.registerWrite a w) s = .next (s.setDev (afterWrite h s.dev (applyFields h.reg.fields false a.toNat w.req w.val.toNat a.toNat w.val d))))) ∧
  (∀ (s : State) (a : Word) (w : CsrW), s.dev.running = true → inUserWindow a.toNat = true →
    exec (.registerWrite a w) s = .next (s.setDev ((discardHeld w.req a.toNat (countCsr w.req a.toNat 1 3 s.dev)).bump R.GAUGE_UDENY_COUNT))) ∧
  (∀ (r : ReqId) (a : Nat) (d : Dev), (∀ e ∈ d.latch, e.1 ≠ (r, a)) → latchedHigh r a d = 0)

/-- R11, R54: the access codes. Whatever fields a register has, where they do not overlap, a write gives each field what its code says, and
counts as a lock violation exactly when it would change an RWL field under the lock. -/
def Obligations.AccessCodes : Prop :=
  ∀ (fs : List FieldDef) (lock : Bool) (old new : Nat), (∀ f ∈ fs, f.lo ≤ f.hi) →
    fs.Pairwise (fun f g => f.hi < g.lo ∨ g.hi < f.lo) →
    (∀ f ∈ fs, let w := f.hi - f.lo + 1
      let r := bitsOf (writeFields lock fs old new).1 f.lo w
      (f.acc = .rw → r = bitsOf new f.lo w) ∧ (f.acc = .rwl → r = if lock then bitsOf old f.lo w else bitsOf new f.lo w) ∧
      (f.acc = .w1s → r = Nat.lor (bitsOf old f.lo w) (bitsOf new f.lo w)) ∧
      (f.acc = .w1c → ∀ k, k < w → Nat.testBit r k = (Nat.testBit (bitsOf old f.lo w) k && !Nat.testBit (bitsOf new f.lo w) k)) ∧
      ((f.acc = .ro ∨ f.acc = .rc ∨ f.acc = .wo) → r = bitsOf old f.lo w)) ∧
    ((writeFields lock fs old new).2 = true ↔
      lock = true ∧ ∃ f ∈ fs, f.acc = .rwl ∧ bitsOf new f.lo (f.hi - f.lo + 1) ≠ bitsOf old f.lo (f.hi - f.lo + 1))
end

