-- ==== Sys2Proof/Laws/Maps.lean ====
section
/-! SUPPORT. Sparse maps: what a read gives after a write, and that every operation keeps the canonical form. -/

namespace Sys2Proof.Machine

variable {α : Type}

theorem SMap.get?_cons (e : Nat × α) (t : SMap α) (j : Nat) :
    SMap.get? (e :: t) j = if e.1 = j then some e.2 else SMap.get? t j := rfl

theorem SMap.get?_del (m : SMap α) (k j : Nat) : SMap.get? (SMap.del m k) j = if j = k then none else SMap.get? m j := by
  induction m with
  | nil => simp [SMap.del, SMap.get?]
  | cons e t ih =>
    simp only [SMap.del, List.filter_cons, bne_iff_ne] at ih ⊢
    by_cases h : e.1 = k
    · simp only [h, ne_eq, not_true_eq_false, if_false, ih, SMap.get?_cons]
      by_cases hj : j = k
      · simp [hj]
      · simp [hj, Ne.symm hj]
    · simp only [ne_eq, h, not_false_eq_true, if_true, SMap.get?_cons, ih]
      by_cases hj : e.1 = j
      · simp [hj]; intro hc; exact absurd (hj.trans hc) h
      · simp [hj]

theorem SMap.get?_ins (m : SMap α) (k : Nat) (v : α) (h : SMap.get? m k = none) (j : Nat) :
    SMap.get? (SMap.ins m k v) j = if j = k then some v else SMap.get? m j := by
  induction m with
  | nil => simp only [SMap.ins, SMap.get?_cons, eq_comm]
  | cons e t ih =>
    rw [SMap.get?_cons] at h
    by_cases he : e.1 = k
    · simp [he] at h
    · simp only [he, if_false] at h
      simp only [SMap.ins]
      by_cases hk : k < e.1
      · simp only [hk, if_true, SMap.get?_cons, eq_comm]
      · simp only [hk, if_false, SMap.get?_cons, ih h]
        by_cases hj : e.1 = j
        · simp [hj]; intro hc; exact absurd (hj.trans hc) he
        · simp [hj]

theorem SMap.get?_put (m : SMap α) (k : Nat) (v : α) (j : Nat) :
    SMap.get? (SMap.put m k v) j = if j = k then some v else SMap.get? m j := by
  rw [SMap.put, SMap.get?_ins _ _ _ (by simp [SMap.get?_del]), SMap.get?_del]
  by_cases h : j = k <;> simp [h]

@[simp] theorem SMap.getD_put (m : SMap α) (k : Nat) (v d : α) (j : Nat) :
    SMap.getD (SMap.put m k v) j d = if j = k then v else SMap.getD m j d := by
  simp only [SMap.getD, SMap.get?_put]; split <;> rfl

@[simp] theorem SMap.getD_del (m : SMap α) (k : Nat) (d : α) (j : Nat) :
    SMap.getD (SMap.del m k) j d = if j = k then d else SMap.getD m j d := by
  simp only [SMap.getD, SMap.get?_del]; split <;> rfl

@[simp] theorem SMap.getD_write [DecidableEq α] (m : SMap α) (k : Nat) (v d : α) (j : Nat) :
    SMap.getD (SMap.write m k v d) j d = if j = k then v else SMap.getD m j d := by
  unfold SMap.write; split
  · rename_i h; simp [h]
  · simp

@[simp] theorem SMap.getD_nil (k : Nat) (d : α) : SMap.getD ([] : SMap α) k d = d := rfl

/-- Entries kept by their key. -/
theorem SMap.getD_filter (m : SMap α) (p : Nat → Bool) (k : Nat) (d : α) :
    SMap.getD (List.filter (fun e => p e.1) m) k d = if p k then SMap.getD m k d else d := by
  induction m with
  | nil => simp [SMap.getD, SMap.get?]
  | cons e t ih =>
    simp only [SMap.getD, List.filter_cons] at ih ⊢
    by_cases he : e.1 = k
    · subst he
      by_cases hp : p e.1 = true
      · simp [hp, SMap.get?_cons]
      · rw [if_neg hp, ih, if_neg hp, if_neg hp]
    · by_cases hp : p e.1 = true
      · rw [if_pos hp, SMap.get?_cons, if_neg he, SMap.get?_cons, if_neg he]; exact ih
      · rw [if_neg hp, SMap.get?_cons, if_neg he]; exact ih

/-! ### The canonical form -/

theorem SMap.sorted_tail {e : Nat × α} {t : SMap α} (h : SMap.sorted (e :: t) = true) : SMap.sorted t = true := by
  simp only [SMap.sorted, Bool.and_eq_true] at h; exact h.2

theorem SMap.sorted_head {e : Nat × α} {t : SMap α} (h : SMap.sorted (e :: t) = true) : ∀ x ∈ t, e.1 < x.1 := by
  induction t generalizing e with
  | nil => simp
  | cons f u ih =>
    have h1 : e.1 < f.1 := by simp only [SMap.sorted, Bool.and_eq_true, decide_eq_true_eq] at h; exact h.1
    intro x hx
    rcases List.mem_cons.1 hx with rfl | hx
    · exact h1
    · exact Nat.lt_trans h1 (ih (SMap.sorted_tail h) x hx)

theorem SMap.sorted_cons {e : Nat × α} {t : SMap α} (ht : SMap.sorted t = true) (h : ∀ x ∈ t, e.1 < x.1) : SMap.sorted (e :: t) = true := by
  cases t with
  | nil => rfl
  | cons f u => simp only [SMap.sorted, Bool.and_eq_true, decide_eq_true_eq] at ht ⊢; exact ⟨h f (by simp), ht⟩

theorem SMap.sorted_del (m : SMap α) (k : Nat) (h : SMap.sorted m = true) : SMap.sorted (SMap.del m k) = true := by
  induction m with
  | nil => exact h
  | cons e t ih =>
    simp only [SMap.del, List.filter_cons] at ih ⊢
    split
    · exact SMap.sorted_cons (ih (SMap.sorted_tail h)) (fun x hx => SMap.sorted_head h x (List.mem_filter.1 hx).1)
    · exact ih (SMap.sorted_tail h)

theorem SMap.mem_ins {m : SMap α} {k : Nat} {v : α} {x : Nat × α} (h : x ∈ SMap.ins m k v) : x = (k, v) ∨ x ∈ m := by
  induction m with
  | nil => simpa [SMap.ins] using h
  | cons e t ih =>
    simp only [SMap.ins] at h
    split at h
    · simpa using h
    · rcases List.mem_cons.1 h with rfl | h
      · simp
      · rcases ih h with h | h <;> simp [h]

theorem SMap.sorted_ins (m : SMap α) (k : Nat) (v : α) (h : SMap.sorted m = true) (hk : ∀ x ∈ m, x.1 ≠ k) :
    SMap.sorted (SMap.ins m k v) = true := by
  induction m with
  | nil => rfl
  | cons e t ih =>
    simp only [SMap.ins]
    split
    · rename_i hlt
      refine SMap.sorted_cons h (fun x hx => ?_)
      rcases List.mem_cons.1 hx with rfl | hx
      · exact hlt
      · exact Nat.lt_trans hlt (SMap.sorted_head h x hx)
    · rename_i hlt
      refine SMap.sorted_cons (ih (SMap.sorted_tail h) (fun x hx => hk x (by simp [hx]))) (fun x hx => ?_)
      rcases SMap.mem_ins hx with rfl | hx
      · have := hk e (by simp)
        show e.1 < k
        omega
      · exact SMap.sorted_head h x hx

theorem SMap.del_ne {m : SMap α} {k : Nat} : ∀ x ∈ SMap.del m k, x.1 ≠ k := by
  intro x hx; simpa [SMap.del] using (List.mem_filter.1 hx).2

/-- Every operation on a map keeps its keys rising. -/
theorem SMap.sorted_put (m : SMap α) (k : Nat) (v : α) (h : SMap.sorted m = true) : SMap.sorted (SMap.put m k v) = true :=
  SMap.sorted_ins _ _ _ (SMap.sorted_del m k h) SMap.del_ne

theorem SMap.sorted_write [DecidableEq α] (m : SMap α) (k : Nat) (v d : α) (h : SMap.sorted m = true) :
    SMap.sorted (SMap.write m k v d) = true := by
  unfold SMap.write; split
  · exact SMap.sorted_del m k h
  · exact SMap.sorted_put m k v h

/-- A write leaves no entry at the value that an absent key reads as. -/
theorem SMap.write_ne [DecidableEq α] (m : SMap α) (k : Nat) (v d : α) (h : ∀ x ∈ m, x.2 ≠ d) :
    ∀ x ∈ SMap.write m k v d, x.2 ≠ d := by
  intro x hx
  unfold SMap.write at hx
  split at hx
  · exact h x (List.mem_filter.1 hx).1
  · rcases SMap.mem_ins hx with rfl | hx
    · assumption
    · exact h x (List.mem_filter.1 hx).1

end Sys2Proof.Machine
end

