-- ==== Sys2Proof/Laws/State.lean ====
section
/-! SUPPORT. What each update of the device leaves alone: one lemma per field and update, and CSR words and fields after a write. -/

namespace Sys2Proof.Machine

variable (d : Dev)

@[simp] theorem Dev.wr_power (a : Nat) (w : Word) : (d.wr a w).power = d.power := rfl
@[simp] theorem Dev.wr_boot (a : Nat) (w : Word) : (d.wr a w).boot = d.boot := rfl
@[simp] theorem Dev.wr_spdm (a : Nat) (w : Word) : (d.wr a w).spdm = d.spdm := rfl
@[simp] theorem Dev.wr_hidden (a : Nat) (w : Word) : (d.wr a w).hidden = d.hidden := rfl
@[simp] theorem Dev.wr_locks (a : Nat) (w : Word) : (d.wr a w).locks = d.locks := rfl
@[simp] theorem Dev.wr_latch (a : Nat) (w : Word) : (d.wr a w).latch = d.latch := rfl
@[simp] theorem Dev.wr_heldLow (a : Nat) (w : Word) : (d.wr a w).heldLow = d.heldLow := rfl
@[simp] theorem Dev.wr_crd (a : Nat) (w : Word) : (d.wr a w).crd = d.crd := rfl
@[simp] theorem Dev.wr_res (a : Nat) (w : Word) : (d.wr a w).res = d.res := rfl
@[simp] theorem Dev.wr_commons (a : Nat) (w : Word) : (d.wr a w).commons = d.commons := rfl
@[simp] theorem Dev.wr_poison (a : Nat) (w : Word) : (d.wr a w).poison = d.poison := rfl
@[simp] theorem Dev.wr_links (a : Nat) (w : Word) : (d.wr a w).links = d.links := rfl
@[simp] theorem Dev.wr_tables (a : Nat) (w : Word) : (d.wr a w).tables = d.tables := rfl
@[simp] theorem Dev.wr_cist (a : Nat) (w : Word) : (d.wr a w).cist = d.cist := rfl
@[simp] theorem Dev.wr_spray (a : Nat) (w : Word) : (d.wr a w).spray = d.spray := rfl
@[simp] theorem Dev.wr_basin (a : Nat) (w : Word) : (d.wr a w).basin = d.basin := rfl
@[simp] theorem Dev.wr_eng (a : Nat) (w : Word) : (d.wr a w).eng = d.eng := rfl
@[simp] theorem Dev.wr_haul (a : Nat) (w : Word) : (d.wr a w).haul = d.haul := rfl
@[simp] theorem Dev.wr_tally (a : Nat) (w : Word) : (d.wr a w).tally = d.tally := rfl
@[simp] theorem Dev.wr_jobs (a : Nat) (w : Word) : (d.wr a w).jobs = d.jobs := rfl
@[simp] theorem Dev.wr_time (a : Nat) (w : Word) : (d.wr a w).time = d.time := rfl
@[simp] theorem Dev.wr_opt (a : Nat) (w : Word) : (d.wr a w).opt = d.opt := rfl
@[simp] theorem Dev.wr_gauge (a : Nat) (w : Word) : (d.wr a w).gauge = d.gauge := rfl
@[simp] theorem Dev.wr_ras (a : Nat) (w : Word) : (d.wr a w).ras = d.ras := rfl
@[simp] theorem Dev.wr_freeCtr (a : Nat) (w : Word) : (d.wr a w).freeCtr = d.freeCtr := rfl
@[simp] theorem Dev.wr_outbox (a : Nat) (w : Word) : (d.wr a w).outbox = d.outbox := rfl

@[simp] theorem Dev.set_power (f : Fld) (v : Nat) : (d.set f v).power = d.power := rfl
@[simp] theorem Dev.set_boot (f : Fld) (v : Nat) : (d.set f v).boot = d.boot := rfl
@[simp] theorem Dev.set_spdm (f : Fld) (v : Nat) : (d.set f v).spdm = d.spdm := rfl
@[simp] theorem Dev.set_hidden (f : Fld) (v : Nat) : (d.set f v).hidden = d.hidden := rfl
@[simp] theorem Dev.set_locks (f : Fld) (v : Nat) : (d.set f v).locks = d.locks := rfl
@[simp] theorem Dev.set_latch (f : Fld) (v : Nat) : (d.set f v).latch = d.latch := rfl
@[simp] theorem Dev.set_heldLow (f : Fld) (v : Nat) : (d.set f v).heldLow = d.heldLow := rfl
@[simp] theorem Dev.set_crd (f : Fld) (v : Nat) : (d.set f v).crd = d.crd := rfl
@[simp] theorem Dev.set_res (f : Fld) (v : Nat) : (d.set f v).res = d.res := rfl
@[simp] theorem Dev.set_commons (f : Fld) (v : Nat) : (d.set f v).commons = d.commons := rfl
@[simp] theorem Dev.set_poison (f : Fld) (v : Nat) : (d.set f v).poison = d.poison := rfl
@[simp] theorem Dev.set_links (f : Fld) (v : Nat) : (d.set f v).links = d.links := rfl
@[simp] theorem Dev.set_tables (f : Fld) (v : Nat) : (d.set f v).tables = d.tables := rfl
@[simp] theorem Dev.set_cist (f : Fld) (v : Nat) : (d.set f v).cist = d.cist := rfl
@[simp] theorem Dev.set_spray (f : Fld) (v : Nat) : (d.set f v).spray = d.spray := rfl
@[simp] theorem Dev.set_basin (f : Fld) (v : Nat) : (d.set f v).basin = d.basin := rfl
@[simp] theorem Dev.set_eng (f : Fld) (v : Nat) : (d.set f v).eng = d.eng := rfl
@[simp] theorem Dev.set_haul (f : Fld) (v : Nat) : (d.set f v).haul = d.haul := rfl
@[simp] theorem Dev.set_tally (f : Fld) (v : Nat) : (d.set f v).tally = d.tally := rfl
@[simp] theorem Dev.set_jobs (f : Fld) (v : Nat) : (d.set f v).jobs = d.jobs := rfl
@[simp] theorem Dev.set_time (f : Fld) (v : Nat) : (d.set f v).time = d.time := rfl
@[simp] theorem Dev.set_opt (f : Fld) (v : Nat) : (d.set f v).opt = d.opt := rfl
@[simp] theorem Dev.set_gauge (f : Fld) (v : Nat) : (d.set f v).gauge = d.gauge := rfl
@[simp] theorem Dev.set_ras (f : Fld) (v : Nat) : (d.set f v).ras = d.ras := rfl
@[simp] theorem Dev.set_freeCtr (f : Fld) (v : Nat) : (d.set f v).freeCtr = d.freeCtr := rfl
@[simp] theorem Dev.set_outbox (f : Fld) (v : Nat) : (d.set f v).outbox = d.outbox := rfl

@[simp] theorem Dev.emit_power (e : Emission) : (d.emit e).power = d.power := rfl
@[simp] theorem Dev.emit_boot (e : Emission) : (d.emit e).boot = d.boot := rfl
@[simp] theorem Dev.emit_spdm (e : Emission) : (d.emit e).spdm = d.spdm := rfl
@[simp] theorem Dev.emit_csr (e : Emission) : (d.emit e).csr = d.csr := rfl
@[simp] theorem Dev.emit_hidden (e : Emission) : (d.emit e).hidden = d.hidden := rfl
@[simp] theorem Dev.emit_locks (e : Emission) : (d.emit e).locks = d.locks := rfl
@[simp] theorem Dev.emit_latch (e : Emission) : (d.emit e).latch = d.latch := rfl
@[simp] theorem Dev.emit_heldLow (e : Emission) : (d.emit e).heldLow = d.heldLow := rfl
@[simp] theorem Dev.emit_crd (e : Emission) : (d.emit e).crd = d.crd := rfl
@[simp] theorem Dev.emit_res (e : Emission) : (d.emit e).res = d.res := rfl
@[simp] theorem Dev.emit_commons (e : Emission) : (d.emit e).commons = d.commons := rfl
@[simp] theorem Dev.emit_poison (e : Emission) : (d.emit e).poison = d.poison := rfl
@[simp] theorem Dev.emit_links (e : Emission) : (d.emit e).links = d.links := rfl
@[simp] theorem Dev.emit_tables (e : Emission) : (d.emit e).tables = d.tables := rfl
@[simp] theorem Dev.emit_cist (e : Emission) : (d.emit e).cist = d.cist := rfl
@[simp] theorem Dev.emit_spray (e : Emission) : (d.emit e).spray = d.spray := rfl
@[simp] theorem Dev.emit_basin (e : Emission) : (d.emit e).basin = d.basin := rfl
@[simp] theorem Dev.emit_eng (e : Emission) : (d.emit e).eng = d.eng := rfl
@[simp] theorem Dev.emit_haul (e : Emission) : (d.emit e).haul = d.haul := rfl
@[simp] theorem Dev.emit_tally (e : Emission) : (d.emit e).tally = d.tally := rfl
@[simp] theorem Dev.emit_jobs (e : Emission) : (d.emit e).jobs = d.jobs := rfl
@[simp] theorem Dev.emit_time (e : Emission) : (d.emit e).time = d.time := rfl
@[simp] theorem Dev.emit_opt (e : Emission) : (d.emit e).opt = d.opt := rfl
@[simp] theorem Dev.emit_gauge (e : Emission) : (d.emit e).gauge = d.gauge := rfl
@[simp] theorem Dev.emit_ras (e : Emission) : (d.emit e).ras = d.ras := rfl
@[simp] theorem Dev.emit_freeCtr (e : Emission) : (d.emit e).freeCtr = d.freeCtr := rfl

@[simp] theorem Dev.setLink_power (p : Nat) (l : Link) : (d.setLink p l).power = d.power := rfl
@[simp] theorem Dev.setLink_boot (p : Nat) (l : Link) : (d.setLink p l).boot = d.boot := rfl
@[simp] theorem Dev.setLink_spdm (p : Nat) (l : Link) : (d.setLink p l).spdm = d.spdm := rfl
@[simp] theorem Dev.setLink_csr (p : Nat) (l : Link) : (d.setLink p l).csr = d.csr := rfl
@[simp] theorem Dev.setLink_hidden (p : Nat) (l : Link) : (d.setLink p l).hidden = d.hidden := rfl
@[simp] theorem Dev.setLink_locks (p : Nat) (l : Link) : (d.setLink p l).locks = d.locks := rfl
@[simp] theorem Dev.setLink_latch (p : Nat) (l : Link) : (d.setLink p l).latch = d.latch := rfl
@[simp] theorem Dev.setLink_heldLow (p : Nat) (l : Link) : (d.setLink p l).heldLow = d.heldLow := rfl
@[simp] theorem Dev.setLink_crd (p : Nat) (l : Link) : (d.setLink p l).crd = d.crd := rfl
@[simp] theorem Dev.setLink_res (p : Nat) (l : Link) : (d.setLink p l).res = d.res := rfl
@[simp] theorem Dev.setLink_commons (p : Nat) (l : Link) : (d.setLink p l).commons = d.commons := rfl
@[simp] theorem Dev.setLink_poison (p : Nat) (l : Link) : (d.setLink p l).poison = d.poison := rfl
@[simp] theorem Dev.setLink_tables (p : Nat) (l : Link) : (d.setLink p l).tables = d.tables := rfl
@[simp] theorem Dev.setLink_cist (p : Nat) (l : Link) : (d.setLink p l).cist = d.cist := rfl
@[simp] theorem Dev.setLink_spray (p : Nat) (l : Link) : (d.setLink p l).spray = d.spray := rfl
@[simp] theorem Dev.setLink_basin (p : Nat) (l : Link) : (d.setLink p l).basin = d.basin := rfl
@[simp] theorem Dev.setLink_eng (p : Nat) (l : Link) : (d.setLink p l).eng = d.eng := rfl
@[simp] theorem Dev.setLink_haul (p : Nat) (l : Link) : (d.setLink p l).haul = d.haul := rfl
@[simp] theorem Dev.setLink_tally (p : Nat) (l : Link) : (d.setLink p l).tally = d.tally := rfl
@[simp] theorem Dev.setLink_jobs (p : Nat) (l : Link) : (d.setLink p l).jobs = d.jobs := rfl
@[simp] theorem Dev.setLink_time (p : Nat) (l : Link) : (d.setLink p l).time = d.time := rfl
@[simp] theorem Dev.setLink_opt (p : Nat) (l : Link) : (d.setLink p l).opt = d.opt := rfl
@[simp] theorem Dev.setLink_gauge (p : Nat) (l : Link) : (d.setLink p l).gauge = d.gauge := rfl
@[simp] theorem Dev.setLink_ras (p : Nat) (l : Link) : (d.setLink p l).ras = d.ras := rfl
@[simp] theorem Dev.setLink_freeCtr (p : Nat) (l : Link) : (d.setLink p l).freeCtr = d.freeCtr := rfl
@[simp] theorem Dev.setLink_outbox (p : Nat) (l : Link) : (d.setLink p l).outbox = d.outbox := rfl

/-! ### Updates in terms of these -/

theorem Dev.wr64_eq (a n : Nat) : d.wr64 a n = (d.wr a (BitVec.ofNat 32 n)).wr (a + 4) (BitVec.ofNat 32 (n / 2 ^ 32)) := rfl
@[simp] theorem Dev.bump_eq (f : Fld) (n : Nat) : d.bump f n = d.set f (min (2 ^ f.w - 1) (d.get f + n)) := rfl
@[simp] theorem Dev.incr_eq (f : Fld) (n : Nat) : d.incr f n = d.set f (d.get f + n) := rfl
@[simp] theorem Dev.drop_eq (f : Fld) (n : Nat) : d.drop f n = d.set f (d.get f - n) := rfl
@[simp] theorem Dev.emit_outbox (e : Emission) : (d.emit e).outbox = d.outbox ++ [e] := rfl
@[simp] theorem Dev.modLink_eq (p : Nat) (f : Link → Link) : d.modLink p f = d.setLink p (f (d.link p)) := rfl

/-! ### CSR words -/

/-- A read after a write. -/
theorem Dev.rd_wr (a b : Nat) (w : Word) : (d.wr a w).rd b = if b = a then w else d.rd b := by simp [Dev.rd, Dev.wr]

@[simp] theorem Dev.rd_wr_same (a : Nat) (w : Word) : (d.wr a w).rd a = w := by simp [Dev.rd_wr]

@[simp] theorem Dev.rd_wr_ne (a b : Nat) (w : Word) (h : b ≠ a) : (d.wr a w).rd b = d.rd b := by simp [Dev.rd_wr, h]

/-- What reads of CSR words depend on. -/
theorem Dev.rd_congr {d e : Dev} (h : d.csr = e.csr) (a : Nat) : d.rd a = e.rd a := by simp [Dev.rd, h]

theorem Dev.get_congr {d e : Dev} (h : d.csr = e.csr) (f : Fld) : d.get f = e.get f := by simp [Dev.get, Dev.rd, h]

theorem Dev.rd64_congr {d e : Dev} (h : d.csr = e.csr) (a : Nat) : d.rd64 a = e.rd64 a := by simp [Dev.rd64, Dev.rd, h]

@[simp] theorem Dev.rd_set_ne (f : Fld) (v b : Nat) (h : b ≠ f.addr) : (d.set f v).rd b = d.rd b := Dev.rd_wr_ne d _ _ _ h

@[simp] theorem Dev.rd_emit (e : Emission) (a : Nat) : (d.emit e).rd a = d.rd a := rfl
@[simp] theorem Dev.get_emit (e : Emission) (f : Fld) : (d.emit e).get f = d.get f := rfl
@[simp] theorem Dev.rd_setLink (p : Nat) (l : Link) (a : Nat) : (d.setLink p l).rd a = d.rd a := rfl
@[simp] theorem Dev.get_setLink (p : Nat) (l : Link) (f : Fld) : (d.setLink p l).get f = d.get f := rfl

@[simp] theorem Dev.link_setLink_same (p : Nat) (l : Link) : (d.setLink p l).link p = l := by simp [Dev.link, Dev.setLink]
@[simp] theorem Dev.link_setLink_ne (p q : Nat) (l : Link) (h : q ≠ p) : (d.setLink p l).link q = d.link q := by
  simp [Dev.link, Dev.setLink, h]
@[simp] theorem Dev.link_set (f : Fld) (v p : Nat) : (d.set f v).link p = d.link p := rfl
@[simp] theorem Dev.link_wr (a : Nat) (w : Word) (p : Nat) : (d.wr a w).link p = d.link p := rfl
@[simp] theorem Dev.link_emit (e : Emission) (p : Nat) : (d.emit e).link p = d.link p := rfl

@[simp] theorem Dev.get_wr_ne (a : Nat) (w : Word) (f : Fld) (h : f.addr ≠ a) : (d.wr a w).get f = d.get f := by simp [Dev.get, h]
@[simp] theorem Dev.get_set_ne (f g : Fld) (v : Nat) (h : g.addr ≠ f.addr) : (d.set f v).get g = d.get g := by simp [Dev.get, h]

/-! ### Free draws -/

@[simp] theorem Dev.draw_power : d.draw.2.power = d.power := rfl
@[simp] theorem Dev.draw_boot : d.draw.2.boot = d.boot := rfl
@[simp] theorem Dev.draw_spdm : d.draw.2.spdm = d.spdm := rfl
@[simp] theorem Dev.draw_csr : d.draw.2.csr = d.csr := rfl
@[simp] theorem Dev.draw_hidden : d.draw.2.hidden = d.hidden := rfl
@[simp] theorem Dev.draw_locks : d.draw.2.locks = d.locks := rfl
@[simp] theorem Dev.draw_latch : d.draw.2.latch = d.latch := rfl
@[simp] theorem Dev.draw_heldLow : d.draw.2.heldLow = d.heldLow := rfl
@[simp] theorem Dev.draw_crd : d.draw.2.crd = d.crd := rfl
@[simp] theorem Dev.draw_res : d.draw.2.res = d.res := rfl
@[simp] theorem Dev.draw_commons : d.draw.2.commons = d.commons := rfl
@[simp] theorem Dev.draw_poison : d.draw.2.poison = d.poison := rfl
@[simp] theorem Dev.draw_links : d.draw.2.links = d.links := rfl
@[simp] theorem Dev.draw_tables : d.draw.2.tables = d.tables := rfl
@[simp] theorem Dev.draw_cist : d.draw.2.cist = d.cist := rfl
@[simp] theorem Dev.draw_spray : d.draw.2.spray = d.spray := rfl
@[simp] theorem Dev.draw_basin : d.draw.2.basin = d.basin := rfl
@[simp] theorem Dev.draw_eng : d.draw.2.eng = d.eng := rfl
@[simp] theorem Dev.draw_haul : d.draw.2.haul = d.haul := rfl
@[simp] theorem Dev.draw_tally : d.draw.2.tally = d.tally := rfl
@[simp] theorem Dev.draw_jobs : d.draw.2.jobs = d.jobs := rfl
@[simp] theorem Dev.draw_time : d.draw.2.time = d.time := rfl
@[simp] theorem Dev.draw_opt : d.draw.2.opt = d.opt := rfl
@[simp] theorem Dev.draw_gauge : d.draw.2.gauge = d.gauge := rfl
@[simp] theorem Dev.draw_ras : d.draw.2.ras = d.ras := rfl
@[simp] theorem Dev.draw_outbox : d.draw.2.outbox = d.outbox := rfl
@[simp] theorem Dev.draw_freeCtr : d.draw.2.freeCtr = d.freeCtr + 1 := rfl
@[simp] theorem Dev.draw_fst : d.draw.1 = Config.freeValue d.freeCtr := rfl
@[simp] theorem Dev.rd_draw (a : Nat) : d.draw.2.rd a = d.rd a := rfl
@[simp] theorem Dev.get_draw (f : Fld) : d.draw.2.get f = d.get f := rfl
@[simp] theorem Dev.link_draw (p : Nat) : d.draw.2.link p = d.link p := rfl

/-! ### Fields of a word -/

theorem bitsOf_testBit (n lo w k : Nat) : (bitsOf n lo w).testBit k = (decide (k < w) && n.testBit (lo + k)) := by
  simp [bitsOf, Nat.testBit_mod_two_pow, Nat.testBit_div_two_pow, Nat.add_comm]

theorem bitsOf_lt (n lo w : Nat) : bitsOf n lo w < 2 ^ w := Nat.mod_lt _ (Nat.two_pow_pos w)

theorem withBits_split (n lo w v : Nat) :
    withBits n lo w v = 2 ^ lo * (2 ^ w * (n / 2 ^ lo / 2 ^ w) + v % 2 ^ w) + n % 2 ^ lo := by
  have h1 : 2 ^ lo * (n / 2 ^ lo) + n % 2 ^ lo = n := Nat.div_add_mod n (2 ^ lo)
  have h2 : 2 ^ w * (n / 2 ^ lo / 2 ^ w) + n / 2 ^ lo % 2 ^ w = n / 2 ^ lo := Nat.div_add_mod _ _
  have h3 : 2 ^ lo * (n / 2 ^ lo) = 2 ^ lo * (2 ^ w * (n / 2 ^ lo / 2 ^ w)) + 2 ^ lo * (n / 2 ^ lo % 2 ^ w) := by rw [← Nat.mul_add, h2]
  unfold withBits bitsOf
  rw [Nat.mul_add, Nat.mul_comm (n / 2 ^ lo % 2 ^ w), Nat.mul_comm (v % 2 ^ w)]
  omega

theorem withBits_lt (n lo w v W : Nat) (hn : n < 2 ^ W) (h : lo + w ≤ W) : withBits n lo w v < 2 ^ W := by
  rw [withBits_split]
  have hW : 2 ^ W = 2 ^ lo * (2 ^ w * 2 ^ (W - lo - w)) := by rw [← Nat.pow_add, ← Nat.pow_add]; congr 1; omega
  have hq : n / 2 ^ lo / 2 ^ w < 2 ^ (W - lo - w) := by
    rw [Nat.div_div_eq_div_mul, Nat.div_lt_iff_lt_mul (Nat.mul_pos (Nat.two_pow_pos _) (Nat.two_pow_pos _)), ← Nat.pow_add, ← Nat.pow_add]
    have : W - lo - w + (lo + w) = W := by omega
    rw [this]; exact hn
  have hv : v % 2 ^ w < 2 ^ w := Nat.mod_lt _ (Nat.two_pow_pos w)
  have hm : n % 2 ^ lo < 2 ^ lo := Nat.mod_lt _ (Nat.two_pow_pos lo)
  have h1 : 2 ^ w * (n / 2 ^ lo / 2 ^ w) + v % 2 ^ w + 1 ≤ 2 ^ w * 2 ^ (W - lo - w) := by
    have := Nat.mul_le_mul_left (2 ^ w) hq
    rw [Nat.mul_succ] at this; omega
  have h2 := Nat.mul_le_mul_left (2 ^ lo) h1
  rw [Nat.mul_succ] at h2
  rw [hW]; omega

/-- A field after a write of that field. -/
theorem bitsOf_withBits_same (n lo w v : Nat) : bitsOf (withBits n lo w v) lo w = v % 2 ^ w := by
  rw [withBits_split, bitsOf, Nat.mul_add_div (Nat.two_pow_pos lo), Nat.div_eq_of_lt (Nat.mod_lt _ (Nat.two_pow_pos lo)),
    Nat.add_zero, Nat.mul_add_mod, Nat.mod_mod]

/-- A field above the field written. -/
theorem bitsOf_withBits_above (n lo w v lo' w' : Nat) (h : lo + w ≤ lo') : bitsOf (withBits n lo w v) lo' w' = bitsOf n lo' w' := by
  have e : 2 ^ lo' = 2 ^ lo * (2 ^ w * 2 ^ (lo' - lo - w)) := by rw [← Nat.pow_add, ← Nat.pow_add]; congr 1; omega
  unfold bitsOf
  congr 1
  rw [withBits_split, e, ← Nat.div_div_eq_div_mul, Nat.mul_add_div (Nat.two_pow_pos lo),
    Nat.div_eq_of_lt (Nat.mod_lt _ (Nat.two_pow_pos lo)), Nat.add_zero, ← Nat.div_div_eq_div_mul, Nat.mul_add_div (Nat.two_pow_pos w),
    Nat.div_eq_of_lt (Nat.mod_lt _ (Nat.two_pow_pos w)), Nat.add_zero, ← Nat.div_div_eq_div_mul, ← Nat.div_div_eq_div_mul]

/-- A field below the field written. -/
theorem bitsOf_withBits_below (n lo w v lo' w' : Nat) (h : lo' + w' ≤ lo) : bitsOf (withBits n lo w v) lo' w' = bitsOf n lo' w' := by
  have e : 2 ^ lo = 2 ^ (lo' + w') * 2 ^ (lo - (lo' + w')) := by rw [← Nat.pow_add]; congr 1; omega
  have key (x : Nat) : bitsOf x lo' w' = x % 2 ^ (lo' + w') / 2 ^ lo' := by
    unfold bitsOf; rw [Nat.pow_add, Nat.mod_mul_right_div_self]
  have hm (q r : Nat) : (2 ^ lo * q + r) % 2 ^ (lo' + w') = r % 2 ^ (lo' + w') := by
    rw [e, Nat.mul_assoc, Nat.mul_add_mod]
  rw [key, key, withBits_split, hm]
  conv => rhs; rw [← Nat.div_add_mod n (2 ^ lo), hm]

theorem toNat_withBits (x : Word) (f : Fld) (v : Nat) (h : f.lo + f.w ≤ 32) :
    (BitVec.ofNat 32 (withBits x.toNat f.lo f.w v)).toNat = withBits x.toNat f.lo f.w v := by
  rw [BitVec.toNat_ofNat, Nat.mod_eq_of_lt (withBits_lt _ _ _ _ 32 x.isLt h)]

/-- A field reads back what was written, cut to its width. -/
theorem Dev.get_set_same (f : Fld) (v : Nat) (h : f.lo + f.w ≤ 32) : (d.set f v).get f = v % 2 ^ f.w := by
  simp only [Dev.get, Dev.set, Dev.rd_wr_same]
  rw [toNat_withBits _ _ _ h, bitsOf_withBits_same]

/-- Two fields share no bit of one word. -/
def Fld.apart (f g : Fld) : Prop := f.lo + f.w ≤ g.lo ∨ g.lo + g.w ≤ f.lo

/-- Another field keeps its value. -/
theorem Dev.get_set_apart (f g : Fld) (v : Nat) (h : f.lo + f.w ≤ 32) (hg : f.apart g) : (d.set f v).get g = d.get g := by
  by_cases ha : g.addr = f.addr
  · simp only [Dev.get, Dev.set, ha, Dev.rd_wr_same]
    rw [toNat_withBits _ _ _ h]
    rcases hg with hg | hg
    · exact bitsOf_withBits_above _ _ _ _ _ _ hg
    · exact bitsOf_withBits_below _ _ _ _ _ _ hg
  · exact Dev.get_set_ne d f g v ha

end Sys2Proof.Machine
end

