-- ==== Sys2Proof/Laws/Events.lean ====
section
/-! SUPPORT. What raising an event and counting leave alone (R453 to R460, R476 to R480). -/

namespace Sys2Proof.Machine

/-- The parts of the device that no event and no counter touches. -/
def Dev.calm (d : Dev) :=
  ((d.power, d.boot, d.spdm, d.hidden, d.locks, d.latch, d.heldLow, d.crd, d.commons), d.links, d.tables, d.basin, d.eng, d.haul,
   d.tally, d.jobs, d.time, d.opt, d.freeCtr)

/-- The registers that an event writes. -/
def isEvtReg (a : Nat) : Prop := a = R.GLB_EVT_HEAD ∨ a = R.GLB_EVT_CNT

/-- Nothing but event registers, event memory, counters and telemetry differs. -/
structure Dev.Quiet (d e : Dev) : Prop where
  calm : e.calm = d.calm
  rd : ∀ a, ¬ isEvtReg a → e.rd a = d.rd a

theorem Dev.Quiet.refl (d : Dev) : d.Quiet d := ⟨rfl, fun _ _ => rfl⟩

theorem Dev.Quiet.trans {d e f : Dev} (h : d.Quiet e) (g : e.Quiet f) : d.Quiet f :=
  ⟨g.calm.trans h.calm, fun a ha => (g.rd a ha).trans (h.rd a ha)⟩

/-- A change that leaves the calm parts and the CSR words. -/
theorem Dev.Quiet.of_csr {d e : Dev} (h : e.calm = d.calm) (hc : e.csr = d.csr) : d.Quiet e :=
  ⟨h, fun a _ => Dev.rd_congr hc a⟩

theorem Dev.Quiet.set {d : Dev} {f : Fld} {v : Nat} (h : isEvtReg f.addr) : d.Quiet (d.set f v) :=
  ⟨rfl, fun a ha => Dev.rd_set_ne d f v a (fun hc => ha (hc ▸ h))⟩

theorem Dev.Quiet.foldl {α : Type} (f : Dev → α → Dev) (l : List α) (h : ∀ (d : Dev) x, d.Quiet (f d x)) (d : Dev) :
    d.Quiet (l.foldl f d) := by
  induction l generalizing d with
  | nil => exact .refl d
  | cons x t ih => exact (h d x).trans (ih _)

theorem addSat_quiet (d : Dev) (c n : Nat) : d.Quiet (d.addSat c n).1 := by
  unfold Dev.addSat; dsimp only
  split
  · exact .refl d
  · split <;> exact .of_csr rfl rfl

theorem addCtr_quiet (d : Dev) (c n : Nat) : d.Quiet (d.addCtr c n).1 := by
  unfold Dev.addCtr; dsimp only
  split
  · split
    · exact .of_csr rfl rfl
    · exact Dev.Quiet.trans (e := d.setCtr c (((d.ctr c).1 + n) % 2 ^ 48, (d.ctr c).2)) (.of_csr rfl rfl) (addSat_quiet _ _ _)
  · exact addSat_quiet _ _ _

theorem addCtrs_quiet (cs : List (Nat × Nat)) (d : Dev) : d.Quiet (addCtrs cs d).1 := by
  unfold addCtrs
  suffices h : ∀ (r : Dev × List Nat), d.Quiet r.1 →
      d.Quiet (cs.foldl (fun r x => let q := r.1.addCtr x.1 x.2; (q.1, r.2 ++ q.2)) r).1 from h (d, []) (.refl d)
  induction cs with
  | nil => intro r h; exact h
  | cons x t ih => intro r h; exact ih _ (h.trans (addCtr_quiet _ _ _))

theorem dropEvent_quiet (d : Dev) : d.Quiet (dropEvent d) :=
  (Dev.Quiet.set (d := d) (f := R.GLB_EVT_CNT_LOST) (Or.inr rfl)).trans (.of_csr rfl rfl)

theorem eventIrq_quiet (d : Dev) : d.Quiet (eventIrq d) := by
  unfold eventIrq; split
  · exact .of_csr rfl rfl
  · exact .refl d

theorem evtPush_quiet (d : Dev) (bs : List Byte) : d.Quiet (d.ringPush evtRing bs) := by
  unfold Dev.ringPush Dev.ringAdvance
  exact Dev.Quiet.trans (e := d.writeMem 1 (d.rd64 evtRing.base + evtRing.esz * d.get evtRing.head) bs) (.of_csr rfl rfl) (.set (Or.inl rfl))

theorem logEvent_quiet (e : Event) (d : Dev) : d.Quiet (logEvent e d) := by
  unfold logEvent; dsimp only
  split
  · exact .of_csr rfl rfl
  · split
    · exact dropEvent_quiet d
    · exact ((evtPush_quiet d _).trans (eventIrq_quiet _)).trans (.of_csr rfl rfl)

theorem sendTelemetry_quiet (eng : Nat) (p : List Byte) (d : Dev) : d.Quiet (sendTelemetry eng p d) := by
  unfold sendTelemetry; dsimp only
  repeat' split
  all_goals exact .of_csr rfl rfl

theorem forwardEvent_quiet (e : Event) (d : Dev) : d.Quiet (forwardEvent e d) := by
  unfold forwardEvent; dsimp only
  split
  · exact .refl d
  · split
    · exact .set (Or.inr rfl)
    · split
      · exact (sendTelemetry_quiet _ _ _).trans (.of_csr rfl rfl)
      · exact sendTelemetry_quiet _ _ _

theorem raiseFuel_quiet (n : Nat) (q : EventReq) (d : Dev) : d.Quiet (raiseFuel n q d) := by
  induction n generalizing q d with
  | zero => exact .refl d
  | succ n ih =>
    unfold raiseFuel
    extract_lets e _ d1 d2 _ d3 r
    refine Dev.Quiet.trans ?_ (.foldl _ _ (fun d c => ih _ d) _)
    refine Dev.Quiet.trans ?_ (addCtrs_quiet _ _)
    refine Dev.Quiet.trans (e := d1) (.of_csr rfl rfl) (Dev.Quiet.trans (e := d2) (forwardEvent_quiet _ _) ?_)
    unfold d3
    split
    · exact logEvent_quiet _ _
    · split
      · exact .of_csr rfl rfl
      · exact dropEvent_quiet _

/-- Everything an event leaves alone. -/
theorem raise_quiet (q : EventReq) (d : Dev) : d.Quiet (raise q d) := raiseFuel_quiet _ _ _

theorem raiseCE_quiet (b c u : Nat) (d : Dev) (x y : Nat) : d.Quiet (raiseCE b c u d x y) := raise_quiet _ _
theorem raiseDE_quiet (b c u : Nat) (d : Dev) (x y : Nat) : d.Quiet (raiseDE b c u d x y) := raise_quiet _ _
theorem raiseFatal_quiet (b c u : Nat) (d : Dev) (x y : Nat) : d.Quiet (raiseFatal b c u d x y) := raise_quiet _ _
theorem refuseWrite_quiet (a : Nat) (r : ReqId) (v : Word) (l : Bool) (d : Dev) : d.Quiet (refuseWrite a r v l d) := raise_quiet _ _

/-- Everything counting leaves alone. -/
theorem countMany_quiet (cs : List (Nat × Nat)) (d : Dev) : d.Quiet (countMany cs d) := by
  unfold countMany Dev.each; dsimp only
  exact (addCtrs_quiet _ _).trans (.foldl _ _ (fun d c => raiseCE_quiet _ _ _ _ _ _) _)

theorem countPort_quiet (p k : Nat) (d : Dev) (n : Nat) : d.Quiet (countPort p k d n) := countMany_quiet _ _
theorem countEvent_quiet (e : CtrEvent) (d : Dev) : d.Quiet (countEvent e d) := countMany_quiet _ _
theorem countCsr_quiet (r : ReqId) (a c p : Nat) (d : Dev) : d.Quiet (countCsr r a c p d) := countMany_quiet _ _

theorem Dev.Quiet.get {d e : Dev} (h : d.Quiet e) (f : Fld) (hf : ¬ isEvtReg f.addr) : e.get f = d.get f := by
  simp only [Dev.get, h.rd _ hf]

theorem Dev.Quiet.rd64 {d e : Dev} (h : d.Quiet e) (a : Nat) (h0 : ¬ isEvtReg a) (h1 : ¬ isEvtReg (a + 4)) : e.rd64 a = d.rd64 a := by
  simp only [Dev.rd64, h.rd _ h0, h.rd _ h1]

theorem Dev.Quiet.turn {d e : Dev} (h : d.Quiet e) : e.turn = d.turn :=
  h.rd64 _ (by unfold isEvtReg; decide) (by unfold isEvtReg; decide)

theorem Dev.Quiet.on {d e : Dev} (h : d.Quiet e) (f : Fld) (hf : ¬ isEvtReg f.addr) : e.on f = d.on f := by
  simp only [Dev.on, h.get f hf]

section
variable {d e : Dev} (h : d.Quiet e)
include h
theorem Dev.Quiet.power : e.power = d.power := congrArg (fun x => x.1.1) h.calm
theorem Dev.Quiet.boot : e.boot = d.boot := congrArg (fun x => x.1.2.1) h.calm
theorem Dev.Quiet.spdm : e.spdm = d.spdm := congrArg (fun x => x.1.2.2.1) h.calm
theorem Dev.Quiet.hidden : e.hidden = d.hidden := congrArg (fun x => x.1.2.2.2.1) h.calm
theorem Dev.Quiet.locks : e.locks = d.locks := congrArg (fun x => x.1.2.2.2.2.1) h.calm
theorem Dev.Quiet.latch : e.latch = d.latch := congrArg (fun x => x.1.2.2.2.2.2.1) h.calm
theorem Dev.Quiet.heldLow : e.heldLow = d.heldLow := congrArg (fun x => x.1.2.2.2.2.2.2.1) h.calm
theorem Dev.Quiet.crd : e.crd = d.crd := congrArg (fun x => x.1.2.2.2.2.2.2.2.1) h.calm
theorem Dev.Quiet.commons : e.commons = d.commons := congrArg (fun x => x.1.2.2.2.2.2.2.2.2) h.calm
theorem Dev.Quiet.links : e.links = d.links := congrArg (fun x => x.2.1) h.calm
theorem Dev.Quiet.tables : e.tables = d.tables := congrArg (fun x => x.2.2.1) h.calm
theorem Dev.Quiet.basin : e.basin = d.basin := congrArg (fun x => x.2.2.2.1) h.calm
theorem Dev.Quiet.eng : e.eng = d.eng := congrArg (fun x => x.2.2.2.2.1) h.calm
theorem Dev.Quiet.haul : e.haul = d.haul := congrArg (fun x => x.2.2.2.2.2.1) h.calm
theorem Dev.Quiet.tally : e.tally = d.tally := congrArg (fun x => x.2.2.2.2.2.2.1) h.calm
theorem Dev.Quiet.jobs : e.jobs = d.jobs := congrArg (fun x => x.2.2.2.2.2.2.2.1) h.calm
theorem Dev.Quiet.time : e.time = d.time := congrArg (fun x => x.2.2.2.2.2.2.2.2.1) h.calm
theorem Dev.Quiet.opt : e.opt = d.opt := congrArg (fun x => x.2.2.2.2.2.2.2.2.2.1) h.calm
theorem Dev.Quiet.freeCtr : e.freeCtr = d.freeCtr := congrArg (fun x => x.2.2.2.2.2.2.2.2.2.2) h.calm
theorem Dev.Quiet.link (p : Nat) : e.link p = d.link p := by simp only [Dev.link, h.links]
end

end Sys2Proof.Machine
end

