-- ==== Sys2Proof/Laws/Csr.lean ====
section
/-! SUPPORT. What a CSR write by the access codes changes: one word, the requester's held low word and, for a lock violation, what an event
changes (R10, R11, R523). -/

namespace Sys2Proof.Machine

/-- The parts of the device that a CSR write by the access codes leaves alone. -/
def Dev.still (d : Dev) :=
  ((d.power, d.boot, d.spdm, d.locks, d.latch, d.crd, d.commons), d.links, d.tables, d.basin, d.eng, d.haul, d.tally, d.jobs, d.time, d.opt, d.freeCtr)

/-- Nothing differs but the word at a, held and hidden words, and what an event changes. -/
structure Dev.Writes (a : Nat) (d e : Dev) : Prop where
  still : e.still = d.still
  rd : ∀ b, b ≠ a → ¬ isEvtReg b → e.rd b = d.rd b

theorem Dev.Writes.trans {a : Nat} {d e f : Dev} (h : Dev.Writes a d e) (g : Dev.Writes a e f) : Dev.Writes a d f :=
  ⟨g.still.trans h.still, fun b hb he => (g.rd b hb he).trans (h.rd b hb he)⟩

theorem Dev.Quiet.writes {d e : Dev} (h : d.Quiet e) (a : Nat) : Dev.Writes a d e :=
  ⟨by simp only [Dev.still, h.power, h.boot, h.spdm, h.locks, h.latch, h.crd, h.commons, h.links, h.tables, h.basin, h.eng, h.haul, h.tally,
    h.jobs, h.time, h.opt, h.freeCtr], fun b _ he => h.rd b he⟩

/-- A write of a 32-bit register changes its word as R11 says and nothing else but what the lock violation's event changes. -/
theorem applyFields_writes (fs : List FieldDef) (a : Nat) (r : ReqId) (new at_ : Nat) (word : Word) (d : Dev) :
    Dev.Writes a d (applyFields fs false a r new at_ word d) := by
  unfold applyFields
  extract_lets fs' old x d1 wo d2
  have h1 : Dev.Writes a d d2 := by
    refine ⟨?_, fun b hb _ => ?_⟩
    · unfold d2; split <;> rfl
    · have : d2.rd b = d1.rd b := by unfold d2; split <;> rfl
      rw [this]; exact Dev.rd_wr_ne d a b _ hb
  split
  · exact h1.trans ((refuseWrite_quiet _ _ _ _ _).writes a)
  · exact h1

theorem applyFields_rd_same (fs : List FieldDef) (a : Nat) (r : ReqId) (new at_ : Nat) (word : Word) (d : Dev) (ha : ¬ isEvtReg a) :
    (applyFields fs false a r new at_ word d).rd a =
      BitVec.ofNat 32 (writeFields (isLocked d a) (d.liveFields fs) (d.rd a).toNat new).1 := by
  unfold applyFields
  extract_lets fs' old x d1 wo d2
  have h2 : d2.rd a = BitVec.ofNat 32 x.1 := by
    have : d2.rd a = d1.rd a := by unfold d2; split <;> rfl
    rw [this]; exact Dev.rd_wr_same d a _
  split
  · rw [(refuseWrite_quiet _ _ _ _ _).rd a ha]; exact h2
  · exact h2

/-- A write of a command's own register. -/
theorem writeOwn_writes (fs : List FieldDef) (a : Nat) (w : CsrW) (d : Dev) : Dev.Writes a d (writeOwn fs a w d) := by
  unfold writeOwn
  refine Dev.Writes.trans ?_ (applyFields_writes _ _ _ _ _ _ _)
  exact ((countCsr_quiet w.req a 1 3 d).writes a).trans ⟨rfl, fun _ _ _ => rfl⟩

theorem writeOwn_rd_same (fs : List FieldDef) (a : Nat) (w : CsrW) (d : Dev) (ha : ¬ isEvtReg a) :
    (writeOwn fs a w d).rd a = BitVec.ofNat 32 (writeFields (isLocked d a) (d.liveFields fs) (d.rd a).toNat w.val.toNat).1 := by
  unfold writeOwn
  rw [applyFields_rd_same _ _ _ _ _ _ _ ha]
  have h := countCsr_quiet w.req a 1 3 d
  have h1 : (discardHeld w.req a (countCsr w.req a 1 3 d)).rd a = d.rd a := h.rd a ha
  have h2 : isLocked (discardHeld w.req a (countCsr w.req a 1 3 d)) a = isLocked d a := by
    show (countCsr w.req a 1 3 d).locks.contains _ = _; rw [h.locks]; rfl
  have h3 : (discardHeld w.req a (countCsr w.req a 1 3 d)).liveFields fs = d.liveFields fs := by
    have p : (countCsr w.req a 1 3 d).power = d.power := h.power
    have s : ¬ isEvtReg R.SEC_BOOT_STATUS_STAGE.addr := by unfold isEvtReg; decide
    have e : (discardHeld w.req a (countCsr w.req a 1 3 d)).applied = d.applied := by
      show (countCsr w.req a 1 3 d).applied = d.applied
      simp only [Dev.applied, Dev.running, p, Dev.get, h.rd _ s]
    simp only [Dev.liveFields, e]
  rw [h1, h2, h3]

section
variable {a : Nat} {d e : Dev} (h : Dev.Writes a d e)
include h
theorem Dev.Writes.power : e.power = d.power := congrArg (fun x => x.1.1) h.still
theorem Dev.Writes.boot : e.boot = d.boot := congrArg (fun x => x.1.2.1) h.still
theorem Dev.Writes.spdm : e.spdm = d.spdm := congrArg (fun x => x.1.2.2.1) h.still
theorem Dev.Writes.locks : e.locks = d.locks := congrArg (fun x => x.1.2.2.2.1) h.still
theorem Dev.Writes.latch : e.latch = d.latch := congrArg (fun x => x.1.2.2.2.2.1) h.still
theorem Dev.Writes.crd : e.crd = d.crd := congrArg (fun x => x.1.2.2.2.2.2.1) h.still
theorem Dev.Writes.commons : e.commons = d.commons := congrArg (fun x => x.1.2.2.2.2.2.2) h.still
theorem Dev.Writes.links : e.links = d.links := congrArg (fun x => x.2.1) h.still
theorem Dev.Writes.tables : e.tables = d.tables := congrArg (fun x => x.2.2.1) h.still
theorem Dev.Writes.basin : e.basin = d.basin := congrArg (fun x => x.2.2.2.1) h.still
theorem Dev.Writes.eng : e.eng = d.eng := congrArg (fun x => x.2.2.2.2.1) h.still
theorem Dev.Writes.haul : e.haul = d.haul := congrArg (fun x => x.2.2.2.2.2.1) h.still
theorem Dev.Writes.tally : e.tally = d.tally := congrArg (fun x => x.2.2.2.2.2.2.1) h.still
theorem Dev.Writes.jobs : e.jobs = d.jobs := congrArg (fun x => x.2.2.2.2.2.2.2.1) h.still
theorem Dev.Writes.time : e.time = d.time := congrArg (fun x => x.2.2.2.2.2.2.2.2.1) h.still
theorem Dev.Writes.opt : e.opt = d.opt := congrArg (fun x => x.2.2.2.2.2.2.2.2.2.1) h.still
theorem Dev.Writes.freeCtr : e.freeCtr = d.freeCtr := congrArg (fun x => x.2.2.2.2.2.2.2.2.2.2) h.still
theorem Dev.Writes.link (p : Nat) : e.link p = d.link p := by simp only [Dev.link, h.links]
theorem Dev.Writes.get (f : Fld) (hf : f.addr ≠ a) (he : ¬ isEvtReg f.addr) : e.get f = d.get f := by
  simp only [Dev.get, h.rd _ hf he]
theorem Dev.Writes.on (f : Fld) (hf : f.addr ≠ a) (he : ¬ isEvtReg f.addr) : e.on f = d.on f := by
  simp only [Dev.on, h.get f hf he]
end

end Sys2Proof.Machine
end

