-- ==== Sys2Proof/Laws/Memory.lean ====
section
/-! SUPPORT. Memory: what a read gives after a write, that every memory operation keeps the canonical form, and what a record written to a ring
changes (R184, R292, R482, R531). -/

namespace Sys2Proof.Machine

theorem Memory.wf_iff (m : List Host.Cell) : Memory.wf m = true ↔ SMap.sorted m = true ∧ ∀ c ∈ m, c.2 ≠ 0 := by
  simp [Memory.wf]

theorem Memory.wf_nil : Memory.wf [] = true := rfl

/-- One byte written keeps the canonical form. -/
theorem Memory.wf_write (m : List Host.Cell) (a : Nat) (b : Byte) (h : Memory.wf m = true) : Memory.wf (SMap.write m a b 0) = true := by
  rw [Memory.wf_iff] at h ⊢
  exact ⟨SMap.sorted_write m a b 0 h.1, SMap.write_ne m a b 0 h.2⟩

theorem Memory.wf_putBytes (m : List Host.Cell) (a : Nat) (bs : List Byte) (h : Memory.wf m = true) : Memory.wf (putBytes m a bs) = true := by
  induction bs generalizing m a with
  | nil => exact h
  | cons b t ih => exact ih _ _ (Memory.wf_write m a b h)

/-- A wipe of some addresses keeps the canonical form. -/
theorem Memory.wf_filter (m : List Host.Cell) (p : Host.Cell → Bool) (h : Memory.wf m = true) : Memory.wf (m.filter p) = true := by
  rw [Memory.wf_iff] at h ⊢
  refine ⟨?_, fun c hc => h.2 c (List.mem_filter.mp hc).1⟩
  have h1 := h.1
  clear h
  induction m with
  | nil => rfl
  | cons e t ih =>
    have ht := ih (SMap.sorted_tail h1)
    simp only [List.filter_cons]
    split
    · exact SMap.sorted_cons ht (fun x hx => SMap.sorted_head h1 x (List.mem_filter.mp hx).1)
    · exact ht

/-- Both memories are in their canonical form. -/
def Dev.memWf (d : Dev) : Prop := Memory.wf d.commons = true ∧ Memory.wf d.res = true

/-- A write of bytes keeps the canonical form. -/
theorem Dev.memWf_writeMem (d : Dev) (sp a : Nat) (bs : List Byte) (h : d.memWf) : (d.writeMem sp a bs).memWf := by
  unfold Dev.memWf Dev.writeMem Dev.setMem Dev.mem at *
  split <;> exact ⟨by simp_all [Memory.wf_putBytes], by simp_all [Memory.wf_putBytes]⟩

theorem Dev.memWf_setPoison (d : Dev) (sp a : Nat) (h : d.memWf) : (d.setPoison sp a).memWf := by
  unfold Dev.setPoison; split <;> exact h

theorem Dev.memWf_ringPush (d : Dev) (r : RingRef) (bs : List Byte) (h : d.memWf) : (d.ringPush r bs).memWf :=
  Dev.memWf_writeMem d _ _ bs h

/-- Wipes, whole or by stack, keep the canonical form. -/
theorem Dev.memWf_wipe (d : Dev) (p q : Host.Cell → Bool) (ps : List (Nat × Nat)) (h : d.memWf) :
    Dev.memWf { d with commons := d.commons.filter p, res := d.res.filter q, poison := ps } :=
  ⟨Memory.wf_filter _ _ h.1, Memory.wf_filter _ _ h.2⟩

theorem State.reset_memWf : State.reset.dev.memWf := ⟨rfl, rfl⟩

/-! ### Reads after writes -/

theorem SMap.getD_putBytes (m : List Host.Cell) (a x : Nat) (bs : List Byte) :
    SMap.getD (putBytes m a bs) x 0 = if a ≤ x ∧ x < a + bs.length then bs.getD (x - a) 0 else SMap.getD m x 0 := by
  induction bs generalizing m a with
  | nil => simp [putBytes]
  | cons b t ih =>
    rw [putBytes, ih, SMap.getD_write]
    by_cases hx : x = a
    · subst hx; simp
    · by_cases h : a ≤ x ∧ x < a + (b :: t).length
      · have h1 : a + 1 ≤ x ∧ x < a + 1 + t.length := by simp only [List.length_cons] at h; omega
        rw [if_pos h1, if_pos h]
        have : x - a = (x - (a + 1)) + 1 := by omega
        rw [this, List.getD_cons_succ]
      · have h1 : ¬(a + 1 ≤ x ∧ x < a + 1 + t.length) := by simp only [List.length_cons] at h; omega
        rw [if_neg h1, if_neg h, if_neg hx]

/-- What a byte reads as after a write: the byte written, or what it was. -/
theorem Dev.readByte_writeMem (d : Dev) (sp a x : Nat) (bs : List Byte) :
    (d.writeMem sp a bs).readByte sp x = if a ≤ x ∧ x < a + bs.length then bs.getD (x - a) 0 else d.readByte sp x := by
  unfold Dev.readByte
  rw [← SMap.getD_putBytes]
  unfold Dev.writeMem Dev.setMem Dev.mem
  by_cases h : sp = 0 <;> simp [h]

/-- A write to one memory leaves the other. -/
theorem Dev.readByte_writeMem_other (d : Dev) (sp sp' a x : Nat) (bs : List Byte) (h : (sp = 0) ≠ (sp' = 0)) :
    (d.writeMem sp a bs).readByte sp' x = d.readByte sp' x := by
  unfold Dev.readByte Dev.writeMem Dev.setMem Dev.mem
  by_cases h0 : sp = 0 <;> by_cases h1 : sp' = 0 <;> simp_all

/-- The bytes just written read back. -/
theorem Dev.readMem_writeMem (d : Dev) (sp a : Nat) (bs : List Byte) : (d.writeMem sp a bs).readMem sp a bs.length = bs := by
  unfold Dev.readMem
  apply List.ext_getElem
  · simp
  · intro i h1 h2
    simp only [List.getElem_map, List.getElem_range, Dev.readByte_writeMem]
    rw [if_pos ⟨by omega, by omega⟩]
    simp [List.getD_eq_getElem?_getD, h2]

/-- A record written to a ring: the bytes at HEAD in the reservoir, HEAD one on, and no other CSR word. -/
theorem Dev.ringPush_spec (d : Dev) (r : RingRef) (bs : List Byte) (h : r.head.lo + r.head.w ≤ 32) :
    (d.ringPush r bs).readMem 1 (d.rd64 r.base + r.esz * d.get r.head) bs.length = bs ∧
    (d.ringPush r bs).get r.head = (d.get r.head + 1) % d.ringSize r % 2 ^ r.head.w ∧
    (∀ a, a ≠ r.head.addr → (d.ringPush r bs).rd a = d.rd a) ∧ (d.ringPush r bs).commons = d.commons ∧
    (d.ringPush r bs).links = d.links := by
  refine ⟨Dev.readMem_writeMem d 1 _ bs, ?_, fun a ha => ?_, rfl, rfl⟩
  · unfold Dev.ringPush Dev.ringAdvance
    rw [Dev.get_set_same _ _ _ h]
    rfl
  · unfold Dev.ringPush Dev.ringAdvance
    rw [Dev.rd_set_ne _ _ _ _ ha]
    rfl

end Sys2Proof.Machine
end

