-- ==== Sys2Proof/Laws/Step.lean ====
section
/-! SUPPORT. The outcome of a command that changes only the device part, and when it has an effect. -/

namespace Sys2Proof.Machine

theorem onDev_eq (f : Dev → Dev) (s : State) : onDev f s = .next (s.setDev (f s.dev)) := rfl

@[simp] theorem State.setDev_dev (s : State) (d : Dev) : (s.setDev d).dev = d := rfl
@[simp] theorem State.setDev_fuses (s : State) (d : Dev) : (s.setDev d).fuses = s.fuses := rfl
@[simp] theorem State.setDev_flash (s : State) (d : Dev) : (s.setDev d).flash = s.flash := rfl
@[simp] theorem State.setDev_pending (s : State) (d : Dev) : (s.setDev d).pending = s.pending := rfl
@[simp] theorem State.setDev_self (s : State) : s.setDev s.dev = s := rfl
@[simp] theorem State.setDev_setDev (s : State) (d e : Dev) : (s.setDev d).setDev e = s.setDev e := rfl

theorem Dev.whenApplied_pos (f : Dev → Dev) (d : Dev) (h : d.applied = true) : Dev.whenApplied f d = f d := by
  simp [Dev.whenApplied, Dev.when, h]

theorem Dev.whenApplied_neg (f : Dev → Dev) (d : Dev) (h : d.applied = false) : Dev.whenApplied f d = d := by
  simp [Dev.whenApplied, Dev.when, h]

theorem Dev.whenRunning_pos (f : Dev → Dev) (d : Dev) (h : d.running = true) : Dev.whenRunning f d = f d := by
  simp [Dev.whenRunning, Dev.when, h]

theorem Dev.whenRunning_neg (f : Dev → Dev) (d : Dev) (h : d.running = false) : Dev.whenRunning f d = d := by
  simp [Dev.whenRunning, Dev.when, h]

theorem Dev.whenTurning_pos (f : Dev → Dev) (d : Dev) (h : d.applied = true) (ht : d.boot.turnsBegun = true) : Dev.whenTurning f d = f d := by
  simp [Dev.whenTurning, Dev.when, h, ht]

theorem Dev.whenTurning_neg (f : Dev → Dev) (d : Dev) (h : d.applied = false ∨ d.boot.turnsBegun = false) : Dev.whenTurning f d = d := by
  rcases h with h | h <;> simp [Dev.whenTurning, Dev.when, h]

theorem Dev.applied_running (d : Dev) (h : d.applied = true) : d.running = true := by
  unfold Dev.applied at h; simp only [Bool.and_eq_true] at h; exact h.1

/-- A write of a unit's own register: its effect where the unit is fitted, else the access alone. -/
theorem onUnit_pos (b : Bool) (a : Nat) (w : CsrW) (f : Dev → Dev) (d : Dev) (h : b = true) : onUnit b a w f d = f d := by
  simp [onUnit, h]

theorem onUnit_neg (b : Bool) (a : Nat) (w : CsrW) (f : Dev → Dev) (d : Dev) (h : b = false) :
    onUnit b a w f d = discardHeld w.req a (countCsr w.req a 1 3 d) := by
  simp [onUnit, h]

/-! ### Updates of one queue, link or module -/

@[simp] theorem Dev.setWorkQ_boot (d : Dev) (k : Nat) (w : WorkQ) : (d.setWorkQ k w).boot = d.boot := rfl
@[simp] theorem Dev.setWorkQ_csr (d : Dev) (k : Nat) (w : WorkQ) : (d.setWorkQ k w).csr = d.csr := rfl
@[simp] theorem Dev.setWorkQ_res (d : Dev) (k : Nat) (w : WorkQ) : (d.setWorkQ k w).res = d.res := rfl
@[simp] theorem Dev.setWorkQ_commons (d : Dev) (k : Nat) (w : WorkQ) : (d.setWorkQ k w).commons = d.commons := rfl
@[simp] theorem Dev.setWorkQ_poison (d : Dev) (k : Nat) (w : WorkQ) : (d.setWorkQ k w).poison = d.poison := rfl
@[simp] theorem Dev.setWorkQ_links (d : Dev) (k : Nat) (w : WorkQ) : (d.setWorkQ k w).links = d.links := rfl
@[simp] theorem Dev.setWorkQ_tables (d : Dev) (k : Nat) (w : WorkQ) : (d.setWorkQ k w).tables = d.tables := rfl
@[simp] theorem Dev.setWorkQ_cist (d : Dev) (k : Nat) (w : WorkQ) : (d.setWorkQ k w).cist = d.cist := rfl
@[simp] theorem Dev.setWorkQ_basin (d : Dev) (k : Nat) (w : WorkQ) : (d.setWorkQ k w).basin = d.basin := rfl
@[simp] theorem Dev.setWorkQ_tally (d : Dev) (k : Nat) (w : WorkQ) : (d.setWorkQ k w).tally = d.tally := rfl
@[simp] theorem Dev.setWorkQ_jobs (d : Dev) (k : Nat) (w : WorkQ) : (d.setWorkQ k w).jobs = d.jobs := rfl
@[simp] theorem Dev.setWorkQ_time (d : Dev) (k : Nat) (w : WorkQ) : (d.setWorkQ k w).time = d.time := rfl
@[simp] theorem Dev.setWorkQ_gauge (d : Dev) (k : Nat) (w : WorkQ) : (d.setWorkQ k w).gauge = d.gauge := rfl
@[simp] theorem Dev.setWorkQ_ras (d : Dev) (k : Nat) (w : WorkQ) : (d.setWorkQ k w).ras = d.ras := rfl
@[simp] theorem Dev.setWorkQ_freeCtr (d : Dev) (k : Nat) (w : WorkQ) : (d.setWorkQ k w).freeCtr = d.freeCtr := rfl
@[simp] theorem Dev.setWorkQ_outbox (d : Dev) (k : Nat) (w : WorkQ) : (d.setWorkQ k w).outbox = d.outbox := rfl

@[simp] theorem Dev.modHl_boot (d : Dev) (k : Nat) (f : HLink → HLink) : (d.modHl k f).boot = d.boot := rfl
@[simp] theorem Dev.modHl_csr (d : Dev) (k : Nat) (f : HLink → HLink) : (d.modHl k f).csr = d.csr := rfl
@[simp] theorem Dev.modHl_res (d : Dev) (k : Nat) (f : HLink → HLink) : (d.modHl k f).res = d.res := rfl
@[simp] theorem Dev.modHl_commons (d : Dev) (k : Nat) (f : HLink → HLink) : (d.modHl k f).commons = d.commons := rfl
@[simp] theorem Dev.modHl_poison (d : Dev) (k : Nat) (f : HLink → HLink) : (d.modHl k f).poison = d.poison := rfl
@[simp] theorem Dev.modHl_links (d : Dev) (k : Nat) (f : HLink → HLink) : (d.modHl k f).links = d.links := rfl
@[simp] theorem Dev.modHl_tables (d : Dev) (k : Nat) (f : HLink → HLink) : (d.modHl k f).tables = d.tables := rfl
@[simp] theorem Dev.modHl_cist (d : Dev) (k : Nat) (f : HLink → HLink) : (d.modHl k f).cist = d.cist := rfl
@[simp] theorem Dev.modHl_basin (d : Dev) (k : Nat) (f : HLink → HLink) : (d.modHl k f).basin = d.basin := rfl
@[simp] theorem Dev.modHl_tally (d : Dev) (k : Nat) (f : HLink → HLink) : (d.modHl k f).tally = d.tally := rfl
@[simp] theorem Dev.modHl_jobs (d : Dev) (k : Nat) (f : HLink → HLink) : (d.modHl k f).jobs = d.jobs := rfl
@[simp] theorem Dev.modHl_time (d : Dev) (k : Nat) (f : HLink → HLink) : (d.modHl k f).time = d.time := rfl
@[simp] theorem Dev.modHl_gauge (d : Dev) (k : Nat) (f : HLink → HLink) : (d.modHl k f).gauge = d.gauge := rfl
@[simp] theorem Dev.modHl_ras (d : Dev) (k : Nat) (f : HLink → HLink) : (d.modHl k f).ras = d.ras := rfl
@[simp] theorem Dev.modHl_freeCtr (d : Dev) (k : Nat) (f : HLink → HLink) : (d.modHl k f).freeCtr = d.freeCtr := rfl
@[simp] theorem Dev.modHl_outbox (d : Dev) (k : Nat) (f : HLink → HLink) : (d.modHl k f).outbox = d.outbox := rfl

@[simp] theorem Dev.modAgent_boot (d : Dev) (m : Nat) (f : ModAgent → ModAgent) : (d.modAgent m f).boot = d.boot := rfl
@[simp] theorem Dev.modAgent_csr (d : Dev) (m : Nat) (f : ModAgent → ModAgent) : (d.modAgent m f).csr = d.csr := rfl
@[simp] theorem Dev.modAgent_res (d : Dev) (m : Nat) (f : ModAgent → ModAgent) : (d.modAgent m f).res = d.res := rfl
@[simp] theorem Dev.modAgent_commons (d : Dev) (m : Nat) (f : ModAgent → ModAgent) : (d.modAgent m f).commons = d.commons := rfl
@[simp] theorem Dev.modAgent_poison (d : Dev) (m : Nat) (f : ModAgent → ModAgent) : (d.modAgent m f).poison = d.poison := rfl
@[simp] theorem Dev.modAgent_links (d : Dev) (m : Nat) (f : ModAgent → ModAgent) : (d.modAgent m f).links = d.links := rfl
@[simp] theorem Dev.modAgent_tables (d : Dev) (m : Nat) (f : ModAgent → ModAgent) : (d.modAgent m f).tables = d.tables := rfl
@[simp] theorem Dev.modAgent_cist (d : Dev) (m : Nat) (f : ModAgent → ModAgent) : (d.modAgent m f).cist = d.cist := rfl
@[simp] theorem Dev.modAgent_basin (d : Dev) (m : Nat) (f : ModAgent → ModAgent) : (d.modAgent m f).basin = d.basin := rfl
@[simp] theorem Dev.modAgent_tally (d : Dev) (m : Nat) (f : ModAgent → ModAgent) : (d.modAgent m f).tally = d.tally := rfl
@[simp] theorem Dev.modAgent_jobs (d : Dev) (m : Nat) (f : ModAgent → ModAgent) : (d.modAgent m f).jobs = d.jobs := rfl
@[simp] theorem Dev.modAgent_time (d : Dev) (m : Nat) (f : ModAgent → ModAgent) : (d.modAgent m f).time = d.time := rfl
@[simp] theorem Dev.modAgent_gauge (d : Dev) (m : Nat) (f : ModAgent → ModAgent) : (d.modAgent m f).gauge = d.gauge := rfl
@[simp] theorem Dev.modAgent_ras (d : Dev) (m : Nat) (f : ModAgent → ModAgent) : (d.modAgent m f).ras = d.ras := rfl
@[simp] theorem Dev.modAgent_freeCtr (d : Dev) (m : Nat) (f : ModAgent → ModAgent) : (d.modAgent m f).freeCtr = d.freeCtr := rfl
@[simp] theorem Dev.modAgent_outbox (d : Dev) (m : Nat) (f : ModAgent → ModAgent) : (d.modAgent m f).outbox = d.outbox := rfl

/-- A step on a waiting command. -/
theorem step_cons (s : State) (c : Instr) (rest : List Instr) (h : s.pending = c :: rest) :
    step s = exec c { s with pending := rest } := by
  unfold step; rw [h]

end Sys2Proof.Machine
end

