-- ==== Sys2Proof/WellFormed.lean ====
section
/-! DEFINITION. Operands that an occasion of a command can have: lists that stand for lanes, classes, dies and fixed byte fields have the
lengths that the rules give them, and a CSR command names a word. A command whose operands are not so is no occasion of the hardware's. -/

namespace Sys2Proof

/-- A CSR address is that of an aligned word (R9). -/
def wordAddr (a : Word) : Bool := a.toNat % 4 == 0

/-- What a boundary reports: the eight classes of R83, the twenty dies of R92, duties of at most 128 (R87), no class twice. -/
def TurnInput.wf (t : TurnInput) : Bool :=
  t.parity.all (fun x => decide (x.1 < 12)) && t.watts.length == 8 && t.temps.length == 20 && t.requested.length == 8 && t.requested.all (fun x => decide (x ≤ 128)) &&
  decide t.overrun.Nodup

/-- A poll reads the sixteen lanes of a module, each fault once (R432, R439). -/
def ModFlags.wf (f : ModFlags) : Bool := f.tuned.length == 16 && decide f.faults.Nodup

/-- An MCTP transmission unit (R74). -/
def SpdmVia.wf (v : SpdmVia) : Bool := decide (64 ≤ v.unit) && decide (v.unit ≤ 1024)

/-- The operands of a command are those of an occasion. -/
def Instr.wf (i : Instr) : Bool :=
  match i with
  | .turnBoundary t => t.wf
  | .pairReceive _ x => x.payload.length == 1285
  | .markerReceive _ m => m.all (fun x => x.length == 1285)
  | .moduleInsert _ _ f | .moduleInterrupt _ f | .moduleFlagPoll _ f => f.wf
  | .retuneComplete _ _ tuned => tuned.length == 16
  | .challenge v _ nonce | .keyExchange v _ nonce | .getMeasurements v _ _ nonce => v.wf && nonce.length == 32
  | .getVersion v | .getCapabilities v | .negotiateAlgorithms v | .getDigests v | .getCertificate v _ _ _ => v.wf
  | .finish v proof => v.wf && proof.length == 48
  | .timeExchangeReceive _ bs _ _ => decide (36 ≤ bs.length)
  | .spillPageWrite _ bad => decide bad.Nodup
  | .bankSpareDone commons bank _ => !commons || decide (bank.val < 1024)
  | .chunkEmit _ bad => decide bad.Nodup
  | .quotaWrite a _ | .ringConfigWrite a _ | .lowWordRead _ a | .lowWordWrite a _ | .highWordWrite a _ | .readClear _ a
  | .registerWrite a _ => wordAddr a
  | .csrAccessFault _ _ bytes _ => [1, 2, 4, 8].contains bytes
  | _ => true

end Sys2Proof
end

