-- ==== Sys2Proof/Tests/Slice0.lean ====
section
/-! SUPPORT. Tests: for every statement with hypotheses a state and operands that meet them, clause by clause; ill-formed commands that the checks
refuse; and single steps on small states. -/

namespace Sys2Proof.Tests

set_option Elab.async false

open Sys2Proof.Machine

/-! ### Small states -/

def st (d : Dev) : State := State.reset.setDev d
theorem st_dev (d : Dev) : (st d).dev = d := rfl

/-- Right after reset. -/
def rst : Dev := State.reset.dev

/-- A write of a word by requester 1, and of some fields. -/
def w (v : Nat) : CsrW := ⟨1, BitVec.ofNat 32 v⟩
def fw (fs : List (Fld × Nat)) : CsrW := w (fs.foldl (fun a f => a + f.2 * 2 ^ f.1.lo) 0)

/-- Fields set in a device. -/
def sets (fs : List (Fld × Nat)) (d : Dev) : Dev := fs.foldl (fun d f => d.set f.1 f.2) d

/-- An applied device with every die ready: 16 fabric ports in lane group 0, 8 Ethernet ports in 1, 8 haul ports in 2, 4 join ports in 3 (ROLE, RATE
and START of PORT_LGRP_CFG); every other word is zero. -/
def live : Dev := { rst with
  boot := { rst.boot with turnsBegun := true }
  csr := [(R.GLB_DIE_STATUS, 0xAAAAAA), (R.SEC_BOOT_STATUS, 5), (R.PORT_LGRP_CFG 0, 0xFFFF0001), (R.PORT_LGRP_CFG 1, 0x55550022),
    (R.PORT_LGRP_CFG 2, 0x55550023), (R.PORT_LGRP_CFG 3, 0x11110004)] }
theorem live_lanes : live.applied = true ∧ live.isPort 15 = true ∧ live.isEth 16 = true ∧ live.isHaul 32 = true ∧ live.isJoin 60 = true := by decide

/-- A port enabled, and a port up. -/
def adm (p : Nat) (d : Dev) : Dev := d.set (R.PORT_PCTL_ADMIN p) 1
def up (p : Nat) (d : Dev) : Dev := sets [(R.PORT_PCTL_ADMIN p, 1), (R.PORT_PSTAT_UP p, 1)] (d.modLink p (fun l => { l with stage := 6 }))

def zeros (n : Nat) : List Byte := List.replicate n 0

/-! ### An image that verifies -/

def ecKey : List Byte := zeros 96
def lmsKey : List Byte := beBytes 4 5 ++ beBytes 4 3 ++ zeros 48
def ecDig : List Byte :=
  beBytes 48 0xf57bb7ed82c6ae4a29e6c9879338c592c7d42a39135583e8ccbe3940f2344b0eb6eb8503db0ffd6a39ddd00cd07d8317
def lmsDig : List Byte :=
  beBytes 48 0x7a94c8967fb691d93ce442e485f0f09f1f8845b3ebe470e237ef52182d3fb18332f18fe7246aa0b88d6cf5209424a12a

/-- Fuses of a part in the given life-cycle state whose slots 0 and 1 hold the test keys. -/
def keyFuses (lc : BitVec 3) : Fuses := { Fuses.chosen with
  lc := (lc, lc, lc)
  slots := [⟨ecDig, lmsDig, true, false⟩, ⟨ecDig, lmsDig, true, false⟩, ⟨zeros 48, zeros 48, false, false⟩, ⟨zeros 48, zeros 48, false, false⟩] }

/-- A signature block of slot n (R51). -/
def sigs (n : Nat) : List Byte := beBytes 4 (n * 2 ^ 24) ++ ecKey ++ zeros 96 ++ beBytes 4 56 ++ lmsKey ++ zeros 4

/-- Sections 1 to 5, all empty (R49). -/
def image : List Byte :=
  beBytes 4 0x5A4E4C31 ++ beBytes 2 1 ++ beBytes 2 5 ++ [0x91, 0, 0, 0] ++ zeros 4 ++ beBytes 4 516 ++ beBytes 4 128 ++ beBytes 4 256 ++ zeros 4 ++
  beBytes 48 0x528d47c027b3b0ed4d85aa01b6386e1af3b860cbc4ef0642c7985b9636bfb2e731cd89c7e5fd57a97c5be2441d3ccb36 ++ zeros 44 ++
  beBytes 4 0x6c905fcc ++ ([1, 2, 3, 4, 5].flatMap (fun t => beBytes 2 t ++ zeros 2 ++ beBytes 4 256 ++ zeros 8)) ++ zeros 48 ++ sigs 1

/-- A kernel library with one empty kernel, and an image that holds it at offset 192 (R311, R312). -/
def library (kid : Nat) : List Byte :=
  beBytes 4 0x534C4B31 ++ beBytes 2 1 ++ zeros 58 ++ beBytes 1 kid ++ zeros 11 ++ beBytes 4 260 ++
  beBytes 48 0x38b060a751ac96384cd9327eb1b1e36a21fdb71114be07434c0cc7bf63f6e1da274edebfe76f65fbd51ad2f14898b95b ++ zeros 64 ++ sigs 1
def kernelImage (kid : Nat) : List Byte :=
  zeros 6 ++ beBytes 2 1 ++ zeros 120 ++ beBytes 2 7 ++ zeros 2 ++ beBytes 4 192 ++ beBytes 4 452 ++ zeros 4 ++ zeros 48 ++ library kid

/-- A state with the test fuses, an image in the flash, and a device. -/
def keyedSt (lc : BitVec 3) (img : List Byte) (d : Dev) : State := { State.reset with fuses := keyFuses lc, flash := ⟨img, []⟩, dev := d }

/-! ### Packets, messages and operands -/

def turn0 : TurnInput := ⟨4096, [], List.replicate 8 0, List.replicate 20 0, List.replicate 8 0, [], []⟩

/-- In the factory default state with the reservoir's size known, and ready for the image to be read. -/
def factory : Dev := sets [(R.SEC_BOOT_STATUS_STAGE, 14), (R.GLB_WIPE_STATUS_SRAM_DONE, 1), (R.GLB_WIPE_STATUS_RES_DONE, 1),
  (R.RES_STATUS_USABLE, 1023)] rst
def readable : Dev := rst.set R.SEC_BOOT_STATUS_STAGE 3

/-- An image whose one TURN record asks for 5,000 cycles (R50, R53), and an image with a wrong IMGHASH. -/
def turnImage : List Byte :=
  zeros 6 ++ beBytes 2 5 ++ zeros 120 ++ ([1, 2, 3, 4].flatMap (fun t => beBytes 2 t ++ zeros 2 ++ beBytes 4 256 ++ zeros 8)) ++
  beBytes 2 5 ++ zeros 2 ++ beBytes 4 256 ++ beBytes 4 8 ++ zeros 4 ++ zeros 48 ++ zeros 4 ++ beBytes 4 5000
def hashImage : List Byte := image.set 240 1
/-- An image whose MEMORY section lies beyond what has been read when the stacks are trained. -/
def lateImage : List Byte :=
  zeros 6 ++ beBytes 2 2 ++ zeros 120 ++ beBytes 2 2 ++ zeros 2 ++ beBytes 4 2100000 ++ zeros 8 ++ beBytes 2 5 ++ zeros 2 ++ beBytes 4 256 ++ zeros 8

/-- The TURN section has been read before the stacks are trained, so its failure comes first whatever MEMORY says. -/
theorem turn_first (d : Dev) (hi : d.boot.imageRead = false) : contentErr d turnImage (readAt 6000) = some (11, 4) := by
  have ht : (turnRecords turnImage).any (fun r => decide (4032 < r.2)) = true := by decide +kernel
  have hd : (recordsOf 12 (sectBytes turnImage 4)).any defaultBad = false := by decide +kernel
  unfold contentErr contentFails
  rw [ht, hd, hi]
  cases (d.boot.hbmDone && (memoryParts turnImage).any (fun p => decide (d.get R.RES_STATUS_USABLE < p.1 + p.2))) <;> decide +kernel

/-- MEMORY has not been read when the stacks are trained, so no failure of it is seen then. -/
theorem memory_late (d : Dev) (hi : d.boot.imageRead = false) : contentErr d lateImage (readAt 6000) = none := by
  have ht : (turnRecords lateImage).any (fun r => decide (4032 < r.2)) = false := by decide +kernel
  have hd : (recordsOf 12 (sectBytes lateImage 4)).any defaultBad = false := by decide +kernel
  unfold contentErr contentFails
  rw [ht, hd, hi]
  cases (d.boot.hbmDone && (memoryParts lateImage).any (fun p => decide (d.get R.RES_STATUS_USABLE < p.1 + p.2))) <;> decide +kernel

/-- The enclave runs; a life-cycle burn is in progress; the loader's port is up. -/
def enclaved : Dev := { rst with boot := { rst.boot with enclaveUp := true } }
def burning : Dev := { live with boot := { live.boot with pendingLc := some 4 } }
def loaderDev : Dev := factory.set (R.MGT_MP_STAT_UP 0) 1
/-- Slot 0 is revoked: only slot 1 is left. -/
def oneSlot : Fuses := { keyFuses 3 with slots := (keyFuses 3).slots.modify 0 (fun k => { k with revoked := true }) }

/-- The responder over management port 0, in a life-cycle state; requests in the clear and secured under keys of zeros. -/
def spdmDev (lc : Nat) (x : Spdm) : Dev :=
  sets [(R.GLB_LC_STATE, lc), (R.MGT_MP_CFG_EN 0, 1), (R.MGT_MP_STAT_UP 0, 1)] { live with boot := { live.boot with enclaveUp := true }, spdm := x }
def clear : SpdmVia := ⟨some 0, 0, 0, 0, 0, 64, []⟩
def secure (req : List Byte) : SpdmVia := { clear with secured := sealMsg (zeros 32) (zeros 12) 0 ([5] ++ req) }

def withRas (f : Ras → Ras) : Dev := { live with ras := f live.ras }

/-- An enabled port in a stage of its training. -/
def stg (k p : Nat) : Dev := (adm p live).modLink p (fun l => { l with stage := k })

/-- A port that is up, with its link changed. -/
def upWith (p : Nat) (f : Link → Link) : Dev := (up p live).modLink p f

def pk : Pkt := builtPkt 0 0 [] none
def mk0 : Marker := ⟨0, 0, 0, 0, 0, 0, 0, 0, true, 0, 0, 0, false, false, false, 0⟩
def pair (good : Bool) (pseq : BitVec 12) : Pair := ⟨good, pairBytes pseq 0 0 0 5 []⟩
/-- The marker of slot k of a port of four lanes. -/
def mark (k : BitVec 4) : Marker := { mk0 with width := 2, slot := k }

/-- What holds of each marker of a list holds of whatever stands at a place of it. -/
theorem marks_all (f : Nat → Marker → Bool) (b : Bool) (ms : List Marker)
    (h : ∀ k : Fin ms.length, f k.val ms[k.val] = b) : ∀ k m, ms[k]? = some m → f k m = b := by
  intro k m hk
  obtain ⟨h1, h2⟩ := List.getElem?_eq_some_iff.mp hk
  exact h2 ▸ h ⟨k, h1⟩

/-- A PFC frame that gives one priority a pause time. -/
def pfcFrame (pri q : Nat) : List Byte :=
  withFcs (beBytes 6 0x0180C2000001 ++ zeros 6 ++ beBytes 2 0x8808 ++ beBytes 2 0x0101 ++ beBytes 2 (2 ^ pri) ++ zeros (2 * pri) ++ beBytes 2 q ++
    zeros (40 - 2 * pri))
def fr (bs : List Byte) : RxFrame := ⟨bs, false⟩

/-- A packet to the device's own tally service. -/
def tpk : Pkt := builtPkt 0 0 (ofpPacket { type := 4 } []) none

/-- The update ring of the tables, enabled at address 0 with one record, over some reservoir bytes. -/
def tblDev (m : List Host.Cell) (b : Nat) : Dev :=
  let d := sets [(R.FWD_RING_CFG_EN, 1), (R.FWD_RING_CFG_LOG2SIZE, 6), (R.FWD_RING_TAIL_TAIL, 1)] live
  { d with res := m, tables := { d.tables with batchLen := b } }
/-- A record of the tables with its first two bytes. -/
def rec2 (a b : Byte) : List Byte := [a, b] ++ zeros 62
def ent : TblEntry := ⟨[], false, false⟩
/-- A unicast queue. -/
def inQ (q : Nat) (u : UQueue) (d : Dev) : Dev := { d with cist := { d.cist with uq := [(q, u)], wleft := 1, rleft := 1, free := 64 } }
def big : Pkt := { pk with cells := 64, whole := true }
/-- Port 0 with one packet in the queue of TC 7, which is strict, and credit for it. -/
def qdev : Dev := inQ 7 { UQueue.init with pkts := [pk], h := 1 }
  ((upWith 0 (fun l => { l with credits := List.replicate 16 64 })).set (R.QUE_TC_CFG_STRICT 0 7) 1)
/-- A multicast packet of queue 0 on its way to port 0. -/
def mp (taken : Bool) (res tg : List PortNo) : MPkt := ⟨pk, res, 0, taken, tg⟩
def mpn (taken : Bool) (res tg : List PortNo) : MPkt := ⟨{ pk with whole := false }, res, 0, taken, tg⟩
def inMQ (x : MPkt) (d : Dev) : Dev := { d with cist := { d.cist with mq := [(0, [x])] } }

/-- Port 0 with one multicast copy in its FIFO of TC 7, and credit for it. -/
def mcdev : Dev :=
  let d := (upWith 0 (fun l => { l with credits := List.replicate 16 64 })).set (R.QUE_TC_CFG_STRICT 0 7) 1
  { d with cist := { d.cist with mq := [(0, [mp true [] []])], fifo := [(7, [(0, 0)])] } }
/-- Queue 8191 spills and has a page to write; the spill partition is as given. -/
def spillDev (parts : List (Nat × Nat)) : Dev :=
  { sets [(R.CIST_QPROF_A_SPILLEN 0, 1), (R.CIST_QMAX_PAGES 0, 0x1FFFFFF)] (inQ 8191 { UQueue.init with pkts := [big], t := 64, spilling := true } live) with
    boot := { live.boot with parts := parts } }
def quotaHit : RegHit := ⟨⟨R.CIST_JQUOTA 0, [], .always, []⟩, [4095], false⟩
/-- A device whose VLAN 0 learns. -/
def learning : Dev := setEntry 7 0 { ent with data := List.replicate 32 0xFF } live
theorem aged_reach (n : Nat) : (n + 262144 - n % 262144) % 262144 < 1 := by omega

/-- A batch of 114 records at the head of a table ring of 128. -/
def costly : Dev :=
  let d := sets [(R.FWD_RING_CFG_EN, 1), (R.FWD_RING_CFG_LOG2SIZE, 7), (R.FWD_RING_TAIL_TAIL, 114)] live
  { d with res := (List.range 114).flatMap (fun k => [(64 * k, 0x12)]) ++ [(64 * 113 + 1, 1)] }
/-- A MAC entry that the next step of the aging sweep meets. -/
def aged : Dev :=
  let d := setEntry 5 0 ent (live.set R.FWD_AGE_CFG_QUANT 1)
  { d with tables := { d.tables with agePos := Config.macIndex 0 % 262144 } }
/-- The same with a quantum due. -/
def agedDue : Dev := { aged with tables := { aged.tables with ageDue := true } }
theorem agedDue_reach : (Config.macIndex 0 + 262144 - agedDue.tables.agePos) % 262144 < 1 := by
  have h : agedDue.tables.agePos = Config.macIndex 0 % 262144 := rfl
  rw [h]; exact aged_reach _
/-- Room for one packet in every account. -/
def admits : Dev := sets [(R.CIST_JQUOTA_PAGES 0, 1), (R.CIST_PQUOTA_PAGES 1023, 1), (R.CIST_CQUOTA_PAGES 0, 1), (R.CIST_QMAX_PAGES 0, 1),
  (R.CIST_QPROF_A_MINQ 0, 64)] { live with cist := { live.cist with free := 64 } }
/-- Every account has room without limit. -/
def roomy : Dev := sets [(R.CIST_CQUOTA_PAGES 0, 0x1FFFFFF), (R.CIST_PQUOTA_PAGES 0, 0x1FFFFFF), (R.CIST_JQUOTA_PAGES 0, 0x1FFFFFF),
  (R.CIST_QMAX_PAGES 0, 0x1FFFFFF), (R.CIST_QPROF_A_MINQ 0, 64)] { live with cist := { live.cist with free := 64 } }
/-- A congestion map is due now. -/
def mapping : Dev := sets [(R.SPRAY_MAP_CFG_INT, 1), (R.SPRAY_MAP_CFG_DEST, 1)] live

theorem costly_batch : ∃ b, batchAtHead costly = some b ∧ 1024 < batchCost b := by
  have h : (batchAtHead costly).any (fun b => decide (1024 < batchCost b)) = true := by decide +kernel
  cases hb : batchAtHead costly with
  | none => rw [hb] at h; cases h
  | some b => rw [hb] at h; exact ⟨b, rfl, of_decide_eq_true h⟩

/-- A group entry: valid, one member, 4 pieces a chunk; LEVEL 0, ROOT 0, job index 0. -/
def gent : List Byte := zeros 4 ++ [0x80] ++ zeros 6 ++ [1] ++ zeros 52
def cx : Ctx := ⟨0, 0, gent, .opened, 0, 0, false, [], 0, 0, [], [], [], [], 0, 0, [], 0⟩
def withCtx (c : Ctx) : Dev := { live with basin := { live.basin with ctx := [(32767, c)] } }

/-- A packet of group 0 with a CKIND and a LEVEL, charged to a job, at the head of the basin's input. -/
def gpk (ckind level : Nat) (job : JobIdx) : Pkt :=
  { builtPkt 0 0 (ofpPacket { type := 1, level := level } (beBytes 1 (64 * ckind) ++ zeros 31)) (some job) with whole := true }
def inBasin (p : Pkt) : Dev := { live with basin := { live.basin with groups := [(0, gent)], map := [(0, 0)] }, cist := { live.cist with toBasin := [p] } }

/-! ### Descriptors -/

/-- A sluice descriptor: OP, A, B and O formats, M, N, K, operands B, C and O in 64 KiB pages. -/
def desc (op fa fb fo m n k b c o : Nat) : List Byte :=
  leBytes 1 op ++ zeros 7 ++ leBytes 1 fa ++ leBytes 1 fb ++ leBytes 1 fo ++ zeros 1 ++ leBytes 4 m ++ leBytes 4 n ++ leBytes 4 k ++ zeros 8 ++
  leBytes 8 (65536 * b) ++ leBytes 8 (65536 * c) ++ leBytes 8 (65536 * o) ++ zeros 8
/-- Such a descriptor taken, with one tile dealt. -/
def job1 (bs : List Byte) : Job := { newJob 0 0 bs with per := 8, tiles := 1, dealt := 1 }
/-- A die ready for work: kernels 0 to 4 present, one window of 16 pages of the commons for each queue used here. -/
def sluDev : Dev := sets [(R.SLU_KPRES_PRESENT 0 0, 0x1F), (R.SLU_WQ_CFG_EN 0 0, 1), (R.SLU_WQ_CFG_LOG2SIZE 0 0, 4), (R.SLU_WQ_TAIL_TAIL 0 0, 1)]
  (live.wr64 (sluWq 0 0).win (3 * 2 ^ 61 + 16 * 2 ^ 32))
/-- The same with the nonzero bytes of a descriptor in queue 0's ring. -/
def sluWith (m : List Host.Cell) : Dev := { sluDev with res := m }
def q0 : SluQ := ⟨0, 0⟩
def holds (key : Nat) (j : Job) (d : Dev) : Dev := d.setWorkQ key ⟨[j], none⟩
def flumeDev (m : List Host.Cell) : Dev :=
  let d := sets [(R.FLUME_WQ_CFG_EN 15, 1), (R.FLUME_WQ_CFG_LOG2SIZE 15, 4), (R.FLUME_WQ_TAIL_TAIL 15, 1), (R.FLUME_STAT_INSVC, 8)] live
  { d with res := m }
def ringOn0 : Dev := sets [(R.FWD_RING_CFG_EN, 1), (R.FWD_RING_CFG_LOG2SIZE, 6)] live
/-- A flume table with TID 7 and codes of one bit for the exponents 0 and 1. -/
def oneCode : List Byte := zeros 5 ++ [7] ++ zeros 10 ++ [1, 1] ++ zeros 254

theorem packBits_short (n : Nat) (bs : List Bool) : 8 * (packBits n bs).length ≤ bs.length + 7 := by
  induction n generalizing bs with
  | zero => simp [packBits]
  | succ n ih =>
    by_cases h : bs = []
    · simp [packBits, h]
    · have h1 := ih (bs.drop 8)
      have h2 : 0 < bs.length := List.length_pos_iff.mpr h
      simp only [packBits, List.isEmpty_iff, h, if_false, List.length_cons]
      rw [List.length_drop] at h1
      omega

theorem ofLe_zeros (n : Nat) : ofLe (zeros n) = 0 := by
  induction n with
  | zero => rfl
  | succ n ih => simp only [zeros, List.replicate_succ, ofLe] at *; rw [ih]; rfl

theorem zero_block : blockElems (zeros 4096) = List.replicate 2048 0 := by
  have h : ∀ o, leAt (zeros 4096) o 2 = 0 := by
    intro o
    unfold leAt slice zeros
    rw [List.drop_replicate, List.take_replicate]
    exact ofLe_zeros _
  simp [blockElems, h, List.map_const']

/-- A block of zeros is coded in 9 bits an element, so the round trip has a block to carry. -/
theorem zero_block_coded : ∃ bytes, codeBlock 2 (canonical (tableLens oneCode)) (zeros 4096) = some bytes := by
  have hl : ((canonical (tableLens oneCode)).find? (fun c => c.2.1 == expOf 2 0)) = some (1, 0, 0) := by decide +kernel
  have key : ∀ f g : Nat → List Bool, (f 0).length = 8 → (g 0).length = 1 →
      (packBits 4096 ((List.replicate 2048 0).flatMap f)).length + (packBits 4096 ((List.replicate 2048 0).flatMap g)).length ≤ 4095 := by
    intro f g hf hg
    have h1 := packBits_short 4096 ((List.replicate 2048 0).flatMap f)
    have h2 := packBits_short 4096 ((List.replicate 2048 0).flatMap g)
    simp only [List.length_flatMap, List.map_replicate, List.sum_replicate, hf, smul_eq_mul] at h1
    simp only [List.length_flatMap, List.map_replicate, List.sum_replicate, hg, smul_eq_mul] at h2
    omega
  unfold codeBlock
  simp only [zero_block, List.any_replicate, hl]
  rw [if_neg (by simp), if_pos (key _ _ (by decide) (by decide +kernel))]
  exact ⟨_, rfl⟩

/-! ### Tally, jobs, haul -/

/-- A tally request for line 0 at offset 0: OPC, WMASK and HOPS; and one at the head of the service's input. -/
def tpay (op wm : Nat) : List Byte := beBytes 1 (16 * op) ++ beBytes 1 wm ++ zeros (if op = 1 then 94 else 30)
def treq (op hops : Nat) : TallyPkt := ⟨0, 0, 0, 0, 0, 0, hops, 0, tpay op (if op = 1 then 255 else 0)⟩
def tIn (op : Nat) : Dev :=
  { live with cist := { live.cist with toTally := [{ builtPkt 0 0 (ofpPacket { type := 4 } (tpay op (if op = 1 then 255 else 0))) (some 0) with whole := true }] } }
/-- A window for job index 0 and room for one request. -/
def tWin : Dev := sets [(R.TALLY_JQUOTA_PEND 0, 1), (R.TALLY_CFG_MAXHOPS, 4)] (live.wr64 (R.TALLY_JWIN 0) (2 ^ 62 + 2 ^ 32))
def tQ (n : Nat) (e : TallyEntry) : Dev := { live with tally := { live.tally with q := [(n, [e])] } }

/-- The job-update ring, enabled at address 0 with n records, over some reservoir bytes. -/
def jDev (m : List Host.Cell) (n : Nat) : Dev :=
  let d := sets [(R.FWD_JUPD_CFG_EN, 1), (R.FWD_JUPD_CFG_LOG2SIZE, 6), (R.FWD_JUPD_TAIL_TAIL, n)] live
  { d with res := m }
/-- A job-update record: OP, flags, JOB, GEN, INDEX, VALUE. -/
def jrec (op flags job gen index value : Nat) : List Byte :=
  leBytes 1 (16 * op) ++ leBytes 1 flags ++ zeros 2 ++ leBytes 2 job ++ leBytes 1 gen ++ zeros 1 ++ leBytes 4 index ++ leBytes 4 value ++ zeros 112
def applying (op : Nat) : Dev := { live with jobs := { live.jobs with apply := [⟨0, jrec op 1 1 0 1 1⟩], staged := 1 } }
def cent (bs : List Byte) : CanalEntry := ⟨bs, 0, false, false, 0⟩

/-- Link 63 on port 32, its active route up; its share 0 changed. -/
def hdev (f : HLink → HLink) : Dev := (sets [(R.HAUL_LINK_CFG_EN 63, 1), (R.HAUL_LINK_PORTS_PORT0 63, 32), (R.HAUL_LINK_STAT_STATE 63, 1)] (up 32 live)).modHl 63 f
/-- An LLDP frame. -/
def lldp : List Byte := beBytes 6 0x0180C200000E ++ zeros 6 ++ beBytes 2 0x88CC ++ zeros 46
def delivering : Dev := hdev (fun l => l.modShare 0 (fun x => { x with deliver := [[]] }))
/-- The class quotas set no limit, and no cell is free. -/
def refusing : Dev := sets [(R.CIST_CQUOTA_PAGES 0, 0x1FFFFFF), (R.CIST_PQUOTA_PAGES 32, 0x1FFFFFF), (R.FWD_PUNT_CFG_RATE, 1)] (hdev (fun l => l.modShare 0 (fun x => { x with deliver := [lldp] })))
/-- The class has no quota. -/
def noQuota : Dev := (hdev (fun l => l.modShare 0 (fun x => { x with deliver := [lldp] }))).set R.FWD_PUNT_CFG_RATE 1
/-- A canal entry that waits since turn 0, its timeout one turn. -/
def canalEnt : List Byte := zeros 3 ++ [0x80] ++ zeros 9 ++ [16] ++ zeros 18
def canals : Dev := ({ live with jobs := { live.jobs with canal := [(0, cent canalEnt)] } } : Dev).wr64 R.GLB_TURN_NUM 16

/-! ### Time, modules, bypass -/

def tmsg (domain xver : Nat) (replayed : Bool) : TimeMsg :=
  ⟨xver, true, false, true, BitVec.ofNat 8 domain, 0, 0, 0, 0, 0, 7, 0, 1, 0, 0, replayed⟩
def tdev (n : Nat) : Dev := sets [(R.TIME_CFG_MAXDIST, 2), (R.TIME_STATUS_MODE, n)] live
/-- An input last heard in turn 0. -/
def tin : Dev := { live with time := { live.time with inputs := [(1151, ⟨7, 0, 1, false, 0, 0, false, 0, 0⟩)] } }
def inHold (t : Nat) : Dev := (sets [(R.TIME_HOLD_HOLDMAX, 1)] { tdev 2 with time := { live.time with holdFrom := some 0 } }).wr64 R.GLB_TURN_NUM t
def root : Dev := live.set R.TIME_STATUS_ISROOT 1
def capDev (e n : Nat) : Dev :=
  { live.set (R.TIME_CAP_CFG_EDGE 7) e with time := { live.time with caps := [(7, List.replicate n (0, false))] } }

/-- A module that the agent manages and that is present. -/
def mdev (m : Nat) : Dev := sets [(R.OPT_BUS_CFG_MODE m, 1), (R.OPT_MOD_CTL_AUTO m, 1), (R.OPT_MOD_STAT_PRESENT m, 1)] live
def flags (st : BitVec 3) : ModFlags := ⟨st, 0, List.replicate 16 0, []⟩
/-- The agent re-tunes lane 15 of module 63, which sends channel 5 and is tuned to c. -/
def retuneDev (c : Nat) : Dev :=
  (sets [(R.PORT_LCHAN_SEND 1023, 5), (R.OPT_LANE_STAT_TUNED 1023, c)] live).modAgent 63 (fun a => { a with retuning := [15] })
def takeDev : Dev := (sets [(R.PORT_LCHAN_SEND 1023, 5)] live).modAgent 63 (fun a => { a with taking := [15] })

/-- A window of plan 63 that starts in turn 10, in a device in turn t with that plan valid. -/
def win (stage : Nat) (ab org : Bool) : Window := ⟨63, 10, org, [], [], false, stage, ab, []⟩
def bdev (ws : List Window) (t : Nat) : Dev :=
  let d := (sets [(R.GLB_TURN_STATUS_MODE, 1), (R.OPT_BYP_PLAN_A_COUNT 63, 256), (R.OPT_BYP_PLAN_A_BASE 63, 3840)] live).wr64 R.GLB_TURN_NUM t
  { d with opt := { d.opt with windows := ws } }
def phase (p : Fin 64) (t : Nat) : PhaseMsg := ⟨p, t, 0, 0, 0, 0, false, 0⟩
def trig (b n : Nat) : Dev :=
  let d := sets [(R.OPT_BYP_TRIG_A_PLAN 31, 63), (R.OPT_BYP_TRIG_B_NCHUNK 31, n)] (bdev [] 0)
  { d with opt := { d.opt with trigCommits := [(31, b)] } }

/-! ### Gauges, events, spares, ports, registers -/

def ctrDev (v : Nat) (o : Bool) : Dev := { live with gauge := { live.gauge with ctr := [(4106, (v, o))] } }
def dueDev (late : Bool) (b : Nat) : Dev :=
  let d := sets [(R.GAUGE_SET_RCFG_EN 63, b), (R.GAUGE_SET_RCFG_LOG2SIZE 63, 2 * b)] live
  { d with gauge := { d.gauge with due := [⟨63, 5, late, 0, 1⟩] } }
def ev : Event := ⟨0, none, 1, 1, 0, 0, 0, 0, 0⟩
def evRing (h t : Nat) : Dev := sets [(R.GLB_EVT_CFG_EN, 1), (R.GLB_EVT_CFG_LOG2SIZE, 6), (R.GLB_EVT_HEAD_HEAD, h), (R.GLB_EVT_TAIL_TAIL, t)] live
def merging : Dev := sets [(R.GLB_EVT_CFG_CEHOLD, 1)] { live with ras := { live.ras with ceLast := [((1, 1, 0), 0)] } }
/-- Only logical lane 255 of the basin is in service, and a context is open. -/
def oneLane : Dev := { withCtx cx with ras := { live.ras with basinOut := List.range 255 } }
/-- Every physical lane of the basin has failed. -/
def noLane : Dev := withRas (fun r => { r with failed := (List.range 272).map (fun p => (7, p)) })
/-- A write that starts self-test n of a target. -/
def bw (t n : Nat) : CsrW := fw [(R.TEST_BIST_CTL_GO, 1), (R.TEST_BIST_CTL_TARGET, t), (R.TEST_BIST_CTL_INDEX, n)]
def mgDev (fact : Bool) : Dev :=
  sets [(R.SEC_BOOT_STATUS_STAGE, if fact then 14 else 5), (R.MGT_MP_CFG_EN 1, 1), (R.MGT_MP_STAT_UP 1, 1), (R.MGT_PCIE_STAT_UP, 1)] live
/-- The same with port die 7 not fitted. -/
def short : Dev := live.wr R.GLB_DIE_STATUS 0xA2AAAA
def fields : List FieldDef := [⟨7, 0, .rw, .val 0⟩, ⟨15, 8, .rwl, .val 0⟩, ⟨16, 16, .w1s, .val 0⟩, ⟨20, 17, .w1c, .val 0⟩, ⟨31, 31, .ro, .val 0⟩]

theorem oneLane_up : lanesUp oneLane = [255] := by decide +kernel

theorem oneLane_hit : oneLane.basin.ctx.filter (fun x => x.2.st == .opened && laneOf x.2.gidx.val x.2.chunk.toNat oneLane == 255) ≠ [] := by
  have h : laneOf 0 0 oneLane = 255 := by simp [laneOf, oneLane_up, Nat.mod_one]
  apply List.ne_nil_of_mem (a := (32767, cx))
  refine List.mem_filter.mpr ⟨by decide +kernel, ?_⟩
  show (CtxState.opened == CtxState.opened && laneOf 0 0 oneLane == 255) = true
  rw [h]; decide

theorem noLane_none : spareLanes noLane = [] := by
  have h : ∀ p, p < 272 → noLane.ras.failed.contains (7, p) = true := fun p hp => by
    show ((List.range 272).map (fun p => (7, p))).contains (7, p) = true
    simp [hp]
  refine List.filter_eq_nil_iff.mpr (fun p hp => ?_)
  rw [h p (List.mem_range.mp hp)]; simp

theorem live_spare : spareLanes live ≠ [] :=
  List.ne_nil_of_mem (a := 271) (List.mem_filter.mpr ⟨by decide, by decide +kernel⟩)

/-- Link 63 on a port that encrypts, its receive SA valid under a key of zeros; a frame of that SA with PN 0 carrying some bytes from the EtherType
on; and a port that takes integrity only. -/
def secDev : Dev := sets [(R.HAUL_MSEC_MODE 32, 2), (R.HAUL_SA_CTL_VALID 32 1 0, 1)] (hdev id)
def secFrame (rest : List Byte) : List Byte :=
  let head := zeros 12 ++ [0x88, 0xE5, 0x2C, 0] ++ zeros 12
  withFcs (head ++ gcmXpn 32 1 0 0 true head rest secDev)
def secTest : List Byte := secFrame ([8, 0] ++ zeros 46)
def plainSec : Dev := sets [(R.HAUL_MSEC_MODE 32, 1)] (hdev id)
/-- A data frame of link 63 in the clear, without the addresses. -/
def haulBody : List Byte := beBytes 2 (live.get (R.PORT_OFPE_ETYPE 0)) ++ haulHeader 0 0 0 0 0 0 0 0 0 0 ++ zeros 46

/-- A phase-boundary message of a PKIND, and one that has been handed to the bypass engine. -/
def phasePkt (kind : Nat) : List Byte := ofpPacket { type := 9 } (phaseBytes kind 0 (phase 63 14))
def inboxed (kind : Nat) : Dev := { live with opt := { live.opt with inbox := [(true, phasePkt kind)] } }


/-! ### A state for every hypothesis of the statements, clause by clause -/

theorem witness_FusesOnlyGain_one1 :
    ∃ t : State, fusesLegal State.reset.fuses ∧ step State.reset = .next t :=
  ⟨_, ⟨rfl, by decide⟩, rfl⟩

theorem witness_ResetLeaves :
    (R.GLB_PWR_GRANT 8 ≤ (R.GLB_PWR_GRANT 8) ∧ (R.GLB_PWR_GRANT 8) < R.TIME_STATUS) ∧
    (R.FWD_JOB 1 ≤ (R.FWD_JOB 1)) := by
  and_intros <;> decide +kernel

theorem witness_ResetPins :
    ((st { rst with power := .off }).dev.power = .off) ∧
    ((st { rst with power := .resetLow 3 }).dev.power = .resetLow (3 : Fin 4)) ∧
    ((999 : Nat) < 1000) ∧
    (10000 ≤ (10000 : Nat) ∧ (st rst).dev.power ≠ .off ∧ (st rst).dev.boot.pendingLc = none) ∧
    (1000 ≤ (1000 : Nat) ∧ (1000 : Nat) < 10000 ∧ (st rst).dev.power ≠ .off ∧ (st rst).dev.boot.pendingLc = none) ∧
    ((st rst).dev.boot.pendingLc = none) ∧
    ((st burning).dev.boot.pendingLc = some (4 : BitVec 3)) ∧
    ((st rst).dev.running = true ∧ (st rst).dev.boot.pendingLc = none ∧
      wBits (fw [(R.GLB_RST_CTL_KEY, 0x5A17), (R.GLB_RST_CTL_DEVICE, 1)] : CsrW) R.GLB_RST_CTL_KEY = 0x5A17 ∧
      wOn (fw [(R.GLB_RST_CTL_KEY, 0x5A17), (R.GLB_RST_CTL_DEVICE, 1)] : CsrW) R.GLB_RST_CTL_DEVICE = true) ∧
    ((st rst).dev.running = true ∧ wBits (fw [(R.GLB_RST_CTL_KEY, 0x5A16)] : CsrW) R.GLB_RST_CTL_KEY ≠ 0x5A17) := by
  and_intros <;> decide +kernel

theorem witness_References :
    ((st rst).dev.running = true ∧ (st rst).dev.boot.clocked = false ∧ ((false : Bool) || (true : Bool)) = true) ∧
    ((st { rst with boot := { rst.boot with clocked := true } }).dev.running = true ∧
      (st { rst with boot := { rst.boot with clocked := true } }).dev.boot.clocked = true ∧
      (st { rst with boot := { rst.boot with clocked := true } }).dev.get R.GLB_REFCLK_ACTIVE = (0 : Fin 2).val ∧
      autoSwitch (st { rst with boot := { rst.boot with clocked := true } }).dev = true ∧
      (st { rst with boot := { rst.boot with clocked := true } }).dev.on (losField (1 - (0 : Fin 2))) = false) ∧
    ((st (sets [(R.GLB_REFCLK_ACTIVE, 1), (R.GLB_REFCLK_LOS0, 1)] { rst with boot := { rst.boot with clocked := true } })).dev.running = true ∧
      (st (sets [(R.GLB_REFCLK_ACTIVE, 1), (R.GLB_REFCLK_LOS0, 1)] { rst with boot := { rst.boot with clocked := true } })).dev.boot.clocked = true ∧ (st (sets [(R.GLB_REFCLK_ACTIVE, 1), (R.GLB_REFCLK_LOS0, 1)] { rst with boot := { rst.boot with clocked := true } })).dev.get R.GLB_REFCLK_ACTIVE = (1 : Fin 2).val ∧ ((autoSwitch (st (sets [(R.GLB_REFCLK_ACTIVE, 1), (R.GLB_REFCLK_LOS0, 1)] { rst with boot := { rst.boot with clocked := true } })).dev = false ∨ (st (sets [(R.GLB_REFCLK_ACTIVE, 1), (R.GLB_REFCLK_LOS0, 1)] { rst with boot := { rst.boot with clocked := true } })).dev.on (losField (1 - (1 : Fin 2))) = true))) ∧
    ((st { rst with boot := { rst.boot with clocked := true } }).dev.running = true ∧
      (st { rst with boot := { rst.boot with clocked := true } }).dev.boot.clocked = true ∧
      (st { rst with boot := { rst.boot with clocked := true } }).dev.get R.GLB_REFCLK_ACTIVE ≠ (1 : Fin 2).val) ∧
    ((st { rst with boot := { rst.boot with clocked := true } }).dev.running = true ∧
      (st { rst with boot := { rst.boot with clocked := true } }).dev.boot.clocked = true) := by
  and_intros <;> decide +kernel

theorem witness_Dies :
    ((st ({ rst with boot := { rst.boot with released := 0x800 } })).dev.running = true ∧
      (st ({ rst with boot := { rst.boot with released := 0x800 } })).dev.boot.released.getLsbD (11 : DieNo).val = true ∧
      (st ({ rst with boot := { rst.boot with released := 0x800 } })).dev.dieState (11 : DieNo).val = 1) ∧
    ((st ({ rst with boot := { rst.boot with released := 1 } }.setDie 0 2)).dev.running = true ∧
      nextDie (st ({ rst with boot := { rst.boot with released := 1 } }.setDie 0 2)).dev = some (1 : Nat) ∧
      (st ({ rst with boot := { rst.boot with released := 1 } }.setDie 0 2)).dev.dieReady 0 = true ∧
      (((1 : Nat) = 1 ∨ (st ({ rst with boot := { rst.boot with released := 1 } }.setDie 0 2)).dev.dieReady 1 = true))) ∧
    ((st ({ rst with boot := { rst.boot with released := 0x800 } })).dev.running = true ∧
      (st ({ rst with boot := { rst.boot with released := 0x800 } })).dev.boot.released.getLsbD (11 : DieNo).val = true ∧
      (st ({ rst with boot := { rst.boot with released := 0x800 } })).dev.dieState (11 : DieNo).val = 1 ∧ (11 : DieNo) ≠ 0) ∧
    ((st ({ rst with boot := { rst.boot with released := 1 } })).dev.running = true ∧
      (st ({ rst with boot := { rst.boot with released := 1 } })).dev.boot.released.getLsbD 0 = true ∧
      (st ({ rst with boot := { rst.boot with released := 1 } })).dev.dieState 0 = 1) := by
  and_intros <;> decide +kernel

theorem witness_ImageChecks :
    ((st (rst.wr R.GLB_DIE_STATUS 0xAAAAAA)).dev.running = true ∧ diesDone (st (rst.wr R.GLB_DIE_STATUS 0xAAAAAA)).dev = true ∧
      (st (rst.wr R.GLB_DIE_STATUS 0xAAAAAA)).dev.boot.enclaveUp = false ∧ dieFailed (st (rst.wr R.GLB_DIE_STATUS 0xAAAAAA)).dev = false) ∧
    ((st (rst.wr R.GLB_DIE_STATUS 0xEAAAAA)).dev.running = true ∧ diesDone (st (rst.wr R.GLB_DIE_STATUS 0xEAAAAA)).dev = true ∧
      (st (rst.wr R.GLB_DIE_STATUS 0xEAAAAA)).dev.boot.enclaveUp = false ∧ dieFailed (st (rst.wr R.GLB_DIE_STATUS 0xEAAAAA)).dev = true ∧
      (st (rst.wr R.GLB_DIE_STATUS 0xEAAAAA)).dev.get R.SEC_BOOT_STATUS_ERR = 0) ∧
    ((keyedSt 3 image (rst.set R.SEC_BOOT_STATUS_STAGE 1)).dev.running = true ∧
      stage (keyedSt 3 image (rst.set R.SEC_BOOT_STATUS_STAGE 1)).dev = 1 ∧
      readErr (keyedSt 3 image (rst.set R.SEC_BOOT_STATUS_STAGE 1)).fuses (keyedSt 3 image (rst.set R.SEC_BOOT_STATUS_STAGE 1)).dev (keyedSt 3 image (rst.set R.SEC_BOOT_STATUS_STAGE 1)).flash.image = none) ∧
    ((st (rst.set R.SEC_BOOT_STATUS_STAGE 1)).dev.running = true ∧ stage (st (rst.set R.SEC_BOOT_STATUS_STAGE 1)).dev = 1 ∧
      readErr (st (rst.set R.SEC_BOOT_STATUS_STAGE 1)).fuses (st (rst.set R.SEC_BOOT_STATUS_STAGE 1)).dev (st (rst.set R.SEC_BOOT_STATUS_STAGE 1)).flash.image = some ((1, 0) : BootErr)) ∧
    ((keyedSt 3 image (rst.set R.SEC_BOOT_STATUS_STAGE 2)).dev.running = true ∧
      stage (keyedSt 3 image (rst.set R.SEC_BOOT_STATUS_STAGE 2)).dev = 2 ∧
      (keyedSt 3 image (rst.set R.SEC_BOOT_STATUS_STAGE 2)).dev.boot.ecdsaOk = false ∧
      contentErr (keyedSt 3 image (rst.set R.SEC_BOOT_STATUS_STAGE 2)).dev (keyedSt 3 image (rst.set R.SEC_BOOT_STATUS_STAGE 2)).flash.image (readAt 5000) = none) ∧
    ((keyedSt 3 image (rst.set R.SEC_BOOT_STATUS_STAGE 2)).dev.running = true ∧
      stage (keyedSt 3 image (rst.set R.SEC_BOOT_STATUS_STAGE 2)).dev = 2 ∧
      (keyedSt 3 image (rst.set R.SEC_BOOT_STATUS_STAGE 2)).dev.boot.lmsOk = false ∧
      contentErr (keyedSt 3 image (rst.set R.SEC_BOOT_STATUS_STAGE 2)).dev (keyedSt 3 image (rst.set R.SEC_BOOT_STATUS_STAGE 2)).flash.image (readAt 9000) = none) ∧
    (({ live with boot := { live.boot with ecdsaOk := true, lmsOk := true } }).boot.ecdsaOk = true ∧
      ({ live with boot := { live.boot with ecdsaOk := true, lmsOk := true } }).boot.lmsOk = true) ∧
    ((live.boot.ecdsaOk = false ∨ live.boot.lmsOk = false)) := by
  and_intros <;> decide +kernel

theorem witness_ImageChecks_part2 :
    ((keyedSt 3 image readable).dev.running = true ∧ ((stage (keyedSt 3 image readable).dev = 2 ∨ stage (keyedSt 3 image readable).dev = 3)) ∧
      (keyedSt 3 image readable).dev.boot.imageRead = false ∧
      (contentErr (keyedSt 3 image readable).dev (keyedSt 3 image readable).flash.image (imgLen (keyedSt 3 image readable).flash.image)).or (hashErr (keyedSt 3 image readable).flash.image) = none) ∧
    ((keyedSt 3 hashImage readable).dev.running = true ∧
      ((stage (keyedSt 3 hashImage readable).dev = 2 ∨ stage (keyedSt 3 hashImage readable).dev = 3)) ∧
      (keyedSt 3 hashImage readable).dev.boot.imageRead = false ∧
      (contentErr (keyedSt 3 hashImage readable).dev (keyedSt 3 hashImage readable).flash.image (imgLen (keyedSt 3 hashImage readable).flash.image)).or (hashErr (keyedSt 3 hashImage readable).flash.image) = some ((8, 0) : BootErr)) ∧
    ((live.set R.SEC_BOOT_STATUS_ERR 1).get R.SEC_BOOT_STATUS_ERR ≠ 0) ∧
    (live.get R.SEC_BOOT_STATUS_ERR = 0) := by
  and_intros <;> decide +kernel

theorem witness_Wipe :
    ((st { rst with boot := { rst.boot with enclaveUp := true } }).dev.running = true ∧
      (st { rst with boot := { rst.boot with enclaveUp := true } }).dev.boot.enclaveUp = true ∧
      (st { rst with boot := { rst.boot with enclaveUp := true } }).dev.on R.GLB_WIPE_STATUS_SRAM_DONE = false ∧
      (st { rst with boot := { rst.boot with enclaveUp := true } }).dev.on R.GLB_WIPE_STATUS_FAIL = false ∧
      (st { rst with boot := { rst.boot with enclaveUp := true } }).dev.get R.GLB_LC_STATE ≠ 5) ∧
    ((st { rst with boot := { rst.boot with enclaveUp := true } }).dev.running = true ∧
      (st { rst with boot := { rst.boot with enclaveUp := true } }).dev.boot.enclaveUp = true ∧
      (st { rst with boot := { rst.boot with enclaveUp := true } }).dev.boot.hbmDone = false) ∧
    ((st { rst with boot := { rst.boot with enclaveUp := true } }).dev.running = true ∧
      (st { rst with boot := { rst.boot with enclaveUp := true } }).dev.boot.enclaveUp = true ∧
      (st { rst with boot := { rst.boot with enclaveUp := true } }).dev.boot.hbmDone = false ∧ (0) ≠ R.RES_STATUS) ∧
    ((st enclaved).dev.running = true ∧ (st enclaved).dev.boot.enclaveUp = true ∧ (st enclaved).dev.boot.hbmDone = false ∧
      stage (st enclaved).dev ≠ 2 ∧ stage (st enclaved).dev ≠ 3) ∧
    (live.boot.controlWiped = false ∧ live.boot.flashRead ≤ (0 : Nat) ∧ (0 : Nat) ≤ imgLen (image : List Byte)) ∧
    ((st { rst with boot := { rst.boot with hbmDone := true } }).dev.running = true ∧
      (st { rst with boot := { rst.boot with hbmDone := true } }).dev.boot.hbmDone = true ∧
      (st { rst with boot := { rst.boot with hbmDone := true } }).dev.boot.controlWiped = false) ∧
    ((st { rst with boot := { rst.boot with controlWiped := true } }).dev.running = true ∧
      (st { rst with boot := { rst.boot with controlWiped := true } }).dev.boot.controlWiped = true ∧
      (st { rst with boot := { rst.boot with controlWiped := true } }).dev.on R.GLB_WIPE_STATUS_RES_DONE = false ∧
      (st { rst with boot := { rst.boot with controlWiped := true } }).dev.on R.GLB_WIPE_STATUS_FAIL = false ∧
      (st { rst with boot := { rst.boot with controlWiped := true } }).dev.get R.GLB_LC_STATE ≠ 5) ∧
    ((fun _ => true : Nat → Bool) (0 : Nat) = true) ∧
    ((fun _ => false : Nat → Bool) (0 : Nat) = false) ∧
    ((st enclaved).dev.running = true ∧ (st enclaved).dev.boot.enclaveUp = true ∧
      (((st enclaved).dev.on R.GLB_WIPE_STATUS_SRAM_DONE = false ∨ (st enclaved).dev.on R.GLB_WIPE_STATUS_RES_DONE = false))) := by
  and_intros <;> decide +kernel

theorem witness_Wipe_more1 :
    let fit := BitVec.ofNat 8 ((keyedSt 3 lateImage (enclaved.set R.SEC_BOOT_STATUS_STAGE 3)).dev.get R.GLB_IDENT_FIT_STACKS);
      let d := trainStacks fit (255 : BitVec 8) (keyedSt 3 lateImage (enclaved.set R.SEC_BOOT_STATUS_STAGE 3)).dev;
      (keyedSt 3 lateImage (enclaved.set R.SEC_BOOT_STATUS_STAGE 3)).dev.running = true ∧
      (keyedSt 3 lateImage (enclaved.set R.SEC_BOOT_STATUS_STAGE 3)).dev.boot.enclaveUp = true ∧
      (keyedSt 3 lateImage (enclaved.set R.SEC_BOOT_STATUS_STAGE 3)).dev.boot.hbmDone = false ∧
      ((stage (keyedSt 3 lateImage (enclaved.set R.SEC_BOOT_STATUS_STAGE 3)).dev =
      2 ∨ stage (keyedSt 3 lateImage (enclaved.set R.SEC_BOOT_STATUS_STAGE 3)).dev = 3)) ∧
      contentErr d (keyedSt 3 lateImage (enclaved.set R.SEC_BOOT_STATUS_STAGE 3)).flash.image (readAt 6000) = none :=
  ⟨by decide +kernel, by decide +kernel, by decide +kernel, by decide +kernel, memory_late _ rfl⟩

theorem witness_Wipe_more2 :
    let fit := BitVec.ofNat 8 ((keyedSt 3 turnImage ({ rst with boot := { rst.boot with enclaveUp := true } }.set R.SEC_BOOT_STATUS_STAGE 3)).dev.get R.GLB_IDENT_FIT_STACKS); let d := trainStacks fit (255 : BitVec 8) (keyedSt 3 turnImage ({ rst with boot := { rst.boot with enclaveUp := true } }.set R.SEC_BOOT_STATUS_STAGE 3)).dev; (keyedSt 3 turnImage ({ rst with boot := { rst.boot with enclaveUp := true } }.set R.SEC_BOOT_STATUS_STAGE 3)).dev.running = true ∧ (keyedSt 3 turnImage ({ rst with boot := { rst.boot with enclaveUp := true } }.set R.SEC_BOOT_STATUS_STAGE 3)).dev.boot.enclaveUp = true ∧ (keyedSt 3 turnImage ({ rst with boot := { rst.boot with enclaveUp := true } }.set R.SEC_BOOT_STATUS_STAGE 3)).dev.boot.hbmDone = false ∧ ((stage (keyedSt 3 turnImage ({ rst with boot := { rst.boot with enclaveUp := true } }.set R.SEC_BOOT_STATUS_STAGE 3)).dev = 2 ∨ stage (keyedSt 3 turnImage ({ rst with boot := { rst.boot with enclaveUp := true } }.set R.SEC_BOOT_STATUS_STAGE 3)).dev = 3)) ∧ contentErr d (keyedSt 3 turnImage ({ rst with boot := { rst.boot with enclaveUp := true } }.set R.SEC_BOOT_STATUS_STAGE 3)).flash.image (readAt 6000) = some ((11, 4) : BootErr) :=
  ⟨by decide +kernel, by decide +kernel, by decide +kernel, by decide +kernel, turn_first _ rfl⟩

theorem witness_RunAndLoader :
    ((st (rst.set R.SEC_BOOT_STATUS_STAGE 4)).dev.running = true ∧ wOn (fw [(R.SEC_BOOT_RUN_RUN, 1)] : CsrW) R.SEC_BOOT_RUN_RUN = true ∧
      stage (st (rst.set R.SEC_BOOT_STATUS_STAGE 4)).dev = 4) ∧
    ((keyedSt 3 [] loaderDev).dev.factory = true ∧ wipeComplete (keyedSt 3 [] loaderDev).dev = true ∧
      (keyedSt 3 [] loaderDev).dev.boot.loading = none ∧ (keyedSt 3 [] loaderDev).dev.on (R.MGT_MP_STAT_UP 0) = true ∧
      (⟨BitVec.ofNat 128 (linkLocal 0), "zinel2", none, []⟩ : TftpPut).dst.toNat = linkLocal ((keyedSt 3 [] loaderDev).dev.rd64 (R.MGT_MP_MAC 0)) ∧
      (⟨BitVec.ofNat 128 (linkLocal 0), "zinel2", none, []⟩ : TftpPut).name ≠ "zinel") ∧
    ((keyedSt 3 [] loaderDev).dev.factory = true ∧ wipeComplete (keyedSt 3 [] loaderDev).dev = true ∧
      (keyedSt 3 [] loaderDev).dev.boot.loading = none ∧ (keyedSt 3 [] loaderDev).dev.on (R.MGT_MP_STAT_UP 0) = true ∧
      (⟨BitVec.ofNat 128 (linkLocal 0), "zinel", none, [[1]]⟩ : TftpPut).dst.toNat =
      linkLocal ((keyedSt 3 [] loaderDev).dev.rd64 (R.MGT_MP_MAC 0)) ∧
      (⟨BitVec.ofNat 128 (linkLocal 0), "zinel", none, [[1]]⟩ : TftpPut).name = "zinel" ∧
      tftpWhole (⟨BitVec.ofNat 128 (linkLocal 0), "zinel", none, [[1]]⟩ : TftpPut) = true ∧
      (⟨BitVec.ofNat 128 (linkLocal 0), "zinel", none, [[1]]⟩ : TftpPut).blocks.flatten.length ≤ 124 * 2 ^ 20) ∧
    ((st rst).dev.on (R.MGT_MP_STAT_UP 0) = false) ∧
    ((st { factory with boot := { factory.boot with loading := some image } }).dev.factory = true ∧
      (st { factory with boot := { factory.boot with loading := some image } }).dev.boot.loading = some (image : List Byte) ∧
      sha384 (flashBytes (image : List Byte) 128 (sigOff (image : List Byte) - 128)) = flashBytes (image : List Byte) 32 48) ∧
    ((st { factory with boot := { factory.boot with loading := some image } }).dev.factory = true ∧
      (st { factory with boot := { factory.boot with loading := some image } }).dev.boot.loading = some (image : List Byte) ∧
      sha384 (flashBytes ([] : List Byte) 128 (sigOff (image : List Byte) - 128)) ≠ flashBytes (image : List Byte) 32 48) := by
  and_intros <;> decide +kernel

theorem witness_LifeCycle :
    ((st live).dev.running = true ∧ (st live).dev.boot.pendingLc = none) ∧
    ((st burning).dev.running = true ∧ (st burning).dev.boot.pendingLc ≠ none) ∧
    (lcAuthorised (keyFuses 1 : Fuses) live (2 : Nat) = true) ∧
    ((st { live with boot := { live.boot with pendingLc := some 4 } }).dev.running = true ∧
      (st { live with boot := { live.boot with pendingLc := some 4 } }).dev.boot.pendingLc = some (4 : BitVec 3)) ∧
    ((.chosen : Fuses).lc.1 = (.chosen : Fuses).lc.2.1 ∧ (.chosen : Fuses).lc.2.1 = (.chosen : Fuses).lc.2.2) ∧
    ((st live).dev.running = true ∧ (st live).dev.boot.pendingLc = none ∧
      wOn (fw [(R.SEC_KEY_REVOKE_GO, 1), (R.SEC_KEY_REVOKE_SLOT, 3)] : CsrW) R.SEC_KEY_REVOKE_GO = true ∧
      acceptedSlots (st live).fuses ≠ [wBits (fw [(R.SEC_KEY_REVOKE_GO, 1), (R.SEC_KEY_REVOKE_SLOT, 3)] : CsrW) R.SEC_KEY_REVOKE_SLOT]) ∧
    (({ keyedSt 3 [] live with fuses := oneSlot }).dev.running = true ∧ ({ keyedSt 3 [] live with fuses := oneSlot }).dev.boot.pendingLc = none ∧
      wOn (fw [(R.SEC_KEY_REVOKE_GO, 1), (R.SEC_KEY_REVOKE_SLOT, 1)] : CsrW) R.SEC_KEY_REVOKE_GO = true ∧
      acceptedSlots ({ keyedSt 3 [] live with fuses := oneSlot }).fuses = [wBits (fw [(R.SEC_KEY_REVOKE_GO, 1), (R.SEC_KEY_REVOKE_SLOT, 1)] : CsrW) R.SEC_KEY_REVOKE_SLOT]) ∧
    ((st (live.set R.SEC_BOOT_STATUS_SVN 64)).dev.running = true ∧ (st (live.set R.SEC_BOOT_STATUS_SVN 64)).dev.boot.pendingLc = none ∧
      wOn (fw [(R.SEC_SVN_ADV_GO, 1), (R.SEC_SVN_ADV_SVN, 64)] : CsrW) R.SEC_SVN_ADV_GO = true ∧
      (st (live.set R.SEC_BOOT_STATUS_SVN 64)).fuses.svn ≤ 64 ∧
      (st (live.set R.SEC_BOOT_STATUS_SVN 64)).fuses.svn <
      min (wBits (fw [(R.SEC_SVN_ADV_GO, 1), (R.SEC_SVN_ADV_SVN, 64)] : CsrW) R.SEC_SVN_ADV_SVN) ((st (live.set R.SEC_BOOT_STATUS_SVN 64)).dev.get R.SEC_BOOT_STATUS_SVN)) ∧
    ((keyedSt 2 [] live).dev.running = true ∧ (keyedSt 2 [] live).dev.boot.pendingLc = none ∧
      wOn (fw [(R.SEC_MBX_CTL_GO, 1), (R.SEC_MBX_CTL_CMD, 1), (R.SEC_MBX_CTL_SLOT, 3)] : CsrW) R.SEC_MBX_CTL_GO = true ∧
      wBits (fw [(R.SEC_MBX_CTL_GO, 1), (R.SEC_MBX_CTL_CMD, 1), (R.SEC_MBX_CTL_SLOT, 3)] : CsrW) R.SEC_MBX_CTL_CMD = 1 ∧
      wBits (fw [(R.SEC_MBX_CTL_GO, 1), (R.SEC_MBX_CTL_CMD, 1), (R.SEC_MBX_CTL_SLOT, 3)] : CsrW) R.SEC_MBX_CTL_SLOT ≠ 0 ∧
      (lcState (keyedSt 2 [] live).fuses).toNat = 2 ∧
      (keyedSt 2 [] live).fuses.slots[wBits (fw [(R.SEC_MBX_CTL_GO, 1), (R.SEC_MBX_CTL_CMD, 1), (R.SEC_MBX_CTL_SLOT, 3)] : CsrW) R.SEC_MBX_CTL_SLOT]? = some (⟨zeros 48, zeros 48, false, false⟩ : KeySlot) ∧ (⟨zeros 48, zeros 48, false, false⟩ : KeySlot).programmed = false ∧ (⟨zeros 48, zeros 48, false, false⟩ : KeySlot).revoked = false) := by
  and_intros <;> decide +kernel

theorem witness_LifeCycle_part2 :
    ((st live).dev.running = true ∧ wOn (fw [(R.SEC_MBX_CTL_GO, 1), (R.SEC_MBX_CTL_CMD, 2)] : CsrW) R.SEC_MBX_CTL_GO = true ∧
      wBits (fw [(R.SEC_MBX_CTL_GO, 1), (R.SEC_MBX_CTL_CMD, 2)] : CsrW) R.SEC_MBX_CTL_CMD = 2) ∧
    ((keyedSt 3 image factory).dev.running = true ∧ wOn (fw [(R.SEC_MBX_CTL_GO, 1), (R.SEC_MBX_CTL_CMD, 3)] : CsrW) R.SEC_MBX_CTL_GO = true ∧
      wBits (fw [(R.SEC_MBX_CTL_GO, 1), (R.SEC_MBX_CTL_CMD, 3)] : CsrW) R.SEC_MBX_CTL_CMD = 3) := by
  and_intros <;> decide +kernel

theorem witness_Attestation :
    ((answers rst = false ∨ viaUp (clear : SpdmVia) rst = false)) ∧
    (answers (spdmDev 3 ⟨.idle, [], [], 0, 0⟩) = true ∧ viaUp (clear : SpdmVia) (spdmDev 3 ⟨.idle, [], [], 0, 0⟩) = true ∧
      (clear : SpdmVia).secured = []) ∧
    (answers (spdmDev 3 ⟨.session, [], zeros 44, 0, 0⟩) = true ∧ viaUp (secure [9] : SpdmVia) (spdmDev 3 ⟨.session, [], zeros 44, 0, 0⟩) = true ∧
      (secure [9] : SpdmVia).secured ≠ [] ∧ (spdmDev 3 ⟨.session, [], zeros 44, 0, 0⟩).spdm.phase = .session ∧
      openMsg (sessionSecret (spdmDev 3 ⟨.session, [], zeros 44, 0, 0⟩) 0 32) (sessionSecret (spdmDev 3 ⟨.session, [], zeros 44, 0, 0⟩) 32 12) (spdmDev 3 ⟨.session, [], zeros 44, 0, 0⟩).spdm.taken (secure [9] : SpdmVia).secured = some ([5] ++ ([9] : List Byte))) ∧
    ((secure [9] : SpdmVia).secured ≠ [] ∧ (spdmDev 3 ⟨.idle, [], [], 0, 0⟩).spdm.phase ≠ .session) ∧
    (answers (st (spdmDev 3 ⟨.idle, [], [], 0, 0⟩)).dev = true ∧ viaUp (clear : SpdmVia) (st (spdmDev 3 ⟨.idle, [], [], 0, 0⟩)).dev = true ∧
      (clear : SpdmVia).secured = []) ∧
    (answers (st (spdmDev 3 ⟨.versioned, [], [], 0, 0⟩)).dev = true ∧
      viaUp (clear : SpdmVia) (st (spdmDev 3 ⟨.versioned, [], [], 0, 0⟩)).dev = true ∧ (clear : SpdmVia).secured = [] ∧
      (st (spdmDev 3 ⟨.versioned, [], [], 0, 0⟩)).dev.spdm.phase ≠ .idle) ∧
    (answers (st (spdmDev 3 ⟨.capable, [], [], 0, 0⟩)).dev = true ∧ viaUp (clear : SpdmVia) (st (spdmDev 3 ⟨.capable, [], [], 0, 0⟩)).dev = true ∧
      (clear : SpdmVia).secured = [] ∧ (st (spdmDev 3 ⟨.capable, [], [], 0, 0⟩)).dev.spdm.phase = .capable) ∧
    (answers (st (spdmDev 3 ⟨.negotiated, [], [], 0, 0⟩)).dev = true ∧
      viaUp (clear : SpdmVia) (st (spdmDev 3 ⟨.negotiated, [], [], 0, 0⟩)).dev = true ∧ (clear : SpdmVia).secured = [] ∧
      noIdentity (st (spdmDev 3 ⟨.negotiated, [], [], 0, 0⟩)).dev = false ∧
      afterNegotiation (st (spdmDev 3 ⟨.negotiated, [], [], 0, 0⟩)).dev = true) ∧
    (let chain := certChain (st (spdmDev 3 ⟨.negotiated, [], [], 0, 0⟩)).flash.identity (st (spdmDev 3 ⟨.negotiated, [], [], 0, 0⟩)).dev;
      answers (st (spdmDev 3 ⟨.negotiated, [], [], 0, 0⟩)).dev = true ∧
      viaUp (clear : SpdmVia) (st (spdmDev 3 ⟨.negotiated, [], [], 0, 0⟩)).dev = true ∧ (clear : SpdmVia).secured = [] ∧
      noIdentity (st (spdmDev 3 ⟨.negotiated, [], [], 0, 0⟩)).dev = false ∧
      afterNegotiation (st (spdmDev 3 ⟨.negotiated, [], [], 0, 0⟩)).dev = true ∧ (0 : BitVec 16).toNat ≤ chain.length) := by
  and_intros <;> decide +kernel

theorem witness_Attestation_part2 :
    (answers (st (spdmDev 3 ⟨.session, [], [], 0, 0⟩)).dev = true ∧ viaUp (clear : SpdmVia) (st (spdmDev 3 ⟨.session, [], [], 0, 0⟩)).dev = true ∧
      (clear : SpdmVia).secured = [] ∧ noIdentity (st (spdmDev 3 ⟨.session, [], [], 0, 0⟩)).dev = false ∧
      afterNegotiation (st (spdmDev 3 ⟨.session, [], [], 0, 0⟩)).dev = true ∧ (7 : Fin 8) ≠ 0) ∧
    (answers (st (spdmDev 3 ⟨.negotiated, [], [], 0, 0⟩)).dev = true ∧
      viaUp (clear : SpdmVia) (st (spdmDev 3 ⟨.negotiated, [], [], 0, 0⟩)).dev = true ∧ (clear : SpdmVia).secured = [] ∧
      noIdentity (st (spdmDev 3 ⟨.negotiated, [], [], 0, 0⟩)).dev = false ∧
      afterNegotiation (st (spdmDev 3 ⟨.negotiated, [], [], 0, 0⟩)).dev = true) ∧
    (answers (st (spdmDev 3 ⟨.handshake, [], [], 0, 0⟩)).dev = true ∧
      viaUp (clear : SpdmVia) (st (spdmDev 3 ⟨.handshake, [], [], 0, 0⟩)).dev = true ∧ (clear : SpdmVia).secured = [] ∧
      noIdentity (st (spdmDev 3 ⟨.handshake, [], [], 0, 0⟩)).dev = false ∧ afterNegotiation (st (spdmDev 3 ⟨.handshake, [], [], 0, 0⟩)).dev = true) ∧
    (answers (st (spdmDev 3 ⟨.session, [], [], 0, 0⟩)).dev = true ∧ viaUp (clear : SpdmVia) (st (spdmDev 3 ⟨.session, [], [], 0, 0⟩)).dev = true ∧
      (clear : SpdmVia).secured = [] ∧ afterNegotiation (st (spdmDev 3 ⟨.session, [], [], 0, 0⟩)).dev = true ∧ 1 ≤ (9 : Byte).toNat ∧
      (9 : Byte).toNat ≤ 9) ∧
    (answers (st (spdmDev 3 ⟨.handshake, [], [], 0, 0⟩)).dev = true ∧
      viaUp (clear : SpdmVia) (st (spdmDev 3 ⟨.handshake, [], [], 0, 0⟩)).dev = true ∧ (clear : SpdmVia).secured = [] ∧
      noIdentity (st (spdmDev 3 ⟨.handshake, [], [], 0, 0⟩)).dev = false ∧
      (st (spdmDev 3 ⟨.handshake, [], [], 0, 0⟩)).dev.spdm.phase = .handshake ∧
      (hmac384 (sessionSecret (st (spdmDev 3 ⟨.handshake, [], [], 0, 0⟩)).dev 88 48) (sha384 (st (spdmDev 3 ⟨.handshake, [], [], 0, 0⟩)).dev.spdm.transcript) : List Byte) = hmac384 (sessionSecret (st (spdmDev 3 ⟨.handshake, [], [], 0, 0⟩)).dev 88 48) (sha384 (st (spdmDev 3 ⟨.handshake, [], [], 0, 0⟩)).dev.spdm.transcript)) ∧
    (answers (st (spdmDev 3 ⟨.handshake, [], [], 0, 0⟩)).dev = true ∧
      viaUp (clear : SpdmVia) (st (spdmDev 3 ⟨.handshake, [], [], 0, 0⟩)).dev = true ∧ (clear : SpdmVia).secured = [] ∧
      noIdentity (st (spdmDev 3 ⟨.handshake, [], [], 0, 0⟩)).dev = false ∧
      (st (spdmDev 3 ⟨.handshake, [], [], 0, 0⟩)).dev.spdm.phase = .handshake ∧
      ([] : List Byte) ≠
      hmac384 (sessionSecret (st (spdmDev 3 ⟨.handshake, [], [], 0, 0⟩)).dev 88 48) (sha384 (st (spdmDev 3 ⟨.handshake, [], [], 0, 0⟩)).dev.spdm.transcript)) := by
  and_intros <;> decide +kernel

theorem witness_Attestation_part3 :
    answers (st (spdmDev 1 ⟨.idle, [], [], 0, 0⟩)).dev = true ∧ viaUp (clear : SpdmVia) (st (spdmDev 1 ⟨.idle, [], [], 0, 0⟩)).dev = true ∧
      (clear : SpdmVia).secured = [] ∧ noIdentity (st (spdmDev 1 ⟨.idle, [], [], 0, 0⟩)).dev = true :=
  by decide +kernel

theorem witness_TurnNumber :
    ((st { live with boot := rst.boot }).dev.applied = true ∧ (st { live with boot := rst.boot }).dev.boot.turnsBegun = false) ∧
    ((st (sets [(R.GLB_TURN_STATUS_MODE, 0)] { live with boot := { live.boot with turnsBegun := true } })).dev.applied = true ∧
      (st (sets [(R.GLB_TURN_STATUS_MODE, 0)] { live with boot := { live.boot with turnsBegun := true } })).dev.boot.turnsBegun = true ∧
      (st (sets [(R.GLB_TURN_STATUS_MODE, 0)] { live with boot := { live.boot with turnsBegun := true } })).dev.get R.GLB_TURN_STATUS_MODE = 0 ∧
      (st (sets [(R.GLB_TURN_STATUS_MODE, 0)] { live with boot := { live.boot with turnsBegun := true } })).dev.time.realignNext = false) ∧
    ((st (sets [(R.GLB_TURN_STATUS_MODE, 1)] { live with boot := { live.boot with turnsBegun := true }, time := { live.time with baseT := 2 * turnUnit } })).dev.applied = true ∧ (st (sets [(R.GLB_TURN_STATUS_MODE, 1)] { live with boot := { live.boot with turnsBegun := true }, time := { live.time with baseT := 2 * turnUnit } })).dev.boot.turnsBegun = true ∧ (st (sets [(R.GLB_TURN_STATUS_MODE, 1)] { live with boot := { live.boot with turnsBegun := true }, time := { live.time with baseT := 2 * turnUnit } })).dev.get R.GLB_TURN_STATUS_MODE ≠ 0 ∧ (st (sets [(R.GLB_TURN_STATUS_MODE, 1)] { live with boot := { live.boot with turnsBegun := true }, time := { live.time with baseT := 2 * turnUnit } })).dev.time.realignNext = false ∧ ((st (sets [(R.GLB_TURN_STATUS_MODE, 1)] { live with boot := { live.boot with turnsBegun := true }, time := { live.time with baseT := 2 * turnUnit } })).dev.now / turnUnit).toNat = (2 : Nat) ∧ (st (sets [(R.GLB_TURN_STATUS_MODE, 1)] { live with boot := { live.boot with turnsBegun := true }, time := { live.time with baseT := 2 * turnUnit } })).dev.turn < (2 : Nat)) ∧
    ((st { live with time := { live.time with realignNext := true } }).dev.applied = true ∧
      (st { live with time := { live.time with realignNext := true } }).dev.boot.turnsBegun = true ∧
      (st { live with time := { live.time with realignNext := true } }).dev.time.realignNext = true) := by
  and_intros <;> decide +kernel

theorem witness_TurnNumber_part2 :
    (st (sets [(R.GLB_TURN_STATUS_MODE, 1)] { live with boot := { live.boot with turnsBegun := true } })).dev.applied = true ∧
      (st (sets [(R.GLB_TURN_STATUS_MODE, 1)] { live with boot := { live.boot with turnsBegun := true } })).dev.boot.turnsBegun = true ∧
      (st (sets [(R.GLB_TURN_STATUS_MODE, 1)] { live with boot := { live.boot with turnsBegun := true } })).dev.get R.GLB_TURN_STATUS_MODE ≠ 0 ∧
      (st (sets [(R.GLB_TURN_STATUS_MODE, 1)] { live with boot := { live.boot with turnsBegun := true } })).dev.time.realignNext = false ∧
      ((st (sets [(R.GLB_TURN_STATUS_MODE, 1)] { live with boot := { live.boot with turnsBegun := true } })).dev.now / turnUnit).toNat ≤ (st (sets [(R.GLB_TURN_STATUS_MODE, 1)] { live with boot := { live.boot with turnsBegun := true } })).dev.turn :=
  by decide +kernel

theorem witness_Overruns :
    SMap.get? (withRas (fun r => { r with ovrLast := [(7, 5)], boundaries := 4100 })).ras.ovrLast (7 : Fin 8).val = some (5 : Nat) ∧
      (withRas (fun r => { r with ovrLast := [(7, 5)], boundaries := 4100 })).ras.boundaries < (5 : Nat) + 4096 :=
  by decide +kernel

theorem witness_Overruns_more1 :
    ∀ n, SMap.get? (withRas (fun r => { r with ovrLast := [(7, 5)], boundaries := 4101 })).ras.ovrLast (7 : Fin 8).val = some n → n + 4096 ≤ (withRas (fun r => { r with ovrLast := [(7, 5)], boundaries := 4101 })).ras.boundaries :=
  by intro n h; cases h; decide

theorem witness_PowerPins :
    ((st rst).dev.running = true) ∧
    ((st rst).dev.running = true ∧ 1000 ≤ (1000 : Nat)) ∧
    ((999 : Nat) < 1000) ∧
    (({ live with ras := { live.ras with pwrLow := true } }).ras.pwrLow = true) := by
  and_intros <;> decide +kernel

theorem witness_DutyBounds_one1 :
    ∃ g : Nat × Nat, g ∈ (grantAll turn0 live 0).1 :=
  ⟨(grantAll turn0 live 0).1.getD 0 (0, 0), by decide +kernel⟩

theorem witness_DutyBounds_one2 :
    ∃ g : Nat × Nat, g ∈ (grantAll turn0 live 0).1 ∧ g.1 = 5 ∧ dieWorks live 0 = false :=
  ⟨(5, 0), by decide +kernel⟩

theorem witness_ApplyAndDieFail :
    ((st (sets [(R.SEC_BOOT_STATUS_STAGE, 3), (R.GLB_WIPE_STATUS_SRAM_DONE, 1), (R.GLB_WIPE_STATUS_RES_DONE, 1)] { rst with boot := { rst.boot with imageRead := true } })).dev.running = true ∧ stage (st (sets [(R.SEC_BOOT_STATUS_STAGE, 3), (R.GLB_WIPE_STATUS_SRAM_DONE, 1), (R.GLB_WIPE_STATUS_RES_DONE, 1)] { rst with boot := { rst.boot with imageRead := true } })).dev = 3 ∧ (st (sets [(R.SEC_BOOT_STATUS_STAGE, 3), (R.GLB_WIPE_STATUS_SRAM_DONE, 1), (R.GLB_WIPE_STATUS_RES_DONE, 1)] { rst with boot := { rst.boot with imageRead := true } })).dev.boot.imageRead = true ∧ wipeComplete (st (sets [(R.SEC_BOOT_STATUS_STAGE, 3), (R.GLB_WIPE_STATUS_SRAM_DONE, 1), (R.GLB_WIPE_STATUS_RES_DONE, 1)] { rst with boot := { rst.boot with imageRead := true } })).dev = true) ∧
    (let lib := sectBytes (keyedSt 3 (kernelImage 0x3F) live).flash.image 7; let kid := beAt lib (kernelOff lib (0 : Nat)) 1;
      (keyedSt 3 (kernelImage 0x3F) live).dev.applied = true ∧
      kernelThere (sectBytes (keyedSt 3 (kernelImage 0x3F) live).flash.image 7) (0 : Nat) = true ∧
      (keyedSt 3 (kernelImage 0x3F) live).dev.boot.kernels.any (fun k => k.1.toNat == kid) = false ∧
      ((kid < 0x40 ∨ kernelOk (keyedSt 3 (kernelImage 0x3F) live).fuses lib (kernelOff lib (0 : Nat)) = false))) ∧
    (let lib := sectBytes (keyedSt 3 (kernelImage 0x40) live).flash.image 7; let kid := beAt lib (kernelOff lib (0 : Nat)) 1;
      (keyedSt 3 (kernelImage 0x40) live).dev.applied = true ∧
      kernelThere (sectBytes (keyedSt 3 (kernelImage 0x40) live).flash.image 7) (0 : Nat) = true ∧
      (keyedSt 3 (kernelImage 0x40) live).dev.boot.kernels.any (fun k => k.1.toNat == kid) = false ∧ 0x40 ≤ kid) ∧
    ((st rst).dev.running = true ∧ (st rst).dev.dieState 0 ≠ 0 ∧ (st rst).dev.on (R.TEST_D2D_STAT_FAILED 10) = false) ∧
    ((st live).dev.running = true ∧ (st live).dev.dieState ((7 : Fin 8).val + 2) = 2 ∧
      (st live).dev.on (R.TEST_D2D_STAT_FAILED (7 : Fin 8).val) = false) := by
  and_intros <;> decide +kernel

theorem witness_LinkTraining :
    ((st (stg 1 0)).dev.applied = true ∧ (st (stg 1 0)).dev.isOfp (0 : PortNo).val = true ∧ mayTrain (st (stg 1 0)).dev (0 : PortNo).val = true ∧
      stageOf (st (stg 1 0)).dev (0 : PortNo).val = 1) ∧
    ((st (stg 2 0)).dev.applied = true ∧ (st (stg 2 0)).dev.isOfp (0 : PortNo).val = true ∧ mayTrain (st (stg 2 0)).dev (0 : PortNo).val = true ∧
      stageOf (st (stg 2 0)).dev (0 : PortNo).val = 2) ∧
    ((st (stg 3 0)).dev.applied = true ∧ (st (stg 3 0)).dev.isOfp (0 : PortNo).val = true ∧ mayTrain (st (stg 3 0)).dev (0 : PortNo).val = true ∧
      stageOf (st (stg 3 0)).dev (0 : PortNo).val = 3) ∧
    ((st (stg 4 15)).dev.applied = true ∧ (st (stg 4 15)).dev.isOfp (15 : PortNo).val = true ∧
      mayTrain (st (stg 4 15)).dev (15 : PortNo).val = true ∧ stageOf (st (stg 4 15)).dev (15 : PortNo).val = 4 ∧
      aligned (st (stg 4 15)).dev (15 : PortNo).val (100 : Nat) = true) ∧
    ((st (stg 4 15)).dev.applied = true ∧ (st (stg 4 15)).dev.isOfp (15 : PortNo).val = true ∧
      mayTrain (st (stg 4 15)).dev (15 : PortNo).val = true ∧ stageOf (st (stg 4 15)).dev (15 : PortNo).val = 4 ∧
      aligned (st (stg 4 15)).dev (15 : PortNo).val (101 : Nat) = false) ∧
    (mayTrain (adm 15 live) (15 : PortNo).val = true) ∧
    (((live.modLink 0 (fun l => { l with joinHeld := true })).link (0 : Nat)).joinHeld = true) ∧
    ((st (stg 1 16)).dev.applied = true ∧ (st (stg 1 16)).dev.isEth (16 : PortNo).val = true ∧
      mayTrain (st (stg 1 16)).dev (16 : PortNo).val = true ∧ (st (stg 1 16)).dev.isUp (16 : PortNo).val = false) ∧
    ((st ((adm 30 live).modLink 30 (fun l => { l with ethFails := 1 }))).dev.applied = true ∧
      (st ((adm 30 live).modLink 30 (fun l => { l with ethFails := 1 }))).dev.isEth (30 : PortNo).val = true ∧
      mayTrain (st ((adm 30 live).modLink 30 (fun l => { l with ethFails := 1 }))).dev (30 : PortNo).val = true ∧
      (st ((adm 30 live).modLink 30 (fun l => { l with ethFails := 1 }))).dev.isUp (30 : PortNo).val = false ∧
      (((st ((adm 30 live).modLink 30 (fun l => { l with ethFails := 1 }))).dev.link (30 : PortNo).val).ethFails + 1) % 3 ≠ 0) ∧
    ((st ((adm 30 live).modLink 30 (fun l => { l with ethFails := 2 }))).dev.applied = true ∧
      (st ((adm 30 live).modLink 30 (fun l => { l with ethFails := 2 }))).dev.isEth (30 : PortNo).val = true ∧
      mayTrain (st ((adm 30 live).modLink 30 (fun l => { l with ethFails := 2 }))).dev (30 : PortNo).val = true ∧
      (st ((adm 30 live).modLink 30 (fun l => { l with ethFails := 2 }))).dev.isUp (30 : PortNo).val = false ∧
      (((st ((adm 30 live).modLink 30 (fun l => { l with ethFails := 2 }))).dev.link (30 : PortNo).val).ethFails + 1) % 3 = 0) ∧
    (live.isHaul (0 : PortNo).val = false ∧ routesOn live (0 : PortNo).val = []) := by
  and_intros <;> decide +kernel

theorem witness_LinkTraining_more1 :
    (st ((stg 5 15).modLink 15 (fun l => { l with marks := [{ mk0 with slot := 1 }].map some }))).dev.applied = true ∧
      (st ((stg 5 15).modLink 15 (fun l => { l with marks := [{ mk0 with slot := 1 }].map some }))).dev.isOfp (15 : PortNo).val = true ∧
      mayTrain (st ((stg 5 15).modLink 15 (fun l => { l with marks := [{ mk0 with slot := 1 }].map some }))).dev (15 : PortNo).val = true ∧
      stageOf (st ((stg 5 15).modLink 15 (fun l => { l with marks := [{ mk0 with slot := 1 }].map some }))).dev (15 : PortNo).val = 5 ∧
      ((st ((stg 5 15).modLink 15 (fun l => { l with marks := [{ mk0 with slot := 1 }].map some }))).dev.link (15 : PortNo).val).peerHold = none ∧
      allMarks (st ((stg 5 15).modLink 15 (fun l => { l with marks := [{ mk0 with slot := 1 }].map some }))).dev (15 : PortNo).val = some ([{ mk0 with slot := 1 }] : List Marker) ∧ ((∃ k m, ([{ mk0 with slot := 1 }] : List Marker)[k]? = some m ∧ shapeBad (st ((stg 5 15).modLink 15 (fun l => { l with marks := [{ mk0 with slot := 1 }].map some }))).dev (15 : PortNo).val k m = true)) :=
  ⟨by decide +kernel, by decide +kernel, by decide +kernel, by decide +kernel, by decide +kernel, by decide +kernel, 0, _, rfl, by decide +kernel⟩

theorem witness_LinkTraining_more2 :
    (st (((stg 5 15).modLink 15 (fun l => { l with marks := [mk0].map some })).modLink 15 (fun l => { l with expect := [1] }))).dev.applied = true ∧ (st (((stg 5 15).modLink 15 (fun l => { l with marks := [mk0].map some })).modLink 15 (fun l => { l with expect := [1] }))).dev.isOfp (15 : PortNo).val = true ∧ mayTrain (st (((stg 5 15).modLink 15 (fun l => { l with marks := [mk0].map some })).modLink 15 (fun l => { l with expect := [1] }))).dev (15 : PortNo).val = true ∧ stageOf (st (((stg 5 15).modLink 15 (fun l => { l with marks := [mk0].map some })).modLink 15 (fun l => { l with expect := [1] }))).dev (15 : PortNo).val = 5 ∧ ((st (((stg 5 15).modLink 15 (fun l => { l with marks := [mk0].map some })).modLink 15 (fun l => { l with expect := [1] }))).dev.link (15 : PortNo).val).peerHold = none ∧ allMarks (st (((stg 5 15).modLink 15 (fun l => { l with marks := [mk0].map some })).modLink 15 (fun l => { l with expect := [1] }))).dev (15 : PortNo).val = some ([mk0] : List Marker) ∧ ((∀ k m, ([mk0] : List Marker)[k]? = some m → shapeBad (st (((stg 5 15).modLink 15 (fun l => { l with marks := [mk0].map some })).modLink 15 (fun l => { l with expect := [1] }))).dev (15 : PortNo).val k m = false)) ∧ ([mk0] : List Marker)[(0)]? = some (mk0) ∧ chanBad (st (((stg 5 15).modLink 15 (fun l => { l with marks := [mk0].map some })).modLink 15 (fun l => { l with expect := [1] }))).dev (15 : PortNo).val (0) (mk0) = true ∧ ((∀ j n, j < (0) → ([mk0] : List Marker)[j]? = some n → chanBad (st (((stg 5 15).modLink 15 (fun l => { l with marks := [mk0].map some })).modLink 15 (fun l => { l with expect := [1] }))).dev (15 : PortNo).val j n = false)) :=
  ⟨by decide +kernel, by decide +kernel, by decide +kernel, by decide +kernel, by decide +kernel, by decide +kernel, marks_all _ _ _ (by decide +kernel), by decide +kernel, by decide +kernel, fun _ _ h => absurd h (Nat.not_lt_zero _)⟩

theorem witness_LinkTraining_more3 :
    (st ((stg 5 15).modLink 15 (fun l => { l with marks := [mk0].map some }))).dev.applied = true ∧
      (st ((stg 5 15).modLink 15 (fun l => { l with marks := [mk0].map some }))).dev.isOfp (15 : PortNo).val = true ∧
      mayTrain (st ((stg 5 15).modLink 15 (fun l => { l with marks := [mk0].map some }))).dev (15 : PortNo).val = true ∧
      stageOf (st ((stg 5 15).modLink 15 (fun l => { l with marks := [mk0].map some }))).dev (15 : PortNo).val = 5 ∧
      ((st ((stg 5 15).modLink 15 (fun l => { l with marks := [mk0].map some }))).dev.link (15 : PortNo).val).peerHold = none ∧
      allMarks (st ((stg 5 15).modLink 15 (fun l => { l with marks := [mk0].map some }))).dev (15 : PortNo).val = some ([mk0] : List Marker) ∧
      ((∀ k m, ([mk0] : List Marker)[k]? =
      some m → shapeBad (st ((stg 5 15).modLink 15 (fun l => { l with marks := [mk0].map some }))).dev (15 : PortNo).val k m = false)) ∧
      ((∀ k m, ([mk0] : List Marker)[k]? =
      some m → chanBad (st ((stg 5 15).modLink 15 (fun l => { l with marks := [mk0].map some }))).dev (15 : PortNo).val k m = false)) ∧
      ((∀ m ∈ ([mk0] : List Marker), joinBad (st ((stg 5 15).modLink 15 (fun l => { l with marks := [mk0].map some }))).dev (15 : PortNo).val m = false)) :=
  ⟨by decide +kernel, by decide +kernel, by decide +kernel, by decide +kernel, by decide +kernel, by decide +kernel, marks_all _ _ _ (by decide +kernel), marks_all _ _ _ (by decide +kernel), by decide +kernel⟩

theorem witness_LinkTraining_more4 :
    (st ((stg 5 60).modLink 60 (fun l => { l with marks := [mark 0, mark 1, mark 2, mark 3].map some }))).dev.applied = true ∧
      (st ((stg 5 60).modLink 60 (fun l => { l with marks := [mark 0, mark 1, mark 2, mark 3].map some }))).dev.isOfp (60 : PortNo).val = true ∧
      mayTrain (st ((stg 5 60).modLink 60 (fun l => { l with marks := [mark 0, mark 1, mark 2, mark 3].map some }))).dev (60 : PortNo).val = true ∧
      stageOf (st ((stg 5 60).modLink 60 (fun l => { l with marks := [mark 0, mark 1, mark 2, mark 3].map some }))).dev (60 : PortNo).val = 5 ∧
      ((st ((stg 5 60).modLink 60 (fun l => { l with marks := [mark 0, mark 1, mark 2, mark 3].map some }))).dev.link (60 : PortNo).val).peerHold = none ∧ allMarks (st ((stg 5 60).modLink 60 (fun l => { l with marks := [mark 0, mark 1, mark 2, mark 3].map some }))).dev (60 : PortNo).val = some ([mark 0, mark 1, mark 2, mark 3] : List Marker) ∧ ((∀ k m, ([mark 0, mark 1, mark 2, mark 3] : List Marker)[k]? = some m → shapeBad (st ((stg 5 60).modLink 60 (fun l => { l with marks := [mark 0, mark 1, mark 2, mark 3].map some }))).dev (60 : PortNo).val k m = false)) ∧ ((∀ k m, ([mark 0, mark 1, mark 2, mark 3] : List Marker)[k]? = some m → chanBad (st ((stg 5 60).modLink 60 (fun l => { l with marks := [mark 0, mark 1, mark 2, mark 3].map some }))).dev (60 : PortNo).val k m = false)) ∧ ((∃ m ∈ ([mark 0, mark 1, mark 2, mark 3] : List Marker), joinBad (st ((stg 5 60).modLink 60 (fun l => { l with marks := [mark 0, mark 1, mark 2, mark 3].map some }))).dev (60 : PortNo).val m = true)) :=
  ⟨by decide +kernel, by decide +kernel, by decide +kernel, by decide +kernel, by decide +kernel, by decide +kernel, marks_all _ _ _ (by decide +kernel), marks_all _ _ _ (by decide +kernel), by decide +kernel⟩

theorem witness_LinkLoss :
    (let p := (st live).dev.portOf (15 : LaneNo).val; let n := ((st live).dev.link p).badMarks.getD ((15 : LaneNo).val - p) 0 + 1;
      (st live).dev.applied = true ∧ (st live).dev.isPort ((st live).dev.portOf (15 : LaneNo).val) = true ∧
      (st live).dev.isOfp ((st live).dev.portOf (15 : LaneNo).val) = true ∧
      (st live).dev.nearLoop ((st live).dev.portOf (15 : LaneNo).val) = false ∧ (none : Option (List Byte)).bind findMarker = none ∧
      (((st live).dev.isUp p = false ∨ n < max 1 ((st live).dev.get (R.PORT_LINK_CFG_MKLOSS 0))))) ∧
    (let p := (st (up 15 live)).dev.portOf (15 : LaneNo).val; let n := ((st (up 15 live)).dev.link p).badMarks.getD ((15 : LaneNo).val - p) 0 + 1;
      (st (up 15 live)).dev.applied = true ∧ (st (up 15 live)).dev.isPort ((st (up 15 live)).dev.portOf (15 : LaneNo).val) = true ∧
      (st (up 15 live)).dev.isOfp ((st (up 15 live)).dev.portOf (15 : LaneNo).val) = true ∧
      (st (up 15 live)).dev.nearLoop ((st (up 15 live)).dev.portOf (15 : LaneNo).val) = false ∧
      (none : Option (List Byte)).bind findMarker = none ∧ (st (up 15 live)).dev.isUp p = true ∧
      max 1 ((st (up 15 live)).dev.get (R.PORT_LINK_CFG_MKLOSS 0)) ≤ n) ∧
    ((st (up 15 live)).dev.applied = true ∧ (st (up 15 live)).dev.isPort ((st (up 15 live)).dev.portOf (15 : LaneNo).val) = true ∧
      (st (up 15 live)).dev.isOfp ((st (up 15 live)).dev.portOf (15 : LaneNo).val) = true ∧
      (st (up 15 live)).dev.nearLoop ((st (up 15 live)).dev.portOf (15 : LaneNo).val) = false ∧
      findMarker (markerPayload (markerBytes mk0) : List Byte) = some (mk0 : Marker)) ∧
    ((mk0 : Marker).retrain = false ∧ chanBad live (15 : PortNo).val (0 : Fin 16).val (mk0 : Marker) = false ∧
      shapeBad live (15 : PortNo).val (0 : Fin 16).val (mk0 : Marker) = false) ∧
    ((mk0 : Marker).retrain = false ∧ chanBad live (15 : PortNo).val (0 : Fin 16).val (mk0 : Marker) = false ∧
      shapeBad live (15 : PortNo).val (0 : Fin 16).val (mk0 : Marker) = false ∧ (mk0 : Marker).req ≠ 1 ∧ (mk0 : Marker).req ≠ 2) ∧
    (({ mk0 with req := 2, tap := 4 } : Marker).retrain = false ∧
      chanBad live (15 : PortNo).val (0 : Fin 16).val ({ mk0 with req := 2, tap := 4 } : Marker) = false ∧
      shapeBad live (15 : PortNo).val (0 : Fin 16).val ({ mk0 with req := 2, tap := 4 } : Marker) = false ∧
      ((({ mk0 with req := 2, tap := 4 } : Marker).req = 1 ∨ ({ mk0 with req := 2, tap := 4 } : Marker).req = 2)) ∧
      ({ mk0 with req := 2, tap := 4 } : Marker).tap.toNat < 5) := by
  and_intros <;> decide +kernel

theorem witness_LinkLoss_part2 :
    (3 ≤ stageOf ((stg 7 15).modLink 15 (fun l => { l with expect := [1] })) (15 : PortNo).val ∧
      stageOf ((stg 7 15).modLink 15 (fun l => { l with expect := [1] })) (15 : PortNo).val ≤ 7 ∧
      chanBad ((stg 7 15).modLink 15 (fun l => { l with expect := [1] })) (15 : PortNo).val (0 : Fin 16).val (mk0 : Marker) = true) ∧
    (let p := (st (up 15 live)).dev.portOf (15 : LaneNo).val; (st (up 15 live)).dev.applied = true ∧
      (st (up 15 live)).dev.isPort ((st (up 15 live)).dev.portOf (15 : LaneNo).val) = true ∧
      (st (up 15 live)).dev.isUp ((st (up 15 live)).dev.portOf (15 : LaneNo).val) = true ∧
      (((st (up 15 live)).dev.on (R.PORT_PCTL_FASTRELOCK p) = false ∨ (st (up 15 live)).dev.on (R.PORT_PCTL_FTXLOCK p) =
      false ∨ (st (up 15 live)).dev.isOfp p = false))) ∧
    (let p := (st (sets [(R.PORT_PCTL_FASTRELOCK 15, 1), (R.PORT_PCTL_FTXLOCK 15, 1)] (up 15 live))).dev.portOf (15 : LaneNo).val;
      (st (sets [(R.PORT_PCTL_FASTRELOCK 15, 1), (R.PORT_PCTL_FTXLOCK 15, 1)] (up 15 live))).dev.applied = true ∧
      (st (sets [(R.PORT_PCTL_FASTRELOCK 15, 1), (R.PORT_PCTL_FTXLOCK 15, 1)] (up 15 live))).dev.isPort ((st (sets [(R.PORT_PCTL_FASTRELOCK 15, 1), (R.PORT_PCTL_FTXLOCK 15, 1)] (up 15 live))).dev.portOf (15 : LaneNo).val) = true ∧ (st (sets [(R.PORT_PCTL_FASTRELOCK 15, 1), (R.PORT_PCTL_FTXLOCK 15, 1)] (up 15 live))).dev.isUp ((st (sets [(R.PORT_PCTL_FASTRELOCK 15, 1), (R.PORT_PCTL_FTXLOCK 15, 1)] (up 15 live))).dev.portOf (15 : LaneNo).val) = true ∧ (st (sets [(R.PORT_PCTL_FASTRELOCK 15, 1), (R.PORT_PCTL_FTXLOCK 15, 1)] (up 15 live))).dev.on (R.PORT_PCTL_FASTRELOCK p) = true ∧ (st (sets [(R.PORT_PCTL_FASTRELOCK 15, 1), (R.PORT_PCTL_FTXLOCK 15, 1)] (up 15 live))).dev.on (R.PORT_PCTL_FTXLOCK p) = true ∧ (st (sets [(R.PORT_PCTL_FASTRELOCK 15, 1), (R.PORT_PCTL_FTXLOCK 15, 1)] (up 15 live))).dev.isOfp p = true) ∧
    ((st ((adm 15 live).set (R.PORT_PCTL_FTXLOCK 15) 1)).dev.applied = true ∧
      (st ((adm 15 live).set (R.PORT_PCTL_FTXLOCK 15) 1)).dev.isOfp (15 : PortNo).val = true ∧
      mayTrain (st ((adm 15 live).set (R.PORT_PCTL_FTXLOCK 15) 1)).dev (15 : PortNo).val = true ∧
      (st ((adm 15 live).set (R.PORT_PCTL_FTXLOCK 15) 1)).dev.on (R.PORT_PCTL_FTXLOCK (15 : PortNo).val) = true) := by
  and_intros <;> decide +kernel

theorem witness_LinkLoss_part3 :
    ((st ((stg 7 15).modLink 15 (fun l => { l with marks := [some mk0] }))).dev.applied = true ∧
      stageOf (st ((stg 7 15).modLink 15 (fun l => { l with marks := [some mk0] }))).dev (15 : PortNo).val = 7 ∧
      allMarks (st ((stg 7 15).modLink 15 (fun l => { l with marks := [some mk0] }))).dev (15 : PortNo).val = some ([mk0] : List Marker) ∧
      ((((st ((stg 7 15).modLink 15 (fun l => { l with marks := [some mk0] }))).dev.link (15 : PortNo).val).peer = 0 ∨ ∀ m ∈ ([mk0] : List Marker), m.sender = ((st ((stg 7 15).modLink 15 (fun l => { l with marks := [some mk0] }))).dev.link (15 : PortNo).val).peer))) ∧
    ((st ((stg 7 15).modLink 15 (fun l => { l with marks := [some mk0], peer := 1 }))).dev.applied = true ∧
      stageOf (st ((stg 7 15).modLink 15 (fun l => { l with marks := [some mk0], peer := 1 }))).dev (15 : PortNo).val = 7 ∧
      allMarks (st ((stg 7 15).modLink 15 (fun l => { l with marks := [some mk0], peer := 1 }))).dev (15 : PortNo).val = some ([mk0] : List Marker) ∧ ((st ((stg 7 15).modLink 15 (fun l => { l with marks := [some mk0], peer := 1 }))).dev.link (15 : PortNo).val).peer ≠ 0 ∧ ((∃ m ∈ ([mk0] : List Marker), m.sender ≠ ((st ((stg 7 15).modLink 15 (fun l => { l with marks := [some mk0], peer := 1 }))).dev.link (15 : PortNo).val).peer))) ∧
    ((st (stg 7 15)).dev.applied = true ∧ stageOf (st (stg 7 15)).dev (15 : PortNo).val = 7) ∧
    ((st live).dev.applied = true ∧ (st live).dev.portDieFitted ((1023 : PortNo).val / 128) = true ∧
      wOn (fw [(R.PORT_RELOCK_CAPTURE 1023, 1)] : CsrW) (R.PORT_RELOCK_CAPTURE (1023 : PortNo).val) = true) := by
  and_intros <;> decide +kernel

theorem witness_PairsAndRetry :
    ((zeros 1280 : List Byte).length = 1280) ∧
    (36 ≤ ([0x10] ++ zeros 35 : List Byte).length ∧ ([0x10] ++ zeros 35 : List Byte).length ≤ 252 ∧
      ([0x10] ++ zeros 35 : List Byte).length % 4 = 0 ∧ 36 + beAt ([0x10] ++ zeros 35 : List Byte) 24 2 = ([0x10] ++ zeros 35 : List Byte).length ∧
      beAt ([0x10] ++ zeros 35 : List Byte) 0 1 ≠ 0) ∧
    ((st (upWith 15 (fun l => { l with nakOut := true }))).dev.applied = true ∧
      (st (upWith 15 (fun l => { l with nakOut := true }))).dev.isPort (15 : PortNo).val = true ∧
      (st (upWith 15 (fun l => { l with nakOut := true }))).dev.isOfp (15 : PortNo).val = true ∧
      (st (upWith 15 (fun l => { l with nakOut := true }))).dev.isUp (15 : PortNo).val = true ∧
      (st (upWith 15 (fun l => { l with nakOut := true }))).dev.nearLoop (15 : PortNo).val = false ∧
      (st (upWith 15 (fun l => { l with nakOut := true }))).dev.get (R.TEST_PORT_LOOP_DEPTH (15 : PortNo).val) ≠ 8 ∧
      pairGood (pair false 0 : Pair) = false ∧ ((st (upWith 15 (fun l => { l with nakOut := true }))).dev.link (15 : PortNo).val).nakOut = true) ∧
    ((st (upWith 15 (fun l => { l with nakOut := false }))).dev.applied = true ∧
      (st (upWith 15 (fun l => { l with nakOut := false }))).dev.isPort (15 : PortNo).val = true ∧
      (st (upWith 15 (fun l => { l with nakOut := false }))).dev.isOfp (15 : PortNo).val = true ∧
      (st (upWith 15 (fun l => { l with nakOut := false }))).dev.isUp (15 : PortNo).val = true ∧
      (st (upWith 15 (fun l => { l with nakOut := false }))).dev.nearLoop (15 : PortNo).val = false ∧
      (st (upWith 15 (fun l => { l with nakOut := false }))).dev.get (R.TEST_PORT_LOOP_DEPTH (15 : PortNo).val) ≠ 8 ∧
      pairGood (pair false 0 : Pair) = false ∧
      ((st (upWith 15 (fun l => { l with nakOut := false }))).dev.link (15 : PortNo).val).nakOut = false) := by
  and_intros <;> decide +kernel

theorem witness_PairsAndRetry_part2 :
    ((st (upWith 15 (fun l => { l with nakOut := true }))).dev.applied = true ∧
      (st (upWith 15 (fun l => { l with nakOut := true }))).dev.isPort (15 : PortNo).val = true ∧
      (st (upWith 15 (fun l => { l with nakOut := true }))).dev.isOfp (15 : PortNo).val = true ∧
      (st (upWith 15 (fun l => { l with nakOut := true }))).dev.isUp (15 : PortNo).val = true ∧
      (st (upWith 15 (fun l => { l with nakOut := true }))).dev.nearLoop (15 : PortNo).val = false ∧
      (st (upWith 15 (fun l => { l with nakOut := true }))).dev.get (R.TEST_PORT_LOOP_DEPTH (15 : PortNo).val) ≠ 8 ∧
      pairGood (pair true 5 : Pair) = true ∧
      ((pairSequenced (pair true 5 : Pair) = false ∨ pairPseq (pair true 5 : Pair) ≠
      ((st (upWith 15 (fun l => { l with nakOut := true }))).dev.link (15 : PortNo).val).rxSeq + 1)) ∧
      (((st (upWith 15 (fun l => { l with nakOut := true }))).dev.link (15 : PortNo).val).nakOut = true ∨ pairAckkind (pair true 5 : Pair) = ackNone)) ∧
    ((st (upWith 15 (fun l => { l with nakOut := false }))).dev.applied = true ∧
      (st (upWith 15 (fun l => { l with nakOut := false }))).dev.isPort (15 : PortNo).val = true ∧
      (st (upWith 15 (fun l => { l with nakOut := false }))).dev.isOfp (15 : PortNo).val = true ∧
      (st (upWith 15 (fun l => { l with nakOut := false }))).dev.isUp (15 : PortNo).val = true ∧
      (st (upWith 15 (fun l => { l with nakOut := false }))).dev.nearLoop (15 : PortNo).val = false ∧
      (st (upWith 15 (fun l => { l with nakOut := false }))).dev.get (R.TEST_PORT_LOOP_DEPTH (15 : PortNo).val) ≠ 8 ∧
      pairGood (⟨true, pairBytes 0 7 1 0 0 []⟩ : Pair) = true ∧
      ((pairSequenced (⟨true, pairBytes 0 7 1 0 0 []⟩ : Pair) = false ∨ pairPseq (⟨true, pairBytes 0 7 1 0 0 []⟩ : Pair) ≠
      ((st (upWith 15 (fun l => { l with nakOut := false }))).dev.link (15 : PortNo).val).rxSeq + 1)) ∧
      ((st (upWith 15 (fun l => { l with nakOut := false }))).dev.link (15 : PortNo).val).nakOut = false ∧
      pairAckkind (⟨true, pairBytes 0 7 1 0 0 []⟩ : Pair) = ackAck) := by
  and_intros <;> decide +kernel

theorem witness_PairsAndRetry_part3 :
    ((st (upWith 15 (fun l => { l with rxSeq := 4095 }))).dev.applied = true ∧
      (st (upWith 15 (fun l => { l with rxSeq := 4095 }))).dev.isPort (15 : PortNo).val = true ∧
      (st (upWith 15 (fun l => { l with rxSeq := 4095 }))).dev.isOfp (15 : PortNo).val = true ∧
      (st (upWith 15 (fun l => { l with rxSeq := 4095 }))).dev.isUp (15 : PortNo).val = true ∧
      (st (upWith 15 (fun l => { l with rxSeq := 4095 }))).dev.nearLoop (15 : PortNo).val = false ∧
      (st (upWith 15 (fun l => { l with rxSeq := 4095 }))).dev.get (R.TEST_PORT_LOOP_DEPTH (15 : PortNo).val) ≠ 8 ∧
      pairGood (pair true 0 : Pair) = true ∧ pairSequenced (pair true 0 : Pair) = true ∧
      pairPseq (pair true 0 : Pair) = ((st (upWith 15 (fun l => { l with rxSeq := 4095 }))).dev.link (15 : PortNo).val).rxSeq + 1 ∧
      pairAckkind (pair true 0 : Pair) = ackNone ∧
      (pairPackets ((st (upWith 15 (fun l => { l with rxSeq := 4095 }))).dev.isJoin (15 : PortNo).val) ((st (upWith 15 (fun l => { l with rxSeq := 4095 }))).dev.link (15 : PortNo).val).part (pair true 0 : Pair)).1 = []) ∧
    ((live.link (15 : PortNo).val).due = []) ∧
    ((st (upWith 0 (fun l => { l with nakOut := true }))).dev.applied = true ∧
      (st (upWith 0 (fun l => { l with nakOut := true }))).dev.isUp (0 : PortNo).val = true ∧
      ((st (upWith 0 (fun l => { l with nakOut := true }))).dev.link (0 : PortNo).val).nakOut = true) ∧
    ((st (upWith 15 (fun l => { l with retry := [⟨1, 0, 0, [], []⟩] }))).dev.applied = true ∧
      (st (upWith 15 (fun l => { l with retry := [⟨1, 0, 0, [], []⟩] }))).dev.isUp (15 : PortNo).val = true ∧
      ((st (upWith 15 (fun l => { l with retry := [⟨1, 0, 0, [], []⟩] }))).dev.link (15 : PortNo).val).retry = ((⟨1, 0, 0, [], []⟩ : RetryPair)) :: (([] : List RetryPair)) ∧ ((st (upWith 15 (fun l => { l with retry := [⟨1, 0, 0, [], []⟩] }))).dev.link (15 : PortNo).val).replays < max 1 ((st (upWith 15 (fun l => { l with retry := [⟨1, 0, 0, [], []⟩] }))).dev.get (R.PORT_LINK_CFG_RMAX 0))) := by
  and_intros <;> decide +kernel

theorem witness_PairsAndRetry_part4 :
    (st ((upWith 15 (fun l => { l with retry := [⟨1, 0, 0, [], []⟩], replays := 3 })).set (R.PORT_LINK_CFG_RMAX 0) 3)).dev.applied = true ∧
      (st ((upWith 15 (fun l => { l with retry := [⟨1, 0, 0, [], []⟩], replays := 3 })).set (R.PORT_LINK_CFG_RMAX 0) 3)).dev.isUp (15 : PortNo).val = true ∧ ((st ((upWith 15 (fun l => { l with retry := [⟨1, 0, 0, [], []⟩], replays := 3 })).set (R.PORT_LINK_CFG_RMAX 0) 3)).dev.link (15 : PortNo).val).retry = ((⟨1, 0, 0, [], []⟩ : RetryPair)) :: (([] : List RetryPair)) ∧ max 1 ((st ((upWith 15 (fun l => { l with retry := [⟨1, 0, 0, [], []⟩], replays := 3 })).set (R.PORT_LINK_CFG_RMAX 0) 3)).dev.get (R.PORT_LINK_CFG_RMAX 0)) ≤ ((st ((upWith 15 (fun l => { l with retry := [⟨1, 0, 0, [], []⟩], replays := 3 })).set (R.PORT_LINK_CFG_RMAX 0) 3)).dev.link (15 : PortNo).val).replays :=
  by decide +kernel

theorem witness_PortControls :
    ((st live).dev.running = true ∧ (st live).dev.portDieFitted ((15 : PortNo).val / 128) = true ∧
      (st live).dev.get (R.PORT_PCTL_ADMIN (15 : PortNo).val) = 0) ∧
    ((st (adm 15 live)).dev.running = true ∧ (st (adm 15 live)).dev.portDieFitted ((15 : PortNo).val / 128) = true ∧
      (st (adm 15 live)).dev.get (R.PORT_PCTL_ADMIN (15 : PortNo).val) = 1 ∧
      wBits (fw [(R.TEST_PORT_LOOP_DEPTH 15, 8)] : CsrW) (R.TEST_PORT_LOOP_DEPTH (15 : PortNo).val) ≠
      (st (adm 15 live)).dev.get (R.TEST_PORT_LOOP_DEPTH (15 : PortNo).val)) ∧
    ((st live).dev.applied = true ∧ (st live).dev.portDieFitted ((15 : PortNo).val / 128) = true ∧ (st live).dev.isPort (15 : PortNo).val = true ∧
      wOn (fw [(R.PORT_PCTL_ADMIN 15, 1), (R.PORT_PCTL_TSEN 15, 1)] : CsrW) (R.PORT_PCTL_TSEN (15 : PortNo).val) = true ∧
      (st live).dev.on (R.PORT_PCTL_ADMIN (15 : PortNo).val) = false ∧
      wOn (fw [(R.PORT_PCTL_ADMIN 15, 1), (R.PORT_PCTL_TSEN 15, 1)] : CsrW) (R.PORT_PCTL_ADMIN (15 : PortNo).val) = true) ∧
    ((st live).dev.applied = true ∧ (st live).dev.portDieFitted ((15 : PortNo).val / 128) = true ∧ (st live).dev.isPort (15 : PortNo).val = true ∧
      wOn (fw [(R.PORT_PCTL_TSEN 15, 1)] : CsrW) (R.PORT_PCTL_TSEN (15 : PortNo).val) = true ∧
      (st live).dev.on (R.PORT_PCTL_ADMIN (15 : PortNo).val) = wOn (fw [(R.PORT_PCTL_TSEN 15, 1)] : CsrW) (R.PORT_PCTL_ADMIN (15 : PortNo).val)) ∧
    ((st (adm 15 live)).dev.applied = true ∧ (st (adm 15 live)).dev.portDieFitted ((15 : PortNo).val / 128) = true ∧
      (st (adm 15 live)).dev.isPort (15 : PortNo).val = true ∧
      wOn (fw [(R.PORT_PCTL_TSEN 15, 1)] : CsrW) (R.PORT_PCTL_TSEN (15 : PortNo).val) = true ∧
      (st (adm 15 live)).dev.on (R.PORT_PCTL_ADMIN (15 : PortNo).val) = true ∧
      wOn (fw [(R.PORT_PCTL_TSEN 15, 1)] : CsrW) (R.PORT_PCTL_ADMIN (15 : PortNo).val) = false) ∧
    ((st live).dev.applied = true ∧ (st live).dev.portDieFitted ((0 : GroupNo).val / 8) = true ∧
      shiftBad (st live).dev (0 : GroupNo).val (w 3 : CsrW).val.toNat = true) ∧
    ((st live).dev.applied = true ∧ (st live).dev.portDieFitted ((63 : GroupNo).val / 8) = true ∧
      shiftBad (st live).dev (63 : GroupNo).val (w 0 : CsrW).val.toNat = false) ∧
    ((st live).dev.running = true ∧ (st live).dev.portDieFitted ((1151 : PhysLane).val / 144) = true ∧
      posFailed (st live).dev (8 * ((1151 : PhysLane).val / 144) + (1151 : PhysLane).val % 144 / 18) ((1151 : PhysLane).val % 18) = false) ∧
    (live.on R.TEST_SPARE_CFG_LANEAUTO = false ∧ failedCount live (63 : Nat) < 3) ∧
    ((15 : Nat) ∈ ((adm 15 live).wr (R.TEST_LANE_FAIL 0) 0x8000).lanesOf (15 : Nat) ∧
      unserved ((adm 15 live).wr (R.TEST_LANE_FAIL 0) 0x8000) (15 : Nat) = true) ∧
    ((st live).dev.running = true ∧ (st live).dev.portDieFitted ((63 : GroupNo).val / 8) = true) := by
  and_intros <;> decide +kernel

theorem witness_PortControls_part2 :
    ((st live).dev.applied = true ∧ macControl ([] : List Byte) 0x0101 = false) ∧
    ((st (live.set (R.TEST_PORT_LOOP_DEPTH 16) 9)).dev.applied = true ∧ macControl (pfcFrame 7 1 : List Byte) 0x0101 = true ∧
      (st (live.set (R.TEST_PORT_LOOP_DEPTH 16) 9)).dev.isPort (16 : PortNo).val = true ∧
      (st (live.set (R.TEST_PORT_LOOP_DEPTH 16) 9)).dev.farLoop (16 : PortNo).val = true) ∧
    ((st (up 16 live)).dev.applied = true ∧ macControl ((pfcFrame 7 1).set 30 1 : List Byte) 0x0101 = true ∧
      (st (up 16 live)).dev.farLoop (16 : PortNo).val = false ∧ (st (up 16 live)).dev.nearLoop (16 : PortNo).val = false ∧
      (st (up 16 live)).dev.isEth (16 : PortNo).val = true ∧ (st (up 16 live)).dev.isUp (16 : PortNo).val = true ∧
      crcRun crcStart ((pfcFrame 7 1).set 30 1 : List Byte) ≠ crcGood) ∧
    ((st (up 16 live)).dev.applied = true ∧ macControl (pfcFrame 7 1 : List Byte) 0x0101 = true ∧
      (st (up 16 live)).dev.farLoop (16 : PortNo).val = false ∧ (st (up 16 live)).dev.nearLoop (16 : PortNo).val = false ∧
      (st (up 16 live)).dev.isEth (16 : PortNo).val = true ∧ (st (up 16 live)).dev.isUp (16 : PortNo).val = true ∧
      crcRun crcStart (pfcFrame 7 1 : List Byte) = crcGood ∧ pfcTimes (pfcFrame 7 1 : List Byte) = [((7 : TC), (1 : Nat))] ∧
      pfcEnabled (st (up 16 live)).dev (16 : PortNo).val (7 : TC).val = false) ∧
    ((st (sets [(R.PORT_PCTL_PFC 16, 1), (R.PORT_PFC_CFG_PRIMASK 0, 0x80)] (up 16 live))).dev.applied = true ∧
      macControl (pfcFrame 7 65535 : List Byte) 0x0101 = true ∧
      (st (sets [(R.PORT_PCTL_PFC 16, 1), (R.PORT_PFC_CFG_PRIMASK 0, 0x80)] (up 16 live))).dev.farLoop (16 : PortNo).val = false ∧
      (st (sets [(R.PORT_PCTL_PFC 16, 1), (R.PORT_PFC_CFG_PRIMASK 0, 0x80)] (up 16 live))).dev.nearLoop (16 : PortNo).val = false ∧
      (st (sets [(R.PORT_PCTL_PFC 16, 1), (R.PORT_PFC_CFG_PRIMASK 0, 0x80)] (up 16 live))).dev.isEth (16 : PortNo).val = true ∧
      (st (sets [(R.PORT_PCTL_PFC 16, 1), (R.PORT_PFC_CFG_PRIMASK 0, 0x80)] (up 16 live))).dev.isUp (16 : PortNo).val = true ∧
      crcRun crcStart (pfcFrame 7 65535 : List Byte) = crcGood ∧ pfcTimes (pfcFrame 7 65535 : List Byte) = [((7 : TC), (65535 : Nat))] ∧
      pfcEnabled (st (sets [(R.PORT_PCTL_PFC 16, 1), (R.PORT_PFC_CFG_PRIMASK 0, 0x80)] (up 16 live))).dev (16 : PortNo).val (7 : TC).val = true ∧
      (65535 : Nat) ≠ 0) := by
  and_intros <;> decide +kernel

theorem witness_PortControls_part3 :
    ((st (sets [(R.PORT_PCTL_PFC 16, 1), (R.PORT_PFC_CFG_PRIMASK 0, 0x80)] (up 16 live))).dev.applied = true ∧
      macControl (pfcFrame 7 0 : List Byte) 0x0101 = true ∧
      (st (sets [(R.PORT_PCTL_PFC 16, 1), (R.PORT_PFC_CFG_PRIMASK 0, 0x80)] (up 16 live))).dev.farLoop (16 : PortNo).val = false ∧
      (st (sets [(R.PORT_PCTL_PFC 16, 1), (R.PORT_PFC_CFG_PRIMASK 0, 0x80)] (up 16 live))).dev.nearLoop (16 : PortNo).val = false ∧
      (st (sets [(R.PORT_PCTL_PFC 16, 1), (R.PORT_PFC_CFG_PRIMASK 0, 0x80)] (up 16 live))).dev.isEth (16 : PortNo).val = true ∧
      (st (sets [(R.PORT_PCTL_PFC 16, 1), (R.PORT_PFC_CFG_PRIMASK 0, 0x80)] (up 16 live))).dev.isUp (16 : PortNo).val = true ∧
      crcRun crcStart (pfcFrame 7 0 : List Byte) = crcGood ∧ pfcTimes (pfcFrame 7 0 : List Byte) = [((7 : TC), (0 : Nat))] ∧
      pfcEnabled (st (sets [(R.PORT_PCTL_PFC 16, 1), (R.PORT_PFC_CFG_PRIMASK 0, 0x80)] (up 16 live))).dev (16 : PortNo).val (7 : TC).val = true ∧
      (0 : Nat) = 0) ∧
    ((st live).dev.applied = true) ∧
    ((st (upWith 0 (fun l => { l with xoff := 0x80 }))).dev.applied = true ∧
      (st (upWith 0 (fun l => { l with xoff := 0x80 }))).dev.isUp (0 : PortNo).val = true ∧
      ((st (upWith 0 (fun l => { l with xoff := 0x80 }))).dev.link (0 : PortNo).val).xoffOf (7 : TC).val = true) ∧
    ((st (up 16 live)).dev.applied = true ∧ (st (up 16 live)).dev.isUp (16 : PortNo).val = true ∧
      ((st (up 16 live)).dev.link (16 : PortNo).val).xoffOf (7 : TC).val = false) := by
  and_intros <;> decide +kernel

theorem witness_SteeringLegal :
    ((14 : Nat) + 1 < 16) ∧
    ((15 : Nat) < 16 ∧ ((autoShifts (fun k => k == 0 || k == 9) 16 0 0 0).getD 15 (0, true)).2 = false) := by
  and_intros <;> decide +kernel

theorem witness_SteeringLegal_more1 :
    (∀ k, k < 18 → (fun _ : Nat => false) k = false) ∧ (2, false).2 = false ∧ (autoShifts (fun _ => false) 16 0 0 0).length = 16 :=
  ⟨fun _ _ => rfl, rfl, by decide +kernel⟩

theorem witness_Packets :
    ((st (live.set (R.TEST_PORT_LOOP_DEPTH 15) 4)).dev.applied = true ∧
      (st (live.set (R.TEST_PORT_LOOP_DEPTH 15) 4)).dev.nearLoop (15 : PortNo).val = true) ∧
    ((st (live.set (R.TEST_PORT_LOOP_DEPTH 15) 9)).dev.applied = true ∧
      (st (live.set (R.TEST_PORT_LOOP_DEPTH 15) 9)).dev.nearLoop (15 : PortNo).val = false ∧
      (st (live.set (R.TEST_PORT_LOOP_DEPTH 15) 9)).dev.farLoop (15 : PortNo).val = true ∧
      (st (live.set (R.TEST_PORT_LOOP_DEPTH 15) 9)).dev.isPort (15 : PortNo).val = true ∧ (fr [1] : RxFrame).early = false) ∧
    ((st (live.set (R.TEST_PORT_LOOP_DEPTH 16) 9)).dev.applied = true ∧
      (st (live.set (R.TEST_PORT_LOOP_DEPTH 16) 9)).dev.nearLoop (16 : PortNo).val = false ∧
      (st (live.set (R.TEST_PORT_LOOP_DEPTH 16) 9)).dev.farLoop (16 : PortNo).val = true ∧
      (st (live.set (R.TEST_PORT_LOOP_DEPTH 16) 9)).dev.isPort (16 : PortNo).val = true ∧ (fr [1] : RxFrame).early = false ∧
      (st (live.set (R.TEST_PORT_LOOP_DEPTH 16) 9)).dev.isOfp (16 : PortNo).val = false) ∧
    ((st live).dev.applied = true ∧ (st live).dev.farLoop (15 : PortNo).val = false ∧ (st live).dev.isUp (15 : PortNo).val = false) ∧
    ((st (upWith 15 (fun l => { l with granted := [1] }))).dev.applied = true ∧
      (st (upWith 15 (fun l => { l with granted := [1] }))).dev.isPort (15 : PortNo).val = true ∧
      (st (upWith 15 (fun l => { l with granted := [1] }))).dev.isUp (15 : PortNo).val = true ∧
      (st (upWith 15 (fun l => { l with granted := [1] }))).dev.role (15 : PortNo).val = 1 ∧ (fr (zeros 36) : RxFrame).early = false ∧
      (st (upWith 15 (fun l => { l with granted := [1] }))).dev.nearLoop (15 : PortNo).val = false ∧
      (st (upWith 15 (fun l => { l with granted := [1] }))).dev.farLoop (15 : PortNo).val = false ∧
      inL4 (st (upWith 15 (fun l => { l with granted := [1] }))).dev (15 : PortNo).val = false ∧
      consumedInPort (st (upWith 15 (fun l => { l with granted := [1] }))).dev (15 : PortNo).val (fr (zeros 36) : RxFrame).bytes = false ∧
      rxOfp (st (upWith 15 (fun l => { l with granted := [1] }))).dev (15 : PortNo).val (fr (zeros 36) : RxFrame).bytes = true ∧
      (rxCredits (st (upWith 15 (fun l => { l with granted := [1] }))).dev (15 : PortNo).val (fr (zeros 36) : RxFrame).bytes).2 ≤ ((st (upWith 15 (fun l => { l with granted := [1] }))).dev.link (15 : PortNo).val).granted.getD (rxCredits (st (upWith 15 (fun l => { l with granted := [1] }))).dev (15 : PortNo).val (fr (zeros 36) : RxFrame).bytes).1.toNat 0 ∧ rxUse ((st (upWith 15 (fun l => { l with granted := [1] }))).dev.link (15 : PortNo).val) + (fr (zeros 36) : RxFrame).bytes.length ≤ 16384) := by
  and_intros <;> decide +kernel

theorem witness_Packets_part2 :
    ((st (upWith 0 (fun l => { l with rx := [fr [1]] }))).dev.applied = true ∧
      (st (upWith 0 (fun l => { l with rx := [fr [1]] }))).dev.dieState ((0 : PortNo).val / 128 + 2) ≠ 3 ∧
      ((st (upWith 0 (fun l => { l with rx := [fr [1]] }))).dev.link (0 : PortNo).val).rx = (fr [1] : RxFrame) :: ([] : List RxFrame)) ∧
    ((st live).dev.dieState ((0 : PortNo).val / 128 + 2) = 3 ∨ ((st live).dev.link (0 : PortNo).val).rx = []) ∧
    (live.isJoin (48 : PortNo).val = true ∧ tagBad live (fr [] : RxFrame).bytes = true) ∧
    ((st live).dev.applied = true ∧ (st live).dev.links = [] ∧ findPkt (0 : Nat) (st live).dev = none) ∧
    ((st { live with cist := { live.cist with toCores := [(2, { pk with whole := false })] } }).dev.applied = true ∧
      (st { live with cist := { live.cist with toCores := [(2, { pk with whole := false })] } }).dev.links = [] ∧
      findPkt (0 : Nat) (st { live with cist := { live.cist with toCores := [(2, { pk with whole := false })] } }).dev = some ((.cores 2 : Where), ({ pk with whole := false } : Pkt)) ∧ ({ pk with whole := false } : Pkt).ether = false) ∧
    ((st { live with links := [(16, { Link.init with tx := some ({ pk with ether := true, inPort := some 17 }, []) })] }).dev.applied = true ∧
      (st { live with links := [(16, { Link.init with tx := some ({ pk with ether := true, inPort := some 17 }, []) })] }).dev.links = [((16 : PortNo).val, ({ Link.init with tx := some ({ pk with ether := true, inPort := some 17 }, []) } : Link))] ∧ ({ Link.init with tx := some ({ pk with ether := true, inPort := some 17 }, []) } : Link).tx = some (({ pk with ether := true, inPort := some 17 } : Pkt), ([] : List Byte)) ∧ ({ pk with ether := true, inPort := some 17 } : Pkt).ether = true ∧ ({ pk with ether := true, inPort := some 17 } : Pkt).inPort = some (17 : PortNo)) ∧
    ((st live).dev.applied = true ∧ (st live).dev.cist.built = [] ∧ (st live).dev.basin.status = [] ∧ (st live).dev.cist.fenceAcks = []) ∧
    ((st { live with cist := { live.cist with built := [⟨1, none, tpk⟩] } }).dev.applied = true ∧
      (st { live with cist := { live.cist with built := [⟨1, none, tpk⟩] } }).dev.cist.built = [(⟨1, none, tpk⟩ : Built)] ∧
      (st { live with cist := { live.cist with built := [⟨1, none, tpk⟩] } }).dev.basin.status = [] ∧
      (st { live with cist := { live.cist with built := [⟨1, none, tpk⟩] } }).dev.cist.fenceAcks = [] ∧ (⟨1, none, tpk⟩ : Built).engine ≠ 3 ∧
      (⟨1, none, tpk⟩ : Built).engine ≠ 6 ∧
      (offerBuilt (⟨1, none, tpk⟩ : Built).pkt (⟨1, none, tpk⟩ : Built).route (st { live with cist := { live.cist with built := [⟨1, none, tpk⟩] } }).dev).1 = false) := by
  and_intros <;> decide +kernel

theorem witness_Packets_part3 :
    ((st { roomy with cist := { roomy.cist with built := [⟨1, none, tpk⟩] } }).dev.applied = true ∧
      (st { roomy with cist := { roomy.cist with built := [⟨1, none, tpk⟩] } }).dev.cist.built = [(⟨1, none, tpk⟩ : Built)] ∧
      (st { roomy with cist := { roomy.cist with built := [⟨1, none, tpk⟩] } }).dev.basin.status = [] ∧
      (st { roomy with cist := { roomy.cist with built := [⟨1, none, tpk⟩] } }).dev.cist.fenceAcks = [] ∧ (⟨1, none, tpk⟩ : Built).engine ≠ 3 ∧
      (⟨1, none, tpk⟩ : Built).engine ≠ 6 ∧
      (offerBuilt (⟨1, none, tpk⟩ : Built).pkt (⟨1, none, tpk⟩ : Built).route (st { roomy with cist := { roomy.cist with built := [⟨1, none, tpk⟩] } }).dev).1 = true ∧ (offerBuilt (⟨1, none, tpk⟩ : Built).pkt (⟨1, none, tpk⟩ : Built).route (st { roomy with cist := { roomy.cist with built := [⟨1, none, tpk⟩] } }).dev).2.basin.status = [] ∧ (offerBuilt (⟨1, none, tpk⟩ : Built).pkt (⟨1, none, tpk⟩ : Built).route (st { roomy with cist := { roomy.cist with built := [⟨1, none, tpk⟩] } }).dev).2.cist.fenceAcks = []) ∧
    ((st { live with basin := { live.basin with status := [tpk] } }).dev.applied = true ∧
      (st { live with basin := { live.basin with status := [tpk] } }).dev.cist.built = [] ∧
      (st { live with basin := { live.basin with status := [tpk] } }).dev.cist.fenceAcks = [] ∧
      (st { live with basin := { live.basin with status := [tpk] } }).dev.basin.status = (tpk : Pkt) :: ([] : List Pkt) ∧
      (offerBuilt (tpk : Pkt) none { (st { live with basin := { live.basin with status := [tpk] } }).dev with basin := { (st { live with basin := { live.basin with status := [tpk] } }).dev.basin with status := ([] : List Pkt) } }).1 = false) ∧
    ((st live).dev.applied = true) ∧
    (({ live with cist := { live.cist with built := [⟨7, none, tpk⟩] } }).cist.built.any (fun b => b.engine == 7) = true) ∧
    (live.cist.built.any (fun b => b.engine == 7) = false) := by
  and_intros <;> decide +kernel

theorem witness_TableRecords :
    ((st (tblDev [] 1)).dev.applied = true ∧ (st (tblDev [] 1)).dev.tables.batchLen ≠ 0 ∧
      (st (tblDev [] 1)).dev.ringAt tblRing (st (tblDev [] 1)).dev.tables.batchDone = some (zeros 64 : List Byte) ∧
      ((recOp (zeros 64 : List Byte) = 0 ∨ 3 < recOp (zeros 64 : List Byte)))) ∧
    ((st (tblDev [(0, 0x16)] 1)).dev.applied = true ∧ (st (tblDev [(0, 0x16)] 1)).dev.tables.batchLen ≠ 0 ∧
      (st (tblDev [(0, 0x16)] 1)).dev.ringAt tblRing (st (tblDev [(0, 0x16)] 1)).dev.tables.batchDone = some (rec2 0x16 0 : List Byte) ∧
      recOp (rec2 0x16 0 : List Byte) = 1) ∧
    ((st (tblDev [(0, 0x26)] 1)).dev.applied = true ∧ (st (tblDev [(0, 0x26)] 1)).dev.tables.batchLen ≠ 0 ∧
      (st (tblDev [(0, 0x26)] 1)).dev.ringAt tblRing (st (tblDev [(0, 0x26)] 1)).dev.tables.batchDone = some (rec2 0x26 0 : List Byte) ∧
      recOp (rec2 0x26 0 : List Byte) = 2) ∧
    ((st (tblDev [(0, 0x36)] 1)).dev.applied = true ∧ (st (tblDev [(0, 0x36)] 1)).dev.tables.batchLen ≠ 0 ∧
      (st (tblDev [(0, 0x36)] 1)).dev.ringAt tblRing (st (tblDev [(0, 0x36)] 1)).dev.tables.batchDone = some (rec2 0x36 0 : List Byte) ∧
      recOp (rec2 0x36 0 : List Byte) = 3) ∧
    (recBad (rec2 0x40 0 : List Byte) = true) ∧
    (recBad (rec2 0x07 0 : List Byte) = false ∧ recOp (rec2 0x07 0 : List Byte) = 0) ∧
    (recBad (rec2 0x16 0 : List Byte) = false ∧ recOp (rec2 0x16 0 : List Byte) = 1 ∧
      ((keyed (recTable (rec2 0x16 0 : List Byte)) =
      false ∨ insertRoom live (recTable (rec2 0x16 0 : List Byte)) (recKey (rec2 0x16 0 : List Byte)) = true))) ∧
    (recBad (rec2 0x13 0 : List Byte) = false ∧ recOp (rec2 0x13 0 : List Byte) = 1 ∧ keyed (recTable (rec2 0x13 0 : List Byte)) = true ∧
      insertRoom live (recTable (rec2 0x13 0 : List Byte)) (recKey (rec2 0x13 0 : List Byte)) = false) ∧
    (recBad (rec2 0x25 0 : List Byte) = false ∧ recOp (rec2 0x25 0 : List Byte) = 2 ∧ keyed (recTable (rec2 0x25 0 : List Byte)) = true ∧
      pendingEntry live (recTable (rec2 0x25 0 : List Byte)) (recKey (rec2 0x25 0 : List Byte)) = none) ∧
    (recBad (rec2 0x27 0 : List Byte) = false ∧ recOp (rec2 0x27 0 : List Byte) = 2 ∧
      ((keyed (recTable (rec2 0x27 0 : List Byte)) =
      false ∨ pendingEntry live (recTable (rec2 0x27 0 : List Byte)) (recKey (rec2 0x27 0 : List Byte)) ≠ none))) ∧
    (recBad (rec2 0x37 0 : List Byte) = false ∧ recOp (rec2 0x37 0 : List Byte) = 3 ∧ recTable (rec2 0x37 0 : List Byte) ≠ 5 ∧
      (setEntry 7 0 ent live).entry (recTable (rec2 0x37 0 : List Byte)) (recKey (rec2 0x37 0 : List Byte)) = some (ent : TblEntry)) ∧
    (recBad (rec2 0x35 0 : List Byte) = false ∧ recOp (rec2 0x35 0 : List Byte) = 3 ∧ recTable (rec2 0x35 0 : List Byte) = 5 ∧
      (setEntry 5 (recKey (rec2 0x35 0)) ent live).entry 5 (recKey (rec2 0x35 0 : List Byte)) = some (ent : TblEntry)) := by
  and_intros <;> decide +kernel

theorem witness_TableRecords_part2 :
    (recBad (rec2 0x35 0 : List Byte) = false ∧ recOp (rec2 0x35 0 : List Byte) = 3 ∧ keyed (recTable (rec2 0x35 0 : List Byte)) = true ∧
      live.entry (recTable (rec2 0x35 0 : List Byte)) (recKey (rec2 0x35 0 : List Byte)) = none) ∧
    (({ tblDev [(1, 1)] 0 with tables := { Tables.init with spent := 1023 } }).tables.batchLen = 0 ∧
      batchAtHead ({ tblDev [(1, 1)] 0 with tables := { Tables.init with spent := 1023 } }) = some ([rec2 0 1] : List (List Byte)) ∧
      batchCost ([rec2 0 1] : List (List Byte)) ≤ 1024 ∧
      ({ tblDev [(1, 1)] 0 with tables := { Tables.init with spent := 1023 } }).tables.spent + batchCost ([rec2 0 1] : List (List Byte)) ≤ 1024) ∧
    (({ tblDev [(1, 1)] 0 with tables := { Tables.init with spent := 1024 } }).tables.batchLen = 0 ∧
      batchAtHead ({ tblDev [(1, 1)] 0 with tables := { Tables.init with spent := 1024 } }) = some ([rec2 0 1] : List (List Byte)) ∧
      batchCost ([rec2 0 1] : List (List Byte)) ≤ 1024 ∧
      1024 < ({ tblDev [(1, 1)] 0 with tables := { Tables.init with spent := 1024 } }).tables.spent + batchCost ([rec2 0 1] : List (List Byte))) ∧
    ((st (tblDev [(1, 1)] 0)).dev.applied = true ∧ (st (tblDev [(1, 1)] 0)).dev.tables.batchLen = 0 ∧
      batchAtHead (st (tblDev [(1, 1)] 0)).dev = some ([rec2 0 1] : List (List Byte)) ∧ batchCost ([rec2 0 1] : List (List Byte)) ≤ 1024) ∧
    (live.tables.vis.length = 8) ∧
    (learning.entry 5 (macKey (0 : Nat) (0 : Nat)) = none ∧
      (live.set (R.FWD_PORT_CFG_LEARN 1023) 1).on (R.FWD_PORT_CFG_LEARN (1023 : Nat)) = true ∧ (learning.vlan (0 : Nat)).learn = true) ∧
    (((st live).dev.get R.FWD_AGE_CFG_QUANT = 0 ∨ (st live).dev.tables.ageDue = false)) ∧
    ((st { live.set R.FWD_AGE_CFG_QUANT 1 with tables := { live.tables with ageDue := true } }).dev.applied = true ∧
      (st { live.set R.FWD_AGE_CFG_QUANT 1 with tables := { live.tables with ageDue := true } }).dev.boot.turnsBegun = true ∧
      (st { live.set R.FWD_AGE_CFG_QUANT 1 with tables := { live.tables with ageDue := true } }).dev.tables.ageDue = true ∧
      (st { live.set R.FWD_AGE_CFG_QUANT 1 with tables := { live.tables with ageDue := true } }).dev.get R.FWD_AGE_CFG_QUANT = (1 : Nat) ∧
      0 < (1 : Nat) ∧ (st { live.set R.FWD_AGE_CFG_QUANT 1 with tables := { live.tables with ageDue := true } }).dev.tbl 5 = []) ∧
    ((live.set R.FWD_AGE_CFG_QUANT 1).get R.FWD_AGE_CFG_QUANT ≠ 0 ∧ (live.set R.FWD_AGE_CFG_QUANT 1).tables.ageDue = false) := by
  and_intros <;> decide +kernel

theorem witness_TableRecords_more1 :
    costly.applied = true ∧ costly.tables.batchLen = 0 ∧ ∃ b : List (List Byte), batchAtHead costly = some b ∧ 1024 < batchCost b :=
  ⟨by decide +kernel, by decide +kernel, costly_batch⟩

theorem witness_TableRecords_more2 :
    (st agedDue).dev.applied = true ∧ (st agedDue).dev.boot.turnsBegun = true ∧ (st agedDue).dev.tables.ageDue = true ∧
      (st agedDue).dev.get R.FWD_AGE_CFG_QUANT = (1 : Nat) ∧ (st agedDue).dev.tbl 5 = [((0 : Nat), (ent : TblEntry))] ∧
      (ent : TblEntry).static_ = false ∧ (Config.macIndex (0 : Nat) + 262144 - (st agedDue).dev.tables.agePos) % 262144 < (1 : Nat) :=
  by
  rw [st_dev]
  exact ⟨by decide +kernel, by decide +kernel, by decide +kernel, by decide +kernel, by decide +kernel, rfl, agedDue_reach⟩

theorem witness_Headgate :
    (refusal (big : Pkt) (none : Option Nat) false admits = none) ∧
    (refusal ({ big with job := some 0 } : Pkt) (none : Option Nat) false admits = none ∧ ({ big with job := some 0 } : Pkt).job = some (0)) ∧
    (refusal ({ big with acct := some 1023 } : Pkt) (none : Option Nat) false admits = none ∧
      ({ big with acct := some 1023 } : Pkt).acct = some (1023)) ∧
    (refusal ({ big with lossless := false } : Pkt) (some 0 : Option Nat) false admits = none ∧ (some 0 : Option Nat) = some (0) ∧
      ({ big with lossless := false } : Pkt).lossless = false) ∧
    (({ big with job := some 1, cells := 1 } : Pkt).job = some (1 : JobIdx) ∧
      within (admits.get (R.CIST_JUSE_CELLS (1 : JobIdx).val)) ({ big with job := some 1, cells := 1 } : Pkt).cells (admits.get (R.CIST_JQUOTA_PAGES (1 : JobIdx).val)) = false) := by
  and_intros <;> decide +kernel

theorem witness_Spilling :
    (pageReady (st live).dev (8191 : UniQueue).val ((st live).dev.uq (8191 : UniQueue).val) = false) ∧
    ((st (spillDev [])).dev.applied = true ∧
      pageReady (st (spillDev [])).dev (8191 : UniQueue).val ((st (spillDev [])).dev.uq (8191 : UniQueue).val) = true ∧
      spillFull (st (spillDev [])).dev = true) ∧
    ((st { spillDev [(0, 1)] with cist := { (spillDev [(0, 1)]).cist with wleft := 0 } }).dev.applied = true ∧
      pageReady (st { spillDev [(0, 1)] with cist := { (spillDev [(0, 1)]).cist with wleft := 0 } }).dev (8191 : UniQueue).val ((st { spillDev [(0, 1)] with cist := { (spillDev [(0, 1)]).cist with wleft := 0 } }).dev.uq (8191 : UniQueue).val) = true ∧ spillFull (st { spillDev [(0, 1)] with cist := { (spillDev [(0, 1)]).cist with wleft := 0 } }).dev = false ∧ ((nextSpill (st { spillDev [(0, 1)] with cist := { (spillDev [(0, 1)]).cist with wleft := 0 } }).dev ≠ some (8191 : UniQueue).val ∨ (st { spillDev [(0, 1)] with cist := { (spillDev [(0, 1)]).cist with wleft := 0 } }).dev.cist.wleft = 0))) ∧
    ((st (spillDev [(0, 1)])).dev.applied = true ∧
      pageReady (st (spillDev [(0, 1)])).dev (8191 : UniQueue).val ((st (spillDev [(0, 1)])).dev.uq (8191 : UniQueue).val) = true ∧
      (st (spillDev [(0, 1)])).dev.get R.RES_SPILL_STAT_USED + 1 < spillSlots (st (spillDev [(0, 1)])).dev ∧
      nextSpill (st (spillDev [(0, 1)])).dev = some (8191 : UniQueue).val ∧ (st (spillDev [(0, 1)])).dev.cist.wleft ≠ 0 ∧
      (st (spillDev [(0, 1)])).dev.pages (8191 : UniQueue).val + 1 < 2 ^ (R.CIST_QSPILL_PAGES (8191 : UniQueue).val).w) ∧
    ((st { spillDev [] with cist := { (spillDev []).cist with raised := [8191] } }).dev.applied = true ∧
      (st { spillDev [] with cist := { (spillDev []).cist with raised := [8191] } }).dev.cist.raised.head? = some (8191 : UniQueue).val ∧
      (st { spillDev [] with cist := { (spillDev []).cist with raised := [8191] } }).dev.cist.rleft ≠ 0 ∧
      64 ≤ (st { spillDev [] with cist := { (spillDev []).cist with raised := [8191] } }).dev.cist.free) ∧
    ((st live).dev.applied = true ∧
      (((st live).dev.cist.raised.head? ≠ some (8191 : UniQueue).val ∨ (st live).dev.cist.rleft = 0 ∨ (st live).dev.cist.free < 64))) := by
  and_intros <;> decide +kernel

theorem witness_Spilling_part2 :
    ((st { sets [(R.CIST_QSPILL_PAGES 8191, 2)] (inQ 8191 { UQueue.init with prefetch := 1, spilling := true } live) with boot := { live.boot with parts := [(0, 1)] } }).dev.applied = true ∧ ((st { sets [(R.CIST_QSPILL_PAGES 8191, 2)] (inQ 8191 { UQueue.init with prefetch := 1, spilling := true } live) with boot := { live.boot with parts := [(0, 1)] } }).dev.uq (8191 : UniQueue).val).prefetch ≠ 0 ∧ 1 < (st { sets [(R.CIST_QSPILL_PAGES 8191, 2)] (inQ 8191 { UQueue.init with prefetch := 1, spilling := true } live) with boot := { live.boot with parts := [(0, 1)] } }).dev.pages (8191 : UniQueue).val ∧ spillFull (st { sets [(R.CIST_QSPILL_PAGES 8191, 2)] (inQ 8191 { UQueue.init with prefetch := 1, spilling := true } live) with boot := { live.boot with parts := [(0, 1)] } }).dev = false) ∧
    ((((st live).dev.uq (8191 : UniQueue).val).prefetch = 0 ∨ (st live).dev.pages (8191 : UniQueue).val = 0)) ∧
    ((quotaHit : RegHit).reg.base = R.CIST_JQUOTA 0 ∧ (quotaHit : RegHit).ix = [(4095 : Nat)] ∧
      live.get (R.CIST_JUSE_CELLS (4095 : Nat)) ≤ 64 * live.get (R.CIST_JQUOTA_PAGES (4095 : Nat))) ∧
    ((quotaHit : RegHit).reg.base = R.CIST_JQUOTA 0 ∧ (quotaHit : RegHit).ix = [(4095 : Nat)] ∧
      (live.set (R.CIST_JUSE_CELLS 4095) 1).get (R.CIST_JQUOTA_PAGES (4095 : Nat)) ≠ 0x1FFFFFF ∧
      64 * (live.set (R.CIST_JUSE_CELLS 4095) 1).get (R.CIST_JQUOTA_PAGES (4095 : Nat)) <
      (live.set (R.CIST_JUSE_CELLS 4095) 1).get (R.CIST_JUSE_CELLS (4095 : Nat))) := by
  and_intros <;> decide +kernel

theorem witness_Spilling_more1 :
    live.running = true ∧ ∃ h : RegHit, findReg (BitVec.ofNat 32 (R.CIST_JQUOTA 4095) : Word).toNat = some h ∧
      quotaBases.contains h.reg.base = true ∧ live.unitFitted h = true :=
  ⟨by decide +kernel, _, rfl, by decide +kernel, by decide +kernel⟩

theorem witness_StrictPriority :
    pickTc (live.set (R.QUE_TC_CFG_STRICT 0 7) 1) (0 : Nat) ([7] : List Nat) (live.schedOf 0 : Sched) =
      some ((7 : Nat), (live.schedOf 0 : Sched)) ∧ ((7 : Nat) ∈ ([7] : List Nat) ∧
      ∀ c ∈ ([7] : List Nat), (live.set (R.QUE_TC_CFG_STRICT 0 7) 1).on (R.QUE_TC_CFG_STRICT (0 : Nat) c) = true) :=
  by decide +kernel

theorem witness_QueueService :
    (let x := freshTokens (st qdev).dev (0 : PortNo).val ((st qdev).dev.schedOf (0 : PortNo).val);
      let d := if waitsForCredit (st qdev).dev (0 : PortNo).val x then (st qdev).dev.modLink (0 : PortNo).val (fun l => { l with waited := true }) else (st qdev).dev; let heads := (List.range 8).map (fun tc₀ => eligibleHeads d (0 : PortNo).val tc₀ x); (st qdev).dev.applied = true ∧ inL4 (st qdev).dev (0 : PortNo).val = false ∧ (st qdev).dev.isPort (0 : PortNo).val = true ∧ ((st qdev).dev.link (0 : PortNo).val).tx = none ∧ pickTc d (0 : PortNo).val ((List.range 8).filter (fun tc₀ => (heads.getD tc₀ (none, none)).1.isSome || (heads.getD tc₀ (none, none)).2.isSome)) x = some ((7 : Nat), (freshTokens qdev 0 (qdev.schedOf 0) : Sched))) ∧
    (let x := freshTokens (st mcdev).dev (0 : PortNo).val ((st mcdev).dev.schedOf (0 : PortNo).val);
      let d := if waitsForCredit (st mcdev).dev (0 : PortNo).val x then (st mcdev).dev.modLink (0 : PortNo).val (fun l => { l with waited := true }) else (st mcdev).dev; let heads := (List.range 8).map (fun tc₀ => eligibleHeads d (0 : PortNo).val tc₀ x); let e := heads.getD (7 : Nat) (none, none); let r := pickMc d (0 : PortNo).val (7 : Nat) e.1.isSome e.2.isSome (freshTokens mcdev 0 (mcdev.schedOf 0) : Sched); (st mcdev).dev.applied = true ∧ inL4 (st mcdev).dev (0 : PortNo).val = false ∧ (st mcdev).dev.isPort (0 : PortNo).val = true ∧ ((st mcdev).dev.link (0 : PortNo).val).tx = none ∧ pickTc d (0 : PortNo).val ((List.range 8).filter (fun tc₀ => (heads.getD tc₀ (none, none)).1.isSome || (heads.getD tc₀ (none, none)).2.isSome)) x = some ((7 : Nat), (freshTokens mcdev 0 (mcdev.schedOf 0) : Sched)) ∧ r.1 = true ∧ e.2 = some ((0 : Nat), (pk : Pkt))) ∧
    ((st (live.set (R.TEST_PORT_LOOP_DEPTH 15) 5)).dev.applied = true ∧
      inL4 (st (live.set (R.TEST_PORT_LOOP_DEPTH 15) 5)).dev (15 : PortNo).val = true ∧
      (st (live.set (R.TEST_PORT_LOOP_DEPTH 15) 5)).dev.isPort (15 : PortNo).val = true) ∧
    ((st live).dev.isPort (64 : PortNo).val = false) ∧
    ((st (inMQ (mpn false [] [0]) (live))).dev.applied = true ∧
      (st (inMQ (mpn false [] [0]) (live))).dev.mq (0 : Fin 1024).val = [(mpn false [] [0] : MPkt)] ∧ (mpn false [] [0] : MPkt).taken = false ∧
      (doomed (st (inMQ (mpn false [] [0]) (live))).dev (8192 + (0 : Fin 1024).val) (mpn false [] [0] : MPkt).pkt =
      true ∨ (mpn false [] [0] : MPkt).pkt.whole = false)) := by
  and_intros <;> decide +kernel

theorem witness_QueueService_part2 :
    ((st (inMQ (mp false [] [0]) (up 0 live))).dev.applied = true ∧
      (st (inMQ (mp false [] [0]) (up 0 live))).dev.mq (0 : Fin 1024).val = [(mp false [] [0] : MPkt)] ∧ (mp false [] [0] : MPkt).taken = false ∧
      doomed (st (inMQ (mp false [] [0]) (up 0 live))).dev (8192 + (0 : Fin 1024).val) (mp false [] [0] : MPkt).pkt = false ∧
      (mp false [] [0] : MPkt).pkt.whole = true ∧ (mp false [] [0] : MPkt).targets = [(0 : PortNo)] ∧
      mcReady (st (inMQ (mp false [] [0]) (up 0 live))).dev (0 : PortNo).val (mp false [] [0] : MPkt).pkt.tc.val = true) ∧
    ((st (inMQ (mp false [] [0]) (live))).dev.applied = true ∧
      (st (inMQ (mp false [] [0]) (live))).dev.mq (0 : Fin 1024).val = [(mp false [] [0] : MPkt)] ∧ (mp false [] [0] : MPkt).taken = false ∧
      doomed (st (inMQ (mp false [] [0]) (live))).dev (8192 + (0 : Fin 1024).val) (mp false [] [0] : MPkt).pkt = false ∧
      (mp false [] [0] : MPkt).pkt.whole = true ∧ (mp false [] [0] : MPkt).targets = [(0 : PortNo)] ∧
      mcReady (st (inMQ (mp false [] [0]) (live))).dev (0 : PortNo).val (mp false [] [0] : MPkt).pkt.tc.val = false) ∧
    ((st (inMQ (mp false [] []) (live))).dev.applied = true ∧
      (st (inMQ (mp false [] []) (live))).dev.mq (0 : Fin 1024).val = [(mp false [] [] : MPkt)] ∧ (mp false [] [] : MPkt).taken = false ∧
      doomed (st (inMQ (mp false [] []) (live))).dev (8192 + (0 : Fin 1024).val) (mp false [] [] : MPkt).pkt = false ∧
      (mp false [] [] : MPkt).pkt.whole = true ∧ (mp false [] [] : MPkt).targets = []) ∧
    ((st (inMQ (mp true [0] []) (up 0 live))).dev.applied = true ∧
      (st (inMQ (mp true [0] []) (up 0 live))).dev.mq (0 : Fin 1024).val = [(mp true [0] [] : MPkt)] ∧
      (mp true [0] [] : MPkt).residue = [(0 : PortNo)] ∧
      doomed (st (inMQ (mp true [0] []) (up 0 live))).dev (8192 + (0 : Fin 1024).val) (mp true [0] [] : MPkt).pkt = false ∧
      mcReady (st (inMQ (mp true [0] []) (up 0 live))).dev (0 : PortNo).val (mp true [0] [] : MPkt).pkt.tc.val = true) ∧
    ((st (inMQ (mp true [0] []) (live))).dev.applied = true ∧
      (st (inMQ (mp true [0] []) (live))).dev.mq (0 : Fin 1024).val = [(mp true [0] [] : MPkt)] ∧
      (mp true [0] [] : MPkt).residue = [(0 : PortNo)] ∧
      doomed (st (inMQ (mp true [0] []) (live))).dev (8192 + (0 : Fin 1024).val) (mp true [0] [] : MPkt).pkt = false ∧
      mcReady (st (inMQ (mp true [0] []) (live))).dev (0 : PortNo).val (mp true [0] [] : MPkt).pkt.tc.val = false) ∧
    ((st live).dev.get R.QUE_MC_CFG_AGE = 0) := by
  and_intros <;> decide +kernel

theorem witness_QueueService_part3 :
    (st (inMQ (mp true [0] []) (sets [(R.QUE_MC_CFG_AGE, 1)] (live.wr64 R.GLB_TURN_NUM 1)))).dev.applied = true ∧
      (st (inMQ (mp true [0] []) (sets [(R.QUE_MC_CFG_AGE, 1)] (live.wr64 R.GLB_TURN_NUM 1)))).dev.get R.QUE_MC_CFG_AGE ≠ 0 ∧
      (st (inMQ (mp true [0] []) (sets [(R.QUE_MC_CFG_AGE, 1)] (live.wr64 R.GLB_TURN_NUM 1)))).dev.cist.mq =
      [((0 : Nat), [(mp true [0] [] : MPkt)])] ∧ (mp true [0] [] : MPkt).taken = true ∧ (mp true [0] [] : MPkt).residue = [(0 : PortNo)] ∧
      (mp true [0] [] : MPkt).pkt.turn + (st (inMQ (mp true [0] []) (sets [(R.QUE_MC_CFG_AGE, 1)] (live.wr64 R.GLB_TURN_NUM 1)))).dev.get R.QUE_MC_CFG_AGE ≤ (st (inMQ (mp true [0] []) (sets [(R.QUE_MC_CFG_AGE, 1)] (live.wr64 R.GLB_TURN_NUM 1)))).dev.turn :=
  by decide +kernel

theorem witness_QueueFlushes :
    ((st ((live.modLink 0 (fun l => { l with downSince := some 3 })).set R.QUE_CFG_DOWNFLUSH 0 |>.wr64 R.GLB_TURN_NUM 3)).dev.applied = true ∧
      ((st ((live.modLink 0 (fun l => { l with downSince := some 3 })).set R.QUE_CFG_DOWNFLUSH 0 |>.wr64 R.GLB_TURN_NUM 3)).dev.link (0 : PortNo).val).flushed = false ∧ ((st ((live.modLink 0 (fun l => { l with downSince := some 3 })).set R.QUE_CFG_DOWNFLUSH 0 |>.wr64 R.GLB_TURN_NUM 3)).dev.link (0 : PortNo).val).downSince = some (3 : Nat) ∧ (3 : Nat) + (st ((live.modLink 0 (fun l => { l with downSince := some 3 })).set R.QUE_CFG_DOWNFLUSH 0 |>.wr64 R.GLB_TURN_NUM 3)).dev.get R.QUE_CFG_DOWNFLUSH ≤ (st ((live.modLink 0 (fun l => { l with downSince := some 3 })).set R.QUE_CFG_DOWNFLUSH 0 |>.wr64 R.GLB_TURN_NUM 3)).dev.turn) ∧
    ((st ((live.modLink 0 (fun l => { l with downSince := some 0 })).set R.QUE_CFG_DOWNFLUSH 1)).dev.applied = true ∧
      ((st ((live.modLink 0 (fun l => { l with downSince := some 0 })).set R.QUE_CFG_DOWNFLUSH 1)).dev.link (0 : PortNo).val).flushed = false ∧
      ((st ((live.modLink 0 (fun l => { l with downSince := some 0 })).set R.QUE_CFG_DOWNFLUSH 1)).dev.link (0 : PortNo).val).downSince = some (0 : Nat) ∧ (st ((live.modLink 0 (fun l => { l with downSince := some 0 })).set R.QUE_CFG_DOWNFLUSH 1)).dev.turn < (0 : Nat) + (st ((live.modLink 0 (fun l => { l with downSince := some 0 })).set R.QUE_CFG_DOWNFLUSH 1)).dev.get R.QUE_CFG_DOWNFLUSH) ∧
    ((st live).dev.running = true ∧ (st live).dev.on R.QUE_FLUSH_BUSY = false ∧ wOn (fw [(R.QUE_FLUSH_GO, 1)] : CsrW) R.QUE_FLUSH_GO = true) ∧
    ((st (live.set R.QUE_FLUSH_BUSY 1)).dev.running = true ∧ (st (live.set R.QUE_FLUSH_BUSY 1)).dev.on R.QUE_FLUSH_BUSY = true) ∧
    ((st { live with cist := { live.cist with flushing := some (8191, 0) } }).dev.applied = true ∧
      (st { live with cist := { live.cist with flushing := some (8191, 0) } }).dev.cist.flushing = some ((8191 : Nat), (0 : Nat))) ∧
    ((st live).dev.cist.flushing = none) := by
  and_intros <;> decide +kernel

theorem witness_SprayAndSchedule :
    ((st live).dev.applied = true ∧ (st live).dev.get (R.SPRAY_RLVL_TTL (0 : PortNo).val) = 0) ∧
    ((st live).dev.running = true ∧ (st live).dev.on R.SPRAY_SCHED_CFG_PENDING = false ∧
      wOn (fw [(R.SPRAY_SCHED_CFG_SWAP, 1)] : CsrW) R.SPRAY_SCHED_CFG_SWAP = true) ∧
    ((st { live.set R.SPRAY_SCHED_CFG_PENDING 1 with spray := { live.spray with swapDue := true } }).dev.applied = true ∧
      (st { live.set R.SPRAY_SCHED_CFG_PENDING 1 with spray := { live.spray with swapDue := true } }).dev.boot.turnsBegun = true ∧
      (st { live.set R.SPRAY_SCHED_CFG_PENDING 1 with spray := { live.spray with swapDue := true } }).dev.on R.SPRAY_SCHED_CFG_PENDING = true ∧
      (st { live.set R.SPRAY_SCHED_CFG_PENDING 1 with spray := { live.spray with swapDue := true } }).dev.spray.swapDue = true) ∧
    (((st live).dev.on R.SPRAY_SCHED_CFG_PENDING = false ∨ (st live).dev.spray.swapDue = false)) ∧
    ((st live).dev.get R.SPRAY_MAP_CFG_INT = 0) ∧
    ((st mapping).dev.applied = true ∧ (st mapping).dev.boot.turnsBegun = true ∧ (st mapping).dev.get R.SPRAY_MAP_CFG_INT ≠ 0 ∧
      (((st mapping).dev.get R.SPRAY_MAP_CFG_DEST = 1 ∨ (st mapping).dev.get R.SPRAY_MAP_CFG_DEST = 2)) ∧
      (st mapping).dev.turn % (st mapping).dev.get R.SPRAY_MAP_CFG_INT = 0 ∧ (st mapping).dev.spray.mapTurn ≠ some (st mapping).dev.turn ∧
      mapUnsent (st mapping).dev = false) ∧
    ((st { mapping with cist := { mapping.cist with built := [⟨3, none, pk⟩] } }).dev.applied = true ∧
      (st { mapping with cist := { mapping.cist with built := [⟨3, none, pk⟩] } }).dev.boot.turnsBegun = true ∧
      (st { mapping with cist := { mapping.cist with built := [⟨3, none, pk⟩] } }).dev.get R.SPRAY_MAP_CFG_INT ≠ 0 ∧
      (((st { mapping with cist := { mapping.cist with built := [⟨3, none, pk⟩] } }).dev.get R.SPRAY_MAP_CFG_DEST = 1 ∨ (st { mapping with cist := { mapping.cist with built := [⟨3, none, pk⟩] } }).dev.get R.SPRAY_MAP_CFG_DEST = 2)) ∧ (st { mapping with cist := { mapping.cist with built := [⟨3, none, pk⟩] } }).dev.turn % (st { mapping with cist := { mapping.cist with built := [⟨3, none, pk⟩] } }).dev.get R.SPRAY_MAP_CFG_INT = 0 ∧ (st { mapping with cist := { mapping.cist with built := [⟨3, none, pk⟩] } }).dev.spray.mapTurn ≠ some (st { mapping with cist := { mapping.cist with built := [⟨3, none, pk⟩] } }).dev.turn ∧ mapUnsent (st { mapping with cist := { mapping.cist with built := [⟨3, none, pk⟩] } }).dev = true) := by
  and_intros <;> decide +kernel

theorem witness_BasinClaims :
    (let d := consumePkt (gpk 0 0 0 : Pkt) { (st (inBasin (gpk 0 0 0))).dev with cist := { (st (inBasin (gpk 0 0 0))).dev.cist with toBasin := ([] : List Pkt) } }; (st (inBasin (gpk 0 0 0))).dev.applied = true ∧ (st (inBasin (gpk 0 0 0))).dev.cist.toBasin = (gpk 0 0 0 : Pkt) :: ([] : List Pkt) ∧ (gpk 0 0 0 : Pkt).whole = true ∧ claimOf (gpk 0 0 0 : Pkt).bytes d = some ((0 : Nat), (gent : List Byte), (.contribution : Claim)) ∧ claimBad (ofpHdr (gpk 0 0 0 : Pkt).bytes) (gpk 0 0 0 : Pkt).job (gent : List Byte) = none ∧ ckind (ofpPayload (gpk 0 0 0 : Pkt).bytes) ≠ 1 ∧ ckind (ofpPayload (gpk 0 0 0 : Pkt).bytes) ≠ 2) ∧
    (let d := consumePkt (gpk 1 1 0 : Pkt) { (st (inBasin (gpk 1 1 0))).dev with cist := { (st (inBasin (gpk 1 1 0))).dev.cist with toBasin := ([] : List Pkt) } }; (st (inBasin (gpk 1 1 0))).dev.applied = true ∧ (st (inBasin (gpk 1 1 0))).dev.cist.toBasin = (gpk 1 1 0 : Pkt) :: ([] : List Pkt) ∧ (gpk 1 1 0 : Pkt).whole = true ∧ claimOf (gpk 1 1 0 : Pkt).bytes d = some ((0 : Nat), (gent : List Byte), (.down : Claim)) ∧ claimBad (ofpHdr (gpk 1 1 0 : Pkt).bytes) (gpk 1 1 0 : Pkt).job (gent : List Byte) = none ∧ ckind (ofpPayload (gpk 1 1 0 : Pkt).bytes) = 1 ∧ basinWaits (st (inBasin (gpk 1 1 0))).dev = false) ∧
    (let d := consumePkt (gpk 2 0 0 : Pkt) { (st (inBasin (gpk 2 0 0))).dev with cist := { (st (inBasin (gpk 2 0 0))).dev.cist with toBasin := ([] : List Pkt) } }; (st (inBasin (gpk 2 0 0))).dev.applied = true ∧ (st (inBasin (gpk 2 0 0))).dev.cist.toBasin = (gpk 2 0 0 : Pkt) :: ([] : List Pkt) ∧ (gpk 2 0 0 : Pkt).whole = true ∧ claimOf (gpk 2 0 0 : Pkt).bytes d = some ((0 : Nat), (gent : List Byte), (.abort : Claim)) ∧ claimBad (ofpHdr (gpk 2 0 0 : Pkt).bytes) (gpk 2 0 0 : Pkt).job (gent : List Byte) = none ∧ ckind (ofpPayload (gpk 2 0 0 : Pkt).bytes) = 2) ∧
    (let d := consumePkt (gpk 0 0 1 : Pkt) { (st (inBasin (gpk 0 0 1))).dev with cist := { (st (inBasin (gpk 0 0 1))).dev.cist with toBasin := ([] : List Pkt) } }; (st (inBasin (gpk 0 0 1))).dev.applied = true ∧ (st (inBasin (gpk 0 0 1))).dev.cist.toBasin = (gpk 0 0 1 : Pkt) :: ([] : List Pkt) ∧ (gpk 0 0 1 : Pkt).whole = true ∧ claimOf (gpk 0 0 1 : Pkt).bytes d = some ((0 : Nat), (gent : List Byte), (.contribution : Claim)) ∧ claimBad (ofpHdr (gpk 0 0 1 : Pkt).bytes) (gpk 0 0 1 : Pkt).job (gent : List Byte) = some ((9 : Nat), (5 : Nat)) ∧ ckind (ofpPayload (gpk 0 0 1 : Pkt).bytes) ≠ 1 ∧ ckind (ofpPayload (gpk 0 0 1 : Pkt).bytes) ≠ 2) := by
  and_intros <;> decide +kernel

theorem witness_BasinClaims_part2 :
    (let d := consumePkt (gpk 1 1 1 : Pkt) { (st (inBasin (gpk 1 1 1))).dev with cist := { (st (inBasin (gpk 1 1 1))).dev.cist with toBasin := ([] : List Pkt) } }; (st (inBasin (gpk 1 1 1))).dev.applied = true ∧ (st (inBasin (gpk 1 1 1))).dev.cist.toBasin = (gpk 1 1 1 : Pkt) :: ([] : List Pkt) ∧ (gpk 1 1 1 : Pkt).whole = true ∧ claimOf (gpk 1 1 1 : Pkt).bytes d = some ((0 : Nat), (gent : List Byte), (.down : Claim)) ∧ claimBad (ofpHdr (gpk 1 1 1 : Pkt).bytes) (gpk 1 1 1 : Pkt).job (gent : List Byte) = some ((9 : Nat), (5 : Nat)) ∧ ckind (ofpPayload (gpk 1 1 1 : Pkt).bytes) = 1 ∧ basinWaits (st (inBasin (gpk 1 1 1))).dev = false) ∧
    (let d := consumePkt (gpk 2 0 1 : Pkt) { (st (inBasin (gpk 2 0 1))).dev with cist := { (st (inBasin (gpk 2 0 1))).dev.cist with toBasin := ([] : List Pkt) } }; (st (inBasin (gpk 2 0 1))).dev.applied = true ∧ (st (inBasin (gpk 2 0 1))).dev.cist.toBasin = (gpk 2 0 1 : Pkt) :: ([] : List Pkt) ∧ (gpk 2 0 1 : Pkt).whole = true ∧ claimOf (gpk 2 0 1 : Pkt).bytes d = some ((0 : Nat), (gent : List Byte), (.abort : Claim)) ∧ claimBad (ofpHdr (gpk 2 0 1 : Pkt).bytes) (gpk 2 0 1 : Pkt).job (gent : List Byte) = some ((9 : Nat), (5 : Nat)) ∧ ckind (ofpPayload (gpk 2 0 1 : Pkt).bytes) = 2) ∧
    ((st (inBasin { gpk 0 0 0 with whole := false })).dev.cist.toBasin = ({ gpk 0 0 0 with whole := false } : Pkt) :: ([] : List Pkt) ∧
      ({ gpk 0 0 0 with whole := false } : Pkt).whole = false) ∧
    (basinWaits (st { live with cist := { live.cist with built := [⟨0, none, pk⟩] } }).dev = true) := by
  and_intros <;> decide +kernel

theorem witness_BasinContexts :
    (({ cx with arrived := [(0, 0)] } : Ctx).arrived.contains (beAt (ofpPayload (gpk 0 0 0 : Pkt).bytes) 4 2, beBits (ofpPayload (gpk 0 0 0 : Pkt).bytes) 1 2 15 6) = true) ∧
    (({ cx with arrived := [(0, 0), (0, 1), (0, 2), (0, 3)] } : Ctx).st = .opened ∧
      gNmemb ({ cx with arrived := [(0, 0), (0, 1), (0, 2), (0, 3)] } : Ctx).entry * npiece ({ cx with arrived := [(0, 0), (0, 1), (0, 2), (0, 3)] } : Ctx).entry ≤ ({ cx with arrived := [(0, 0), (0, 1), (0, 2), (0, 3)] } : Ctx).arrived.length) ∧
    ((({ cx with arrived := [(0, 0), (0, 1), (0, 2)] } : Ctx).st ≠ .opened ∨ ({ cx with arrived := [(0, 0), (0, 1), (0, 2)] } : Ctx).arrived.length < gNmemb ({ cx with arrived := [(0, 0), (0, 1), (0, 2)] } : Ctx).entry * npiece ({ cx with arrived := [(0, 0), (0, 1), (0, 2)] } : Ctx).entry)) ∧
    (findCtx (0 : Nat) (ofpHdr (gpk 0 0 0 : Pkt).bytes).chunk (withCtx { cx with st := .timedout }) = some ((32767 : Nat), ({ cx with st := .timedout } : Ctx)) ∧ ({ cx with st := .timedout } : Ctx).tomb = true) ∧
    (findCtx (0 : Nat) (0 : Nat) (withCtx { cx with st := .opened }) = some ((32767 : Nat), ({ cx with st := .opened } : Ctx)) ∧
      ({ cx with st := .opened } : Ctx).st = .opened) ∧
    (findCtx (0 : Nat) (0 : Nat) (withCtx { cx with st := .done }) = some ((32767 : Nat), ({ cx with st := .done } : Ctx)) ∧
      ({ cx with st := .done } : Ctx).st = .done) ∧
    ((st (withCtx { cx with st := .emitting })).dev.applied = true ∧
      SMap.get? (st (withCtx { cx with st := .emitting })).dev.basin.ctx (32767 : Fin 32768).val = some ({ cx with st := .emitting } : Ctx) ∧
      ({ cx with st := .emitting } : Ctx).st = .emitting ∧ basinWaits (st (withCtx { cx with st := .emitting })).dev = false) ∧
    (((SMap.get? (st live).dev.basin.ctx (32767 : Fin 32768).val).all (fun c => c.st != .emitting) = true ∨ basinWaits (st live).dev = true)) ∧
    ((st { withCtx cx with jobs := { live.jobs with vis := ⟨[], [(0, (0, 0, 2))]⟩ } }).dev.applied = true ∧
      (st { withCtx cx with jobs := { live.jobs with vis := ⟨[], [(0, (0, 0, 2))]⟩ } }).dev.boot.turnsBegun = true ∧
      visited (st { withCtx cx with jobs := { live.jobs with vis := ⟨[], [(0, (0, 0, 2))]⟩ } }).dev (32767 : Fin 32768).val = true ∧
      SMap.get? (st { withCtx cx with jobs := { live.jobs with vis := ⟨[], [(0, (0, 0, 2))]⟩ } }).dev.basin.ctx (32767 : Fin 32768).val = some (cx : Ctx) ∧ (cx : Ctx).st = .opened ∧ draining (gJidx (cx : Ctx).entry) (st { withCtx cx with jobs := { live.jobs with vis := ⟨[], [(0, (0, 0, 2))]⟩ } }).dev = true) := by
  and_intros <;> decide +kernel

theorem witness_BasinContexts_part2 :
    ((st ((withCtx { cx with st := .opened }).wr64 R.GLB_TURN_NUM 0)).dev.applied = true ∧
      (st ((withCtx { cx with st := .opened }).wr64 R.GLB_TURN_NUM 0)).dev.boot.turnsBegun = true ∧
      visited (st ((withCtx { cx with st := .opened }).wr64 R.GLB_TURN_NUM 0)).dev (32767 : Fin 32768).val = true ∧
      SMap.get? (st ((withCtx { cx with st := .opened }).wr64 R.GLB_TURN_NUM 0)).dev.basin.ctx (32767 : Fin 32768).val = some ({ cx with st := .opened } : Ctx) ∧ ({ cx with st := .opened } : Ctx).st = .opened ∧ draining (gJidx ({ cx with st := .opened } : Ctx).entry) (st ((withCtx { cx with st := .opened }).wr64 R.GLB_TURN_NUM 0)).dev = false ∧ ({ cx with st := .opened } : Ctx).opened + gCtmo ({ cx with st := .opened } : Ctx).entry ≤ (st ((withCtx { cx with st := .opened }).wr64 R.GLB_TURN_NUM 0)).dev.turn) ∧
    ((st (withCtx { cx with entry := gent.set 17 1 })).dev.applied = true ∧
      (st (withCtx { cx with entry := gent.set 17 1 })).dev.boot.turnsBegun = true ∧
      visited (st (withCtx { cx with entry := gent.set 17 1 })).dev (32767 : Fin 32768).val = true ∧
      SMap.get? (st (withCtx { cx with entry := gent.set 17 1 })).dev.basin.ctx (32767 : Fin 32768).val = some ({ cx with entry := gent.set 17 1 } : Ctx) ∧ ({ cx with entry := gent.set 17 1 } : Ctx).st = .opened ∧ draining (gJidx ({ cx with entry := gent.set 17 1 } : Ctx).entry) (st (withCtx { cx with entry := gent.set 17 1 })).dev = false ∧ (st (withCtx { cx with entry := gent.set 17 1 })).dev.turn < ({ cx with entry := gent.set 17 1 } : Ctx).opened + gCtmo ({ cx with entry := gent.set 17 1 } : Ctx).entry) ∧
    ((st ((withCtx { cx with st := .aborted }).wr64 R.GLB_TURN_NUM 64)).dev.applied = true ∧
      (st ((withCtx { cx with st := .aborted }).wr64 R.GLB_TURN_NUM 64)).dev.boot.turnsBegun = true ∧
      visited (st ((withCtx { cx with st := .aborted }).wr64 R.GLB_TURN_NUM 64)).dev (32767 : Fin 32768).val = true ∧
      SMap.get? (st ((withCtx { cx with st := .aborted }).wr64 R.GLB_TURN_NUM 64)).dev.basin.ctx (32767 : Fin 32768).val = some ({ cx with st := .aborted } : Ctx) ∧ ({ cx with st := .aborted } : Ctx).tomb = true ∧ ({ cx with st := .aborted } : Ctx).since + max 64 ((st ((withCtx { cx with st := .aborted }).wr64 R.GLB_TURN_NUM 64)).dev.get R.BASIN_TIMING_RETIRE) ≤ (st ((withCtx { cx with st := .aborted }).wr64 R.GLB_TURN_NUM 64)).dev.turn) := by
  and_intros <;> decide +kernel

theorem witness_BasinContexts_part3 :
    ((st ((withCtx { cx with st := .timedout }).wr64 R.GLB_TURN_NUM 63)).dev.applied = true ∧
      (st ((withCtx { cx with st := .timedout }).wr64 R.GLB_TURN_NUM 63)).dev.boot.turnsBegun = true ∧
      visited (st ((withCtx { cx with st := .timedout }).wr64 R.GLB_TURN_NUM 63)).dev (32767 : Fin 32768).val = true ∧
      SMap.get? (st ((withCtx { cx with st := .timedout }).wr64 R.GLB_TURN_NUM 63)).dev.basin.ctx (32767 : Fin 32768).val = some ({ cx with st := .timedout } : Ctx) ∧ ({ cx with st := .timedout } : Ctx).tomb = true ∧ (st ((withCtx { cx with st := .timedout }).wr64 R.GLB_TURN_NUM 63)).dev.turn < ({ cx with st := .timedout } : Ctx).since + max 64 ((st ((withCtx { cx with st := .timedout }).wr64 R.GLB_TURN_NUM 63)).dev.get R.BASIN_TIMING_RETIRE)) ∧
    (visited (st live).dev (0 : Fin 32768).val = false) ∧
    (live.basin.visitLate = false) ∧
    ((st live).dev.running = true ∧ (st live).dev.on R.BASIN_ABORT_BUSY = false ∧ wOn (fw [(R.BASIN_ABORT_GO, 1)] : CsrW) R.BASIN_ABORT_GO = true ∧
      wOn (fw [(R.BASIN_ABORT_GO, 1)] : CsrW) R.BASIN_ABORT_ALL = false) ∧
    ((st (live.set R.BASIN_ABORT_BUSY 1)).dev.running = true ∧ (st (live.set R.BASIN_ABORT_BUSY 1)).dev.on R.BASIN_ABORT_BUSY = true ∧
      wOn (fw [(R.BASIN_ABORT_GO, 1)] : CsrW) R.BASIN_ABORT_GO = true) := by
  and_intros <;> decide +kernel

theorem witness_SluiceTake :
    ((st live).dev.applied = true ∧ mayTake (sluWq (⟨1, 63⟩ : SluQ).die.val (⟨1, 63⟩ : SluQ).q.val) (st live).dev = false) ∧
    ((st ((sluWith []).setDie 10 3)).dev.applied = true ∧
      mayTake (sluWq (q0 : SluQ).die.val (q0 : SluQ).q.val) (st ((sluWith []).setDie 10 3)).dev = true ∧
      (st ((sluWith []).setDie 10 3)).dev.dieState ((q0 : SluQ).die.val + 10) = 3) ∧
    ((st (holds 0 (job1 (zeros 64)) live)).dev.applied = true ∧
      liveJob (sluWq (q0 : SluQ).die.val (q0 : SluQ).q.val).key (fun j₀ => j₀.op == 0) (st (holds 0 (job1 (zeros 64)) live)).dev = some (job1 (zeros 64) : Job) ∧ earlierDone (sluWq (q0 : SluQ).die.val (q0 : SluQ).q.val) (job1 (zeros 64) : Job).id (st (holds 0 (job1 (zeros 64)) live)).dev = true) ∧
    ((st (live.setWorkQ 0 ⟨[job1 (desc 1 1 1 1 0 0 0 0 0 0), { job1 (zeros 64) with id := 1 }], none⟩)).dev.applied = true ∧
      liveJob (sluWq (q0 : SluQ).die.val (q0 : SluQ).q.val).key (fun j₀ => j₀.op == 0) (st (live.setWorkQ 0 ⟨[job1 (desc 1 1 1 1 0 0 0 0 0 0), { job1 (zeros 64) with id := 1 }], none⟩)).dev = some ({ job1 (zeros 64) with id := 1 } : Job) ∧ earlierDone (sluWq (q0 : SluQ).die.val (q0 : SluQ).q.val) ({ job1 (zeros 64) with id := 1 } : Job).id (st (live.setWorkQ 0 ⟨[job1 (desc 1 1 1 1 0 0 0 0 0 0), { job1 (zeros 64) with id := 1 }], none⟩)).dev = false) := by
  and_intros <;> decide +kernel

theorem witness_SluiceTake_more1 :
    ∃ j : Job, (sluWith [(0, 6)]).applied = true ∧ mayTake (sluWq 0 0) (sluWith [(0, 6)]) = true ∧ (sluWith [(0, 6)]).dieState 10 = 2 ∧
      (sluWith [(0, 6)]).on (R.SLU_WQ_HEAD_STOPPED 0 0) = false ∧ dieLoad 0 (sluWith [(0, 6)]) < 32 ∧
      jobOf 0 (sluWith [(0, 6)]).eng.nextJob (takeJob (sluWq 0 0) id (sluWith [(0, 6)])) = some j ∧
      sluCheck 0 0 j (takeJob (sluWq 0 0) id (sluWith [(0, 6)])) = some (1, 0) :=
  ⟨_, by decide +kernel, by decide +kernel, by decide +kernel, by decide +kernel, by decide +kernel, rfl, by decide +kernel⟩

theorem witness_SluiceTake_more2 :
    ∃ j : Job, (sluWith []).applied = true ∧ mayTake (sluWq 0 0) (sluWith []) = true ∧ (sluWith []).dieState 10 = 2 ∧
      (sluWith []).on (R.SLU_WQ_HEAD_STOPPED 0 0) = false ∧ dieLoad 0 (sluWith []) < 32 ∧
      jobOf 0 (sluWith []).eng.nextJob (takeJob (sluWq 0 0) id (sluWith [])) = some j ∧
      sluCheck 0 0 j (takeJob (sluWq 0 0) id (sluWith [])) = none ∧ j.op = 0 :=
  ⟨_, by decide +kernel, by decide +kernel, by decide +kernel, by decide +kernel, by decide +kernel, rfl, by decide +kernel⟩

theorem witness_SluiceTake_more3 :
    ∃ j : Job, (sluWith [(0, 4), (8, 1), (10, 1), (12, 64), (50, 1)]).applied = true ∧
      mayTake (sluWq 0 0) (sluWith [(0, 4), (8, 1), (10, 1), (12, 64), (50, 1)]) = true ∧
      (sluWith [(0, 4), (8, 1), (10, 1), (12, 64), (50, 1)]).dieState 10 = 2 ∧
      (sluWith [(0, 4), (8, 1), (10, 1), (12, 64), (50, 1)]).on (R.SLU_WQ_HEAD_STOPPED 0 0) = false ∧
      dieLoad 0 (sluWith [(0, 4), (8, 1), (10, 1), (12, 64), (50, 1)]) < 32 ∧
      jobOf 0 (sluWith [(0, 4), (8, 1), (10, 1), (12, 64), (50, 1)]).eng.nextJob (takeJob (sluWq 0 0) id (sluWith [(0, 4), (8, 1), (10, 1), (12, 64), (50, 1)])) = some j ∧ sluCheck 0 0 j (takeJob (sluWq 0 0) id (sluWith [(0, 4), (8, 1), (10, 1), (12, 64), (50, 1)])) = none ∧ j.op ≠ 0 ∧ poolSize 0 ((takeJob (sluWq 0 0) id (sluWith [(0, 4), (8, 1), (10, 1), (12, 64), (50, 1)])).get (R.SLU_WQ_CFG_POOL 0 0)) (takeJob (sluWq 0 0) id (sluWith [(0, 4), (8, 1), (10, 1), (12, 64), (50, 1)])) ≠ 0 ∧ 0 < (splitJob (splitOf j.op (takeJob (sluWq 0 0) id (sluWith [(0, 4), (8, 1), (10, 1), (12, 64), (50, 1)]))) j.m (poolSize 0 ((takeJob (sluWq 0 0) id (sluWith [(0, 4), (8, 1), (10, 1), (12, 64), (50, 1)])).get (R.SLU_WQ_CFG_POOL 0 0)) (takeJob (sluWq 0 0) id (sluWith [(0, 4), (8, 1), (10, 1), (12, 64), (50, 1)])))).2 :=
  ⟨_, by decide +kernel, by decide +kernel, by decide +kernel, by decide +kernel, by decide +kernel, rfl, by decide +kernel⟩

theorem witness_SluiceKernels :
    (let d := holds 0 (job1 (desc 1 2 2 1 1 32 1 1 0 2)) live; d.applied = true ∧
      liveJob 0 (fun j => j.op == 1 && !(openTiles j).isEmpty) d = some (job1 (desc 1 2 2 1 1 32 1 1 0 2)) ∧
      (tileReads (job1 (desc 1 2 2 1 1 32 1 1 0 2)) 0).any (fun r => regionPoisoned r d) = false ∧
      (openTiles (job1 (desc 1 2 2 1 1 32 1 1 0 2))).headD 0 = 0 ∧ (runTile 0 (job1 (desc 1 2 2 1 1 32 1 1 0 2)) 0 d).cycles.isSome = true) ∧
    (let d := holds 0 (job1 (desc 2 2 2 1 1 1 32 1 0 2)) live; d.applied = true ∧
      liveJob 0 (fun j => j.op == 2 && !(openTiles j).isEmpty) d = some (job1 (desc 2 2 2 1 1 1 32 1 0 2)) ∧
      (tileReads (job1 (desc 2 2 2 1 1 1 32 1 0 2)) 0).any (fun r => regionPoisoned r d) = false ∧
      (openTiles (job1 (desc 2 2 2 1 1 1 32 1 0 2))).headD 0 = 0 ∧ (runTile 0 (job1 (desc 2 2 2 1 1 1 32 1 0 2)) 0 d).cycles.isSome = true) ∧
    (let d := holds 0 (job1 (desc 3 2 1 1 1 0 0 0 1 2)) live; d.applied = true ∧
      liveJob 0 (fun j => j.op == 3 && !(openTiles j).isEmpty) d = some (job1 (desc 3 2 1 1 1 0 0 0 1 2)) ∧
      (tileReads (job1 (desc 3 2 1 1 1 0 0 0 1 2)) 0).any (fun r => regionPoisoned r d) = false ∧
      (openTiles (job1 (desc 3 2 1 1 1 0 0 0 1 2))).headD 0 = 0 ∧ (runTile 0 (job1 (desc 3 2 1 1 1 0 0 0 1 2)) 0 d).cycles.isSome = false) ∧
    (let d := holds 0 (job1 (desc 4 1 0 1 1 0 0 0 0 2)) live; d.applied = true ∧
      liveJob 0 (fun j => j.op == 4 && !(openTiles j).isEmpty) d = some (job1 (desc 4 1 0 1 1 0 0 0 0 2)) ∧
      (tileReads (job1 (desc 4 1 0 1 1 0 0 0 0 2)) 0).any (fun r => regionPoisoned r d) = false ∧
      (openTiles (job1 (desc 4 1 0 1 1 0 0 0 0 2))).headD 0 = 0 ∧ (runTile 0 (job1 (desc 4 1 0 1 1 0 0 0 0 2)) 0 d).cycles.isSome = false) ∧
    (let d := holds 0 (job1 (desc 5 1 0 1 1 1 1 1 0 2)) live; d.applied = true ∧
      liveJob 0 (fun j => j.op == 5 && !(openTiles j).isEmpty) d = some (job1 (desc 5 1 0 1 1 1 1 1 0 2)) ∧
      (tileReads (job1 (desc 5 1 0 1 1 1 1 1 0 2)) 0).any (fun r => regionPoisoned r d) = false ∧
      (openTiles (job1 (desc 5 1 0 1 1 1 1 1 0 2))).headD 0 = 0 ∧ (runTile 0 (job1 (desc 5 1 0 1 1 1 1 1 0 2)) 0 d).cycles.isSome = false) := by
  and_intros <;> decide +kernel

theorem witness_SluiceKernels_part2 :
    ((st { holds 0 (job1 (desc 1 2 2 1 1 32 1 1 0 2)) live with poison := [(0, 0), (1, 0), (0, 1024), (1, 1024)] }).dev.applied = true ∧
      liveJob (sluWq (q0 : SluQ).die.val (q0 : SluQ).q.val).key (fun j₀ => j₀.op == (1 : Nat) && !(openTiles j₀).isEmpty) (st { holds 0 (job1 (desc 1 2 2 1 1 32 1 1 0 2)) live with poison := [(0, 0), (1, 0), (0, 1024), (1, 1024)] }).dev = some ((job1 (desc 1 2 2 1 1 32 1 1 0 2)) : Job) ∧ (tileReads ((job1 (desc 1 2 2 1 1 32 1 1 0 2)) : Job) ((openTiles ((job1 (desc 1 2 2 1 1 32 1 1 0 2)) : Job)).headD 0)).any (fun r => regionPoisoned r (st { holds 0 (job1 (desc 1 2 2 1 1 32 1 1 0 2)) live with poison := [(0, 0), (1, 0), (0, 1024), (1, 1024)] }).dev) = true) ∧
    ((st { holds 0 (job1 (desc 2 2 2 1 1 1 32 1 0 2)) live with poison := [(0, 0), (1, 0), (0, 1024), (1, 1024)] }).dev.applied = true ∧
      liveJob (sluWq (q0 : SluQ).die.val (q0 : SluQ).q.val).key (fun j₀ => j₀.op == (2 : Nat) && !(openTiles j₀).isEmpty) (st { holds 0 (job1 (desc 2 2 2 1 1 1 32 1 0 2)) live with poison := [(0, 0), (1, 0), (0, 1024), (1, 1024)] }).dev = some ((job1 (desc 2 2 2 1 1 1 32 1 0 2)) : Job) ∧ (tileReads ((job1 (desc 2 2 2 1 1 1 32 1 0 2)) : Job) ((openTiles ((job1 (desc 2 2 2 1 1 1 32 1 0 2)) : Job)).headD 0)).any (fun r => regionPoisoned r (st { holds 0 (job1 (desc 2 2 2 1 1 1 32 1 0 2)) live with poison := [(0, 0), (1, 0), (0, 1024), (1, 1024)] }).dev) = true ∧ (2 : Nat) = 2) ∧
    ((st { holds 0 (job1 (desc 3 2 1 1 1 0 0 0 1 2)) live with poison := [(0, 0), (1, 0), (0, 1024), (1, 1024)] }).dev.applied = true ∧
      liveJob (sluWq (q0 : SluQ).die.val (q0 : SluQ).q.val).key (fun j₀ => j₀.op == (3 : Nat) && !(openTiles j₀).isEmpty) (st { holds 0 (job1 (desc 3 2 1 1 1 0 0 0 1 2)) live with poison := [(0, 0), (1, 0), (0, 1024), (1, 1024)] }).dev = some ((job1 (desc 3 2 1 1 1 0 0 0 1 2)) : Job) ∧ (tileReads ((job1 (desc 3 2 1 1 1 0 0 0 1 2)) : Job) ((openTiles ((job1 (desc 3 2 1 1 1 0 0 0 1 2)) : Job)).headD 0)).any (fun r => regionPoisoned r (st { holds 0 (job1 (desc 3 2 1 1 1 0 0 0 1 2)) live with poison := [(0, 0), (1, 0), (0, 1024), (1, 1024)] }).dev) = true ∧ (3 : Nat) = 3) := by
  and_intros <;> decide +kernel

theorem witness_SluiceKernels_part3 :
    ((st { holds 0 (job1 (desc 4 1 0 1 1 0 0 0 0 2)) live with poison := [(0, 0), (1, 0), (0, 1024), (1, 1024)] }).dev.applied = true ∧
      liveJob (sluWq (q0 : SluQ).die.val (q0 : SluQ).q.val).key (fun j₀ => j₀.op == (4 : Nat) && !(openTiles j₀).isEmpty) (st { holds 0 (job1 (desc 4 1 0 1 1 0 0 0 0 2)) live with poison := [(0, 0), (1, 0), (0, 1024), (1, 1024)] }).dev = some ((job1 (desc 4 1 0 1 1 0 0 0 0 2)) : Job) ∧ (tileReads ((job1 (desc 4 1 0 1 1 0 0 0 0 2)) : Job) ((openTiles ((job1 (desc 4 1 0 1 1 0 0 0 0 2)) : Job)).headD 0)).any (fun r => regionPoisoned r (st { holds 0 (job1 (desc 4 1 0 1 1 0 0 0 0 2)) live with poison := [(0, 0), (1, 0), (0, 1024), (1, 1024)] }).dev) = true ∧ (4 : Nat) = 4) ∧
    ((st { holds 0 (job1 (desc 5 1 0 1 1 1 1 1 0 2)) live with poison := [(0, 0), (1, 0), (0, 1024), (1, 1024)] }).dev.applied = true ∧
      liveJob (sluWq (q0 : SluQ).die.val (q0 : SluQ).q.val).key (fun j₀ => j₀.op == (5 : Nat) && !(openTiles j₀).isEmpty) (st { holds 0 (job1 (desc 5 1 0 1 1 1 1 1 0 2)) live with poison := [(0, 0), (1, 0), (0, 1024), (1, 1024)] }).dev = some ((job1 (desc 5 1 0 1 1 1 1 1 0 2)) : Job) ∧ (tileReads ((job1 (desc 5 1 0 1 1 1 1 1 0 2)) : Job) ((openTiles ((job1 (desc 5 1 0 1 1 1 1 1 0 2)) : Job)).headD 0)).any (fun r => regionPoisoned r (st { holds 0 (job1 (desc 5 1 0 1 1 1 1 1 0 2)) live with poison := [(0, 0), (1, 0), (0, 1024), (1, 1024)] }).dev) = true ∧ (5 : Nat) = 5) ∧
    ((((job1 (desc 2 2 2 1 1 1 32 1 0 2)) : Job).op = 1 ∨ ((job1 (desc 2 2 2 1 1 1 32 1 0 2)) : Job).op = 2)) ∧
    (((job1 (desc 5 2 2 1 1 1 32 1 0 2)) : Job).op ≠ 1 ∧ ((job1 (desc 5 2 2 1 1 1 32 1 0 2)) : Job).op ≠ 2) := by
  and_intros <;> decide +kernel

theorem witness_SluiceKernels_more1 :
    (st (holds 0 (job1 (desc 0x40 0 0 0 0 0 0 0 0 0)) sluDev)).dev.applied = true ∧
      liveJob (sluWq (q0 : SluQ).die.val (q0 : SluQ).q.val).key (fun j₀ => decide (0x40 ≤ j₀.op) && !(openTiles j₀).isEmpty) (st (holds 0 (job1 (desc 0x40 0 0 0 0 0 0 0 0 0)) sluDev)).dev = some (job1 (desc 0x40 0 0 0 0 0 0 0 0 0) : Job) ∧ ((∀ x ∈ ([(0, [1])] : List (Nat × List Byte)), opWindow (sluWq (q0 : SluQ).die.val (q0 : SluQ).q.val) true x.1 x.2.length (st (holds 0 (job1 (desc 0x40 0 0 0 0 0 0 0 0 0)) sluDev)).dev = true)) :=
  ⟨by decide +kernel, by decide +kernel, by decide +kernel⟩

theorem witness_SluiceKernels_more2 :
    (st (holds 0 (job1 (desc 0x40 0 0 0 0 0 0 0 0 0)) sluDev)).dev.applied = true ∧
      liveJob (sluWq (q0 : SluQ).die.val (q0 : SluQ).q.val).key (fun j₀ => decide (0x40 ≤ j₀.op) && !(openTiles j₀).isEmpty) (st (holds 0 (job1 (desc 0x40 0 0 0 0 0 0 0 0 0)) sluDev)).dev = some (job1 (desc 0x40 0 0 0 0 0 0 0 0 0) : Job) ∧ jobOf (sluWq (q0 : SluQ).die.val (q0 : SluQ).q.val).key (job1 (desc 0x40 0 0 0 0 0 0 0 0 0) : Job).id (st (holds 0 (job1 (desc 0x40 0 0 0 0 0 0 0 0 0)) sluDev)).dev = some (job1 (desc 0x40 0 0 0 0 0 0 0 0 0) : Job) ∧ (((true : Bool) = true ∨ ∃ x ∈ ([] : List (Nat × List Byte)), opWindow (sluWq (q0 : SluQ).die.val (q0 : SluQ).q.val) true x.1 x.2.length (st (holds 0 (job1 (desc 0x40 0 0 0 0 0 0 0 0 0)) sluDev)).dev = false)) :=
  ⟨by decide +kernel, by decide +kernel, by decide +kernel, .inl rfl⟩

theorem witness_MatrixRows :
    ((0 : Nat) < (1 : Nat) ∧ (0 : Nat) < ((job1 (desc 1 2 2 1 1 32 1 1 0 2)) : Job).k) ∧
    ((0 : Nat) < (1 : Nat) ∧ (0 : Nat) < ((job1 (desc 2 2 2 1 1 1 32 1 0 2)) : Job).n ∧ ((job1 (desc 2 2 2 1 1 1 32 1 0 2)) : Job).addrC = 0) := by
  and_intros <;> decide +kernel

theorem witness_TilesCover :
    0 < (1 : Nat) ∧ 0 < (1 : Nat) :=
  by decide +kernel

theorem witness_SluiceEnds :
    ((st { holds 0 (job1 (desc 4 1 0 1 64 0 0 0 0 2)) live with eng := { (holds 0 (job1 (desc 4 1 0 1 64 0 0 0 0 2)) live).eng with running := [(255, (0, 0, 0))] } }).dev.applied = true ∧ ((engineUp (1 : Fin 2).val (127 : Fin 128).val (st { holds 0 (job1 (desc 4 1 0 1 64 0 0 0 0 2)) live with eng := { (holds 0 (job1 (desc 4 1 0 1 64 0 0 0 0 2)) live).eng with running := [(255, (0, 0, 0))] } }).dev = false ∨ SMap.has (st { holds 0 (job1 (desc 4 1 0 1 64 0 0 0 0 2)) live with eng := { (holds 0 (job1 (desc 4 1 0 1 64 0 0 0 0 2)) live).eng with running := [(255, (0, 0, 0))] } }).dev.eng.running (128 * (1 : Fin 2).val + (127 : Fin 128).val) = true))) ∧
    ((st (holds 0 { (job1 (desc 4 1 0 1 64 0 0 0 0 2)) with dealt := 0 } live)).dev.applied = true ∧
      engineUp (0 : Fin 2).val (127 : Fin 128).val (st (holds 0 { (job1 (desc 4 1 0 1 64 0 0 0 0 2)) with dealt := 0 } live)).dev = true ∧
      SMap.has (st (holds 0 { (job1 (desc 4 1 0 1 64 0 0 0 0 2)) with dealt := 0 } live)).dev.eng.running (128 * (0 : Fin 2).val + (127 : Fin 128).val) = false ∧ nextQueue (0 : Fin 2).val (enginePool (0 : Fin 2).val (127 : Fin 128).val (st (holds 0 { (job1 (desc 4 1 0 1 64 0 0 0 0 2)) with dealt := 0 } live)).dev) (st (holds 0 { (job1 (desc 4 1 0 1 64 0 0 0 0 2)) with dealt := 0 } live)).dev = some ((0 : Nat), (0 : Nat), ({ (job1 (desc 4 1 0 1 64 0 0 0 0 2)) with dealt := 0 } : Job))) ∧
    ((st { holds 0 (job1 (desc 4 1 0 1 64 0 0 0 0 2)) live with eng := { (holds 0 (job1 (desc 4 1 0 1 64 0 0 0 0 2)) live).eng with running := [(255, (0, 0, 0))] } }).dev.applied = true ∧ SMap.get? (st { holds 0 (job1 (desc 4 1 0 1 64 0 0 0 0 2)) live with eng := { (holds 0 (job1 (desc 4 1 0 1 64 0 0 0 0 2)) live).eng with running := [(255, (0, 0, 0))] } }).dev.eng.running (128 * (1 : Fin 2).val + (127 : Fin 128).val) = some ((0 : Nat), (0 : Nat), (0 : Nat)) ∧ jobOf (0 : Nat) (0 : Nat) (st { holds 0 (job1 (desc 4 1 0 1 64 0 0 0 0 2)) live with eng := { (holds 0 (job1 (desc 4 1 0 1 64 0 0 0 0 2)) live).eng with running := [(255, (0, 0, 0))] } }).dev = some ((job1 (desc 4 1 0 1 64 0 0 0 0 2)) : Job) ∧ ((job1 (desc 4 1 0 1 64 0 0 0 0 2)) : Job).computed ≤ (0 : Nat)) := by
  and_intros <;> decide +kernel

theorem witness_SluiceEnds_part2 :
    ((st { holds 0 { (job1 (desc 4 1 0 1 64 0 0 0 0 2)) with computed := 1 } live with eng := { (holds 0 { (job1 (desc 4 1 0 1 64 0 0 0 0 2)) with computed := 1 } live).eng with running := [(255, (0, 0, 0))] } }).dev.applied = true ∧ SMap.get? (st { holds 0 { (job1 (desc 4 1 0 1 64 0 0 0 0 2)) with computed := 1 } live with eng := { (holds 0 { (job1 (desc 4 1 0 1 64 0 0 0 0 2)) with computed := 1 } live).eng with running := [(255, (0, 0, 0))] } }).dev.eng.running (128 * (1 : Fin 2).val + (127 : Fin 128).val) = some ((0 : Nat), (0 : Nat), (0 : Nat)) ∧ jobOf (0 : Nat) (0 : Nat) (st { holds 0 { (job1 (desc 4 1 0 1 64 0 0 0 0 2)) with computed := 1 } live with eng := { (holds 0 { (job1 (desc 4 1 0 1 64 0 0 0 0 2)) with computed := 1 } live).eng with running := [(255, (0, 0, 0))] } }).dev = some ({ (job1 (desc 4 1 0 1 64 0 0 0 0 2)) with computed := 1 } : Job) ∧ (0 : Nat) < ({ (job1 (desc 4 1 0 1 64 0 0 0 0 2)) with computed := 1 } : Job).computed) ∧
    (jobOf (sluWq 0 0 : Wq).key (0 : Nat) (holds 0 (job1 (desc 4 1 0 1 64 0 0 0 0 2)) live) = some ((job1 (desc 4 1 0 1 64 0 0 0 0 2)) : Job) ∧
      ((job1 (desc 4 1 0 1 64 0 0 0 0 2)) : Job).ended < ((job1 (desc 4 1 0 1 64 0 0 0 0 2)) : Job).tiles) ∧
    (jobOf (sluWq 0 0 : Wq).key (0 : Nat) (holds 0 { (job1 (desc 4 1 0 1 64 0 0 0 0 2)) with ended := 1 } live) = some ({ (job1 (desc 4 1 0 1 64 0 0 0 0 2)) with ended := 1 } : Job) ∧ ({ (job1 (desc 4 1 0 1 64 0 0 0 0 2)) with ended := 1 } : Job).tiles ≤ ({ (job1 (desc 4 1 0 1 64 0 0 0 0 2)) with ended := 1 } : Job).ended ∧ ({ (job1 (desc 4 1 0 1 64 0 0 0 0 2)) with ended := 1 } : Job).errs = []) ∧
    (jobOf (sluWq 0 0 : Wq).key (0 : Nat) (holds 0 { (job1 (desc 4 1 0 1 64 0 0 0 0 2)) with ended := 1, errs := [(0, 3)] } live) = some ({ (job1 (desc 4 1 0 1 64 0 0 0 0 2)) with ended := 1, errs := [(0, 3)] } : Job) ∧ ({ (job1 (desc 4 1 0 1 64 0 0 0 0 2)) with ended := 1, errs := [(0, 3)] } : Job).tiles ≤ ({ (job1 (desc 4 1 0 1 64 0 0 0 0 2)) with ended := 1, errs := [(0, 3)] } : Job).ended ∧ firstErr ({ (job1 (desc 4 1 0 1 64 0 0 0 0 2)) with ended := 1, errs := [(0, 3)] } : Job) = some 3) ∧
    (jobOf (sluWq 0 0 : Wq).key (0 : Nat) (holds 0 { (job1 (desc 4 1 0 1 64 0 0 0 0 2)) with ended := 1, errs := [(0, 4)] } live) = some ({ (job1 (desc 4 1 0 1 64 0 0 0 0 2)) with ended := 1, errs := [(0, 4)] } : Job) ∧ ({ (job1 (desc 4 1 0 1 64 0 0 0 0 2)) with ended := 1, errs := [(0, 4)] } : Job).tiles ≤ ({ (job1 (desc 4 1 0 1 64 0 0 0 0 2)) with ended := 1, errs := [(0, 4)] } : Job).ended ∧ firstErr ({ (job1 (desc 4 1 0 1 64 0 0 0 0 2)) with ended := 1, errs := [(0, 4)] } : Job) = some 4) := by
  and_intros <;> decide +kernel

theorem witness_SluiceEnds_part3 :
    (let w := sluWq (q0 : SluQ).die.val (q0 : SluQ).q.val; (st (holds 0 (job1 (desc 4 1 0 1 64 0 0 0 0 2)) live)).dev.applied = true ∧
      (st (holds 0 (job1 (desc 4 1 0 1 64 0 0 0 0 2)) live)).dev.workQ w.key =
      ⟨((job1 (desc 4 1 0 1 64 0 0 0 0 2)) : Job) :: ([] : List Job), none⟩ ∧ ((job1 (desc 4 1 0 1 64 0 0 0 0 2)) : Job).status = none) ∧
    (let w := sluWq (q0 : SluQ).die.val (q0 : SluQ).q.val;
      (st (holds 0 { (job1 (desc 4 1 0 1 64 0 0 0 0 2)) with status := some 0 } live)).dev.applied = true ∧
      (st (holds 0 { (job1 (desc 4 1 0 1 64 0 0 0 0 2)) with status := some 0 } live)).dev.workQ w.key = ⟨({ (job1 (desc 4 1 0 1 64 0 0 0 0 2)) with status := some 0 } : Job) :: ([] : List Job), none⟩ ∧ ({ (job1 (desc 4 1 0 1 64 0 0 0 0 2)) with status := some 0 } : Job).status = some 0 ∧ ({ (job1 (desc 4 1 0 1 64 0 0 0 0 2)) with status := some 0 } : Job).crec = false) ∧
    (let w := sluWq (q0 : SluQ).die.val (q0 : SluQ).q.val;
      (st (holds 0 { (job1 (desc 4 1 0 1 64 0 0 0 0 2)) with status := some 2 } (live))).dev.applied = true ∧
      (st (holds 0 { (job1 (desc 4 1 0 1 64 0 0 0 0 2)) with status := some 2 } (live))).dev.workQ w.key = ⟨({ (job1 (desc 4 1 0 1 64 0 0 0 0 2)) with status := some 2 } : Job) :: ([] : List Job), none⟩ ∧ ({ (job1 (desc 4 1 0 1 64 0 0 0 0 2)) with status := some 2 } : Job).status = some (2) ∧ (((2) ≠ 0 ∨ ({ (job1 (desc 4 1 0 1 64 0 0 0 0 2)) with status := some 2 } : Job).crec = true)) ∧ (st (holds 0 { (job1 (desc 4 1 0 1 64 0 0 0 0 2)) with status := some 2 } (live))).dev.ringOn w.cr = false) := by
  and_intros <;> decide +kernel

theorem witness_SluiceEnds_part4 :
    (let w := sluWq (q0 : SluQ).die.val (q0 : SluQ).q.val;
      (st (holds 0 { (job1 (desc 4 1 0 1 64 0 0 0 0 2)) with status := some 2 } (sets [(R.SLU_WQ_CR_CFG_EN 0 0, 1), (R.SLU_WQ_CR_CFG_LOG2SIZE 0 0, 4), (R.SLU_WQ_CR_HEAD_HEAD 0 0, 15)] live))).dev.applied = true ∧ (st (holds 0 { (job1 (desc 4 1 0 1 64 0 0 0 0 2)) with status := some 2 } (sets [(R.SLU_WQ_CR_CFG_EN 0 0, 1), (R.SLU_WQ_CR_CFG_LOG2SIZE 0 0, 4), (R.SLU_WQ_CR_HEAD_HEAD 0 0, 15)] live))).dev.workQ w.key = ⟨({ (job1 (desc 4 1 0 1 64 0 0 0 0 2)) with status := some 2 } : Job) :: ([] : List Job), none⟩ ∧ ({ (job1 (desc 4 1 0 1 64 0 0 0 0 2)) with status := some 2 } : Job).status = some (2) ∧ (((2) ≠ 0 ∨ ({ (job1 (desc 4 1 0 1 64 0 0 0 0 2)) with status := some 2 } : Job).crec = true)) ∧ (st (holds 0 { (job1 (desc 4 1 0 1 64 0 0 0 0 2)) with status := some 2 } (sets [(R.SLU_WQ_CR_CFG_EN 0 0, 1), (R.SLU_WQ_CR_CFG_LOG2SIZE 0 0, 4), (R.SLU_WQ_CR_HEAD_HEAD 0 0, 15)] live))).dev.ringOn w.cr = true ∧ (st (holds 0 { (job1 (desc 4 1 0 1 64 0 0 0 0 2)) with status := some 2 } (sets [(R.SLU_WQ_CR_CFG_EN 0 0, 1), (R.SLU_WQ_CR_CFG_LOG2SIZE 0 0, 4), (R.SLU_WQ_CR_HEAD_HEAD 0 0, 15)] live))).dev.ringFull w.cr = true) ∧
    (let w := sluWq (q0 : SluQ).die.val (q0 : SluQ).q.val;
      (st (holds 0 { (job1 (desc 4 1 0 1 64 0 0 0 0 2)) with status := some 2 } (sets [(R.SLU_WQ_CR_CFG_EN 0 0, 1), (R.SLU_WQ_CR_CFG_LOG2SIZE 0 0, 4)] live))).dev.applied = true ∧ (st (holds 0 { (job1 (desc 4 1 0 1 64 0 0 0 0 2)) with status := some 2 } (sets [(R.SLU_WQ_CR_CFG_EN 0 0, 1), (R.SLU_WQ_CR_CFG_LOG2SIZE 0 0, 4)] live))).dev.workQ w.key = ⟨({ (job1 (desc 4 1 0 1 64 0 0 0 0 2)) with status := some 2 } : Job) :: ([] : List Job), none⟩ ∧ ({ (job1 (desc 4 1 0 1 64 0 0 0 0 2)) with status := some 2 } : Job).status = some (2) ∧ (((2) ≠ 0 ∨ ({ (job1 (desc 4 1 0 1 64 0 0 0 0 2)) with status := some 2 } : Job).crec = true)) ∧ (st (holds 0 { (job1 (desc 4 1 0 1 64 0 0 0 0 2)) with status := some 2 } (sets [(R.SLU_WQ_CR_CFG_EN 0 0, 1), (R.SLU_WQ_CR_CFG_LOG2SIZE 0 0, 4)] live))).dev.ringOn w.cr = true ∧ (st (holds 0 { (job1 (desc 4 1 0 1 64 0 0 0 0 2)) with status := some 2 } (sets [(R.SLU_WQ_CR_CFG_EN 0 0, 1), (R.SLU_WQ_CR_CFG_LOG2SIZE 0 0, 4)] live))).dev.ringFull w.cr = false) := by
  and_intros <;> decide +kernel

theorem witness_SluiceControl :
    ((st (holds 0 { (job1 (desc 4 1 0 1 64 0 0 0 0 2)) with charge := 128 } (live.set (sluWq 0 0).wdog 1))).dev.applied = true ∧
      timedOut (sluWq (q0 : SluQ).die.val (q0 : SluQ).q.val) (st (holds 0 { (job1 (desc 4 1 0 1 64 0 0 0 0 2)) with charge := 128 } (live.set (sluWq 0 0).wdog 1))).dev = ({ (job1 (desc 4 1 0 1 64 0 0 0 0 2)) with charge := 128 } : Job) :: ([] : List Job)) ∧
    ((st live).dev.applied = true ∧ timedOut (sluWq (q0 : SluQ).die.val (q0 : SluQ).q.val) (st live).dev = []) ∧
    ((st live).dev.running = true ∧ (st live).dev.computeFitted (⟨1, 63⟩ : SluQ).die.val = true ∧
      (st live).dev.on (R.SLU_WQ_CTL_BUSY (⟨1, 63⟩ : SluQ).die.val (⟨1, 63⟩ : SluQ).q.val) = false ∧ (w 1 : CsrW).val.toNat % 2 = 1) ∧
    ((st (live.set (R.SLU_WQ_CTL_BUSY 1 63) 1)).dev.running = true ∧
      (st (live.set (R.SLU_WQ_CTL_BUSY 1 63) 1)).dev.computeFitted (⟨1, 63⟩ : SluQ).die.val = true ∧
      (st (live.set (R.SLU_WQ_CTL_BUSY 1 63) 1)).dev.on (R.SLU_WQ_CTL_BUSY (⟨1, 63⟩ : SluQ).die.val (⟨1, 63⟩ : SluQ).q.val) = true ∧
      (w 1 : CsrW).val.toNat % 2 = 1) ∧
    (((st live).dev.workQ (sluWq (⟨1, 63⟩ : SluQ).die.val (⟨1, 63⟩ : SluQ).q.val).key).flushTail = none) ∧
    (((st (live.setWorkQ 0 ⟨[], some (0, 0)⟩)).dev.workQ (sluWq (q0 : SluQ).die.val (q0 : SluQ).q.val).key).flushTail =
      some ((0 : Nat), (0 : Nat)) ∧ (st (live.setWorkQ 0 ⟨[], some (0, 0)⟩)).dev.ras.boundaries ≤ (0 : Nat)) ∧
    (let w := sluWq (q0 : SluQ).die.val (q0 : SluQ).q.val;
      (st { (live.set (R.SLU_WQ_CFG_LOG2SIZE 0 0) 4).setWorkQ 0 ⟨[], some (0, 0)⟩ with ras := { live.ras with boundaries := 1 } }).dev.applied = true ∧ (st { (live.set (R.SLU_WQ_CFG_LOG2SIZE 0 0) 4).setWorkQ 0 ⟨[], some (0, 0)⟩ with ras := { live.ras with boundaries := 1 } }).dev.workQ w.key = ⟨[], some ((st { (live.set (R.SLU_WQ_CFG_LOG2SIZE 0 0) 4).setWorkQ 0 ⟨[], some (0, 0)⟩ with ras := { live.ras with boundaries := 1 } }).dev.get w.ring.head, (0 : Nat))⟩ ∧ (0 : Nat) < (st { (live.set (R.SLU_WQ_CFG_LOG2SIZE 0 0) 4).setWorkQ 0 ⟨[], some (0, 0)⟩ with ras := { live.ras with boundaries := 1 } }).dev.ras.boundaries ∧ 0 < (st { (live.set (R.SLU_WQ_CFG_LOG2SIZE 0 0) 4).setWorkQ 0 ⟨[], some (0, 0)⟩ with ras := { live.ras with boundaries := 1 } }).dev.get w.ring.size) ∧
    ((st live).dev.applied = true ∧ SMap.get? (st live).dev.eng.running (128 * (0 : Fin 2).val + (127 : Fin 128).val) = none) := by
  and_intros <;> decide +kernel

theorem witness_SluiceControl_part2 :
    (st { holds 0 (job1 (desc 4 1 0 1 64 0 0 0 0 2)) live with eng := { (holds 0 (job1 (desc 4 1 0 1 64 0 0 0 0 2)) live).eng with running := [(255, (0, 0, 0))] } }).dev.applied = true ∧ SMap.get? (st { holds 0 (job1 (desc 4 1 0 1 64 0 0 0 0 2)) live with eng := { (holds 0 (job1 (desc 4 1 0 1 64 0 0 0 0 2)) live).eng with running := [(255, (0, 0, 0))] } }).dev.eng.running (128 * (1 : Fin 2).val + (127 : Fin 128).val) = some ((0 : Nat), (0 : Nat), (0 : Nat)) ∧ jobOf (0 : Nat) (0 : Nat) (st { holds 0 (job1 (desc 4 1 0 1 64 0 0 0 0 2)) live with eng := { (holds 0 (job1 (desc 4 1 0 1 64 0 0 0 0 2)) live).eng with running := [(255, (0, 0, 0))] } }).dev = some ((job1 (desc 4 1 0 1 64 0 0 0 0 2))) ∧ ((job1 (desc 4 1 0 1 64 0 0 0 0 2))).computed ≤ (0 : Nat) :=
  by decide +kernel

theorem witness_SluiceControl_more1 :
    (st { holds 0 { (job1 (desc 4 1 0 1 64 0 0 0 0 2)) with computed := 1 } live with eng := { (holds 0 { (job1 (desc 4 1 0 1 64 0 0 0 0 2)) with computed := 1 } live).eng with running := [(255, (0, 0, 0))] } }).dev.applied = true ∧ SMap.get? (st { holds 0 { (job1 (desc 4 1 0 1 64 0 0 0 0 2)) with computed := 1 } live with eng := { (holds 0 { (job1 (desc 4 1 0 1 64 0 0 0 0 2)) with computed := 1 } live).eng with running := [(255, (0, 0, 0))] } }).dev.eng.running (128 * (1 : Fin 2).val + (127 : Fin 128).val) = some ((0 : Nat), (0 : Nat), (0 : Nat)) ∧ ((∀ j, jobOf (0 : Nat) (0 : Nat) (st { holds 0 { (job1 (desc 4 1 0 1 64 0 0 0 0 2)) with computed := 1 } live with eng := { (holds 0 { (job1 (desc 4 1 0 1 64 0 0 0 0 2)) with computed := 1 } live).eng with running := [(255, (0, 0, 0))] } }).dev = some j → (0 : Nat) < j.computed)) :=
  ⟨by decide +kernel, by decide +kernel, fun j h => by have : j = _ := Option.some.inj (h.symm.trans rfl); subst this; decide⟩

theorem witness_SluiceControl_more2 :
    ∃ (r : RingRef) (h : RegHit), ringOn0.applied = true ∧ ringOfCfg R.FWD_RING_CFG ringOn0 = some (r, none) ∧ findReg R.FWD_RING_CFG = some h ∧
      ringOn0.unitFitted h = true ∧ ringFixed r ringOn0 = true ∧ wBits (w 0) r.size ≠ ringOn0.get r.size :=
  ⟨_, _, by decide +kernel, rfl, rfl, by decide +kernel, by decide +kernel, by decide +kernel⟩

theorem witness_SluiceControl_more3 :
    ∃ (r : RingRef) (h : RegHit), live.applied = true ∧ ringOfCfg R.FWD_RING_CFG live = some (r, none) ∧ findReg R.FWD_RING_CFG = some h ∧
      live.unitFitted h = true ∧ ringFixed r live = false ∧ wBits (fw [(R.FWD_RING_CFG_LOG2SIZE, 16)]) r.size ≠ live.get r.size :=
  ⟨_, _, by decide +kernel, rfl, rfl, by decide +kernel, by decide +kernel, by decide +kernel⟩

theorem witness_FlumeQueue :
    ((st live).dev.applied = true ∧ mayTake (flumeWq (15 : Fin 16).val) (st live).dev = false) ∧
    ((st (holds 143 (job1 (zeros 64)) live)).dev.applied = true ∧
      liveJob (flumeWq (15 : Fin 16).val).key (fun j₀ => j₀.op == 0) (st (holds 143 (job1 (zeros 64)) live)).dev = some (job1 (zeros 64) : Job) ∧
      earlierDone (flumeWq (15 : Fin 16).val) (job1 (zeros 64) : Job).id (st (holds 143 (job1 (zeros 64)) live)).dev = true) ∧
    ((st (holds 143 (job1 (desc 1 2 0 0 1 0 0 1 2 3)) (flumeDev []))).dev.applied = true ∧
      (st (holds 143 (job1 (desc 1 2 0 0 1 0 0 1 2 3)) (flumeDev []))).dev.get R.FLUME_STAT_INSVC ≠ 0 ∧
      liveJob (flumeWq (15 : Fin 16).val).key (fun j₀ => j₀.op == (1 : Nat)) (st (holds 143 (job1 (desc 1 2 0 0 1 0 0 1 2 3)) (flumeDev []))).dev = some ((job1 (desc 1 2 0 0 1 0 0 1 2 3)) : Job) ∧ ((((job1 (desc 1 2 0 0 1 0 0 1 2 3)) : Job).order = false ∨ earlierDone (flumeWq (15 : Fin 16).val) ((job1 (desc 1 2 0 0 1 0 0 1 2 3)) : Job).id (st (holds 143 (job1 (desc 1 2 0 0 1 0 0 1 2 3)) (flumeDev []))).dev = true)) ∧ (1 : Nat) = 1) ∧
    ((st (holds 143 (job1 (desc 2 2 0 0 1 0 0 1 2 3)) (flumeDev []))).dev.applied = true ∧
      (st (holds 143 (job1 (desc 2 2 0 0 1 0 0 1 2 3)) (flumeDev []))).dev.get R.FLUME_STAT_INSVC ≠ 0 ∧
      liveJob (flumeWq (15 : Fin 16).val).key (fun j₀ => j₀.op == (2 : Nat)) (st (holds 143 (job1 (desc 2 2 0 0 1 0 0 1 2 3)) (flumeDev []))).dev = some ((job1 (desc 2 2 0 0 1 0 0 1 2 3)) : Job) ∧ ((((job1 (desc 2 2 0 0 1 0 0 1 2 3)) : Job).order = false ∨ earlierDone (flumeWq (15 : Fin 16).val) ((job1 (desc 2 2 0 0 1 0 0 1 2 3)) : Job).id (st (holds 143 (job1 (desc 2 2 0 0 1 0 0 1 2 3)) (flumeDev []))).dev = true)) ∧ (2 : Nat) = 2) ∧
    ((st (holds 143 (job1 (desc 3 2 0 0 0 0 0 1 2 3)) (flumeDev []))).dev.applied = true ∧
      (st (holds 143 (job1 (desc 3 2 0 0 0 0 0 1 2 3)) (flumeDev []))).dev.get R.FLUME_STAT_INSVC ≠ 0 ∧
      liveJob (flumeWq (15 : Fin 16).val).key (fun j₀ => j₀.op == (3 : Nat)) (st (holds 143 (job1 (desc 3 2 0 0 0 0 0 1 2 3)) (flumeDev []))).dev = some ((job1 (desc 3 2 0 0 0 0 0 1 2 3)) : Job) ∧ ((((job1 (desc 3 2 0 0 0 0 0 1 2 3)) : Job).order = false ∨ earlierDone (flumeWq (15 : Fin 16).val) ((job1 (desc 3 2 0 0 0 0 0 1 2 3)) : Job).id (st (holds 143 (job1 (desc 3 2 0 0 0 0 0 1 2 3)) (flumeDev []))).dev = true)) ∧ (3 : Nat) = 3) := by
  and_intros <;> decide +kernel

theorem witness_FlumeQueue_part2 :
    ((st (holds 143 (job1 (desc 4 2 0 0 0 0 0 1 2 3)) (flumeDev []))).dev.applied = true ∧
      (st (holds 143 (job1 (desc 4 2 0 0 0 0 0 1 2 3)) (flumeDev []))).dev.get R.FLUME_STAT_INSVC ≠ 0 ∧
      liveJob (flumeWq (15 : Fin 16).val).key (fun j₀ => j₀.op == (4 : Nat)) (st (holds 143 (job1 (desc 4 2 0 0 0 0 0 1 2 3)) (flumeDev []))).dev = some ((job1 (desc 4 2 0 0 0 0 0 1 2 3)) : Job) ∧ ((((job1 (desc 4 2 0 0 0 0 0 1 2 3)) : Job).order = false ∨ earlierDone (flumeWq (15 : Fin 16).val) ((job1 (desc 4 2 0 0 0 0 0 1 2 3)) : Job).id (st (holds 143 (job1 (desc 4 2 0 0 0 0 0 1 2 3)) (flumeDev []))).dev = true)) ∧ (4 : Nat) = 4) ∧
    (let w := flumeWq (15 : Fin 16).val; (st (holds 143 { (job1 (desc 4 1 0 1 64 0 0 0 0 2)) with status := some 0 } live)).dev.applied = true ∧
      (st (holds 143 { (job1 (desc 4 1 0 1 64 0 0 0 0 2)) with status := some 0 } live)).dev.workQ w.key = ⟨({ (job1 (desc 4 1 0 1 64 0 0 0 0 2)) with status := some 0 } : Job) :: ([] : List Job), none⟩ ∧ ({ (job1 (desc 4 1 0 1 64 0 0 0 0 2)) with status := some 0 } : Job).status = some 0 ∧ ({ (job1 (desc 4 1 0 1 64 0 0 0 0 2)) with status := some 0 } : Job).crec = false) ∧
    (let w := flumeWq (15 : Fin 16).val;
      (st (holds 143 { (job1 (desc 4 1 0 1 64 0 0 0 0 2)) with status := some 2 } (sets [(R.FLUME_WQ_CR_CFG_EN 15, 1), (R.FLUME_WQ_CR_CFG_LOG2SIZE 15, 4)] live))).dev.applied = true ∧ (st (holds 143 { (job1 (desc 4 1 0 1 64 0 0 0 0 2)) with status := some 2 } (sets [(R.FLUME_WQ_CR_CFG_EN 15, 1), (R.FLUME_WQ_CR_CFG_LOG2SIZE 15, 4)] live))).dev.workQ w.key = ⟨({ (job1 (desc 4 1 0 1 64 0 0 0 0 2)) with status := some 2 } : Job) :: ([] : List Job), none⟩ ∧ ({ (job1 (desc 4 1 0 1 64 0 0 0 0 2)) with status := some 2 } : Job).status = some (2) ∧ (((2) ≠ 0 ∨ ({ (job1 (desc 4 1 0 1 64 0 0 0 0 2)) with status := some 2 } : Job).crec = true)) ∧ (st (holds 143 { (job1 (desc 4 1 0 1 64 0 0 0 0 2)) with status := some 2 } (sets [(R.FLUME_WQ_CR_CFG_EN 15, 1), (R.FLUME_WQ_CR_CFG_LOG2SIZE 15, 4)] live))).dev.ringOn w.cr = true ∧ (st (holds 143 { (job1 (desc 4 1 0 1 64 0 0 0 0 2)) with status := some 2 } (sets [(R.FLUME_WQ_CR_CFG_EN 15, 1), (R.FLUME_WQ_CR_CFG_LOG2SIZE 15, 4)] live))).dev.ringFull w.cr = false) := by
  and_intros <;> decide +kernel

theorem witness_FlumeQueue_more1 :
    ∃ j : Job, (flumeDev [(0, 5)]).applied = true ∧ mayTake (flumeWq 15) (flumeDev [(0, 5)]) = true ∧
      jobOf 143 (flumeDev [(0, 5)]).eng.nextJob (takeJob (flumeWq 15) id (flumeDev [(0, 5)])) = some j ∧
      flumeCheck 15 j (takeJob (flumeWq 15) id (flumeDev [(0, 5)])) = some (1, 0) :=
  ⟨_, by decide +kernel, by decide +kernel, rfl, by decide +kernel⟩

theorem witness_FlumeQueue_more2 :
    ∃ j : Job, (flumeDev []).applied = true ∧ mayTake (flumeWq 15) (flumeDev []) = true ∧
      jobOf 143 (flumeDev []).eng.nextJob (takeJob (flumeWq 15) id (flumeDev [])) = some j ∧
      flumeCheck 15 j (takeJob (flumeWq 15) id (flumeDev [])) = none ∧ j.order = false :=
  ⟨_, by decide +kernel, by decide +kernel, rfl, by decide +kernel⟩

theorem witness_FlumeRoundTrip :
    let code := canonical (tableLens oneCode); beAt oneCode 5 1 = 7 ∧ (zeros 4096).length = 4096 ∧ (∀ c ∈ code, 1 ≤ c.1 ∧ c.1 ≤ 15 ∧
      c.2.2 < 2 ^ c.1) ∧ (∀ c ∈ code, ∀ e ∈ code, c.1 ≤ e.1 → e.2.2 / 2 ^ (e.1 - c.1) = c.2.2 → c = e) :=
  by decide +kernel

theorem witness_FlumeRoundTrip_more1 :
    let code := canonical (tableLens oneCode); beAt oneCode 5 1 = 7 ∧ (zeros 4096).length = 4096 ∧ (∀ c ∈ code, 1 ≤ c.1 ∧ c.1 ≤ 15 ∧
      c.2.2 < 2 ^ c.1) ∧ (∀ c ∈ code, ∀ e ∈ code, c.1 ≤ e.1 → e.2.2 / 2 ^ (e.1 - c.1) = c.2.2 → c = e) ∧
      ∃ bytes, codeBlock 2 code (zeros 4096) = some bytes :=
  ⟨by decide +kernel, by decide +kernel, by decide +kernel, by decide +kernel, zero_block_coded⟩

theorem witness_TallyIntake :
    ((tIn 0).applied = true ∧ (tIn 0).cist.toTally = [{ builtPkt 0 0 (ofpPacket { type := 4 } (tpay 0 0)) (some 0) with whole := true }] ∧
      opcIs 0 (ofpPayload ({ builtPkt 0 0 (ofpPacket { type := 4 } (tpay 0 0)) (some 0) with whole := true } : Pkt).bytes) = true ∧
      ((tIn 0).cist.built.filter (fun b => decide (16 ≤ b.engine))).length < 8192) ∧
    ((tIn 1).applied = true ∧ (tIn 1).cist.toTally = [{ builtPkt 0 0 (ofpPacket { type := 4 } (tpay 1 255)) (some 0) with whole := true }] ∧
      opcIs 1 (ofpPayload ({ builtPkt 0 0 (ofpPacket { type := 4 } (tpay 1 255)) (some 0) with whole := true } : Pkt).bytes) = true ∧
      ((tIn 1).cist.built.filter (fun b => decide (16 ≤ b.engine))).length < 8192) ∧
    ((tIn 2).applied = true ∧ (tIn 2).cist.toTally = [{ builtPkt 0 0 (ofpPacket { type := 4 } (tpay 2 0)) (some 0) with whole := true }] ∧
      opcIs 2 (ofpPayload ({ builtPkt 0 0 (ofpPacket { type := 4 } (tpay 2 0)) (some 0) with whole := true } : Pkt).bytes) = true ∧
      ((tIn 2).cist.built.filter (fun b => decide (16 ≤ b.engine))).length < 8192) ∧
    ((tIn 3).applied = true ∧ (tIn 3).cist.toTally = [{ builtPkt 0 0 (ofpPacket { type := 4 } (tpay 3 0)) (some 0) with whole := true }] ∧
      opcIs 3 (ofpPayload ({ builtPkt 0 0 (ofpPacket { type := 4 } (tpay 3 0)) (some 0) with whole := true } : Pkt).bytes) = true ∧
      ((tIn 3).cist.built.filter (fun b => decide (16 ≤ b.engine))).length < 8192) ∧
    ((tIn 4).applied = true ∧ (tIn 4).cist.toTally = [{ builtPkt 0 0 (ofpPacket { type := 4 } (tpay 4 0)) (some 0) with whole := true }] ∧
      opcIs 4 (ofpPayload ({ builtPkt 0 0 (ofpPacket { type := 4 } (tpay 4 0)) (some 0) with whole := true } : Pkt).bytes) = true ∧
      ((tIn 4).cist.built.filter (fun b => decide (16 ≤ b.engine))).length < 8192) ∧
    (requestOk ({ treq 1 0 with payload := tpay 1 0 } : TallyPkt).payload = false) ∧
    (requestOk (treq 0 5 : TallyPkt).payload = true ∧ tWin.get R.TALLY_CFG_MAXHOPS < (treq 0 5 : TallyPkt).hops) ∧
    (intakeCheck (treq 0 4 : TallyPkt) tWin = none) ∧
    (SMap.getD live.tally.q (0 : Nat) [] = []) := by
  and_intros <;> decide +kernel

theorem witness_TallyLines :
    ((st (tQ 8589934591 ⟨2, 0, 56, [treq 2 0]⟩)).dev.applied = true ∧
      SMap.getD (st (tQ 8589934591 ⟨2, 0, 56, [treq 2 0]⟩)).dev.tally.q (8589934591 : Fin 8589934592).val [] =
      (⟨2, 0, 56, [treq 2 0]⟩ : TallyEntry) :: ([] : List TallyEntry) ∧
      (st (tQ 8589934591 ⟨2, 0, 56, [treq 2 0]⟩)).dev.tally.cached.contains (8589934591 : Fin 8589934592).val = false ∧
      (st (tQ 8589934591 ⟨2, 0, 56, [treq 2 0]⟩)).dev.poisoned 1 (lineAddr (8589934591 : Fin 8589934592).val (st (tQ 8589934591 ⟨2, 0, 56, [treq 2 0]⟩)).dev) 64 = false) ∧
    ((st { tQ 0 ⟨3, 0, 56, [treq 3 0]⟩ with poison := [(1, 0)], tally := { (tQ 0 ⟨3, 0, 56, [treq 3 0]⟩).tally with cached := [] } }).dev.applied = true ∧ SMap.getD (st { tQ 0 ⟨3, 0, 56, [treq 3 0]⟩ with poison := [(1, 0)], tally := { (tQ 0 ⟨3, 0, 56, [treq 3 0]⟩).tally with cached := [] } }).dev.tally.q (0 : Fin 8589934592).val [] = (⟨3, 0, 56, [treq 3 0]⟩ : TallyEntry) :: ([] : List TallyEntry) ∧ (⟨3, 0, 56, [treq 3 0]⟩ : TallyEntry).reqs.head? = some (treq 3 0 : TallyPkt) ∧ (st { tQ 0 ⟨3, 0, 56, [treq 3 0]⟩ with poison := [(1, 0)], tally := { (tQ 0 ⟨3, 0, 56, [treq 3 0]⟩).tally with cached := [] } }).dev.poisoned 1 (lineAddr (0 : Fin 8589934592).val (st { tQ 0 ⟨3, 0, 56, [treq 3 0]⟩ with poison := [(1, 0)], tally := { (tQ 0 ⟨3, 0, 56, [treq 3 0]⟩).tally with cached := [] } }).dev) 64 = true ∧ (st { tQ 0 ⟨3, 0, 56, [treq 3 0]⟩ with poison := [(1, 0)], tally := { (tQ 0 ⟨3, 0, 56, [treq 3 0]⟩).tally with cached := [] } }).dev.tally.cached.contains (0 : Fin 8589934592).val = false) ∧
    ((st { tQ 0 ⟨3, 0, 56, [treq 3 0]⟩ with poison := [(1, 0)], tally := { (tQ 0 ⟨3, 0, 56, [treq 3 0]⟩).tally with cached := [0] } }).dev.applied = true ∧ SMap.getD (st { tQ 0 ⟨3, 0, 56, [treq 3 0]⟩ with poison := [(1, 0)], tally := { (tQ 0 ⟨3, 0, 56, [treq 3 0]⟩).tally with cached := [0] } }).dev.tally.q (0 : Fin 8589934592).val [] = (⟨3, 0, 56, [treq 3 0]⟩ : TallyEntry) :: ([] : List TallyEntry) ∧ (⟨3, 0, 56, [treq 3 0]⟩ : TallyEntry).reqs.head? = some (treq 3 0 : TallyPkt) ∧ (st { tQ 0 ⟨3, 0, 56, [treq 3 0]⟩ with poison := [(1, 0)], tally := { (tQ 0 ⟨3, 0, 56, [treq 3 0]⟩).tally with cached := [0] } }).dev.poisoned 1 (lineAddr (0 : Fin 8589934592).val (st { tQ 0 ⟨3, 0, 56, [treq 3 0]⟩ with poison := [(1, 0)], tally := { (tQ 0 ⟨3, 0, 56, [treq 3 0]⟩).tally with cached := [0] } }).dev) 64 = true ∧ (st { tQ 0 ⟨3, 0, 56, [treq 3 0]⟩ with poison := [(1, 0)], tally := { (tQ 0 ⟨3, 0, 56, [treq 3 0]⟩).tally with cached := [0] } }).dev.tally.cached.contains (0 : Fin 8589934592).val = true) ∧
    (SMap.getD (st live).dev.tally.q (8589934591 : Fin 8589934592).val [] = []) := by
  and_intros <;> decide +kernel

theorem witness_TallyLines_part2 :
    ((st { tQ 8589934591 ⟨2, 0, 56, [treq 2 0]⟩ with tally := { (tQ 8589934591 ⟨2, 0, 56, [treq 2 0]⟩).tally with cached := [8589934591] } }).dev.applied = true ∧ SMap.getD (st { tQ 8589934591 ⟨2, 0, 56, [treq 2 0]⟩ with tally := { (tQ 8589934591 ⟨2, 0, 56, [treq 2 0]⟩).tally with cached := [8589934591] } }).dev.tally.q (8589934591 : Fin 8589934592).val [] = (⟨2, 0, 56, [treq 2 0]⟩ : TallyEntry) :: ([] : List TallyEntry) ∧ (st { tQ 8589934591 ⟨2, 0, 56, [treq 2 0]⟩ with tally := { (tQ 8589934591 ⟨2, 0, 56, [treq 2 0]⟩).tally with cached := [8589934591] } }).dev.tally.cached.contains (8589934591 : Fin 8589934592).val = true ∧ (st { tQ 8589934591 ⟨2, 0, 56, [treq 2 0]⟩ with tally := { (tQ 8589934591 ⟨2, 0, 56, [treq 2 0]⟩).tally with cached := [8589934591] } }).dev.poisoned 1 (lineAddr (8589934591 : Fin 8589934592).val (st { tQ 8589934591 ⟨2, 0, 56, [treq 2 0]⟩ with tally := { (tQ 8589934591 ⟨2, 0, 56, [treq 2 0]⟩).tally with cached := [8589934591] } }).dev) 64 = false) ∧
    ((st { live with tally := { live.tally with ans := [(8589934591, [⟨treq 0 0, 0, 0, false, zeros 64⟩])] } }).dev.applied = true ∧
      SMap.getD (st { live with tally := { live.tally with ans := [(8589934591, [⟨treq 0 0, 0, 0, false, zeros 64⟩])] } }).dev.tally.ans (8589934591 : Fin 8589934592).val [] = (⟨treq 0 0, 0, 0, false, zeros 64⟩ : TallyAns) :: ([] : List TallyAns) ∧ (st { live with tally := { live.tally with ans := [(8589934591, [⟨treq 0 0, 0, 0, false, zeros 64⟩])] } }).dev.cist.built.any (fun b => b.engine == 16 + tallyEngine (8589934591 : Fin 8589934592).val) = false) ∧
    (live.running = true ∧ wOn (fw [(R.TALLY_LOST_CLR_GO, 1)]) R.TALLY_LOST_CLR_GO = true ∧
      bitAt (live.rd64 (R.TALLY_LOST (wBits (fw [(R.TALLY_LOST_CLR_GO, 1)]) R.TALLY_LOST_CLR_IDX))) 63 = false) ∧
    ((⟨3, 0, 56, [treq 3 0]⟩ : TallyEntry).opc = 3 ∧ (⟨3, 0, 56, [treq 3 0]⟩ : TallyEntry).reqs = [(treq 3 0 : TallyPkt)] ∧
      leAt (zeros 64 : List Byte) (⟨3, 0, 56, [treq 3 0]⟩ : TallyEntry).offset (atypeBytes (⟨3, 0, 56, [treq 3 0]⟩ : TallyEntry).atype) =
      tOpnd (treq 3 0 : TallyPkt).payload) ∧
    ((⟨3, 0, 56, [treq 3 0]⟩ : TallyEntry).opc = 3 ∧ (⟨3, 0, 56, [treq 3 0]⟩ : TallyEntry).reqs = [(treq 3 0 : TallyPkt)] ∧
      leAt (zeros 63 ++ [1] : List Byte) (⟨3, 0, 56, [treq 3 0]⟩ : TallyEntry).offset (atypeBytes (⟨3, 0, 56, [treq 3 0]⟩ : TallyEntry).atype) ≠
      tOpnd (treq 3 0 : TallyPkt).payload) := by
  and_intros <;> decide +kernel

theorem witness_CombiningIsSequential :
    let e : TallyEntry := ⟨2, 0, 56, [treq 2 0]⟩; (e.opc = 2 ∨ e.opc = 4) ∧ e.atype ≤ 3 ∧ e.offset + atypeBytes e.atype ≤ (zeros 64).length :=
  by decide +kernel

theorem witness_JobRecords :
    (jobBatchFrom (st live).dev ((st live).dev.ringCount jupdRing) 0 = none) ∧
    ((st (jDev [(4, 1), (129, 1)] 2)).dev.applied = true ∧
      jobBatchFrom (st (jDev [(4, 1), (129, 1)] 2)).dev ((st (jDev [(4, 1), (129, 1)] 2)).dev.ringCount jupdRing) 0 =
      some ([⟨0, zeros 4 ++ [1] ++ zeros 123⟩, ⟨1, zeros 1 ++ [1] ++ zeros 126⟩] : List JobRec) ∧
      batchBroken ([⟨0, zeros 4 ++ [1] ++ zeros 123⟩, ⟨1, zeros 1 ++ [1] ++ zeros 126⟩] : List JobRec) = true) ∧
    (let b := (⟨0, zeros 1 ++ [1] ++ zeros 126⟩ : JobRec) :: ([] : List JobRec); (st (jDev [(1, 1)] 1)).dev.applied = true ∧
      jobBatchFrom (st (jDev [(1, 1)] 1)).dev ((st (jDev [(1, 1)] 1)).dev.ringCount jupdRing) 0 = some b ∧ batchBroken b = false ∧
      (st (jDev [(1, 1)] 1)).dev.jobs.staged + b.length ≤ 16384 ∧ (st (jDev [(1, 1)] 1)).dev.jobs.lanes = []) ∧
    ((applying 0).applied = true ∧ (applying 0).boot.turnsBegun = true ∧ (applying 0).jobs.apply = [⟨0, jrec 0 1 1 0 1 1⟩] ∧
      (jobRecord (jrec 0 1 1 0 1 1) (applying 0)).isSome = true ∧ jOp (jrec 0 1 1 0 1 1) = 0) ∧
    ((applying 1).applied = true ∧ (applying 1).boot.turnsBegun = true ∧ (applying 1).jobs.apply = [⟨0, jrec 1 1 1 0 1 1⟩] ∧
      (jobRecord (jrec 1 1 1 0 1 1) (applying 1)).isSome = true ∧ jOp (jrec 1 1 1 0 1 1) = 1) ∧
    ((applying 2).applied = true ∧ (applying 2).boot.turnsBegun = true ∧ (applying 2).jobs.apply = [⟨0, jrec 2 1 1 0 1 1⟩] ∧
      (jobRecord (jrec 2 1 1 0 1 1) (applying 2)).isSome = true ∧ jOp (jrec 2 1 1 0 1 1) = 2) ∧
    ((applying 3).applied = true ∧ (applying 3).boot.turnsBegun = true ∧ (applying 3).jobs.apply = [⟨0, jrec 3 1 1 0 1 1⟩] ∧
      (jobRecord (jrec 3 1 1 0 1 1) (applying 3)).isSome = true ∧ jOp (jrec 3 1 1 0 1 1) = 3) ∧
    ((applying 4).applied = true ∧ (applying 4).boot.turnsBegun = true ∧ (applying 4).jobs.apply = [⟨0, jrec 4 1 1 0 1 1⟩] ∧
      (jobRecord (jrec 4 1 1 0 1 1) (applying 4)).isSome = true ∧ jOp (jrec 4 1 1 0 1 1) = 4) ∧
    ((applying 5).applied = true ∧ (applying 5).boot.turnsBegun = true ∧ (applying 5).jobs.apply = [⟨0, jrec 5 1 1 0 1 1⟩] ∧
      (jobRecord (jrec 5 1 1 0 1 1) (applying 5)).isSome = true ∧ jOp (jrec 5 1 1 0 1 1) = 5) ∧
    ((applying 6).applied = true ∧ (applying 6).boot.turnsBegun = true ∧ (applying 6).jobs.apply = [⟨0, jrec 6 1 1 0 1 1⟩] ∧
      (jobRecord (jrec 6 1 1 0 1 1) (applying 6)).isSome = true ∧ jOp (jrec 6 1 1 0 1 1) = 6) ∧
    (jOp (jrec 0 1 0 0 0 0 : List Byte) = 0) ∧
    (jOp (jrec 1 1 0 0 0 0 : List Byte) ≠ 0 ∧ jJob (jrec 1 1 0 0 0 0 : List Byte) = 0) ∧
    (1 ≤ (4095 : Nat) ∧ (4095 : Nat) ≤ 4095 ∧ entryOf (4095 : Nat) live = none ∧ mapOf (1 : Nat) live = (none, none)) ∧
    (((4096 : Nat) = 0 ∨ 4095 < (4096 : Nat))) := by
  and_intros <;> decide +kernel

theorem witness_JobRecords_part2 :
    ((mapOf (1 : Nat) ({ live with jobs := { live.jobs with next := ⟨[(1, (some 1, none))], [(1, (1, 2, 1))]⟩ } })).1 = some (1 : JobIdx) ∧
      (entryOf (1 : JobIdx).val ({ live with jobs := { live.jobs with next := ⟨[(1, (some 1, none))], [(1, (1, 2, 1))]⟩ } })).map (fun e => e.2) = some ((2 : Byte), 1) ∧ (2 : Byte).toNat = (2 : Nat)) ∧
    (jobEntry (1 : Nat) live = none) ∧
    ((65535 : Nat) ≤ 65535 ∧ gValid (zeros 7 ++ [1] ++ zeros 56 : List Byte) = false ∧
      groupBad (zeros 7 ++ [1] ++ zeros 56 : List Byte) live = false) ∧
    ((65535 : Nat) ≤ 65535) ∧
    (canalValid (zeros 3 ++ [0x80] ++ zeros 28 : List Byte) = true ∧
      activeIdx (1 : Nat) live ≠ some (beBits (zeros 3 ++ [0x80] ++ zeros 28 : List Byte) 4 2 11 0)) := by
  and_intros <;> decide +kernel

theorem witness_JobTimers :
    (let tmo := max 1 ((st ({ live with jobs := { live.jobs with vis := ⟨[], [(1, (1, 0, 2))]⟩, drainFrom := [(1, 0)] } }.wr64 R.GLB_TURN_NUM 1)).dev.get R.FWD_JOB_CFG_DRAINTMO); (st ({ live with jobs := { live.jobs with vis := ⟨[], [(1, (1, 0, 2))]⟩, drainFrom := [(1, 0)] } }.wr64 R.GLB_TURN_NUM 1)).dev.applied = true ∧ SMap.get? (st ({ live with jobs := { live.jobs with vis := ⟨[], [(1, (1, 0, 2))]⟩, drainFrom := [(1, 0)] } }.wr64 R.GLB_TURN_NUM 1)).dev.jobs.vis.entry (1 : JobIdx).val = some ((1 : BitVec 16), (0 : Byte), 2) ∧ SMap.get? (st ({ live with jobs := { live.jobs with vis := ⟨[], [(1, (1, 0, 2))]⟩, drainFrom := [(1, 0)] } }.wr64 R.GLB_TURN_NUM 1)).dev.jobs.drainFrom (1 : JobIdx).val = some (0 : Nat) ∧ (0 : Nat) + tmo ≤ (st ({ live with jobs := { live.jobs with vis := ⟨[], [(1, (1, 0, 2))]⟩, drainFrom := [(1, 0)] } }.wr64 R.GLB_TURN_NUM 1)).dev.turn) ∧
    (let tmo := max 1 ((st { live with jobs := { live.jobs with vis := ⟨[], [(1, (1, 0, 2))]⟩, drainFrom := [(1, 0)] } }).dev.get R.FWD_JOB_CFG_DRAINTMO); (st { live with jobs := { live.jobs with vis := ⟨[], [(1, (1, 0, 2))]⟩, drainFrom := [(1, 0)] } }).dev.applied = true ∧ SMap.get? (st { live with jobs := { live.jobs with vis := ⟨[], [(1, (1, 0, 2))]⟩, drainFrom := [(1, 0)] } }).dev.jobs.vis.entry (1 : JobIdx).val = some ((1 : BitVec 16), (0 : Byte), 2) ∧ SMap.get? (st { live with jobs := { live.jobs with vis := ⟨[], [(1, (1, 0, 2))]⟩, drainFrom := [(1, 0)] } }).dev.jobs.drainFrom (1 : JobIdx).val = some (0 : Nat) ∧ (st { live with jobs := { live.jobs with vis := ⟨[], [(1, (1, 0, 2))]⟩, drainFrom := [(1, 0)] } }).dev.turn < (0 : Nat) + tmo) ∧
    (SMap.get? ({ live with jobs := { live.jobs with vis := ⟨[], [(1, (1, 0, 3))]⟩, quarFrom := [(1, 0)], quarDone := [] } }.wr64 R.GLB_TURN_NUM 64).jobs.vis.entry (1 : Nat) = some ((1 : BitVec 16), (0 : Byte), 3) ∧ SMap.get? ({ live with jobs := { live.jobs with vis := ⟨[], [(1, (1, 0, 3))]⟩, quarFrom := [(1, 0)], quarDone := [] } }.wr64 R.GLB_TURN_NUM 64).jobs.quarFrom (1 : Nat) = some (0 : Nat)) ∧
    ((st ({ live with jobs := { live.jobs with vis := ⟨[], [(1, (1, 0, 3))]⟩, quarFrom := [(1, 0)], quarDone := [1] } }.wr64 R.GLB_TURN_NUM 64)).dev.applied = true ∧ SMap.get? (st ({ live with jobs := { live.jobs with vis := ⟨[], [(1, (1, 0, 3))]⟩, quarFrom := [(1, 0)], quarDone := [1] } }.wr64 R.GLB_TURN_NUM 64)).dev.jobs.vis.entry (1 : JobIdx).val = some ((1 : BitVec 16), (0 : Byte), 3) ∧ (st ({ live with jobs := { live.jobs with vis := ⟨[], [(1, (1, 0, 3))]⟩, quarFrom := [(1, 0)], quarDone := [1] } }.wr64 R.GLB_TURN_NUM 64)).dev.jobs.quarDone.contains (1 : JobIdx).val = true) := by
  and_intros <;> decide +kernel

theorem witness_JobTimers_part2 :
    ((st ({ live with jobs := { live.jobs with vis := ⟨[], [(1, (1, 0, 3))]⟩, quarFrom := [(1, 0)], quarDone := [] } }.wr64 R.GLB_TURN_NUM 64)).dev.applied = true ∧ SMap.get? (st ({ live with jobs := { live.jobs with vis := ⟨[], [(1, (1, 0, 3))]⟩, quarFrom := [(1, 0)], quarDone := [] } }.wr64 R.GLB_TURN_NUM 64)).dev.jobs.vis.entry (1 : JobIdx).val = some ((1 : BitVec 16), (0 : Byte), 3) ∧ (st ({ live with jobs := { live.jobs with vis := ⟨[], [(1, (1, 0, 3))]⟩, quarFrom := [(1, 0)], quarDone := [] } }.wr64 R.GLB_TURN_NUM 64)).dev.jobs.quarDone.contains (1 : JobIdx).val = false) ∧
    ((st canals).dev.applied = true ∧ SMap.get? (st canals).dev.jobs.canal (0 : Fin 4096).val = some (cent canalEnt : CanalEntry) ∧
      (st canals).dev.turn % 16 = (0 : Fin 4096).val / 256 ∧ (cent canalEnt : CanalEntry).done = false ∧
      (cent canalEnt : CanalEntry).stalled = false ∧ cCtmo (cent canalEnt : CanalEntry).bytes ≠ 0 ∧
      (cent canalEnt : CanalEntry).last + cCtmo (cent canalEnt : CanalEntry).bytes ≤ (st canals).dev.turn) ∧
    ((st (canals.wr64 R.GLB_TURN_NUM 0)).dev.applied = true ∧
      SMap.get? (st (canals.wr64 R.GLB_TURN_NUM 0)).dev.jobs.canal (0 : Fin 4096).val = some (cent canalEnt : CanalEntry) ∧
      (st (canals.wr64 R.GLB_TURN_NUM 0)).dev.turn % 16 = (0 : Fin 4096).val / 256 ∧ (cent canalEnt : CanalEntry).done = false ∧
      (cent canalEnt : CanalEntry).stalled = false ∧ cCtmo (cent canalEnt : CanalEntry).bytes ≠ 0 ∧
      (st (canals.wr64 R.GLB_TURN_NUM 0)).dev.turn < (cent canalEnt : CanalEntry).last + cCtmo (cent canalEnt : CanalEntry).bytes) := by
  and_intros <;> decide +kernel

theorem witness_HaulReceive :
    (macsecCheck (up 32 live) (32 : Nat) (zeros 12 ++ [0x88, 0xE5] : List Byte) = .error (1 : Nat)) ∧
    (msecMode plainSec (32 : Nat) ≠ 0 ∧ hasTag ([] : List Byte) = false) ∧
    ((((st live).dev.hl (63 : LinkNo).val).share (0 : Fin 2)).deliver = []) ∧
    (let home := routePort (st delivering).dev (63 : LinkNo).val 0;
      let d := countPort home 4 (countPort home 0 ((st delivering).dev.modHl (63 : LinkNo).val (fun l => l.modShare (0 : Fin 2) (fun x => { x with deliver := ([] : List (List Byte)) }))) (([] : List Byte).length + 4)); let r := takePacket home (home / 8) ⟨withFcs ([] : List Byte), false⟩ true d; (st delivering).dev.applied = true ∧ (((st delivering).dev.hl (63 : LinkNo).val).share (0 : Fin 2)).deliver = ([] : List Byte) :: ([] : List (List Byte)) ∧ r.1 = none) ∧
    (let s := st refusing; let home := routePort s.dev 63 0;
      let r := takePacket home (home / 8) ⟨withFcs lldp, false⟩ true (countPort home 4 (countPort home 0 (s.dev.modHl 63 (fun l => l.modShare 0 (fun x => { x with deliver := [] }))) (lldp.length + 4))); s.dev.applied = true ∧ ((s.dev.hl 63).share 0).deliver = [lldp] ∧ r.1 = some 6) ∧
    (let s := st noQuota; let home := routePort s.dev 63 0;
      let r := takePacket home (home / 8) ⟨withFcs lldp, false⟩ true (countPort home 4 (countPort home 0 (s.dev.modHl 63 (fun l => l.modShare 0 (fun x => { x with deliver := [] }))) (lldp.length + 4))); s.dev.applied = true ∧ ((s.dev.hl 63).share 0).deliver = [lldp] ∧ r.1 = some 1) := by
  and_intros <;> decide +kernel

theorem witness_HaulReceive_more1 :
    (st (up 32 live)).dev.applied = true ∧ (st (up 32 live)).dev.isPort (32 : PortNo).val = true ∧
      (st (up 32 live)).dev.isHaul (32 : PortNo).val = true ∧ (st (up 32 live)).dev.isUp (32 : PortNo).val = true ∧
      (st (up 32 live)).dev.nearLoop (32 : PortNo).val = false ∧ (st (up 32 live)).dev.farLoop (32 : PortNo).val = false ∧
      ¬ (64 ≤ ([] : List Byte).length ∧ ([] : List Byte).length ≤ 9280) :=
  by decide +kernel

theorem witness_HaulReceive_more2 :
    (st (up 32 live)).dev.applied = true ∧ (st (up 32 live)).dev.isPort (32 : PortNo).val = true ∧
      (st (up 32 live)).dev.isHaul (32 : PortNo).val = true ∧ (st (up 32 live)).dev.isUp (32 : PortNo).val = true ∧
      (st (up 32 live)).dev.nearLoop (32 : PortNo).val = false ∧ (st (up 32 live)).dev.farLoop (32 : PortNo).val = false ∧
      (64 ≤ (zeros 64 : List Byte).length ∧ (zeros 64 : List Byte).length ≤ 9280) ∧ crcRun crcStart (zeros 64 : List Byte) ≠ crcGood :=
  by decide +kernel

theorem witness_HaulReceive_more3 :
    (st (up 32 live)).dev.applied = true ∧ (st (up 32 live)).dev.isPort (32 : PortNo).val = true ∧
      (st (up 32 live)).dev.isHaul (32 : PortNo).val = true ∧ (st (up 32 live)).dev.isUp (32 : PortNo).val = true ∧
      (st (up 32 live)).dev.nearLoop (32 : PortNo).val = false ∧ (st (up 32 live)).dev.farLoop (32 : PortNo).val = false ∧
      (64 ≤ (withFcs (beBytes 6 0x0180C2000001 ++ zeros 6 ++ beBytes 2 0x8808 ++ beBytes 2 1 ++ zeros 44) : List Byte).length ∧
      (withFcs (beBytes 6 0x0180C2000001 ++ zeros 6 ++ beBytes 2 0x8808 ++ beBytes 2 1 ++ zeros 44) : List Byte).length ≤ 9280) ∧
      crcRun crcStart (withFcs (beBytes 6 0x0180C2000001 ++ zeros 6 ++ beBytes 2 0x8808 ++ beBytes 2 1 ++ zeros 44) : List Byte) = crcGood ∧
      ((macControl (withFcs (beBytes 6 0x0180C2000001 ++ zeros 6 ++ beBytes 2 0x8808 ++ beBytes 2 1 ++ zeros 44) : List Byte) 0x0001 ||
      macControl (withFcs (beBytes 6 0x0180C2000001 ++ zeros 6 ++ beBytes 2 0x8808 ++ beBytes 2 1 ++ zeros 44) : List Byte) 0x0101) = true) :=
  by decide +kernel

theorem witness_HaulReceive_more4 :
    (st (up 32 live)).dev.applied = true ∧ (st (up 32 live)).dev.isPort (32 : PortNo).val = true ∧
      (st (up 32 live)).dev.isHaul (32 : PortNo).val = true ∧ (st (up 32 live)).dev.isUp (32 : PortNo).val = true ∧
      (st (up 32 live)).dev.nearLoop (32 : PortNo).val = false ∧ (st (up 32 live)).dev.farLoop (32 : PortNo).val = false ∧
      (64 ≤ (withFcs lldp : List Byte).length ∧ (withFcs lldp : List Byte).length ≤ 9280) ∧ crcRun crcStart (withFcs lldp : List Byte) = crcGood ∧
      ¬ ((macControl (withFcs lldp : List Byte) 0x0001 || macControl (withFcs lldp : List Byte) 0x0101) = true) ∧
      (0x0180C2000000 ≤ beAt (withFcs lldp : List Byte) 0 6 ∧ beAt (withFcs lldp : List Byte) 0 6 ≤ 0x0180C200000F) :=
  by decide +kernel

theorem witness_HaulReceive_more5 :
    (st (up 32 live)).dev.applied = true ∧ (st (up 32 live)).dev.isPort (32 : PortNo).val = true ∧
      (st (up 32 live)).dev.isHaul (32 : PortNo).val = true ∧ (st (up 32 live)).dev.isUp (32 : PortNo).val = true ∧
      (st (up 32 live)).dev.nearLoop (32 : PortNo).val = false ∧ (st (up 32 live)).dev.farLoop (32 : PortNo).val = false ∧
      (64 ≤ (withFcs (zeros 12 ++ [8, 0] ++ zeros 46) : List Byte).length ∧ (withFcs (zeros 12 ++ [8, 0] ++ zeros 46) : List Byte).length ≤ 9280) ∧
      crcRun crcStart (withFcs (zeros 12 ++ [8, 0] ++ zeros 46) : List Byte) = crcGood ∧
      ¬ ((macControl (withFcs (zeros 12 ++ [8, 0] ++ zeros 46) : List Byte) 0x0001 ||
      macControl (withFcs (zeros 12 ++ [8, 0] ++ zeros 46) : List Byte) 0x0101) = true) ∧
      ¬ (0x0180C2000000 ≤ beAt (withFcs (zeros 12 ++ [8, 0] ++ zeros 46) : List Byte) 0 6 ∧
      beAt (withFcs (zeros 12 ++ [8, 0] ++ zeros 46) : List Byte) 0 6 ≤ 0x0180C200000F) ∧
      isHaulFrame (st (up 32 live)).dev (32 : PortNo).val (withFcs (zeros 12 ++ [8, 0] ++ zeros 46) : List Byte) = false :=
  by decide +kernel

theorem witness_HaulReceive_more6 :
    (st (up 32 live)).dev.applied = true ∧ (st (up 32 live)).dev.isPort (32 : PortNo).val = true ∧
      (st (up 32 live)).dev.isHaul (32 : PortNo).val = true ∧ (st (up 32 live)).dev.isUp (32 : PortNo).val = true ∧
      (st (up 32 live)).dev.nearLoop (32 : PortNo).val = false ∧ (st (up 32 live)).dev.farLoop (32 : PortNo).val = false ∧
      (64 ≤ (withFcs (zeros 12 ++ [0x88, 0xE5] ++ zeros 46) : List Byte).length ∧
      (withFcs (zeros 12 ++ [0x88, 0xE5] ++ zeros 46) : List Byte).length ≤ 9280) ∧
      crcRun crcStart (withFcs (zeros 12 ++ [0x88, 0xE5] ++ zeros 46) : List Byte) = crcGood ∧
      ¬ ((macControl (withFcs (zeros 12 ++ [0x88, 0xE5] ++ zeros 46) : List Byte) 0x0001 ||
      macControl (withFcs (zeros 12 ++ [0x88, 0xE5] ++ zeros 46) : List Byte) 0x0101) = true) ∧
      ¬ (0x0180C2000000 ≤ beAt (withFcs (zeros 12 ++ [0x88, 0xE5] ++ zeros 46) : List Byte) 0 6 ∧
      beAt (withFcs (zeros 12 ++ [0x88, 0xE5] ++ zeros 46) : List Byte) 0 6 ≤ 0x0180C200000F) ∧
      isHaulFrame (st (up 32 live)).dev (32 : PortNo).val (withFcs (zeros 12 ++ [0x88, 0xE5] ++ zeros 46) : List Byte) = true ∧
      macsecCheck (st (up 32 live)).dev (32 : PortNo).val (withFcs (zeros 12 ++ [0x88, 0xE5] ++ zeros 46) : List Byte) = .error (1) :=
  by decide +kernel

theorem witness_HaulReceive_more7 :
    (st (secDev)).dev.applied = true ∧ (st (secDev)).dev.isPort (32 : PortNo).val = true ∧ (st (secDev)).dev.isHaul (32 : PortNo).val = true ∧
      (st (secDev)).dev.isUp (32 : PortNo).val = true ∧ (st (secDev)).dev.nearLoop (32 : PortNo).val = false ∧
      (st (secDev)).dev.farLoop (32 : PortNo).val = false ∧ (64 ≤ (secTest : List Byte).length ∧ (secTest : List Byte).length ≤ 9280) ∧
      crcRun crcStart (secTest : List Byte) = crcGood ∧
      ¬ ((macControl (secTest : List Byte) 0x0001 || macControl (secTest : List Byte) 0x0101) = true) ∧
      ¬ (0x0180C2000000 ≤ beAt (secTest : List Byte) 0 6 ∧ beAt (secTest : List Byte) 0 6 ≤ 0x0180C200000F) ∧
      isHaulFrame (st (secDev)).dev (32 : PortNo).val (secTest : List Byte) = true ∧
      macsecCheck (st (secDev)).dev (32 : PortNo).val (secTest : List Byte) = .ok ([8, 0] ++ zeros 46) ∧
      beAt ([8, 0] ++ zeros 46) 0 2 ≠
      (macsecAccept (32 : PortNo).val (secTest : List Byte) (st (secDev)).dev).get (R.PORT_OFPE_ETYPE ((32 : PortNo).val / 128)) :=
  by decide +kernel

theorem witness_HaulReceive_more8 :
    (st (up 32 live)).dev.applied = true ∧ (st (up 32 live)).dev.isPort (32 : PortNo).val = true ∧
      (st (up 32 live)).dev.isHaul (32 : PortNo).val = true ∧ (st (up 32 live)).dev.isUp (32 : PortNo).val = true ∧
      (st (up 32 live)).dev.nearLoop (32 : PortNo).val = false ∧ (st (up 32 live)).dev.farLoop (32 : PortNo).val = false ∧
      (64 ≤ (withFcs (zeros 60) : List Byte).length ∧ (withFcs (zeros 60) : List Byte).length ≤ 9280) ∧
      crcRun crcStart (withFcs (zeros 60) : List Byte) = crcGood ∧
      ¬ ((macControl (withFcs (zeros 60) : List Byte) 0x0001 || macControl (withFcs (zeros 60) : List Byte) 0x0101) = true) ∧
      ¬ (0x0180C2000000 ≤ beAt (withFcs (zeros 60) : List Byte) 0 6 ∧ beAt (withFcs (zeros 60) : List Byte) 0 6 ≤ 0x0180C200000F) ∧
      isHaulFrame (st (up 32 live)).dev (32 : PortNo).val (withFcs (zeros 60) : List Byte) = true ∧
      macsecCheck (st (up 32 live)).dev (32 : PortNo).val (withFcs (zeros 60) : List Byte) = .ok (zeros 48) ∧
      beAt (zeros 48) 0 2 =
      (macsecAccept (32 : PortNo).val (withFcs (zeros 60) : List Byte) (st (up 32 live)).dev).get (R.PORT_OFPE_ETYPE ((32 : PortNo).val / 128)) ∧
      haulMatch (macsecAccept (32 : PortNo).val (withFcs (zeros 60) : List Byte) (st (up 32 live)).dev) (32 : PortNo).val (haulHdr (slice (zeros 48) 2 16)) ((zeros 48).drop 18) = none :=
  by decide +kernel

theorem witness_HaulReceive_more9 :
    (st (hdev id)).dev.applied = true ∧ (st (hdev id)).dev.isPort (32 : PortNo).val = true ∧ (st (hdev id)).dev.isHaul (32 : PortNo).val = true ∧
      (st (hdev id)).dev.isUp (32 : PortNo).val = true ∧ (st (hdev id)).dev.nearLoop (32 : PortNo).val = false ∧
      (st (hdev id)).dev.farLoop (32 : PortNo).val = false ∧ (64 ≤ (withFcs (zeros 12 ++ haulBody) : List Byte).length ∧
      (withFcs (zeros 12 ++ haulBody) : List Byte).length ≤ 9280) ∧ crcRun crcStart (withFcs (zeros 12 ++ haulBody) : List Byte) = crcGood ∧
      ¬ ((macControl (withFcs (zeros 12 ++ haulBody) : List Byte) 0x0001 || macControl (withFcs (zeros 12 ++ haulBody) : List Byte) 0x0101) =
      true) ∧ ¬ (0x0180C2000000 ≤ beAt (withFcs (zeros 12 ++ haulBody) : List Byte) 0 6 ∧
      beAt (withFcs (zeros 12 ++ haulBody) : List Byte) 0 6 ≤ 0x0180C200000F) ∧
      isHaulFrame (st (hdev id)).dev (32 : PortNo).val (withFcs (zeros 12 ++ haulBody) : List Byte) = true ∧
      macsecCheck (st (hdev id)).dev (32 : PortNo).val (withFcs (zeros 12 ++ haulBody) : List Byte) = .ok (haulBody) ∧
      beAt (haulBody) 0 2 =
      (macsecAccept (32 : PortNo).val (withFcs (zeros 12 ++ haulBody) : List Byte) (st (hdev id)).dev).get (R.PORT_OFPE_ETYPE ((32 : PortNo).val / 128)) ∧ haulMatch (macsecAccept (32 : PortNo).val (withFcs (zeros 12 ++ haulBody) : List Byte) (st (hdev id)).dev) (32 : PortNo).val (haulHdr (slice (haulBody) 2 16)) ((haulBody).drop 18) = some ((63), (0)) :=
  by decide +kernel

theorem witness_HaulInOrder :
    ((((281474976710655 : Nat) ≠ ((live.hl (0 : Nat)).share (0 : Fin 2)).expect ∧
      laterH (281474976710655 : Nat) ((live.hl (0 : Nat)).share (0 : Fin 2)).expect =
      false) ∨ SMap.has ((live.hl (0 : Nat)).share (0 : Fin 2)).held (281474976710655 : Nat) = true)) ∧
    (let x := (live.hl (63 : Nat)).share (1 : Fin 2); (0 : Nat) = x.expect ∧ SMap.has x.held (0 : Nat) = false) ∧
    (let x := ((live.set (R.HAUL_LINK_BUF_RSQMIB 63) 16).hl (63 : Nat)).share (1 : Fin 2); (7 : Nat) ≠ x.expect ∧
      laterH (7 : Nat) x.expect = true ∧ SMap.has x.held (7 : Nat) = false ∧
      rsqUse x + ([] : List Byte).length ≤
      shareBytes (live.set (R.HAUL_LINK_BUF_RSQMIB 63) 16) (63 : Nat) ((live.set (R.HAUL_LINK_BUF_RSQMIB 63) 16).get (R.HAUL_LINK_BUF_RSQMIB (63 : Nat))) (1 : Fin 2)) ∧
    (let x := (live.hl (63 : Nat)).share (1 : Fin 2); (7 : Nat) ≠ x.expect ∧ laterH (7 : Nat) x.expect = true ∧ SMap.has x.held (7 : Nat) = false ∧
      shareBytes live (63 : Nat) (live.get (R.HAUL_LINK_BUF_RSQMIB (63 : Nat))) (1 : Fin 2) < rsqUse x + ([1] : List Byte).length) ∧
    (Share.init.expect < 2 ^ 48) := by
  and_intros <;> decide +kernel

theorem witness_HaulSend :
    (((st live).dev.isHaul (33 : PortNo).val = false ∨ (st live).dev.isUp (33 : PortNo).val = false ∨ saOk (st live).dev (33 : PortNo).val = false)) ∧
    ((st (hdev (fun l => { l with parityQ := [⟨0, 0, 1, 1, 0, []⟩] }))).dev.applied = true ∧
      (st (hdev (fun l => { l with parityQ := [⟨0, 0, 1, 1, 0, []⟩] }))).dev.isHaul (32 : PortNo).val = true ∧
      (st (hdev (fun l => { l with parityQ := [⟨0, 0, 1, 1, 0, []⟩] }))).dev.isUp (32 : PortNo).val = true ∧
      saOk (st (hdev (fun l => { l with parityQ := [⟨0, 0, 1, 1, 0, []⟩] }))).dev (32 : PortNo).val = true ∧
      ((st (hdev (fun l => { l with parityQ := [⟨0, 0, 1, 1, 0, []⟩] }))).dev.ringAt ctxRing 0).any (fun e => leAt e 0 2 == (32 : PortNo).val) = false ∧ (routesOn (st (hdev (fun l => { l with parityQ := [⟨0, 0, 1, 1, 0, []⟩] }))).dev (32 : PortNo).val).findSome? (fun x₀ => (((st (hdev (fun l => { l with parityQ := [⟨0, 0, 1, 1, 0, []⟩] }))).dev.hl x₀.1).parityQ.find? (fun q₀ => q₀.route == x₀.2)).map (fun q₀ => (x₀, q₀))) = some (((63, 0) : Nat × Fin 2), (⟨0, 0, 1, 1, 0, []⟩ : ParityFrame))) ∧
    (activeRoute (st live).dev (63 : LinkNo).val = none) ∧
    ((st (hdev (fun l => { l with units := [[1]] }))).dev.applied = true ∧
      activeRoute (st (hdev (fun l => { l with units := [[1]] }))).dev (63 : LinkNo).val = some (0 : Fin 2) ∧
      ((st (hdev (fun l => { l with units := [[1]] }))).dev.hl (63 : LinkNo).val).units ≠ []) ∧
    ((st (hdev id)).dev.applied = true ∧ linkOn (st (hdev id)).dev (63 : LinkNo).val = true ∧
      routeExists (st (hdev id)).dev (63 : LinkNo).val (0 : Fin 2) = true ∧
      (st (hdev id)).dev.isHaul (routePort (st (hdev id)).dev (63 : LinkNo).val (0 : Fin 2)) = true ∧
      (st (hdev id)).dev.isUp (routePort (st (hdev id)).dev (63 : LinkNo).val (0 : Fin 2)) = true ∧
      saOk (st (hdev id)).dev (routePort (st (hdev id)).dev (63 : LinkNo).val (0 : Fin 2)) = true) ∧
    ((st (hdev (fun l => { l with ackDue := true }))).dev.applied = true ∧
      activeRoute (st (hdev (fun l => { l with ackDue := true }))).dev (63 : LinkNo).val = some (0 : Fin 2) ∧
      ((st (hdev (fun l => { l with ackDue := true }))).dev.hl (63 : LinkNo).val).ackDue = true ∧
      saOk (st (hdev (fun l => { l with ackDue := true }))).dev (routePort (st (hdev (fun l => { l with ackDue := true }))).dev (63 : LinkNo).val (0 : Fin 2)) = true) ∧
    ((st live).dev.ringAt ctxRing 0 = none) := by
  and_intros <;> decide +kernel

theorem witness_HaulSend_part2 :
    ((st { (sets [(R.HAUL_CTX_CFG_EN, 1), (R.HAUL_CTX_CFG_LOG2SIZE, 2), (R.HAUL_CTX_TAIL_TAIL, 1)] live) with res := [(0, 32), (2, 60)] }).dev.applied = true ∧ (st { (sets [(R.HAUL_CTX_CFG_EN, 1), (R.HAUL_CTX_CFG_LOG2SIZE, 2), (R.HAUL_CTX_TAIL_TAIL, 1)] live) with res := [(0, 32), (2, 60)] }).dev.ringAt ctxRing 0 = some ([32, 0, 60, 0] ++ zeros 2044 : List Byte) ∧ leAt ([32, 0, 60, 0] ++ zeros 2044 : List Byte) 0 2 = (32 : PortNo).val ∧ (st { (sets [(R.HAUL_CTX_CFG_EN, 1), (R.HAUL_CTX_CFG_LOG2SIZE, 2), (R.HAUL_CTX_TAIL_TAIL, 1)] live) with res := [(0, 32), (2, 60)] }).dev.isHaul (32 : PortNo).val = true ∧ 60 ≤ leAt ([32, 0, 60, 0] ++ zeros 2044 : List Byte) 2 2 ∧ leAt ([32, 0, 60, 0] ++ zeros 2044 : List Byte) 2 2 ≤ 2040) ∧
    ((st { (sets [(R.HAUL_CTX_CFG_EN, 1), (R.HAUL_CTX_CFG_LOG2SIZE, 2), (R.HAUL_CTX_TAIL_TAIL, 1)] live) with res := [(0, 32)] }).dev.applied = true ∧ (st { (sets [(R.HAUL_CTX_CFG_EN, 1), (R.HAUL_CTX_CFG_LOG2SIZE, 2), (R.HAUL_CTX_TAIL_TAIL, 1)] live) with res := [(0, 32)] }).dev.ringAt ctxRing 0 = some ([32] ++ zeros 2047 : List Byte) ∧ ((1024 ≤ leAt ([32] ++ zeros 2047 : List Byte) 0 2 ∨ (st { (sets [(R.HAUL_CTX_CFG_EN, 1), (R.HAUL_CTX_CFG_LOG2SIZE, 2), (R.HAUL_CTX_TAIL_TAIL, 1)] live) with res := [(0, 32)] }).dev.isHaul (leAt ([32] ++ zeros 2047 : List Byte) 0 2) = false ∨ leAt ([32] ++ zeros 2047 : List Byte) 2 2 < 60 ∨ 2040 < leAt ([32] ++ zeros 2047 : List Byte) 2 2))) ∧
    ((st live).dev.applied = true) ∧
    ((st (hdev id)).dev.applied = true ∧ activeRoute (st (hdev id)).dev (63 : LinkNo).val = some (0 : Fin 2) ∧
      (((st (hdev id)).dev.hl (63 : LinkNo).val).share (0 : Fin 2)).rtx.any (fun f => f.hseq == (0 : Nat)) = false) ∧
    ((st ((hdev (fun l => l.modShare 0 (fun x => { x with rtx := [⟨5, [], 0, 0⟩] }))).set (R.HAUL_LINK_TMR_RMAX 63) 2)).dev.applied = true ∧
      activeRoute (st ((hdev (fun l => l.modShare 0 (fun x => { x with rtx := [⟨5, [], 0, 0⟩] }))).set (R.HAUL_LINK_TMR_RMAX 63) 2)).dev (63 : LinkNo).val = some (0 : Fin 2) ∧ (((st ((hdev (fun l => l.modShare 0 (fun x => { x with rtx := [⟨5, [], 0, 0⟩] }))).set (R.HAUL_LINK_TMR_RMAX 63) 2)).dev.hl (63 : LinkNo).val).share (0 : Fin 2)).rtx.any (fun f => f.hseq == (5 : Nat)) = true ∧ (((st ((hdev (fun l => l.modShare 0 (fun x => { x with rtx := [⟨5, [], 0, 0⟩] }))).set (R.HAUL_LINK_TMR_RMAX 63) 2)).dev.hl (63 : LinkNo).val).share (0 : Fin 2)).expiries + 1 < (st ((hdev (fun l => l.modShare 0 (fun x => { x with rtx := [⟨5, [], 0, 0⟩] }))).set (R.HAUL_LINK_TMR_RMAX 63) 2)).dev.get (R.HAUL_LINK_TMR_RMAX (63 : LinkNo).val)) ∧
    ((((st live).dev.hl (63 : LinkNo).val).share (0 : Fin 2)).held = []) := by
  and_intros <;> decide +kernel

theorem witness_HaulSend_part3 :
    ((st (hdev (fun l => l.modShare 0 (fun x => { x with expect := 5, held := [(6, [1])] })))).dev.applied = true ∧
      (((st (hdev (fun l => l.modShare 0 (fun x => { x with expect := 5, held := [(6, [1])] })))).dev.hl (63 : LinkNo).val).share (0 : Fin 2)).held = [((6 : Nat), ([1] : List Byte))] ∧ (((st (hdev (fun l => l.modShare 0 (fun x => { x with expect := 5, held := [(6, [1])] })))).dev.hl (63 : LinkNo).val).share (0 : Fin 2)).expect < (6 : Nat) ∧ (6 : Nat) < 2 ^ 47) ∧
    ((st live).dev.applied = true ∧ (((st live).dev.hl (63 : LinkNo).val).route (0 : Fin 2)).rx = false) ∧
    ((st (hdev (fun l => l.modRoute 1 (fun r => { r with rx := true })))).dev.applied = true ∧
      (((st (hdev (fun l => l.modRoute 1 (fun r => { r with rx := true })))).dev.hl (63 : LinkNo).val).route (1 : Fin 2)).rx = true) ∧
    ((st ((hdev id).set (R.HAUL_LINK_STAT_STATE 63) 0)).dev.applied = true ∧
      linkOn (st ((hdev id).set (R.HAUL_LINK_STAT_STATE 63) 0)).dev (63 : LinkNo).val = true ∧
      activeRoute (st ((hdev id).set (R.HAUL_LINK_STAT_STATE 63) 0)).dev (63 : LinkNo).val = none) ∧
    (live.on (upFld (63 : Nat) (1 : Fin 2)) = routeUp live (63 : Nat) (1 : Fin 2)) := by
  and_intros <;> decide +kernel

theorem witness_HaulControl :
    ((st ((hdev id).set (R.HAUL_LINK_STAT_R1UP 63) 1)).dev.applied = true ∧
      wOn (fw [(R.HAUL_LINK_CTL_SWITCH 63, 1)] : CsrW) (R.HAUL_LINK_CTL_SWITCH (63 : LinkNo).val) = true ∧
      activeRoute (st ((hdev id).set (R.HAUL_LINK_STAT_R1UP 63) 1)).dev (63 : LinkNo).val = some (0 : Fin 2) ∧
      (st ((hdev id).set (R.HAUL_LINK_STAT_R1UP 63) 1)).dev.on (upFld (63 : LinkNo).val (1 - (0 : Fin 2))) = true) ∧
    ((st (hdev id)).dev.applied = true ∧ wOn (fw [(R.HAUL_LINK_CTL_SWITCH 63, 1)] : CsrW) (R.HAUL_LINK_CTL_SWITCH (63 : LinkNo).val) = true ∧
      activeRoute (st (hdev id)).dev (63 : LinkNo).val = some (0 : Fin 2) ∧
      (st (hdev id)).dev.on (upFld (63 : LinkNo).val (1 - (0 : Fin 2))) = false) ∧
    ((st live).dev.running = true ∧ wOn (fw [(R.HAUL_LINK_CTL_SWITCH 63, 1)] : CsrW) (R.HAUL_LINK_CTL_SWITCH (63 : LinkNo).val) = true ∧
      activeRoute (st live).dev (63 : LinkNo).val = none) ∧
    ((st (sets [(R.HAUL_LINK_STAT_R0UP 63, 1), (R.HAUL_LINK_STAT_STATE 63, 2), (R.HAUL_LINK_REV_REVERT 63, 1)] (hdev id))).dev.applied = true ∧
      (st (sets [(R.HAUL_LINK_STAT_R0UP 63, 1), (R.HAUL_LINK_STAT_STATE 63, 2), (R.HAUL_LINK_REV_REVERT 63, 1)] (hdev id))).dev.on (R.HAUL_LINK_REV_REVERT (63 : LinkNo).val) = true ∧ activeRoute (st (sets [(R.HAUL_LINK_STAT_R0UP 63, 1), (R.HAUL_LINK_STAT_STATE 63, 2), (R.HAUL_LINK_REV_REVERT 63, 1)] (hdev id))).dev (63 : LinkNo).val = some 1 ∧ (st (sets [(R.HAUL_LINK_STAT_R0UP 63, 1), (R.HAUL_LINK_STAT_STATE 63, 2), (R.HAUL_LINK_REV_REVERT 63, 1)] (hdev id))).dev.on (upFld (63 : LinkNo).val 0) = true) ∧
    ((st live).dev.applied = true ∧ (st live).dev.on (R.HAUL_LINK_REV_REVERT (63 : LinkNo).val) = false) ∧
    ((st live).dev.applied = true ∧ (st live).dev.portDieFitted ((1023 : PortNo).val / 128) = true ∧
      routesOn (st live).dev (1023 : PortNo).val = [] ∧
      wOn (w 0 : CsrW) (R.HAUL_SA_CTL_VALID (1023 : PortNo).val (1 : Fin 2).val (3 : Fin 4).val) = false) ∧
    ((st live).dev.applied = true ∧ linkOn (st live).dev (63 : LinkNo).val = false) ∧
    ((st (hdev id)).dev.applied = true ∧ linkOn (st (hdev id)).dev (63 : LinkNo).val = true ∧
      wOn (w 0 : CsrW) (R.HAUL_LINK_CFG_EN (63 : LinkNo).val) = false) := by
  and_intros <;> decide +kernel

theorem witness_TimeExchange :
    ((st ((up 15 live).set (R.PORT_PCTL_TSEN 15) 1)).dev.applied = true ∧
      (st ((up 15 live).set (R.PORT_PCTL_TSEN 15) 1)).dev.boot.turnsBegun = true ∧
      (st ((up 15 live).set (R.PORT_PCTL_TSEN 15) 1)).dev.isOfp (15 : PortNo).val = true ∧
      (st ((up 15 live).set (R.PORT_PCTL_TSEN 15) 1)).dev.isUp (15 : PortNo).val = true ∧
      (st ((up 15 live).set (R.PORT_PCTL_TSEN 15) 1)).dev.on (R.PORT_PCTL_TSEN (15 : PortNo).val) = true ∧
      ((st ((up 15 live).set (R.PORT_PCTL_TSEN 15) 1)).dev.link (15 : PortNo).val).exchanged = false ∧
      ((st ((up 15 live).set (R.PORT_PCTL_TSEN 15) 1)).dev.link (15 : PortNo).val).tx = none ∧
      0 < retryRoom (st ((up 15 live).set (R.PORT_PCTL_TSEN 15) 1)).dev (15 : PortNo).val) ∧
    (((st live).dev.isOfp (48 : PortNo).val = false ∨ (st live).dev.isUp (48 : PortNo).val =
      false ∨ (st live).dev.on (R.PORT_PCTL_TSEN (48 : PortNo).val) = false ∨ ((st live).dev.link (48 : PortNo).val).exchanged =
      true ∨ ((st live).dev.link (48 : PortNo).val).tx ≠ none ∨ retryRoom (st live).dev (48 : PortNo).val = 0)) ∧
    (0 < live.width (15 : Nat)) ∧
    (root.on R.TIME_STATUS_ISROOT = true) ∧
    (live.on R.TIME_STATUS_ISROOT = false ∧ tmode live = 0) ∧
    ((st live).dev.applied = true ∧ (((st live).dev.isOfp (15 : PortNo).val = false ∨ (st live).dev.isUp (15 : PortNo).val = false))) ∧
    ((st ((up 15 live).set (R.TEST_PORT_LOOP_DEPTH 15) 9)).dev.applied = true ∧
      (st ((up 15 live).set (R.TEST_PORT_LOOP_DEPTH 15) 9)).dev.isOfp (15 : PortNo).val = true ∧
      (st ((up 15 live).set (R.TEST_PORT_LOOP_DEPTH 15) 9)).dev.isUp (15 : PortNo).val = true ∧
      (st ((up 15 live).set (R.TEST_PORT_LOOP_DEPTH 15) 9)).dev.farLoop (15 : PortNo).val = true) ∧
    ((st (up 15 live)).dev.applied = true ∧ (st (up 15 live)).dev.isOfp (15 : PortNo).val = true ∧
      (st (up 15 live)).dev.isUp (15 : PortNo).val = true ∧ (st (up 15 live)).dev.farLoop (15 : PortNo).val = false ∧
      (((true : Bool) =
      true ∨ (ofpHdr (ofpPacket { type := 7 } (zeros 64) : List Byte)).ver ≠ 1 ∨ (ofpHdr (ofpPacket { type := 7 } (zeros 64) : List Byte)).type ≠ 7 ∨ (ofpHdr (ofpPacket { type := 7 } (zeros 64) : List Byte)).len ≠ 64))) := by
  and_intros <;> decide +kernel

theorem witness_TimeExchange_part2 :
    ((st (up 15 live)).dev.applied = true ∧ (st (up 15 live)).dev.isOfp (15 : PortNo).val = true ∧
      (st (up 15 live)).dev.isUp (15 : PortNo).val = true ∧ (st (up 15 live)).dev.farLoop (15 : PortNo).val = false ∧ (false : Bool) = false ∧
      (ofpHdr ((ofpPacket { type := 7 } (zeros 64)).set 99 1 : List Byte)).ver = 1 ∧
      (ofpHdr ((ofpPacket { type := 7 } (zeros 64)).set 99 1 : List Byte)).type = 7 ∧
      (ofpHdr ((ofpPacket { type := 7 } (zeros 64)).set 99 1 : List Byte)).len = 64 ∧
      ((hcrcOk ((ofpPacket { type := 7 } (zeros 64)).set 99 1 : List Byte) = false ∨ trailerOk ((ofpPacket { type := 7 } (zeros 64)).set 99 1 : List Byte) = false))) ∧
    ((st (up 15 live)).dev.applied = true ∧ (st (up 15 live)).dev.isOfp (15 : PortNo).val = true ∧
      (st (up 15 live)).dev.isUp (15 : PortNo).val = true ∧ (st (up 15 live)).dev.farLoop (15 : PortNo).val = false ∧ (false : Bool) = false ∧
      (ofpHdr (ofpPacket { type := 7 } (zeros 64) : List Byte)).ver = 1 ∧ (ofpHdr (ofpPacket { type := 7 } (zeros 64) : List Byte)).type = 7 ∧
      (ofpHdr (ofpPacket { type := 7 } (zeros 64) : List Byte)).len = 64 ∧ hcrcOk (ofpPacket { type := 7 } (zeros 64) : List Byte) = true ∧
      trailerOk (ofpPacket { type := 7 } (zeros 64) : List Byte) = true) ∧
    ((tmsg 255 1 false : TimeMsg).xver < 16 ∧ 0 ≤ (tmsg 255 1 false : TimeMsg).ttx ∧ (tmsg 255 1 false : TimeMsg).ttx < 2 ^ 48 * secUnit ∧
      0 ≤ (tmsg 255 1 false : TimeMsg).techo ∧ (tmsg 255 1 false : TimeMsg).techo < 2 ^ 48 * secUnit ∧ 0 ≤ (tmsg 255 1 false : TimeMsg).trx ∧
      (tmsg 255 1 false : TimeMsg).trx < 2 ^ 48 * secUnit) ∧
    ((tmsg 1 1 false : TimeMsg).domain.toNat ≠ (tdev 1).get R.TIME_CFG_DOMAIN) ∧
    (let t4 := (tmsg 0 2 false : TimeMsg).t4 - rxCorr (tdev 1) (0 : Nat);
      (tmsg 0 2 false : TimeMsg).domain.toNat = (tdev 1).get R.TIME_CFG_DOMAIN ∧
      sampleOk (tmsg 0 2 false : TimeMsg) (((t4 - (tmsg 0 2 false : TimeMsg).techo) - ((tmsg 0 2 false : TimeMsg).ttx - (tmsg 0 2 false : TimeMsg).trx)) / 2) (tdev 1) = false) ∧
    (let t4 := (tmsg 0 1 false : TimeMsg).t4 - rxCorr (tdev 1) (0 : Nat);
      (tmsg 0 1 false : TimeMsg).domain.toNat = (tdev 1).get R.TIME_CFG_DOMAIN ∧
      sampleOk (tmsg 0 1 false : TimeMsg) (((t4 - (tmsg 0 1 false : TimeMsg).techo) - ((tmsg 0 1 false : TimeMsg).ttx - (tmsg 0 1 false : TimeMsg).trx)) / 2) (tdev 1) = true) ∧
    ((st (tin.wr64 R.GLB_TURN_NUM 8)).dev.applied = true ∧
      SMap.get? (st (tin.wr64 R.GLB_TURN_NUM 8)).dev.time.inputs (1151 : Fin 1152).val = some (⟨7, 0, 1, false, 0, 0, false, 0, 0⟩ : TimeInput) ∧
      (⟨7, 0, 1, false, 0, 0, false, 0, 0⟩ : TimeInput).lastTurn + lossTurns (st (tin.wr64 R.GLB_TURN_NUM 8)).dev (1151 : Fin 1152).val ≤
      (st (tin.wr64 R.GLB_TURN_NUM 8)).dev.turn) := by
  and_intros <;> decide +kernel

theorem witness_TimeExchange_part3 :
    ((st (tin.wr64 R.GLB_TURN_NUM 7)).dev.applied = true ∧
      SMap.get? (st (tin.wr64 R.GLB_TURN_NUM 7)).dev.time.inputs (1151 : Fin 1152).val = some (⟨7, 0, 1, false, 0, 0, false, 0, 0⟩ : TimeInput) ∧
      (st (tin.wr64 R.GLB_TURN_NUM 7)).dev.turn <
      (⟨7, 0, 1, false, 0, 0, false, 0, 0⟩ : TimeInput).lastTurn + lossTurns (st (tin.wr64 R.GLB_TURN_NUM 7)).dev (1151 : Fin 1152).val) ∧
    ((st (inHold 1024)).dev.applied = true ∧ tmode (st (inHold 1024)).dev = 2 ∧ (st (inHold 1024)).dev.time.holdFrom = some (0 : Nat) ∧
      (st (inHold 1024)).dev.get R.TIME_HOLD_HOLDMAX ≠ 0 ∧
      (0 : Nat) + 1024 * (st (inHold 1024)).dev.get R.TIME_HOLD_HOLDMAX ≤ (st (inHold 1024)).dev.turn) ∧
    ((st (inHold 1023)).dev.applied = true ∧ tmode (st (inHold 1023)).dev = 2 ∧ (st (inHold 1023)).dev.time.holdFrom = some (0 : Nat) ∧
      (((st (inHold 1023)).dev.get R.TIME_HOLD_HOLDMAX = 0 ∨ (st (inHold 1023)).dev.turn <
      (0 : Nat) + 1024 * (st (inHold 1023)).dev.get R.TIME_HOLD_HOLDMAX))) := by
  and_intros <;> decide +kernel

theorem witness_TimeSteering :
    ((st live).dev.running = true ∧ wOn (fw [(R.TIME_SNAP_GO, 1)] : CsrW) R.TIME_SNAP_GO = true) ∧
    ((st root).dev.applied = true ∧ (st root).dev.on R.TIME_STATUS_ISROOT = true) ∧
    ((st live).dev.applied = true ∧ (st live).dev.on R.TIME_STATUS_ISROOT = false ∧
      ((wOn (fw [(R.TIME_CTL_ADJGO, 1)] : CsrW) R.TIME_CTL_SETGO = true ∨ wOn (fw [(R.TIME_CTL_ADJGO, 1)] : CsrW) R.TIME_CTL_SLEWGO =
      true ∨ wOn (fw [(R.TIME_CTL_ADJGO, 1)] : CsrW) R.TIME_CTL_ADJGO = true))) ∧
    (let e := (st (capDev 1 0)).dev.get (R.TIME_CAP_CFG_EDGE (7 : Fin 8).val); (st (capDev 1 0)).dev.running = true ∧
      ((e = 0 ∨ ((true : Bool) = true ∧ e = 1) ∨ ((true : Bool) = false ∧ e = 2)))) ∧
    (let t := timeAt (st { capDev 3 0 with time := { live.time with lastEdge := [(7, 0)] } }).dev.time (16 * (st { capDev 3 0 with time := { live.time with lastEdge := [(7, 0)] } }).dev.time.raw + (0 : Fin 16).val); (st { capDev 3 0 with time := { live.time with lastEdge := [(7, 0)] } }).dev.running = true ∧ SMap.get? (st { capDev 3 0 with time := { live.time with lastEdge := [(7, 0)] } }).dev.time.lastEdge (7 : Fin 8).val = some (0) ∧ absI (t - (0)) < 4 * 65536) ∧
    (let e := (st (capDev 2 15)).dev.get (R.TIME_CAP_CFG_EDGE (7 : Fin 8).val); (st (capDev 2 15)).dev.running = true ∧
      ((e = 3 ∨ e = (if (true : Bool) then 2 else 1))) ∧ SMap.get? (st (capDev 2 15)).dev.time.lastEdge (7 : Fin 8).val = none ∧
      (capsOf (st (capDev 2 15)).dev (7 : Fin 8).val).length < 16) ∧
    (let e := (st (capDev 1 16)).dev.get (R.TIME_CAP_CFG_EDGE (7 : Fin 8).val); (st (capDev 1 16)).dev.running = true ∧
      ((e = 3 ∨ e = (if (false : Bool) then 2 else 1))) ∧ SMap.get? (st (capDev 1 16)).dev.time.lastEdge (7 : Fin 8).val = none ∧
      16 ≤ (capsOf (st (capDev 1 16)).dev (7 : Fin 8).val).length) ∧
    ((st live).dev.running = true ∧ wOn (fw [(R.TIME_CAP_STAT_POP 7, 1)] : CsrW) (R.TIME_CAP_STAT_POP (7 : Fin 8).val) = true) ∧
    (let d := sets [(R.TIME_PPS_CFG_EN 1, 1), (R.TIME_PPS_CFG_ONFREE 1, 1)] live; d.applied = true ∧ d.on (R.TIME_PPS_CFG_EN 1) = true ∧
      (tmode d ≠ 0 ∨ d.on (R.TIME_PPS_CFG_ONFREE 1) = true) ∧ ppsOf d 1 = none) ∧
    ((st (live.set (R.TIME_PPS_CFG_EN 1) 1)).dev.applied = true ∧
      (st (live.set (R.TIME_PPS_CFG_EN 1) 1)).dev.on (R.TIME_PPS_CFG_EN (1 : Fin 2).val) = true ∧
      tmode (st (live.set (R.TIME_PPS_CFG_EN 1) 1)).dev = 0 ∧
      (st (live.set (R.TIME_PPS_CFG_EN 1) 1)).dev.on (R.TIME_PPS_CFG_ONFREE (1 : Fin 2).val) = false) ∧
    ((st { live with time := { live.time with pps := [(1, (true, 5))] } }).dev.applied = true ∧
      ppsOf (st { live with time := { live.time with pps := [(1, (true, 5))] } }).dev (1 : Fin 2).val = some (true, (5 : Int))) := by
  and_intros <;> decide +kernel

theorem witness_Modules :
    ((st live).dev.running = true ∧ modFitted (st live).dev (63 : ModNo).val = true ∧ managed (st live).dev (63 : ModNo).val = false) ∧
    ((st (mdev 63)).dev.running = true ∧ modFitted (st (mdev 63)).dev (63 : ModNo).val = true ∧
      managed (st (mdev 63)).dev (63 : ModNo).val = true ∧ (flags 3 : ModFlags).mstate ≠ 5) ∧
    ((st (mdev 63)).dev.running = true ∧ modFitted (st (mdev 63)).dev (63 : ModNo).val = true ∧ managed (st (mdev 63)).dev (63 : ModNo).val = true) ∧
    ((st live).dev.running = true ∧ modFitted (st live).dev (63 : ModNo).val = true) ∧
    ((st live).dev.running = true ∧ modFitted (st live).dev (63 : ModNo).val = true) ∧
    ((st ((mdev 63).set (R.OPT_BUS_CFG_POLL 63) 1)).dev.applied = true ∧
      managed (st ((mdev 63).set (R.OPT_BUS_CFG_POLL 63) 1)).dev (63 : ModNo).val = true ∧
      (st ((mdev 63).set (R.OPT_BUS_CFG_POLL 63) 1)).dev.on (R.OPT_MOD_STAT_PRESENT (63 : ModNo).val) = true ∧
      (st ((mdev 63).set (R.OPT_BUS_CFG_POLL 63) 1)).dev.get (R.OPT_BUS_CFG_POLL (63 : ModNo).val) ≠ 0) ∧
    ((st (mdev 63)).dev.applied = true ∧ managed (st (mdev 63)).dev (63 : ModNo).val = true ∧
      (st (mdev 63)).dev.on (R.OPT_MOD_STAT_PRESENT (63 : ModNo).val) = true ∧ (st (mdev 63)).dev.get (R.OPT_BUS_CFG_POLL (63 : ModNo).val) = 0) ∧
    ((flags 3 : ModFlags).faults = [] ∧ wrongLanes (63 : ModNo).val (mdev 63) = [] ∧ ((mdev 63).agent (63 : ModNo).val).retuning = []) ∧
    ((st live).dev.applied = true ∧ ((st live).dev.agent (63 : ModNo).val).retuning = []) ∧
    (let d := Dev.each ((st (retuneDev 5)).dev.agent (63 : ModNo).val).retuning (attemptDone (63 : ModNo) (false : Bool)) (readTuned (63 : ModNo).val (List.replicate 15 0 ++ [5] : List (BitVec 16)) (st (retuneDev 5)).dev); (st (retuneDev 5)).dev.applied = true ∧ ((st (retuneDev 5)).dev.agent (63 : ModNo).val).retuning ≠ [] ∧ wrongLanes (63 : ModNo).val d = [] ∧ (d.agent (63 : ModNo).val).retuning = []) ∧
    (let d := Dev.each ((st (retuneDev 4)).dev.agent (63 : ModNo).val).retuning (attemptDone (63 : ModNo) (false : Bool)) (readTuned (63 : ModNo).val (List.replicate 15 0 ++ [4] : List (BitVec 16)) (st (retuneDev 4)).dev); (st (retuneDev 4)).dev.applied = true ∧ ((st (retuneDev 4)).dev.agent (63 : ModNo).val).retuning ≠ [] ∧ ((wrongLanes (63 : ModNo).val d ≠ [] ∨ (d.agent (63 : ModNo).val).retuning ≠ []))) ∧
    (let l := 16 * (63 : ModNo).val + (15 : Fin 16).val; (false : Bool) = false ∧ tunedOf (retuneDev 5) l = sendOf (retuneDev 5) l) := by
  and_intros <;> decide +kernel

theorem witness_Modules_part2 :
    (let l := 16 * (63 : ModNo).val + (15 : Fin 16).val;
      (((false : Bool) = true ∨ tunedOf ((retuneDev 4).set R.OPT_CFG_RETUNEMAX 2) l ≠ sendOf ((retuneDev 4).set R.OPT_CFG_RETUNEMAX 2) l)) ∧
      ((retuneDev 4).set R.OPT_CFG_RETUNEMAX 2).get (R.OPT_LANE_STAT_RETRIES l) + 1 <
      max 1 (((retuneDev 4).set R.OPT_CFG_RETUNEMAX 2).get R.OPT_CFG_RETUNEMAX)) ∧
    (let l := 16 * (63 : ModNo).val + (15 : Fin 16).val; (((true : Bool) = true ∨ tunedOf (retuneDev 5) l ≠ sendOf (retuneDev 5) l)) ∧
      max 1 ((retuneDev 5).get R.OPT_CFG_RETUNEMAX) ≤ (retuneDev 5).get (R.OPT_LANE_STAT_RETRIES l) + 1) ∧
    (let m := (1023 : LaneNo).val / 16; let x : Fin 16 := Fin.ofNat 16 (1023 : LaneNo).val; (st live).dev.applied = true ∧
      x ∉ ((st live).dev.agent m).taking) ∧
    (let m := (1023 : LaneNo).val / 16; let x : Fin 16 := Fin.ofNat 16 (1023 : LaneNo).val; (st takeDev).dev.applied = true ∧
      x ∈ ((st takeDev).dev.agent m).taking ∧ (((false : Bool) = false ∨ (5 : BitVec 16).toNat ≠ sendOf (st takeDev).dev (1023 : LaneNo).val))) ∧
    (let m := (1023 : LaneNo).val / 16; let x : Fin 16 := Fin.ofNat 16 (1023 : LaneNo).val; (st takeDev).dev.applied = true ∧
      x ∈ ((st takeDev).dev.agent m).taking ∧ (true : Bool) = true ∧ (5 : BitVec 16).toNat = sendOf (st takeDev).dev (1023 : LaneNo).val) ∧
    ((st (live.modAgent 63 (fun a => { a with mbxRunning := true }))).dev.applied = true ∧
      ((st (live.modAgent 63 (fun a => { a with mbxRunning := true }))).dev.agent (63 : ModNo).val).mbxRunning = true) ∧
    ((st live).dev.applied = true ∧ ((st live).dev.agent (63 : ModNo).val).mbxRunning = false ∧
      (st live).dev.on (R.OPT_MBX_CTL_BUSY (63 : ModNo).val) = false) ∧
    ((st (sets [(R.OPT_MBX_CMD_PAGE 63, 0x12), (R.OPT_MBX_CMD_WR 63, 1), (R.OPT_MOD_CTL_AUTO 63, 1)] live)).dev.applied = true ∧
      modFitted (st (sets [(R.OPT_MBX_CMD_PAGE 63, 0x12), (R.OPT_MBX_CMD_WR 63, 1), (R.OPT_MOD_CTL_AUTO 63, 1)] live)).dev (63 : ModNo).val =
      true ∧ wOn (fw [(R.OPT_MBX_CTL_GO 63, 1)] : CsrW) (R.OPT_MBX_CTL_GO (63 : ModNo).val) = true ∧
      (st (sets [(R.OPT_MBX_CMD_PAGE 63, 0x12), (R.OPT_MBX_CMD_WR 63, 1), (R.OPT_MOD_CTL_AUTO 63, 1)] live)).dev.on (R.OPT_MBX_CTL_BUSY (63 : ModNo).val) = false ∧ mailboxRefused (st (sets [(R.OPT_MBX_CMD_PAGE 63, 0x12), (R.OPT_MBX_CMD_WR 63, 1), (R.OPT_MOD_CTL_AUTO 63, 1)] live)).dev (63 : ModNo).val = true) := by
  and_intros <;> decide +kernel

theorem witness_Modules_part3 :
    ((st (live.modAgent 63 (fun a => { a with busy := true }))).dev.applied = true ∧
      modFitted (st (live.modAgent 63 (fun a => { a with busy := true }))).dev (63 : ModNo).val = true ∧
      wOn (fw [(R.OPT_MBX_CTL_GO 63, 1)] : CsrW) (R.OPT_MBX_CTL_GO (63 : ModNo).val) = true ∧
      (st (live.modAgent 63 (fun a => { a with busy := true }))).dev.on (R.OPT_MBX_CTL_BUSY (63 : ModNo).val) = false ∧
      mailboxRefused (st (live.modAgent 63 (fun a => { a with busy := true }))).dev (63 : ModNo).val = false ∧
      ((st (live.modAgent 63 (fun a => { a with busy := true }))).dev.agent (63 : ModNo).val).busy = true) ∧
    ((st live).dev.applied = true ∧ modFitted (st live).dev (63 : ModNo).val = true ∧
      wOn (fw [(R.OPT_MBX_CTL_GO 63, 1)] : CsrW) (R.OPT_MBX_CTL_GO (63 : ModNo).val) = true ∧
      (st live).dev.on (R.OPT_MBX_CTL_BUSY (63 : ModNo).val) = false ∧ mailboxRefused (st live).dev (63 : ModNo).val = false ∧
      ((st live).dev.agent (63 : ModNo).val).busy = false) := by
  and_intros <;> decide +kernel

theorem witness_Bypass :
    (conflicts (bdev [win 0 false false] 0) (14 : Nat) = false) ∧
    (let p : Fin 64 := Fin.ofNat 64 (wBits (fw [(R.OPT_BYP_ARM_GO, 1), (R.OPT_BYP_ARM_PLAN, 63)] : CsrW) R.OPT_BYP_ARM_PLAN);
      let t := (st ((bdev [win 0 false false] 0).wr64 R.OPT_BYP_ARMW 14)).dev.rd64 R.OPT_BYP_ARMW;
      (st ((bdev [win 0 false false] 0).wr64 R.OPT_BYP_ARMW 14)).dev.running = true ∧
      wOn (fw [(R.OPT_BYP_ARM_GO, 1), (R.OPT_BYP_ARM_PLAN, 63)] : CsrW) R.OPT_BYP_ARM_GO = true ∧
      planValid (st ((bdev [win 0 false false] 0).wr64 R.OPT_BYP_ARMW 14)).dev p.val = true ∧
      (st ((bdev [win 0 false false] 0).wr64 R.OPT_BYP_ARMW 14)).dev.turn + minLead (st ((bdev [win 0 false false] 0).wr64 R.OPT_BYP_ARMW 14)).dev < t ∧ conflicts (st ((bdev [win 0 false false] 0).wr64 R.OPT_BYP_ARMW 14)).dev t = false) ∧
    (let p : Fin 64 := Fin.ofNat 64 (wBits (fw [(R.OPT_BYP_ARM_GO, 1), (R.OPT_BYP_ARM_PLAN, 63)] : CsrW) R.OPT_BYP_ARM_PLAN);
      let t := (st ((bdev [win 0 false false] 0).wr64 R.OPT_BYP_ARMW 13)).dev.rd64 R.OPT_BYP_ARMW;
      (st ((bdev [win 0 false false] 0).wr64 R.OPT_BYP_ARMW 13)).dev.running = true ∧
      ((wOn (fw [(R.OPT_BYP_ARM_GO, 1), (R.OPT_BYP_ARM_PLAN, 63)] : CsrW) R.OPT_BYP_ARM_GO =
      false ∨ planValid (st ((bdev [win 0 false false] 0).wr64 R.OPT_BYP_ARMW 13)).dev p.val = false ∨ t ≤
      (st ((bdev [win 0 false false] 0).wr64 R.OPT_BYP_ARMW 13)).dev.turn + minLead (st ((bdev [win 0 false false] 0).wr64 R.OPT_BYP_ARMW 13)).dev ∨ conflicts (st ((bdev [win 0 false false] 0).wr64 R.OPT_BYP_ARMW 13)).dev t = true))) ∧
    (let p : Fin 64 := Fin.ofNat 64 (wBits (fw [(R.OPT_BYP_ARM_CANCEL, 1), (R.OPT_BYP_ARM_PLAN, 63)] : CsrW) R.OPT_BYP_ARM_PLAN);
      let t := (st ((bdev [win 0 false false] 9).wr64 R.OPT_BYP_ARMW 10)).dev.rd64 R.OPT_BYP_ARMW;
      (st ((bdev [win 0 false false] 9).wr64 R.OPT_BYP_ARMW 10)).dev.running = true ∧
      wOn (fw [(R.OPT_BYP_ARM_CANCEL, 1), (R.OPT_BYP_ARM_PLAN, 63)] : CsrW) R.OPT_BYP_ARM_CANCEL = true ∧
      armed (st ((bdev [win 0 false false] 9).wr64 R.OPT_BYP_ARMW 10)).dev p t = some (win 0 false false) ∧
      cancellable (st ((bdev [win 0 false false] 9).wr64 R.OPT_BYP_ARMW 10)).dev (win 0 false false) = true) := by
  and_intros <;> decide +kernel

theorem witness_Bypass_part2 :
    (let p : Fin 64 := Fin.ofNat 64 (wBits (fw [(R.OPT_BYP_ARM_CANCEL, 1), (R.OPT_BYP_ARM_PLAN, 63)] : CsrW) R.OPT_BYP_ARM_PLAN);
      let t := (st ((bdev [win 0 false false] 9).wr64 R.OPT_BYP_ARMW 11)).dev.rd64 R.OPT_BYP_ARMW;
      (st ((bdev [win 0 false false] 9).wr64 R.OPT_BYP_ARMW 11)).dev.running = true ∧
      ((wOn (fw [(R.OPT_BYP_ARM_CANCEL, 1), (R.OPT_BYP_ARM_PLAN, 63)] : CsrW) R.OPT_BYP_ARM_CANCEL =
      false ∨ armed (st ((bdev [win 0 false false] 9).wr64 R.OPT_BYP_ARMW 11)).dev p t =
      none ∨ ∃ x, armed (st ((bdev [win 0 false false] 9).wr64 R.OPT_BYP_ARMW 11)).dev p t = some x ∧
      cancellable (st ((bdev [win 0 false false] 9).wr64 R.OPT_BYP_ARMW 11)).dev x = false))) ∧
    ((st live).dev.applied = true ∧ SMap.get? (st live).dev.opt.trigCommits (31 : Fin 32).val = none) ∧
    (let c := commitsOf (st (trig 0 1)).dev ((st (trig 0 1)).dev.get (R.OPT_BYP_TRIG_A_GIDX (31 : Fin 32).val));
      (st (trig 0 1)).dev.applied = true ∧ SMap.get? (st (trig 0 1)).dev.opt.trigCommits (31 : Fin 32).val = some (0) ∧
      (c + 2 ^ 32 - (0)) % 2 ^ 32 < (st (trig 0 1)).dev.get (R.OPT_BYP_TRIG_B_NCHUNK (31 : Fin 32).val)) ∧
    (let c := commitsOf (st (trig 0xFFFFFFFF 1)).dev ((st (trig 0xFFFFFFFF 1)).dev.get (R.OPT_BYP_TRIG_A_GIDX (31 : Fin 32).val));
      (st (trig 0xFFFFFFFF 1)).dev.applied = true ∧ SMap.get? (st (trig 0xFFFFFFFF 1)).dev.opt.trigCommits (31 : Fin 32).val = some (0xFFFFFFFF) ∧
      (st (trig 0xFFFFFFFF 1)).dev.get (R.OPT_BYP_TRIG_B_NCHUNK (31 : Fin 32).val) ≤ (c + 2 ^ 32 - (0xFFFFFFFF)) % 2 ^ 32 ∧
      planValid (st (trig 0xFFFFFFFF 1)).dev ((st (trig 0xFFFFFFFF 1)).dev.get (R.OPT_BYP_TRIG_A_PLAN (31 : Fin 32).val)) = true ∧
      (st (trig 0xFFFFFFFF 1)).dev.get (R.OPT_BYP_TRIG_A_PLAN (31 : Fin 32).val) < 64 ∧
      conflicts (st (trig 0xFFFFFFFF 1)).dev (divUp ((st (trig 0xFFFFFFFF 1)).dev.turn + leadOf (st (trig 0xFFFFFFFF 1)).dev) 4 * 4) = false) ∧
    (let kind := beBits (ofpPayload (phasePkt 0 : List Byte)) 4 1 3 0; (st (inboxed 0)).dev.applied = true ∧
      (st (inboxed 0)).dev.opt.inbox = ((true : Bool), (phasePkt 0 : List Byte)) :: ([] : List (Bool × List Byte)) ∧ kind = 0) ∧
    (let kind := beBits (ofpPayload (phasePkt 1 : List Byte)) 4 1 3 0; (st (inboxed 1)).dev.applied = true ∧
      (st (inboxed 1)).dev.opt.inbox = ((true : Bool), (phasePkt 1 : List Byte)) :: ([] : List (Bool × List Byte)) ∧ kind = 1) ∧
    (let kind := beBits (ofpPayload (phasePkt 2 : List Byte)) 4 1 3 0; (st (inboxed 2)).dev.applied = true ∧
      (st (inboxed 2)).dev.opt.inbox = ((true : Bool), (phasePkt 2 : List Byte)) :: ([] : List (Bool × List Byte)) ∧ kind = 2) := by
  and_intros <;> decide +kernel

theorem witness_Bypass_part3 :
    (let kind := beBits (ofpPayload (phasePkt 3 : List Byte)) 4 1 3 0; (st (inboxed 3)).dev.applied = true ∧
      (st (inboxed 3)).dev.opt.inbox = ((true : Bool), (phasePkt 3 : List Byte)) :: ([] : List (Bool × List Byte)) ∧ kind = 3) ∧
    (let kind := beBits (ofpPayload (phasePkt 1 : List Byte)) 4 1 3 0; (st (inboxed 1)).dev.applied = true ∧
      (st (inboxed 1)).dev.opt.inbox = ((true : Bool), (phasePkt 1 : List Byte)) :: ([] : List (Bool × List Byte)) ∧ kind ≠ 0) ∧
    (let kind := beBits (ofpPayload (phasePkt 2 : List Byte)) 4 1 3 0; (st (inboxed 2)).dev.applied = true ∧
      (st (inboxed 2)).dev.opt.inbox = ((true : Bool), (phasePkt 2 : List Byte)) :: ([] : List (Bool × List Byte)) ∧ kind ≠ 1) ∧
    (let kind := beBits (ofpPayload (phasePkt 3 : List Byte)) 4 1 3 0; (st (inboxed 3)).dev.applied = true ∧
      (st (inboxed 3)).dev.opt.inbox = ((true : Bool), (phasePkt 3 : List Byte)) :: ([] : List (Bool × List Byte)) ∧ kind ≠ 2) ∧
    (let kind := beBits (ofpPayload (phasePkt 0 : List Byte)) 4 1 3 0; (st (inboxed 0)).dev.applied = true ∧
      (st (inboxed 0)).dev.opt.inbox = ((true : Bool), (phasePkt 0 : List Byte)) :: ([] : List (Bool × List Byte)) ∧ kind ≠ 3) ∧
    ((st live).dev.opt.inbox = []) ∧
    ((15 : Nat) < 16) ∧
    (live.get R.GLB_TURN_STATUS_MODE = 0) ∧
    ((bdev [] 0).get R.GLB_TURN_STATUS_MODE ≠ 0 ∧ planValid (bdev [] 0) (phase 0 14 : PhaseMsg).plan.val = false) ∧
    ((bdev [win 0 false false] 0).get R.GLB_TURN_STATUS_MODE ≠ 0 ∧
      planValid (bdev [win 0 false false] 0) (phase 63 10 : PhaseMsg).plan.val = true ∧
      (armed (bdev [win 0 false false] 0) (phase 63 10 : PhaseMsg).plan (phase 63 10 : PhaseMsg).wturn).isSome = true) ∧
    ((bdev [win 0 false false] 13).get R.GLB_TURN_STATUS_MODE ≠ 0 ∧
      planValid (bdev [win 0 false false] 13) (phase 63 14 : PhaseMsg).plan.val = true ∧
      armed (bdev [win 0 false false] 13) (phase 63 14 : PhaseMsg).plan (phase 63 14 : PhaseMsg).wturn = none ∧
      (phase 63 14 : PhaseMsg).wturn < (bdev [win 0 false false] 13).turn + minLead (bdev [win 0 false false] 13)) ∧
    ((bdev [win 0 false false] 11).get R.GLB_TURN_STATUS_MODE ≠ 0 ∧
      planValid (bdev [win 0 false false] 11) (phase 63 13 : PhaseMsg).plan.val = true ∧
      armed (bdev [win 0 false false] 11) (phase 63 13 : PhaseMsg).plan (phase 63 13 : PhaseMsg).wturn = none ∧
      (bdev [win 0 false false] 11).turn + minLead (bdev [win 0 false false] 11) ≤ (phase 63 13 : PhaseMsg).wturn ∧
      conflicts (bdev [win 0 false false] 11) (phase 63 13 : PhaseMsg).wturn = true) := by
  and_intros <;> decide +kernel

theorem witness_Bypass_part4 :
    ((bdev [win 0 false false] 12).get R.GLB_TURN_STATUS_MODE ≠ 0 ∧
      planValid (bdev [win 0 false false] 12) (phase 63 14 : PhaseMsg).plan.val = true ∧
      armed (bdev [win 0 false false] 12) (phase 63 14 : PhaseMsg).plan (phase 63 14 : PhaseMsg).wturn = none ∧
      (bdev [win 0 false false] 12).turn + minLead (bdev [win 0 false false] 12) ≤ (phase 63 14 : PhaseMsg).wturn ∧
      conflicts (bdev [win 0 false false] 12) (phase 63 14 : PhaseMsg).wturn = false) ∧
    (armed (bdev [win 0 false false] 12) (phase 63 14 : PhaseMsg).plan (phase 63 14 : PhaseMsg).wturn = none) ∧
    (armed (bdev [win 0 false false] 9) (phase 63 10 : PhaseMsg).plan (phase 63 10 : PhaseMsg).wturn = some (win 0 false false) ∧
      cancellable (bdev [win 0 false false] 9) (win 0 false false) = true) ∧
    (armed (bdev [win 0 false false] 10) (phase 63 10 : PhaseMsg).plan (phase 63 10 : PhaseMsg).wturn = some (win 0 false false) ∧
      cancellable (bdev [win 0 false false] 10) (win 0 false false) = false) ∧
    (armed (bdev [win 0 false true] 10) (phase 63 10 : PhaseMsg).plan (phase 63 10 : PhaseMsg).wturn = some (win 0 false true) ∧
      (win 0 false true).originator = true) ∧
    ((st ((bdev [{ win 0 false true with sendTo := [9] }] 8).set R.OPT_BYP_CFG_ACKREQ 1)).dev.applied = true ∧
      dueWindow (st ((bdev [{ win 0 false true with sendTo := [9] }] 8).set R.OPT_BYP_CFG_ACKREQ 1)).dev (63 : Fin 64) 0 2 0 = some ({ win 0 false true with sendTo := [9] } : Window) ∧ ({ win 0 false true with sendTo := [9] } : Window).originator = true ∧ (st ((bdev [{ win 0 false true with sendTo := [9] }] 8).set R.OPT_BYP_CFG_ACKREQ 1)).dev.on R.OPT_BYP_CFG_ACKREQ = true ∧ ((({ win 0 false true with sendTo := [9] } : Window).nakd = true ∨ ∃ e ∈ ({ win 0 false true with sendTo := [9] } : Window).sendTo, e ∉ ({ win 0 false true with sendTo := [9] } : Window).acked))) ∧
    ((st ((bdev [{ win 0 false true with sendTo := [9], acked := [9] }] 8).set R.OPT_BYP_CFG_ACKREQ 1)).dev.applied = true ∧
      dueWindow (st ((bdev [{ win 0 false true with sendTo := [9], acked := [9] }] 8).set R.OPT_BYP_CFG_ACKREQ 1)).dev (63 : Fin 64) 0 2 0 = some ({ win 0 false true with sendTo := [9], acked := [9] } : Window) ∧ ((({ win 0 false true with sendTo := [9], acked := [9] } : Window).originator = false ∨ (st ((bdev [{ win 0 false true with sendTo := [9], acked := [9] }] 8).set R.OPT_BYP_CFG_ACKREQ 1)).dev.on R.OPT_BYP_CFG_ACKREQ = false ∨ (({ win 0 false true with sendTo := [9], acked := [9] } : Window).nakd = false ∧ ∀ e ∈ ({ win 0 false true with sendTo := [9], acked := [9] } : Window).sendTo, e ∈ ({ win 0 false true with sendTo := [9], acked := [9] } : Window).acked)))) := by
  and_intros <;> decide +kernel

theorem witness_Bypass_part5 :
    ((st (bdev [win 0 false false] 8)).dev.applied = true ∧
      dueWindow (st (bdev [win 0 false false] 8)).dev (63 : Fin 64) 0 2 0 = some (win 0 false false : Window)) ∧
    ((st (bdev [win 1 false false] 10)).dev.applied = true ∧
      dueWindow (st (bdev [win 1 false false] 10)).dev (63 : Fin 64) 1 0 0 = some (win 1 false false : Window) ∧
      ((∀ e ∈ (win 1 false false : Window).ports, agentHeld (st (bdev [win 1 false false] 10)).dev e.1.val = false)) ∧
      (st (bdev [win 1 false false] 10)).dev.opt.later = [] ∧ (st (bdev [win 1 false false] 10)).dev.get R.GLB_TURN_STATUS_MODE ≠ 0) ∧
    ((st ((bdev [win 1 false false] 10).set R.GLB_TURN_STATUS_MODE 0)).dev.applied = true ∧
      dueWindow (st ((bdev [win 1 false false] 10).set R.GLB_TURN_STATUS_MODE 0)).dev (63 : Fin 64) 1 0 0 = some (win 1 false false : Window) ∧
      ((∀ e ∈ (win 1 false false : Window).ports, agentHeld (st ((bdev [win 1 false false] 10).set R.GLB_TURN_STATUS_MODE 0)).dev e.1.val =
      false)) ∧ (st ((bdev [win 1 false false] 10).set R.GLB_TURN_STATUS_MODE 0)).dev.opt.later = [] ∧
      (st ((bdev [win 1 false false] 10).set R.GLB_TURN_STATUS_MODE 0)).dev.get R.GLB_TURN_STATUS_MODE = 0) ∧
    ((st (bdev [win 2 false false] 11)).dev.applied = true ∧
      dueWindow (st (bdev [win 2 false false] 11)).dev (63 : Fin 64) 2 0 1 = some (win 2 false false : Window)) ∧
    ((st (bdev [win 3 false false] 12)).dev.applied = true ∧
      dueWindow (st (bdev [win 3 false false] 12)).dev (63 : Fin 64) 3 0 2 = some (win 3 false false : Window)) ∧
    ((st (bdev [win 4 false false] 14)).dev.applied = true ∧
      dueWindow (st (bdev [win 4 false false] 14)).dev (63 : Fin 64) 4 0 4 = some (win 4 false false : Window)) ∧
    ((st (bdev [win 2 true false] 14)).dev.applied = true ∧ (win 2 true false : Window) ∈ (st (bdev [win 2 true false] 14)).dev.opt.windows ∧
      (win 2 true false : Window).plan = (63 : Fin 64) ∧ (win 2 true false : Window).abandoned = true ∧
      (win 2 true false : Window).w + 4 ≤ (st (bdev [win 2 true false] 14)).dev.turn ∧
      ((∀ y ∈ (st (bdev [win 2 true false] 14)).dev.opt.windows, y.plan = (63 : Fin 64) → y = (win 2 true false : Window)))) := by
  and_intros <;> decide +kernel

theorem witness_Bypass_more1 :
    ∃ x ∈ (bdev [win 0 false false] 0).opt.windows, x = win 0 false false ∧ conflicts (bdev [win 0 false false] 0) 6 = false :=
  ⟨win 0 false false, by decide +kernel⟩

theorem witness_Bypass_more2 :
    ∃ y ∈ (abandon (win 1 false false) (bdev [win 1 false false] 10)).opt.windows, y.plan = (win 1 false false).plan ∧ y.w = (win 1 false false).w :=
  ⟨{ win 1 false false with abandoned := true, stage := 2 }, by decide +kernel⟩

theorem witness_Gauges :
    ((ctrDev 7 true).chained (4106 : Nat) = false ∧ ((ctrDev 7 true).ctr (4106 : Nat)).2 = true) ∧
    ((ctrDev (2 ^ 48 - 2) false).chained (4106 : Nat) = false ∧ ((ctrDev (2 ^ 48 - 2) false).ctr (4106 : Nat)).2 = false ∧
      ((ctrDev (2 ^ 48 - 2) false).ctr (4106 : Nat)).1 + (1 : Nat) < 2 ^ 48) ∧
    ((ctrDev (2 ^ 48 - 1) false).chained (4106 : Nat) = false ∧ ((ctrDev (2 ^ 48 - 1) false).ctr (4106 : Nat)).2 = false ∧
      2 ^ 48 ≤ ((ctrDev (2 ^ 48 - 1) false).ctr (4106 : Nat)).1 + (1 : Nat)) ∧
    (({ live with gauge := { live.gauge with ctr := [(4096, (2 ^ 48 - 1, false))] } }).chained (4096 : Nat) = true ∧
      (({ live with gauge := { live.gauge with ctr := [(4096, (2 ^ 48 - 1, false))] } }).ctr ((4096 : Nat) + 1)).2 = false ∧
      (({ live with gauge := { live.gauge with ctr := [(4096, (2 ^ 48 - 1, false))] } }).ctr (4096 : Nat)).1 + (1 : Nat) < 2 ^ 49 ∧
      (({ live with gauge := { live.gauge with ctr := [(4096, (2 ^ 48 - 1, false))] } }).ctr ((4096 : Nat) + 1)).1 + 1 < 2 ^ 48) ∧
    ((st live).dev.running = true) ∧
    ((st live).dev.running = true ∧ wOn (fw [(R.GAUGE_CLR_B_GO, 1)] : CsrW) R.GAUGE_CLR_B_GO = true ∧ (st live).dev.on R.GAUGE_CLR_B_BUSY = false) ∧
    ((st (live.set R.GAUGE_CLR_B_BUSY 1)).dev.running = true ∧ wOn (fw [(R.GAUGE_CLR_B_GO, 1)] : CsrW) R.GAUGE_CLR_B_GO = true ∧
      (st (live.set R.GAUGE_CLR_B_BUSY 1)).dev.on R.GAUGE_CLR_B_BUSY = true) ∧
    ((live.set R.GAUGE_CLR_B_BUSY 1).on R.GAUGE_CLR_B_BUSY = true) ∧
    ((∀ x ∈ (st (dueDev false 0)).dev.gauge.due, x.set ≠ (62 : Fin 64).val)) ∧
    ((st { dueDev false 0 with gauge := { live.gauge with due := [⟨63, 5, false, 0, 1⟩, ⟨62, 5, true, 0, 1⟩] } }).dev.applied = true ∧
      (st { dueDev false 0 with gauge := { live.gauge with due := [⟨63, 5, false, 0, 1⟩, ⟨62, 5, true, 0, 1⟩] } }).dev.boot.turnsBegun = true ∧
      (st { dueDev false 0 with gauge := { live.gauge with due := [⟨63, 5, false, 0, 1⟩, ⟨62, 5, true, 0, 1⟩] } }).dev.gauge.due.find? (fun y => y.set == (63 : Fin 64).val) = some (⟨63, 5, false, 0, 1⟩ : DueSet) ∧ ((∃ y ∈ (st { dueDev false 0 with gauge := { live.gauge with due := [⟨63, 5, false, 0, 1⟩, ⟨62, 5, true, 0, 1⟩] } }).dev.gauge.due, y.late = true ∧ ((⟨63, 5, false, 0, 1⟩ : DueSet).late = false ∨ y.set < (⟨63, 5, false, 0, 1⟩ : DueSet).set)))) := by
  and_intros <;> decide +kernel

theorem witness_Gauges_part2 :
    (let d : Dev := { (st (dueDev true 0)).dev with gauge := { (st (dueDev true 0)).dev.gauge with due := (st (dueDev true 0)).dev.gauge.due.erase (⟨63, 5, true, 0, 1⟩ : DueSet) } }; let e := if (⟨63, 5, true, 0, 1⟩ : DueSet).late then d.bump R.GAUGE_SNAP_CNT_LATE else d; (st (dueDev true 0)).dev.applied = true ∧ (st (dueDev true 0)).dev.boot.turnsBegun = true ∧ (st (dueDev true 0)).dev.gauge.due.find? (fun y => y.set == (63 : Fin 64).val) = some (⟨63, 5, true, 0, 1⟩ : DueSet) ∧ ((∀ y ∈ (st (dueDev true 0)).dev.gauge.due, y.late = true → (⟨63, 5, true, 0, 1⟩ : DueSet).late = true ∧ (⟨63, 5, true, 0, 1⟩ : DueSet).set ≤ y.set)) ∧ ((e.ringOn (dueRing (⟨63, 5, true, 0, 1⟩ : DueSet) e) = false ∨ e.ringFull (dueRing (⟨63, 5, true, 0, 1⟩ : DueSet) e) = true))) ∧
    (let d : Dev := { (st (dueDev true 1)).dev with gauge := { (st (dueDev true 1)).dev.gauge with due := (st (dueDev true 1)).dev.gauge.due.erase (⟨63, 5, true, 0, 1⟩ : DueSet) } }; let e := if (⟨63, 5, true, 0, 1⟩ : DueSet).late then d.bump R.GAUGE_SNAP_CNT_LATE else d; (st (dueDev true 1)).dev.applied = true ∧ (st (dueDev true 1)).dev.boot.turnsBegun = true ∧ (st (dueDev true 1)).dev.gauge.due.find? (fun y => y.set == (63 : Fin 64).val) = some (⟨63, 5, true, 0, 1⟩ : DueSet) ∧ ((∀ y ∈ (st (dueDev true 1)).dev.gauge.due, y.late = true → (⟨63, 5, true, 0, 1⟩ : DueSet).late = true ∧ (⟨63, 5, true, 0, 1⟩ : DueSet).set ≤ y.set)) ∧ e.ringOn (dueRing (⟨63, 5, true, 0, 1⟩ : DueSet) e) = true ∧ e.ringFull (dueRing (⟨63, 5, true, 0, 1⟩ : DueSet) e) = false) ∧
    ((st live).dev.running = true ∧ userMay (20479 : Fin 20480).val (st live).dev = false) ∧
    ((st (live.set (R.GAUGE_FLT_A_USER 4095) 1)).dev.running = true ∧
      userMay (4095 : Fin 20480).val (st (live.set (R.GAUGE_FLT_A_USER 4095) 1)).dev = true) ∧
    ((st live).dev.running = true ∧ (0x7FFFFF : BitVec 24).toNat < 0x800000) := by
  and_intros <;> decide +kernel

theorem witness_EventRing :
    ((st live).dev.running = true ∧ (st live).dev.on R.GLB_EVT_CFG_EN = false ∧
      wOn (fw [(R.GLB_EVT_CFG_EN, 1), (R.GLB_EVT_CFG_LOG2SIZE, 6)] : CsrW) R.GLB_EVT_CFG_EN = true ∧
      6 ≤ wBits (fw [(R.GLB_EVT_CFG_EN, 1), (R.GLB_EVT_CFG_LOG2SIZE, 6)] : CsrW) R.GLB_EVT_CFG_LOG2SIZE ∧
      wBits (fw [(R.GLB_EVT_CFG_EN, 1), (R.GLB_EVT_CFG_LOG2SIZE, 6)] : CsrW) R.GLB_EVT_CFG_LOG2SIZE ≤ 16) ∧
    ((st { evRing 0 0 with ras := { live.ras with everEnabled := true } }).dev.running = true ∧
      (st { evRing 0 0 with ras := { live.ras with everEnabled := true } }).dev.ringOn evtRing = true ∧
      (st { evRing 0 0 with ras := { live.ras with everEnabled := true } }).dev.ras.everEnabled = true ∧
      wBits (fw [(R.GLB_EVT_CFG_EN, 1), (R.GLB_EVT_CFG_LOG2SIZE, 16)] : CsrW) R.GLB_EVT_CFG_LOG2SIZE ≠
      (st { evRing 0 0 with ras := { live.ras with everEnabled := true } }).dev.get R.GLB_EVT_CFG_LOG2SIZE) ∧
    (mergesWith merging (ev : Event) = true) ∧
    (mergesWith (evRing 63 0) (ev : Event) = false ∧ (((evRing 63 0).ringOn evtRing = false ∨ (evRing 63 0).ringFull evtRing = true))) ∧
    (mergesWith (evRing 62 0) (ev : Event) = false ∧ (evRing 62 0).ringOn evtRing = true ∧ (evRing 62 0).ringFull evtRing = false) ∧
    (R.GLB_EVT_TAIL ≠ R.GLB_EVT_HEAD ∧ R.GLB_EVT_TAIL ≠ R.GLB_EVT_CNT) := by
  and_intros <;> decide +kernel

theorem witness_Spares :
    ((st (withRas (fun r => { r with copying := [(1, 2047)] }))).dev.running = true ∧
      (st (withRas (fun r => { r with copying := [(1, 2047)] }))).dev.ras.copying.contains (b2n (true : Bool), (2047 : Fin 2048).val) = true) ∧
    ((st live).dev.running = true ∧ (st live).dev.ras.copying.contains (b2n (true : Bool), (2047 : Fin 2048).val) = false) ∧
    ((st (withRas (fun r => { r with copying := [(2, 255)] }))).dev.running = true ∧
      (st (withRas (fun r => { r with copying := [(2, 255)] }))).dev.ras.copying.contains (2, 32 * (7 : Fin 8).val + (31 : Fin 32).val) = true) ∧
    ((st live).dev.running = true ∧ (st live).dev.ras.copying.contains (2, 32 * (7 : Fin 8).val + (31 : Fin 32).val) = false) ∧
    ((st oneLane).dev.applied = true ∧ (st oneLane).dev.ras.basinOut.contains (254 : Fin 256).val = true) ∧
    ((st live).dev.applied = true ∧ (st live).dev.ras.failed.contains (8, (7 : Fin 8).val) = false) ∧
    ((st (withRas (fun r => { r with failed := [(8, 7)] }))).dev.applied = true ∧
      (st (withRas (fun r => { r with failed := [(8, 7)] }))).dev.ras.failed.contains (8, (7 : Fin 8).val) = true) ∧
    ((st (live.set R.TEST_CORE_STAT_FAILED 0x20000)).dev.applied = true ∧
      bitAt ((st (live.set R.TEST_CORE_STAT_FAILED 0x20000)).dev.get R.TEST_CORE_STAT_FAILED) (17 : Fin 18).val = true) ∧
    ((st live).dev.applied = true ∧ bitAt ((st live).dev.get R.TEST_CORE_STAT_FAILED) (17 : Fin 18).val = false) := by
  and_intros <;> decide +kernel

theorem witness_Spares_part2 :
    (live.running = true ∧ live.on R.TEST_BIST_CTL_BUSY = false ∧ serdesFree 1151 live = true ∧ live.computeFitted (271 / 136) = true ∧
      (∀ k : Fin 256, live.get (basinMapFld k.val) ≠ 271) ∧ factoryTest (sets [(R.SEC_BOOT_STATUS_STAGE, 14), (R.GLB_LC_STATE, 1)] live) = true ∧
      factoryTest live = false ∧ wBits (bw 0 1151) R.TEST_BIST_CTL_TARGET = 0 ∧ wBits (bw 0 1151) R.TEST_BIST_CTL_INDEX = 1151 ∧
      wOn (bw 0 1151) R.TEST_BIST_CTL_GO = true ∧ wBits (bw 1 271) R.TEST_BIST_CTL_TARGET = 1 ∧ wBits (bw 1 271) R.TEST_BIST_CTL_INDEX = 271 ∧
      wOn (bw 1 271) R.TEST_BIST_CTL_GO = true ∧ wBits (bw 2 7) R.TEST_BIST_CTL_TARGET = 2 ∧ wBits (bw 2 7) R.TEST_BIST_CTL_INDEX = 7 ∧
      wOn (bw 2 7) R.TEST_BIST_CTL_GO = true ∧ wBits (bw 3 271) R.TEST_BIST_CTL_TARGET = 3 ∧ wBits (bw 3 271) R.TEST_BIST_CTL_INDEX = 271 ∧
      wOn (bw 3 271) R.TEST_BIST_CTL_GO = true ∧ wBits (bw 4 10) R.TEST_BIST_CTL_TARGET = 4 ∧ wBits (bw 4 10) R.TEST_BIST_CTL_INDEX = 10 ∧
      wOn (bw 4 10) R.TEST_BIST_CTL_GO = true ∧ wBits (bw 5 7) R.TEST_BIST_CTL_TARGET = 5 ∧ wBits (bw 5 7) R.TEST_BIST_CTL_INDEX = 7 ∧
      wOn (bw 5 7) R.TEST_BIST_CTL_GO = true ∧ wBits (bw 6 7) R.TEST_BIST_CTL_TARGET = 6 ∧ wBits (bw 6 7) R.TEST_BIST_CTL_INDEX = 7 ∧
      wOn (bw 6 7) R.TEST_BIST_CTL_GO = true ∧ wBits (bw 7 3) R.TEST_BIST_CTL_TARGET = 7 ∧ wBits (bw 7 3) R.TEST_BIST_CTL_INDEX = 3 ∧
      wOn (bw 7 3) R.TEST_BIST_CTL_GO = true) ∧
    ((st live).dev.running = true ∧ (st live).dev.ras.bist = none) ∧
    ((st (withRas (fun r => { r with bist := some (6, 7, none) }))).dev.running = true ∧
      (st (withRas (fun r => { r with bist := some (6, 7, none) }))).dev.ras.bist ≠ none) := by
  and_intros <;> decide +kernel

theorem witness_Spares_more1 :
    live.applied = true ∧ live.ras.basinOut.contains 255 = false ∧
      live.basin.ctx.filter (fun x => x.2.st == .opened && laneOf x.2.gidx.val x.2.chunk.toNat live == 255) = [] :=
  ⟨by decide +kernel, by decide +kernel, rfl⟩

theorem witness_Spares_more2 :
    oneLane.applied = true ∧ oneLane.ras.basinOut.contains 255 = false ∧
      oneLane.basin.ctx.filter (fun x => x.2.st == .opened && laneOf x.2.gidx.val x.2.chunk.toNat oneLane == 255) ≠ [] :=
  ⟨by decide +kernel, by decide +kernel, oneLane_hit⟩

theorem witness_Spares_more3 :
    spareLanes noLane = [] :=
  noLane_none

theorem witness_Spares_more4 :
    spareLanes live ≠ [] :=
  live_spare

theorem witness_Ports :
    ((st rst).dev.power ≠ .off ∧ (st rst).dev.ras.extest = false ∧ lcOf (st rst).dev ≠ 5) ∧
    ((st rst).dev.power ≠ .off ∧ (st rst).dev.ras.extest = false) ∧
    ((st live).dev.running = true ∧ mgmtUp (st live).dev (1 : Fin 2).val = false) ∧
    ((st (mgDev false)).dev.running = true ∧ mgmtUp (st (mgDev false)).dev (1 : Fin 2).val = true ∧
      (((zeros 64 : List Byte).length < 64 ∨ 9216 < (zeros 64 : List Byte).length ∨ crcRun crcStart (zeros 64 : List Byte) ≠ crcGood))) ∧
    ((st (mgDev false)).dev.running = true ∧ mgmtUp (st (mgDev false)).dev (1 : Fin 2).val = true ∧
      64 ≤ (withFcs (beBytes 6 0x0180C2000001 ++ zeros 6 ++ beBytes 2 0x8808 ++ beBytes 2 1 ++ zeros 44) : List Byte).length ∧
      (withFcs (beBytes 6 0x0180C2000001 ++ zeros 6 ++ beBytes 2 0x8808 ++ beBytes 2 1 ++ zeros 44) : List Byte).length ≤ 9216 ∧
      crcRun crcStart (withFcs (beBytes 6 0x0180C2000001 ++ zeros 6 ++ beBytes 2 0x8808 ++ beBytes 2 1 ++ zeros 44) : List Byte) = crcGood ∧
      macControl (withFcs (beBytes 6 0x0180C2000001 ++ zeros 6 ++ beBytes 2 0x8808 ++ beBytes 2 1 ++ zeros 44) : List Byte) 0x0001 = true) ∧
    ((st (mgDev false)).dev.running = true ∧ mgmtUp (st (mgDev false)).dev (1 : Fin 2).val = true ∧
      64 ≤ (withFcs (zeros 12 ++ beBytes 2 0x88B6 ++ zeros 46) : List Byte).length ∧
      (withFcs (zeros 12 ++ beBytes 2 0x88B6 ++ zeros 46) : List Byte).length ≤ 9216 ∧
      crcRun crcStart (withFcs (zeros 12 ++ beBytes 2 0x88B6 ++ zeros 46) : List Byte) = crcGood ∧
      macControl (withFcs (zeros 12 ++ beBytes 2 0x88B6 ++ zeros 46) : List Byte) 0x0001 = false ∧
      (parseEth (withFcs (zeros 12 ++ beBytes 2 0x88B6 ++ zeros 46) : List Byte)).etype = 0x88B6) ∧
    ((st (mgDev true)).dev.running = true ∧ mgmtUp (st (mgDev true)).dev (1 : Fin 2).val = true ∧
      64 ≤ (withFcs (zeros 12 ++ beBytes 2 0x86DD ++ [0x60] ++ zeros 45) : List Byte).length ∧
      (withFcs (zeros 12 ++ beBytes 2 0x86DD ++ [0x60] ++ zeros 45) : List Byte).length ≤ 9216 ∧
      crcRun crcStart (withFcs (zeros 12 ++ beBytes 2 0x86DD ++ [0x60] ++ zeros 45) : List Byte) = crcGood ∧
      macControl (withFcs (zeros 12 ++ beBytes 2 0x86DD ++ [0x60] ++ zeros 45) : List Byte) 0x0001 = false ∧
      (parseEth (withFcs (zeros 12 ++ beBytes 2 0x86DD ++ [0x60] ++ zeros 45) : List Byte)).etype ≠ 0x88B6 ∧ (st (mgDev true)).dev.factory = true ∧
      (parseEth (withFcs (zeros 12 ++ beBytes 2 0x86DD ++ [0x60] ++ zeros 45) : List Byte)).ip = 6) := by
  and_intros <;> decide +kernel

theorem witness_Ports_part2 :
    ((st (mgDev true)).dev.running = true ∧ mgmtUp (st (mgDev true)).dev (1 : Fin 2).val = true ∧ 64 ≤ (withFcs (zeros 60) : List Byte).length ∧
      (withFcs (zeros 60) : List Byte).length ≤ 9216 ∧ crcRun crcStart (withFcs (zeros 60) : List Byte) = crcGood ∧
      macControl (withFcs (zeros 60) : List Byte) 0x0001 = false ∧ (parseEth (withFcs (zeros 60) : List Byte)).etype ≠ 0x88B6 ∧
      (st (mgDev true)).dev.factory = true ∧ (parseEth (withFcs (zeros 60) : List Byte)).ip ≠ 6) ∧
    (let d := mgmtPtp (1 : Fin 2).val (withFcs (zeros 14 ++ phasePkt 0) : List Byte) (st (mgDev false)).dev;
      (st (mgDev false)).dev.running = true ∧ mgmtUp (st (mgDev false)).dev (1 : Fin 2).val = true ∧
      64 ≤ (withFcs (zeros 14 ++ phasePkt 0) : List Byte).length ∧ (withFcs (zeros 14 ++ phasePkt 0) : List Byte).length ≤ 9216 ∧
      crcRun crcStart (withFcs (zeros 14 ++ phasePkt 0) : List Byte) = crcGood ∧
      macControl (withFcs (zeros 14 ++ phasePkt 0) : List Byte) 0x0001 = false ∧
      (parseEth (withFcs (zeros 14 ++ phasePkt 0) : List Byte)).etype ≠ 0x88B6 ∧ (st (mgDev false)).dev.factory = false ∧
      mgmtOfp d (withFcs (zeros 14 ++ phasePkt 0) : List Byte) = some (phasePkt 0 ++ beBytes 4 (beAt (withFcs (zeros 14 ++ phasePkt 0)) 90 4)) ∧
      isPhase (phasePkt 0 ++ beBytes 4 (beAt (withFcs (zeros 14 ++ phasePkt 0)) 90 4)) = true) ∧
    (let d := mgmtPtp (1 : Fin 2).val (withFcs (zeros 60) : List Byte) (st (mgDev false)).dev; (st (mgDev false)).dev.running = true ∧
      mgmtUp (st (mgDev false)).dev (1 : Fin 2).val = true ∧ 64 ≤ (withFcs (zeros 60) : List Byte).length ∧
      (withFcs (zeros 60) : List Byte).length ≤ 9216 ∧ crcRun crcStart (withFcs (zeros 60) : List Byte) = crcGood ∧
      macControl (withFcs (zeros 60) : List Byte) 0x0001 = false ∧ (parseEth (withFcs (zeros 60) : List Byte)).etype ≠ 0x88B6 ∧
      (st (mgDev false)).dev.factory = false ∧ (mgmtOfp d (withFcs (zeros 60) : List Byte)).all (fun x => !isPhase x) = true) ∧
    ((st factory).dev.factory = true ∧ (st factory).dev.on (R.MGT_MP_STAT_UP 0) = false) ∧
    ((st (mgDev false)).dev.running = true ∧ (st (mgDev false)).dev.on (R.MGT_MP_CFG_EN (1 : Fin 2).val) = true) ∧
    ((st (mgDev false)).dev.running = true ∧ (st (mgDev false)).dev.on (R.MGT_MP_STAT_UP (1 : Fin 2).val) = true) ∧
    ((st (mgDev false)).dev.running = true ∧ (st (mgDev false)).dev.on R.MGT_PCIE_STAT_UP = true) ∧
    ((st (mgDev false)).dev.running = true ∧ wBits (fw [(R.MGT_PCIE_DOORBELL_VEC, 63)] : CsrW) R.MGT_PCIE_DOORBELL_VEC ≠ 0 ∧
      (st (mgDev false)).dev.pcieUp = true) ∧
    ((st live).dev.running = true ∧
      ((wBits (fw [(R.MGT_PCIE_DOORBELL_VEC, 0)] : CsrW) R.MGT_PCIE_DOORBELL_VEC = 0 ∨ (st live).dev.pcieUp = false))) := by
  and_intros <;> decide +kernel

theorem witness_Ports_part3 :
    ((st (mgDev false)).dev.running = true ∧ (st (mgDev false)).dev.on R.MGT_PCIE_STAT_UP = true ∧ (((8 : Nat) ≠ 4 ∨ (0 : Nat) % 4 ≠ 0))) ∧
    ((st live).dev.applied = true ∧ (((4 : Nat) ≠ 4 ∨ (2 : Word).toNat % 4 ≠ 0))) ∧
    ((st { live with poison := [(1, 0)] }).dev.applied = true ∧
      (((false : Bool) = true ∨ (st { live with poison := [(1, 0)] }).dev.poisoned 1 (63 : Nat) 1 = true))) ∧
    ((st live).dev.applied = true ∧ (false : Bool) = false ∧ (st live).dev.poisoned 1 (63 : Nat) 1 = false) := by
  and_intros <;> decide +kernel

theorem witness_Registers :
    ((st live).dev.running = true ∧ inUserWindow (0x507FFFFC : Word).toNat = false ∧ findReg (0x507FFFFC : Word).toNat = none) ∧
    ((st live).dev.running = true ∧ inUserWindow (0x507FFFFC : Word).toNat = false ∧ findReg (0x507FFFFC : Word).toNat = none) ∧
    ((st live).dev.running = true ∧ inUserWindow (0x50800000 : Word).toNat = true) ∧
    ((∀ e ∈ live.latch, e.1 ≠ ((0 : ReqId), (0 : Nat)))) := by
  and_intros <;> decide +kernel

theorem witness_Registers_more1 :
    ∃ h : RegHit, live.running = true ∧ findReg (R.GLB_TURN_NUM) = some h ∧ h.reg.wide = true ∧ h.high = false ∧ live.unitFitted h = true :=
  ⟨_, by decide +kernel, rfl, by decide +kernel⟩

theorem witness_Registers_more2 :
    ∃ h : RegHit, live.running = true ∧ findReg (R.GLB_TURN_NUM + 4) = some h ∧ inUserWindow (R.GLB_TURN_NUM + 4) = false ∧ h.reg.wide = true ∧
      h.high = true ∧ live.unitFitted h = true :=
  ⟨_, by decide +kernel, rfl, by decide +kernel⟩

theorem witness_Registers_more3 :
    ∃ h : RegHit, live.running = true ∧ findReg (R.SPRAY_SCHED_START) = some h ∧ h.reg.wide = true ∧ h.high = false ∧ live.unitFitted h = true :=
  ⟨_, by decide +kernel, rfl, by decide +kernel⟩

theorem witness_Registers_more4 :
    ∃ h : RegHit, live.running = true ∧ findReg (R.SPRAY_SCHED_START + 4) = some h ∧ h.reg.wide = true ∧ h.high = true ∧ live.unitFitted h = true ∧
      wideRefused h R.SPRAY_SCHED_START (w 1) live = false :=
  ⟨_, by decide +kernel, rfl, by decide +kernel⟩

theorem witness_Registers_more5 :
    ∃ h : RegHit, short.running = true ∧ findReg (R.PORT_LGRP_CFG 63) = some h ∧ h.reg.wide = false ∧ short.unitFitted h = false :=
  ⟨_, by decide +kernel, rfl, by decide +kernel⟩

theorem witness_Registers_more6 :
    ∃ h : RegHit, live.running = true ∧ findReg (R.GLB_EVT_CNT) = some h ∧ h.reg.wide = false ∧ h.reg.base ≠ R.GAUGE_CRD 0 0 ∧
      live.unitFitted h = true :=
  ⟨_, by decide +kernel, rfl, by decide +kernel⟩

theorem witness_Registers_more7 :
    ∃ h : RegHit, short.running = true ∧ findReg (R.PORT_LGRP_CFG 63) = some h ∧ h.reg.wide = false ∧ short.unitFitted h = false ∧
      ownBases.contains h.reg.base = false ∧ quotaBases.contains h.reg.base = false ∧ (ringOfCfg (R.PORT_LGRP_CFG 63) short).isNone = true ∧
      h.reg.base ≠ R.FLUME_WQ_CTL 0 :=
  ⟨_, by decide +kernel, rfl, by decide +kernel⟩

theorem witness_Registers_more8 :
    ∃ h : RegHit, live.running = true ∧ findReg (R.PORT_PFC_CFG 0) = some h ∧ h.reg.wide = false ∧ live.unitFitted h = true ∧
      writeRefused h (R.PORT_PFC_CFG 0) (w 7) live = true ∧ ownBases.contains h.reg.base = false ∧ quotaBases.contains h.reg.base = false ∧
      (ringOfCfg (R.PORT_PFC_CFG 0) live).isNone = true ∧ h.reg.base ≠ R.FLUME_WQ_CTL 0 :=
  ⟨_, by decide +kernel, rfl, by decide +kernel⟩

theorem witness_Registers_more9 :
    ∃ h : RegHit, live.running = true ∧ findReg (R.FWD_AGE_CFG) = some h ∧ h.reg.wide = false ∧ live.unitFitted h = true ∧
      writeRefused h R.FWD_AGE_CFG (w 7) live = false ∧ h.reg.base ≠ R.QUE_TC_SHAPE 0 0 ∧ h.reg.base ≠ R.QUE_PORT_SHAPE 0 ∧
      ownBases.contains h.reg.base = false ∧ quotaBases.contains h.reg.base = false ∧ (ringOfCfg (R.FWD_AGE_CFG) live).isNone = true ∧
      h.reg.base ≠ R.FLUME_WQ_CTL 0 :=
  ⟨_, by decide +kernel, rfl, by decide +kernel⟩

theorem witness_AccessCodes :
    ((∀ f ∈ fields, f.lo ≤ f.hi) ∧ fields.Pairwise (fun f g => f.hi < g.lo ∨ g.hi < f.lo) ∧ ∃ f ∈ fields, f.acc = .rw) ∧
    ((∀ f ∈ fields, f.lo ≤ f.hi) ∧ fields.Pairwise (fun f g => f.hi < g.lo ∨ g.hi < f.lo) ∧ ∃ f ∈ fields, f.acc = .rwl) ∧
    ((∀ f ∈ fields, f.lo ≤ f.hi) ∧ fields.Pairwise (fun f g => f.hi < g.lo ∨ g.hi < f.lo) ∧ ∃ f ∈ fields, f.acc = .w1s) ∧
    ((∀ f ∈ fields, f.lo ≤ f.hi) ∧ fields.Pairwise (fun f g => f.hi < g.lo ∨ g.hi < f.lo) ∧ ∃ f ∈ fields, f.acc = .w1c ∧ 3 < f.hi - f.lo + 1) ∧
    ((∀ f ∈ fields, f.lo ≤ f.hi) ∧ fields.Pairwise (fun f g => f.hi < g.lo ∨ g.hi < f.lo) ∧ ∃ f ∈ fields, f.acc = .ro) ∧
    ((∀ f ∈ fields, f.lo ≤ f.hi) ∧ fields.Pairwise (fun f g => f.hi < g.lo ∨ g.hi < f.lo)) := by
  and_intros <;> decide +kernel

/-! ### The worked examples of the spec, and published check values -/

/-- The remapping example of chapter 1: physical lane 1,000 fails, which is position 10 of lane group 7 of port die 6. -/
theorem test_lane_remap :
    (match exec (.laneFailWrite 55 (w 0x400)) (st (live.set R.TEST_SPARE_CFG_LANEAUTO 1)) with
      | .next t => t.dev.rd (R.PORT_LANE_SHIFT 55) == 0x55500000
      | _ => false) = true := by decide +kernel

/-- The snapshot example of chapter 16: 1,747,200,001 s, 700 ns, fraction 0x8312. -/
theorem test_time_read :
    let t : Clepsydra := { Clepsydra.init with
      raw := 79619149295
      baseRaw := 79619147795
      adj := 10995116
      baseT := (1747200000 * 1000000000 + 999999500) * 65536 + 0x8000 }
    timeAt t (16 * t.raw) = (1747200001 * 1000000000 + 700) * 65536 + 0x8312 := by decide +kernel

/-- The weights example of chapter 8: depth 260 pages gives level 8 and weight 512; at 100 pages in the next turn level 7. -/
theorem test_level_rises :
    (portLevel false 3 (sets [(R.SPRAY_GAUGE_CFG_LSTEP, 32), (R.SPRAY_GAUGE_CFG_DECAY, 1), (R.CIST_QSPILL_PAGES 24, 260)] live)).get
      (R.SPRAY_PLVL_EFF 3) = 8 := by decide +kernel
theorem test_level_decays :
    (portLevel false 3 (sets [(R.SPRAY_GAUGE_CFG_LSTEP, 32), (R.SPRAY_GAUGE_CFG_DECAY, 1), (R.CIST_QSPILL_PAGES 24, 100),
      (R.SPRAY_PLVL_LOCAL 3, 8)] live)).get (R.SPRAY_PLVL_EFF 3) = 7 := by decide +kernel

/-- The requantising example of chapter 10: 3.7, −0.013 and 2.0 × 10^−5 to MXFP8 E4M3. -/
theorem test_requantise :
    mxBlock 8 0 1 [0x406CCCCD, 0xBC54FDF4, 0x37A7C5AC] = ([0x7E, 0xBD, 0x01], 120, 1, [2]) := by decide +kernel

/-- The low-rank example of chapter 11: 128 tiles of 40 rows, 51,200 array cycles each. -/
theorem test_tiles : splitJob 1 5120 128 = (40, 128) := by decide
theorem test_mac_cycles : macCycles (job1 (desc 1 2 2 8 5120 40960 128 0 0 0)) 40 = 51200 := by decide +kernel

/-- The shared-pool example of chapter 6: a frame of 7 cells is refused within 6 cells of the threshold of 212,992. -/
def poolDev (cells : Nat) : Dev :=
  sets [(R.CIST_QPROF_A_MINQ 0, 16), (R.CIST_QPROF_A_ALPHA 0, 5), (R.CIST_POOL_FREE_FREE, 851968)] (inQ 0 { UQueue.init with h := cells } live)
theorem test_threshold : thresholdOk 0 7 (poolDev (16 + 212992 - 7)) = true ∧ thresholdOk 0 7 (poolDev (16 + 212992 - 6)) = false := by
  decide +kernel

/-- The power example of chapter 3: of 570 W the basin and the flume take 90 W, and the two sluice dies get 81 of 128 each; a die without
descriptors requests nothing. -/
def powerDev (queues : List (Fld × Nat)) : Dev :=
  sets ([(R.GLB_PWR_CLASS_MAXDUTY 3, 128), (R.GLB_PWR_CLASS_MAXDUTY 4, 128), (R.GLB_PWR_CLASS_MAXDUTY 5, 128), (R.GLB_PWR_CLASS_MAXDUTY 6, 128),
      (R.GLB_PWR_CLASS_PRIO 5, 1), (R.GLB_PWR_CLASS_PRIO 6, 1)] ++ queues)
    { live with ras := { live.ras with fullPower := [0, 0, 0, 60 * 65536, 30 * 65536, 24739840, 24739840, 0] } }
def ready (m : Nat) : List (Fld × Nat) :=
  [(R.SLU_WQ_CFG_EN m 0, 1), (R.SLU_WQ_CFG_LOG2SIZE m 0, 8), (R.SLU_WQ_TAIL_TAIL m 0, 1)]
theorem test_grants :
    (grantAll { turn0 with requested := List.replicate 8 128 } (powerDev (ready 0 ++ ready 1)) (570 * 65536)).1 =
      [(3, 128), (4, 128), (5, 81), (6, 81)] := by decide +kernel
theorem test_grants_idle :
    (grantAll { turn0 with requested := List.replicate 8 128 } (powerDev (ready 0)) (570 * 65536)).1.getD 3 (0, 0) = (6, 0) := by decide +kernel

/-- The ECN example of chapter 7: at a depth of 19,200 cells a packet is marked for 5,518 of 65,536 draws. -/
def ecnDev : Dev := sets [(R.QUE_ECN_A_KMIN 0, 76), (R.QUE_ECN_B_KMAX 0, 608), (R.QUE_ECN_C_PMAX 0, 13107), (R.QUE_ECN_C_EN 0, 1)] live
def ecnPkt : Pkt := builtPkt 0 0 (ofpPacket { type := 0, ecn := 1 } []) none
theorem test_ecn : ecnDecide ecnDev 0 19200 5517 ecnPkt = .mark ∧ ecnDecide ecnDev 0 19200 5518 ecnPkt = .send := by decide +kernel

/-- The re-route example of chapter 12: SRTT 1,600 µs and RTTVAR 4 µs give an RTO of 1,620 µs. -/
theorem test_rto :
    baseRto (hdev (fun l => l.modRoute 0 (fun r => { r with srtt := some (1600 * usUnit), rttvar := 4 * usUnit }))) 63 0 = 1620 * usUnit := by
  decide +kernel

/-- The window example of chapter 17: at turn 1,000,004 with LEAD 32 the window starts at 1,000,036. -/
theorem test_trigger :
    (match exec (.bypassTrigger 31) (st (sets [(R.OPT_BYP_CFG_LEAD, 32), (R.OPT_BYP_CFG_MINLEAD, 8)]
        ((trig (2 ^ 32 - 4096) 4096).wr64 R.GLB_TURN_NUM 1000004))) with
      | .next t => t.dev.opt.windows.map (fun x => x.w) == [1000036]
      | _ => false) = true := by decide +kernel

/-- CRC-32C of "123456789", and SHA-384 of "abc" (FIPS 180-4). -/
theorem test_crc32c : crc32c [0x31, 0x32, 0x33, 0x34, 0x35, 0x36, 0x37, 0x38, 0x39] = 0xE3069283 := by decide +kernel
theorem test_sha384 : sha384 [0x61, 0x62, 0x63] =
    beBytes 48 0xcb00753f45a35e8bb5a03d699ac65007272c32ab0eded1631a8b605a43ff5bed8086072ba1e7cc2358baeca134c825a7 := by decide +kernel

/-- Product in the field of AES, and the byte whose affine image is b. -/
def fieldMul (a b : Nat) : Nat :=
  ((List.range 8).foldl (fun (r : Nat × Nat) i => (if bitAt b i then Nat.xor r.1 r.2 else r.1, aesTwice r.2)) (0, a)).1
def unaffine (b : Nat) : Nat := Nat.xor 5 (Nat.xor (Nat.xor (b * 2 % 256 + b / 128) (b * 8 % 256 + b / 32)) (b * 64 % 256 + b / 4))

/-- The S-box is the inverse in that field and then the affine map (FIPS 197). -/
theorem test_sbox : ∀ x : Fin 255, fieldMul (x.val + 1) (unaffine (aesBox (x.val + 1))) = 1 := by decide +kernel

/-- AES-256 of FIPS 197, C.3. -/
theorem test_aes256 : aesNum ((List.range 32).map (BitVec.ofNat 8 ·)) (beBytes 16 0x00112233445566778899AABBCCDDEEFF) =
    0x8EA2B7CA516745BFEAFC49904B496089 := by decide +kernel

/-- AES-256-GCM of one block of zeros under zeros (test case 14 of the GCM submission). -/
theorem test_gcm : aesGcm (zeros 32) (zeros 12) [] (zeros 16) =
    beBytes 16 0xCEA7403D4D606B6E074EC5D3BAF39D18 ++ beBytes 16 0xD0D1C8A799996BF0265B98B5D48AB919 := by decide +kernel

/-- A write of GLB_RST_CTL with the key resets the device, and GLB_RST_CAUSE says so (R68). -/
theorem test_soft_reset :
    (match exec (.softReset (fw [(R.GLB_RST_CTL_KEY, 0x5A17), (R.GLB_RST_CTL_DEVICE, 1)])) (st live) with
      | .next t => t.dev.on R.GLB_RST_CAUSE_SOFT && !t.dev.on R.GLB_RST_CAUSE_PIN && !t.dev.applied
      | _ => false) = true := by decide +kernel

/-- The first command of the start-up from reset: with both references good REFCLK0 is in use and the control die is released (R21, R22). -/
theorem test_reference :
    (match exec (.refclkQualified true true) State.reset with
      | .next t => t.dev.get R.GLB_REFCLK_ACTIVE == 0 && t.dev.boot.clocked && t.dev.boot.released == 1
      | _ => false) = true := by decide +kernel

/-- Reset has canonical memory. -/
theorem test_reset_memory : Memory.wf State.reset.dev.res = true ∧ Memory.wf State.reset.dev.commons = true := ⟨rfl, rfl⟩

/-! ### Ill-formed commands are refused -/

theorem wf_boundary : Instr.wf (.turnBoundary turn0) = true := by decide
theorem wf_boundary_watts : Instr.wf (.turnBoundary { turn0 with watts := [] }) = false := by decide
theorem wf_boundary_temps : Instr.wf (.turnBoundary { turn0 with temps := [0] }) = false := by decide
theorem wf_boundary_classes : Instr.wf (.turnBoundary { turn0 with requested := [1] }) = false := by decide
theorem wf_boundary_duty : Instr.wf (.turnBoundary { turn0 with requested := List.replicate 8 129 }) = false := by decide
theorem wf_boundary_overrun : Instr.wf (.turnBoundary { turn0 with overrun := [1, 1] }) = false := by decide
theorem wf_boundary_parity : Instr.wf (.turnBoundary { turn0 with parity := [(12, 0, 0)] }) = false := by decide
theorem wf_pair : Instr.wf (.pairReceive 0 ⟨true, zeros 1284⟩) = false := by decide +kernel
theorem wf_marker : Instr.wf (.markerReceive 0 (some (zeros 1284))) = false := by decide +kernel
theorem wf_flags_tuned : Instr.wf (.moduleFlagPoll 0 { flags 3 with tuned := [] }) = false := by decide
theorem wf_flags_faults : Instr.wf (.moduleFlagPoll 0 { flags 3 with faults := [1, 1] }) = false := by decide
theorem wf_retune : Instr.wf (.retuneComplete 0 false []) = false := by decide
theorem wf_challenge : Instr.wf (.challenge clear 0 []) = false := by decide
theorem wf_key_exchange : Instr.wf (.keyExchange clear 0 []) = false := by decide
theorem wf_measurements : Instr.wf (.getMeasurements clear 0 true []) = false := by decide
theorem wf_unit : Instr.wf (.getVersion { clear with unit := 63 }) = false ∧ Instr.wf (.getDigests { clear with unit := 1025 }) = false := by decide
theorem wf_finish : Instr.wf (.finish clear []) = false := by decide
theorem wf_time_short : Instr.wf (.timeExchangeReceive 0 (zeros 35) 0 false) = false := by decide
theorem wf_page : Instr.wf (.spillPageWrite 0 [1, 1]) = false := by decide
theorem wf_commons_bank : Instr.wf (.bankSpareDone true 1024 0) = false := by decide
theorem wf_chunk : Instr.wf (.chunkEmit 0 [1, 1]) = false := by decide
theorem wf_csr_address : Instr.wf (.registerWrite 2 (w 0)) = false ∧ Instr.wf (.readClear 0 1) = false ∧ Instr.wf (.quotaWrite 3 (w 0)) = false ∧
    Instr.wf (.ringConfigWrite 2 (w 0)) = false ∧ Instr.wf (.lowWordRead 0 2) = false ∧ Instr.wf (.lowWordWrite 2 (w 0)) = false ∧
    Instr.wf (.highWordWrite 2 (w 0)) = false := by decide
theorem wf_access_size : Instr.wf (.csrAccessFault 0 0 3 true) = false := by decide

end Sys2Proof.Tests
end

section
/-! Every command completes (O2): the commands of the enclave and the resets that change fuses or flash as well as the device keep the queue too. -/

namespace Sys2Proof.Machine

/-! ### Transitions of the whole state keep the queue -/

theorem cutBurn_pending (s : State) : (cutBurn s).pending = s.pending := by
  unfold cutBurn; split <;> rfl

theorem cutThen_pending (f : Fuses → Dev → Dev) (s : State) : (cutThen f s).pending = s.pending := cutBurn_pending s

theorem resetAssert_pending (n : Nat) (s : State) : (resetAssert n s).pending = s.pending := by
  unfold resetAssert; dsimp only
  split
  · exact cutThen_pending _ _
  · rfl

theorem softReset_pending (w : CsrW) (s : State) : (softReset w s).pending = s.pending := by
  unfold softReset; dsimp only
  split
  · rfl
  · split
    · exact cutThen_pending _ _
    · rfl

theorem loaderFlashWritten_pending (bs : List Byte) (s : State) : (loaderFlashWritten bs s).pending = s.pending := by
  unfold loaderFlashWritten; dsimp only
  split
  · rfl
  · split <;> rfl

theorem lcBurnDone_pending (s : State) : (lcBurnDone s).pending = s.pending := by
  unfold lcBurnDone; split <;> rfl

theorem keyRevoke_pending (w : CsrW) (s : State) : (keyRevoke w s).pending = s.pending := by
  unfold keyRevoke; dsimp only
  split_ifs <;> rfl

theorem svnAdvance_pending (w : CsrW) (s : State) : (svnAdvance w s).pending = s.pending := by
  unfold svnAdvance; dsimp only
  split_ifs <;> rfl

theorem programSlot_pending (n : Nat) (s : State) : (programSlot n s).pending = s.pending := by
  unfold programSlot
  extract_lets ok
  split <;> rfl

theorem mbxWrite_pending (w : CsrW) (s : State) : (mbxWrite w s).pending = s.pending := by
  unfold mbxWrite
  extract_lets d s1 sp _ _ s3
  split
  · rfl
  · change s3.pending = s1.pending
    unfold s3
    split
    · simp only [sp, programSlot_pending]
    all_goals rfl

/-! ### The outcome of a command -/

/-- A transition that waits for its occasion keeps the queue whether it comes or not. -/
theorem ite_completes (b : Bool) (f : State → State) (s : State) (h : (f s).pending = s.pending) :
    ∃ t : State, (Host.Outcome.next (if b then f s else s) : Host.Outcome State Fault Refusal) = .next t ∧ t.pending = s.pending :=
  ⟨_, rfl, by cases b; exacts [rfl, h]⟩

/-- Settles O2. All but the commands named change the device alone, and their outcome shows it. -/
theorem everyCommandCompletes : Obligations.EveryCommandCompletes := by
  intro c s
  cases c
  case resetAssert n => exact ⟨_, rfl, resetAssert_pending n s⟩
  case powerLoss => exact ⟨_, rfl, cutThen_pending powerLoss s⟩
  case softReset w => exact ⟨_, rfl, softReset_pending w s⟩
  case loaderFlashWritten bs => exact ite_completes _ _ s (loaderFlashWritten_pending bs s)
  case lcBurnDone => exact ite_completes _ _ s (lcBurnDone_pending s)
  case keyRevoke w => exact ite_completes _ _ s (keyRevoke_pending w s)
  case svnAdvance w => exact ite_completes _ _ s (svnAdvance_pending w s)
  case programOwnerSlot w => exact ite_completes _ _ s (mbxWrite_pending w s)
  case supplyLcRecord w => exact ite_completes _ _ s (mbxWrite_pending w s)
  case checkImageRegion w => exact ite_completes _ _ s (mbxWrite_pending w s)
  all_goals exact ⟨_, rfl, rfl⟩

/-! ### The fuses of reset -/

/-- The part that the model starts from has four slots and no SVN bit burned. -/
theorem Fuses.chosen_legal : fusesLegal Fuses.chosen := ⟨rfl, Nat.zero_le 64⟩

/-- Settles O4. -/
theorem resetFusesLegal : Obligations.ResetFusesLegal := Fuses.chosen_legal

end Sys2Proof.Machine
end

section
/-! What a write gives each field by its access code (O60). -/

namespace Sys2Proof.Machine

/-- Bits of a field. -/
def FieldDef.width (f : FieldDef) : Nat := f.hi - f.lo + 1

/-- Two fields share no bit. -/
def FieldDef.apart (f g : FieldDef) : Prop := f.hi < g.lo ∨ g.hi < f.lo

/-- A field's value after a write of `new` over `old` (R11, R54). -/
def FieldDef.written (f : FieldDef) (lock : Bool) (old new : Nat) : Nat :=
  let ov := bitsOf old f.lo f.width
  let nv := bitsOf new f.lo f.width
  match f.acc with
  | .rw => nv
  | .rwl => if lock then ov else nv
  | .w1c => Nat.land ov (Nat.xor nv (2 ^ f.width - 1))
  | .w1s => Nat.lor ov nv
  | .ro | .rc | .wo => ov

/-- A write of the field violates the lock (R54). -/
def FieldDef.violates (f : FieldDef) (lock : Bool) (old new : Nat) : Bool :=
  lock && f.acc == .rwl && bitsOf new f.lo f.width != bitsOf old f.lo f.width

/-- The part of `writeFields` that one field takes. -/
def writeField (lock : Bool) (old new : Nat) (r : Nat × Bool) (f : FieldDef) : Nat × Bool :=
  match f.acc with
  | .rw => (withBits r.1 f.lo f.width (f.written lock old new), r.2)
  | .rwl => if lock then (r.1, r.2 || bitsOf new f.lo f.width != bitsOf old f.lo f.width)
      else (withBits r.1 f.lo f.width (f.written lock old new), r.2)
  | .w1c | .w1s => (withBits r.1 f.lo f.width (f.written lock old new), r.2)
  | .ro | .rc | .wo => r

theorem writeFields_eq_foldl (lock : Bool) (fs : List FieldDef) (old new : Nat) :
    writeFields lock fs old new = fs.foldl (writeField lock old new) (old, false) := by
  unfold writeFields
  congr 1
  funext r f
  unfold writeField FieldDef.written
  cases f.acc <;> cases lock <;> rfl

/-! ### The value -/

/-- What a field's part writes, if anything, fits the field. -/
theorem FieldDef.written_lt (f : FieldDef) (lock : Bool) (old new : Nat) : f.written lock old new < 2 ^ f.width := by
  have ho := bitsOf_lt old f.lo f.width
  have hn := bitsOf_lt new f.lo f.width
  unfold FieldDef.written
  cases f.acc with
  | rw => exact hn
  | rwl => cases lock; exacts [hn, ho]
  | w1c => exact Nat.lt_of_le_of_lt Nat.and_le_left ho
  | w1s => exact Nat.or_lt_two_pow ho hn
  | ro => exact ho
  | rc => exact ho
  | wo => exact ho

/-- Either a field's part writes the field, or the field is one that keeps its old bits. -/
theorem writeField_value (lock : Bool) (old new : Nat) (r : Nat × Bool) (f : FieldDef) :
    (writeField lock old new r f).1 = withBits r.1 f.lo f.width (f.written lock old new) ∨
      (writeField lock old new r f).1 = r.1 ∧ f.written lock old new = bitsOf old f.lo f.width := by
  unfold writeField FieldDef.written
  cases f.acc with
  | rw => exact .inl rfl
  | rwl => cases lock; exacts [.inl rfl, .inr ⟨rfl, rfl⟩]
  | w1c => exact .inl rfl
  | w1s => exact .inl rfl
  | ro => exact .inr ⟨rfl, rfl⟩
  | rc => exact .inr ⟨rfl, rfl⟩
  | wo => exact .inr ⟨rfl, rfl⟩

theorem writeField_bits_same (lock : Bool) (old new : Nat) (r : Nat × Bool) (f : FieldDef)
    (h : bitsOf r.1 f.lo f.width = bitsOf old f.lo f.width) :
    bitsOf (writeField lock old new r f).1 f.lo f.width = f.written lock old new := by
  rcases writeField_value lock old new r f with hw | ⟨hk, hv⟩
  · rw [hw, bitsOf_withBits_same, Nat.mod_eq_of_lt (f.written_lt lock old new)]
  · rw [hk, hv, h]

theorem writeField_bits_apart (lock : Bool) (old new : Nat) (r : Nat × Bool) (f g : FieldDef) (hf : f.lo ≤ f.hi) (hg : g.lo ≤ g.hi)
    (h : f.apart g) : bitsOf (writeField lock old new r f).1 g.lo g.width = bitsOf r.1 g.lo g.width := by
  rcases writeField_value lock old new r f with hw | ⟨hk, -⟩
  · rw [hw]
    rcases h with h | h
    · exact bitsOf_withBits_above _ _ _ _ _ _ (by unfold FieldDef.width; omega)
    · exact bitsOf_withBits_below _ _ _ _ _ _ (by unfold FieldDef.width; omega)
  · rw [hk]

theorem foldl_writeField_bits_apart (lock : Bool) (old new : Nat) (fs : List FieldDef) (g : FieldDef) (hg : g.lo ≤ g.hi) (r : Nat × Bool)
    (h : ∀ f ∈ fs, f.lo ≤ f.hi ∧ f.apart g) :
    bitsOf (fs.foldl (writeField lock old new) r).1 g.lo g.width = bitsOf r.1 g.lo g.width := by
  induction fs generalizing r with
  | nil => rfl
  | cons f t ih =>
    obtain ⟨⟨hf, ha⟩, ht⟩ := List.forall_mem_cons.mp h
    exact (ih _ ht).trans (writeField_bits_apart lock old new r f g hf hg ha)

/-- Each field of a register whose fields are apart ends with its own value. -/
theorem foldl_writeField_bits (lock : Bool) (old new : Nat) (fs : List FieldDef) (r : Nat × Bool) (hle : ∀ f ∈ fs, f.lo ≤ f.hi)
    (hp : fs.Pairwise FieldDef.apart) (hr : ∀ f ∈ fs, bitsOf r.1 f.lo f.width = bitsOf old f.lo f.width) (f : FieldDef) (hf : f ∈ fs) :
    bitsOf (fs.foldl (writeField lock old new) r).1 f.lo f.width = f.written lock old new := by
  induction fs generalizing r with
  | nil => exact absurd hf List.not_mem_nil
  | cons g t ih =>
    obtain ⟨hg, ht⟩ := List.forall_mem_cons.mp hle
    obtain ⟨ha, hp⟩ := List.pairwise_cons.mp hp
    obtain ⟨hrg, hrt⟩ := List.forall_mem_cons.mp hr
    rcases List.mem_cons.mp hf with rfl | hf
    · exact (foldl_writeField_bits_apart lock old new t f hg _ fun x hx => ⟨ht x hx, (ha x hx).symm⟩).trans
        (writeField_bits_same lock old new r f hrg)
    · exact ih _ ht hp (fun x hx => (writeField_bits_apart lock old new r g x hg (ht x hx) (ha x hx)).trans (hrt x hx)) hf

theorem writeFields_bits (lock : Bool) (fs : List FieldDef) (old new : Nat) (hle : ∀ f ∈ fs, f.lo ≤ f.hi)
    (hp : fs.Pairwise FieldDef.apart) (f : FieldDef) (hf : f ∈ fs) :
    bitsOf (writeFields lock fs old new).1 f.lo f.width = f.written lock old new := by
  rw [writeFields_eq_foldl]
  exact foldl_writeField_bits lock old new fs _ hle hp (fun _ _ => rfl) f hf

/-- Bit k of a W1C field: the old one, less a 1 written. -/
theorem testBit_w1c (ov nv w k : Nat) (hk : k < w) :
    Nat.testBit (Nat.land ov (Nat.xor nv (2 ^ w - 1))) k = (Nat.testBit ov k && !Nat.testBit nv k) := by
  have h : Nat.testBit (ov &&& (nv ^^^ (2 ^ w - 1))) k = (Nat.testBit ov k && !Nat.testBit nv k) := by
    rw [Nat.testBit_and, Nat.testBit_xor, Nat.testBit_two_pow_sub_one, decide_eq_true hk, Bool.xor_true]
  exact h

/-! ### The lock violation -/

theorem writeField_violation (lock : Bool) (old new : Nat) (r : Nat × Bool) (f : FieldDef) :
    (writeField lock old new r f).2 = (r.2 || f.violates lock old new) := by
  unfold writeField FieldDef.violates
  cases f.acc <;> cases lock <;> simp

theorem foldl_writeField_violation (lock : Bool) (old new : Nat) (fs : List FieldDef) (r : Nat × Bool) :
    (fs.foldl (writeField lock old new) r).2 = (r.2 || fs.any fun f => f.violates lock old new) := by
  induction fs generalizing r with
  | nil => simp
  | cons f t ih => rw [List.foldl_cons, ih, writeField_violation, List.any_cons, Bool.or_assoc]

theorem FieldDef.violates_iff (f : FieldDef) (lock : Bool) (old new : Nat) :
    f.violates lock old new = true ↔ lock = true ∧ f.acc = .rwl ∧ bitsOf new f.lo f.width ≠ bitsOf old f.lo f.width := by
  simp [FieldDef.violates, and_assoc]

theorem writeFields_violation_iff (lock : Bool) (fs : List FieldDef) (old new : Nat) :
    (writeFields lock fs old new).2 = true ↔
      lock = true ∧ ∃ f ∈ fs, f.acc = .rwl ∧ bitsOf new f.lo f.width ≠ bitsOf old f.lo f.width := by
  simp only [writeFields_eq_foldl, foldl_writeField_violation, Bool.false_or, List.any_eq_true, FieldDef.violates_iff]
  exact ⟨fun ⟨f, hf, hl, h⟩ => ⟨hl, f, hf, h⟩, fun ⟨hl, f, hf, h⟩ => ⟨f, hf, hl, h⟩⟩

/-- Settles O60: each field's value is the one its own part of the write gives, for the parts of the other fields leave it alone. -/
theorem accessCodes : Obligations.AccessCodes := by
  intro fs lock old new hle hp
  refine ⟨fun f hf => ?_, writeFields_violation_iff lock fs old new⟩
  have hv : bitsOf (writeFields lock fs old new).1 f.lo f.width = f.written lock old new := writeFields_bits lock fs old new hle hp f hf
  dsimp only
  rw [← FieldDef.width, hv]
  refine ⟨fun h => ?_, fun h => ?_, fun h => ?_, fun h k hk => ?_, fun h => ?_⟩
  · rw [FieldDef.written, h]
  · rw [FieldDef.written, h]
  · rw [FieldDef.written, h]
  · rw [FieldDef.written, h]; exact testBit_w1c _ _ _ k hk
  · rcases h with h | h | h <;> rw [FieldDef.written, h]

end Sys2Proof.Machine
end

section
/-! The start-up of the enclave and the checks of the image (O9): R53 to R63. -/

namespace Sys2Proof.Machine

/-! ### The factory default state and the stages -/

theorem stage_setStage (n : Nat) (d : Dev) (h : n < 16) : stage (setStage n d) = n :=
  (Dev.get_set_same d R.SEC_BOOT_STATUS_STAGE n (by decide)).trans (Nat.mod_eq_of_lt h)

theorem rd_setStage (n a : Nat) (d : Dev) (h : a ≠ R.SEC_BOOT_STATUS) : (setStage n d).rd a = d.rd a :=
  Dev.rd_set_ne d R.SEC_BOOT_STATUS_STAGE n a h

theorem stage_enterDefault (e : BootErr) (d : Dev) : stage (enterDefault e d) = 14 := stage_setStage 14 _ (by decide)

theorem enterDefault_staging (e : BootErr) (d : Dev) : (enterDefault e d).boot.staging = [] := rfl

/-- ERR after entering the factory default state: what was there, or the failure's code. -/
theorem enterDefault_err (e : BootErr) (d : Dev) :
    (enterDefault e d).get R.SEC_BOOT_STATUS_ERR =
      if d.get R.SEC_BOOT_STATUS_ERR = 0 then e.1 % 256 else d.get R.SEC_BOOT_STATUS_ERR := by
  unfold enterDefault setStage
  extract_lets d1
  have hkept : (({ d1 with boot := { d1.boot with staging := [] } }.set (R.MGT_MP_CFG_EN 0) 1).set R.SEC_BOOT_STATUS_STAGE 14).get
      R.SEC_BOOT_STATUS_ERR = d1.get R.SEC_BOOT_STATUS_ERR := by
    rw [Dev.get_set_apart _ _ _ _ (by decide) (by unfold Fld.apart; decide), Dev.get_set_ne _ _ _ _ (by decide)]
    rfl
  rw [hkept]
  unfold d1
  split
  · rw [Dev.get_set_apart _ _ _ _ (by decide) (by unfold Fld.apart; decide)]
    exact Dev.get_set_same _ _ _ (by decide)
  · rfl

theorem afterVerify_both (d : Dev) (he : d.boot.ecdsaOk = true) (hl : d.boot.lmsOk = true) : stage (afterVerify d) = 3 := by
  simp only [afterVerify, he, hl, Bool.and_self, if_true]
  exact stage_setStage 3 d (by decide)

theorem afterVerify_one (d : Dev) (h : d.boot.ecdsaOk = false ∨ d.boot.lmsOk = false) : afterVerify d = d := by
  rcases h with h | h <;> simp [afterVerify, h]

/-! ### The nonce and the identity -/

/-- A new nonce is two free values, and changes the three nonce words alone. -/
theorem newNonce_rd (d : Dev) (a : Nat) (h0 : a ≠ R.SEC_LC_NONCE 0) (h1 : a ≠ R.SEC_LC_NONCE 1) (h2 : a ≠ R.SEC_LC_NONCE 2) :
    (newNonce d).rd a = d.rd a := by
  unfold newNonce
  dsimp only
  rw [Dev.rd_wr_ne _ _ _ _ h2, Dev.rd_wr_ne _ _ _ _ h1, Dev.rd_wr_ne _ _ _ _ h0]
  rfl

theorem newNonce_boot (d : Dev) : (newNonce d).boot = d.boot := rfl
theorem newNonce_outbox (d : Dev) : (newNonce d).outbox = d.outbox := rfl
theorem newNonce_freeCtr (d : Dev) : (newNonce d).freeCtr = d.freeCtr + 2 := rfl

/-- Signing changes the return certificate and the count of free values alone; outside RETURN there is nothing to sign. -/
theorem signReturn_csr (f : Fuses) (d : Dev) : (signReturn f d).csr = d.csr := by
  unfold signReturn; split <;> rfl

theorem signReturn_outbox (f : Fuses) (d : Dev) : (signReturn f d).outbox = d.outbox := by
  unfold signReturn; split <;> rfl

theorem signReturn_enclaveUp (f : Fuses) (d : Dev) : (signReturn f d).boot.enclaveUp = d.boot.enclaveUp := by
  unfold signReturn; split <;> rfl

theorem signReturn_other (f : Fuses) (d : Dev) (h : (lcState f).toNat ≠ 4) : signReturn f d = d := if_neg h

/-! ### ENCLAVE_START_UP -/

/-- The device once the enclave has drawn its nonce and signed, before a failed die is looked for. -/
def begun (f : Fuses) (d : Dev) : Dev :=
  signReturn f (newNonce ({ d with boot := { d.boot with enclaveUp := true } }.emit (.pin "XSPI_RESET_N" true)))

theorem begun_rd (f : Fuses) (d : Dev) (a : Nat) (h0 : a ≠ R.SEC_LC_NONCE 0) (h1 : a ≠ R.SEC_LC_NONCE 1) (h2 : a ≠ R.SEC_LC_NONCE 2) :
    (begun f d).rd a = d.rd a :=
  (Dev.rd_congr (signReturn_csr f _) a).trans (newNonce_rd _ a h0 h1 h2)

theorem begun_get (f : Fuses) (d : Dev) (x : Fld) (h0 : x.addr ≠ R.SEC_LC_NONCE 0) (h1 : x.addr ≠ R.SEC_LC_NONCE 1)
    (h2 : x.addr ≠ R.SEC_LC_NONCE 2) : (begun f d).get x = d.get x := by
  simp only [Dev.get, begun_rd f d x.addr h0 h1 h2]

theorem begun_dieFailed (f : Fuses) (d : Dev) : dieFailed (begun f d) = dieFailed d := by
  have hdie (k : Nat) : (begun f d).dieState k = d.dieState k :=
    begun_get f d ⟨R.GLB_DIE_STATUS, 2 * k, 2⟩ (show R.GLB_DIE_STATUS ≠ _ by decide) (show R.GLB_DIE_STATUS ≠ _ by decide)
      (show R.GLB_DIE_STATUS ≠ _ by decide)
  simp only [dieFailed, hdie]

theorem begun_err (f : Fuses) (d : Dev) : (begun f d).get R.SEC_BOOT_STATUS_ERR = d.get R.SEC_BOOT_STATUS_ERR :=
  begun_get f d _ (by decide) (by decide) (by decide)

theorem begun_enclaveUp (f : Fuses) (d : Dev) : (begun f d).boot.enclaveUp = true := signReturn_enclaveUp f _

theorem begun_outbox (f : Fuses) (d : Dev) : (begun f d).outbox = d.outbox ++ [.pin "XSPI_RESET_N" true] := signReturn_outbox f _

/-- Outside RETURN nothing is signed. -/
theorem begun_other (f : Fuses) (d : Dev) (h : (lcState f).toNat ≠ 4) :
    (begun f d).boot = { d.boot with enclaveUp := true } ∧ (begun f d).freeCtr = d.freeCtr + 2 := by
  unfold begun
  rw [signReturn_other f _ h]
  exact ⟨rfl, rfl⟩

theorem enclaveStartUp_eq (f : Fuses) (d : Dev) (hrun : d.running = true) (hdone : diesDone d = true) (hup : d.boot.enclaveUp = false) :
    enclaveStartUp f d = if dieFailed d then enterDefault (17, 0) (begun f d) else setStage 1 (begun f d) := by
  rw [← begun_dieFailed f d]
  exact if_pos (by simp [hrun, hdone, hup])

/-! ### The checks -/

theorem headerCheck_eq (f : Fuses) (fl : Flash) (d : Dev) (hrun : d.running = true) (hst : stage d = 1) :
    headerCheck f fl d = match readErr f d fl.image with
      | some e => enterDefault e d
      | none => readTo fl.image (readAt 1000)
          (setStage 2 { d with boot := { d.boot with headerOk := true, header := flashBytes fl.image 0 128 } }) :=
  if_pos (by simp [hrun, hst])

theorem ecdsaVerifyDone_eq (fl : Flash) (d : Dev) (hrun : d.running = true) (hst : stage d = 2) (hv : d.boot.ecdsaOk = false)
    (hc : contentErr d fl.image (readAt 5000) = none) :
    ecdsaVerifyDone fl d = if imageEcOk fl.image
      then readTo fl.image (readAt 5000) (afterVerify { d with boot := { d.boot with ecdsaOk := true } })
      else enterDefault (6, 0) d := by
  simp only [ecdsaVerifyDone, hrun, hst, hv, hc]
  cases imageEcOk fl.image <;> rfl

theorem lmsVerifyDone_eq (fl : Flash) (d : Dev) (hrun : d.running = true) (hst : stage d = 2) (hv : d.boot.lmsOk = false)
    (hc : contentErr d fl.image (readAt 9000) = none) :
    lmsVerifyDone fl d = if imageLmsOk fl.image
      then readTo fl.image (readAt 9000) (afterVerify { d with boot := { d.boot with lmsOk := true } })
      else enterDefault (7, 0) d := by
  simp only [lmsVerifyDone, hrun, hst, hv, hc]
  cases imageLmsOk fl.image <;> rfl

/-! ### The flash read -/

theorem reading_of_stage {d : Dev} (h : stage d = 2 ∨ stage d = 3) : reading d = true := by
  rcases h with h | h <;> simp [reading, h]

/-- What a write of bytes to memory leaves alone. -/
structure Dev.MemOnly (d e : Dev) : Prop where
  boot : e.boot = d.boot
  csr : e.csr = d.csr
  outbox : e.outbox = d.outbox

theorem Dev.MemOnly.writeMem (d : Dev) (sp a : Nat) (bs : List Byte) : d.MemOnly (d.writeMem sp a bs) := by
  unfold Dev.writeMem Dev.setMem; split <;> exact ⟨rfl, rfl, rfl⟩

theorem Dev.MemOnly.foldl {α : Type} (f : Dev → α → Dev) (l : List α) (h : ∀ (d : Dev) x, d.MemOnly (f d x)) (d : Dev) :
    d.MemOnly (l.foldl f d) := by
  induction l generalizing d with
  | nil => exact ⟨rfl, rfl, rfl⟩
  | cons x t ih =>
    have h1 := h d x
    have h2 := ih (f d x)
    exact ⟨h2.boot.trans h1.boot, h2.csr.trans h1.csr, h2.outbox.trans h1.outbox⟩

theorem putSections_memOnly (img : List Byte) (start : Nat) (bs : List Byte) (d : Dev) : d.MemOnly (putSections img start bs d) := by
  unfold putSections Dev.each
  refine .foldl _ _ (fun e x => ?_) d
  dsimp only
  split
  · exact .writeMem _ _ _ _
  · exact ⟨rfl, rfl, rfl⟩

/-- The flash read changes no CSR word, no output and, of what start-up holds, its own place and the staging buffer alone. -/
theorem readTo_csr (img : List Byte) (n : Nat) (d : Dev) : (readTo img n d).csr = d.csr := by
  unfold readTo; dsimp only
  split
  · exact (putSections_memOnly _ _ _ _).csr
  · rfl

theorem readTo_outbox (img : List Byte) (n : Nat) (d : Dev) : (readTo img n d).outbox = d.outbox := by
  unfold readTo; dsimp only
  split
  · exact (putSections_memOnly _ _ _ _).outbox
  · rfl

theorem readTo_imageRead (img : List Byte) (n : Nat) (d : Dev) : (readTo img n d).boot.imageRead = d.boot.imageRead := by
  unfold readTo; dsimp only
  split
  · rw [(putSections_memOnly _ _ _ _).boot]
  · rfl

section
variable {fl : Flash} {d : Dev} (hrun : d.running = true) (hst : stage d = 2 ∨ stage d = 3) (hi : d.boot.imageRead = false)
include hrun hst hi

theorem imageReadDone_failed {e : BootErr} (hc : (contentErr d fl.image (imgLen fl.image)).or (hashErr fl.image) = some e) :
    imageReadDone true fl d = enterDefault e d := by
  simp [imageReadDone, hrun, reading_of_stage hst, hi, hc]

theorem imageReadDone_passed (hc : (contentErr d fl.image (imgLen fl.image)).or (hashErr fl.image) = none) :
    (imageReadDone true fl d).boot.imageRead = true ∧ (imageReadDone true fl d).csr = d.csr ∧
      (imageReadDone true fl d).outbox = d.outbox := by
  simp only [imageReadDone, hrun, reading_of_stage hst, hi, hc]
  exact ⟨readTo_imageRead _ _ _, readTo_csr _ _ _, readTo_outbox _ _ _⟩
end

/-- Two outcomes of a command that changes the device part alone. -/
theorem next_setDev (s : State) {d e : Dev} (h : d = e) :
    (.next (s.setDev d) : Host.Outcome State Fault Refusal) = .next (s.setDev e) := by rw [h]

/-- Settles O9. -/
theorem imageChecks : Obligations.ImageChecks := by
  refine ⟨?begins, ?dieFailed, ?headerOk, ?headerBad, ?ecdsa, ?lms, fun d => ⟨afterVerify_both d, afterVerify_one d⟩, ?readOk,
    ?readBad, ?enters⟩
  case begins =>
    intro s hrun hdone hup hfail
    have ht : enclaveStartUp s.fuses s.dev = setStage 1 (begun s.fuses s.dev) := by
      rw [enclaveStartUp_eq s.fuses s.dev hrun hdone hup, hfail]; rfl
    refine ⟨s.setDev (setStage 1 (begun s.fuses s.dev)), next_setDev s ht, stage_setStage 1 _ (by decide), rfl, rfl,
      begun_enclaveUp s.fuses s.dev, begun_outbox s.fuses s.dev, begun_other s.fuses s.dev, fun a hb h0 h1 h2 => ?_⟩
    exact (rd_setStage 1 a _ hb).trans (begun_rd s.fuses s.dev a h0 h1 h2)
  case dieFailed =>
    intro s hrun hdone hup hfail herr
    have ht : enclaveStartUp s.fuses s.dev = enterDefault (17, 0) (begun s.fuses s.dev) := by
      rw [enclaveStartUp_eq s.fuses s.dev hrun hdone hup, hfail]; rfl
    refine ⟨s.setDev (enterDefault (17, 0) (begun s.fuses s.dev)), next_setDev s ht, stage_enterDefault _ _, ?_⟩
    rw [State.setDev_dev, enterDefault_err, begun_err, herr]; rfl
  case headerOk =>
    intro s hrun hst hc
    refine next_setDev s ((headerCheck_eq s.fuses s.flash s.dev hrun hst).trans ?_)
    rw [hc]
  case headerBad =>
    intro s e hrun hst hc
    refine next_setDev s ((headerCheck_eq s.fuses s.flash s.dev hrun hst).trans ?_)
    rw [hc]
  case ecdsa =>
    intro s hrun hst hv hc
    exact next_setDev s (ecdsaVerifyDone_eq s.flash s.dev hrun hst hv hc)
  case lms =>
    intro s hrun hst hv hc
    exact next_setDev s (lmsVerifyDone_eq s.flash s.dev hrun hst hv hc)
  case readOk =>
    intro s hrun hst hi hc
    obtain ⟨himage, hcsr, hout⟩ := imageReadDone_passed hrun hst hi hc
    exact ⟨s.setDev (imageReadDone true s.flash s.dev), rfl, himage, hcsr, rfl, rfl, hout⟩
  case readBad =>
    intro s e hrun hst hi hc
    exact next_setDev s (imageReadDone_failed hrun hst hi hc)
  case enters =>
    intro e d
    have herr := enterDefault_err e d
    exact ⟨stage_enterDefault e d, enterDefault_staging e d, fun h => herr.trans (if_neg h), fun h => herr.trans (if_pos h)⟩

end Sys2Proof.Machine
end

section
/-! CSR reads and writes by the access codes (O59): R3, R9 to R11, R466, R523. -/

namespace Sys2Proof.Machine

/-! ### What an access reports about its unit -/

/-- Whether a register's unit is fitted is read from identity and die registers, which no event changes. -/
theorem Dev.Quiet.unitFitted {d e : Dev} (q : d.Quiet e) (h : RegHit) : e.unitFitted h = d.unitFitted h := by
  have hlc : e.get R.GLB_LC_STATE = d.get R.GLB_LC_STATE := q.get _ (by unfold isEvtReg; decide)
  have hfit : e.get R.GLB_IDENT_FIT_STACKS = d.get R.GLB_IDENT_FIT_STACKS := q.get _ (by unfold isEvtReg; decide)
  have hdie (k : Nat) : e.dieState k = d.dieState k :=
    q.get ⟨R.GLB_DIE_STATUS, 2 * k, 2⟩ (show ¬ isEvtReg R.GLB_DIE_STATUS by unfold isEvtReg; decide)
  simp only [Dev.unitFitted, Dev.portDieFitted, Dev.computeFitted, hlc, hfit, hdie]

/-- An access counted leaves the units as they are. -/
theorem unitFitted_countCsr (r : ReqId) (a c p : Nat) (d : Dev) (h : RegHit) : (countCsr r a c p d).unitFitted h = d.unitFitted h :=
  (countCsr_quiet r a c p d).unitFitted h

/-- A held low word discarded leaves the CSR words. -/
theorem unitFitted_discardHeld (r : ReqId) (a : Nat) (d : Dev) (h : RegHit) : (discardHeld r a d).unitFitted h = d.unitFitted h := rfl

/-- A register has a high word only where it is wide. -/
theorem RegDef.hit_high {r : RegDef} {a : Nat} {ix : List Nat} (h : r.hit a = some (ix, true)) : r.wide = true := by
  unfold RegDef.hit at h
  split at h
  · cases h
  · split at h
    · cases h
    · split at h
      · assumption
      · cases h
    · cases h

theorem findReg_high_wide {a : Nat} {h : RegHit} (hf : findReg a = some h) (hh : h.high = true) : h.reg.wide = true := by
  obtain ⟨r, -, hr⟩ := List.exists_of_findSome?_eq_some hf
  obtain ⟨⟨ix, high⟩, hhit, rfl⟩ := Option.map_eq_some_iff.mp hr
  cases hh
  exact RegDef.hit_high hhit

theorem findReg_addr_of_narrow {a : Nat} {h : RegHit} (hf : findReg a = some h) (hw : h.reg.wide = false) : h.addr a = a := by
  have hh : h.high = false := by
    cases hc : h.high
    · rfl
    · rw [findReg_high_wide hf hc] at hw; exact absurd hw (by decide)
  simp [RegHit.addr, hh]

/-! ### The latch of high words (R10, R523) -/

theorem latchedHigh_of_none (r : ReqId) (a : Nat) (d : Dev) (h : ∀ e ∈ d.latch, e.1 ≠ (r, a)) : latchedHigh r a d = 0 := by
  have hn : d.latch.find? (fun e => e.1 == (r, a)) = none := List.find?_eq_none.mpr fun e he => by simpa using h e he
  simp only [latchedHigh, hn]

theorem latchedHigh_latchHigh (r : ReqId) (a : Nat) (w : Word) (d : Dev) : latchedHigh r a (latchHigh r a w d) = w := by
  have hn : (d.latch.filter (fun e => e.1 != (r, a))).find? (fun e => e.1 == (r, a)) = none :=
    List.find?_eq_none.mpr fun e he => by simpa using (List.mem_filter.mp he).2
  simp only [latchedHigh, latchHigh, List.find?_append, hn, Option.none_or]
  simp

/-! ### Writes of a CSR word, case by case (R3, R9, R10) -/

section
variable {a : Nat} {h : RegHit} (hf : findReg a = some h)
include hf

theorem writeCsr_unfitted (r : ReqId) (w : Word) (d : Dev) (hu : d.unitFitted h = false) :
    writeCsr r a w d = discardHeld r (h.addr a) (countCsr r a 1 3 d) := by
  simp [writeCsr, hf, unitFitted_discardHeld, unitFitted_countCsr, hu]

theorem writeCsr_wide (r : ReqId) (w : Word) (d : Dev) (hu : d.unitFitted h = true) (hw : h.reg.wide = true) :
    writeCsr r a w d = writeWide h.reg.fields (h.addr a) h.high r w (discardHeld r (h.addr a) (countCsr r a 1 3 d)) := by
  simp [writeCsr, hf, unitFitted_discardHeld, unitFitted_countCsr, hu, hw]

theorem writeCsr_narrow (r : ReqId) (w : Word) (d : Dev) (hu : d.unitFitted h = true) (hw : h.reg.wide = false) :
    writeCsr r a w d = applyFields h.reg.fields false a r w.toNat a w (discardHeld r a (countCsr r a 1 3 d)) := by
  simp [writeCsr, hf, unitFitted_discardHeld, unitFitted_countCsr, hu, hw, findReg_addr_of_narrow hf hw]
end

theorem writeCsr_unassigned {a : Nat} (hf : findReg a = none) (r : ReqId) (w : Word) (d : Dev) : writeCsr r a w d = countCsr r a 1 3 d := by
  simp [writeCsr, hf]

/-! ### Commands of the 64-bit registers -/

section
variable {a : Nat} {h : RegHit} (hf : findReg a = some h) (hw : h.reg.wide = true)
include hf hw

theorem lowWordRead_eq (r : ReqId) (d : Dev) (hh : h.high = false) (hu : d.unitFitted h = true) :
    lowWordRead r a d = (latchHigh r a (BitVec.ofNat 32 ((countCsr r a 0 3 d).value64 a / 2 ^ 32)) (countCsr r a 0 3 d)).emit
      (.csrRead r (BitVec.ofNat 32 ((countCsr r a 0 3 d).value64 a))) := by
  simp [lowWordRead, hf, hw, hh, unitFitted_countCsr, hu]

/-- The low word written waits for its requester. -/
theorem lowWordWrite_eq (w : CsrW) (d : Dev) (hh : h.high = false) (hu : d.unitFitted h = true) :
    lowWordWrite a w d = writeWide h.reg.fields a false w.req w.val (discardHeld w.req a (countCsr w.req a 1 3 d)) := by
  simp [lowWordWrite, hf, hw, hh, writeCsr_wide hf _ _ _ hu hw, RegHit.addr]

theorem highWordWrite_eq (w : CsrW) (d : Dev) (hh : h.high = true) (hu : d.unitFitted h = true)
    (hr : wideRefused h (a - 4) w d = false) :
    highWordWrite a w d = writeWide h.reg.fields (a - 4) true w.req w.val (discardHeld w.req (a - 4) (countCsr w.req a 1 3 d)) := by
  simp [highWordWrite, hf, hw, hh, hr, writeCsr_wide hf _ _ _ hu hw, RegHit.addr]

theorem readWord_high (r : ReqId) (d : Dev) (hn : inUserWindow a = false) (hh : h.high = true) (hu : d.unitFitted h = true) :
    readWord r a d = (countCsr r a 0 3 d).emit (.csrRead r (latchedHigh r (a - 4) (countCsr r a 0 3 d))) := by
  simp [readWord, hn, hf, hw, hh, unitFitted_countCsr, hu]
end

/-! ### Reads of other words -/

theorem readWord_unassigned {a : Nat} (hn : inUserWindow a = false) (hf : findReg a = none) (r : ReqId) (d : Dev) :
    readWord r a d = (countCsr r a 0 3 d).emit (.csrRead r 0) := by
  simp [readWord, hn, hf]

theorem readWord_unfitted {a : Nat} {h : RegHit} (hn : inUserWindow a = false) (hf : findReg a = some h) (r : ReqId) (d : Dev)
    (hu : d.unitFitted h = false) (hl : h.reg.wide = false ∨ h.high = true) :
    readWord r a d = (countCsr r a 0 3 d).emit (.csrRead r 0) := by
  rcases hl with hl | hl <;> simp [readWord, hn, hf, hl, unitFitted_countCsr, hu]

/-- What a read of a status word brings up to date first: the wipe's progress or a stack's copying (R68, R487). -/
def refreshed (a : Nat) (h : RegHit) (d : Dev) : Dev :=
  if a = R.GLB_WIPE_STATUS then wipeProgress d else if h.reg.base = R.TEST_HBM_STAT 0 then copyProgress (h.ix.getD 0 0) d else d

/-- A fitted 32-bit word returns its value and its RC fields clear. -/
theorem readWord_narrow {a : Nat} {h : RegHit} (hn : inUserWindow a = false) (hf : findReg a = some h) (r : ReqId) (d : Dev)
    (hu : d.unitFitted h = true) (hw : h.reg.wide = false) (hc : h.reg.base ≠ R.GAUGE_CRD 0 0) :
    readWord r a d =
      ((refreshed a h (countCsr r a 0 3 d)).wr a
        (BitVec.ofNat 32 (clearRc h.reg.fields ((refreshed a h (countCsr r a 0 3 d)).rd a).toNat))).emit
      (.csrRead r ((refreshed a h (countCsr r a 0 3 d)).rd a)) := by
  simp [readWord, refreshed, hn, hf, hw, hc, unitFitted_countCsr, hu]

/-! ### REGISTER_WRITE -/

theorem registerWrite_userWindow {a : Nat} (hn : inUserWindow a = true) (w : CsrW) (d : Dev) :
    registerWrite a w d = (discardHeld w.req a (countCsr w.req a 1 3 d)).bump R.GAUGE_UDENY_COUNT := by
  simp only [registerWrite, hn, if_true]

theorem registerWrite_unassigned {a : Nat} (hn : inUserWindow a = false) (hf : findReg a = none) (w : CsrW) (d : Dev) :
    registerWrite a w d = countCsr w.req a 1 3 d := by
  simp [registerWrite, hn, hf, writeCsr_unassigned hf]

section
variable {a : Nat} {h : RegHit} {d : Dev} (hn : inUserWindow a = false) (hf : findReg a = some h) (hw : h.reg.wide = false)
  (hown : ownBases.contains h.reg.base = false) (hquota : quotaBases.contains h.reg.base = false) (hring : ringOfCfg a d = none)
include hn hf hw hown hquota hring

theorem registerWrite_unfitted (w : CsrW) (hu : d.unitFitted h = false) :
    registerWrite a w d = discardHeld w.req a (countCsr w.req a 1 3 d) := by
  simp only [registerWrite, hn, hf, hw, hown, hquota, hring, hu, writeCsr_unfitted hf _ _ _ hu, findReg_addr_of_narrow hf hw]
  simp

variable (hflume : h.reg.base ≠ R.FLUME_WQ_CTL 0) (hu : d.unitFitted h = true)
include hflume hu

theorem registerWrite_refused (w : CsrW) (hr : writeRefused h a w d = true) :
    registerWrite a w d = refuseWrite a w.req w.val false (discardHeld w.req a (countCsr w.req a 1 3 d)) := by
  simp only [registerWrite, hn, hf, hw, hown, hquota, hring, hu, hflume, hr, refuseCsr]
  simp

theorem registerWrite_applied (w : CsrW) (hr : writeRefused h a w d = false) (htc : h.reg.base ≠ R.QUE_TC_SHAPE 0 0)
    (hport : h.reg.base ≠ R.QUE_PORT_SHAPE 0) :
    registerWrite a w d = afterWrite h d
      (applyFields h.reg.fields false a w.req w.val.toNat a w.val (discardHeld w.req a (countCsr w.req a 1 3 d))) := by
  have hb : beforeWrite h d = d := by simp only [beforeWrite, htc, hport, or_self, if_false]
  simp only [registerWrite, hn, hf, hw, hown, hquota, hring, hu, hflume, hr, hb, writeCsr_narrow hf _ _ _ hu hw]
  simp
end

/-- The outcome of a command that waits for the device to run. -/
theorem onDev_whenRunning (f : Dev → Dev) (s : State) (h : s.dev.running = true) :
    onDev (Dev.whenRunning f) s = .next (s.setDev (f s.dev)) := by
  rw [onDev_eq, Dev.whenRunning_pos f s.dev h]

/-- The address of a high word is that of its low word and 4. -/
theorem toNat_highWord (a : Word) (h : a.toNat + 4 < 2 ^ 32) : (BitVec.ofNat 32 (a.toNat + 4)).toNat = a.toNat + 4 :=
  (BitVec.toNat_ofNat _ _).trans (Nat.mod_eq_of_lt h)

/-- Settles O59. -/
theorem registers : Obligations.Registers := by
  refine ⟨?lowRead, ?highRead, ?lowWrite, ?highWrite, ?readNone, ?read, ?writeNone, ?write, ?window, latchedHigh_of_none⟩
  case lowRead =>
    intro s r a h hrun hf hw hh hu d
    refine ⟨_, onDev_whenRunning _ s hrun, ?_⟩
    simp only [State.setDev_dev, lowWordRead_eq hf hw r s.dev hh hu]
    exact ⟨rfl, latchedHigh_latchHigh r a.toNat _ d, rfl⟩
  case highRead =>
    intro s r a h hrun hn hf hw hh hu ha d
    refine (onDev_whenRunning _ s hrun).trans ?_
    rw [toNat_highWord a ha, readWord_high hf hw r s.dev hn hh hu, Nat.add_sub_cancel]
  case lowWrite =>
    intro s a w h hrun hf hw hh hu
    refine ⟨_, onDev_whenRunning _ s hrun, ?_⟩
    have q := countCsr_quiet w.req a.toNat 1 3 s.dev
    simp only [State.setDev_dev, lowWordWrite_eq hf hw w s.dev hh hu]
    refine ⟨List.mem_append_right _ (List.mem_singleton_self _), fun b hb hc => q.rd b (not_or.mpr ⟨hb, hc⟩), q.links⟩
  case highWrite =>
    intro s a w h hrun ha hf hw hh hu hr d low
    refine (onDev_whenRunning _ s hrun).trans ?_
    rw [toNat_highWord a ha, highWordWrite_eq hf hw w s.dev hh hu hr, Nat.add_sub_cancel]
    rfl
  case readNone =>
    intro s r a hrun hn hf
    exact (onDev_whenRunning _ s hrun).trans (by rw [readWord_unassigned hn hf])
  case read =>
    intro s r a h hrun hn hf
    refine ⟨fun hu hl => (onDev_whenRunning _ s hrun).trans ?_, fun hu hw hc => (onDev_whenRunning _ s hrun).trans ?_⟩
    · rw [readWord_unfitted hn hf r s.dev hu hl]
    · rw [readWord_narrow hn hf r s.dev hu hw hc]; rfl
  case writeNone =>
    intro s a w hrun hn hf
    exact (onDev_whenRunning _ s hrun).trans (by rw [registerWrite_unassigned hn hf])
  case write =>
    intro s a w h hrun hn hf hw hown hquota hring hflume d
    refine ⟨fun hu => ?_, fun hu hr => ?_, fun hu hr htc hport => ?_⟩ <;> refine (onDev_whenRunning _ s hrun).trans ?_
    · rw [registerWrite_unfitted hn hf hw hown hquota hring w hu]
    · rw [registerWrite_refused hn hf hw hown hquota hring hflume hu w hr]
    · rw [registerWrite_applied hn hf hw hown hquota hring hflume hu w hr htc hport]
  case window =>
    intro s a w hrun hn
    exact (onDev_whenRunning _ s hrun).trans (by rw [registerWrite_userWindow hn])

end Sys2Proof.Machine
end

section
/-! The shifts that lane steering computes are legal (O23): R28, R29, R485. -/

namespace Sys2Proof.Machine

/-! ### The next position -/

theorem nextPos_spec (failed : Nat → Bool) (k : Nat) :
    nextPos failed k = 18 ∨ (k ≤ nextPos failed k ∧ nextPos failed k < 18 ∧ failed (nextPos failed k) = false) := by
  unfold nextPos
  cases h : (List.range 18).find? (fun j => decide (k ≤ j) && !failed j) with
  | none => exact .inl rfl
  | some j =>
    have hj : k ≤ j ∧ failed j = false := by simpa using List.find?_some h
    exact .inr ⟨hj.1, List.mem_range.mp (List.mem_of_find?_eq_some h), hj.2⟩

theorem le_nextPos (failed : Nat → Bool) {k : Nat} (h : k ≤ 18) : k ≤ nextPos failed k := by
  rcases nextPos_spec failed k with hn | ⟨hk, -⟩
  · rw [hn]; exact h
  · exact hk

theorem nextPos_le (failed : Nat → Bool) (k : Nat) : nextPos failed k ≤ 18 := by
  rcases nextPos_spec failed k with hn | ⟨-, hk, -⟩
  · rw [hn]
  · exact hk.le

theorem nextPos_ok (failed : Nat → Bool) {k : Nat} (h : nextPos failed k < 18) : failed (nextPos failed k) = false := by
  rcases nextPos_spec failed k with hn | ⟨-, -, hf⟩
  · exact absurd hn h.ne
  · exact hf

/-- A position that has not failed is the next one from itself. -/
theorem nextPos_self (failed : Nat → Bool) {k : Nat} (hk : k < 18) (hf : failed k = false) : nextPos failed k = k := by
  have h : (List.range 18).find? (fun j => decide (k ≤ j) && !failed j) = some k := by
    refine List.find?_range_eq_some.mpr ⟨by simp [hf], List.mem_range.mpr hk, fun j hj => ?_⟩
    simp [Nat.not_le.mpr hj]
  rw [nextPos, h]; rfl

/-! ### One slot -/

/-- What steering keeps from slot to slot: the next position lies beyond the slot shifted as the slot before it was. -/
def SteerRoom (s k prev : Nat) : Prop := s + prev ≤ k ∧ k ≤ 18 ∧ prev ≤ 2 ∧ (s = 0 → prev = 0)

/-- What the shift of slot s is, given the shift before. -/
def SteerStep (failed : Nat → Bool) (s prev : Nat) (x : Nat × Bool) : Prop :=
  prev ≤ x.1 ∧ x.1 ≤ 2 ∧ (x.2 = false → failed (s + x.1) = false)

/-- The one step of steering: the slot's shift is legal, and room is left for the next slot. -/
theorem autoShifts_cons (failed : Nat → Bool) (n : Nat) {s k prev : Nat} (hs : s < 16) (h : SteerRoom s k prev) :
    ∃ x k', autoShifts failed (n + 1) s k prev = x :: autoShifts failed n (s + 1) k' x.1 ∧ SteerStep failed s prev x ∧
      SteerRoom (s + 1) k' x.1 := by
  obtain ⟨hk, h18, hprev, hzero⟩ := h
  have hle := le_nextPos failed h18
  have hmax := nextPos_le failed k
  by_cases hc : nextPos failed k < 18 ∧ nextPos failed k - s ≤ 2
  · refine ⟨(nextPos failed k - s, false), nextPos failed k + 1, if_pos hc, ⟨?_, hc.2, fun _ => ?_⟩, ?_⟩
    · show prev ≤ nextPos failed k - s
      omega
    · have hpos : s + (nextPos failed k - s) = nextPos failed k := by omega
      show failed (s + (nextPos failed k - s)) = false
      rw [hpos]; exact nextPos_ok failed hc.1
    · unfold SteerRoom; dsimp only; omega
  · have hsh : (if s = 0 then 0 else prev) = prev := by split <;> omega
    refine ⟨(prev, true), nextPos failed k, ?_, ⟨le_rfl, hprev, fun hf => Bool.noConfusion hf⟩, ?_⟩
    · exact (if_neg hc).trans (by rw [hsh])
    · unfold SteerRoom; dsimp only; omega

/-! ### All slots -/

theorem autoShifts_length (failed : Nat → Bool) (n s k prev : Nat) : (autoShifts failed n s k prev).length = n := by
  induction n generalizing s k prev with
  | zero => rfl
  | succ n ih => rw [autoShifts]; dsimp only; split <;> rw [List.length_cons, ih]

/-- The shifts from a slot on are at least the one before, at most 2, and name positions that have not failed. -/
theorem autoShifts_getElem (failed : Nat → Bool) (n : Nat) {s k prev : Nat} (hs : s + n ≤ 16) (h : SteerRoom s k prev) (j : Nat)
    (x : Nat × Bool) (hx : (autoShifts failed n s k prev)[j]? = some x) : SteerStep failed (s + j) prev x := by
  induction n generalizing s k prev j with
  | zero => simp [autoShifts] at hx
  | succ n ih =>
    obtain ⟨y, k', he, ⟨hy, hy2, hyf⟩, hroom⟩ := autoShifts_cons failed n (by omega) h
    rw [he] at hx
    cases j with
    | zero => cases hx; exact ⟨hy, hy2, hyf⟩
    | succ j =>
      obtain ⟨hx1, hx2, hxf⟩ := ih (by omega) hroom j hx
      exact ⟨hy.trans hx1, hx2, fun hf => by rw [← hxf hf]; congr 1; omega⟩

/-- Along the slots the shifts never decrease. -/
theorem autoShifts_rises (failed : Nat → Bool) (n : Nat) {s k prev : Nat} (hs : s + n ≤ 16) (h : SteerRoom s k prev) :
    (autoShifts failed n s k prev).Pairwise (fun x y => x.1 ≤ y.1) := by
  induction n generalizing s k prev with
  | zero => exact .nil
  | succ n ih =>
    obtain ⟨x, k', he, -, hroom⟩ := autoShifts_cons failed n (by omega) h
    rw [he]
    refine .cons (fun y hy => ?_) (ih (by omega) hroom)
    obtain ⟨j, hj⟩ := List.mem_iff_getElem?.mp hy
    exact (autoShifts_getElem failed n (by omega) hroom j y hj).1

/-- Without a failed position no slot moves. -/
theorem autoShifts_none_failed (failed : Nat → Bool) (hf : ∀ k, k < 18 → failed k = false) (n s : Nat) (hs : s + n ≤ 16) :
    autoShifts failed n s s 0 = List.replicate n (0, false) := by
  induction n generalizing s with
  | zero => rfl
  | succ n ih =>
    have hk : nextPos failed s = s := nextPos_self failed (by omega) (hf s (by omega))
    have h0 : s < 18 ∧ s - s ≤ 2 := by omega
    rw [autoShifts, hk]
    dsimp only
    rw [if_pos h0, Nat.sub_self, ih (s + 1) (by omega), List.replicate_succ]

/-- Settles O23. -/
theorem steeringLegal : Obligations.SteeringLegal := by
  intro failed r
  have hroom : SteerRoom 0 0 0 := ⟨le_rfl, by decide, by decide, fun _ => rfl⟩
  have hlen : r.length = 16 := autoShifts_length failed 16 0 0 0
  have hstep (k : Nat) (x : Nat × Bool) (hx : r[k]? = some x) : SteerStep failed (0 + k) 0 x :=
    autoShifts_getElem failed 16 (by decide) hroom k x hx
  have hget (k : Nat) (hk : k < 16) (y : Nat × Bool) : r.getD k y = r[k] := List.getD_eq_getElem r y (hlen ▸ hk)
  refine ⟨hlen, fun x hx => ?_, fun k hk => ?_, fun k hk hx => ?_, fun hf x hx => ?_⟩
  · obtain ⟨k, hk⟩ := List.mem_iff_getElem?.mp hx
    exact (hstep k x hk).2.1
  · rw [hget k (by omega), hget (k + 1) hk]
    exact List.pairwise_iff_getElem.mp (autoShifts_rises failed 16 (by decide) hroom) _ _ _ _ (Nat.lt_succ_self k)
  · rw [hget k hk] at hx ⊢
    have h := (hstep k r[k] (List.getElem?_eq_getElem (hlen ▸ hk))).2.2 hx
    rwa [Nat.zero_add] at h
  · have hr : r = List.replicate 16 (0, false) := autoShifts_none_failed failed hf 16 0 (by decide)
    exact List.eq_of_mem_replicate (hr ▸ hx)

end Sys2Proof.Machine
end

section
/-! What a reset leaves (O5): R24, R65, R68, R82, R88, R407, R430, R451, R518, R521. -/

namespace Sys2Proof.Machine

/-! ### GLB_DIE_STATUS at reset (R24) -/

theorem b2n_lt_four (b : Bool) : b2n b < 4 := by cases b <;> decide

/-- A digit of a number given by its digits. -/
theorem ofDigits_four_digit (L : List Nat) (h : ∀ x ∈ L, x < 4) (i : Nat) : Nat.ofDigits 4 L / 4 ^ i % 4 = L.getD i 0 := by
  induction L generalizing i with
  | nil => simp
  | cons x t ih =>
    obtain ⟨hx, ht⟩ := List.forall_mem_cons.mp h
    rw [Nat.ofDigits_cons]
    cases i with
    | zero => rw [List.getD_cons_zero, pow_zero, Nat.div_one]; omega
    | succ i =>
      have hd : (x + 4 * Nat.ofDigits 4 t) / 4 = Nat.ofDigits 4 t := by omega
      rw [List.getD_cons_succ, pow_succ', ← Nat.div_div_eq_div_mul, hd, ih ht]

/-- Marks at even places, as the digits they are. -/
theorem foldl_marks (b : Nat → Bool) (s n : Nat) :
    (List.range n).foldl (fun a d => if b d then a + 4 ^ (d + s) else a) 0 = 4 ^ s * Nat.ofDigits 4 ((List.range n).map (fun d => b2n (b d))) := by
  induction n with
  | zero => rfl
  | succ n ih =>
    rw [List.range_succ, List.foldl_append, List.map_append, Nat.ofDigits_append, ih]
    cases h : b n
    · simp [h, b2n]
    · simp [h, b2n, pow_add]; ring

/-- The digits of GLB_DIE_STATUS at reset: one bit pair for each die. -/
def resetDies (f : Fuses) : List Nat :=
  [1, 1] ++ ((List.range 8).map (fun k => b2n (f.portDies.getLsbD k)) ++ (List.range 2).map (fun m => b2n (f.compute.getLsbD m)))

theorem resetDies_lt (f : Fuses) : ∀ x ∈ resetDies f, x < 4 := by
  intro x hx
  simp only [resetDies, List.mem_append, List.mem_cons, List.mem_map, List.not_mem_nil, or_false] at hx
  rcases hx with (rfl | rfl) | ⟨k, -, rfl⟩ | ⟨m, -, rfl⟩
  · decide
  · decide
  · exact b2n_lt_four _
  · exact b2n_lt_four _

theorem resetDieStatus_toNat (f : Fuses) : (resetDieStatus f).toNat = Nat.ofDigits 4 (resetDies f) := by
  have hs : Nat.ofDigits 4 (resetDies f) = 5 + (List.range 8).foldl (fun a d => if f.portDies.getLsbD d then a + 4 ^ (d + 2) else a) 0 +
      (List.range 2).foldl (fun a m => if f.compute.getLsbD m then a + 4 ^ (m + 10) else a) 0 := by
    rw [foldl_marks (fun d => f.portDies.getLsbD d), foldl_marks (fun m => f.compute.getLsbD m), resetDies, Nat.ofDigits_append,
      Nat.ofDigits_append, List.length_map, List.length_range]
    rw [show Nat.ofDigits 4 [1, 1] = 5 from rfl, show ([1, 1] : List Nat).length = 2 from rfl]
    ring
  have hlt : Nat.ofDigits 4 (resetDies f) < 2 ^ 32 :=
    (Nat.ofDigits_lt_base_pow_length (by decide) (resetDies_lt f)).trans_le
      (by rw [show (resetDies f).length = 12 from rfl]; decide)
  rw [resetDieStatus, BitVec.toNat_ofNat, ← hs, Nat.mod_eq_of_lt hlt]

/-! ### Words at reset -/

theorem SMap.getD_of_not_key {α : Type} (m : SMap α) (k : Nat) (d : α) (h : ∀ x ∈ m, x.1 ≠ k) : SMap.getD m k d = d := by
  induction m with
  | nil => rfl
  | cons e t ih =>
    obtain ⟨he, ht⟩ := List.forall_mem_cons.mp h
    rw [SMap.getD, SMap.get?_cons, if_neg he]
    exact ih ht

/-- The registers that are not 0 at reset. -/
def resetKeys : List Nat :=
  [R.GLB_DIE_STATUS, R.GLB_RST_CAUSE] ++ (List.range 8).map R.GLB_PWR_GRANT ++ [R.TIME_STATUS, R.MGT_MP_CFG 0, R.MGT_MP_CFG 1] ++
    (List.range 64).map R.OPT_MOD_CTL ++ [R.FWD_JOB 0]

theorem resetCsr_keys (f : Fuses) (c s : Fin 4) : ∀ x ∈ resetCsr f c s, x.1 ∈ resetKeys := by
  intro x hx
  simp only [resetCsr, List.mem_append, List.mem_cons, List.mem_map, List.mem_filter, List.not_mem_nil, or_false] at hx
  simp only [resetKeys, List.mem_append, List.mem_cons, List.mem_map, List.not_mem_nil, or_false]
  rcases hx with (((((rfl | rfl) | ⟨k, hk, rfl⟩) | (rfl | rfl | rfl)) | ⟨m, ⟨hm, -⟩, rfl⟩) | rfl)
  all_goals simp
  · exact .inl (.inl (.inl (.inr ⟨k, List.mem_range.mp hk, rfl⟩)))
  · exact .inl (.inr ⟨m, List.mem_range.mp hm, rfl⟩)

section
variable (f : Fuses) (c s : Fin 4) (n : Nat) (o : List Emission)

theorem fresh_rd_zero (a : Nat) (h : a ∉ resetKeys) : (Dev.fresh f c s n o).rd a = 0 :=
  SMap.getD_of_not_key _ _ _ fun x hx hc => h (hc ▸ resetCsr_keys f c s x hx)

theorem fresh_dieState (k : Nat) : (Dev.fresh f c s n o).dieState k = (resetDies f).getD k 0 := by
  have hr : (Dev.fresh f c s n o).rd R.GLB_DIE_STATUS = resetDieStatus f := rfl
  rw [Dev.dieState, Dev.get, hr, resetDieStatus_toNat, bitsOf, pow_mul]
  exact ofDigits_four_digit _ (resetDies_lt f) k
end

/-- Settles O5. -/
theorem resetLeaves : Obligations.ResetLeaves := by
  intro f cause stp n o d
  have hcause (b : Fin 4) : d.get ⟨R.GLB_RST_CAUSE, b.val, 1⟩ = b2n (cause == b) := by
    have h : ∀ c s b : Fin 4, bitsOf (BitVec.ofNat 32 (2 ^ c.val + 256 * s.val)).toNat b.val 1 = b2n (c == b) := by decide
    exact h cause stp b
  have hstop : d.get R.GLB_RST_CAUSE_STOP = stp.val := by
    have h : ∀ c s : Fin 4, bitsOf (BitVec.ofNat 32 (2 ^ c.val + 256 * s.val)).toNat R.GLB_RST_CAUSE_STOP.lo R.GLB_RST_CAUSE_STOP.w = s.val := by decide
    exact h cause stp
  have hdie (k : Nat) : d.dieState k = (resetDies f).getD k 0 := fresh_dieState f cause stp n o k
  have hzero (a : Nat) (h : a ∉ resetKeys) : d.rd a = 0 := fresh_rd_zero f cause stp n o a h
  have hgap : ∀ k ∈ resetKeys, ¬ (R.GLB_PWR_GRANT 8 ≤ k ∧ k < R.TIME_STATUS) ∧ ¬ R.FWD_JOB 1 ≤ k := by decide
  have hgrant (c : Fin 8) : d.rd (R.GLB_PWR_GRANT c.val) = 128 := by fin_cases c <;> rfl
  have htime : d.rd R.TIME_STATUS = 0x7FF0 := rfl
  have hfec (k : Fin 2) : d.rd (R.MGT_MP_CFG k.val) = 4 := by fin_cases k <;> rfl
  refine ⟨hcause 0, hcause 1, hcause 2, hcause 3, hstop, hdie 0, hdie 1, fun k => ?_, fun m => ?_, fun c => ?_, ?_, ?_, ?_, ?_, ?_,
    fun a h1 h2 => hzero a fun h => (hgap a h).1 ⟨h1, h2⟩, fun a h1 => hzero a fun h => (hgap a h).2 h1, fun sp a => ?_,
    rfl, rfl, rfl, rfl, rfl, rfl, rfl, rfl, rfl⟩
  · rw [hdie]; fin_cases k <;> rfl
  · rw [hdie]; fin_cases m <;> rfl
  · exact (congrArg (fun w : Word => bitsOf w.toNat 0 8) (hgrant c)).trans (by decide)
  · exact (congrArg (fun w : Word => bitsOf w.toNat 4 11) htime).trans (by decide)
  · exact (congrArg (fun w : Word => bitsOf w.toNat 1 2) (hfec 0)).trans (by decide)
  · exact (congrArg (fun w : Word => bitsOf w.toNat 1 2) (hfec 1)).trans (by decide)
  · rw [Dev.turn, Dev.rd64, hzero _ (by decide), hzero _ (by decide)]; rfl
  · rw [Dev.get, hzero _ (by decide)]; rfl
  · have hmem : d.mem sp = [] := by unfold Dev.mem; split <;> rfl
    rw [Dev.readByte, hmem]; rfl

end Sys2Proof.Machine
end

section
/-! RESET_N, the rails, the references and the dies (O6, O7, O8): R19 to R24, R65, R68, R72, R484, R499, R502, R528, R529. -/

namespace Sys2Proof.Machine

/-! ### A burn cut short, and the pins (R72, R499, R502) -/

theorem cutThen_of_idle (f : Fuses → Dev → Dev) (s : State) (h : s.dev.boot.pendingLc = none) : cutThen f s = s.setDev (f s.fuses s.dev) := by
  have hc : cutBurn s = s := by rw [cutBurn, h]
  rw [cutThen, hc]; rfl

/-- A burn in progress leaves some of its three copies. -/
theorem cutThen_of_burning (f : Fuses → Dev → Dev) (s : State) {x : BitVec 3} (h : s.dev.boot.pendingLc = some x) :
    cutThen f s = { s with
      fuses := burnCopies (s.dev.draw.1.toNat % 4) x s.fuses
      dev := f (burnCopies (s.dev.draw.1.toNat % 4) x s.fuses) s.dev.draw.2 } := by
  have hc : cutBurn s = { s with fuses := burnCopies (s.dev.draw.1.toNat % 4) x s.fuses, dev := s.dev.draw.2 } := by rw [cutBurn, h]
  rw [cutThen, hc]

theorem resetRelease_off (en : Bool) (f : Fuses) (d : Dev) (h : d.power = .off) :
    resetRelease en f d = (restart f 0 0 d).set R.MGT_PCIE_CFG_FITTED (b2n en) := by rw [resetRelease, h]

theorem resetRelease_low (en : Bool) (f : Fuses) (d : Dev) {c : Fin 4} (h : d.power = .resetLow c) :
    resetRelease en f d = (restart f 0 c d).set R.MGT_PCIE_CFG_FITTED (b2n en) := by rw [resetRelease, h]

theorem pulseTaken_short (n : Nat) (d : Dev) (h : n < 1000) : pulseTaken n d = (false, d) := by simp [pulseTaken, h]

theorem pulseTaken_long (n : Nat) (d : Dev) (h : 10000 ≤ n) (hp : d.power ≠ .off) : pulseTaken n d = (true, d) := by
  have h1 : ¬ n < 1000 := by omega
  simp [pulseTaken, h, h1, hp]

theorem pulseTaken_free (n : Nat) (d : Dev) (h : 1000 ≤ n) (h' : n < 10000) (hp : d.power ≠ .off) :
    pulseTaken n d = (d.draw.1.getLsbD 0, d.draw.2) := by
  simp [pulseTaken, Nat.not_lt.mpr h, Nat.not_le.mpr h', hp]

/-- A write of GLB_RST_CTL that meets KEY and DEVICE. -/
theorem softReset_taken (w : CsrW) (s : State) (hrun : s.dev.running = true) (hlc : s.dev.boot.pendingLc = none)
    (hk : wBits w R.GLB_RST_CTL_KEY = 0x5A17) (hd : wOn w R.GLB_RST_CTL_DEVICE = true) :
    softReset w s = s.setDev (restart s.fuses 1 0 (countCsr w.req R.GLB_RST_CTL 1 3 s.dev)) := by
  have hb : (discardHeld w.req R.GLB_RST_CTL (countCsr w.req R.GLB_RST_CTL 1 3 s.dev)).boot.pendingLc = none := by
    show (countCsr w.req R.GLB_RST_CTL 1 3 s.dev).boot.pendingLc = none
    rw [(countCsr_quiet w.req R.GLB_RST_CTL 1 3 s.dev).boot, hlc]
  simp only [softReset, hrun, hk, hd, Bool.not_true, Bool.false_eq_true, if_false, beq_self_eq_true, Bool.and_self, if_true]
  exact cutThen_of_idle _ { s with dev := discardHeld w.req R.GLB_RST_CTL (countCsr w.req R.GLB_RST_CTL 1 3 s.dev) } hb

theorem softReset_wrongKey (w : CsrW) (s : State) (hrun : s.dev.running = true) (hk : wBits w R.GLB_RST_CTL_KEY ≠ 0x5A17) :
    softReset w s = s.setDev (discardHeld w.req R.GLB_RST_CTL (countCsr w.req R.GLB_RST_CTL 1 3 s.dev)) := by
  simp [softReset, hrun, hk, State.setDev]

/-- Settles O6. -/
theorem resetPins : Obligations.ResetPins := by
  refine ⟨?off, ?low, ?short, ?long, ?free, ?idle, ?burning, ?soft, ?wrongKey⟩
  case off => exact fun s en h => next_setDev s (resetRelease_off en s.fuses s.dev h)
  case low => exact fun s en c h => next_setDev s (resetRelease_low en s.fuses s.dev h)
  case short =>
    intro s n h
    show Host.Outcome.next (resetAssert n s) = _
    rw [resetAssert, pulseTaken_short n s.dev h]; rfl
  case long =>
    intro s n h hp hlc
    show Host.Outcome.next (resetAssert n s) = _
    rw [resetAssert, pulseTaken_long n s.dev h hp]
    exact congrArg _ (cutThen_of_idle holdReset s hlc)
  case free =>
    intro s n h h' hp hlc
    show Host.Outcome.next (resetAssert n s) = _
    rw [resetAssert, pulseTaken_free n s.dev h h' hp, Dev.draw_fst]
    dsimp only
    split
    · exact congrArg _ (cutThen_of_idle holdReset { s with dev := s.dev.draw.2 } hlc)
    · rfl
  case idle => exact fun s h => congrArg _ (cutThen_of_idle powerLoss s h)
  case burning =>
    intro s x h
    refine ⟨_, congrArg Host.Outcome.next (cutThen_of_burning powerLoss s h), rfl, rfl, s.dev.draw.1.toNat % 4, ?_, rfl⟩
    have : s.dev.draw.1.toNat % 4 < 4 := Nat.mod_lt _ (by decide)
    omega
  case soft => exact fun s w hrun hlc hk hd => congrArg _ (softReset_taken w s hrun hlc hk hd)
  case wrongKey => exact fun s w hrun hk => congrArg _ (softReset_wrongKey w s hrun hk)

/-! ### The references (R19 to R21) -/

theorem losField_word (r : Fin 2) : (losField r).addr = R.GLB_REFCLK ∧ (losField r).lo = 8 + r.val ∧ (losField r).w = 1 := by
  fin_cases r <;> exact ⟨rfl, rfl, rfl⟩

/-- A loss bit leaves the other fields of GLB_REFCLK. -/
theorem get_set_losField (r : Fin 2) (v : Nat) (g : Fld) (d : Dev) (hg : g.lo + g.w ≤ 8 + r.val ∨ 9 + r.val ≤ g.lo) :
    (d.set (losField r) v).get g = d.get g := by
  obtain ⟨-, hlo, hw⟩ := losField_word r
  refine Dev.get_set_apart d _ g v (by omega) ?_
  unfold Fld.apart
  omega

theorem on_set_losField_other (r : Fin 2) (v : Nat) (d : Dev) : (d.set (losField r) v).on (losField (1 - r)) = d.on (losField (1 - r)) := by
  rw [Dev.on, Dev.on, get_set_losField r v]
  fin_cases r <;> decide

theorem applied_of_stage {d e : Dev} (hp : e.power = d.power) (hs : e.get R.SEC_BOOT_STATUS_STAGE = d.get R.SEC_BOOT_STATUS_STAGE) :
    e.applied = d.applied := by simp only [Dev.applied, Dev.running, hp, hs]

theorem applied_set_losField (r : Fin 2) (v : Nat) (d : Dev) : (d.set (losField r) v).applied = d.applied :=
  applied_of_stage rfl (Dev.get_set_ne d _ _ v (by rw [(losField_word r).1]; decide))

theorem autoSwitch_set_losField (r : Fin 2) (v : Nat) (d : Dev) : autoSwitch (d.set (losField r) v) = autoSwitch d := by
  rw [autoSwitch, autoSwitch, applied_set_losField, Dev.on, Dev.on, get_set_losField r v]
  exact .inl (by show 1 + 1 ≤ 8 + r.val; omega)

/-- What the loss of a reference does while the monitor runs (R19). -/
theorem refclkLoss_eq (r : Fin 2) (d : Dev) (hrun : d.running = true) (hc : d.boot.clocked = true) :
    refclkLoss r d =
      if d.get R.GLB_REFCLK_ACTIVE ≠ r.val then d.set (losField r) 1
      else if autoSwitch d && !d.on (losField (1 - r)) then
        raiseCE blkGlb 2 (1 - r).val
          (((d.set (losField r) 1).set R.GLB_REFCLK_ACTIVE (1 - r).val).set R.GLB_REFCLK_SWITCHED 1) r.val
      else stop 2 (raiseFatal blkGlb 3 r.val (d.set (losField r) 1) (b2n (d.on (losField (1 - r))))) := by
  have hother : (if r = 0 then 1 else 0 : Fin 2) = 1 - r := by fin_cases r <;> rfl
  have hactive : (d.set (losField r) 1).get R.GLB_REFCLK_ACTIVE = d.get R.GLB_REFCLK_ACTIVE :=
    get_set_losField r 1 _ d (.inl (by show 4 + 1 ≤ 8 + r.val; omega))
  simp only [refclkLoss, hrun, hc, hother, hactive, autoSwitch_set_losField, on_set_losField_other, Bool.not_true, Bool.or_self,
    Bool.false_eq_true, if_false]

/-- Settles O7. -/
theorem references : Obligations.References := by
  refine ⟨?qualified, ?switch, ?stops, ?spare, ?restored⟩
  case qualified =>
    intro s a b hrun hc hab
    show Host.Outcome.next (s.setDev (refclkQualified a b s.dev)) = _
    simp only [refclkQualified, hrun, hc, hab, Bool.not_true, Bool.or_self, Bool.false_eq_true, if_false, if_true]
    rfl
  case switch =>
    intro s r hrun hc hr ha hl
    refine next_setDev s ((refclkLoss_eq r s.dev hrun hc).trans ?_)
    simp only [hr, ne_eq, not_true, if_false, ha, hl, Bool.not_false, Bool.and_self, if_true]
  case stops =>
    intro s r hrun hc hr h
    have hs : (autoSwitch s.dev && !s.dev.on (losField (1 - r))) = false := by rcases h with h | h <;> simp [h]
    refine next_setDev s ((refclkLoss_eq r s.dev hrun hc).trans ?_)
    simp only [hr, ne_eq, not_true, if_false, hs, Bool.false_eq_true]
  case spare =>
    intro s r hrun hc hr
    exact next_setDev s ((refclkLoss_eq r s.dev hrun hc).trans (if_pos hr))
  case restored =>
    intro s r hrun hc
    refine next_setDev s ?_
    show Dev.when (s.dev.running && s.dev.boot.clocked) _ s.dev = _
    rw [hrun, hc]; rfl

/-! ### The dies (R22 to R24) -/

/-- A die that misses its limit (R23, R24). -/
theorem dieReadyTimeout_eq (k : DieNo) (d : Dev) (hrun : d.running = true) (hr : d.boot.released.getLsbD k.val = true)
    (hs : d.dieState k.val = 1) :
    dieReadyTimeout k d = if k = 0 then stop 3 (raiseFatal blkGlb 4 k.val (d.setDie k.val 3)) else raiseFatal blkGlb 4 k.val (d.setDie k.val 3) := by
  simp only [dieReadyTimeout, hrun, hr, hs, beq_self_eq_true, Bool.and_self, if_true]

/-- Settles O8. -/
theorem dies : Obligations.Dies := by
  refine ⟨?ready, ?release, ?timeout, ?control⟩
  case ready =>
    intro s k hrun hr hs
    refine next_setDev s ?_
    simp only [dieReadyCmd, hrun, hr, hs, beq_self_eq_true, Bool.and_self, if_true]
  case release =>
    intro s k hrun hn h0 h1
    have hb : (k == 1 || s.dev.dieReady 1) = true := by rcases h1 with h | h <;> simp [h]
    refine next_setDev s ?_
    simp only [dieRelease, hn, hrun, h0, hb, Bool.and_self, if_true]
  case timeout =>
    intro s k hrun hr hs hk
    exact next_setDev s ((dieReadyTimeout_eq k s.dev hrun hr hs).trans (if_neg hk))
  case control =>
    intro s hrun hr hs
    exact next_setDev s ((dieReadyTimeout_eq 0 s.dev hrun hr hs).trans (if_pos rfl))

end Sys2Proof.Machine
end

section
/-! A sluice queue takes and checks a descriptor (O34): R295 to R299, R309, R529. -/

namespace Sys2Proof.Machine

/-- The outcome of a command that waits for an applied image. -/
theorem onDev_whenApplied (f : Dev → Dev) (s : State) (h : s.dev.applied = true) :
    onDev (Dev.whenApplied f) s = .next (s.setDev (f s.dev)) := by
  rw [onDev_eq, Dev.whenApplied_pos f s.dev h]

theorem sluTake_held (m q : Nat) (d : Dev) (h : mayTake (sluWq m q) d = false) : sluTake m q d = showCr (sluWq m q) d := by
  simp [sluTake, h]

theorem sluTake_failedDie (m q : Nat) (d : Dev) (h : mayTake (sluWq m q) d = true) (hd : d.dieState (m + 10) = 3) :
    sluTake m q d = finishJob (sluWq m q) (sluCnt m) d.eng.nextJob 8 (takeJob (sluWq m q) id d) := by
  simp [sluTake, h, hd]

section
variable {m q : Nat} {d : Dev} {j : Job} (h : mayTake (sluWq m q) d = true) (hd : d.dieState (m + 10) = 2)
  (hs : d.on (R.SLU_WQ_HEAD_STOPPED m q) = false) (hl : dieLoad m d < 32)
  (hj : jobOf (sluWq m q).key d.eng.nextJob (takeJob (sluWq m q) id d) = some j)
include h hd hs hl hj

theorem sluTake_bad {st detail : Nat} (hc : sluCheck m q j (takeJob (sluWq m q) id d) = some (st, detail)) :
    sluTake m q d = finishJob (sluWq m q) (sluCnt m) d.eng.nextJob st
      (modJob (sluWq m q).key d.eng.nextJob (fun j => { j with detail := detail }) (takeJob (sluWq m q) id d)) := by
  have hs' : d.on (sluWq m q).stopped = false := hs
  simp [sluTake, h, hd, hs', Nat.not_le.mpr hl, hj, hc]

variable (hc : sluCheck m q j (takeJob (sluWq m q) id d) = none)
include hc

theorem sluTake_nop (ho : j.op = 0) : sluTake m q d = takeJob (sluWq m q) id d := by
  have hs' : d.on (sluWq m q).stopped = false := hs
  simp [sluTake, h, hd, hs', Nat.not_le.mpr hl, hj, hc, ho]

/-- A descriptor for an engine is split by the engines in service of the queue's pool (R296). -/
theorem sluTake_split (ho : j.op ≠ 0)
    (he : poolSize m ((takeJob (sluWq m q) id d).get (R.SLU_WQ_CFG_POOL m q)) (takeJob (sluWq m q) id d) ≠ 0)
    (ht : 0 < (splitJob (splitOf j.op (takeJob (sluWq m q) id d)) j.m
      (poolSize m ((takeJob (sluWq m q) id d).get (R.SLU_WQ_CFG_POOL m q)) (takeJob (sluWq m q) id d))).2) :
    sluTake m q d = modJob (sluWq m q).key d.eng.nextJob (fun y =>
      let x := splitJob (splitOf j.op (takeJob (sluWq m q) id d)) j.m
        (poolSize m ((takeJob (sluWq m q) id d).get (R.SLU_WQ_CFG_POOL m q)) (takeJob (sluWq m q) id d))
      { y with per := x.1, tiles := x.2 }) (takeJob (sluWq m q) id d) := by
  have hs' : d.on (sluWq m q).stopped = false := hs
  simp [sluTake, h, hd, hs', Nat.not_le.mpr hl, hj, hc, ho, poolE, he, ht.ne']
end

/-- A NOP completes once every earlier descriptor has (R299). -/
theorem sluNop_eq (m q : Nat) (d : Dev) {j : Job} (h : liveJob (sluWq m q).key (fun j => j.op == 0) d = some j) :
    sluNop m q d = if earlierDone (sluWq m q) j.id d then finishJob (sluWq m q) (sluCnt m) j.id 0 d else d := by
  simp only [sluNop, h]

/-- Settles O34. -/
theorem sluiceTake : Obligations.SluiceTake := by
  refine ⟨?held, ?failed, ?taken, ?nop⟩
  case held =>
    intro s q ha h
    exact (onDev_whenApplied _ s ha).trans (next_setDev s (sluTake_held _ _ s.dev h))
  case failed =>
    intro s q ha h hd
    exact (onDev_whenApplied _ s ha).trans (next_setDev s (sluTake_failedDie _ _ s.dev h hd))
  case taken =>
    intro s q j ha h hd hs hl w d hj
    refine ⟨fun st detail hc => ?bad, fun hc ho => ?wait, fun hc ho he => ?split⟩
    case bad => exact (onDev_whenApplied _ s ha).trans (next_setDev s (sluTake_bad h hd hs hl hj hc))
    case wait => exact (onDev_whenApplied _ s ha).trans (next_setDev s (sluTake_nop h hd hs hl hj hc ho))
    case split =>
      intro x ht
      exact (onDev_whenApplied _ s ha).trans (next_setDev s (sluTake_split h hd hs hl hj hc ho he ht))
  case nop =>
    intro s q j ha hj
    have hout := (onDev_whenApplied (sluNop q.die.val q.q.val) s ha).trans (next_setDev s (sluNop_eq q.die.val q.q.val s.dev hj))
    refine ⟨fun h => hout.trans ?_, fun h => hout.trans ?_⟩
    · rw [h]; rfl
    · rw [h]; rfl

end Sys2Proof.Machine
end

section
/-! The frame check sequence (O24): a frame with its FCS appended checks, whatever it holds (R117). -/

namespace Sys2Proof.Machine

/-- One bit of the CRC-32 register, least significant bit first. -/
def crcShift (v : Nat) : Nat := if v % 2 = 1 then Nat.xor (v / 2) 0xEDB88320 else v / 2

/-- One byte's eight bits. -/
def crcByte (v : Nat) : Nat := (List.range 8).foldl (fun v _ => crcShift v) v

theorem crcRun_cons (c : Nat) (b : Byte) (bs : List Byte) : crcRun c (b :: bs) = crcRun (crcByte (c ^^^ b.toNat)) bs := by
  rw [crcRun, List.foldl_cons]; rfl

theorem crcRun_append (c : Nat) (xs ys : List Byte) : crcRun c (xs ++ ys) = crcRun (crcRun c xs) ys := List.foldl_append

/-! ### The register is linear -/

theorem crcShift_xor (a b : Nat) : crcShift (a ^^^ b) = crcShift a ^^^ crcShift b := by
  have hdiv : (a ^^^ b) / 2 = a / 2 ^^^ b / 2 := by simpa using Nat.xor_div_two_pow (a := a) (b := b) (n := 1)
  have hodd : (a ^^^ b) % 2 = (a % 2 + b % 2) % 2 := Nat.xor_mod_two_eq.trans (Nat.add_mod a b 2)
  have hx (x y : Nat) : Nat.xor x y = x ^^^ y := rfl
  rcases Nat.mod_two_eq_zero_or_one a with ha | ha <;> rcases Nat.mod_two_eq_zero_or_one b with hb | hb <;>
    simp only [crcShift, hodd, hdiv, ha, hb, hx, reduceIte, Nat.reduceAdd, Nat.reduceMod, Nat.zero_ne_one]
  · ac_rfl
  · ac_rfl
  · rw [Nat.xor_assoc, ← Nat.xor_assoc 0xEDB88320, Nat.xor_comm 0xEDB88320 (b / 2), Nat.xor_assoc (b / 2), Nat.xor_self, Nat.xor_zero]

theorem crcShift_double (n : Nat) : crcShift (2 * n) = n := by simp [crcShift]

theorem crcByte_eq (v : Nat) : crcByte v = crcShift^[8] v := by
  rw [crcByte, List.foldl_const, List.length_range]

theorem crcByte_xor (a b : Nat) : crcByte (a ^^^ b) = crcByte a ^^^ crcByte b := by
  have h (k a b : Nat) : crcShift^[k] (a ^^^ b) = crcShift^[k] a ^^^ crcShift^[k] b := by
    induction k generalizing a b with
    | zero => rfl
    | succ k ih => simp only [Function.iterate_succ_apply, crcShift_xor, ih]
  simp only [crcByte_eq]
  exact h 8 a b

/-- A register whose low byte is clear moves down by a byte. -/
theorem crcByte_mul_256 (n : Nat) : crcByte (256 * n) = n := by
  have h (k m : Nat) : crcShift^[k] (2 ^ k * m) = m := by
    induction k generalizing m with
    | zero => simp
    | succ k ih => rw [Function.iterate_succ_apply, pow_succ', mul_assoc, crcShift_double, ih]
  rw [crcByte_eq]
  exact h 8 n

theorem crcShift_lt {v : Nat} (h : v < 2 ^ 32) : crcShift v < 2 ^ 32 := by
  unfold crcShift
  split
  · exact Nat.xor_lt_two_pow (by omega) (by decide)
  · omega

theorem crcByte_lt {v : Nat} (h : v < 2 ^ 32) : crcByte v < 2 ^ 32 := by
  have hk (k v : Nat) (h : v < 2 ^ 32) : crcShift^[k] v < 2 ^ 32 := by
    induction k generalizing v with
    | zero => exact h
    | succ k ih => exact ih _ (crcShift_lt h)
  rw [crcByte_eq]
  exact hk 8 v h

theorem crcRun_lt (bs : List Byte) {c : Nat} (h : c < 2 ^ 32) : crcRun c bs < 2 ^ 32 := by
  induction bs generalizing c with
  | nil => exact h
  | cons b t ih =>
    rw [crcRun_cons]
    exact ih (crcByte_lt (Nat.xor_lt_two_pow h (b.isLt.trans (by decide))))

/-! ### The four bytes of the FCS -/

/-- A byte of the inverted register shifts the register's own byte out and leaves a constant behind it. -/
theorem crcByte_inverted (n k : Nat) : crcByte ((n ^^^ k) ^^^ (255 ^^^ n % 256)) = n / 256 ^^^ crcByte (k ^^^ 255) := by
  have hn : n ^^^ n % 256 = 256 * (n / 256) := by
    refine Nat.eq_of_testBit_eq fun i => ?_
    have h256 : (256 : Nat) = 2 ^ 8 := rfl
    rw [Nat.testBit_xor, h256, Nat.testBit_mod_two_pow, Nat.testBit_two_pow_mul, Nat.testBit_div_two_pow]
    by_cases hi : 8 ≤ i
    · have hi' : ¬ i < 8 := by omega
      have : 8 + (i - 8) = i := by omega
      simp [hi, hi', this, Nat.add_comm]
    · have hi' : i < 8 := by omega
      simp [hi, hi']
  have hsplit : (n ^^^ k) ^^^ (255 ^^^ n % 256) = 256 * (n / 256) ^^^ (k ^^^ 255) := by
    rw [← hn]
    ac_rfl
  rw [hsplit, crcByte_xor, crcByte_mul_256]

/-- Byte i of the inverted register. -/
theorem inverted_byte (c i : Nat) (hi : i < 4) : (BitVec.ofNat 8 ((0xFFFFFFFF ^^^ c) / 256 ^ i)).toNat = 255 ^^^ c / 256 ^ i % 256 := by
  have hp : (256 : Nat) ^ i = 2 ^ (8 * i) := (pow_mul 2 8 i).symm
  have h8 : (256 : Nat) = 2 ^ 8 := rfl
  rw [BitVec.toNat_ofNat, hp, Nat.xor_div_two_pow, h8]
  rw [Nat.xor_mod_two_pow]
  congr 1
  interval_cases i <;> rfl

theorem crcRun_fcs (c : Nat) (hc : c < 2 ^ 32) : crcRun c (leBytes 4 (0xFFFFFFFF ^^^ c)) = crcGood := by
  have hb : leBytes 4 (0xFFFFFFFF ^^^ c) = [0, 1, 2, 3].map (fun i => BitVec.ofNat 8 ((0xFFFFFFFF ^^^ c) / 256 ^ i)) := rfl
  have hstep (i k : Nat) (hi : i < 4) (t : List Byte) :
      crcRun (c / 256 ^ i ^^^ k) (BitVec.ofNat 8 ((0xFFFFFFFF ^^^ c) / 256 ^ i) :: t) = crcRun (c / 256 ^ (i + 1) ^^^ crcByte (k ^^^ 255)) t := by
    rw [crcRun_cons, inverted_byte c i hi, crcByte_inverted, Nat.div_div_eq_div_mul, ← pow_succ]
  have hend : c / 256 ^ 4 = 0 := Nat.div_eq_of_lt hc
  have hstart : c = c / 256 ^ 0 ^^^ 0 := by simp
  rw [hb]
  simp only [List.map]
  nth_rewrite 1 [hstart]
  rw [hstep 0 0 (by decide), hstep 1 _ (by decide), hstep 2 _ (by decide), hstep 3 _ (by decide), hend]
  decide

/-- A frame with its FCS leaves the register at the value of a right one. -/
theorem crcRun_withFcs (bs : List Byte) : crcRun crcStart (withFcs bs) = crcGood := by
  rw [withFcs, crcRun_append]
  exact crcRun_fcs _ (crcRun_lt bs (by decide))

end Sys2Proof.Machine
end

section
/-! What the layout of the ports is read from (R34 to R38): the lane groups' configuration, the part and the dies. Events, counters and writes of
other registers leave it. -/

namespace Sys2Proof.Machine

/-- The registers that lay out the ports read the same. -/
structure Dev.SameLayout (d e : Dev) : Prop where
  group : ∀ x, e.rd (R.PORT_LGRP_CFG x) = d.rd (R.PORT_LGRP_CFG x)
  ident : e.rd R.GLB_IDENT = d.rd R.GLB_IDENT
  dies : e.rd R.GLB_DIE_STATUS = d.rd R.GLB_DIE_STATUS

/-- The event registers lie in the first KiB after 1 KiB. -/
theorem not_isEvtReg_of_lt {a : Nat} (h : R.GLB_EVT_CNT < a) : ¬ isEvtReg a := by
  rintro (rfl | rfl)
  · exact absurd h (by decide)
  · exact absurd h (by decide)

theorem lgrpCfg_ge (x : Nat) : 0x10001000 ≤ R.PORT_LGRP_CFG x := by unfold R.PORT_LGRP_CFG; omega

theorem Dev.SameLayout.refl (d : Dev) : d.SameLayout d := ⟨fun _ => rfl, rfl, rfl⟩

theorem Dev.SameLayout.trans {d e f : Dev} (h : d.SameLayout e) (g : e.SameLayout f) : d.SameLayout f :=
  ⟨fun x => (g.group x).trans (h.group x), g.ident.trans h.ident, g.dies.trans h.dies⟩

theorem Dev.SameLayout.of_csr {d e : Dev} (h : e.csr = d.csr) : d.SameLayout e :=
  ⟨fun _ => Dev.rd_congr h _, Dev.rd_congr h _, Dev.rd_congr h _⟩

theorem Dev.Quiet.sameLayout {d e : Dev} (h : d.Quiet e) : d.SameLayout e where
  group x := h.rd _ (not_isEvtReg_of_lt (lt_of_lt_of_le (by decide) (lgrpCfg_ge x)))
  ident := h.rd _ (by unfold isEvtReg; decide)
  dies := h.rd _ (by unfold isEvtReg; decide)

theorem Dev.Writes.sameLayout {a : Nat} {d e : Dev} (h : Dev.Writes a d e) (hg : ∀ x, R.PORT_LGRP_CFG x ≠ a) (hi : R.GLB_IDENT ≠ a)
    (hd : R.GLB_DIE_STATUS ≠ a) : d.SameLayout e where
  group x := h.rd _ (hg x) (not_isEvtReg_of_lt (lt_of_lt_of_le (by decide) (lgrpCfg_ge x)))
  ident := h.rd _ hi (by unfold isEvtReg; decide)
  dies := h.rd _ hd (by unfold isEvtReg; decide)

theorem Dev.SameLayout.wr {d : Dev} {a : Nat} {w : Word} (hg : ∀ x, R.PORT_LGRP_CFG x ≠ a) (hi : R.GLB_IDENT ≠ a)
    (hd : R.GLB_DIE_STATUS ≠ a) : d.SameLayout (d.wr a w) :=
  ⟨fun x => Dev.rd_wr_ne d a _ w (hg x), Dev.rd_wr_ne d a _ w hi, Dev.rd_wr_ne d a _ w hd⟩

section
variable {d e : Dev} (h : d.SameLayout e)
include h

theorem Dev.SameLayout.get_role (x : Nat) : e.get (R.PORT_LGRP_CFG_ROLE x) = d.get (R.PORT_LGRP_CFG_ROLE x) :=
  congrArg (fun w : Word => bitsOf w.toNat 0 3) (h.group x)
theorem Dev.SameLayout.get_rate (x : Nat) : e.get (R.PORT_LGRP_CFG_RATE x) = d.get (R.PORT_LGRP_CFG_RATE x) :=
  congrArg (fun w : Word => bitsOf w.toNat 4 2) (h.group x)
theorem Dev.SameLayout.startBits (x : Nat) : e.startBits x = d.startBits x := congrArg (fun w : Word => bitsOf w.toNat 16 16) (h.group x)
theorem Dev.SameLayout.get_part : e.get R.GLB_IDENT_PART = d.get R.GLB_IDENT_PART := congrArg (fun w : Word => bitsOf w.toNat 0 8) h.ident
theorem Dev.SameLayout.dieState (k : Nat) : e.dieState k = d.dieState k := congrArg (fun w : Word => bitsOf w.toNat (2 * k) 2) h.dies
theorem Dev.SameLayout.role (p : Nat) : e.role p = d.role p := h.get_role _
theorem Dev.SameLayout.rate (p : Nat) : e.rate p = d.rate p := h.get_rate _
theorem Dev.SameLayout.width (p : Nat) : e.width p = d.width p := by simp only [Dev.width, h.startBits]
theorem Dev.SameLayout.lanesOf (p : Nat) : e.lanesOf p = d.lanesOf p := by simp only [Dev.lanesOf, h.width]
theorem Dev.SameLayout.isOfp (p : Nat) : e.isOfp p = d.isOfp p := by simp only [Dev.isOfp, h.role]
theorem Dev.SameLayout.isEth (p : Nat) : e.isEth p = d.isEth p := by simp only [Dev.isEth, h.role]
theorem Dev.SameLayout.isHaul (p : Nat) : e.isHaul p = d.isHaul p := by simp only [Dev.isHaul, h.role]
theorem Dev.SameLayout.isJoin (p : Nat) : e.isJoin p = d.isJoin p := by simp only [Dev.isJoin, h.role]
theorem Dev.SameLayout.dieReady (k : Nat) : e.dieReady k = d.dieReady k := by simp only [Dev.dieReady, h.dieState]
theorem Dev.SameLayout.haulRoom : e.haulRoom = d.haulRoom := by rw [Dev.haulRoom, Dev.haulRoom, h.get_part]
theorem Dev.SameLayout.haulFits (x : Nat) : e.haulFits x = d.haulFits x := by simp only [Dev.haulFits, h.haulRoom, h.get_role]
theorem Dev.SameLayout.groupValid (x : Nat) : e.groupValid x = d.groupValid x := by
  simp only [Dev.groupValid, h.haulFits, h.startBits, h.get_role, h.get_rate]
theorem Dev.SameLayout.isPort (p : Nat) : e.isPort p = d.isPort p := by
  simp only [Dev.isPort, h.role, h.groupValid, h.width, h.dieReady]
end

end Sys2Proof.Machine
end

section
/-! Packets arrive, are dropped or queued, and enter a pipeline (O24): R41, R42, R112, R114, R116, R131, R174, R191, R192, R529, R530. -/

namespace Sys2Proof.Machine

/-! ### Arrival (R112, R131, R192) -/

theorem packetArrival_near (p : Nat) (f : RxFrame) (d : Dev) (h : d.nearLoop p = true) : packetArrival p f d = d := if_pos h

theorem packetArrival_far (p : Nat) (f : RxFrame) (d : Dev) (hn : d.nearLoop p = false) (hf : d.farLoop p = true) (hp : d.isPort p = true)
    (he : f.early = false) : packetArrival p f d = turnBack p f.bytes d := by
  simp [packetArrival, arrive, hn, hf, hp, he]

theorem turnBack_frame (p : Nat) (bs : List Byte) (d : Dev) (h : d.isOfp p = false) :
    turnBack p bs d = d.emit (.packet (Fin.ofNat 1024 p) bs false) := by simp [turnBack, h]

theorem packetArrival_down (p : Nat) (f : RxFrame) (d : Dev) (hf : d.farLoop p = false) (hu : d.isUp p = false) : packetArrival p f d = d := by
  simp [packetArrival, arrive, hf, hu]

/-- The counters of a packet that arrives, and its time stamp. -/
def arrivalCounted (p : Nat) (f : RxFrame) (d : Dev) : Dev :=
  ptpSeen p 0 f.bytes (countPort p 4 (countPort p 0 d (rxSize (rxPkt d p f.bytes).ofp (rxPkt d p f.bytes).bytes)))

/-- The credits that a packet used on its VC, where it used any. -/
def takeGrant (p : Nat) (c : BitVec 4 × Nat) (d : Dev) : Dev :=
  if c.2 = 0 then d
  else d.modLink p (fun l => { l with granted := (List.range 16).map (fun k => l.granted.getD k 0 - (if k = c.1.toNat then c.2 else 0)) })

theorem takeGrant_rx (p : Nat) (c : BitVec 4 × Nat) (d : Dev) : ((takeGrant p c d).link p).rx = (d.link p).rx := by
  unfold takeGrant; split
  · rfl
  · rw [Dev.modLink_eq, Dev.link_setLink_same]

theorem takeGrant_link_ne (p q : Nat) (c : BitVec 4 × Nat) (d : Dev) (h : q ≠ p) : (takeGrant p c d).link q = d.link q := by
  unfold takeGrant; split
  · rfl
  · rw [Dev.modLink_eq, Dev.link_setLink_ne _ _ _ _ h]

theorem takeGrant_get (p : Nat) (c : BitVec 4 × Nat) (d : Dev) (f : Fld) : (takeGrant p c d).get f = d.get f := by
  unfold takeGrant; split <;> rfl

/-- The credits of an OFP packet follow from its header and the port's role. -/
theorem rxCredits_of_ofp {d e : Dev} (h : d.SameLayout e) (p : Nat) (bs : List Byte) (ho : rxOfp d p bs = true) :
    rxCredits e p bs = rxCredits d p bs := by
  have ho' : rxOfp e p bs = true := by rw [← ho]; simp only [rxOfp, h.isJoin, h.isOfp]
  simp only [rxCredits, rxBody, ho, ho', h.isJoin, h.isOfp, if_true]

theorem isEth_of_role {d : Dev} {p n : Nat} (h : d.role p = n) (hn : n ≠ 2) : d.isEth p = false := by simp [Dev.isEth, h, hn]

theorem arrivalCounted_quiet (p : Nat) (f : RxFrame) (d : Dev) (h : d.isEth p = false) : d.Quiet (arrivalCounted p f d) := by
  have q := (countPort_quiet p 0 d (rxSize (rxPkt d p f.bytes).ofp (rxPkt d p f.bytes).bytes)).trans (countPort_quiet p 4 _ 1)
  have he := (q.sameLayout.isEth p).trans h
  rw [arrivalCounted, ptpSeen, he]
  exact q

/-- A packet with its credit and with room, on an up OFP port without a loopback, joins the receive buffer. -/
theorem packetArrival_joins (p : Nat) (f : RxFrame) (d : Dev) (hp : d.isPort p = true) (hu : d.isUp p = true) (hr : d.role p = 1)
    (he : f.early = false) (hn : d.nearLoop p = false) (hf : d.farLoop p = false) (hl4 : inL4 d p = false)
    (hc : consumedInPort d p f.bytes = false) (ho : rxOfp d p f.bytes = true)
    (hg : (rxCredits d p f.bytes).2 ≤ (d.link p).granted.getD (rxCredits d p f.bytes).1.toNat 0)
    (hroom : rxUse (d.link p) + f.bytes.length ≤ 16384) :
    packetArrival p f d = (takeGrant p (rxCredits d p f.bytes) (arrivalCounted p f d)).modLink p (fun l => { l with rx := l.rx ++ [f] }) := by
  have heth : d.isEth p = false := isEth_of_role hr (by decide)
  have hhaul : d.isHaul p = false := by simp [Dev.isHaul, hr]
  have q := arrivalCounted_quiet p f d heth
  have hx : (rxPkt d p f.bytes).ofp = true := ho
  have hsize : sizeBad (arrivalCounted p f d) p f = false := by simp [sizeBad, (q.sameLayout.isEth p).trans heth]
  have hlink : (arrivalCounted p f d).link p = d.link p := q.link p
  have hdepth : (arrivalCounted p f d).get (R.TEST_PORT_LOOP_DEPTH p) = d.get (R.TEST_PORT_LOOP_DEPTH p) :=
    q.get _ (not_isEvtReg_of_lt (lt_of_lt_of_le (by decide) (Nat.le_add_right 0x60000000 (4 * p))))
  have hl4' (c : BitVec 4 × Nat) : inL4 (takeGrant p c (arrivalCounted p f d)) p = false := by
    rw [inL4, takeGrant_get, hdepth]; exact hl4
  have hroom' (c : BitVec 4 × Nat) : ¬ 16384 < rxUse ((takeGrant p c (arrivalCounted p f d)).link p) + f.bytes.length := by
    rw [rxUse, takeGrant_rx, hlink]; exact Nat.not_lt.mpr hroom
  have htag : (!(rxPkt d p f.bytes).ofp && macControl (rxPkt d p f.bytes).bytes 0x0001) = false := by rw [hx]; rfl
  have hcred : rxCredits (arrivalCounted p f d) p f.bytes = rxCredits d p f.bytes := rxCredits_of_ofp q.sameLayout p f.bytes ho
  have hgrant : ¬ ((arrivalCounted p f d).link p).granted.getD (rxCredits (arrivalCounted p f d) p f.bytes).1.toNat 0 <
      (rxCredits (arrivalCounted p f d) p f.bytes).2 := by rw [hlink, hcred]; exact Nat.not_lt.mpr hg
  rw [packetArrival, hn, if_neg Bool.false_ne_true, arrive, hf, Bool.and_false, if_neg Bool.false_ne_true, hp, hu, hhaul, hc, if_neg (by decide)]
  extract_lets x d1 c d2
  have hd2 : d2 = takeGrant p (rxCredits (arrivalCounted p f d) p f.bytes) (arrivalCounted p f d) := rfl
  have hd1 : d1 = arrivalCounted p f d := rfl
  have hcr : c = rxCredits (arrivalCounted p f d) p f.bytes := rfl
  clear_value d2 c d1
  subst hd2 hcr hd1
  rw [he, Bool.false_and, if_neg Bool.false_ne_true, htag, if_neg Bool.false_ne_true, hsize, if_neg Bool.false_ne_true, if_neg hgrant,
    hl4', if_neg Bool.false_ne_true, if_neg (hroom' _), hcred]

/-! ### The pipeline (R41, R42, R191, R529) -/

theorem pipelineTake_head (p : Nat) (d : Dev) (f : RxFrame) (rest : List RxFrame) (hs : d.dieState (p / 128 + 2) ≠ 3)
    (h : (d.link p).rx = f :: rest) :
    pipelineTake p d = (takePacket p (pipeOf d p) f false (d.modLink p (fun l => { l with rx := rest, taken := l.taken + 1 }))).2 := by
  rw [pipelineTake, if_neg hs, h]

theorem pipelineTake_idle (p : Nat) (d : Dev) (h : d.dieState (p / 128 + 2) = 3 ∨ (d.link p).rx = []) : pipelineTake p d = d := by
  unfold pipelineTake
  split
  · rfl
  · rw [h.resolve_left ‹_›]

/-- A packet whose join tag fails is dropped and its credits go back (R42). -/
theorem takePacket_tagBad (p pipe : Nat) (f : RxFrame) (haul : Bool) (d : Dev) (hj : d.isJoin p = true) (ht : tagBad d f.bytes = true) :
    takePacket p pipe f haul d = (none, dropArrived (rxPkt d p f.bytes) (rxCredits d p f.bytes).1 (rxCredits d p f.bytes).2 4 3
      { d with
        cist := { d.cist with nextId := d.cist.nextId + 1 }
        spray := { d.spray with pipeCnt := SMap.put d.spray.pipeCnt pipe ((SMap.getD d.spray.pipeCnt pipe 0 + 1) % 2 ^ 32) } }) := by
  have hbad : (d.isJoin p && tagBad d f.bytes) = true := by rw [hj, ht]; rfl
  exact if_pos hbad

/-! ### Tails (R117, R174) -/

theorem tailArrival_unknown (id : Nat) (x : List Byte) (d : Dev) (hl : d.links = []) (h : findPkt id d = none) : tailArrival id x d = d := by
  simp [tailArrival, hl, h]

theorem tailArrival_stored (id : Nat) (x : List Byte) (d : Dev) (k : Where) (p : Pkt) (hl : d.links = []) (h : findPkt id d = some (k, p))
    (he : p.ether = false) : tailArrival id x d = storedTail k p x true d := by
  simp [tailArrival, hl, h, he, fcsRight]

theorem tailArrival_sent (p : Pkt) (k : Nat) (i : PortNo) (front x : List Byte) (l : Link) (d : Dev) (hl : d.links = [(k, l)])
    (ht : l.tx = some (p, front)) (he : p.ether = true) (hi : p.inPort = some i) :
    tailArrival p.id x d = sentTail k p front x (crcRun p.crc x == crcGood) (countPort i.val 0 d x.length) := by
  simp [tailArrival, hl, ht, he, hi, fcsRight]

/-! ### What the engines and software offer (R530) -/

theorem admitStatus_none (d : Dev) (h : d.basin.status = []) : admitStatus d = d := by rw [admitStatus, h]

theorem admitAck_none (d : Dev) (h : d.cist.fenceAcks = []) : admitAck d = d := by rw [admitAck, h]

theorem builtAdmit_nil (d : Dev) (h : d.cist.built = []) : builtAdmit d = admitAck (admitStatus d) := by rw [builtAdmit, h]; rfl

theorem builtAdmit_one (d : Dev) (b : Built) (h : d.cist.built = [b]) : builtAdmit d = admitAck (admitStatus (admitEngine b.engine d)) := by
  rw [builtAdmit, h]; rfl

/-- A built packet has left its engine's output. -/
def builtLeaves (b : Built) (d : Dev) : Dev := { d with cist := { d.cist with built := d.cist.built.erase b } }

/-- The head of an engine's output is offered to the headgate, and waits or leaves. -/
theorem admitEngine_one (d : Dev) (b : Built) (h : d.cist.built = [b]) (h3 : b.engine ≠ 3) (h6 : b.engine ≠ 6) :
    admitEngine b.engine d = if (offerBuilt b.pkt b.route d).1 then builtLeaves b (offerBuilt b.pkt b.route d).2 else d := by
  have hf : d.cist.built.find? (fun x => x.engine == b.engine) = some b := by simp [h]
  rw [admitEngine, hf]
  dsimp only
  rw [if_neg h6, if_neg h3]
  cases (offerBuilt b.pkt b.route d).1 <;> rfl

theorem admitStatus_waits (d : Dev) (p : Pkt) (rest : List Pkt) (h : d.basin.status = p :: rest)
    (ho : (offerBuilt p none { d with basin := { d.basin with status := rest } }).1 = false) : admitStatus d = d := by
  rw [admitStatus, h]
  dsimp only
  rw [ho, if_neg Bool.false_ne_true]

theorem softwareSend_waits (d : Dev) (bs : List Byte) (h : d.cist.built.any (fun b => b.engine == 7) = true) : softwareSend bs d = d := if_pos h

theorem softwareSend_joins (d : Dev) (bs : List Byte) (h : d.cist.built.any (fun b => b.engine == 7) = false) :
    (softwareSend bs d).cist.built = d.cist.built ++ [⟨7, none,
      builtPkt d.cist.nextId d.turn bs ((SMap.get? d.jobs.vis.map (ofpHdr bs).job).bind (fun m => m.1))⟩] := by
  rw [softwareSend, if_neg (by rw [h]; decide)]; rfl

/-! ### The header checks (R114, R116) -/

theorem ofpBad_iff (bs : List Byte) : ofpBad bs = true ↔ (hcrcOk bs = false ∨ (ofpHdr bs).ver ≠ 1 ∨ 10 < (ofpHdr bs).type ∨
    8192 < (ofpHdr bs).len ∨ (ofpHdr bs).hops = 15 ∨ (((ofpHdr bs).type = 1 ∨ (ofpHdr bs).type = 10) ∧ 4 < (ofpHdr bs).level)) := by
  simp only [ofpBad, Bool.or_eq_true, Bool.and_eq_true, Bool.not_eq_true', bne_iff_ne, beq_iff_eq, decide_eq_true_eq, or_assoc]

/-- Settles O24. -/
theorem packets : Obligations.Packets := by
  refine ⟨?near, ?far, ?down, ?joins, ?take, ?idle, ?tag, ?unknown, ?stored, ?sent, ?none, ?built, ?status, ?software,
    softwareSend_waits, ?send, ofpBad_iff, crcRun_withFcs⟩
  case near =>
    intro s p f ha hn
    exact (onDev_whenApplied _ s ha).trans (next_setDev s (packetArrival_near p.val f s.dev hn))
  case far =>
    intro s p f ha hn hf hp he
    exact ⟨(onDev_whenApplied _ s ha).trans (next_setDev s (packetArrival_far p.val f s.dev hn hf hp he)), turnBack_frame p.val f.bytes s.dev⟩
  case down =>
    intro s p f ha hf hu
    exact (onDev_whenApplied _ s ha).trans (next_setDev s (packetArrival_down p.val f s.dev hf hu))
  case joins =>
    intro s p f ha hp hu hr he hn hf hl4 hc ho hg hroom
    have q := arrivalCounted_quiet p.val f s.dev (isEth_of_role hr (by decide))
    refine ⟨_, (onDev_whenApplied _ s ha).trans (next_setDev s
      (packetArrival_joins p.val f s.dev hp hu hr he hn hf hl4 hc ho hg hroom)), ?_, fun k hk => ?_⟩
    · rw [State.setDev_dev, Dev.modLink_eq, Dev.link_setLink_same, takeGrant_rx, q.link]
    · rw [State.setDev_dev, Dev.modLink_eq, Dev.link_setLink_ne _ _ _ _ hk, takeGrant_link_ne _ _ _ _ hk, q.link]
  case take =>
    intro s p f rest ha hs h
    exact (onDev_whenApplied _ s ha).trans (next_setDev s (pipelineTake_head p.val s.dev f rest hs h))
  case idle =>
    intro s p h
    have hd : Dev.whenApplied (pipelineTake p.val) s.dev = s.dev := by
      rw [Dev.whenApplied, Dev.when, pipelineTake_idle p.val s.dev h, ite_self]
    exact next_setDev s hd
  case tag => exact fun d p pipe f haul hj ht => takePacket_tagBad p.val pipe f haul d hj ht
  case unknown =>
    intro s id x ha hl h
    exact (onDev_whenApplied _ s ha).trans (next_setDev s (tailArrival_unknown id x s.dev hl h))
  case stored =>
    intro s id x k p ha hl h he
    exact (onDev_whenApplied _ s ha).trans (next_setDev s (tailArrival_stored id x s.dev k p hl h he))
  case sent =>
    intro s p k i front x l ha hl ht he hi
    exact (onDev_whenApplied _ s ha).trans (next_setDev s (tailArrival_sent p k.val i front x l s.dev hl ht he hi))
  case none =>
    intro s ha hb hs hf
    refine (onDev_whenApplied _ s ha).trans (next_setDev s ?_)
    exact (builtAdmit_nil s.dev hb).trans (by rw [admitStatus_none s.dev hs, admitAck_none s.dev hf])
  case built =>
    intro s b ha hb hs hf h3 h6
    have hone := (builtAdmit_one s.dev b hb).trans (by rw [admitEngine_one s.dev b hb h3 h6])
    refine ⟨fun ho => ?_, fun ho hs' hf' => ?_⟩ <;> refine (onDev_whenApplied _ s ha).trans (next_setDev s (hone.trans ?_))
    · rw [ho, if_neg Bool.false_ne_true, admitStatus_none s.dev hs, admitAck_none s.dev hf]
    · rw [ho, if_pos rfl, admitStatus_none (builtLeaves b _) hs', admitAck_none (builtLeaves b _) hf']
      rfl
  case status =>
    intro s p rest ha hb hf hs ho
    refine (onDev_whenApplied _ s ha).trans (next_setDev s ?_)
    exact (builtAdmit_nil s.dev hb).trans (by rw [admitStatus_waits s.dev p rest hs ho, admitAck_none s.dev hf])
  case software => exact fun s bs ha => onDev_whenApplied _ s ha
  case send => exact fun d bs h => ⟨_, softwareSend_joins d bs h, rfl, rfl, rfl, rfl⟩

end Sys2Proof.Machine
end

section
/-! What the work of one part of the device leaves in the registers of the others: what goes out on a link changes no register, and an operation
keeps the registers below the block it writes. -/

namespace Sys2Proof.Machine

/-! ### Operations that write no register -/

/-- What every step of a loop keeps, the loop keeps. -/
theorem Dev.each_kept {α β : Type} (g : Dev → β) (l : List α) (f : α → Dev → Dev) (h : ∀ x d, g (f x d) = g d) (d : Dev) :
    g (Dev.each l f d) = g d := by
  induction l generalizing d with
  | nil => rfl
  | cons x t ih => exact (ih (f x d)).trans (h x d)

theorem Dev.each_csr {α : Type} (l : List α) (f : α → Dev → Dev) (h : ∀ x d, (f x d).csr = d.csr) (d : Dev) : (Dev.each l f d).csr = d.csr :=
  Dev.each_kept Dev.csr l f h d

theorem sendPfc_csr (p tc n : Nat) (d : Dev) : (sendPfc p tc n d).csr = d.csr :=
  Dev.each_csr (pfcPriorities d p tc) (fun k d => d.emit (.pfc (Fin.ofNat 1024 p) (Fin.ofNat 8 k) (BitVec.ofNat 16 n))) (fun _ _ => rfl) d

theorem xoffUpdate_csr (p tc : Nat) (d : Dev) : (xoffUpdate p tc d).csr = d.csr := by
  unfold xoffUpdate; dsimp only
  split
  · rfl
  · split
    · split
      · exact sendPfc_csr _ _ _ _
      · rfl
    · split
      · exact sendPfc_csr _ _ _ _
      · rfl

theorem gxUpdate_csr (d : Dev) : (gxUpdate d).csr = d.csr := by
  unfold gxUpdate; dsimp only
  split
  · rfl
  · exact Dev.each_csr _ _ (fun p => Dev.each_csr _ _ (fun tc => xoffUpdate_csr p tc)) _

theorem sendPair_csr (p : Nat) (bs : List Byte) (d : Dev) : (sendPair p bs d).csr = d.csr := by
  unfold sendPair; dsimp only
  split <;> rfl

theorem sequencePair_csr (p : Nat) (vc : BitVec 4) (n : BitVec 10) (fl : List Byte) (ps : List Pkt) (d : Dev) :
    (sequencePair p vc n fl ps d).csr = d.csr := sendPair_csr _ _ _

theorem sendDue_csr (p : Nat) (d : Dev) : (sendDue p d).csr = d.csr := Dev.each_csr _ _ (fun _ => sequencePair_csr _ _ _ _ _) _

theorem returnCredits_csr (p : Nat) (vc : BitVec 4) (n : Nat) (d : Dev) : (returnCredits p vc n d).csr = d.csr := by
  unfold returnCredits
  split
  · rfl
  · exact sendDue_csr _ _

theorem leaveIngress_csr (x : Pkt) (n : Nat) (d : Dev) : (leaveIngress x n d).2.csr = d.csr := by
  have hroom (c : Cistern) : (if x.headroom then { d with cist := c } else d).csr = d.csr := by split <;> rfl
  cases hi : x.inPort with
  | none =>
    simp only [leaveIngress, hi]
    exact hroom _
  | some i =>
    simp only [leaveIngress, hi]
    split
    · cases x.creditsDue with
      | none => exact (xoffUpdate_csr _ _ _).trans (hroom _)
      | some c => exact (returnCredits_csr _ _ _ _).trans ((xoffUpdate_csr _ _ _).trans (hroom _))
    · exact (xoffUpdate_csr _ _ _).trans (hroom _)

/-! ### Registers below a block -/

/-- The registers below an address, but for those of the events, read the same. -/
structure Dev.KeepsBelow (L : Nat) (d e : Dev) : Prop where
  rd : ∀ a, a < L → ¬ isEvtReg a → e.rd a = d.rd a

namespace Dev.KeepsBelow

theorem refl (L : Nat) (d : Dev) : KeepsBelow L d d := ⟨fun _ _ _ => rfl⟩

section
variable {L : Nat} {d e f : Dev} (h : KeepsBelow L d e)
include h

theorem trans (g : KeepsBelow L e f) : KeepsBelow L d f := ⟨fun a ha hn => (g.rd a ha hn).trans (h.rd a ha hn)⟩

theorem mono {M : Nat} (hLM : M ≤ L) : KeepsBelow M d e := ⟨fun a ha hn => h.rd a (lt_of_lt_of_le ha hLM) hn⟩

theorem csr (hc : f.csr = e.csr) : KeepsBelow L d f := ⟨fun a ha hn => (Dev.rd_congr hc a).trans (h.rd a ha hn)⟩

theorem quiet (hq : e.Quiet f) : KeepsBelow L d f := ⟨fun a ha hn => (hq.rd a hn).trans (h.rd a ha hn)⟩

theorem wr (a : Nat) (w : Word) (ha : L ≤ a) : KeepsBelow L d (e.wr a w) :=
  ⟨fun b hb hn => (Dev.rd_wr_ne e a b w (by omega)).trans (h.rd b hb hn)⟩

theorem set (g : Fld) (v : Nat) (hg : L ≤ g.addr) : KeepsBelow L d (e.set g v) := h.wr _ _ hg

theorem get (g : Fld) (hg : g.addr < L) (hn : ¬ isEvtReg g.addr) : e.get g = d.get g := by
  rw [Dev.get, Dev.get, h.rd g.addr hg hn]

theorem on (g : Fld) (hg : g.addr < L) (hn : ¬ isEvtReg g.addr) : e.on g = d.on g := by
  rw [Dev.on, Dev.on, h.get g hg hn]
end

theorem each {L : Nat} {α : Type} (l : List α) (f : α → Dev → Dev) (h : ∀ x d, KeepsBelow L d (f x d)) (d : Dev) :
    KeepsBelow L d (Dev.each l f d) := by
  induction l generalizing d with
  | nil => exact refl L d
  | cons x t ih => exact (h x d).trans (ih (f x d))

end Dev.KeepsBelow

/-! ### What a port that goes down leaves: the registers of dies, boot, management, traffic and ports -/

/-- Where the registers of the cistern, the spray unit and the haul block begin. -/
abbrev belowCistern : Nat := 0x20000000

theorem cuse_ge (n : Nat) : belowCistern ≤ R.CIST_CUSE n := by unfold R.CIST_CUSE belowCistern; omega
theorem puse_ge (n : Nat) : belowCistern ≤ R.CIST_PUSE n := by unfold R.CIST_PUSE belowCistern; omega
theorem juse_ge (n : Nat) : belowCistern ≤ R.CIST_JUSE n := by unfold R.CIST_JUSE belowCistern; omega
theorem sprayCnt_ge (n : Nat) : belowCistern ≤ R.SPRAY_CNT n := by unfold R.SPRAY_CNT belowCistern; omega
theorem linkStat_ge (k : Nat) : belowCistern ≤ R.HAUL_LINK_STAT k := by unfold R.HAUL_LINK_STAT belowCistern; omega
theorem lcnt_ge (k r : Nat) : belowCistern ≤ R.HAUL_LCNT k r := by unfold R.HAUL_LCNT belowCistern; omega
theorem srtt0_ge (k : Nat) : belowCistern ≤ R.HAUL_LINK_SRTT0 k := by unfold R.HAUL_LINK_SRTT0 belowCistern; omega
theorem srtt1_ge (k : Nat) : belowCistern ≤ R.HAUL_LINK_SRTT1 k := by unfold R.HAUL_LINK_SRTT1 belowCistern; omega
theorem rto_ge (k : Nat) : belowCistern ≤ R.HAUL_LINK_RTO k := by unfold R.HAUL_LINK_RTO belowCistern; omega

theorem upFld_addr (k : Nat) (r : Fin 2) : (upFld k r).addr = R.HAUL_LINK_STAT k := by
  unfold upFld
  split <;> rfl

theorem subUse_keeps (x : Pkt) (n : Nat) (d : Dev) : Dev.KeepsBelow belowCistern d (subUse x n d) := by
  have hclass : Dev.KeepsBelow belowCistern d (d.drop (R.CIST_CUSE_CELLS x.tc.val) n) := (Dev.KeepsBelow.refl _ d).set _ _ (cuse_ge _)
  have hport (e : Dev) : Dev.KeepsBelow belowCistern e (match x.acct with | some a => e.drop (R.CIST_PUSE_CELLS a.val) n | none => e) := by
    cases x.acct with
    | none => exact .refl _ e
    | some a => exact (Dev.KeepsBelow.refl _ e).set _ _ (puse_ge _)
  have hjob (e : Dev) : Dev.KeepsBelow belowCistern e (match x.job with | some j => e.drop (R.CIST_JUSE_CELLS j.val) n | none => e) := by
    cases x.job with
    | none => exact .refl _ e
    | some j => exact (Dev.KeepsBelow.refl _ e).set _ _ (juse_ge _)
  exact (hclass.trans (hport _)).trans (hjob _)

theorem discharge_keeps (x : Pkt) (d : Dev) : Dev.KeepsBelow belowCistern d (discharge x d) :=
  (subUse_keeps x x.cells d).csr (leaveIngress_csr _ _ _)

theorem freeCells_keeps (n : Nat) (hd : Bool) (d : Dev) : Dev.KeepsBelow belowCistern d (freeCells n hd d) := by
  unfold freeCells showFree
  refine Dev.KeepsBelow.set ?_ _ _ (by decide)
  exact (Dev.KeepsBelow.refl _ d).csr rfl

theorem pathLost_keeps (x : Pkt) (d : Dev) : Dev.KeepsBelow belowCistern d (pathLost x d) := by
  unfold pathLost; dsimp only
  split
  · exact .refl _ _
  · split
    · exact ((Dev.KeepsBelow.refl _ d).set _ _ (sprayCnt_ge 6)).quiet (raiseCE_quiet _ _ _ _ _ _)
    · refine Dev.KeepsBelow.set ?_ _ _ (sprayCnt_ge 4)
      exact (Dev.KeepsBelow.refl _ d).csr rfl

theorem discardRetry_keeps (p : Nat) (d : Dev) : Dev.KeepsBelow belowCistern d (discardRetry p d) := by
  have hfree (x : Pkt) (d : Dev) : Dev.KeepsBelow belowCistern d (gxUpdate (freeCells x.cells x.headroom (discharge x d))) :=
    ((discharge_keeps x d).trans (freeCells_keeps _ _ _)).csr (gxUpdate_csr _)
  have hlost (x : Pkt) (d : Dev) : Dev.KeepsBelow belowCistern d (pathLost x (countEvent ⟨3, 1, x.inLabel, some x.dst, 9, 0⟩ d)) :=
    ((Dev.KeepsBelow.refl _ d).quiet (countEvent_quiet _ d)).trans (pathLost_keeps x _)
  unfold discardRetry
  extract_lets l held e1 e2
  have h2 : Dev.KeepsBelow belowCistern d e2 := (Dev.KeepsBelow.each held _ hfree d).csr rfl
  exact h2.trans (.each _ _ hlost e2)

/-! #### Routes of the haul block -/

section
variable {d e : Dev} (h : Dev.KeepsBelow belowCistern d e)
include h

theorem showRtt_keeps (k : Nat) : Dev.KeepsBelow belowCistern d (showRtt k e) := by
  have h := (h.set (R.HAUL_LINK_SRTT0_SRTT k) (units8 (srttOf e k 0)) (srtt0_ge k)).set (R.HAUL_LINK_SRTT1_SRTT k)
    (units8 (srttOf (e.set (R.HAUL_LINK_SRTT0_SRTT k) (units8 (srttOf e k 0))) k 1)) (srtt1_ge k)
  unfold showRtt; dsimp only
  split
  · exact h.set _ _ (rto_ge k)
  · exact h

theorem setState_keeps (k v : Nat) : Dev.KeepsBelow belowCistern d (setState k v e) := by
  have h := h.set (R.HAUL_LINK_STAT_STATE k) v (linkStat_ge k)
  unfold setState; dsimp only
  refine showRtt_keeps ?_ k
  split
  · exact h.csr rfl
  · exact h

theorem failover_keeps (k : Nat) (r : Fin 2) : Dev.KeepsBelow belowCistern d (failover k r e) := by
  unfold failover
  extract_lets dest e1 e2
  have h1 : Dev.KeepsBelow belowCistern d e1 := h.csr rfl
  have h2 : Dev.KeepsBelow belowCistern d e2 := h1.set _ _ (linkStat_ge k)
  split
  · exact ((setState_keeps h2 _ _).set _ _ (linkStat_ge k)).quiet (raiseCE_quiet _ _ _ _ _ _)
  · exact (setState_keeps h2 _ _).quiet (raiseCE_quiet _ _ _ _ _ _)

theorem finalise_keeps (k : Nat) (r : Fin 2) : Dev.KeepsBelow belowCistern d (finalise k r e) := by
  unfold finalise
  split
  · exact h
  · extract_lets top lost e1 mark
    have h1 : Dev.KeepsBelow belowCistern d e1 := by
      unfold e1
      split
      · exact h.set _ _ (lcnt_ge k 5)
      · exact h
    exact h1.csr rfl

theorem updateRoute_keeps (k : Nat) (r : Fin 2) (cause : Nat) : Dev.KeepsBelow belowCistern d (updateRoute k r cause e) := by
  unfold updateRoute
  extract_lets was now e1 e2 e3
  have h1 : Dev.KeepsBelow belowCistern d e1 := h.set _ _ ((upFld_addr k r).symm ▸ linkStat_ge k)
  split
  · exact h
  · split
    · have h2 : Dev.KeepsBelow belowCistern d e2 := h1.csr rfl
      split
      · exact setState_keeps h2 _ _
      · exact h2
    · have h3 : Dev.KeepsBelow belowCistern d e3 := (finalise_keeps (h1.set _ _ (linkStat_ge k)) k r).csr rfl
      split
      · exact failover_keeps h3 _ _
      · exact h3

theorem haulPortChange_keeps (p cause : Nat) : Dev.KeepsBelow belowCistern d (haulPortChange p cause e) :=
  h.trans (.each (routesOn e p) (fun x => updateRoute x.1 x.2 cause) (fun x d => updateRoute_keeps (.refl _ d) x.1 x.2 cause) e)
end

/-! #### Going down, training, steering -/

/-- Where the ports' registers begin. -/
abbrev belowPorts : Nat := 0x10000000

theorem pstat_ge (p : Nat) : belowPorts ≤ R.PORT_PSTAT p := by unfold R.PORT_PSTAT belowPorts; omega
theorem laneShift_ge (x : Nat) : belowPorts ≤ R.PORT_LANE_SHIFT x := by unfold R.PORT_LANE_SHIFT belowPorts; omega

/-- What a port that goes down does after its UP has cleared. -/
theorem linkDown_keeps (p : Nat) (d : Dev) :
    Dev.KeepsBelow belowCistern ((d.set (R.PORT_PSTAT_UP p) 0).set (R.PORT_PSTAT_DOWNEVT p) 1) (linkDown p d) := by
  unfold linkDown
  extract_lets e1 e2 haul e3
  have h1 : Dev.KeepsBelow belowCistern e1 (loseInput p e1) := (Dev.KeepsBelow.refl _ e1).csr rfl
  have h3 : Dev.KeepsBelow belowCistern e1 e3 := (h1.trans (discardRetry_keeps p _)).csr rfl
  exact haulPortChange_keeps h3 p 1

theorem takeDown_keeps (p : Nat) (d : Dev) : Dev.KeepsBelow belowPorts d (takeDown p d) := by
  unfold takeDown
  split
  · exact (((Dev.KeepsBelow.refl _ d).set _ _ (pstat_ge p)).set _ _ (pstat_ge p)).trans ((linkDown_keeps p d).mono (by decide))
  · exact .refl _ d

/-- A port that has gone down is not up (R106). -/
theorem takeDown_isUp (p : PortNo) (d : Dev) : (takeDown p.val d).isUp p.val = false := by
  have hp := p.isLt
  have hlt : R.PORT_PSTAT p.val < belowCistern := by unfold R.PORT_PSTAT belowCistern; omega
  have hn : ¬ isEvtReg (R.PORT_PSTAT p.val) := not_isEvtReg_of_lt (lt_of_lt_of_le (by decide) (pstat_ge p.val))
  unfold takeDown
  split
  · have hup : ((d.set (R.PORT_PSTAT_UP p.val) 0).set (R.PORT_PSTAT_DOWNEVT p.val) 1).get (R.PORT_PSTAT_UP p.val) = 0 :=
      (Dev.get_set_apart _ _ _ _ (by show 5 + 1 ≤ 32; decide) (Or.inr (by show 4 + 1 ≤ 5; decide))).trans
        (Dev.get_set_same _ _ _ (by show 4 + 1 ≤ 32; decide))
    rw [Dev.isUp, Dev.on, (linkDown_keeps p.val d).get (R.PORT_PSTAT_UP p.val) hlt hn, hup]
    rfl
  · next h => exact eq_false_of_ne_true h

theorem showStage_keeps (p v : Nat) {d e : Dev} (h : Dev.KeepsBelow belowPorts d e) : Dev.KeepsBelow belowPorts d (showStage p v e) :=
  (h.csr (f := e.modLink p (fun l => { l with stage := v })) rfl).set _ _ (pstat_ge p)

theorem latchPeer_csr (p : Nat) (d : Dev) : (latchPeer p d).csr = d.csr := rfl

theorem hostSettings_csr (p : Nat) (d : Dev) : (hostSettings p d).csr = d.csr := by
  unfold hostSettings
  split <;> rfl

theorem startTraining_keeps (p : Nat) (d : Dev) : Dev.KeepsBelow belowPorts d (startTraining p d) := by
  unfold startTraining
  split
  · extract_lets e1 e2
    have h1 : Dev.KeepsBelow belowPorts d e1 :=
      (((Dev.KeepsBelow.refl _ d).set _ _ (pstat_ge p)).set _ _ (pstat_ge p)).set _ _ (pstat_ge p)
    have hb : Dev.KeepsBelow belowPorts d (e1.bump (R.PORT_PSTAT_RETRAINS p)) := h1.set _ _ (pstat_ge p)
    have h2 : Dev.KeepsBelow belowPorts d e2 := (hb.csr (latchPeer_csr p _)).csr (hostSettings_csr p _)
    exact showStage_keeps p 1 (h2.csr (f := e2.modLink p _) rfl)
  · exact showStage_keeps p _ (.refl _ d)

theorem retrain_keeps (p : Nat) (d : Dev) : Dev.KeepsBelow belowPorts d (retrain p d) := (takeDown_keeps p d).trans (startTraining_keeps p _)

theorem holdLanes_keeps (ls : List Nat) (d : Dev) : Dev.KeepsBelow belowPorts d (holdLanes ls d) := by
  refine .each ls _ (fun l d => ?_) d
  extract_lets _ e
  have he : Dev.KeepsBelow belowPorts d e :=
    ((Dev.KeepsBelow.refl _ d).csr (f := { d with ras := { d.ras with heldLanes := d.ras.heldLanes ++ [l] } }) rfl).quiet (raiseFatal_quiet _ _ _ _ _ _)
  split
  · exact he.trans (retrain_keeps _ e)
  · exact he

theorem moveLanes_keeps (x old new : Nat) (d : Dev) : Dev.KeepsBelow belowPorts d (moveLanes x old new d) := .each _ _ retrain_keeps d

theorem autoSteer_keeps (x : Nat) (d : Dev) : Dev.KeepsBelow belowPorts d (autoSteer x d) := by
  unfold autoSteer
  split
  · split
    · exact .refl _ d
    · exact holdLanes_keeps _ d
  · extract_lets r old new held fresh _ _ e
    have he : Dev.KeepsBelow belowPorts d e := ((Dev.KeepsBelow.refl _ d).wr _ (BitVec.ofNat 32 new) (laneShift_ge x)).csr rfl
    exact (he.trans (holdLanes_keeps fresh e)).trans (moveLanes_keeps x old new _)

theorem startLanes_keeps (d : Dev) : Dev.KeepsBelow belowPorts d (startLanes d) := by
  have hport (p : Nat) (d : Dev) : Dev.KeepsBelow belowPorts d
      (let up := d.on (R.PORT_PCTL_ADMIN p)
       let d := d.modLink p (fun l => { l with downSince := some 0, flushed := !up })
       if up && stageOf d p == 0 then startTraining p d else d) := by
    extract_lets up e
    have he : Dev.KeepsBelow belowPorts d e := (Dev.KeepsBelow.refl _ d).csr rfl
    split
    · exact he.trans (startTraining_keeps p e)
    · exact he
  exact Dev.KeepsBelow.trans (.each _ _ autoSteer_keeps d) (.each d.ports _ hport _)

end Sys2Proof.Machine
end

section
/-! Loopback, ADMIN, lane steering and PFC (O22): R27 to R30, R127, R131 to R133, R171, R485. -/

namespace Sys2Proof.Machine

/-! ### A field of a register after its command's write -/

theorem bitsOf_mod_two_pow (n lo w W : Nat) (h : lo + w ≤ W) : bitsOf (n % 2 ^ W) lo w = bitsOf n lo w := by
  refine Nat.eq_of_testBit_eq fun i => ?_
  rw [bitsOf_testBit, bitsOf_testBit, Nat.testBit_mod_two_pow]
  by_cases hi : i < w
  · have : lo + i < W := by omega
    simp [hi, this]
  · simp [hi]

/-- An RW field that a write reaches reads back what was written (R11). -/
theorem writeOwn_get_rw (fs : List FieldDef) (a : Nat) (w : CsrW) (d : Dev) (f : FieldDef) (ha : ¬ isEvtReg a) (hle : ∀ g ∈ d.liveFields fs, g.lo ≤ g.hi)
    (hp : (d.liveFields fs).Pairwise FieldDef.apart) (hf : f ∈ d.liveFields fs) (hacc : f.acc = .rw) (hw : f.lo + f.width ≤ 32) :
    (writeOwn fs a w d).get ⟨a, f.lo, f.width⟩ = wBits w ⟨a, f.lo, f.width⟩ := by
  rw [Dev.get, writeOwn_rd_same fs a w d ha, BitVec.toNat_ofNat, bitsOf_mod_two_pow _ _ _ _ hw, writeFields_bits _ _ _ _ hle hp f hf,
    FieldDef.written, hacc]
  rfl

/-! ### TEST_PORT_LOOP (R131) -/

theorem portLoop_quiet (p : Nat) : ¬ isEvtReg (R.TEST_PORT_LOOP p) :=
  not_isEvtReg_of_lt (lt_of_lt_of_le (by decide) (Nat.le_add_right 0x60000000 (4 * p)))

theorem writeOwn_depth (p : Nat) (w : CsrW) (d : Dev) :
    (writeOwn RF.TEST_PORT_LOOP (R.TEST_PORT_LOOP p) w d).get (R.TEST_PORT_LOOP_DEPTH p) = wBits w (R.TEST_PORT_LOOP_DEPTH p) := by
  have hl : d.liveFields RF.TEST_PORT_LOOP = RF.TEST_PORT_LOOP := by unfold Dev.liveFields; split <;> rfl
  refine writeOwn_get_rw RF.TEST_PORT_LOOP _ w d ⟨3, 0, .rw, .val 0⟩ (portLoop_quiet p) ?_ ?_ ?_ rfl (by decide)
  all_goals rw [hl]
  · decide
  · unfold FieldDef.apart; decide
  · exact List.mem_cons_self

/-- Markers that go out leave every register. -/
theorem sendMarkers_csr (p n : Nat) (r : Bool) (d : Dev) : (sendMarkers p n r d).csr = d.csr := by
  unfold sendMarkers
  split
  · rfl
  · exact Dev.each_csr (List.range (d.width p)) (fun k => sendMarker p k n r) (fun _ _ => rfl) d

theorem showStage_get_state (p v : Nat) (d : Dev) (h : d.get (R.TEST_PORT_LOOP_DEPTH p) ≠ 0) :
    (showStage p v d).get (R.PORT_PSTAT_STATE p) = 9 := by
  have hd : (d.modLink p (fun l => { l with stage := v })).get (R.TEST_PORT_LOOP_DEPTH p) ≠ 0 := h
  rw [showStage, if_neg h]
  exact Dev.get_set_same _ _ _ (by show 0 + 4 ≤ 32; decide)

theorem showStage_rd_ne (p v a : Nat) (d : Dev) (h : a ≠ R.PORT_PSTAT p) : (showStage p v d).rd a = d.rd a := Dev.rd_set_ne _ _ _ _ h

theorem showStage_get_ne (p v : Nat) (d : Dev) (f : Fld) (h : f.addr ≠ R.PORT_PSTAT p) : (showStage p v d).get f = d.get f :=
  congrArg (fun x : Word => bitsOf x.toNat f.lo f.w) (showStage_rd_ne p v f.addr d h)

theorem showStage_link (p v : Nat) (d : Dev) : (showStage p v d).link p = { d.link p with stage := v } := by
  rw [showStage, Dev.link_set, Dev.modLink_eq, Dev.link_setLink_same]

theorem portLoop_ne_pstat (p : PortNo) : R.TEST_PORT_LOOP p.val ≠ R.PORT_PSTAT p.val := by
  have := p.isLt
  unfold R.TEST_PORT_LOOP R.PORT_PSTAT
  omega

/-- A change of the loopback that is taken. -/
theorem loopbackSet_taken (p : Nat) (w : CsrW) (d : Dev) (h : d.get (R.PORT_PCTL_ADMIN p) = 0) :
    ∃ e : Dev, loopbackSet p w d = showStage p (stageOf e p) (e.modLink p (fun l => { l with loop := [], looped := [] })) ∧
      e.get (R.TEST_PORT_LOOP_DEPTH p) = wBits w (R.TEST_PORT_LOOP_DEPTH p) := by
  have ha : d.on (R.PORT_PCTL_ADMIN p) = false := by rw [Dev.on, h]; rfl
  have hw := writeOwn_depth p w d
  rw [loopbackSet, ha, Bool.false_and, if_neg Bool.false_ne_true]
  refine ⟨_, rfl, ?_⟩
  split
  · exact hw
  · split
    · exact hw
    · exact (Dev.get_congr (sendMarkers_csr _ _ _ _) _).trans hw

theorem loopbackSet_refused (p : Nat) (w : CsrW) (d : Dev) (h : d.get (R.PORT_PCTL_ADMIN p) = 1)
    (hne : wBits w (R.TEST_PORT_LOOP_DEPTH p) ≠ d.get (R.TEST_PORT_LOOP_DEPTH p)) :
    loopbackSet p w d = refuseCsr (R.TEST_PORT_LOOP p) w d := by
  simp [loopbackSet, Dev.on, h, hne]

/-! ### PORT_PCTL (R133, R204) -/

theorem portPctl_quiet (p : Nat) : ¬ isEvtReg (R.PORT_PCTL p) :=
  not_isEvtReg_of_lt (by show 0x418 < _; unfold R.PORT_PCTL; omega)

/-- A bit of PORT_PCTL that a write reaches, once the image is applied. -/
theorem writeOwn_pctl (p : Nat) (w : CsrW) (d : Dev) (ha : d.applied = true) (f : FieldDef) (hf : f ∈ RF.PORT_PCTL) (hacc : f.acc = .rw) :
    (writeOwn RF.PORT_PCTL (R.PORT_PCTL p) w d).get ⟨R.PORT_PCTL p, f.lo, f.width⟩ = wBits w ⟨R.PORT_PCTL p, f.lo, f.width⟩ := by
  have hl : d.liveFields RF.PORT_PCTL = RF.PORT_PCTL := if_pos ha
  have hw : ∀ f ∈ RF.PORT_PCTL, f.lo + f.width ≤ 32 := by decide
  refine writeOwn_get_rw RF.PORT_PCTL _ w d f (portPctl_quiet p) ?_ ?_ ?_ hacc (hw f hf)
  all_goals rw [hl]
  · decide
  · unfold FieldDef.apart; decide
  · exact hf

section
variable (p : PortNo) (w : CsrW) (d : Dev)

/-- PORT_PCTL as its own command writes it. -/
def pctlWritten : Dev := writeOwn RF.PORT_PCTL (R.PORT_PCTL p.val) w d

theorem pctlWritten_writes : Dev.Writes (R.PORT_PCTL p.val) d (pctlWritten p w d) := writeOwn_writes _ _ w d

theorem pctlWritten_isPort : (pctlWritten p w d).isPort p.val = d.isPort p.val := by
  refine ((pctlWritten_writes p w d).sameLayout (fun x => ?_) ?_ ?_).isPort p.val
  · unfold R.PORT_LGRP_CFG R.PORT_PCTL; omega
  · unfold R.GLB_IDENT R.PORT_PCTL; omega
  · unfold R.GLB_DIE_STATUS R.PORT_PCTL; omega

theorem pctlWritten_applied : (pctlWritten p w d).applied = d.applied := by
  have h := pctlWritten_writes p w d
  refine applied_of_stage h.power (h.get _ ?_ (by unfold isEvtReg; decide))
  show R.SEC_BOOT_STATUS ≠ R.PORT_PCTL p.val
  unfold R.SEC_BOOT_STATUS R.PORT_PCTL; omega

variable {d} (ha : d.applied = true)
include ha

theorem pctlWritten_admin : (pctlWritten p w d).on (R.PORT_PCTL_ADMIN p.val) = wOn w (R.PORT_PCTL_ADMIN p.val) :=
  congrArg (· == 1) (writeOwn_pctl p.val w d ha ⟨0, 0, .rw, .image⟩ (by decide) rfl)

theorem pctlWritten_tsen : (pctlWritten p w d).on (R.PORT_PCTL_TSEN p.val) = wOn w (R.PORT_PCTL_TSEN p.val) :=
  congrArg (· == 1) (writeOwn_pctl p.val w d ha ⟨6, 6, .rw, .image⟩ (by decide) rfl)

/-- What a write of PORT_PCTL with TSEN 1 does once the image is applied. -/
theorem portAdminWrite_eq (hp : d.isPort p.val = true) (ht : wOn w (R.PORT_PCTL_TSEN p.val) = true) :
    portAdminWrite p w d = match d.on (R.PORT_PCTL_ADMIN p.val), wOn w (R.PORT_PCTL_ADMIN p.val) with
      | false, true => startTraining p.val (pctlWritten p w d)
      | true, false => flushPort p (sendMarkers p.val 1 false ((showStage p.val 0 (takeDown p.val (pctlWritten p w d))).modLink p.val
          (fun l => { l with holdFault := 5 })))
      | _, _ => pctlWritten p w d := by
  rw [portAdminWrite, ← pctlWritten, pctlWritten_applied, pctlWritten_isPort, ha, hp]
  dsimp only
  rw [if_neg (by decide), pctlWritten_tsen p w ha, ht, if_pos rfl, pctlWritten_admin p w ha] <;> rfl
end

/-! ### Lane steering (R27 to R29, R485) -/

theorem laneShiftWrite_refused (x : Nat) (w : CsrW) (d : Dev) (h : shiftBad d x w.val.toNat = true) :
    laneShiftWrite x w d = refuseCsr (R.PORT_LANE_SHIFT x) w d := if_pos h

theorem laneShiftWrite_taken (x : Nat) (w : CsrW) (d : Dev) (h : shiftBad d x w.val.toNat = false) :
    laneShiftWrite x w d =
      (let e := writeOwn RF.PORT_LANE_SHIFT (R.PORT_LANE_SHIFT x) w d
       moveLanes x (d.rd (R.PORT_LANE_SHIFT x)).toNat w.val.toNat { e with ras := { e.ras with
        heldLanes := e.ras.heldLanes.filter (fun l => l / 16 != x || posFailed e x (l % 16 + shiftOf w.val.toNat (l % 16))) } }) :=
  if_neg (by rw [h]; decide)

/-- A shift that does not change moves nothing. -/
theorem moveLanes_self (x v : Nat) (d : Dev) : moveLanes x v v d = d := by simp [moveLanes, Dev.each]

theorem lanePositionFail_new (l : Nat) (d : Dev) (hf : d.portDieFitted (l / 144) = true)
    (hp : posFailed d (8 * (l / 144) + l % 144 / 18) (l % 18) = false) :
    lanePositionFail l d =
      (let x := 8 * (l / 144) + l % 144 / 18
       let e := raiseCE blkTest 2 l (d.wr (R.TEST_LANE_FAIL x) (d.rd (R.TEST_LANE_FAIL x) ||| BitVec.ofNat 32 (2 ^ (l % 18))))
       if e.applied then autoSteer x e else e) := by
  simp [lanePositionFail, hf, hp]

theorem autoSteer_manual (x : Nat) (d : Dev) (h : d.on R.TEST_SPARE_CFG_LANEAUTO = false) (hc : failedCount d x < 3) : autoSteer x d = d := by
  simp [autoSteer, h, hc]

theorem mayTrain_unserved (d : Dev) (p l : Nat) (hl : l ∈ d.lanesOf p) (hu : unserved d l = true) : mayTrain d p = false := by
  have h : (d.lanesOf p).any (unserved d) = true := List.any_eq_true.mpr ⟨l, hl, hu⟩
  simp [mayTrain, h]

/-! ### PFC (R127, R171) -/

theorem pfcFrameReceive_other (p : Nat) (bs : List Byte) (d : Dev) (h : macControl bs 0x0101 = false) : pfcFrameReceive p bs d = d := by
  simp [pfcFrameReceive, h]

theorem pfcFrameReceive_far (p : Nat) (bs : List Byte) (d : Dev) (h : macControl bs 0x0101 = true) (hp : d.isPort p = true)
    (hf : d.farLoop p = true) : pfcFrameReceive p bs d = d.emit (.packet (Fin.ofNat 1024 p) bs false) := by
  simp [pfcFrameReceive, h, hp, hf]

section
variable (p : Nat) (bs : List Byte) (d : Dev) (h : macControl bs 0x0101 = true) (hf : d.farLoop p = false) (hn : d.nearLoop p = false)
  (he : d.isEth p = true) (hu : d.isUp p = true)
include h hf hn he hu

theorem pfcFrameReceive_badFcs (hc : crcRun crcStart bs ≠ crcGood) : pfcFrameReceive p bs d = countPort p 10 d := by
  simp [pfcFrameReceive, h, hf, hn, he, hu, hc]

/-- A right frame is counted; the priorities it names are paused or resumed where they are enabled. -/
theorem pfcFrameReceive_good (hc : crcRun crcStart bs = crcGood) {pri : TC} {q : Nat} (ht : pfcTimes bs = [(pri, q)]) :
    pfcFrameReceive p bs d = if pfcEnabled d p pri.val then setPaused p pri (q != 0) (countPort p 13 d) else countPort p 13 d := by
  have hq := countPort_quiet p 13 d 1
  have hpfc : (countPort p 13 d).on (R.PORT_PCTL_PFC p) = d.on (R.PORT_PCTL_PFC p) := hq.on _ (portPctl_quiet p)
  have hmask : (countPort p 13 d).get (R.PORT_PFC_CFG_PRIMASK 0) = d.get (R.PORT_PFC_CFG_PRIMASK 0) := hq.get _ (by unfold isEvtReg; decide)
  have hen : pfcEnabled (countPort p 13 d) p pri.val = pfcEnabled d p pri.val := by
    simp only [pfcEnabled, hq.sameLayout.isEth, hpfc, hmask]
  rw [← hen]
  simp [pfcFrameReceive, h, hf, hn, he, hu, hc, ht, Dev.each]
end

theorem pfcRefresh_held (p : Nat) (tc : TC) (d : Dev) (hx : (d.link p).xoffOf tc.val = true) (hu : d.isUp p = true) :
    pfcRefresh p tc d = sendPfc p tc.val (d.get (R.PORT_PFC_CFG_QUANTA 0)) d := by simp [pfcRefresh, hx, hu]

theorem pfcRefresh_resumed (p : Nat) (tc : TC) (d : Dev) (hx : (d.link p).xoffOf tc.val = false) : pfcRefresh p tc d = d := by simp [pfcRefresh, hx]

/-- The outcome of a write of a command's own register on a fitted unit. -/
theorem onDev_onUnit (fitted : Dev → Bool) (a : Nat) (w : CsrW) (f : Dev → Dev) (s : State) (h : s.dev.running = true)
    (hb : fitted s.dev = true) : onDev (Dev.whenRunning (fun d => onUnit (fitted d) a w f d)) s = .next (s.setDev (f s.dev)) := by
  rw [onDev_whenRunning _ s h, onUnit_pos _ _ _ _ _ hb]

/-- Settles O22. -/
theorem portControls : Obligations.PortControls := by
  refine ⟨?loopback, ?admin, ?shift, moveLanes_self, ?position, autoSteer_manual, mayTrain_unserved, ?laneFail, ?pfc, ?expiry, ?refresh⟩
  case loopback =>
    intro s p w hrun hfit
    have hout := onDev_onUnit (fun d => d.portDieFitted (p.val / 128)) (R.TEST_PORT_LOOP p.val) w (loopbackSet p.val w) s hrun hfit
    refine ⟨fun ha => ⟨_, hout, ?_⟩, fun ha hne => hout.trans (next_setDev s (loopbackSet_refused p.val w s.dev ha hne))⟩
    obtain ⟨e, he, hdepth⟩ := loopbackSet_taken p.val w s.dev ha
    rw [State.setDev_dev, he, showStage_link, Dev.modLink_eq, Dev.link_setLink_same]
    refine ⟨?_, rfl, rfl, fun hne => showStage_get_state _ _ _ ?_⟩
    · exact (showStage_get_ne _ _ _ (R.TEST_PORT_LOOP_DEPTH p.val) (portLoop_ne_pstat p)).trans hdepth
    · rw [Dev.get_setLink, hdepth]; exact hne
  case admin =>
    intro s p w ha hfit hp ht
    have hout := (onDev_onUnit (fun d => d.portDieFitted (p.val / 128)) (R.PORT_PCTL p.val) w (portAdminWrite p w) s
      (Dev.applied_running s.dev ha) hfit).trans (next_setDev s (portAdminWrite_eq p w ha hp ht))
    refine ⟨fun hwas hnow => hout.trans ?_, fun hsame => hout.trans ?_, fun hwas hnow => hout.trans ?_⟩
    · rw [hwas, hnow]; rfl
    · rw [hsame]; cases wOn w (R.PORT_PCTL_ADMIN p.val) <;> rfl
    · rw [hwas, hnow]; rfl
  case shift =>
    intro s x w ha hfit
    have hout := onDev_onUnit (fun d => d.portDieFitted (x.val / 8)) (R.PORT_LANE_SHIFT x.val) w (laneShiftWrite x.val w) s
      (Dev.applied_running s.dev ha) hfit
    exact ⟨fun h => hout.trans (next_setDev s (laneShiftWrite_refused x.val w s.dev h)),
      fun h => hout.trans (next_setDev s (laneShiftWrite_taken x.val w s.dev h))⟩
  case position =>
    intro s l hrun hfit hp
    exact (onDev_whenRunning _ s hrun).trans (next_setDev s (lanePositionFail_new l.val s.dev hfit hp))
  case laneFail =>
    intro s x w hrun hfit
    exact onDev_onUnit (fun d => d.portDieFitted (x.val / 8)) (R.TEST_LANE_FAIL x.val) w (laneFailWrite x.val w) s hrun hfit
  case pfc =>
    intro s p bs ha
    have hout {d : Dev} (h : pfcFrameReceive p.val bs s.dev = d) : exec (.pfcFrameReceive p bs) s = .next (s.setDev d) :=
      (onDev_whenApplied _ s ha).trans (next_setDev s h)
    refine ⟨fun h => hout (pfcFrameReceive_other p.val bs s.dev h), fun h hp hf => hout (pfcFrameReceive_far p.val bs s.dev h hp hf),
      fun h hf hn he hu => ⟨fun hc => hout (pfcFrameReceive_badFcs p.val bs s.dev h hf hn he hu hc), fun hc pri q ht => ?_⟩⟩
    have hgood := pfcFrameReceive_good p.val bs s.dev h hf hn he hu hc ht
    refine ⟨fun hen => hout (hgood.trans ?_), fun hen hq => hout (hgood.trans ?_), fun hen hq => hout (hgood.trans ?_)⟩
    · rw [hen, if_neg Bool.false_ne_true]
    · rw [hen, if_pos rfl, setPaused, bne_iff_ne.mpr hq]; rfl
    · rw [hen, if_pos rfl, hq]; rfl
  case expiry => exact fun s p pri ha => onDev_whenApplied _ s ha
  case refresh =>
    intro s p tc ha hu
    refine ⟨fun hx => (onDev_whenApplied _ s ha).trans (next_setDev s ((pfcRefresh_held p.val tc s.dev hx hu).trans ?_)),
      fun hx => (onDev_whenApplied _ s ha).trans (next_setDev s (pfcRefresh_resumed p.val tc s.dev hx))⟩
    have hport : Fin.ofNat 1024 p.val = p := Fin.ext (Nat.mod_eq_of_lt p.isLt)
    rw [sendPfc, hport]

end Sys2Proof.Machine
end

section
/-! The image applied, a kernel loaded, a die-to-die interface that fails (O18): R53, R54, R58, R312, R490, R529. -/

namespace Sys2Proof.Machine

/-! ### IMAGE_APPLY (R53, R54, R58) -/

theorem pcieTrain_rd_ne (d : Dev) {a : Nat} (h : a ≠ R.MGT_PCIE_STAT) : (pcieTrain d).rd a = d.rd a := by
  have hset (e : Dev) (f : Fld) (v : Nat) (hf : f.addr = R.MGT_PCIE_STAT) : (e.set f v).rd a = e.rd a :=
    Dev.rd_set_ne e f v a (by rw [hf]; exact h)
  unfold pcieTrain
  split
  · rfl
  · extract_lets r widths max_ top v
    split
    · unfold pcieDown
      rw [hset _ _ _ rfl, hset _ _ _ rfl, hset _ _ _ rfl]
      rfl
    · rw [hset _ _ _ rfl, hset _ _ _ rfl, hset _ _ _ rfl]
      rfl

theorem showBasin_keeps (d : Dev) : Dev.KeepsBelow belowCistern d (showBasin d) :=
  ((((Dev.KeepsBelow.refl _ d).set _ _ (by decide)).set _ _ (by decide)).set _ _ (by decide)).set _ _ (by decide) |>.set _ _ (by decide)

/-- What follows STAGE APPLIED leaves STAGE. -/
theorem stage_started (d : Dev) : stage (showBasin (pcieTrain (startLanes d))) = stage d := by
  have hn : ¬ isEvtReg R.SEC_BOOT_STATUS := by unfold isEvtReg; decide
  have hpcie (e : Dev) : stage (pcieTrain e) = stage e := congrArg (fun x : Word => bitsOf x.toNat _ _) (pcieTrain_rd_ne e (by decide))
  calc stage (showBasin (pcieTrain (startLanes d)))
    _ = stage (pcieTrain (startLanes d)) := (showBasin_keeps _).get R.SEC_BOOT_STATUS_STAGE (by decide) hn
    _ = stage (startLanes d) := hpcie _
    _ = stage d := (startLanes_keeps d).get R.SEC_BOOT_STATUS_STAGE (by decide) hn

theorem imageApply_stage (f : Fuses) (fl : Flash) (d : Dev) (hr : d.running = true) (hs : stage d = 3) (hi : d.boot.imageRead = true)
    (hw : wipeComplete d = true) : stage (imageApply f fl d) = 4 := by
  rw [imageApply, hr, hs, hi, hw, if_pos (by decide)]
  exact (stage_started _).trans (stage_setStage _ _ (by decide))

/-! ### KERNEL_LOAD (R312) -/

theorem showKernels_boot (l : List Nat) (kid kver : Nat) (d : Dev) : (Dev.each l (showKernel kid kver) d).boot = d.boot :=
  Dev.each_kept Dev.boot l (showKernel kid kver) (fun _ _ => rfl) d

section
variable (n : Nat) (f : Fuses) (fl : Flash) (d : Dev) {lib : List Byte} {kid : Nat} (hlib : sectBytes fl.image 7 = lib)
  (hkid : beAt lib (kernelOff lib n) 1 = kid) (ha : d.applied = true) (ht : kernelThere lib n = true)
  (hnew : d.boot.kernels.any (fun k => k.1.toNat == kid) = false)
include hlib hkid ha ht hnew

/-- A kernel that is there, of an identifier of its own: refused, or shown in the compute dies and added. -/
theorem kernelLoad_eq : kernelLoad n f fl d =
    if (decide (kid < 0x40) || !kernelOk f lib (kernelOff lib n)) = true then raiseCE blkSec 2 kid d
    else
      let e := Dev.each ((List.range 2).filter (fun m => d.computeFitted m)) (showKernel kid (beAt lib (kernelOff lib n + 1) 1)) d
      { e with boot := { e.boot with kernels := e.boot.kernels ++
        [(BitVec.ofNat 8 kid, beBits lib (kernelOff lib n + 2) 1 1 0, beAt lib (kernelOff lib n + 8) 4)] } } := by
  unfold kernelLoad
  dsimp only
  rw [hlib, hkid, ha, ht, hnew]
  rfl

theorem kernelLoad_refused (h : kid < 0x40 ∨ kernelOk f lib (kernelOff lib n) = false) : kernelLoad n f fl d = raiseCE blkSec 2 kid d := by
  rw [kernelLoad_eq n f fl d hlib hkid ha ht hnew]
  refine if_pos ?_
  rcases h with h | h <;> simp [h]

theorem kernelLoad_added (h : 0x40 ≤ kid) (hok : kernelOk f lib (kernelOff lib n) = true) :
    (kernelLoad n f fl d).boot.kernels = d.boot.kernels ++
      [(BitVec.ofNat 8 kid, beBits lib (kernelOff lib n + 2) 1 1 0, beAt lib (kernelOff lib n + 8) 4)] := by
  have hgood : ¬ (decide (kid < 0x40) || !kernelOk f lib (kernelOff lib n)) = true := by simp [hok, h]
  rw [kernelLoad_eq n f fl d hlib hkid ha ht hnew, if_neg hgood]
  dsimp only
  rw [showKernels_boot]
end

/-! ### D2D_INTERFACE_FAIL (R490, R529) -/

theorem dieState_setDie_same (k v : Nat) (d : Dev) (hk : k < 16) : (d.setDie k v).dieState k = v % 4 :=
  Dev.get_set_same d ⟨R.GLB_DIE_STATUS, 2 * k, 2⟩ v (by show 2 * k + 2 ≤ 32; omega)

theorem get_setDie_ne (k v : Nat) (d : Dev) (f : Fld) (h : f.addr ≠ R.GLB_DIE_STATUS) : (d.setDie k v).get f = d.get f :=
  Dev.get_set_ne d ⟨R.GLB_DIE_STATUS, 2 * k, 2⟩ f v h

theorem get_stop_code (c : Fin 4) (d : Dev) : (stop c d).get R.GLB_RST_CAUSE_STOP = c.val :=
  (Dev.get_set_same d R.GLB_RST_CAUSE_STOP c.val (by decide)).trans (Nat.mod_eq_of_lt (lt_of_lt_of_le c.isLt (by decide)))

theorem get_stop_ne (c : Fin 4) (d : Dev) (f : Fld) (h : f.addr ≠ R.GLB_RST_CAUSE) : (stop c d).get f = d.get f :=
  Dev.get_set_ne d R.GLB_RST_CAUSE_STOP f c.val h

theorem get_d2dFailed (i : Nat) (d : Dev) : (d.set (R.TEST_D2D_STAT_FAILED i) 1).get (R.TEST_D2D_STAT_FAILED i) = 1 :=
  Dev.get_set_same d (R.TEST_D2D_STAT_FAILED i) 1 (by show 20 + 1 ≤ 32; decide)

theorem d2dInterfaceFail_control (d : Dev) (hd : d.dieState 0 ≠ 0) (hf : d.on (R.TEST_D2D_STAT_FAILED 10) = false) :
    ∃ e : Dev, d2dInterfaceFail 10 d = stop 3 ((e.set (R.TEST_D2D_STAT_FAILED 10) 1).setDie 0 3) := by
  have hgo : ¬ (decide (d.dieState 0 = 0) || d.on (R.TEST_D2D_STAT_FAILED 10)) = true := by simp [hd, hf]
  exact ⟨raiseFatal blkTest 9 10 (d.draw.2.bump (R.TEST_D2D_STAT_RETRY 10) (1025 + d.draw.1.toNat)), if_neg hgo⟩

theorem d2dInterfaceFail_port (k : Fin 8) (d : Dev) (hd : d.dieState (k.val + 2) = 2) (hf : d.on (R.TEST_D2D_STAT_FAILED k.val) = false) :
    ∃ e : Dev, d2dInterfaceFail ⟨k.val, by omega⟩ d = (e.setDie (k.val + 2) 3).set (R.TEST_D2D_STAT_FAILED k.val) 1 := by
  have hk := k.isLt
  have hgo : ¬ (decide (d.dieState (k.val + 2) = 0) || d.on (R.TEST_D2D_STAT_FAILED k.val)) = true := by simp [hd, hf]
  unfold d2dInterfaceFail
  rw [if_pos (show k.val < 10 by omega)]
  extract_lets die r e ports down failed m served marked
  rw [if_neg hgo]
  have hready : e.dieReady (k.val + 2) = true := by
    have hq : r.2.bump (R.TEST_D2D_STAT_RETRY k.val) (1025 + r.1.toNat) |>.Quiet e := raiseFatal_quiet _ _ _ _ _ _
    have hne : R.GLB_DIE_STATUS ≠ R.TEST_D2D_STAT k.val := by unfold R.GLB_DIE_STATUS R.TEST_D2D_STAT; omega
    have hstate : e.dieState (k.val + 2) = d.dieState (k.val + 2) :=
      (hq.get ⟨R.GLB_DIE_STATUS, 2 * (k.val + 2), 2⟩ (show ¬ isEvtReg R.GLB_DIE_STATUS by unfold isEvtReg; decide)).trans
        (Dev.get_set_ne _ _ _ _ hne)
    rw [Dev.dieReady, hstate, hd]
    rfl
  have hstay : ¬ (decide (10 ≤ k.val) || !e.dieReady (k.val + 2)) = true := by simp [hready]; omega
  have hserved : served = down.setDie (k.val + 2) 3 := (if_neg hstay).trans (if_pos hk)
  refine ⟨down, (if_pos (show k.val < 10 by omega)).trans ?_⟩
  exact congrArg (fun x : Dev => x.set (R.TEST_D2D_STAT_FAILED k.val) 1) hserved

/-- Settles O18. -/
theorem applyAndDieFail : Obligations.ApplyAndDieFail := by
  refine ⟨?image, ?kernel, ?control, ?port⟩
  case image => exact fun s hr hs hi hw => ⟨_, rfl, imageApply_stage _ _ _ hr hs hi hw, rfl, rfl⟩
  case kernel =>
    intro s n ha ht lib kid hnew
    refine ⟨fun h => next_setDev s (kernelLoad_refused n _ _ _ rfl rfl ha ht hnew h),
      fun h => ⟨s.setDev (kernelLoad n s.fuses s.flash s.dev), rfl, ?_⟩⟩
    rw [State.setDev_dev]
    by_cases hok : kernelOk s.fuses lib (kernelOff lib n) = true
    · rw [if_pos hok]
      exact kernelLoad_added n _ _ _ rfl rfl ha ht hnew h hok
    · rw [if_neg hok, kernelLoad_refused n _ _ _ rfl rfl ha ht hnew (Or.inr (eq_false_of_ne_true hok))]
      exact congrArg (fun b : Boot => b.kernels) (raiseCE_quiet _ _ _ _ _ _).boot
  case control =>
    intro s hr hd hf
    obtain ⟨e, he⟩ := d2dInterfaceFail_control s.dev hd hf
    refine ⟨_, (onDev_whenRunning _ s hr).trans (next_setDev s he), rfl, ?_, ?_, ?_⟩
    · exact (get_stop_ne 3 _ ⟨R.GLB_DIE_STATUS, 0, 2⟩ (by decide)).trans (dieState_setDie_same 0 3 _ (by decide))
    · exact get_stop_code 3 _
    · exact ((get_stop_ne 3 _ _ (by decide)).trans (get_setDie_ne 0 3 _ _ (by decide))).trans (get_d2dFailed 10 e)
  case port =>
    intro s k hr hd hf
    have hk := k.isLt
    obtain ⟨e, he⟩ := d2dInterfaceFail_port k s.dev hd hf
    have hne : R.GLB_DIE_STATUS ≠ R.TEST_D2D_STAT k.val := by unfold R.GLB_DIE_STATUS R.TEST_D2D_STAT; omega
    refine ⟨_, (onDev_whenRunning _ s hr).trans (next_setDev s he), ?_, ?_⟩
    · exact (Dev.get_set_ne _ _ ⟨R.GLB_DIE_STATUS, 2 * (k.val + 2), 2⟩ _ hne).trans (dieState_setDie_same (k.val + 2) 3 e (by omega))
    · exact get_d2dFailed k.val _

end Sys2Proof.Machine
end

section
/-! Training of OFP and Ethernet ports (O19): R43, R97, R99, R104 to R107, R133. -/

namespace Sys2Proof.Machine

/-! ### What training goes by -/

/-- What decides whether and where a port trains is the same: its registers, spares, modules and windows, and of its link the stage, the squelch and
the join hold. -/
structure Dev.SameTraining (p : Nat) (d e : Dev) : Prop where
  csr : e.csr = d.csr
  ras : e.ras = d.ras
  opt : e.opt = d.opt
  stage : (e.link p).stage = (d.link p).stage
  squelched : (e.link p).squelched = (d.link p).squelched
  joinHeld : (e.link p).joinHeld = (d.link p).joinHeld

theorem Dev.SameTraining.refl (p : Nat) (d : Dev) : d.SameTraining p d := ⟨rfl, rfl, rfl, rfl, rfl, rfl⟩

section
variable {p : Nat} {d e : Dev} (h : d.SameTraining p e)
include h

theorem Dev.SameTraining.trans {f : Dev} (g : e.SameTraining p f) : d.SameTraining p f :=
  ⟨g.csr.trans h.csr, g.ras.trans h.ras, g.opt.trans h.opt, g.stage.trans h.stage, g.squelched.trans h.squelched, g.joinHeld.trans h.joinHeld⟩

theorem Dev.SameTraining.unserved (l : Nat) : unserved e l = unserved d l := by
  simp only [Machine.unserved, posFailed, h.ras, Dev.rd_congr h.csr]

theorem Dev.SameTraining.mayTrain : mayTrain e p = mayTrain d p := by
  have hl := Dev.SameLayout.of_csr h.csr
  have hun : Machine.unserved e = Machine.unserved d := funext h.unserved
  have hadmin : e.on (R.PORT_PCTL_ADMIN p) = d.on (R.PORT_PCTL_ADMIN p) := by rw [Dev.on, Dev.on, Dev.get_congr h.csr]
  simp only [Machine.mayTrain, agentHeld, windowHeld, hl.isPort, hl.lanesOf, hun, hadmin, h.ras, h.opt, h.squelched, h.joinHeld]

theorem Dev.SameTraining.isOfp : e.isOfp p = d.isOfp p := (Dev.SameLayout.of_csr h.csr).isOfp p
end

theorem advance_taken (p was now : Nat) (d : Dev) (ho : d.isOfp p = true) (hm : mayTrain d p = true) (hs : stageOf d p = was) :
    advance p was now d = showStage p now d := by simp [advance, ho, hm, hs]

theorem Dev.SameTraining.setLink (p : Nat) (d : Dev) (l : Link) (hs : l.stage = (d.link p).stage) (hq : l.squelched = (d.link p).squelched)
    (hj : l.joinHeld = (d.link p).joinHeld) : d.SameTraining p (d.setLink p l) where
  csr := rfl
  ras := rfl
  opt := rfl
  stage := (congrArg Link.stage (Dev.link_setLink_same d p l)).trans hs
  squelched := (congrArg Link.squelched (Dev.link_setLink_same d p l)).trans hq
  joinHeld := (congrArg Link.joinHeld (Dev.link_setLink_same d p l)).trans hj

theorem Dev.SameTraining.each {α : Type} {p : Nat} (l : List α) (f : α → Dev → Dev) (h : ∀ x (d : Dev), d.SameTraining p (f x d)) (d : Dev) :
    d.SameTraining p (Dev.each l f d) := by
  induction l generalizing d with
  | nil => exact .refl p d
  | cons x t ih => exact (h x d).trans (ih (f x d))

/-- The equaliser's adaptation draws free values and changes nothing that training goes by. -/
theorem adapt_sameTraining (p : Nat) (d : Dev) : d.SameTraining p (adapt p d) := by
  have hdraw (d : Dev) : d.SameTraining p d.draw.2 := ⟨rfl, rfl, rfl, rfl, rfl, rfl⟩
  unfold adapt
  refine Dev.SameTraining.trans (.setLink p d { d.link p with eq := [] } rfl rfl rfl) (.each _ _ (fun _ e => ?_) _)
  exact (hdraw e).trans (.setLink p e.draw.2 _ rfl rfl rfl)

/-! ### Deskew and the exchange (R99, R104 to R106) -/

theorem all_eq_head_iff {n : Nat} (l : List (BitVec n)) : l.all (fun x => some x == l.head?) = true ↔ ∀ x ∈ l, ∀ y ∈ l, x = y := by
  cases l with
  | nil => simp
  | cons h t =>
    simp only [List.all_eq_true, List.head?_cons, beq_iff_eq, Option.some.injEq]
    exact ⟨fun hall x hx y hy => (hall x hx).trans (hall y hy).symm, fun hall x hx => hall x hx h List.mem_cons_self⟩

theorem aligned_iff (d : Dev) (p n : Nat) : aligned d p n = true ↔
    n ≤ 100 ∧ ∀ a b : Marker, some a ∈ (d.link p).marks → some b ∈ (d.link p).marks → a.frame = b.frame := by
  have hmem (f : BitVec 16) : f ∈ (d.link p).marks.filterMap (fun m => m.map (fun m => m.frame)) ↔
      ∃ a : Marker, some a ∈ (d.link p).marks ∧ a.frame = f := by simp [List.mem_filterMap]
  rw [aligned, Bool.and_eq_true, decide_eq_true_eq, all_eq_head_iff]
  refine and_congr_right fun _ => ⟨fun h a b ha hb => h _ ((hmem _).mpr ⟨a, ha, rfl⟩) _ ((hmem _).mpr ⟨b, hb, rfl⟩), fun h x hx y hy => ?_⟩
  obtain ⟨a, ha, rfl⟩ := (hmem x).mp hx
  obtain ⟨b, hb, rfl⟩ := (hmem y).mp hy
  exact h a b ha hb

/-- The first lane whose marker fails a check of the exchange. -/
def firstFailing (ms : List Marker) (f : Nat → Marker → Bool) : Option Nat := (List.range ms.length).find? (fun k => (ms[k]?).any (f k))

theorem firstFailing_eq_none (ms : List Marker) (f : Nat → Marker → Bool) :
    firstFailing ms f = none ↔ ∀ k m, ms[k]? = some m → f k m = false := by
  rw [firstFailing, List.find?_range_eq_none]
  constructor
  · intro h k m hk
    have := h k (List.getElem?_eq_some_iff.mp hk).1
    simpa [hk] using this
  · intro h k hk
    simp [h k ms[k] (List.getElem?_eq_getElem hk), List.getElem?_eq_getElem hk]

theorem firstFailing_eq_some {ms : List Marker} {f : Nat → Marker → Bool} {k : Nat} {m : Marker} (hk : ms[k]? = some m) (hf : f k m = true)
    (hfirst : ∀ j n, j < k → ms[j]? = some n → f j n = false) : firstFailing ms f = some k := by
  rw [firstFailing, List.find?_range_eq_some]
  refine ⟨by simp [hk, hf], List.mem_range.mpr (List.getElem?_eq_some_iff.mp hk).1, fun j hj => ?_⟩
  cases hn : ms[j]? with
  | none => rfl
  | some n => simp [hfirst j n hj hn]

section
variable (p : Nat) (d : Dev) (ms : List Marker) (ho : d.isOfp p = true) (hm : mayTrain d p = true) (hs : stageOf d p = 5)
  (hp : (d.link p).peerHold = none) (hall : allMarks d p = some ms)
include ho hm hs hp hall

/-- The checks of the exchange, once a marker of every lane has come. -/
theorem peerExchange_eq : peerExchange p d =
    if (firstFailing ms (shapeBad d p)).isSome then shapeMismatch p d
    else (firstFailing ms (chanBad d p)).elim
      (if ms.any (joinBad d p) then
        holdDown p 2 (raiseFatal (blkPort (p / 128)) 3 p ((d.set (R.PORT_PSTAT_PEERMIS p) 1).modLink p (fun l => { l with joinHeld := true })))
       else portUp p d)
      (fun k => chanMismatch p (p + k) d) := by
  have hgo : ¬ (!(d.isOfp p && mayTrain d p && stageOf d p == 5) || (d.link p).peerHold.isSome) = true := by simp [ho, hm, hs, hp]
  unfold peerExchange
  rw [if_neg hgo, hall]
  unfold firstFailing
  dsimp only
  generalize (List.range ms.length).find? (fun k => (ms[k]?).any (chanBad d p k)) = o
  cases o <;> rfl

theorem peerExchange_shape {k : Nat} {m : Marker} (hk : ms[k]? = some m) (hb : shapeBad d p k m = true) :
    peerExchange p d = shapeMismatch p d := by
  rw [peerExchange_eq p d ms ho hm hs hp hall]
  refine if_pos (Option.isSome_iff_ne_none.mpr fun h => ?_)
  rw [(firstFailing_eq_none _ _).mp h k m hk] at hb
  exact Bool.false_ne_true hb

section
variable (hshape : ∀ k m, ms[k]? = some m → shapeBad d p k m = false)
include hshape

theorem peerExchange_chan {k : Nat} {m : Marker} (hk : ms[k]? = some m) (hb : chanBad d p k m = true)
    (hfirst : ∀ j n, j < k → ms[j]? = some n → chanBad d p j n = false) : peerExchange p d = chanMismatch p (p + k) d := by
  rw [peerExchange_eq p d ms ho hm hs hp hall, (firstFailing_eq_none _ _).mpr hshape, firstFailing_eq_some hk hb hfirst]
  rfl

variable (hchan : ∀ k m, ms[k]? = some m → chanBad d p k m = false)
include hchan

theorem peerExchange_join : peerExchange p d = if ms.any (joinBad d p) then
      holdDown p 2 (raiseFatal (blkPort (p / 128)) 3 p ((d.set (R.PORT_PSTAT_PEERMIS p) 1).modLink p (fun l => { l with joinHeld := true })))
    else portUp p d := by
  rw [peerExchange_eq p d ms ho hm hs hp hall, (firstFailing_eq_none _ _).mpr hshape, (firstFailing_eq_none _ _).mpr hchan]
  rfl
end
end

/-! ### The start of a training (R105, R133) -/

theorem hostSettings_link (p : Nat) (d : Dev) : ∃ w, (hostSettings p d).link p = { d.link p with hostTx := w } := by
  unfold hostSettings
  split
  · exact ⟨d.draw.1, Dev.link_setLink_same _ _ _⟩
  · exact ⟨(d.link p).hostTx, rfl⟩

/-- The device as a training finds it: the port's mismatches cleared and the training counted. -/
def trainingBegun (p : Nat) (d : Dev) : Dev :=
  (((d.set (R.PORT_PSTAT_CHANMIS p) 0).set (R.PORT_PSTAT_PEERMIS p) 0).set (R.PORT_PSTAT_SKEW p) 0).bump (R.PORT_PSTAT_RETRAINS p)

theorem trainingBegun_rd_ne (p : Nat) (d : Dev) {a : Nat} (h : a ≠ R.PORT_PSTAT p) : (trainingBegun p d).rd a = d.rd a := by
  have hset (e : Dev) (f : Fld) (v : Nat) (hf : f.addr = R.PORT_PSTAT p) : (e.set f v).rd a = e.rd a :=
    Dev.rd_set_ne e f v a (by rw [hf]; exact h)
  rw [trainingBegun, Dev.bump_eq, hset _ _ _ rfl, hset _ _ _ rfl, hset _ _ _ rfl, hset _ _ _ rfl]

theorem trainingBegun_link (p : Nat) (d : Dev) : (trainingBegun p d).link p = d.link p := by
  rw [trainingBegun, Dev.bump_eq, Dev.link_set, Dev.link_set, Dev.link_set, Dev.link_set]

theorem lchan_ne_pstat (k p : Nat) : R.PORT_LCHAN k ≠ R.PORT_PSTAT p := by
  unfold R.PORT_LCHAN R.PORT_PSTAT
  omega

theorem relockPeer_ne_pstat (k p : Nat) : R.PORT_RELOCK_PEER k ≠ R.PORT_PSTAT p := by
  unfold R.PORT_RELOCK_PEER R.PORT_PSTAT
  omega

theorem lgrpCfg_ne_pstat (x p : Nat) : R.PORT_LGRP_CFG x ≠ R.PORT_PSTAT p := by
  unfold R.PORT_LGRP_CFG R.PORT_PSTAT
  omega

theorem trainingBegun_sameLayout (p : Nat) (d : Dev) : d.SameLayout (trainingBegun p d) where
  group x := trainingBegun_rd_ne p d (lgrpCfg_ne_pstat x p)
  ident := trainingBegun_rd_ne p d (lt_of_lt_of_le (by decide) (pstat_ge p)).ne
  dies := trainingBegun_rd_ne p d (lt_of_lt_of_le (by decide) (pstat_ge p)).ne

theorem startTraining_eq (p : Nat) (d : Dev) (h : mayTrain d p = true) : startTraining p d =
    showStage p 1 ((hostSettings p (latchPeer p (trainingBegun p d))).modLink p (fun l => { l with signal := false, holdFault := 0, txack := [], taps := [] })) := by
  unfold startTraining trainingBegun
  exact if_pos h

/-- A training takes EXPECT of the lanes and PEER as they stand, and begins at stage 1 without markers. -/
theorem startTraining_link (p : Nat) (d : Dev) (h : mayTrain d p = true) :
    stageOf (startTraining p d) p = 1 ∧ ((startTraining p d).link p).marks = [] ∧
    ((startTraining p d).link p).peer = d.rd (R.PORT_RELOCK_PEER p) ∧
    ((startTraining p d).link p).expect = (d.lanesOf p).map (fun k => BitVec.ofNat 16 (d.get (R.PORT_LCHAN_EXPECT k))) := by
  obtain ⟨w, hw⟩ := hostSettings_link p (latchPeer p (trainingBegun p d))
  have hexpect : ((trainingBegun p d).lanesOf p).map (fun k => BitVec.ofNat 16 ((trainingBegun p d).get (R.PORT_LCHAN_EXPECT k))) =
      (d.lanesOf p).map (fun k => BitVec.ofNat 16 (d.get (R.PORT_LCHAN_EXPECT k))) := by
    rw [(trainingBegun_sameLayout p d).lanesOf]
    exact List.map_congr_left fun k _ => congrArg (fun x : Word => BitVec.ofNat 16 (bitsOf x.toNat 0 16)) (trainingBegun_rd_ne p d (lchan_ne_pstat k p))
  have hlatch : (latchPeer p (trainingBegun p d)).link p = { d.link p with
      marks := [], badMarks := [], peerHold := none, peer := d.rd (R.PORT_RELOCK_PEER p)
      expect := (d.lanesOf p).map (fun k => BitVec.ofNat 16 (d.get (R.PORT_LCHAN_EXPECT k))) } := by
    rw [latchPeer, Dev.modLink_eq, Dev.link_setLink_same, trainingBegun_rd_ne p d (relockPeer_ne_pstat p p), hexpect, trainingBegun_link]
  have hlink : (startTraining p d).link p = { (hostSettings p (latchPeer p (trainingBegun p d))).link p with
      signal := false, holdFault := 0, txack := [], taps := [], stage := 1 } := by
    rw [startTraining_eq p d h, showStage_link, Dev.modLink_eq, Dev.link_setLink_same]
  rw [stageOf, hlink, hw, hlatch]
  exact ⟨rfl, rfl, rfl, rfl⟩

/-! ### Holding down (R103, R106) -/

theorem isUp_congr {d e : Dev} (h : e.csr = d.csr) (p : Nat) : e.isUp p = d.isUp p := congrArg (· == 1) (Dev.get_congr h (R.PORT_PSTAT_UP p))

theorem showStage_isUp (p v : Nat) (d : Dev) : (showStage p v d).isUp p = d.isUp p :=
  congrArg (· == 1) (Dev.get_set_apart (d.modLink p (fun l => { l with stage := v })) (R.PORT_PSTAT_STATE p) (R.PORT_PSTAT_UP p) _
    (by show 0 + 4 ≤ 32; decide) (Or.inl (by show 0 + 4 ≤ 4; decide)))

theorem sendMarkers_link (p n : Nat) (r : Bool) (d : Dev) : ∃ x, (sendMarkers p n r d).link p = { d.link p with frame := x } := by
  have hl := Dev.each_kept Dev.links (List.range (d.width p)) (fun k => sendMarker p k n r) (fun _ _ => rfl) d
  unfold sendMarkers
  split
  · exact ⟨(d.link p).frame, rfl⟩
  · rw [Dev.modLink_eq, Dev.link_setLink_same, Dev.link, hl]
    exact ⟨_, rfl⟩

/-- The port taken down and its FAULT noted, before its markers go out. -/
def faulted (p f : Nat) (d : Dev) : Dev := (showStage p 8 (takeDown p d)).modLink p (fun l => { l with holdFault := BitVec.ofNat 8 f })

theorem holdDown_eq (p f : Nat) (d : Dev) : holdDown p f d = sendMarkers p 1 false (faulted p f d) := rfl

theorem faulted_link (p f : Nat) (d : Dev) :
    (faulted p f d).link p = { (takeDown p d).link p with stage := 8, holdFault := BitVec.ofNat 8 f } := by
  rw [faulted, Dev.modLink_eq, Dev.link_setLink_same, showStage_link]

theorem faulted_isUp (p : PortNo) (f : Nat) (d : Dev) : (faulted p.val f d).isUp p.val = false :=
  (isUp_congr (d := showStage p.val 8 (takeDown p.val d)) rfl p.val).trans ((showStage_isUp p.val 8 _).trans (takeDown_isUp p d))

theorem holdDown_holds (p : PortNo) (f : Nat) (d : Dev) : (holdDown p.val f d).isUp p.val = false ∧ stageOf (holdDown p.val f d) p.val = 8 ∧
    ((holdDown p.val f d).link p.val).holdFault = BitVec.ofNat 8 f := by
  obtain ⟨x, hx⟩ := sendMarkers_link p.val 1 false (faulted p.val f d)
  rw [faulted_link] at hx
  rw [holdDown_eq, stageOf, hx, isUp_congr (sendMarkers_csr _ _ _ _)]
  exact ⟨faulted_isUp p f d, rfl, rfl⟩

/-! ### Coming up (R107, R111) -/

/-- What of a link its transmitter leaves. -/
def Link.standing (l : Link) : Nat × BitVec 12 × Option Nat := (l.stage, l.rxSeq, l.downSince)

theorem link_standing_modLink (p : Nat) (f : Link → Link) (d : Dev) (h : (f (d.link p)).standing = (d.link p).standing) :
    ((d.modLink p f).link p).standing = (d.link p).standing := by rw [Dev.modLink_eq, Dev.link_setLink_same, h]

theorem sendPair_standing (p : Nat) (bs : List Byte) (d : Dev) : ((sendPair p bs d).link p).standing = (d.link p).standing := by
  unfold sendPair
  extract_lets w k e
  have he : (e.link p).standing = (d.link p).standing := link_standing_modLink p _ d rfl
  split
  · exact (link_standing_modLink p _ e rfl).trans he
  · exact he

theorem sequencePair_standing (p : Nat) (vc : BitVec 4) (n : BitVec 10) (fl : List Byte) (ps : List Pkt) (d : Dev) :
    ((sequencePair p vc n fl ps d).link p).standing = (d.link p).standing :=
  (sendPair_standing p _ _).trans (link_standing_modLink p _ d rfl)

theorem sendDue_standing (p : Nat) (d : Dev) : ((sendDue p d).link p).standing = (d.link p).standing :=
  (Dev.each_kept (fun e => (e.link p).standing) _ _ (fun _ _ => sequencePair_standing p _ _ _ _ _) _).trans (link_standing_modLink p _ d rfl)

theorem returnCredits_standing (p : Nat) (vc : BitVec 4) (n : Nat) (d : Dev) :
    ((returnCredits p vc n d).link p).standing = (d.link p).standing := by
  unfold returnCredits
  split
  · rfl
  · exact ((sendDue_standing p _).trans (link_standing_modLink p _ _ rfl)).trans (link_standing_modLink p _ d rfl)

theorem routesOn_congr {d e : Dev} (hc : ∀ k, e.rd (R.HAUL_LINK_CFG k) = d.rd (R.HAUL_LINK_CFG k))
    (hp : ∀ k, e.rd (R.HAUL_LINK_PORTS k) = d.rd (R.HAUL_LINK_PORTS k)) (p : Nat) : routesOn e p = routesOn d p := by
  have hport (k lo w : Nat) : e.get ⟨R.HAUL_LINK_PORTS k, lo, w⟩ = d.get ⟨R.HAUL_LINK_PORTS k, lo, w⟩ :=
    congrArg (fun x : Word => bitsOf x.toNat lo w) (hp k)
  have hon : linkOn e = linkOn d := funext fun k => congrArg (fun x : Word => bitsOf x.toNat 0 1 == 1) (hc k)
  have hexists : routeExists e = routeExists d := funext₂ fun k r => congrArg (fun x => r == 0 || x == 1) (hport k 31 1)
  have hroute : routePort e = routePort d := funext₂ fun k r => by
    unfold routePort
    split
    · exact hport k 0 10
    · exact hport k 16 10
  unfold routesOn
  rw [hon, hexists, hroute]

/-- A port with no route of the haul block comes up at stage 6 with its receiver's sequence at zero. -/
theorem portUp_up (p : PortNo) (d : Dev) (hh : d.isHaul p.val = false) (hr : routesOn d p.val = []) :
    (portUp p.val d).isUp p.val = true ∧ ((portUp p.val d).link p.val).stage = 6 ∧ ((portUp p.val d).link p.val).rxSeq = 0 ∧
      ((portUp p.val d).link p.val).downSince = none := by
  have hp := p.isLt
  unfold portUp
  extract_lets haul e1 e2 e3
  have hnew : (e1.link p.val).rxSeq = 0 ∧ (e1.link p.val).downSince = none := by
    unfold e1
    rw [Dev.modLink_eq, Dev.link_setLink_same]
    exact ⟨rfl, if_neg (by rw [show haul = false from hh]; decide)⟩
  have hlink : (e2.link p.val).standing = (6, 0, none) := by
    rw [showStage_link, Dev.link_set]
    exact congrArg (Prod.mk 6) (Prod.ext hnew.1 hnew.2)
  have hkeep : e3.csr = e2.csr ∧ (e3.link p.val).standing = (e2.link p.val).standing := by
    unfold e3
    split
    · exact ⟨Dev.each_csr _ _ (fun _ _ => returnCredits_csr _ _ _ _) _,
        Dev.each_kept (fun e => (e.link p.val).standing) _ _ (fun _ _ => returnCredits_standing _ _ _ _) _⟩
    · exact ⟨rfl, rfl⟩
  obtain ⟨hcsr, hstand⟩ := hkeep
  have hrd (a : Nat) (ha : a ≠ R.PORT_PSTAT p.val) : e3.rd a = d.rd a :=
    ((Dev.rd_congr hcsr a).trans (showStage_rd_ne _ _ a _ ha)).trans (Dev.rd_set_ne e1 _ _ a ha)
  have hroutes : routesOn e3 p.val = [] := by
    refine (routesOn_congr (fun k => hrd _ ?_) (fun k => hrd _ ?_) p.val).trans hr
    · unfold R.HAUL_LINK_CFG R.PORT_PSTAT; omega
    · unfold R.HAUL_LINK_PORTS R.PORT_PSTAT; omega
  have hsame : haulPortChange p.val 0 e3 = e3 := by rw [haulPortChange, hroutes]; rfl
  have hup : e2.isUp p.val = true :=
    (showStage_isUp p.val 6 _).trans (congrArg (· == 1) (Dev.get_set_same e1 (R.PORT_PSTAT_UP p.val) 1 (by show 4 + 1 ≤ 32; decide)))
  rw [hlink] at hstand
  rw [hsame, isUp_congr hcsr]
  exact ⟨hup, congrArg (·.1) hstand, congrArg (·.2.1) hstand, congrArg (·.2.2) hstand⟩

/-! ### The stages one by one, and Ethernet ports (R97, R105) -/

theorem signalDetect_eq (p : Nat) (d : Dev) (ho : d.isOfp p = true) (hm : mayTrain d p = true) (hs : stageOf d p = 1) :
    advance p 1 2 (d.modLink p (fun l => { l with signal := true })) = showStage p 2 (d.modLink p (fun l => { l with signal := true })) := by
  have h : d.SameTraining p (d.modLink p (fun l => { l with signal := true })) := .setLink p d _ rfl rfl rfl
  exact advance_taken p 1 2 _ (h.isOfp.trans ho) (h.mayTrain.trans hm) (h.stage.trans hs)

theorem equalisationDone_eq (p : Nat) (d : Dev) (ho : d.isOfp p = true) (hm : mayTrain d p = true) (hs : stageOf d p = 2) :
    equalisationDone p d = showStage p 3 (adapt p d) := by
  have h := adapt_sameTraining p d
  rw [equalisationDone, if_pos hs]
  exact advance_taken p 2 3 _ (h.isOfp.trans ho) (h.mayTrain.trans hm) (h.stage.trans hs)

theorem deskewDone_eq (p n : Nat) (d : Dev) (ho : d.isOfp p = true) (hm : mayTrain d p = true) (hs : stageOf d p = 4) :
    deskewDone p n d = if aligned d p n then showStage p 5 d
      else holdDown p 4 (raiseCE (blkPort (p / 128)) 6 p (d.set (R.PORT_PSTAT_SKEW p) 1)) := if_neg (by simp [ho, hm, hs])

section
variable (p : Nat) (d : Dev) (he : d.isEth p = true) (hm : mayTrain d p = true) (hu : d.isUp p = false)
include he hm hu

theorem ethLinkUp_eq : ethLinkUp p d = portUp p d := if_pos (by simp [he, hm, hu])

theorem ethStartTimeout_eq : ethStartTimeout p d =
    let e := startTraining p (d.modLink p (fun l => { l with ethFails := (d.link p).ethFails + 1 }))
    if ((d.link p).ethFails + 1) % 3 = 0 then raiseCE (blkPort (p / 128)) 4 p e else e := if_pos (by simp [he, hm, hu])
end

theorem shapeBad_iff (d : Dev) (p k : Nat) (m : Marker) : shapeBad d p k m = true ↔
    m.width.toNat ≠ log2 (d.width p) ∨ m.rate.toNat ≠ d.rate p ∨ m.slot.toNat ≠ k := by
  simp only [shapeBad, Bool.or_eq_true, bne_iff_ne, or_assoc]

theorem chanBad_iff (d : Dev) (p k : Nat) (m : Marker) : chanBad d p k m = true ↔
    (d.link p).expect.getD k 0 ≠ 0 ∧ (d.link p).expect.getD k 0 ≠ m.chan := by
  simp only [chanBad, Bool.and_eq_true, bne_iff_ne]

theorem mayTrain_joinHeld (d : Dev) (p : Nat) (h : (d.link p).joinHeld = true) : mayTrain d p = false := by
  rw [mayTrain, h]
  exact Bool.and_false _

/-- Settles O19. -/
theorem linkTraining : Obligations.LinkTraining := by
  refine ⟨?steps, aligned_iff, ?exchange, fun d p k m => ⟨shapeBad_iff d p k m, chanBad_iff d p k m⟩, fun d p h => startTraining_link p.val d h,
    mayTrain_joinHeld, ?eth, fun d p => portUp_up p d, fun d p f => holdDown_holds p f d⟩
  case steps =>
    intro s p ha ho hm
    have hout (f : Dev → Dev) := onDev_whenApplied f s ha
    refine ⟨fun hs => (hout _).trans (next_setDev s (signalDetect_eq p.val s.dev ho hm hs)),
      fun hs => (hout _).trans (next_setDev s (equalisationDone_eq p.val s.dev ho hm hs)),
      fun hs => (hout _).trans (next_setDev s (advance_taken p.val 3 4 s.dev ho hm hs)), fun hs n => ?_⟩
    have h := deskewDone_eq p.val n s.dev ho hm hs
    exact ⟨fun hal => (hout _).trans (next_setDev s (by rw [h, hal, if_pos rfl])),
      fun hal => (hout _).trans (next_setDev s (by rw [h, hal, if_neg Bool.false_ne_true]))⟩
  case exchange =>
    intro s p ms ha ho hm hs hp hall
    have hout {e : Dev} (h : peerExchange p.val s.dev = e) : exec (.peerExchange p) s = .next (s.setDev e) :=
      (onDev_whenApplied _ s ha).trans (next_setDev s h)
    refine ⟨fun ⟨k, m, hk, hb⟩ => hout (peerExchange_shape p.val s.dev ms ho hm hs hp hall hk hb), fun hshape => ⟨fun k m hk hb hfirst =>
      hout (peerExchange_chan p.val s.dev ms ho hm hs hp hall hshape hk hb hfirst), fun hchan => ?_⟩⟩
    have hjoin := peerExchange_join p.val s.dev ms ho hm hs hp hall hshape hchan
    refine ⟨fun hgood => hout (hjoin.trans (if_neg ?_)), fun ⟨m, hmem, hb⟩ => hout (hjoin.trans (if_pos (List.any_eq_true.mpr ⟨m, hmem, hb⟩)))⟩
    rw [List.any_eq_true]
    rintro ⟨m, hmem, hb⟩
    rw [hgood m hmem] at hb
    exact Bool.false_ne_true hb
  case eth =>
    intro s p ha he hm hu
    have htimeout := (onDev_whenApplied (ethStartTimeout p.val) s ha).trans (next_setDev s (ethStartTimeout_eq p.val s.dev he hm hu))
    exact ⟨(onDev_whenApplied _ s ha).trans (next_setDev s (ethLinkUp_eq p.val s.dev he hm hu)),
      fun hn => htimeout.trans (next_setDev s (if_neg hn)), fun hn => htimeout.trans (next_setDev s (if_pos hn))⟩

end Sys2Proof.Machine
end

section
/-! Fuses only gain (O3): R56, R57, R70, R72. -/

namespace Sys2Proof.Machine

/-! ### Burning fuses -/

/-- A burn of fuses: from legal fuses it leaves legal ones, with every bit that was burned still burned. -/
def Fuses.Burns (f g : Fuses) : Prop := fusesLegal f → fusesLegal g ∧ fusesGain f g

theorem Fuses.Burns.refl (f : Fuses) : f.Burns f := fun h =>
  ⟨h, le_rfl, fun _ => rfl, rfl, rfl, rfl, rfl, rfl, rfl, rfl, fun _ k hk => ⟨k, hk, id, id⟩⟩

theorem Fuses.Burns.of_eq {f g : Fuses} (h : g = f) : f.Burns g := h ▸ .refl f

/-- A change of a key slot that only burns bits of it. -/
def KeySlot.Burning (h : KeySlot → KeySlot) : Prop :=
  ∀ k : KeySlot, (k.revoked = true → (h k).revoked = true) ∧ (k.programmed = true → (h k).programmed = true)

/-- Burning copies of the life-cycle state, the UDS where it is not yet fused, and bits of one key slot. -/
theorem Fuses.Burns.slot (f : Fuses) (lc : BitVec 3 × BitVec 3 × BitVec 3) (uds : List Byte) (n : Nat) {h : KeySlot → KeySlot}
    (hu : f.uds ≠ [] → uds = f.uds) (hh : KeySlot.Burning h) :
    f.Burns { f with lc := lc, uds := uds, slots := f.slots.modify n h } := by
  intro hf
  have hlen : (f.slots.modify n h).length = f.slots.length := by simp
  refine ⟨⟨hlen.trans hf.1, hf.2⟩, le_rfl, hu, hlen, rfl, rfl, rfl, rfl, rfl, rfl, fun i k hk => ?_⟩
  show ∃ j, (f.slots.modify n h)[i]? = some j ∧ _
  rw [List.getElem?_modify, hk]
  by_cases hi : n = i
  · exact ⟨h k, by simp [hi], hh k⟩
  · exact ⟨k, by simp [hi], id, id⟩

theorem Fuses.Burns.lc (f : Fuses) (lc : BitVec 3 × BitVec 3 × BitVec 3) : f.Burns { f with lc := lc } := by
  have h := Fuses.Burns.slot f lc f.uds 0 (fun _ => rfl) (h := id) (fun _ => ⟨id, id⟩)
  rwa [List.modify_id] at h

theorem Fuses.Burns.svn (f : Fuses) (n : Nat) (h : f.svn < n) : f.Burns { f with svn := min 64 n } := fun hf =>
  ⟨⟨hf.1, min_le_left 64 n⟩, le_min hf.2 h.le, fun _ => rfl, rfl, rfl, rfl, rfl, rfl, rfl, rfl, fun _ k hk => ⟨k, hk, id, id⟩⟩

/-! ### What burns -/

theorem burnCopies_burns (n : Nat) (t : BitVec 3) (f : Fuses) : f.Burns (burnCopies n t f) := by
  unfold burnCopies
  dsimp only
  split
  · refine Fuses.Burns.slot f _ _ 0 (fun h => if_neg h) fun k => ⟨id, fun _ => rfl⟩
  · exact Fuses.Burns.lc f _

theorem cutThen_burns (f : Fuses → Dev → Dev) (s : State) : s.fuses.Burns (cutThen f s).fuses := by
  cases h : s.dev.boot.pendingLc with
  | none => rw [cutThen_of_idle f s h]; exact .refl _
  | some t => rw [cutThen_of_burning f s h]; exact burnCopies_burns _ t _

theorem resetAssert_burns (n : Nat) (s : State) : s.fuses.Burns (resetAssert n s).fuses := by
  unfold resetAssert
  extract_lets r
  split
  · exact cutThen_burns holdReset { s with dev := r.2 }
  · exact .refl _

theorem softReset_burns (w : CsrW) (s : State) : s.fuses.Burns (softReset w s).fuses := by
  unfold softReset
  split
  · exact .refl _
  · extract_lets s1
    split
    · exact cutThen_burns _ s1
    · exact .refl _

theorem loaderFlashWritten_fuses (bs : List Byte) (s : State) : (loaderFlashWritten bs s).fuses = s.fuses := by
  unfold loaderFlashWritten
  split
  · rfl
  · dsimp only
    split <;> rfl

theorem lcBurnDone_burns (s : State) : s.fuses.Burns (lcBurnDone s).fuses := by
  unfold lcBurnDone
  split
  · exact .refl _
  · exact burnCopies_burns 3 _ _

theorem revokeSlot_burns (n : Nat) (f : Fuses) : f.Burns (revokeSlot n f) :=
  .slot f f.lc f.uds n (fun _ => rfl) fun _ => ⟨fun _ => rfl, id⟩

theorem keyRevoke_burns (w : CsrW) (s : State) : s.fuses.Burns (keyRevoke w s).fuses := by
  unfold keyRevoke
  dsimp only
  split
  · exact .refl _
  · split
    · exact .refl _
    · split
      · exact .refl _
      · exact revokeSlot_burns _ _

theorem svnAdvance_burns (w : CsrW) (s : State) : s.fuses.Burns (svnAdvance w s).fuses := by
  unfold svnAdvance
  dsimp only
  split
  · exact .refl _
  · split
    · exact .refl _
    · split
      · next h => exact .svn _ _ h
      · exact .refl _

theorem programSlot_burns (n : Nat) (s : State) : s.fuses.Burns (programSlot n s).fuses := by
  unfold programSlot
  extract_lets ok
  split
  · exact .slot s.fuses s.fuses.lc s.fuses.uds n (fun _ => rfl) fun _ => ⟨id, fun _ => rfl⟩
  · exact .refl _

theorem mbxWrite_burns (w : CsrW) (s : State) : s.fuses.Burns (mbxWrite w s).fuses := by
  unfold mbxWrite
  extract_lets d s1 sp _ _ s3
  split
  · exact .refl _
  · change s.fuses.Burns s3.fuses
    unfold s3
    split
    · change s1.fuses.Burns sp.fuses
      exact programSlot_burns _ s1
    all_goals exact .of_eq rfl

/-! ### The outcome of a step -/

/-- A transition that waits for its occasion burns no more than it does when the occasion comes. -/
theorem ite_burns (b : Bool) (f : State → State) (s : State) (h : s.fuses.Burns (f s).fuses) :
    ∃ t : State, (Host.Outcome.next (if b then f s else s) : Host.Outcome State Fault Refusal) = .next t ∧ s.fuses.Burns t.fuses :=
  ⟨_, rfl, by cases b; exacts [.refl _, h]⟩

/-- A change of the device alone burns nothing. -/
theorem dev_burns (s : State) (d : Dev) :
    ∃ t : State, (Host.Outcome.next { s with dev := d } : Host.Outcome State Fault Refusal) = .next t ∧ s.fuses.Burns t.fuses :=
  ⟨_, rfl, .refl s.fuses⟩

/-- Only the resets and the enclave's burns touch the fuses; every other command changes the device alone, and its outcome shows it. -/
theorem exec_burns (c : Instr) (s : State) : ∃ t : State, exec c s = .next t ∧ s.fuses.Burns t.fuses := by
  cases c
  case resetAssert n => exact ⟨_, rfl, resetAssert_burns n s⟩
  case powerLoss => exact ⟨_, rfl, cutThen_burns powerLoss s⟩
  case softReset w => exact ⟨_, rfl, softReset_burns w s⟩
  case loaderFlashWritten bs => exact ite_burns _ _ s (.of_eq (loaderFlashWritten_fuses bs s))
  case lcBurnDone => exact ite_burns _ _ s (lcBurnDone_burns s)
  case keyRevoke w => exact ite_burns _ _ s (keyRevoke_burns w s)
  case svnAdvance w => exact ite_burns _ _ s (svnAdvance_burns w s)
  case programOwnerSlot w => exact ite_burns _ _ s (mbxWrite_burns w s)
  case supplyLcRecord w => exact ite_burns _ _ s (mbxWrite_burns w s)
  case checkImageRegion w => exact ite_burns _ _ s (mbxWrite_burns w s)
  all_goals exact dev_burns s _

theorem step_burns (s : State) : ∃ t : State, step s = .next t ∧ s.fuses.Burns t.fuses := by
  unfold step
  split
  · exact dev_burns s (tick s.dev)
  · next c rest _ => exact exec_burns c { s with pending := rest }

/-- Settles O3: the fuses after a step are a burn of those before it. -/
theorem fusesOnlyGain : Obligations.FusesOnlyGain := by
  intro s t hf h
  obtain ⟨u, hu, hb⟩ := step_burns s
  cases hu.symm.trans h
  exact hb hf

end Sys2Proof.Machine
end

section
/-! The wipe, the staging buffer and the training of the stacks (O10): R53, R58, R60, R66, R67, R68, R183. -/

namespace Sys2Proof.Machine

theorem not_reading_of_stage {d : Dev} (h2 : stage d ≠ 2) (h3 : stage d ≠ 3) : reading d = false := by simp [reading, h2, h3]

theorem reading_congr {d e : Dev} (h : e.rd R.SEC_BOOT_STATUS = d.rd R.SEC_BOOT_STATUS) : reading e = reading d := by
  have hs : stage e = stage d := congrArg (fun x : Word => bitsOf x.toNat 0 4) h
  rw [reading, reading, hs]

/-! ### The wipe (R65 to R67) -/

theorem stopIfScrapped_other (d : Dev) (h : d.get R.GLB_LC_STATE ≠ 5) : stopIfScrapped d = d := by simp [stopIfScrapped, h]

theorem sramWipeDone_eq (d : Dev) (hrun : d.running = true) (hup : d.boot.enclaveUp = true)
    (hs : d.on R.GLB_WIPE_STATUS_SRAM_DONE = false) (hf : d.on R.GLB_WIPE_STATUS_FAIL = false) (hlc : d.get R.GLB_LC_STATE ≠ 5) :
    sramWipeDone d = { d with commons := [], poison := d.poison.filter (fun e => e.1 != 0) }.set R.GLB_WIPE_STATUS_SRAM_DONE 1 := by
  have hg : (d.running && d.boot.enclaveUp && !d.on R.GLB_WIPE_STATUS_SRAM_DONE && !d.on R.GLB_WIPE_STATUS_FAIL) = true := by
    simp [hrun, hup, hs, hf]
  refine (if_pos hg).trans (stopIfScrapped_other _ ?_)
  rw [Dev.get_set_ne _ _ _ _ (by decide)]
  exact hlc

theorem wipeRes_csr (w : Nat → Bool) (d : Dev) : (wipeRes w d).csr = d.csr := rfl

theorem reservoirWipeDone_eq (fl : Flash) (d : Dev) (hrun : d.running = true) (hw : d.boot.controlWiped = true)
    (hr : d.on R.GLB_WIPE_STATUS_RES_DONE = false) (hf : d.on R.GLB_WIPE_STATUS_FAIL = false) (hlc : d.get R.GLB_LC_STATE ≠ 5) :
    reservoirWipeDone fl d = ((wipeRes (fun a => !inControlPart fl.image a) d).set
      R.GLB_WIPE_STATUS_RES_DONE 1).set R.GLB_WIPE_STATUS_PROGRESS 255 := by
  have hg : (d.running && d.boot.controlWiped && !d.on R.GLB_WIPE_STATUS_RES_DONE && !d.on R.GLB_WIPE_STATUS_FAIL) = true := by
    simp [hrun, hw, hr, hf]
  refine (if_pos hg).trans (stopIfScrapped_other _ ?_)
  rw [Dev.get_set_ne _ _ _ _ (by decide), Dev.get_set_ne _ _ _ _ (by decide), Dev.get_congr (wipeRes_csr _ d)]
  exact hlc

/-- A byte of the reservoir after a part of it has been wiped. -/
theorem wipeRes_readByte (w : Nat → Bool) (d : Dev) (a : Nat) :
    (wipeRes w d).readByte 1 a = if w a then 0 else d.readByte 1 a := by
  refine (SMap.getD_filter d.res (fun k => !w k) a 0).trans ?_
  cases w a <;> rfl

theorem wipeFail_eq (u : Byte) (d : Dev) (hrun : d.running = true) (hup : d.boot.enclaveUp = true)
    (h : d.on R.GLB_WIPE_STATUS_SRAM_DONE = false ∨ d.on R.GLB_WIPE_STATUS_RES_DONE = false) :
    wipeFail u d = enterDefault (16, 0) (raiseFatal blkGlb 5 u.toNat
      ((d.set R.GLB_WIPE_STATUS_FAIL 1).set R.GLB_WIPE_STATUS_UNIT u.toNat)) := by
  have hd : (d.on R.GLB_WIPE_STATUS_SRAM_DONE && d.on R.GLB_WIPE_STATUS_RES_DONE) = false := Bool.and_eq_false_iff.mpr h
  exact if_pos (by rw [hrun, hup, hd]; rfl)

/-! ### The training of the stacks (R58, R183) -/

theorem trainStacks_hbmDone (fit two : BitVec 8) (d : Dev) : (trainStacks fit two d).boot.hbmDone = true := rfl

theorem trainStacks_rd_ne (fit two : BitVec 8) (d : Dev) {a : Nat} (h : a ≠ R.RES_STATUS) : (trainStacks fit two d).rd a = d.rd a := by
  unfold trainStacks
  extract_lets ok bad spared
  rw [Dev.rd_set_ne _ _ _ _ h, Dev.rd_set_ne _ _ _ _ h, Dev.rd_set_ne _ _ _ _ h]
  rfl

/-- TRAINED shows the stacks fitted among those that trained. -/
theorem trainStacks_trained (fit two : BitVec 8) (d : Dev) :
    (trainStacks fit two d).get R.RES_STATUS_TRAINED = (fit.toNat &&& d.get R.GLB_IDENT_FIT_STACKS) % 2 ^ 8 := by
  unfold trainStacks
  extract_lets ok bad spared
  rw [Dev.get_set_apart _ _ _ _ (by decide) (by unfold Fld.apart; decide), Dev.get_set_apart _ _ _ _ (by decide) (by unfold Fld.apart; decide)]
  exact Dev.get_set_same _ _ _ (by decide)

/-- The fitted stacks as the mask of an occasion. -/
theorem fitStacks_toNat (d : Dev) : (BitVec.ofNat 8 (d.get R.GLB_IDENT_FIT_STACKS)).toNat = d.get R.GLB_IDENT_FIT_STACKS := by
  rw [BitVec.toNat_ofNat]
  exact Nat.mod_eq_of_lt (bitsOf_lt _ _ _)

/-- HBM_TRAINED with every fitted stack trained. -/
theorem hbmTrained_eq (two : BitVec 8) (fl : Flash) (d : Dev) (hrun : d.running = true) (hup : d.boot.enclaveUp = true)
    (hh : d.boot.hbmDone = false) :
    hbmTrained (BitVec.ofNat 8 (d.get R.GLB_IDENT_FIT_STACKS)) two fl d =
      let e := trainStacks (BitVec.ofNat 8 (d.get R.GLB_IDENT_FIT_STACKS)) two d
      if reading d then
        match contentErr e fl.image (readAt 6000) with
        | some x => enterDefault x e
        | none => readTo fl.image (readAt 6000) e
      else e := by
  have hfit : (Nat.land (BitVec.ofNat 8 (d.get R.GLB_IDENT_FIT_STACKS)).toNat (d.get R.GLB_IDENT_FIT_STACKS) !=
      d.get R.GLB_IDENT_FIT_STACKS) = false := by
    rw [fitStacks_toNat, bne_eq_false_iff_eq]
    exact Nat.and_self _
  have hread := reading_congr (trainStacks_rd_ne (BitVec.ofNat 8 (d.get R.GLB_IDENT_FIT_STACKS)) two d (a := R.SEC_BOOT_STATUS) (by decide))
  simp only [hbmTrained, hrun, hup, hh, hfit, hread, Bool.and_self, Bool.not_false, if_true, Bool.false_eq_true, if_false]
  cases reading d <;> rfl

/-! ### The staging buffer (R58, R60) -/

/-- Before the control-core partition has been wiped what is read waits, byte for byte. -/
theorem readTo_staged (img : List Byte) (n : Nat) (d : Dev) (hw : d.boot.controlWiped = false) (h : d.boot.flashRead ≤ n)
    (hn : n ≤ imgLen img) :
    readTo img n d = { d with boot := { d.boot with
      flashRead := n, staging := d.boot.staging ++ flashBytes img d.boot.flashRead (n - d.boot.flashRead) } } := by
  have hm : max d.boot.flashRead (min n (imgLen img)) = n := by rw [min_eq_left hn, max_eq_right h]
  unfold readTo
  dsimp only
  rw [hw, hm]
  rfl

theorem wipeProgress_res (d : Dev) : (wipeProgress d).res = d.res := by
  unfold wipeProgress; split <;> rfl

theorem wipeProgress_rd_ne (d : Dev) {a : Nat} (h : a ≠ R.GLB_WIPE_STATUS) : (wipeProgress d).rd a = d.rd a := by
  unfold wipeProgress; split
  · exact Dev.rd_set_ne _ _ _ _ h
  · rfl

/-- CONTROL_PARTITION_WIPED: the partition wiped, then the staging buffer drained where the image is being read. -/
theorem controlPartitionWiped_eq (fl : Flash) (d : Dev) (hrun : d.running = true) (hh : d.boot.hbmDone = true)
    (hw : d.boot.controlWiped = false) :
    controlPartitionWiped fl d =
      let e := wipeProgress (wipeRes (inControlPart fl.image) d)
      if reading d then
        let g := readTo fl.image (readAt 6800) e
        putSections fl.image 0 g.boot.staging { g with boot := { g.boot with controlWiped := true, staging := [] } }
      else { e with boot := { e.boot with controlWiped := true } } := by
  have hread : reading (wipeProgress (wipeRes (inControlPart fl.image) d)) = reading d :=
    reading_congr ((wipeProgress_rd_ne _ (by decide)).trans (Dev.rd_congr (wipeRes_csr _ d) _))
  simp only [controlPartitionWiped, hrun, hh, hw, hread, Bool.and_self, Bool.not_false, if_true]
  cases reading d <;> rfl

theorem controlPartitionWiped_drains (fl : Flash) (d : Dev) (hrun : d.running = true) (hh : d.boot.hbmDone = true)
    (hw : d.boot.controlWiped = false) (hr : reading d = true) :
    (controlPartitionWiped fl d).boot.controlWiped = true ∧ (controlPartitionWiped fl d).boot.staging = [] := by
  rw [controlPartitionWiped_eq fl d hrun hh hw, hr]
  dsimp only
  rw [if_pos rfl, (putSections_memOnly _ _ _ _).boot]
  exact ⟨rfl, rfl⟩

theorem controlPartitionWiped_wipes (fl : Flash) (d : Dev) (hrun : d.running = true) (hh : d.boot.hbmDone = true)
    (hw : d.boot.controlWiped = false) (hr : reading d = false) :
    (controlPartitionWiped fl d).boot.controlWiped = true ∧
      ∀ a, inControlPart fl.image a = true → (controlPartitionWiped fl d).readByte 1 a = 0 := by
  rw [controlPartitionWiped_eq fl d hrun hh hw, hr]
  refine ⟨rfl, fun a ha => ?_⟩
  have hres : (wipeProgress (wipeRes (inControlPart fl.image) d)).readByte 1 a = (wipeRes (inControlPart fl.image) d).readByte 1 a :=
    congrArg (fun m => SMap.getD m a 0) (wipeProgress_res _)
  exact hres.trans ((wipeRes_readByte _ _ _).trans (if_pos ha))

/-- Settles O10. -/
theorem wipe : Obligations.Wipe := by
  refine ⟨?sram, ?trained, ?staged, ?control, ?reservoir, ?bytes, ?fails⟩
  case sram => exact fun s hrun hup hs hf hlc => next_setDev s (sramWipeDone_eq s.dev hrun hup hs hf hlc)
  case trained =>
    intro s two hrun hup hh fit d
    have heq := hbmTrained_eq two s.flash s.dev hrun hup hh
    refine ⟨trainStacks_hbmDone fit two s.dev, ?_, fun a ha => trainStacks_rd_ne fit two s.dev ha, fun h2 h3 => next_setDev s (heq.trans ?_),
      fun hst hc => next_setDev s (heq.trans ?_), fun e hst hc => next_setDev s (heq.trans ?_)⟩
    · refine (trainStacks_trained fit two s.dev).trans ?_
      rw [fitStacks_toNat, Nat.and_self]
      exact Nat.mod_eq_of_lt (bitsOf_lt _ _ _)
    · rw [not_reading_of_stage h2 h3]; rfl
    all_goals rw [reading_of_stage hst]; dsimp only; rw [if_pos rfl, hc]
  case staged =>
    intro img n d hw h hn e
    have he : e = _ := readTo_staged img n d hw h hn
    rw [he]
    exact ⟨rfl, rfl, rfl, rfl⟩
  case control =>
    intro s hrun hh hw
    refine ⟨s.setDev (controlPartitionWiped s.flash s.dev), rfl, ?_, rfl, rfl, fun hst => ?_, fun h2 h3 => ?_⟩
    · cases hr : reading s.dev with
      | true => exact (controlPartitionWiped_drains s.flash s.dev hrun hh hw hr).1
      | false => exact (controlPartitionWiped_wipes s.flash s.dev hrun hh hw hr).1
    · exact (controlPartitionWiped_drains s.flash s.dev hrun hh hw (reading_of_stage hst)).2
    · exact (controlPartitionWiped_wipes s.flash s.dev hrun hh hw (not_reading_of_stage h2 h3)).2
  case reservoir => exact fun s hrun hw hr hf hlc => next_setDev s (reservoirWipeDone_eq s.flash s.dev hrun hw hr hf hlc)
  case bytes => exact fun f d a => ⟨fun h => (wipeRes_readByte f d a).trans (if_pos h), fun h => (wipeRes_readByte f d a).trans (by rw [h]; rfl)⟩
  case fails => exact fun s u hrun hup h => next_setDev s (wipeFail_eq u s.dev hrun hup h)

end Sys2Proof.Machine
end

section
/-! The runtime's start and the loader of the factory default state (O11): R53, R61, R63, R64. -/

namespace Sys2Proof.Machine

/-! ### BOOT_RUN (R61) -/

theorem bootStatus_quiet : ¬ isEvtReg R.SEC_BOOT_STATUS := by unfold isEvtReg; decide

theorem bootRun_stage (w : CsrW) (d : Dev) (hrun : d.running = true) (hw : wOn w R.SEC_BOOT_RUN_RUN = true) (hs : stage d = 4) :
    stage (bootRun w d) = 5 := by
  have hkept : stage (writeOwn RF.SEC_BOOT_RUN R.SEC_BOOT_RUN w d) = 4 :=
    ((writeOwn_writes RF.SEC_BOOT_RUN R.SEC_BOOT_RUN w d).get R.SEC_BOOT_STATUS_STAGE (by decide) bootStatus_quiet).trans hs
  simp only [bootRun, hrun, hw, hkept, Bool.not_true, Bool.false_eq_true, if_false, if_true, beq_self_eq_true]
  exact stage_setStage 5 _ (by decide)

/-! ### The checks of an image that lies whole before the device -/

theorem imageErr_congr {d e : Dev} (hb : e.boot.hbmDone = d.boot.hbmDone) (hu : e.get R.RES_STATUS_USABLE = d.get R.RES_STATUS_USABLE)
    (f : Fuses) (img : List Byte) : imageErr f e img = imageErr f d img := by
  have hc : contentWhole e img = contentWhole d img := by simp only [contentWhole, contentFails, hb, hu]
  simp only [imageErr, hc]

/-! ### LOADER_TFTP_WRITE (R63, R64) -/

/-- Block i of a transfer, counted from 0, is acknowledged. -/
def ackBlock (i : Nat) (d : Dev) : Dev := d.emit (.tftp ([0, 4] ++ beBytes 2 (i + 1)))

/-- The device after it has opened the transfer and acknowledged every block but the last. -/
def tftpAcked (t : TftpPut) (d : Dev) : Dev := Dev.each (List.range (t.blocks.length - 1)) ackBlock (d.emit (.tftp (tftpOpen t)))

theorem tftpAcked_boot (t : TftpPut) (d : Dev) : (tftpAcked t d).boot = d.boot := Dev.each_kept Dev.boot _ ackBlock (fun _ _ => rfl) _

theorem tftpAcked_csr (t : TftpPut) (d : Dev) : (tftpAcked t d).csr = d.csr := Dev.each_csr _ ackBlock (fun _ _ => rfl) _

theorem tftpAcked_imageErr (t : TftpPut) (f : Fuses) (d : Dev) (img : List Byte) : imageErr f (tftpAcked t d) img = imageErr f d img :=
  imageErr_congr (congrArg Boot.hbmDone (tftpAcked_boot t d)) (Dev.get_congr (tftpAcked_csr t d) _) f img

/-- A write request is heard: in the factory default state, after the wipe, with no image taken yet, over port 0 at its own address. -/
def loaderHears (t : TftpPut) (d : Dev) : Bool :=
  d.factory && wipeComplete d && d.boot.loading.isNone && d.on (R.MGT_MP_STAT_UP 0) && t.dst.toNat == linkLocal (d.rd64 (R.MGT_MP_MAC 0))

/-- What the loader does with a request, in the order of its tests. -/
theorem loaderTftpWrite_eq (t : TftpPut) (f : Fuses) (d : Dev) : loaderTftpWrite t f d =
    if !loaderHears t d then d
    else if t.name != "zinel" then d.emit (.tftpError none)
    else if !tftpWhole t then d.emit (.tftp (tftpOpen t))
    else if 124 * 2 ^ 20 < t.blocks.flatten.length then (tftpAcked t d).emit (.tftpError none)
    else match imageErr f (tftpAcked t d) t.blocks.flatten with
      | some e => (tftpAcked t d).emit (.tftpError (some e.1))
      | none => { tftpAcked t d with boot := { (tftpAcked t d).boot with loading := some t.blocks.flatten } }.emit
          (.tftp ([0, 4] ++ beBytes 2 t.blocks.length)) := rfl

theorem loaderTftpWrite_unheard (t : TftpPut) (f : Fuses) (d : Dev) (h : loaderHears t d = false) : loaderTftpWrite t f d = d := by
  rw [loaderTftpWrite_eq, h]; rfl

section
variable (t : TftpPut) (f : Fuses) (d : Dev) (h : loaderHears t d = true)
include h

theorem loaderTftpWrite_otherName (hn : t.name ≠ "zinel") : loaderTftpWrite t f d = d.emit (.tftpError none) := by
  rw [loaderTftpWrite_eq, h]
  exact if_pos (bne_iff_ne.mpr hn)

/-- A whole transfer of the image's file, within its limit, is checked, and answered by what its image fails or taken. -/
theorem loaderTftpWrite_whole (hn : t.name = "zinel") (hw : tftpWhole t = true) (hl : t.blocks.flatten.length ≤ 124 * 2 ^ 20) :
    loaderTftpWrite t f d = match imageErr f d t.blocks.flatten with
      | some e => (tftpAcked t d).emit (.tftpError (some e.1))
      | none => { tftpAcked t d with boot := { d.boot with loading := some t.blocks.flatten } }.emit
          (.tftp ([0, 4] ++ beBytes 2 t.blocks.length)) := by
  have hname : (t.name != "zinel") = false := by rw [hn]; rfl
  rw [loaderTftpWrite_eq, h, hname, hw, if_neg (Nat.not_lt.mpr hl), tftpAcked_imageErr, tftpAcked_boot]
  rfl
end

/-! ### LOADER_FLASH_WRITTEN (R64) -/

/-- The device after a flash write that does not read back: ERR 14 and no section, and no image taken. -/
def flashWriteFailed (d : Dev) : Dev :=
  { (d.set R.SEC_BOOT_STATUS_ERR 14).set R.SEC_BOOT_STATUS_SECT 0 with boot := { d.boot with loading := none } }

section
variable (bs : List Byte) (s : State) {img : List Byte} (h : s.dev.boot.loading = some img)
include h

theorem loaderFlashWritten_right (hh : sha384 (flashBytes bs 128 (sigOff img - 128)) = flashBytes img 32 48) :
    loaderFlashWritten bs s = { s with flash := { s.flash with image := bs }, dev := restart s.fuses 3 0 s.dev } := by
  rw [loaderFlashWritten, h]
  exact if_pos (beq_iff_eq.mpr hh)

theorem loaderFlashWritten_wrong (hh : sha384 (flashBytes bs 128 (sigOff img - 128)) ≠ flashBytes img 32 48) :
    loaderFlashWritten bs s = { s with flash := { s.flash with image := bs }, dev := flashWriteFailed s.dev } := by
  rw [loaderFlashWritten, h]
  exact if_neg (mt beq_iff_eq.mp hh)
end

theorem flashWriteFailed_csr (d : Dev) :
    (flashWriteFailed d).csr = ((d.set R.SEC_BOOT_STATUS_ERR 14).set R.SEC_BOOT_STATUS_SECT 0).csr := rfl

theorem flashWriteFailed_get (d : Dev) (f : Fld) :
    (flashWriteFailed d).get f = ((d.set R.SEC_BOOT_STATUS_ERR 14).set R.SEC_BOOT_STATUS_SECT 0).get f :=
  Dev.get_congr (flashWriteFailed_csr d) f

theorem flashWriteFailed_err (d : Dev) : (flashWriteFailed d).get R.SEC_BOOT_STATUS_ERR = 14 := by
  rw [flashWriteFailed_get, Dev.get_set_apart _ _ _ _ (by decide) (by unfold Fld.apart; decide)]
  exact Dev.get_set_same _ _ _ (by decide)

theorem flashWriteFailed_sect (d : Dev) : (flashWriteFailed d).get R.SEC_BOOT_STATUS_SECT = 0 := by
  rw [flashWriteFailed_get]
  exact Dev.get_set_same _ _ _ (by decide)

theorem flashWriteFailed_stage (d : Dev) : (flashWriteFailed d).get R.SEC_BOOT_STATUS_STAGE = stage d := by
  rw [flashWriteFailed_get, Dev.get_set_apart _ _ _ _ (by decide) (by unfold Fld.apart; decide),
    Dev.get_set_apart _ _ _ _ (by decide) (by unfold Fld.apart; decide), stage]

/-- Settles O11. -/
theorem runAndLoader : Obligations.RunAndLoader := by
  refine ⟨?run, ?takes, ?down, ?written⟩
  case run => exact fun s w hrun hw hs => ⟨s.setDev (bootRun w s.dev), rfl, bootRun_stage w s.dev hrun hw hs⟩
  case takes =>
    intro s x hfac hwipe hload hup hdst
    have hh : loaderHears x s.dev = true := by simp [loaderHears, hfac, hwipe, hload, hup, hdst]
    refine ⟨fun hn => next_setDev s (loaderTftpWrite_otherName x s.fuses s.dev hh hn), fun hn hw hl =>
      ⟨s.setDev (loaderTftpWrite x s.fuses s.dev), rfl, rfl, rfl, ?_⟩⟩
    rw [State.setDev_dev, loaderTftpWrite_whole x s.fuses s.dev hh hn hw hl]
    cases imageErr s.fuses s.dev x.blocks.flatten with
    | none => exact ⟨tftpAcked_csr x s.dev, rfl⟩
    | some e => exact ⟨tftpAcked_csr x s.dev, tftpAcked_boot x s.dev, List.getLast?_concat⟩
  case down =>
    intro s x hup
    exact next_setDev s (loaderTftpWrite_unheard x s.fuses s.dev (by simp [loaderHears, hup]))
  case written =>
    intro s img bs hfac hload
    have hout (u : State) (hu : loaderFlashWritten bs s = u) : exec (.loaderFlashWritten bs) s = .next u :=
      congrArg Host.Outcome.next ((if_pos hfac).trans hu)
    refine ⟨fun hh => hout _ (loaderFlashWritten_right bs s hload hh), fun hh =>
      ⟨_, hout _ (loaderFlashWritten_wrong bs s hload hh), rfl, rfl, flashWriteFailed_err s.dev, flashWriteFailed_sect s.dev,
        flashWriteFailed_stage s.dev⟩⟩

end Sys2Proof.Machine
end

section
/-! Life-cycle requests, key slots, the SVN and the SEC mailbox (O12): R56, R57, R69 to R72, R526. -/

namespace Sys2Proof.Machine

/-! ### The enclave's own registers -/

theorem newNonce_get (d : Dev) (f : Fld) (h0 : f.addr ≠ R.SEC_LC_NONCE 0) (h1 : f.addr ≠ R.SEC_LC_NONCE 1) (h2 : f.addr ≠ R.SEC_LC_NONCE 2) :
    (newNonce d).get f = d.get f := by rw [Dev.get, Dev.get, newNonce_rd d f.addr h0 h1 h2]

/-- An RW field of a register that the image does not load reads back what was written. -/
theorem writeOwn_get_fixed (fs : List FieldDef) (a : Nat) (w : CsrW) (d : Dev) (f : FieldDef) (hi : fs.filter (fun g => g.rst != .image) = fs)
    (ha : ¬ isEvtReg a) (hle : ∀ g ∈ fs, g.lo ≤ g.hi) (hp : fs.Pairwise FieldDef.apart) (hf : f ∈ fs) (hacc : f.acc = .rw)
    (hw : f.lo + f.width ≤ 32) : (writeOwn fs a w d).get ⟨a, f.lo, f.width⟩ = wBits w ⟨a, f.lo, f.width⟩ := by
  have hl : d.liveFields fs = fs := by
    unfold Dev.liveFields
    split
    · rfl
    · exact hi
  exact writeOwn_get_rw fs a w d f ha (hl.symm ▸ hle) (hl.symm ▸ hp) (hl.symm ▸ hf) hacc hw

/-! ### LC_REQUEST (R70 to R72, R526) -/

/-- The device after the access of a write of SEC_LC_REQ. -/
def lcAccessed (w : CsrW) (d : Dev) : Dev := discardHeld w.req R.SEC_LC_REQ (countCsr w.req R.SEC_LC_REQ 1 3 d)

theorem lcAccessed_boot (w : CsrW) (d : Dev) : (lcAccessed w d).boot = d.boot := (countCsr_quiet w.req R.SEC_LC_REQ 1 3 d).boot

theorem lcAccessed_rd (w : CsrW) (d : Dev) (a : Nat) (ha : ¬ isEvtReg a) : (lcAccessed w d).rd a = d.rd a :=
  (countCsr_quiet w.req R.SEC_LC_REQ 1 3 d).rd a ha

theorem nonce_quiet (k : Fin 3) : ¬ isEvtReg (R.SEC_LC_NONCE k.val) := by
  unfold isEvtReg
  revert k
  decide

/-- What a request's authority rests on: the record supplied and the nonce. -/
theorem lcAuthorised_congr {d e : Dev} (hb : e.boot = d.boot) (hn : ∀ k : Fin 3, e.rd (R.SEC_LC_NONCE k.val) = d.rd (R.SEC_LC_NONCE k.val))
    (f : Fuses) (x : Nat) : lcAuthorised f e x = lcAuthorised f d x := by
  have hr (rec : List Byte) (t : Nat) : recordOk f e rec t = recordOk f d rec t := by
    have h0 : e.rd (R.SEC_LC_NONCE 0) = d.rd (R.SEC_LC_NONCE 0) := hn 0
    have h1 : e.rd (R.SEC_LC_NONCE 1) = d.rd (R.SEC_LC_NONCE 1) := hn 1
    have h2 : e.rd (R.SEC_LC_NONCE 2) = d.rd (R.SEC_LC_NONCE 2) := hn 2
    rw [recordOk, recordOk, h0, h1, h2]
  unfold lcAuthorised
  rw [hb]
  simp only [hr]

theorem lcAccessed_authorised (w : CsrW) (f : Fuses) (d : Dev) (x : Nat) : lcAuthorised f (lcAccessed w d) x = lcAuthorised f d x :=
  lcAuthorised_congr (lcAccessed_boot w d) (fun k => lcAccessed_rd w d _ (nonce_quiet k)) f x

theorem lcRequest_eq (w : CsrW) (f : Fuses) (d : Dev) (hrun : d.running = true) : lcRequest w f d =
    if d.boot.pendingLc.isSome then newNonce ((lcAccessed w d).set R.SEC_LC_REQ_RESULT 3)
    else if lcAuthorised f d (wBits w R.SEC_LC_REQ_TARGET) then
      newNonce (({ lcAccessed w d with boot := { (lcAccessed w d).boot with
        pendingLc := some (BitVec.ofNat 3 (wBits w R.SEC_LC_REQ_TARGET)), lcRecord := none } }.set
        R.SEC_LC_REQ_RESULT 1).set R.SEC_LC_REQ_BUSY 1)
    else newNonce ({ lcAccessed w d with boot := { (lcAccessed w d).boot with lcRecord := none } }.set R.SEC_LC_REQ_RESULT 2) := by
  rw [← lcAccessed_authorised w, ← lcAccessed_boot w d]
  simp only [lcRequest, hrun, Bool.not_true, Bool.false_eq_true, if_false]
  rfl

/-- A new nonce leaves the fields of SEC_LC_REQ. -/
theorem newNonce_get_lcReq {d e : Dev} (h : d = newNonce e) (f : Fld) (hf : f.addr = R.SEC_LC_REQ) : d.get f = e.get f := by
  rw [h]
  exact newNonce_get e f (by rw [hf]; decide) (by rw [hf]; decide) (by rw [hf]; decide)

section
variable (w : CsrW) (f : Fuses) (d : Dev) (hrun : d.running = true)
include hrun

theorem lcRequest_pending (hp : d.boot.pendingLc ≠ none) :
    (lcRequest w f d).boot = d.boot ∧ (lcRequest w f d).get R.SEC_LC_REQ_RESULT = 3 := by
  have h := lcRequest_eq w f d hrun
  rw [if_pos (Option.isSome_iff_ne_none.mpr hp)] at h
  refine ⟨?_, (newNonce_get_lcReq h R.SEC_LC_REQ_RESULT rfl).trans ?_⟩
  · rw [h, newNonce_boot, Dev.set_boot, lcAccessed_boot]
  · exact Dev.get_set_same _ _ _ (by decide)

variable (hp : d.boot.pendingLc = none)
include hp

theorem lcRequest_accepted (ha : lcAuthorised f d (wBits w R.SEC_LC_REQ_TARGET) = true) :
    (lcRequest w f d).boot.lcRecord = none ∧
      (lcRequest w f d).boot.pendingLc = some (BitVec.ofNat 3 (wBits w R.SEC_LC_REQ_TARGET)) ∧
      (lcRequest w f d).get R.SEC_LC_REQ_RESULT = 1 ∧ (lcRequest w f d).get R.SEC_LC_REQ_BUSY = 1 := by
  have h := lcRequest_eq w f d hrun
  rw [hp, ha, if_neg (by decide), if_pos rfl] at h
  refine ⟨by rw [h]; rfl, by rw [h]; rfl, (newNonce_get_lcReq h R.SEC_LC_REQ_RESULT rfl).trans ?_, (newNonce_get_lcReq h R.SEC_LC_REQ_BUSY rfl).trans ?_⟩
  · rw [Dev.get_set_apart _ _ _ _ (by decide) (by unfold Fld.apart; decide)]
    exact Dev.get_set_same _ _ _ (by decide)
  · exact Dev.get_set_same _ _ _ (by decide)

theorem lcRequest_refused (ha : lcAuthorised f d (wBits w R.SEC_LC_REQ_TARGET) = false) :
    (lcRequest w f d).boot.lcRecord = none ∧ (lcRequest w f d).boot.pendingLc = none ∧
      (lcRequest w f d).get R.SEC_LC_REQ_RESULT = 2 := by
  have h := lcRequest_eq w f d hrun
  rw [hp, ha, if_neg (by decide), if_neg (by decide)] at h
  refine ⟨by rw [h]; rfl, ?_, (newNonce_get_lcReq h R.SEC_LC_REQ_RESULT rfl).trans (Dev.get_set_same _ _ _ (by decide))⟩
  rw [h]
  exact (congrArg Boot.pendingLc (lcAccessed_boot w d)).trans hp
end

/-- Only the next state, or SCRAPPED, is ever authorised (R70). -/
theorem lcAuthorised_next (f : Fuses) (d : Dev) (x : Nat) (h : lcAuthorised f d x = true) :
    x = (lcState f).toNat + 1 ∧ x ≤ 4 ∨ x = 5 ∧ (lcState f).toNat ≠ 5 := by
  unfold lcAuthorised at h
  dsimp only at h
  split at h
  · next hc => exact .inl ⟨by omega, by decide⟩
  · next hc => exact .inl ⟨by omega, by decide⟩
  · next hc => exact .inl ⟨by omega, by decide⟩
  · next hc => exact .inr ⟨rfl, by omega⟩
  · simp only [Bool.and_eq_true, bne_iff_ne] at h
    exact .inr ⟨rfl, h.1.1.1⟩
  · exact absurd h (by decide)

/-! ### The burn (R72) -/

theorem burnCopies_lc (n : Nat) (x : BitVec 3) (f : Fuses) :
    (burnCopies n x f).lc = (if 1 ≤ n then x else f.lc.1, if 2 ≤ n then x else f.lc.2.1, if 3 ≤ n then x else f.lc.2.2) := by
  unfold burnCopies
  dsimp only
  split <;> rfl

theorem lcState_majority {f : Fuses} {a b c : BitVec 3} (h : f.lc = (a, b, c)) :
    lcState f = if a = b ∨ a = c then a else if b = c then b else a := by rw [lcState, h]

/-- Two of three copies decide. -/
theorem lcState_burnCopies (n : Nat) (x : BitVec 3) (f : Fuses) (h1 : f.lc.1 = f.lc.2.1) (h2 : f.lc.2.1 = f.lc.2.2) :
    lcState (burnCopies n x f) = if 2 ≤ n then x else lcState f := by
  have hold : lcState f = f.lc.1 := if_pos (.inl h1)
  rw [lcState_majority (burnCopies_lc n x f), hold, ← h2, ← h1]
  by_cases hn : 2 ≤ n
  · have hn1 : 1 ≤ n := by omega
    rw [if_pos hn1, if_pos hn, if_pos (.inl rfl)]
  · have hn3 : ¬ 3 ≤ n := by omega
    rw [if_neg hn, if_neg hn3]
    by_cases hn1 : 1 ≤ n
    · rw [if_pos hn1]
      by_cases hx : x = f.lc.1
      · rw [hx, if_pos (.inl rfl)]
      · rw [if_neg (by simp [hx]), if_pos rfl]
    · rw [if_neg hn1, if_pos (.inl rfl)]

/-! ### KEY_REVOKE (R56, R526) -/

/-- The device once a revocation has begun: the register written, GO cleared and a new nonce drawn. -/
def revokeBegun (w : CsrW) (d : Dev) : Dev := newNonce ((writeOwn RF.SEC_KEY_REVOKE R.SEC_KEY_REVOKE w d).set R.SEC_KEY_REVOKE_GO 0)

theorem revokeBegun_boot (w : CsrW) (d : Dev) : (revokeBegun w d).boot = d.boot :=
  (newNonce_boot _).trans ((Dev.set_boot _ _ _).trans (writeOwn_writes _ _ w d).boot)

theorem revokeBegun_get (w : CsrW) (d : Dev) (f : Fld) (hf : f.addr = R.SEC_KEY_REVOKE) :
    (revokeBegun w d).get f = ((writeOwn RF.SEC_KEY_REVOKE R.SEC_KEY_REVOKE w d).set R.SEC_KEY_REVOKE_GO 0).get f :=
  newNonce_get _ f (by rw [hf]; decide) (by rw [hf]; decide) (by rw [hf]; decide)

theorem revokeBegun_go (w : CsrW) (d : Dev) : (revokeBegun w d).get R.SEC_KEY_REVOKE_GO = 0 :=
  (revokeBegun_get w d _ rfl).trans (Dev.get_set_same _ _ _ (by decide))

theorem revokeBegun_slot (w : CsrW) (d : Dev) : (revokeBegun w d).get R.SEC_KEY_REVOKE_SLOT = wBits w R.SEC_KEY_REVOKE_SLOT := by
  rw [revokeBegun_get w d _ rfl, Dev.get_set_apart _ _ _ _ (by decide) (by unfold Fld.apart; decide)]
  exact writeOwn_get_fixed RF.SEC_KEY_REVOKE R.SEC_KEY_REVOKE w d ⟨1, 0, .rw, .val 0⟩ rfl (by unfold isEvtReg; decide) (by decide)
    (by unfold FieldDef.apart; decide) (by decide) rfl (by decide)

/-- A revocation that finds no life-cycle request in progress. -/
theorem keyRevoke_eq (w : CsrW) (s : State) (hp : s.dev.boot.pendingLc = none) (hgo : wOn w R.SEC_KEY_REVOKE_GO = true) :
    keyRevoke w s = if acceptedSlots s.fuses = [wBits w R.SEC_KEY_REVOKE_SLOT]
      then { s with dev := (revokeBegun w s.dev).set R.SEC_KEY_REVOKE_RESULT 2 }
      else { s with
        fuses := revokeSlot (wBits w R.SEC_KEY_REVOKE_SLOT) s.fuses
        dev := (revokeBegun w s.dev).set R.SEC_KEY_REVOKE_RESULT 1 } := by
  have hb : (revokeBegun w s.dev).boot.pendingLc.isSome = false := by rw [revokeBegun_boot, hp]; rfl
  unfold keyRevoke
  dsimp only
  rw [hgo, ← revokeBegun, hb, revokeBegun_slot]
  rfl

theorem revoked_result (w : CsrW) (d : Dev) (v : Nat) (hv : v < 4) :
    ((revokeBegun w d).set R.SEC_KEY_REVOKE_RESULT v).get R.SEC_KEY_REVOKE_RESULT = v :=
  (Dev.get_set_same _ _ _ (by decide)).trans (Nat.mod_eq_of_lt hv)

theorem revoked_go (w : CsrW) (d : Dev) (v : Nat) : ((revokeBegun w d).set R.SEC_KEY_REVOKE_RESULT v).get R.SEC_KEY_REVOKE_GO = 0 :=
  (Dev.get_set_apart _ _ _ _ (by decide) (by unfold Fld.apart; decide)).trans (revokeBegun_go w d)

/-! ### SVN_ADVANCE (R57, R526) -/

/-- The device once an advance has begun: the register written, GO cleared and a new nonce drawn. -/
def advanceBegun (w : CsrW) (d : Dev) : Dev := newNonce ((writeOwn RF.SEC_SVN_ADV R.SEC_SVN_ADV w d).set R.SEC_SVN_ADV_GO 0)

theorem advanceBegun_boot (w : CsrW) (d : Dev) : (advanceBegun w d).boot = d.boot :=
  (newNonce_boot _).trans ((Dev.set_boot _ _ _).trans (writeOwn_writes _ _ w d).boot)

theorem advanceBegun_get (w : CsrW) (d : Dev) (f : Fld) (h0 : f.addr ≠ R.SEC_LC_NONCE 0) (h1 : f.addr ≠ R.SEC_LC_NONCE 1)
    (h2 : f.addr ≠ R.SEC_LC_NONCE 2) :
    (advanceBegun w d).get f = ((writeOwn RF.SEC_SVN_ADV R.SEC_SVN_ADV w d).set R.SEC_SVN_ADV_GO 0).get f := newNonce_get _ f h0 h1 h2

theorem advanceBegun_go (w : CsrW) (d : Dev) : (advanceBegun w d).get R.SEC_SVN_ADV_GO = 0 :=
  (advanceBegun_get w d _ (by decide) (by decide) (by decide)).trans (Dev.get_set_same _ _ _ (by decide))

theorem advanceBegun_svn (w : CsrW) (d : Dev) : (advanceBegun w d).get R.SEC_SVN_ADV_SVN = wBits w R.SEC_SVN_ADV_SVN := by
  rw [advanceBegun_get w d _ (by decide) (by decide) (by decide), Dev.get_set_apart _ _ _ _ (by decide) (by unfold Fld.apart; decide)]
  exact writeOwn_get_fixed RF.SEC_SVN_ADV R.SEC_SVN_ADV w d ⟨6, 0, .rw, .val 0⟩ rfl (by unfold isEvtReg; decide) (by decide)
    (by unfold FieldDef.apart; decide) (by decide) rfl (by decide)

theorem advanceBegun_running (w : CsrW) (d : Dev) : (advanceBegun w d).get R.SEC_BOOT_STATUS_SVN = d.get R.SEC_BOOT_STATUS_SVN := by
  rw [advanceBegun_get w d _ (by decide) (by decide) (by decide), Dev.get_set_ne _ _ _ _ (by decide)]
  exact (writeOwn_writes _ _ w d).get _ (by decide) bootStatus_quiet

/-- SEC_SVN_ADV after an advance that burned up to n bits. -/
def advanced (w : CsrW) (n : Nat) (d : Dev) : Dev := ((advanceBegun w d).set R.SEC_SVN_ADV_FUSED n).set R.SEC_SVN_ADV_RESULT 1

theorem svnAdvance_eq (w : CsrW) (s : State) (hp : s.dev.boot.pendingLc = none) (hgo : wOn w R.SEC_SVN_ADV_GO = true)
    (h : s.fuses.svn < min (wBits w R.SEC_SVN_ADV_SVN) (s.dev.get R.SEC_BOOT_STATUS_SVN)) :
    svnAdvance w s = { s with
      fuses := { s.fuses with svn := min 64 (min (wBits w R.SEC_SVN_ADV_SVN) (s.dev.get R.SEC_BOOT_STATUS_SVN)) }
      dev := advanced w (min 64 (min (wBits w R.SEC_SVN_ADV_SVN) (s.dev.get R.SEC_BOOT_STATUS_SVN))) s.dev } := by
  have hb : (advanceBegun w s.dev).boot.pendingLc.isSome = false := by rw [advanceBegun_boot, hp]; rfl
  unfold svnAdvance
  dsimp only
  rw [hgo, ← advanceBegun, hb, advanceBegun_svn, advanceBegun_running, if_neg (by decide), if_neg (by decide), if_pos h]
  rfl

theorem advanced_result (w : CsrW) (n : Nat) (d : Dev) : (advanced w n d).get R.SEC_SVN_ADV_RESULT = 1 := Dev.get_set_same _ _ _ (by decide)

theorem advanced_go (w : CsrW) (n : Nat) (d : Dev) : (advanced w n d).get R.SEC_SVN_ADV_GO = 0 := by
  rw [advanced, Dev.get_set_apart _ _ _ _ (by decide) (by unfold Fld.apart; decide),
    Dev.get_set_apart _ _ _ _ (by decide) (by unfold Fld.apart; decide), advanceBegun_go]

/-! ### The mailbox (R56, R71, R526) -/

/-- The device once a mailbox command has begun: the register written and GO cleared. -/
def mbxBegun (w : CsrW) (d : Dev) : Dev := (writeOwn RF.SEC_MBX_CTL R.SEC_MBX_CTL w d).set R.SEC_MBX_CTL_GO 0

theorem mbxBegun_boot (w : CsrW) (d : Dev) : (mbxBegun w d).boot = d.boot :=
  (Dev.set_boot _ _ _).trans (writeOwn_writes _ _ w d).boot

theorem mbxBegun_rd (w : CsrW) (d : Dev) {a : Nat} (ha : a ≠ R.SEC_MBX_CTL) (he : ¬ isEvtReg a) : (mbxBegun w d).rd a = d.rd a :=
  (Dev.rd_set_ne _ _ _ _ ha).trans ((writeOwn_writes _ _ w d).rd a ha he)

theorem mbx_ge (k : Nat) : 0x02001000 ≤ R.SEC_MBX k := Nat.le_add_right _ _

theorem mbxBegun_bytes (w : CsrW) (d : Dev) : mbxBytes (mbxBegun w d) = mbxBytes d := by
  have hrd (k : Nat) : (mbxBegun w d).rd (R.SEC_MBX k) = d.rd (R.SEC_MBX k) :=
    mbxBegun_rd w d (lt_of_lt_of_le (by decide) (mbx_ge k)).ne' (not_isEvtReg_of_lt (lt_of_lt_of_le (by decide) (mbx_ge k)))
  simp only [mbxBytes, hrd]

theorem mbxBegun_imageErr (w : CsrW) (f : Fuses) (d : Dev) (img : List Byte) : imageErr f (mbxBegun w d) img = imageErr f d img := by
  refine imageErr_congr (congrArg Boot.hbmDone (mbxBegun_boot w d)) ?_ f img
  exact congrArg (fun x : Word => bitsOf x.toNat 0 10) (mbxBegun_rd w d (a := R.RES_STATUS) (by decide) (by unfold isEvtReg; decide))

theorem writeOwn_mbxCmd (w : CsrW) (d : Dev) : (writeOwn RF.SEC_MBX_CTL R.SEC_MBX_CTL w d).get R.SEC_MBX_CTL_CMD = wBits w R.SEC_MBX_CTL_CMD :=
  writeOwn_get_fixed RF.SEC_MBX_CTL R.SEC_MBX_CTL w d ⟨7, 0, .rw, .val 0⟩ rfl (by unfold isEvtReg; decide) (by decide)
    (by unfold FieldDef.apart; decide) (by decide) rfl (by decide)

theorem writeOwn_mbxSlot (w : CsrW) (d : Dev) :
    (writeOwn RF.SEC_MBX_CTL R.SEC_MBX_CTL w d).get R.SEC_MBX_CTL_SLOT = wBits w R.SEC_MBX_CTL_SLOT :=
  writeOwn_get_fixed RF.SEC_MBX_CTL R.SEC_MBX_CTL w d ⟨9, 8, .rw, .val 0⟩ rfl (by unfold isEvtReg; decide) (by decide)
    (by unfold FieldDef.apart; decide) (by decide) rfl (by decide)

/-- A word after the mailbox has been cleared. -/
theorem clearMbx_rd (d : Dev) (a : Nat) :
    (clearMbx d).rd a = if decide (a < R.SEC_MBX 0) || decide (R.SEC_MBX 1024 ≤ a) then d.rd a else 0 :=
  SMap.getD_filter d.csr (fun k => decide (k < R.SEC_MBX 0) || decide (R.SEC_MBX 1024 ≤ k)) a 0

theorem clearMbx_word (d : Dev) : (clearMbx d).rd (R.SEC_MBX 0) = 0 := (clearMbx_rd d _).trans (if_neg (by decide))

theorem clearMbx_ctl (d : Dev) : (clearMbx d).get R.SEC_MBX_CTL_ERR = d.get R.SEC_MBX_CTL_ERR :=
  congrArg (fun x : Word => bitsOf x.toNat 24 8) ((clearMbx_rd d R.SEC_MBX_CTL).trans (if_pos (by decide)))

theorem clearMbx_boot (d : Dev) : (clearMbx d).boot = d.boot := rfl

/-- The device after mailbox command 2: the record taken and the mailbox cleared. -/
def recordTaken (w : CsrW) (d : Dev) : Dev :=
  clearMbx ({ mbxBegun w d with boot := { d.boot with lcRecord := some (mbxBytes d) } }.set R.SEC_MBX_CTL_ERR 0)

theorem recordTaken_boot (w : CsrW) (d : Dev) : (recordTaken w d).boot = { d.boot with lcRecord := some (mbxBytes d) } := by
  rw [recordTaken, clearMbx_boot, Dev.set_boot]

theorem recordTaken_err (w : CsrW) (d : Dev) : (recordTaken w d).get R.SEC_MBX_CTL_ERR = 0 :=
  (clearMbx_ctl _).trans (Dev.get_set_same _ _ _ (by decide))

theorem recordTaken_word (w : CsrW) (d : Dev) : (recordTaken w d).rd (R.SEC_MBX 0) = 0 := clearMbx_word _

/-- The code that mailbox command 3 shows for a check: 0 where nothing fails. -/
def checkCode : Option BootErr → Nat
  | none => 0
  | some e => e.1

/-- The device after mailbox command 3: ERR shows what the flash image fails, 0 for nothing. -/
def checkShown (w : CsrW) (e : Option BootErr) (d : Dev) : Dev :=
  clearMbx ((mbxBegun w d).set R.SEC_MBX_CTL_ERR (checkCode e))

theorem checkShown_boot (w : CsrW) (e : Option BootErr) (d : Dev) : (checkShown w e d).boot = d.boot := by
  rw [checkShown, clearMbx_boot, Dev.set_boot, mbxBegun_boot]

theorem checkShown_err (w : CsrW) (e : Option BootErr) (d : Dev) :
    (checkShown w e d).get R.SEC_MBX_CTL_ERR = checkCode e % 256 := (clearMbx_ctl _).trans (Dev.get_set_same _ _ _ (by decide))

theorem checkShown_word (w : CsrW) (e : Option BootErr) (d : Dev) : (checkShown w e d).rd (R.SEC_MBX 0) = 0 := clearMbx_word _

section
variable (w : CsrW) (s : State) (hgo : wOn w R.SEC_MBX_CTL_GO = true)
include hgo

theorem mbxWrite_program (hc : wBits w R.SEC_MBX_CTL_CMD = 1) :
    mbxWrite w s = let u := programSlot (wBits w R.SEC_MBX_CTL_SLOT) { s with dev := mbxBegun w s.dev }
      { u with dev := clearMbx (newNonce u.dev) } := by
  rw [mbxWrite, hgo, writeOwn_mbxCmd, hc, writeOwn_mbxSlot]
  rfl

theorem mbxWrite_record (hc : wBits w R.SEC_MBX_CTL_CMD = 2) :
    mbxWrite w s = s.setDev (recordTaken w s.dev) := by
  rw [recordTaken, ← mbxBegun_boot w s.dev, ← mbxBegun_bytes w s.dev, mbxWrite, hgo, writeOwn_mbxCmd, hc]
  rfl

theorem mbxWrite_check (hc : wBits w R.SEC_MBX_CTL_CMD = 3) :
    mbxWrite w s = s.setDev (checkShown w (imageErr s.fuses s.dev s.flash.image) s.dev) := by
  have h : mbxWrite w s = s.setDev (clearMbx ((mbxBegun w s.dev).set R.SEC_MBX_CTL_ERR
      (match imageErr s.fuses (mbxBegun w s.dev) s.flash.image with | some e => e.1 | none => 0))) := by
    rw [mbxWrite, hgo, writeOwn_mbxCmd, hc]
    rfl
  rw [h, mbxBegun_imageErr, checkShown]
  cases imageErr s.fuses s.dev s.flash.image <;> rfl
end

/-- Mailbox command 1 on an owner slot that is neither programmed nor revoked, in PROVISIONED with nothing burning (R56). -/
theorem programSlot_programs (n : Nat) (s : State) {k : KeySlot} (hn : n ≠ 0) (hlc : (lcState s.fuses).toNat = 2)
    (hp : s.dev.boot.pendingLc = none) (hk : s.fuses.slots[n]? = some k) (hpr : k.programmed = false) (hrv : k.revoked = false) :
    (programSlot n s).fuses.slots[n]? = some ⟨(mbxBytes s.dev).take 48, slice (mbxBytes s.dev) 48 48, true, k.revoked⟩ ∧
      (programSlot n s).flash = s.flash := by
  unfold programSlot
  extract_lets ok b
  have hok : ok = true := by simp [ok, hk, hlc, hn, hp, hpr, hrv]
  rw [if_pos hok]
  refine ⟨?_, rfl⟩
  show (s.fuses.slots.modify n _)[n]? = _
  rw [List.getElem?_modify, hk]
  exact congrArg some (if_pos rfl)

/-- The outcome of a transition that waits for the device to run. -/
theorem next_ifRunning (f : State → State) (s : State) {t : State} (hrun : s.dev.running = true) (h : f s = t) :
    (.next (if s.dev.running then f s else s) : Host.Outcome State Fault Refusal) = .next t := by rw [hrun, if_pos rfl, h]

/-- Settles O12. -/
theorem lifeCycle : Obligations.LifeCycle := by
  refine ⟨?request, ?pending, lcAuthorised_next, ?burns, lcState_burnCopies, ?revokes, ?lastSlot, ?advances, ?programs, ?record, ?checks⟩
  case request =>
    intro s w hrun hp
    have haccepted := lcRequest_accepted w s.fuses s.dev hrun hp
    have hrefused := lcRequest_refused w s.fuses s.dev hrun hp
    refine ⟨s.setDev (lcRequest w s.fuses s.dev), rfl, rfl, rfl, ?_, fun ha => (haccepted ha).2, fun ha => (hrefused ha).2⟩
    cases ha : lcAuthorised s.fuses s.dev (wBits w R.SEC_LC_REQ_TARGET) with
    | true => exact (haccepted ha).1
    | false => exact (hrefused ha).1
  case pending => exact fun s w hrun hp => ⟨s.setDev (lcRequest w s.fuses s.dev), rfl, rfl, lcRequest_pending w s.fuses s.dev hrun hp⟩
  case burns =>
    intro s x hrun hp
    refine ⟨next_ifRunning lcBurnDone s hrun ?_, burnCopies_lc 3 x s.fuses⟩
    rw [lcBurnDone, hp]
  case revokes =>
    intro s w hrun hp hgo h
    have heq := next_ifRunning (keyRevoke w) s hrun ((keyRevoke_eq w s hp hgo).trans (if_neg h))
    exact ⟨_, heq, rfl, rfl, revoked_result w s.dev 1 (by decide), revoked_go w s.dev 1⟩
  case lastSlot =>
    intro s w hrun hp hgo h
    have heq := next_ifRunning (keyRevoke w) s hrun ((keyRevoke_eq w s hp hgo).trans (if_pos h))
    exact ⟨_, heq, rfl, revoked_result w s.dev 2 (by decide)⟩
  case advances =>
    intro s w hrun hp hgo _ h
    have heq := next_ifRunning (svnAdvance w) s hrun (svnAdvance_eq w s hp hgo h)
    exact ⟨_, heq, rfl, rfl, advanced_result w _ s.dev, advanced_go w _ s.dev⟩
  case programs =>
    intro s w k hrun hp hgo hc hn hlc hk hpr hrv
    have heq := next_ifRunning (mbxWrite w) s hrun (mbxWrite_program w s hgo hc)
    obtain ⟨hslot, hflash⟩ := programSlot_programs (wBits w R.SEC_MBX_CTL_SLOT) { s with dev := mbxBegun w s.dev } hn hlc
      ((congrArg Boot.pendingLc (mbxBegun_boot w s.dev)).trans hp) hk hpr hrv
    rw [mbxBegun_bytes] at hslot
    exact ⟨_, heq, hflash, hslot, clearMbx_word _⟩
  case record =>
    intro s w hrun hgo hc
    exact ⟨_, next_ifRunning (mbxWrite w) s hrun (mbxWrite_record w s hgo hc), rfl, recordTaken_boot w s.dev, recordTaken_err w s.dev,
      recordTaken_word w s.dev⟩
  case checks =>
    intro s w hrun hgo hc
    refine ⟨_, next_ifRunning (mbxWrite w) s hrun (mbxWrite_check w s hgo hc), rfl, rfl, checkShown_boot w _ s.dev, ?_, checkShown_word w _ s.dev⟩
    refine (checkShown_err w _ s.dev).trans ?_
    cases imageErr s.fuses s.dev s.flash.image <;> rfl

end Sys2Proof.Machine
end

section
/-! The SPDM responder (O13): R73 to R76. -/

namespace Sys2Proof.Machine

/-! ### How a request is served (R74) -/

section
variable (v : SpdmVia) (req : List Byte) (f : Dev → List Byte × Dev) (d : Dev)

theorem serve_unreached (h : answers d = false ∨ viaUp v d = false) : serve v req f d = d := by
  have hd : (answers d && viaUp v d) = false := Bool.and_eq_false_iff.mpr h
  exact if_pos (congrArg (! ·) hd)

theorem serve_outside (hs : v.secured ≠ []) (hp : d.spdm.phase ≠ .session) : serve v req f d = d := by
  unfold serve
  rw [if_neg hs]
  split
  · rfl
  · exact if_neg (by simp [hp])

variable (ha : answers d = true) (hu : viaUp v d = true)
include ha hu

theorem serve_reached : serve v req f d =
    if v.secured = [] then answerClear v req (f d).1 (f d).2
    else if d.spdm.phase == .session &&
        openMsg (sessionSecret d 0 32) (sessionSecret d 32 12) d.spdm.taken v.secured == some ([5] ++ req) then
      answerSealed v (f d).1 (f d).2
    else d := if_neg (by rw [ha, hu]; decide)

theorem serve_clear (hs : v.secured = []) : serve v req f d = answerClear v req (f d).1 (f d).2 :=
  (serve_reached v req f d ha hu).trans (if_pos hs)

theorem serve_sealed (hs : v.secured ≠ []) (hp : d.spdm.phase = .session)
    (ho : openMsg (sessionSecret d 0 32) (sessionSecret d 32 12) d.spdm.taken v.secured = some ([5] ++ req)) :
    serve v req f d = answerSealed v (f d).1 (f d).2 :=
  (serve_reached v req f d ha hu).trans ((if_neg hs).trans (if_pos (by rw [hp, ho]; simp)))

/-- A request in the clear is answered by what it does. -/
theorem serve_answer (hs : v.secured = []) {rsp : List Byte} {e : Dev} (hf : f d = (rsp, e)) : serve v req f d = answerClear v req rsp e := by
  rw [serve_clear v req f d ha hu hs, hf]
end

/-! ### What requests need (R75) -/

theorem withIdentity_none (f : Dev → List Byte × Dev) (d : Dev) (h : noIdentity d = true) :
    withIdentity f d = (spdmError spdmUnsupported, d) := if_pos h

theorem withIdentity_served (f : Dev → List Byte × Dev) (d : Dev) (h : noIdentity d = false) (hn : afterNegotiation d = true) :
    withIdentity f d = f d := by simp [withIdentity, h, hn]

theorem onSlot_zero (f : Dev → List Byte × Dev) (d : Dev) (h : noIdentity d = false) (hn : afterNegotiation d = true) :
    onSlot 0 f d = f d := (withIdentity_served _ d h hn).trans (if_pos rfl)

theorem onSlot_other {k : Fin 8} (hk : k ≠ 0) (f : Dev → List Byte × Dev) (d : Dev) (h : noIdentity d = false) (hn : afterNegotiation d = true) :
    onSlot k f d = (spdmError spdmInvalid, d) := (withIdentity_served _ d h hn).trans (if_neg hk)

theorem afterNegotiation_handshake {d : Dev} (h : d.spdm.phase = .handshake) : afterNegotiation d = true := by rw [afterNegotiation, h]; rfl

theorem measurementBlocks_one (f : Fuses) {i : Nat} (d : Dev) (h : 1 ≤ i) (h' : i ≤ 9) :
    measurementBlocks f i d = some [measurementBlock f i d] := by
  have h0 : i ≠ 0 := by omega
  have h255 : i ≠ 255 := by omega
  rw [measurementBlocks, if_neg h0, if_neg h255, if_pos h']

/-! ### The requests in the clear -/

section
variable (v : SpdmVia) (d : Dev) (ha : answers d = true) (hu : viaUp v d = true) (hs : v.secured = [])
include ha hu hs

theorem getVersion_eq : getVersion v d = answerClear v [0x10, 0x84, 0, 0] [0x10, 0x04, 0, 0, 0, 1, 0, 0x13]
    { d with spdm := { Spdm.init with phase := .versioned } } := by
  have hg : (answers d && viaUp v d && v.secured == []) = true := by rw [ha, hu, hs]; rfl
  rw [getVersion, hg, if_pos rfl]
  exact serve_answer v _ _ { d with spdm := .init } ha hu hs rfl

theorem getCapabilities_eq (hp : d.spdm.phase ≠ .idle) : getCapabilities v d = answerClear v (spdmMsg 0xE1 0 0 [])
    (spdmMsg 0x61 0 0 ([0, Config.spdmLimits.1, 0, 0] ++ leBytes 4 (spdmFlags d) ++ leBytes 4 Config.spdmLimits.2 ++
      leBytes 4 Config.spdmLimits.2)) (d.phase .capable) :=
  serve_answer v _ _ d ha hu hs (if_neg (mt beq_iff_eq.mp hp))

theorem negotiateAlgorithms_eq (hp : d.spdm.phase = .capable) :
    negotiateAlgorithms v d = answerClear v (spdmMsg 0xE3 0 0 []) (spdmMsg 0x63 1 0 algorithmsRest) (d.phase .negotiated) :=
  serve_answer v _ _ d ha hu hs (if_neg (by rw [hp]; decide))

theorem getDigests_noIdentity (identity : List Byte) (hi : noIdentity d = true) :
    getDigests v identity d = answerClear v (spdmMsg 0x81 0 0 []) (spdmError spdmUnsupported) d :=
  serve_answer v _ _ d ha hu hs (withIdentity_none _ d hi)

/-- A measurement without a signature. -/
theorem getMeasurements_eq (i : Byte) (f : Fuses) (hn : afterNegotiation d = true) (h : 1 ≤ i.toNat) (h' : i.toNat ≤ 9) :
    getMeasurements v i false [] f d = answerClear v (spdmMsg 0xE0 0 i [])
      (spdmMsg 0x60 0 0 ([1] ++ leBytes 3 (measurementBlock f i.toNat d).length ++ measurementBlock f i.toNat d ++ (freeNonce d).1 ++ [0, 0]))
      (freeNonce d).2 := by
  have h0 : i ≠ 0 := by rintro rfl; exact absurd h (by decide)
  have hone : leBytes 1 [measurementBlock f i.toNat d].length = [1] := by rw [List.length_singleton]; decide
  have hflat : [measurementBlock f i.toNat d].flatten = measurementBlock f i.toNat d := by simp
  unfold getMeasurements
  dsimp only
  rw [serve_clear v _ _ d ha hu hs, hn, measurementBlocks_one f d h h', if_neg h0]
  simp only [hflat, hone, Bool.false_and, Bool.not_true, Bool.false_eq_true, if_false]

variable (hi : noIdentity d = false)
include hi

section
variable (identity : List Byte) (hn : afterNegotiation d = true)
include hn

theorem getDigests_eq : getDigests v identity d =
    answerClear v (spdmMsg 0x81 0 0 []) (spdmMsg 0x01 1 1 (sha384 (certChain identity d))) d :=
  serve_answer v _ _ d ha hu hs (withIdentity_served _ d hi hn)

theorem getCertificate_eq (off len : BitVec 16) (h : off.toNat ≤ (certChain identity d).length) : getCertificate v 0 off len identity d =
    answerClear v (spdmMsg 0x82 0 0 (leBytes 2 off.toNat ++ leBytes 2 len.toNat))
      (spdmMsg 0x02 0 0 (certPortion (certChain identity d) off.toNat len.toNat)) d :=
  serve_answer v _ _ d ha hu hs ((onSlot_zero _ d hi hn).trans (if_neg (Nat.not_lt.mpr h)))

theorem getCertificate_otherSlot {k : Fin 8} (hk : k ≠ 0) (off len : BitVec 16) : getCertificate v k off len identity d =
    answerClear v (spdmMsg 0x82 (BitVec.ofNat 8 k.val) 0 (leBytes 2 off.toNat ++ leBytes 2 len.toNat)) (spdmError spdmInvalid) d :=
  serve_answer v _ _ d ha hu hs (onSlot_other hk _ d hi hn)

theorem challenge_eq (nonce : List Byte) (f : Fuses) : challenge v 0 nonce identity f d =
    let r := signedBy f (spdmMsg 0x83 0 0 nonce) (spdmMsg 0x03 0 1 (sha384 (certChain identity d) ++ (freeNonce d).1 ++ [0, 0])) (freeNonce d).2
    answerClear v (spdmMsg 0x83 0 0 nonce) r.1 r.2 :=
  serve_answer v _ _ d ha hu hs (onSlot_zero _ d hi hn)

theorem keyExchange_eq (nonce : List Byte) (f : Fuses) : keyExchange v 0 nonce identity f d =
    let req := spdmMsg 0xE4 0 0 nonce
    let r := signedBy f req (spdmMsg 0x64 0 0 (sha384 (certChain identity d) ++ (freeNonce d).1 ++ [0, 0])) (freeNonce d).2
    answerClear v req r.1 { r.2 with
      spdm := ⟨.handshake, r.2.spdm.transcript, Config.spdmSecrets (r.2.spdm.transcript ++ req ++ r.1), 0, 0⟩ } :=
  serve_answer v _ _ d ha hu hs (onSlot_zero _ d hi hn)
end

/-- FINISH in the handshake: the proof decides. -/
theorem finishCmd_eq (proof : List Byte) (hp : d.spdm.phase = .handshake) : finishCmd v proof d =
    if proof = hmac384 (sessionSecret d 88 48) (sha384 d.spdm.transcript)
    then answerClear v (spdmMsg 0xE5 0 0 proof) (spdmMsg 0x65 0 0 []) (d.phase .session)
    else answerClear v (spdmMsg 0xE5 0 0 proof) (spdmError spdmDecrypt) (d.phase .negotiated) := by
  have hphase : (d.spdm.phase != .handshake) = false := by rw [hp]; decide
  rw [finishCmd, serve_clear v _ _ d ha hu hs, withIdentity_served _ d hi (afterNegotiation_handshake hp), hphase,
    if_neg Bool.false_ne_true]
  split <;> rfl
end

/-- Settles O13. -/
theorem attestation : Obligations.Attestation := by
  refine ⟨fun v req f d => ⟨serve_unreached v req f d, serve_clear v req f d, serve_sealed v req f d, serve_outside v req f d⟩,
    ?opens, ?identity, ?measures, ?finishes, ?test⟩
  case opens =>
    intro s v ha hu hs
    exact ⟨next_setDev s (getVersion_eq v s.dev ha hu hs), fun hp => next_setDev s (getCapabilities_eq v s.dev ha hu hs hp),
      fun hp => next_setDev s (negotiateAlgorithms_eq v s.dev ha hu hs hp)⟩
  case identity =>
    intro s v ha hu hs hi hn chain
    exact ⟨next_setDev s (getDigests_eq v s.dev ha hu hs hi _ hn),
      fun off len h => next_setDev s (getCertificate_eq v s.dev ha hu hs hi _ hn off len h),
      fun k off len hk => next_setDev s (getCertificate_otherSlot v s.dev ha hu hs hi _ hn hk off len),
      fun nonce => next_setDev s (challenge_eq v s.dev ha hu hs hi _ hn nonce s.fuses),
      fun nonce => next_setDev s (keyExchange_eq v s.dev ha hu hs hi _ hn nonce s.fuses)⟩
  case measures => exact fun s v i ha hu hs hn h h' => next_setDev s (getMeasurements_eq v s.dev ha hu hs i s.fuses hn h h')
  case finishes =>
    intro s v proof ha hu hs hi hp
    have heq := finishCmd_eq v s.dev ha hu hs hi proof hp
    exact ⟨fun h => next_setDev s (heq.trans (if_pos h)), fun h => next_setDev s (heq.trans (if_neg h))⟩
  case test => exact fun s v ha hu hs hi => next_setDev s (getDigests_noIdentity v s.dev ha hu hs _ hi)

end Sys2Proof.Machine
end

section
/-! JTAG, management ports, the PCIe endpoint and the control cores' accesses (O58): R63, R445, R482, R494, R506 to R509, R511, R518, R520. -/

namespace Sys2Proof.Machine

/-! ### JTAG (R494, R511) -/

theorem jtagLoad_taken (code : Nat) (f : Dev → Dev) (d : Dev) (hp : d.power ≠ .off) (hx : d.ras.extest = false)
    (hlc : lcOf d ≠ 5 ∨ code = 1) : jtagLoad code f d = f { d with ras := { d.ras with jtag := code } } := by
  refine if_neg ?_
  rcases hlc with h | h <;> simp [hp, hx, h]

/-- The lower bits of IDCODE are free. -/
theorem idcode_outbox (f : Fuses) (d : Dev) : (idcode f d).outbox = d.outbox ++ [.jtag (f.stepping.toNat / 16 % 16 * 2 ^ 28 +
    (0x9000 + f.part.toNat) * 2 ^ 12 + d.draw.1.toNat % 4096)] := rfl

/-- What EXTEST does to one port. -/
def extestPort (p : Nat) (d : Dev) : Dev := showStage p 8 (takeDown p d)

theorem extestRuns_csr (d : Dev) : (extestRuns d).csr = (Dev.each d.ports extestPort d).csr := rfl

theorem pstat_injective {p q : Nat} (h : p ≠ q) : R.PORT_PSTAT p ≠ R.PORT_PSTAT q := by
  unfold R.PORT_PSTAT
  omega

/-- A port that goes down leaves the others as they are. -/
theorem takeDown_isUp_ne (p : PortNo) (q : Nat) (d : Dev) (h : p.val ≠ q) : (takeDown q d).isUp p.val = d.isUp p.val := by
  have hp := p.isLt
  have hlt : R.PORT_PSTAT p.val < belowCistern := by unfold R.PORT_PSTAT belowCistern; omega
  have hn : ¬ isEvtReg (R.PORT_PSTAT p.val) := not_isEvtReg_of_lt (lt_of_lt_of_le (by decide) (pstat_ge p.val))
  have hset : ((d.set (R.PORT_PSTAT_UP q) 0).set (R.PORT_PSTAT_DOWNEVT q) 1).get (R.PORT_PSTAT_UP p.val) = d.get (R.PORT_PSTAT_UP p.val) :=
    (Dev.get_set_ne _ _ _ _ (pstat_injective h)).trans (Dev.get_set_ne _ _ _ _ (pstat_injective h))
  unfold takeDown
  split
  · exact congrArg (· == 1) (((linkDown_keeps q d).get (R.PORT_PSTAT_UP p.val) hlt hn).trans hset)
  · rfl

theorem extestPort_isUp (p : PortNo) (q : Nat) (d : Dev) (h : p.val = q ∨ d.isUp p.val = false) : (extestPort q d).isUp p.val = false := by
  by_cases hq : p.val = q
  · subst hq
    exact (showStage_isUp p.val 8 _).trans (takeDown_isUp p d)
  · have hshow : (extestPort q d).isUp p.val = (takeDown q d).isUp p.val :=
      congrArg (· == 1) (showStage_get_ne q 8 (takeDown q d) (R.PORT_PSTAT_UP p.val) (pstat_injective hq))
    exact hshow.trans ((takeDown_isUp_ne p q d hq).trans (h.resolve_left hq))

theorem each_extestPort_isUp (p : PortNo) (l : List Nat) (d : Dev) (h : p.val ∈ l ∨ d.isUp p.val = false) :
    (Dev.each l extestPort d).isUp p.val = false := by
  induction l generalizing d with
  | nil => exact h.resolve_left List.not_mem_nil
  | cons q t ih =>
    refine ih (extestPort q d) ?_
    rw [List.mem_cons, or_assoc] at h
    rcases h with hq | ht | hu
    · exact .inr (extestPort_isUp p q d (.inl hq))
    · exact .inl ht
    · exact .inr (extestPort_isUp p q d (.inr hu))

theorem ports_lt (d : Dev) {p : Nat} (h : p ∈ d.ports) : p < 1024 := by
  simp only [Dev.ports, List.mem_flatMap, List.mem_filter, List.mem_map, List.mem_range] at h
  obtain ⟨x, ⟨hx, -⟩, ⟨s, hs, rfl⟩, -⟩ := h
  omega

/-- After EXTEST no port is up (R494). -/
theorem extestRuns_isUp (d : Dev) {p : Nat} (h : p ∈ d.ports) : (extestRuns d).isUp p = false :=
  (isUp_congr (extestRuns_csr d) p).trans (each_extestPort_isUp ⟨p, ports_lt d h⟩ d.ports d (.inl h))

/-! ### Frames on a management port (R63, R445, R506) -/

section
variable (n : Nat) (bs : List Byte) (d : Dev)

theorem mgmtFrameReceive_down (h : mgmtUp d n = false) : mgmtFrameReceive n bs d = d := if_pos (congrArg (! ·) h)

variable (hu : mgmtUp d n = true)
include hu

theorem mgmtFrameReceive_bad (h : bs.length < 64 ∨ 9216 < bs.length ∨ crcRun crcStart bs ≠ crcGood) :
    mgmtFrameReceive n bs d = d.bump (R.MGT_MP_STAT_RXERR n) := by
  have hbad : (bs.length < 64 || decide (9216 < bs.length) || crcRun crcStart bs != crcGood) = true := by
    simpa [or_assoc] using h
  rw [mgmtFrameReceive, hu, hbad]
  rfl

variable (h64 : 64 ≤ bs.length) (hmax : bs.length ≤ 9216) (hcrc : crcRun crcStart bs = crcGood)
include h64 hmax hcrc

theorem mgmtFrameReceive_good : mgmtFrameReceive n bs d =
    if macControl bs 0x0001 then { d with ras := { d.ras with pauses := SMap.put d.ras.pauses n (SMap.getD d.ras.pauses n 0 + 1) } }
    else if (parseEth bs).etype = 0x88B6 then d.emit (.toCores 8 0 bs)
    else if d.factory then (if (parseEth bs).ip = 6 then d.emit (.toCores 8 0 bs) else d)
    else match mgmtOfp (mgmtPtp n bs d) bs with
      | some x => if isPhase x then handPhase true (x.take (36 + (ofpHdr x).len)) (mgmtPtp n bs d) else (mgmtPtp n bs d).emit (.toCores 0 0 bs)
      | none => (mgmtPtp n bs d).emit (.toCores 0 0 bs) := by
  have hgood : (bs.length < 64 || decide (9216 < bs.length) || crcRun crcStart bs != crcGood) = false := by
    simp [h64, hmax, hcrc]
  rw [mgmtFrameReceive, hu, hgood]
  rfl

theorem mgmtFrameReceive_pause (hm : macControl bs 0x0001 = true) : mgmtFrameReceive n bs d =
    { d with ras := { d.ras with pauses := SMap.put d.ras.pauses n (SMap.getD d.ras.pauses n 0 + 1) } } :=
  (mgmtFrameReceive_good n bs d hu h64 hmax hcrc).trans (if_pos hm)

variable (hm : macControl bs 0x0001 = false)
include hm

theorem mgmtFrameReceive_mctp (he : (parseEth bs).etype = 0x88B6) : mgmtFrameReceive n bs d = d.emit (.toCores 8 0 bs) := by
  rw [mgmtFrameReceive_good n bs d hu h64 hmax hcrc, hm, if_neg Bool.false_ne_true, if_pos he]

variable (he : (parseEth bs).etype ≠ 0x88B6)
include he

theorem mgmtFrameReceive_factory (hf : d.factory = true) :
    mgmtFrameReceive n bs d = if (parseEth bs).ip = 6 then d.emit (.toCores 8 0 bs) else d := by
  rw [mgmtFrameReceive_good n bs d hu h64 hmax hcrc, hm, if_neg Bool.false_ne_true, if_neg he, hf, if_pos rfl]

variable (hf : d.factory = false)
include hf

theorem mgmtFrameReceive_phase {x : List Byte} (hx : mgmtOfp (mgmtPtp n bs d) bs = some x) (hp : isPhase x = true) :
    mgmtFrameReceive n bs d = handPhase true (x.take (36 + (ofpHdr x).len)) (mgmtPtp n bs d) := by
  rw [mgmtFrameReceive_good n bs d hu h64 hmax hcrc, hm, if_neg Bool.false_ne_true, if_neg he, hf, if_neg Bool.false_ne_true, hx]
  exact if_pos hp

theorem mgmtFrameReceive_runtime (hx : (mgmtOfp (mgmtPtp n bs d) bs).all (fun x => !isPhase x) = true) :
    mgmtFrameReceive n bs d = (mgmtPtp n bs d).emit (.toCores 0 0 bs) := by
  rw [mgmtFrameReceive_good n bs d hu h64 hmax hcrc, hm, if_neg Bool.false_ne_true, if_neg he, hf, if_neg Bool.false_ne_true]
  cases h : mgmtOfp (mgmtPtp n bs d) bs with
  | none => rfl
  | some x =>
    have hp : isPhase x = false := by simpa [h] using hx
    exact if_neg (by rw [hp]; decide)
end

/-! ### The management ports' links (R507, R518) -/

theorem mediaRetry_next (d : Dev) (hf : d.factory = true) (hu : d.on (R.MGT_MP_STAT_UP 0) = false) :
    mediaRetry d = d.set (R.MGT_MP_CFG_MEDIA 0)
      (if d.get (R.MGT_MP_CFG_MEDIA 0) = 0 then 2 else if d.get (R.MGT_MP_CFG_MEDIA 0) = 2 then 1 else 0) := by
  have hg : (!d.factory || d.on (R.MGT_MP_STAT_UP 0)) = false := by rw [hf, hu]; rfl
  rw [mediaRetry, hg, if_neg Bool.false_ne_true]
  refine congrArg (d.set (R.MGT_MP_CFG_MEDIA 0)) ?_
  split
  · next h => rw [if_pos h]
  · next h => rw [if_neg (by rw [h]; decide), if_pos h]
  · next h0 h2 => rw [if_neg h0, if_neg h2]

/-! ### The PCIe endpoint (R508, R509) -/

theorem pcieDown_boot (d : Dev) : (pcieDown d).boot = d.boot := rfl
theorem pcieDown_links (d : Dev) : (pcieDown d).links = d.links := rfl

theorem pcieDown_up (d : Dev) : (pcieDown d).get R.MGT_PCIE_STAT_UP = 0 := Dev.get_set_same _ _ _ (by decide)

theorem pcieDown_width (d : Dev) : (pcieDown d).get R.MGT_PCIE_STAT_WIDTH = 0 := by
  rw [pcieDown, Dev.get_set_apart _ _ _ _ (by decide) (by unfold Fld.apart; decide),
    Dev.get_set_apart _ _ _ _ (by decide) (by unfold Fld.apart; decide)]
  exact Dev.get_set_same _ _ _ (by decide)

theorem pcieTrain_boot (d : Dev) : (pcieTrain d).boot = d.boot := by
  unfold pcieTrain
  split
  · rfl
  · dsimp only
    split <;> rfl

/-- The link up with a width and a rate. -/
def pcieLinked (width rate : Nat) (d : Dev) : Dev :=
  ((d.set R.MGT_PCIE_STAT_WIDTH width).set R.MGT_PCIE_STAT_RATE rate).set R.MGT_PCIE_STAT_UP 1

theorem pcieLinked_up (width rate : Nat) (d : Dev) : (pcieLinked width rate d).get R.MGT_PCIE_STAT_UP = 1 := Dev.get_set_same _ _ _ (by decide)

theorem pcieLinked_width (width rate : Nat) (d : Dev) (h : width < 8) : (pcieLinked width rate d).get R.MGT_PCIE_STAT_WIDTH = width := by
  rw [pcieLinked, Dev.get_set_apart _ _ _ _ (by decide) (by unfold Fld.apart; decide),
    Dev.get_set_apart _ _ _ _ (by decide) (by unfold Fld.apart; decide)]
  exact (Dev.get_set_same _ _ _ (by decide)).trans (Nat.mod_eq_of_lt h)

theorem pcieLinked_rate (width rate : Nat) (d : Dev) (h : rate < 8) : (pcieLinked width rate d).get R.MGT_PCIE_STAT_RATE = rate := by
  rw [pcieLinked, Dev.get_set_apart _ _ _ _ (by decide) (by unfold Fld.apart; decide)]
  exact (Dev.get_set_same _ _ _ (by decide)).trans (Nat.mod_eq_of_lt h)

/-- The widths that MAXW allows (R509). -/
def pcieWidths (maxw : Nat) : List Nat := match maxw with | 1 => [1, 4] | 2 => [1] | _ => [1, 4, 7]

theorem pcieWidths_getD (maxw k : Nat) : (pcieWidths maxw).getD (k % (pcieWidths maxw).length) 1 ∈ pcieWidths maxw := by
  have hpos : 0 < (pcieWidths maxw).length := by unfold pcieWidths; split <;> decide
  rw [List.getD_eq_getElem _ _ (Nat.mod_lt k hpos)]
  exact List.getElem_mem _

theorem pcieWidths_subset (maxw : Nat) : pcieWidths maxw ⊆ [1, 4, 7] := by
  unfold pcieWidths; split <;> decide

/-- A training ends with the link down, or up with a width and a rate allowed. -/
theorem pcieTrain_outcome (d : Dev) (ha : d.applied = true) (hp : d.boot.perstHigh = true) (hf : pcieFitted d = true) :
    pcieTrain d = pcieDown d.draw.2 ∨
      ∃ width rate, width ∈ pcieWidths (d.get R.MGT_PCIE_CFG_MAXW) ∧ 1 ≤ rate ∧ rate ≤ 6 ∧
        pcieTrain d = pcieLinked width rate d.draw.2 := by
  have hg : (!(d.applied && d.boot.perstHigh && pcieFitted d)) = false := by rw [ha, hp, hf]; rfl
  unfold pcieTrain
  rw [hg, if_neg Bool.false_ne_true]
  extract_lets r widths max_ top v
  split
  · exact .inl rfl
  · have htop : 1 ≤ top ∧ top ≤ 6 := by unfold top; split <;> omega
    have hlt : v / 8 % top < top := Nat.mod_lt _ htop.1
    exact .inr ⟨_, 1 + v / 8 % top, pcieWidths_getD (d.get R.MGT_PCIE_CFG_MAXW) (v / 2), by omega, by omega, rfl⟩

/-- UP, WIDTH and RATE as a training leaves them. -/
theorem pcieTrain_status (d : Dev) (ha : d.applied = true) (hp : d.boot.perstHigh = true) (hf : pcieFitted d = true) :
    (pcieTrain d).get R.MGT_PCIE_STAT_UP = 0 ∨ ((pcieTrain d).get R.MGT_PCIE_STAT_UP = 1 ∧
      (pcieTrain d).get R.MGT_PCIE_STAT_WIDTH ∈ pcieWidths (d.get R.MGT_PCIE_CFG_MAXW) ∧
      1 ≤ (pcieTrain d).get R.MGT_PCIE_STAT_RATE ∧ (pcieTrain d).get R.MGT_PCIE_STAT_RATE ≤ 6) := by
  rcases pcieTrain_outcome d ha hp hf with h | ⟨width, rate, hw, h1, h6, h⟩
  · exact .inl (by rw [h, pcieDown_up])
  · have hw8 : width < 8 := by
      have h3 : ∀ w ∈ [1, 4, 7], w < 8 := by decide
      exact h3 width (pcieWidths_subset _ hw)
    rw [h, pcieLinked_up, pcieLinked_width _ _ _ hw8, pcieLinked_rate _ _ _ (by omega)]
    exact .inr ⟨rfl, hw, h1, h6⟩

/-! ### Counting leaves the endpoint's power state (R456, R508) -/

theorem addSat_ras (d : Dev) (c n : Nat) : (d.addSat c n).1.ras = d.ras := by
  unfold Dev.addSat; dsimp only
  split
  · rfl
  · split <;> rfl

theorem addCtr_ras (d : Dev) (c n : Nat) : (d.addCtr c n).1.ras = d.ras := by
  unfold Dev.addCtr; dsimp only
  split
  · split
    · rfl
    · exact addSat_ras _ _ _
  · exact addSat_ras _ _ _

theorem addCtrs_ras (cs : List (Nat × Nat)) (d : Dev) : (addCtrs cs d).1.ras = d.ras := by
  have h (r : Dev × List Nat) : (cs.foldl (fun r x => let q := r.1.addCtr x.1 x.2; (q.1, r.2 ++ q.2)) r).1.ras = r.1.ras := by
    induction cs generalizing r with
    | nil => rfl
    | cons x t ih => exact (ih _).trans (addCtr_ras _ _ _)
  exact h (d, [])

theorem eventIrq_ras (d : Dev) : (eventIrq d).ras = d.ras := by
  unfold eventIrq; split <;> rfl

theorem logEvent_d3hot (e : Event) (d : Dev) : (logEvent e d).ras.d3hot = d.ras.d3hot := by
  unfold logEvent; dsimp only
  split
  · rfl
  · split
    · rfl
    · dsimp only
      rw [eventIrq_ras]
      rfl

theorem sendTelemetry_ras (eng : Nat) (p : List Byte) (d : Dev) : (sendTelemetry eng p d).ras = d.ras := by
  unfold sendTelemetry; dsimp only
  split
  · rfl
  · split <;> rfl
  · rfl

theorem forwardEvent_d3hot (e : Event) (d : Dev) : (forwardEvent e d).ras.d3hot = d.ras.d3hot := by
  unfold forwardEvent; dsimp only
  split
  · rfl
  · split
    · rfl
    · split
      · dsimp only
        rw [sendTelemetry_ras]
      · rw [sendTelemetry_ras]

theorem raiseFuel_d3hot (n : Nat) (q : EventReq) (d : Dev) : (raiseFuel n q d).ras.d3hot = d.ras.d3hot := by
  induction n generalizing q d with
  | zero => rfl
  | succ n ih =>
    unfold raiseFuel
    extract_lets e _ d1 d2 _ d3 r
    have h2 : d2.ras.d3hot = d.ras.d3hot := forwardEvent_d3hot e d1
    have h3 : d3.ras.d3hot = d2.ras.d3hot := by
      unfold d3
      split
      · exact logEvent_d3hot _ _
      · split <;> rfl
    have hr : r.1.ras.d3hot = d3.ras.d3hot := congrArg Ras.d3hot (addCtrs_ras _ _)
    exact (Dev.each_kept (fun d => d.ras.d3hot) r.2 (fun c d => raiseFuel n ⟨0, 0x50, 2, c, 0, 0, none⟩ d) (fun c d => ih _ d) r.1).trans
      (hr.trans (h3.trans h2))

theorem countMany_d3hot (cs : List (Nat × Nat)) (d : Dev) : (countMany cs d).ras.d3hot = d.ras.d3hot :=
  (Dev.each_kept (fun d => d.ras.d3hot) _ (fun c d => raiseCE blkGauge 2 c d) (fun _ _ => raiseFuel_d3hot _ _ _) _).trans
    (congrArg Ras.d3hot (addCtrs_ras cs d))

/-- A counted CSR access leaves the endpoint as it is. -/
theorem countCsr_pcieUp (r : ReqId) (a c p : Nat) (d : Dev) : (countCsr r a c p d).pcieUp = d.pcieUp := by
  have hup := (countCsr_quiet r a c p d).on R.MGT_PCIE_STAT_UP (by unfold isEvtReg; decide)
  have hd : (countCsr r a c p d).ras.d3hot = d.ras.d3hot := countMany_d3hot _ d
  rw [Dev.pcieUp, Dev.pcieUp, hup, hd]

theorem msixDoorbell_eq (w : CsrW) (d : Dev) : msixDoorbell w d =
    let e := discardHeld w.req R.MGT_PCIE_DOORBELL (countCsr w.req R.MGT_PCIE_DOORBELL 1 3 d)
    if wBits w R.MGT_PCIE_DOORBELL_VEC != 0 && d.pcieUp then e.emit (.msix (wBits w R.MGT_PCIE_DOORBELL_VEC)) else e := by
  rw [← countCsr_pcieUp w.req R.MGT_PCIE_DOORBELL 1 3 d]
  rfl

/-! ### Accesses of other sizes (R508, R520) -/

/-- An access that is not an aligned 32-bit word. -/
theorem not_alignedWord {a n : Nat} (h : n ≠ 4 ∨ a % 4 ≠ 0) : (n == 4 && a % 4 == 0) = false := by
  rcases h with h | h <;> simp [h]

theorem bar0Access_unsupported (a n : Nat) (d : Dev) (hu : d.on R.MGT_PCIE_STAT_UP = true) (h : n ≠ 4 ∨ a % 4 ≠ 0) :
    bar0Access a n d = d.emit .unsupported := by
  rw [bar0Access, hu, not_alignedWord h]
  rfl

theorem csrAccessFault_faults (hart a n : Nat) (d : Dev) (h : n ≠ 4 ∨ a % 4 ≠ 0) : csrAccessFault hart a n d = d.emit (.csrFault hart) := by
  rw [csrAccessFault, not_alignedWord h]
  rfl

/-- Settles O58. -/
theorem ports : Obligations.Ports := by
  refine ⟨?jtag, ?idcode, fun d => ⟨rfl, fun p hp => extestRuns_isUp d hp⟩, ?frames, ?media, ?mgmt, ?perstRelease, ?perstAssert, ?endpoint,
    ?doorbell, ?bar0, ?csr, ?load⟩
  case jtag =>
    intro s hp hx hlc at_
    have hload (code : Nat) (f : Dev → Dev) : (.next (s.setDev (jtagLoad code f s.dev)) : Host.Outcome State Fault Refusal) =
        .next (s.setDev (f (at_ code))) := next_setDev s (jtagLoad_taken code f s.dev hp hx (.inl hlc))
    exact ⟨hload 0 id, hload 2 id, hload 3 extestRuns, hload 4 id, hload 5 id, hload 6 id, hload 7 id⟩
  case idcode =>
    intro s hp hx
    exact ⟨_, s.dev.draw.1.toNat % 4096, next_setDev s (jtagLoad_taken 1 (idcode s.fuses) s.dev hp hx (.inr rfl)),
      Nat.mod_lt _ (by decide), idcode_outbox s.fuses _⟩
  case frames =>
    intro s n bs hrun
    have hout {e : Dev} (h : mgmtFrameReceive n.val bs s.dev = e) : exec (.mgmtFrameReceive n bs) s = .next (s.setDev e) :=
      (onDev_whenRunning _ s hrun).trans (next_setDev s h)
    refine ⟨fun hu => hout (mgmtFrameReceive_down n.val bs s.dev hu), fun hu h => hout (mgmtFrameReceive_bad n.val bs s.dev hu h),
      fun hu h64 hmax hcrc => ⟨fun hm => hout (mgmtFrameReceive_pause n.val bs s.dev hu h64 hmax hcrc hm), fun hm =>
        ⟨fun he => hout (mgmtFrameReceive_mctp n.val bs s.dev hu h64 hmax hcrc hm he), fun he hf => ?_, fun he hf => ?_⟩⟩⟩
    · have hfac := mgmtFrameReceive_factory n.val bs s.dev hu h64 hmax hcrc hm he hf
      exact ⟨fun h6 => hout (hfac.trans (if_pos h6)), fun h6 => hout (hfac.trans (if_neg h6))⟩
    · exact ⟨fun x hx hp => hout (mgmtFrameReceive_phase n.val bs s.dev hu h64 hmax hcrc hm he hf hx hp),
        fun hx => hout (mgmtFrameReceive_runtime n.val bs s.dev hu h64 hmax hcrc hm he hf hx)⟩
  case media => exact fun s hf hu => next_setDev s (mediaRetry_next s.dev hf hu)
  case mgmt =>
    intro s n hrun
    exact ⟨fun he => (onDev_whenRunning _ s hrun).trans (next_setDev s (if_pos he)),
      fun hu => (onDev_whenRunning _ s hrun).trans (next_setDev s (if_pos hu))⟩
  case perstRelease =>
    intro s
    refine ⟨s.setDev (perstRelease s.dev), rfl, pcieTrain_boot _, fun ha hf => ?_⟩
    refine (pcieTrain_status { s.dev with boot := { s.dev.boot with perstHigh := true } } ha rfl hf).imp_right ?_
    rintro ⟨hup, hw, h1, h6⟩
    refine ⟨hup, pcieWidths_subset _ hw, h1, h6, fun hm => ?_, fun hm h7 => ?_⟩
    · have hmw : Dev.get { s.dev with boot := { s.dev.boot with perstHigh := true } } R.MGT_PCIE_CFG_MAXW = 2 := hm
      rw [hmw] at hw
      exact List.mem_singleton.mp hw
    · have hmw : Dev.get { s.dev with boot := { s.dev.boot with perstHigh := true } } R.MGT_PCIE_CFG_MAXW = 1 := hm
      rw [hmw] at hw
      exact absurd (h7 ▸ hw) (by decide)
  case perstAssert =>
    intro s
    exact ⟨_, rfl, pcieDown_boot _, pcieDown_up _, pcieDown_width _, pcieDown_links _⟩
  case endpoint =>
    intro s hrun hu
    exact ⟨(onDev_whenRunning _ s hrun).trans (next_setDev s (if_pos hu)), (onDev_whenRunning _ s hrun).trans (next_setDev s (if_pos hu)),
      (onDev_whenRunning _ s hrun).trans (next_setDev s (if_pos hu))⟩
  case doorbell =>
    intro s w hrun d
    have hout {e : Dev} (h : msixDoorbell w s.dev = e) : exec (.msixDoorbell w) s = .next (s.setDev e) :=
      (onDev_whenRunning _ s hrun).trans (next_setDev s h)
    have heq := msixDoorbell_eq w s.dev
    refine ⟨fun hv hu => hout (heq.trans (if_pos (by simp [hv, hu]))), fun h => hout (heq.trans (if_neg ?_))⟩
    rcases h with h | h <;> simp [h]
  case bar0 =>
    intro s a n wr hrun hu h
    exact (onDev_whenRunning _ s hrun).trans (next_setDev s (bar0Access_unsupported a n s.dev hu h))
  case csr =>
    intro s h a n wr ha hn
    exact (onDev_whenApplied _ s ha).trans (next_setDev s (csrAccessFault_faults h.val a.toNat n s.dev hn))
  case load =>
    intro s h a bad ha
    refine ⟨fun hb => (onDev_whenApplied _ s ha).trans (next_setDev s ?_), fun hb hp => (onDev_whenApplied _ s ha).trans (next_setDev s ?_)⟩
    · have hbad : (bad || s.dev.poisoned 1 a 1) = true := Bool.or_eq_true_iff.mpr hb
      rw [controlCoreLoad, hbad]
      rfl
    · rw [controlCoreLoad, hb, hp]
      rfl

end Sys2Proof.Machine
end

section
/-! Turn numbers, class overruns, the power pins and the bounds of the grants (O14 to O17): R77, R79, R80, R82, R84 to R88, R91, R314, R501, R504. -/

namespace Sys2Proof.Machine

/-! ### TURN_BOUNDARY (R77, R79, R80, R82) -/

theorem Dev.rd64_wr64 (d : Dev) (a n : Nat) : (d.wr64 a n).rd64 a = n % 2 ^ 64 := by
  have hlow : (d.wr64 a n).rd a = BitVec.ofNat 32 n := (Dev.rd_wr_ne _ _ _ _ (by omega)).trans (Dev.rd_wr_same _ _ _)
  have hhigh : (d.wr64 a n).rd (a + 4) = BitVec.ofNat 32 (n / 2 ^ 32) := Dev.rd_wr_same _ _ _
  rw [Dev.rd64, hlow, hhigh, BitVec.toNat_ofNat, BitVec.toNat_ofNat]
  omega

theorem turnBoundary_waits (i : TurnInput) (d : Dev) (h : nextTurn d = none) : turnBoundary i d = d := by
  rw [turnBoundary, h]

/-- The boundary writes the number last, so no work of the turn counts for it. -/
theorem turnBoundary_turn (i : TurnInput) (d : Dev) {n : Nat} (h : nextTurn d = some n) : (turnBoundary i d).turn = n % 2 ^ 64 := by
  rw [turnBoundary, h]
  exact Dev.rd64_wr64 _ R.GLB_TURN_NUM n

theorem nextTurn_first (d : Dev) (hb : d.boot.turnsBegun = false) : nextTurn d = some 0 := by
  rw [nextTurn, hb]
  rfl

section
variable (d : Dev) (hb : d.boot.turnsBegun = true)
include hb

theorem nextTurn_realigns (hr : d.time.realignNext = true) : nextTurn d = some (d.now / turnUnit).toNat := by
  simp [nextTurn, hb, hr]

theorem nextTurn_freeRunning (hr : d.time.realignNext = false) (hm : d.get R.GLB_TURN_STATUS_MODE = 0) : nextTurn d = some (d.turn + 1) := by
  simp [nextTurn, hb, hr, hm]

/-- On the fabric grid a turn starts once the corrected time has a later number. -/
theorem nextTurn_onGrid (hr : d.time.realignNext = false) (hm : d.get R.GLB_TURN_STATUS_MODE ≠ 0) :
    nextTurn d = if d.turn < (d.now / turnUnit).toNat then some (d.now / turnUnit).toNat else none := by
  simp [nextTurn, hb, hr, hm]
end

theorem exec_turnBoundary_turn (i : TurnInput) (s : State) (ha : s.dev.applied = true) {n : Nat} (h : nextTurn s.dev = some n) :
    ∃ t : State, exec (.turnBoundary i) s = .next t ∧ t.dev.turn = n % 2 ^ 64 :=
  ⟨_, onDev_whenApplied (turnBoundary i) s ha, turnBoundary_turn i s.dev h⟩

/-- Settles O14: which number the boundary takes is settled before its work, and written after it. -/
theorem turnNumber : Obligations.TurnNumber := by
  refine ⟨?first, ?freeRunning, ?onGrid, ?realigns, ?waits⟩
  case first => exact fun s i ha hb => exec_turnBoundary_turn i s ha (nextTurn_first s.dev hb)
  case freeRunning => exact fun s i ha hb hm hr => exec_turnBoundary_turn i s ha (nextTurn_freeRunning s.dev hb hr hm)
  case onGrid =>
    rintro s i n ha hb hm hr rfl hlt
    exact exec_turnBoundary_turn i s ha ((nextTurn_onGrid s.dev hb hr hm).trans (if_pos hlt))
  case realigns => exact fun s i ha hb hr => exec_turnBoundary_turn i s ha (nextTurn_realigns s.dev hb hr)
  case waits =>
    intro s i ha hb hm hr hle
    have hnone : nextTurn s.dev = none := (nextTurn_onGrid s.dev hb hr hm).trans (if_neg (Nat.not_lt.mpr hle))
    exact (onDev_whenApplied (turnBoundary i) s ha).trans (next_setDev s (turnBoundary_waits i s.dev hnone))

/-! ### Overruns (R84, R85) -/

/-- The device once an overrun is counted and dated, before its event. -/
def overrunCounted (e c : Nat) (d : Dev) : Dev := (d.bump (R.GLB_TURN_OVR_COUNT c)).set (R.GLB_TURN_OVR_LASTTURN c) e

/-- The device once the boundary of a class's event is noted. -/
def overrunNoted (c : Nat) (d : Dev) : Dev := { d with ras := { d.ras with ovrLast := SMap.put d.ras.ovrLast c d.ras.boundaries } }

theorem noteOverrun_silent (e c n : Nat) (d : Dev) (h : SMap.get? d.ras.ovrLast c = some n) (hn : d.ras.boundaries < n + 4096) :
    noteOverrun e c d = overrunCounted e c d := by
  have hrecent : (SMap.get? d.ras.ovrLast c).any (fun n => decide (d.ras.boundaries < n + 4096)) = true := by simp [h, hn]
  exact if_pos hrecent

theorem noteOverrun_raises (e c : Nat) (d : Dev) (h : ∀ n, SMap.get? d.ras.ovrLast c = some n → n + 4096 ≤ d.ras.boundaries) :
    noteOverrun e c d = raiseCE blkGlb 6 c (overrunNoted c (overrunCounted e c d)) := by
  have hold : ¬ (SMap.get? d.ras.ovrLast c).any (fun n => decide (d.ras.boundaries < n + 4096)) = true := by
    rw [Option.any_eq_true]
    rintro ⟨n, hget, hlt⟩
    exact absurd (of_decide_eq_true hlt) (Nat.not_lt.mpr (h n hget))
  exact if_neg hold

/-- The event leaves the class's register alone. -/
theorem noteOverrun_get (e : Nat) (c : Fin 8) (d : Dev) (f : Fld) (hf : f.addr = R.GLB_TURN_OVR c.val) :
    (noteOverrun e c.val d).get f = (overrunCounted e c.val d).get f := by
  have hevt : ¬ isEvtReg f.addr := by
    have hc := c.isLt
    rw [hf]
    unfold isEvtReg R.GLB_TURN_OVR R.GLB_EVT_HEAD R.GLB_EVT_CNT
    omega
  by_cases hold : ∀ n, SMap.get? d.ras.ovrLast c.val = some n → n + 4096 ≤ d.ras.boundaries
  · rw [noteOverrun_raises e c.val d hold]
    exact (raiseCE_quiet _ _ _ _ _ _).get f hevt
  · obtain ⟨n, hget, hlt⟩ : ∃ n, SMap.get? d.ras.ovrLast c.val = some n ∧ d.ras.boundaries < n + 4096 := by
      simpa using hold
    rw [noteOverrun_silent e c.val n d hget hlt]

theorem overrunCounted_lastTurn (e c : Nat) (d : Dev) : (overrunCounted e c d).get (R.GLB_TURN_OVR_LASTTURN c) = e % 65536 :=
  Dev.get_set_same _ (R.GLB_TURN_OVR_LASTTURN c) e (by decide : 16 + 16 ≤ 32)

theorem overrunCounted_count (e c : Nat) (d : Dev) :
    (overrunCounted e c d).get (R.GLB_TURN_OVR_COUNT c) = min 65535 (d.get (R.GLB_TURN_OVR_COUNT c) + 1) := by
  have hdate : (overrunCounted e c d).get (R.GLB_TURN_OVR_COUNT c) = (d.bump (R.GLB_TURN_OVR_COUNT c)).get (R.GLB_TURN_OVR_COUNT c) :=
    Dev.get_set_apart _ _ (R.GLB_TURN_OVR_COUNT c) e (by decide : 16 + 16 ≤ 32) (.inr (by decide : 0 + 16 ≤ 16))
  have hbump : (d.bump (R.GLB_TURN_OVR_COUNT c)).get (R.GLB_TURN_OVR_COUNT c) = min 65535 (d.get (R.GLB_TURN_OVR_COUNT c) + 1) % 2 ^ 16 :=
    Dev.get_set_same d (R.GLB_TURN_OVR_COUNT c) _ (by decide : 0 + 16 ≤ 32)
  rw [hdate, hbump]
  omega

/-- Settles O15. -/
theorem classOverruns : Obligations.Overruns := by
  refine ⟨fun d c e => ⟨?count, ?lastTurn⟩, fun d c e n => noteOverrun_silent e c.val n d, fun d c e => noteOverrun_raises e c.val d⟩
  case count => exact (noteOverrun_get e c d (R.GLB_TURN_OVR_COUNT c.val) rfl).trans (overrunCounted_count e c.val d)
  case lastTurn => exact (noteOverrun_get e c d (R.GLB_TURN_OVR_LASTTURN c.val) rfl).trans (overrunCounted_lastTurn e c.val d)

/-! ### The pins of power and heat (R88, R91, R501, R504) -/

theorem thermalTrip_running (d : Dev) (h : d.running = true) :
    thermalTrip d = (stop 1 { d with ras := { d.ras with thermtrip := true } }).emit (.pin "THERMTRIP_N" false) := if_pos h

theorem pwrlimAssert_glitch (n : Nat) (d : Dev) (h : n < 1000) : pwrlimAssert n d = d := if_pos h

theorem pwrlimAssert_running (n : Nat) (d : Dev) (hrun : d.running = true) (h : 1000 ≤ n) :
    pwrlimAssert n d = { d with ras := { d.ras with pwrLow := true } }.set R.GLB_PWR_LIM_SEEN 1 :=
  (if_neg (Nat.not_lt.mpr h)).trans (Dev.whenRunning_pos _ _ hrun)

theorem budget_low (d : Dev) (h : d.ras.pwrLow = true) :
    budget d = min (min 2400 (d.get R.GLB_PWR_BUDGET_WATTS)) (min 2400 (d.get R.GLB_PWR_LIM_WATTS)) := if_pos h

theorem budget_le (d : Dev) : budget d ≤ min 2400 (d.get R.GLB_PWR_BUDGET_WATTS) := by
  unfold budget
  split
  · exact Nat.min_le_left _ _
  · exact le_rfl

/-- Settles O16. -/
theorem powerPins : Obligations.PowerPins := by
  refine ⟨?trip, ?low, ?glitch, fun _ => rfl, ?lower, ?most⟩
  case trip => exact fun s k hrun => ⟨next_setDev s (thermalTrip_running s.dev hrun), rfl, get_stop_code 1 s.dev⟩
  case low => exact fun s n hrun hn => next_setDev s (pwrlimAssert_running n s.dev hrun hn)
  case glitch => exact fun s n hn => next_setDev s (pwrlimAssert_glitch n s.dev hn)
  case lower => exact fun d hl => (budget_low d hl).trans_le ((Nat.min_le_right _ _).trans (Nat.min_le_right _ _))
  case most => exact fun d => le_min_iff.mp (budget_le d)

/-! ### The grants before the thermal caps (R86, R87, R314) -/

/-- A grant follows R87's rule for some limit that the room sets: the least of that limit, the request and the highest duty, but at least the
class's lowest duty. -/
def Granted (i : TurnInput) (d : Dev) (g : Nat × Nat) : Prop :=
  ∃ byRoom : Nat, g.2 = max (minDuty d g.1) (min (min (min 128 (d.get (R.GLB_PWR_CLASS_MAXDUTY g.1))) (requestOf i d g.1)) byRoom)

theorem grantPrio_granted (i : TurnInput) (d : Dev) (cs : List Nat) (room : Int) {g : Nat × Nat} (h : g ∈ (grantPrio i d cs room).1) :
    g.1 ∈ cs ∧ Granted i d g := by
  obtain ⟨c, hc, rfl⟩ := List.mem_map.mp h
  exact ⟨hc, _, rfl⟩

/-- Every class that is granted a duty is throttleable, whatever room the classes of lower PRIO have left. -/
theorem grantAll_granted (i : TurnInput) (d : Dev) (room : Int) : ∀ g ∈ (grantAll i d room).1, g.1 ∈ throttleable ∧ Granted i d g := by
  refine List.foldlRecOn (motive := fun a : List (Nat × Nat) × Int => ∀ g ∈ a.1, g.1 ∈ throttleable ∧ Granted i d g) _ _ ?none ?prio
  case none => exact fun g hg => absurd hg List.not_mem_nil
  case prio =>
    intro a ih prio _
    dsimp only
    split
    · exact ih
    · intro g hg
      rcases List.mem_append.mp hg with hg | hg
      · exact ih g hg
      · exact (grantPrio_granted i d _ _ hg).imp_left fun hc => (List.mem_filter.mp hc).1

theorem requestOf_idleDie (i : TurnInput) (d : Dev) (m : Fin 2) (h : dieWorks d m.val = false) : requestOf i d (5 + m.val) = 0 := by
  have hdie : (5 + m.val = 5 || 5 + m.val = 6) = true := by
    have hm := m.isLt
    simp only [Bool.or_eq_true, decide_eq_true_eq]
    omega
  rw [requestOf, if_pos hdie, Nat.add_sub_cancel_left, h]
  rfl

theorem Granted.minDuty_le {i : TurnInput} {d : Dev} {g : Nat × Nat} (h : Granted i d g) : minDuty d g.1 ≤ g.2 := by
  obtain ⟨byRoom, hg⟩ := h
  exact hg ▸ Nat.le_max_left _ _

theorem Granted.le_max {i : TurnInput} {d : Dev} {g : Nat × Nat} (h : Granted i d g) :
    g.2 ≤ max (minDuty d g.1) (min 128 (d.get (R.GLB_PWR_CLASS_MAXDUTY g.1))) := by
  obtain ⟨byRoom, hg⟩ := h
  exact hg.trans_le (max_le_max le_rfl ((Nat.min_le_left _ _).trans (Nat.min_le_left _ _)))

theorem Granted.eq_minDuty {i : TurnInput} {d : Dev} {g : Nat × Nat} (h : Granted i d g) (hr : requestOf i d g.1 = 0) :
    g.2 = minDuty d g.1 := by
  obtain ⟨byRoom, hg⟩ := h
  rw [hg, hr, Nat.min_zero, Nat.zero_min, Nat.max_zero]

/-- Settles O17. -/
theorem dutyBounds : Obligations.DutyBounds := by
  intro i d room g hg
  obtain ⟨hclass, hgrant⟩ := grantAll_granted i d room g hg
  refine ⟨hgrant.minDuty_le, hgrant.le_max, hclass, fun m hm hidle => hgrant.eq_minDuty ?_⟩
  rw [hm]
  exact requestOf_idleDie i d m hidle

end Sys2Proof.Machine
end

section
/-! Numbers and fields in byte strings (R99 to R103, R121): what stands at an offset of a string put together of parts, and what a number of n bytes
reads as. -/

namespace Sys2Proof.Machine

/-! ### Numbers as bytes -/

@[simp] theorem leBytes_length (n v : Nat) : (leBytes n v).length = n := by simp [leBytes]
@[simp] theorem beBytes_length (n v : Nat) : (beBytes n v).length = n := by simp [beBytes]
@[simp] theorem zeros_length (n : Nat) : (zeros n).length = n := List.length_replicate

theorem leBytes_succ (n v : Nat) : leBytes (n + 1) v = BitVec.ofNat 8 v :: leBytes n (v / 256) := by
  simp [leBytes, List.range_succ_eq_map, Function.comp_def, pow_succ', Nat.div_div_eq_div_mul]

theorem ofLe_leBytes (n v : Nat) : ofLe (leBytes n v) = v % 256 ^ n := by
  induction n generalizing v with
  | zero => simp [leBytes, ofLe, Nat.mod_one]
  | succ n ih =>
    rw [leBytes_succ, ofLe, ih, BitVec.toNat_ofNat, pow_succ' 256]
    exact (Nat.mod_mul (a := 256)).symm

theorem ofBe_beBytes (n v : Nat) : ofBe (beBytes n v) = v % 256 ^ n := by
  rw [ofBe, beBytes, List.reverse_reverse, ofLe_leBytes]

theorem ofBe_zeros (n : Nat) : ofBe (zeros n) = 0 := by
  rw [ofBe, zeros, List.reverse_replicate]
  induction n with
  | zero => rfl
  | succ n ih => rw [List.replicate_succ, ofLe, ih]; rfl

/-! ### Parts of a string -/

section
variable {α : Type}

theorem slice_self (bs : List α) {n : Nat} (h : bs.length ≤ n) : slice bs 0 n = bs := List.take_of_length_le h

/-- What lies within the first part. -/
theorem slice_append_left (a b : List α) {off n : Nat} (h : off + n ≤ a.length) : slice (a ++ b) off n = slice a off n := by
  rw [slice, List.drop_append_of_le_length (by omega), List.take_append_of_le_length (by rw [List.length_drop]; omega), slice]

/-- What lies behind the first part. -/
theorem slice_append_right (a b : List α) {off n : Nat} (h : a.length ≤ off) : slice (a ++ b) off n = slice b (off - a.length) n := by
  rw [slice, List.drop_append, List.drop_eq_nil_of_le h, List.nil_append, slice]

/-- A string cut into parts of n. -/
theorem flatten_slices (l : List α) (n k : Nat) : ((List.range k).map (fun i => slice l (n * i) n)).flatten = l.take (n * k) := by
  induction k with
  | zero => simp
  | succ k ih =>
    rw [List.range_succ, List.map_append, List.flatten_append, ih, List.map_singleton, List.flatten_singleton, slice, ← List.take_add]
    rfl
end

theorem beAt_append_left (a b : List Byte) {off n : Nat} (h : off + n ≤ a.length) : beAt (a ++ b) off n = beAt a off n :=
  congrArg ofBe (slice_append_left a b h)

theorem beAt_append_right (a b : List Byte) {off n : Nat} (h : a.length ≤ off) : beAt (a ++ b) off n = beAt b (off - a.length) n :=
  congrArg ofBe (slice_append_right a b h)

theorem beAt_beBytes (n v : Nat) : beAt (beBytes n v) 0 n = v % 256 ^ n :=
  (congrArg ofBe (slice_self _ (beBytes_length n v).le)).trans (ofBe_beBytes n v)

theorem beAt_beBytes_of_lt {n v : Nat} (h : v < 256 ^ n) : beAt (beBytes n v) 0 n = v := (beAt_beBytes n v).trans (Nat.mod_eq_of_lt h)

theorem beAt_beBytes_toNat {w n : Nat} (x : BitVec w) (h : w ≤ 8 * n) : beAt (beBytes n x.toNat) 0 n = x.toNat :=
  beAt_beBytes_of_lt (x.isLt.trans_le ((Nat.pow_le_pow_right (by decide) h).trans_eq (pow_mul 2 8 n)))

theorem beAt_cons_zero (b : Byte) (t : List Byte) : beAt (b :: t) 0 1 = b.toNat := rfl

theorem beAt_cons_succ (b : Byte) (t : List Byte) (off n : Nat) : beAt (b :: t) (off + 1) n = beAt t off n := rfl

theorem beAt_zeros (n off k : Nat) : beAt (zeros n) off k = 0 := by
  have h : slice (zeros n) off k = zeros (min k (n - off)) := by rw [slice, zeros, List.drop_replicate, List.take_replicate, zeros]
  rw [beAt, h, ofBe_zeros]

/-! ### A link after a change of it -/

theorem Dev.link_modLink_same (p : Nat) (f : Link → Link) (d : Dev) : (d.modLink p f).link p = f (d.link p) := Dev.link_setLink_same d p _

/-! ### Flags in a byte -/

theorem b2n_le_one (b : Bool) : b2n b ≤ 1 := by cases b <;> decide

theorem b2n_beq_one (b : Bool) : (b2n b == 1) = b := by cases b <;> rfl

end Sys2Proof.Machine
end

section
/-! Codeword pairs, the packets in them, and retry (O21): R98, R100 to R102, R107 to R109. -/

namespace Sys2Proof.Machine

/-! ### A pair's header and flits (R98, R100) -/

section
variable (a b : BitVec 12) (k : Fin 4) (v : BitVec 4) (n : BitVec 10)

/-- The fields of the pair header. -/
theorem pairHeader_fields : let x := beAt (beBytes 5 (a.toNat * 2 ^ 28 + b.toNat * 2 ^ 16 + k.val * 2 ^ 14 + v.toNat * 2 ^ 10 + n.toNat)) 0 5
    bitsOf x 28 12 = a.toNat ∧ bitsOf x 16 12 = b.toNat ∧ bitsOf x 14 2 = k.val ∧ bitsOf x 10 4 = v.toNat ∧ bitsOf x 0 10 = n.toNat := by
  have ha := a.isLt
  have hb := b.isLt
  have hv := v.isLt
  have hn := n.isLt
  rw [beAt_beBytes]
  unfold bitsOf
  omega

variable (fs : List Byte)

theorem pairBytes_header : beAt (pairBytes a b k.val v n fs) 0 5 =
    beAt (beBytes 5 (a.toNat * 2 ^ 28 + b.toNat * 2 ^ 16 + k.val * 2 ^ 14 + v.toNat * 2 ^ 10 + n.toNat)) 0 5 := by
  rw [pairBytes, List.append_assoc, beAt_append_left _ _ (beBytes_length 5 _).ge]

theorem pairBytes_fields : let x : Pair := ⟨true, pairBytes a b k.val v n fs⟩
    pairPseq x = a ∧ pairAckseq x = b ∧ pairAckkind x = k.val ∧ pairCrvc x = v ∧ pairCrcnt x = n := by
  obtain ⟨ha, hb, hk, hv, hn⟩ := pairHeader_fields a b k v n
  simp only [pairPseq, pairAckseq, pairAckkind, pairCrvc, pairCrcnt, beBits, pairBytes_header, Nat.reduceSub, Nat.reduceAdd, ha, hb, hk, hv, hn,
    BitVec.ofNat_toNat, BitVec.setWidth_eq, and_self]

/-- What lies behind the header of a pair. -/
theorem slice_pairBytes (off m : Nat) : slice (pairBytes a b k.val v n fs) (5 + off) m =
    slice (fs ++ (List.replicate (5 - fs.length / 256) idleFlit).flatten) off m := by
  rw [pairBytes, List.append_assoc, slice_append_right _ _ (by rw [beBytes_length]; omega), beBytes_length, Nat.add_sub_cancel_left]

theorem pairFlits_pairBytes_full (h : fs.length = 1280) : (pairFlits ⟨true, pairBytes a b k.val v n fs⟩).flatten = fs := by
  have hidle : (List.replicate (5 - fs.length / 256) idleFlit).flatten = [] := by rw [h]; rfl
  simp only [pairFlits, slice_pairBytes, hidle, List.append_nil]
  rw [flatten_slices, List.take_of_length_le (by omega)]
end

/-! ### Flits (R101) -/

@[simp] theorem flitBytes_length (c : List Byte) (kind sop eop epad : Nat) (h : c.length ≤ 252) : (flitBytes c kind sop eop epad).length = 256 := by
  simp only [flitBytes, padTo, List.length_append, zeros_length, beBytes_length]
  omega

theorem padTo_length (c : List Byte) {n : Nat} (h : c.length ≤ n) : (padTo c n).length = n := by
  rw [padTo, List.length_append, zeros_length]
  omega

theorem flitBytes_content {c : List Byte} (h : c.length ≤ 252) (kind sop eop epad : Nat) :
    (flitBytes c kind sop eop epad).take 252 = padTo c 252 := by
  rw [flitBytes, List.append_assoc, List.take_left' (padTo_length c h)]

theorem flitBytes_fctl {c : List Byte} (h : c.length ≤ 252) {kind sop eop epad : Nat} (hk : kind < 4) (hs : sop < 64) (he : eop < 64) (hp : epad < 4) :
    let f := flitBytes c kind sop eop epad
    fctl f 15 14 = kind ∧ fctl f 13 8 = sop ∧ fctl f 7 2 = eop ∧ fctl f 1 0 = epad := by
  have hpad := padTo_length c h
  have hat : beAt (flitBytes c kind sop eop epad) 252 2 = kind * 2 ^ 14 + sop * 2 ^ 8 + eop * 2 ^ 2 + epad := by
    rw [flitBytes, beAt_append_left _ _ (by rw [List.length_append, beBytes_length]; omega), beAt_append_right _ _ hpad.le, hpad]
    exact beAt_beBytes_of_lt (by omega)
  simp only [fctl, beBits, hat]
  unfold bitsOf
  omega

theorem idleFlit_length : idleFlit.length = 256 := flitBytes_length [] 0 63 63 0 (by decide)

/-- An idle flit carries no packet (R101). -/
theorem flitPackets_idle (join : Bool) (part : Option (List Byte)) : flitPackets join part idleFlit = ([], part) := by
  obtain ⟨hkind, -⟩ := flitBytes_fctl (c := []) (by decide) (kind := 0) (sop := 63) (eop := 63) (epad := 0) (by decide) (by decide) (by decide) (by decide)
  rw [flitPackets, show idleFlit = flitBytes [] 0 63 63 0 from rfl, hkind]
  rfl

/-! ### A packet that one pair carries (R102) -/

/-- Fill ends a flit's packets. -/
theorem streamFrom_fill (join first : Bool) (eop epad fuel off : Nat) (c : List Byte) (h : beAt (c.drop off) 0 1 = 0) :
    streamFrom join eop epad c (fuel + 1) off [] first = ([], none) := by
  rw [streamFrom, h]
  rfl

/-- A pair of one flit: four idle ones follow it. -/
theorem pairFlits_one_flit (a b : BitVec 12) (k : Fin 4) (v : BitVec 4) (n : BitVec 10) {f : List Byte} (hf : f.length = 256) :
    pairFlits ⟨true, pairBytes a b k.val v n f⟩ = [f, idleFlit, idleFlit, idleFlit, idleFlit] := by
  have hall : f ++ (List.replicate (5 - f.length / 256) idleFlit).flatten = f ++ (idleFlit ++ (idleFlit ++ (idleFlit ++ idleFlit))) := by
    rw [hf]
    simp [List.replicate]
  have hidle := slice_self idleFlit idleFlit_length.le
  simp only [pairFlits, slice_pairBytes, hall]
  simp [List.range_succ_eq_map, slice_append_left, slice_append_right, hf, idleFlit_length, slice_self f hf.le, hidle]

section
variable {bs : List Byte} (h36 : 36 ≤ bs.length) (h252 : bs.length ≤ 252) (h4 : bs.length % 4 = 0) (hlen : 36 + beAt bs 24 2 = bs.length)
include h36 h252 h4

theorem packetFlits_one : packetFlits bs = [flitBytes bs 1 0 (bs.length / 4 - 1) 0] := by
  have hn : divUp bs.length 252 = 1 := by unfold divUp; omega
  have hw : divUp bs.length 4 = bs.length / 4 := by unfold divUp; omega
  have hpad : 4 * (bs.length / 4) - bs.length = 0 := by omega
  simp [packetFlits, hn, slice_self bs h252, hw, hpad]

theorem pairGroups_one : (pairGroups bs).flatten = flitBytes bs 1 0 (bs.length / 4 - 1) 0 := by
  have hd : divUp 1 5 = 1 := rfl
  simp [pairGroups, packetFlits_one h36 h252 h4, hd, slice]

include hlen

theorem streamSize_padded : streamSize false (padTo bs 252) = some bs.length := by
  have hn : 4 * divUp (36 + beAt bs 24 2) 4 = bs.length := by rw [hlen]; unfold divUp; omega
  have hl : beAt (padTo bs 252) 24 2 = beAt bs 24 2 := beAt_append_left _ _ (by omega)
  simp [streamSize, padTo_length bs h252, hl, hn]

/-- The stream of the flit's content: the packet, then fill. -/
theorem streamFrom_one (eop epad fuel : Nat) (hb : beAt bs 0 1 ≠ 0) : streamFrom false eop epad (padTo bs 252) (fuel + 2) 0 [] true = ([bs], none) := by
  have hbyte : beAt (padTo bs 252) 0 1 ≠ 0 := by rwa [padTo, beAt_append_left _ _ (by omega)]
  have hrest : beAt ((padTo bs 252).drop bs.length) 0 1 = 0 := by rw [padTo, List.drop_left]; exact beAt_zeros _ 0 1
  have htake : (padTo bs 252).take bs.length = bs := List.take_left
  rw [streamFrom]
  simp [hbyte, streamEther, streamSize_padded h36 h252 h4 hlen, padTo_length bs h252, Nat.not_lt.mpr h252, streamFrom_fill _ _ _ _ _ _ _ hrest, htake]

theorem flitPackets_one (hb : beAt bs 0 1 ≠ 0) : flitPackets false none (flitBytes bs 1 0 (bs.length / 4 - 1) 0) = ([bs], none) := by
  obtain ⟨hkind, hsop, -, -⟩ := flitBytes_fctl h252 (kind := 1) (sop := 0) (eop := bs.length / 4 - 1) (epad := 0)
    (by decide) (by decide) (by omega) (by decide)
  rw [flitPackets, hkind, hsop, flitBytes_content h252]
  exact streamFrom_one h36 h252 h4 hlen _ _ 62 hb

theorem pairPackets_one (a b : BitVec 12) (v : BitVec 4) (n : BitVec 10) (hb : beAt bs 0 1 ≠ 0) :
    pairPackets false none ⟨true, pairBytes a b ackAck v n (pairGroups bs).flatten⟩ = ([bs], none) := by
  rw [pairGroups_one h36 h252 h4, pairPackets, show ackAck = (1 : Fin 4).val from rfl, pairFlits_one_flit a b 1 v n (flitBytes_length _ _ _ _ _ h252)]
  simp only [List.foldl_cons, List.foldl_nil, flitPackets_one h36 h252 h4 hlen hb, flitPackets_idle, List.append_nil, List.nil_append]
end

/-! ### PAIR_RECEIVE (R108) -/

section
variable {p : Nat} {x : Pair} {d : Dev}

/-- A pair is the next in order. -/
def inOrder (p : Nat) (x : Pair) (d : Dev) : Bool := pairSequenced x && pairPseq x == (d.link p).rxSeq + 1

theorem inOrder_next (hs : pairSequenced x = true) (hp : pairPseq x = (d.link p).rxSeq + 1) : inOrder p x d = true := by
  rw [inOrder, hs, hp, beq_self_eq_true]
  rfl

theorem not_inOrder (h : pairSequenced x = false ∨ pairPseq x ≠ (d.link p).rxSeq + 1) : inOrder p x d = false := by
  rcases h with h | h
  · rw [inOrder, h, Bool.false_and]
  · rw [inOrder, beq_false_of_ne h, Bool.and_false]

/-- What a pair does that neither loopback takes. -/
theorem pairReceive_eq (hp : d.isPort p = true) (ho : d.isOfp p = true) (hu : d.isUp p = true) (hn : d.nearLoop p = false)
    (hf : d.get (R.TEST_PORT_LOOP_DEPTH p) ≠ 8) : pairReceive p x d =
    if !pairGood x then reject p d
    else if (d.link p).nakOut && !inOrder p x d then d
    else acceptPair p x d := by
  simp only [pairReceive, hp, ho, hu, hn, takePair, hf, Bool.not_true, Bool.or_self, Bool.false_eq_true, if_false]
  rfl

theorem reject_again (h : (d.link p).nakOut = true) : reject p d = d := if_pos h

theorem reject_first (h : (d.link p).nakOut = false) :
    reject p d = sendIdle p ackNak (d.modLink p (fun l => { l with nakOut := true })) := if_neg (by simp [h])

theorem acknowledge_rxSeq (a : BitVec 12) : ((acknowledge p a d).link p).rxSeq = (d.link p).rxSeq :=
  congrArg (fun x => x.2.1) ((sendDue_standing p _).trans (link_standing_modLink p _ d rfl))

theorem acceptPair_none (hk : pairAckkind x = ackNone) :
    acceptPair p x d = if inOrder p x d && d.isUp p then deliver p x d else d := by
  rw [acceptPair, hk]
  rfl

theorem acceptPair_ack (hk : pairAckkind x = ackAck) (h : inOrder p x d = false) : acceptPair p x d = acknowledge p (pairAckseq x) d := by
  have hord : inOrder p x (acknowledge p (pairAckseq x) d) = false := by rw [inOrder, acknowledge_rxSeq]; exact h
  have heq : acceptPair p x d = (let e := acknowledge p (pairAckseq x) d
      if inOrder p x e && e.isUp p then deliver p x e else e) := by rw [acceptPair, hk]; rfl
  simp [heq, hord]

theorem deliver_no_packet (h : (pairPackets (d.isJoin p) (d.link p).part x).1 = []) : deliver p x d =
    sendIdle p ackAck (d.modLink p (fun l => { l with
      rxSeq := pairPseq x, nakOut := false, part := (pairPackets (d.isJoin p) (d.link p).part x).2
      credits := (List.range 16).map (fun v => l.credits.getD v 0 + (if v = (pairCrvc x).toNat then (pairCrcnt x).toNat else 0)) })) := by
  rw [deliver, h]
  rfl
end

/-! ### The retry buffer (R107 to R109) -/

theorem sendDue_none (p : Nat) (d : Dev) (h : (d.link p).due = []) : ((sendDue p d).link p).retry = (d.link p).retry := by
  rw [sendDue, h, List.take_nil, Dev.each, List.foldl_nil, Dev.link_modLink_same]

/-- An acknowledgement takes the pairs it covers out of the retry buffer (R107). -/
theorem acknowledge_retry (p : Nat) (a : BitVec 12) (d : Dev) (h : (d.link p).due = []) :
    ((acknowledge p a d).link p).retry = (d.link p).retry.filter (fun e => !decide ((a - e.pseq).toNat < 2048)) := by
  rw [acknowledge, sendDue_none, Dev.link_modLink_same]
  rw [Dev.link_modLink_same]
  exact h

theorem nakRepeat_out (p : Nat) (d : Dev) (hu : d.isUp p = true) (hn : (d.link p).nakOut = true) : nakRepeat p d = sendIdle p ackNak d :=
  if_pos (by simp [hu, hn])

section
variable {p : Nat} {d : Dev} (hu : d.isUp p = true) {e : RetryPair} {rest : List RetryPair} (hr : (d.link p).retry = e :: rest)
include hu hr

theorem retryTimeout_eq : retryTimeout p d = replay p d := if_pos (by simp [hu, hr])

theorem retryTimeout_replays (h : (d.link p).replays < max 1 (d.get (R.PORT_LINK_CFG_RMAX 0))) : retryTimeout p d =
    resendPairs p (countPort p 14 (d.modLink p (fun l => { l with replays := l.replays + 1 }))) := by
  rw [retryTimeout_eq hu hr, replay, if_neg (Nat.not_le.mpr h), if_neg]
  rw [hr]
  exact Bool.false_ne_true

theorem retryTimeout_retrains (h : max 1 (d.get (R.PORT_LINK_CFG_RMAX 0)) ≤ (d.link p).replays) :
    retryTimeout p d = retrain p (raiseCE (blkPort (p / 128)) 7 p d) := by
  rw [retryTimeout_eq hu hr]
  exact if_pos h
end

/-- Settles O21. -/
theorem pairsAndRetry : Obligations.PairsAndRetry := by
  refine ⟨?fields, ?packet, ?receive, fun d p a => acknowledge_retry p.val a d, ?timeouts⟩
  case fields =>
    intro a b k v n fs h x
    obtain ⟨ha, hb, hk, hv, hn⟩ := pairBytes_fields a b k v n fs
    exact ⟨ha, hb, hk, hv, hn, pairFlits_pairBytes_full a b k v n fs h⟩
  case packet => exact fun a b v n bs h36 h252 h4 hlen hb => pairPackets_one h36 h252 h4 hlen a b v n hb
  case receive =>
    intro s p x ha hp ho hu hn hf
    have hout {e : Dev} (h : pairReceive p.val x s.dev = e) : exec (.pairReceive p x) s = .next (s.setDev e) :=
      (onDev_whenApplied _ s ha).trans (next_setDev s h)
    have heq := pairReceive_eq (x := x) hp ho hu hn hf
    refine ⟨fun hbad => ?_, fun hgood => ⟨fun hdis => ?_, fun hseq hps hk hnone => ?_⟩⟩
    · have hrej : pairReceive p.val x s.dev = reject p.val s.dev := heq.trans (if_pos (by rw [hbad]; rfl))
      exact ⟨fun h => hout (hrej.trans (reject_again h)), fun h => hout (hrej.trans (reject_first h))⟩
    · have hord := not_inOrder hdis
      have htake (h : (s.dev.link p.val).nakOut = false) : pairReceive p.val x s.dev = acceptPair p.val x s.dev := by simp [heq, hgood, h]
      refine ⟨fun h => ?_, fun h hk => hout ((htake h).trans (acceptPair_ack hk hord))⟩
      cases hnak : (s.dev.link p.val).nakOut with
      | true => exact hout (by simp [heq, hgood, hnak, hord])
      | false =>
        have hk : pairAckkind x = ackNone := h.resolve_left (by simp [hnak])
        exact hout ((htake hnak).trans ((acceptPair_none hk).trans (by simp [hord])))
    · have hord := inOrder_next hseq hps
      have htake : pairReceive p.val x s.dev = deliver p.val x s.dev := by simp [heq, hgood, hord, acceptPair_none hk, hu]
      exact hout (htake.trans (deliver_no_packet hnone))
  case timeouts =>
    intro s p ha hu
    have hretry {e : Dev} (h : retryTimeout p.val s.dev = e) : exec (.retryTimeout p) s = .next (s.setDev e) :=
      (onDev_whenApplied _ s ha).trans (next_setDev s h)
    exact ⟨fun hn => (onDev_whenApplied _ s ha).trans (next_setDev s (nakRepeat_out p.val s.dev hu hn)),
      fun e rest hr h => hretry (retryTimeout_replays hu hr h), fun e rest hr h => hretry (retryTimeout_retrains hu hr h)⟩

end Sys2Proof.Machine
end

section
/-! Lane markers, lost markers, lost signal and fast relock (O20): R95, R103, R104, R106, R129, R130. -/

namespace Sys2Proof.Machine

/-! ### A marker and its copies (R103) -/

theorem crc32c_lt (bs : List Byte) : crc32c bs < 2 ^ 32 := by
  have hbit (v : Nat) (h : v < 2 ^ 32) : (if v % 2 = 1 then Nat.xor (v / 2) 0x82F63B78 else v / 2) < 2 ^ 32 := by
    split
    · exact Nat.xor_lt_two_pow (by omega) (by decide)
    · omega
  refine Nat.xor_lt_two_pow (by decide) (List.foldlRecOn (motive := (· < 2 ^ 32)) bs _ (by decide) fun c hc b _ => ?_)
  exact List.foldlRecOn (motive := (· < 2 ^ 32)) _ _ (Nat.xor_lt_two_pow hc (b.isLt.trans (by decide))) fun v hv _ _ => hbit v hv

/-- The 28 bytes of a marker that its MCRC covers. -/
def markerBody (m : Marker) : List Byte :=
  beBytes 8 markerSync ++ beBytes 1 (16 + m.rate.toNat * 4) ++ beBytes 1 (m.width.toNat * 16 + m.slot.toNat) ++
    beBytes 2 m.llane.toNat ++ beBytes 2 m.chan.toNat ++ beBytes 2 m.frame.toNat ++ beBytes 4 m.sender.toNat ++
    beBytes 1 (m.devidx.toNat * 32 + b2n m.joined * 16) ++ beBytes 1 (m.tap.toNat * 16 + m.req.toNat * 4) ++ beBytes 1 m.txack.toNat ++ [0] ++
    beBytes 4 (b2n m.hold * 2 ^ 31 + b2n m.relock * 2 ^ 30 + b2n m.retrain * 2 ^ 29 + m.fault.toNat)

theorem markerBytes_eq (m : Marker) : markerBytes m = markerBody m ++ beBytes 4 (crc32c (markerBody m)) := rfl

theorem markerBody_length (m : Marker) : (markerBody m).length = 28 := by simp [markerBody]

theorem markerBytes_length (m : Marker) : (markerBytes m).length = 32 := by rw [markerBytes_eq, List.length_append, markerBody_length, beBytes_length]

theorem markerBytes_beAt (m : Marker) {off n : Nat} (h : off + n ≤ 28) : beAt (markerBytes m) off n = beAt (markerBody m) off n := by
  rw [markerBytes_eq, beAt_append_left _ _ (by rwa [markerBody_length])]

/-! The bytes that hold more than one field. -/

theorem markerByte_rate (rate : BitVec 2) : let x := beAt (beBytes 1 (16 + rate.toNat * 4)) 0 1
    bitsOf x 4 4 = 1 ∧ bitsOf x 2 2 = rate.toNat := by
  have h := rate.isLt
  rw [beAt_beBytes]
  unfold bitsOf
  omega

theorem markerByte_nibbles (a b : BitVec 4) : let x := beAt (beBytes 1 (a.toNat * 16 + b.toNat)) 0 1
    bitsOf x 4 4 = a.toNat ∧ bitsOf x 0 4 = b.toNat := by
  have ha := a.isLt
  have hb := b.isLt
  rw [beAt_beBytes]
  unfold bitsOf
  omega

theorem markerByte_device (i : BitVec 3) {j : Nat} (hj : j ≤ 1) : let x := beAt (beBytes 1 (i.toNat * 32 + j * 16)) 0 1
    bitsOf x 5 3 = i.toNat ∧ bitsOf x 4 1 = j := by
  have hi := i.isLt
  rw [beAt_beBytes]
  unfold bitsOf
  omega

theorem markerByte_tap (t : BitVec 4) (r : BitVec 2) : let x := beAt (beBytes 1 (t.toNat * 16 + r.toNat * 4)) 0 1
    bitsOf x 4 4 = t.toNat ∧ bitsOf x 2 2 = r.toNat := by
  have ht := t.isLt
  have hr := r.isLt
  rw [beAt_beBytes]
  unfold bitsOf
  omega

theorem markerWord_flags (f : BitVec 8) {a b c : Nat} (ha : a ≤ 1) (hb : b ≤ 1) (hc : c ≤ 1) :
    let x := beAt (beBytes 4 (a * 2 ^ 31 + b * 2 ^ 30 + c * 2 ^ 29 + f.toNat)) 0 4
    bitsOf x 31 1 = a ∧ bitsOf x 30 1 = b ∧ bitsOf x 29 1 = c ∧ bitsOf x 0 8 = f.toNat := by
  have hf := f.isLt
  rw [beAt_beBytes]
  unfold bitsOf
  omega

theorem bitsOf_low {v w : Nat} (h : v < 2 ^ w) : bitsOf v 0 w = v := by rw [bitsOf, pow_zero, Nat.div_one, Nat.mod_eq_of_lt h]

theorem markerOf_markerBytes (m : Marker) : markerOf (markerBytes m) = m := by
  obtain ⟨-, hrate⟩ := markerByte_rate m.rate
  obtain ⟨hwidth, hslot⟩ := markerByte_nibbles m.width m.slot
  obtain ⟨hdev, hjoin⟩ := markerByte_device m.devidx (b2n_le_one m.joined)
  obtain ⟨htap, hreq⟩ := markerByte_tap m.tap m.req
  obtain ⟨hhold, hrelock, hretrain, hfault⟩ := markerWord_flags m.fault (b2n_le_one m.hold) (b2n_le_one m.relock) (b2n_le_one m.retrain)
  simp only [markerOf, beBits, markerBytes_beAt, markerBody, beAt_append_left, beAt_append_right, beAt_beBytes_toNat, List.length_append, beBytes_length,
    List.length_cons, List.length_nil, Nat.reduceAdd, Nat.reduceSub, Nat.reduceMul, Nat.reduceLeDiff, bitsOf_low m.llane.isLt, bitsOf_low m.txack.isLt,
    hrate, hwidth, hslot, hdev, hjoin, htap, hreq, hhold, hrelock, hretrain, hfault, b2n_beq_one, BitVec.ofNat_toNat, BitVec.setWidth_eq]

theorem markerOk_markerBytes (m : Marker) : markerOk (markerBytes m) = true := by
  have hsync : beAt (markerBytes m) 0 8 = markerSync := by
    rw [markerBytes_beAt m (by decide)]
    simp only [markerBody, beAt_append_left, List.length_append, beBytes_length, List.length_cons, List.length_nil, Nat.reduceAdd, Nat.reduceLeDiff]
    exact beAt_beBytes_of_lt (by decide)
  have hver : beBits (markerBytes m) 8 1 7 4 = 1 := by
    rw [beBits, markerBytes_beAt m (by decide)]
    simp only [markerBody, beAt_append_left, beAt_append_right, List.length_append, beBytes_length, List.length_cons, List.length_nil, Nat.reduceAdd,
      Nat.reduceSub, Nat.reduceLeDiff]
    exact (markerByte_rate m.rate).1
  have hcrc : beAt (markerBytes m) 28 4 = crc32c (markerBody m) := by
    rw [markerBytes_eq, beAt_append_right _ _ (markerBody_length m).le, markerBody_length]
    exact beAt_beBytes_of_lt (crc32c_lt _)
  have hbody : (markerBytes m).take 28 = markerBody m := by rw [markerBytes_eq, List.take_left' (markerBody_length m)]
  rw [markerOk, hsync, hver, hcrc, hbody]
  simp only [beq_self_eq_true, Bool.and_self]

/-- Every field of a marker is read back from its copies (R103). -/
theorem findMarker_markerPayload (m : Marker) : findMarker (markerPayload (markerBytes m)) = some m := by
  have hfirst : slice (markerPayload (markerBytes m)) (32 * 0) 32 = markerBytes m := by
    rw [markerPayload, List.replicate_succ, List.flatten_cons, List.append_assoc, Nat.mul_zero,
      slice_append_left _ _ (markerBytes_length m).ge, slice_self _ (markerBytes_length m).le]
  rw [findMarker, List.range_succ_eq_map, List.map_cons, hfirst, List.find?_cons_of_pos (markerOk_markerBytes m), Option.map_some, markerOf_markerBytes]

/-! ### MARKER_RECEIVE (R103, R104, R106) -/

section
variable {l : Nat} {d : Dev} (hp : d.isPort (d.portOf l) = true) (ho : d.isOfp (d.portOf l) = true) (hn : d.nearLoop (d.portOf l) = false)
include hp ho hn

/-- A marker that is missing or bad counts against its lane. -/
theorem markerReceive_missed {x : Option (List Byte)} (hx : x.bind findMarker = none) : markerReceive l x d =
    let p := d.portOf l
    let n := (d.link p).badMarks.getD (l - p) 0 + 1
    let e := d.modLink p (fun k => { k with badMarks := setAt k.badMarks 16 (l - p) n })
    if d.isUp p && decide (max 1 (d.get (R.PORT_LINK_CFG_MKLOSS 0)) ≤ n) then retrain p e else e := by
  have hheard : heard d (d.portOf l) (l - d.portOf l) x = none := by simp only [heard, hn, Bool.false_eq_true, if_false, hx]
  simp only [markerReceive, hp, ho, hheard, Bool.not_true, Bool.or_self, Bool.false_eq_true, if_false]
  rfl

/-- A good marker is taken, and the lane's own next one goes out. -/
theorem markerReceive_good {x : List Byte} {m : Marker} (hx : findMarker x = some m) : markerReceive l (some x) d =
    let p := d.portOf l
    let e := takeMarker p (l - p) m d
    if transmits e p && stageOf e p != 0 then
      (sendMarker p (l - p) 1 false e).modLink p (fun k => { k with frame := if l - p + 1 = e.width p then k.frame + 1 else k.frame })
    else e := by
  have hheard : heard d (d.portOf l) (l - d.portOf l) (some x) = some m := by simp only [heard, hn, Bool.false_eq_true, if_false, Option.bind_some, hx]
  have hnot (a b : Bool) : (!a || !b) = !(a && b) := by cases a <;> rfl
  simp only [markerReceive, hp, ho, hheard, Bool.not_true, Bool.or_self, Bool.false_eq_true, if_false]
  generalize takeMarker (d.portOf l) (l - d.portOf l) m d = e
  have hiff : (!transmits e (d.portOf l) || stageOf e (d.portOf l) == 0) = !(transmits e (d.portOf l) && stageOf e (d.portOf l) != 0) := by
    rw [bne, ← hnot, Bool.not_not]
  rw [hiff]
  cases transmits e (d.portOf l) && stageOf e (d.portOf l) != 0 <;> rfl
end

/-! ### What a good marker changes in its link -/

/-- A list of n places in which one place is written. -/
theorem getD_map_range {α : Type} (f : Nat → α) (v z : α) {n k : Nat} (h : k < n) :
    ((List.range n).map (fun i => if i = k then v else f i)).getD k z = v := by
  rw [List.getD_eq_getElem _ _ (by simpa using h)]
  simp

theorem steerTap_csr (p slot : Nat) (m : Marker) (d : Dev) : (steerTap p slot m d).csr = d.csr := by
  unfold steerTap
  extract_lets put
  split <;> rfl

/-- The tap that a marker names is steered, and TXACK tells whether it was at its limit (R95). -/
theorem steerTap_link (p : Nat) (slot : Fin 16) (m : Marker) (d : Dev) : ∃ acks taps,
    (steerTap p slot.val m d).link p = { d.link p with txack := acks, taps := taps } ∧
    (m.req ≠ 1 → m.req ≠ 2 → acks.getD slot.val 0 = 0) ∧
    ((m.req = 1 ∨ m.req = 2) → m.tap.toNat < 5 → acks.getD slot.val 0 = 1 ∨ acks.getD slot.val 0 = 2) := by
  unfold steerTap
  extract_lets put
  split
  · next hask =>
    simp only [Bool.and_eq_true, Bool.or_eq_true, decide_eq_true_eq] at hask
    refine ⟨_, _, Dev.link_modLink_same p _ _, fun h1 h2 => absurd hask.1 (not_or.mpr ⟨h1, h2⟩), fun _ _ => ?_⟩
    rw [getD_map_range _ _ _ slot.isLt]
    split
    · exact .inr rfl
    · exact .inl rfl
  · next hask =>
    refine ⟨_, _, Dev.link_modLink_same p _ d, fun _ _ => getD_map_range _ _ _ slot.isLt, fun hreq htap => absurd ?_ hask⟩
    simpa only [Bool.and_eq_true, Bool.or_eq_true, decide_eq_true_eq] using ⟨hreq, htap⟩

/-- The link as a good marker leaves it before its checks. -/
def noted (p slot : Nat) (m : Marker) (d : Dev) : Dev :=
  steerTap p slot m (d.modLink p (fun l => { l with
    badMarks := setAt l.badMarks 16 slot 0
    peerHold := if m.hold then some m.fault else none
    marks := (List.range 16).map (fun i => if i = slot then some m else l.marks.getD i none) }))

theorem noted_csr (p slot : Nat) (m : Marker) (d : Dev) : (noted p slot m d).csr = d.csr := steerTap_csr _ _ _ _

theorem noted_link (p : Nat) (slot : Fin 16) (m : Marker) (d : Dev) : ∃ acks taps,
    (noted p slot.val m d).link p = { d.link p with
      badMarks := setAt (d.link p).badMarks 16 slot.val 0
      peerHold := if m.hold then some m.fault else none
      marks := (List.range 16).map (fun i => if i = slot.val then some m else (d.link p).marks.getD i none)
      txack := acks, taps := taps } ∧
    (m.req ≠ 1 → m.req ≠ 2 → acks.getD slot.val 0 = 0) ∧
    ((m.req = 1 ∨ m.req = 2) → m.tap.toNat < 5 → acks.getD slot.val 0 = 1 ∨ acks.getD slot.val 0 = 2) := by
  obtain ⟨acks, taps, hl, hacks⟩ := steerTap_link p slot m (d.modLink p (fun l => { l with
    badMarks := setAt l.badMarks 16 slot.val 0
    peerHold := if m.hold then some m.fault else none
    marks := (List.range 16).map (fun i => if i = slot.val then some m else l.marks.getD i none) }))
  rw [Dev.link_modLink_same] at hl
  exact ⟨acks, taps, hl, hacks⟩

theorem takeMarker_eq (p slot : Nat) (m : Marker) (d : Dev) : takeMarker p slot m d =
    let e := noted p slot m d
    if decide (3 ≤ stageOf e p) && decide (stageOf e p ≤ 7) && chanBad e p slot m then chanMismatch p (p + slot) e
    else if decide (5 ≤ stageOf e p) && decide (stageOf e p ≤ 7) && shapeBad e p slot m then shapeMismatch p e
    else if m.retrain && e.isUp p then retrain p e
    else e := rfl

section
variable (p : Nat) (slot : Fin 16) (m : Marker) (d : Dev)

theorem noted_stageOf : stageOf (noted p slot.val m d) p = stageOf d p := by
  obtain ⟨acks, taps, hl, -⟩ := noted_link p slot m d
  rw [stageOf, hl, stageOf]

theorem noted_chanBad : chanBad (noted p slot.val m d) p slot.val m = chanBad d p slot.val m := by
  obtain ⟨acks, taps, hl, -⟩ := noted_link p slot m d
  rw [chanBad, hl, chanBad]

theorem noted_shapeBad : shapeBad (noted p slot.val m d) p slot.val m = shapeBad d p slot.val m := by
  have hl := Dev.SameLayout.of_csr (noted_csr p slot.val m d)
  rw [shapeBad, hl.width, hl.rate, shapeBad]

variable {p slot m d}

theorem takeMarker_passes (hr : m.retrain = false) (hc : chanBad d p slot.val m = false) (hs : shapeBad d p slot.val m = false) :
    takeMarker p slot.val m d = noted p slot.val m d := by
  simp only [takeMarker_eq, noted_chanBad, noted_shapeBad, hr, hc, hs, Bool.and_false, Bool.false_and, Bool.false_eq_true, if_false]

theorem takeMarker_chanMismatch (h3 : 3 ≤ stageOf d p) (h7 : stageOf d p ≤ 7) (hc : chanBad d p slot.val m = true) :
    takeMarker p slot.val m d = chanMismatch p (p + slot.val) (noted p slot.val m d) := by
  simp only [takeMarker_eq, noted_chanBad, noted_stageOf, h3, h7, hc, decide_true, Bool.and_self, if_true]
end

/-! ### A channel mismatch holds the port down (R104) -/

/-- A port that goes down leaves the fields of PORT_PSTAT other than UP and DOWNEVT. -/
theorem takeDown_chanMis (p : PortNo) (d : Dev) : (takeDown p.val d).get (R.PORT_PSTAT_CHANMIS p.val) = d.get (R.PORT_PSTAT_CHANMIS p.val) := by
  have hp := p.isLt
  unfold takeDown
  split
  · rw [(linkDown_keeps p.val d).get (R.PORT_PSTAT_CHANMIS p.val) (by show R.PORT_PSTAT p.val < belowCistern; unfold R.PORT_PSTAT belowCistern; omega)
      (not_isEvtReg_of_lt (lt_of_lt_of_le (by decide) (pstat_ge p.val))),
      Dev.get_set_apart _ _ _ _ (by show 5 + 1 ≤ 32; decide) (Or.inl (by show 5 + 1 ≤ 6; decide)),
      Dev.get_set_apart _ _ _ _ (by show 4 + 1 ≤ 32; decide) (Or.inl (by show 4 + 1 ≤ 6; decide))]
  · rfl

theorem holdDown_chanMis (p : PortNo) (f : Nat) (d : Dev) :
    (holdDown p.val f d).get (R.PORT_PSTAT_CHANMIS p.val) = d.get (R.PORT_PSTAT_CHANMIS p.val) := by
  have hsent : (holdDown p.val f d).csr = (showStage p.val 8 (takeDown p.val d)).csr := sendMarkers_csr _ _ _ _
  rw [Dev.get_congr hsent, showStage, Dev.get_set_apart _ _ _ _ (by show 0 + 4 ≤ 32; decide) (Or.inl (by show 0 + 4 ≤ 6; decide))]
  exact takeDown_chanMis p d

theorem chanMismatch_holds (p : PortNo) (lane : Nat) (d : Dev) : stageOf (chanMismatch p.val lane d) p.val = 8 ∧
    (chanMismatch p.val lane d).get (R.PORT_PSTAT_CHANMIS p.val) = 1 ∧ ((chanMismatch p.val lane d).link p.val).holdFault = 1 := by
  have q := raiseCE_quiet (blkPort (p.val / 128)) 5 lane (d.set (R.PORT_PSTAT_CHANMIS p.val) 1) 0 0
  have hset : (raiseCE (blkPort (p.val / 128)) 5 lane (d.set (R.PORT_PSTAT_CHANMIS p.val) 1)).get (R.PORT_PSTAT_CHANMIS p.val) = 1 :=
    (q.get _ (not_isEvtReg_of_lt (lt_of_lt_of_le (by decide) (pstat_ge p.val)))).trans (Dev.get_set_same _ _ _ (by show 6 + 1 ≤ 32; decide))
  obtain ⟨-, hstage, hfault⟩ := holdDown_holds p 1 (raiseCE (blkPort (p.val / 128)) 5 lane (d.set (R.PORT_PSTAT_CHANMIS p.val) 1))
  exact ⟨hstage, (holdDown_chanMis p 1 _).trans hset, hfault⟩

/-! ### Loss of signal (R106, R129) -/

section
variable {p : Nat} {d : Dev} (hu : d.isUp p = true)
include hu

/-- Without fast relock an up port goes down and trains. -/
theorem lose_trains (h : d.on (R.PORT_PCTL_FASTRELOCK p) = false ∨ d.on (R.PORT_PCTL_FTXLOCK p) = false ∨ d.isOfp p = false) :
    lose p d = startTraining p (linkDown p d) := by
  have hno : (d.isOfp p && d.on (R.PORT_PCTL_FASTRELOCK p) && d.on (R.PORT_PCTL_FTXLOCK p) && d.isUp p) = false := by rcases h with h | h | h <;> simp [h]
  rw [lose, hno, if_neg Bool.false_ne_true, retrain, takeDown, if_pos hu]

theorem lose_relocks (hf : d.on (R.PORT_PCTL_FASTRELOCK p) = true) (hx : d.on (R.PORT_PCTL_FTXLOCK p) = true) (ho : d.isOfp p = true) :
    lose p d = relockStart p d := if_pos (by simp only [ho, hf, hx, hu, Bool.and_self])
end

theorem linkSignalLoss_up {l : Nat} {d : Dev} (hp : d.isPort (d.portOf l) = true) (hu : d.isUp (d.portOf l) = true) :
    linkSignalLoss l d = lose (d.portOf l) (d.modLink (d.portOf l) (fun k => { k with signal := false })) := by
  have hup : (d.modLink (d.portOf l) (fun k => { k with signal := false })).isUp (d.portOf l) = true := hu
  simp only [linkSignalLoss, hp, hup, Bool.not_true, Bool.false_eq_true, if_false, Bool.true_or, if_true]

/-! ### Fast relock (R129, R130) -/

theorem pathLost_link (x : Pkt) (d : Dev) (p : Nat) : (pathLost x d).link p = d.link p := by
  unfold pathLost; dsimp only
  split
  · rfl
  · split
    · exact (raiseCE_quiet _ _ _ _ _ _).link p
    · rfl

/-- Nothing stays in the retry buffer of a port that has been discarded (R129). -/
theorem discardRetry_retry (p : Nat) (d : Dev) : ((discardRetry p d).link p).retry = [] := by
  unfold discardRetry
  extract_lets l held e1 e2
  have hlost : (Dev.each (l.retry.flatMap (fun e => e.pkts) ++ held)
      (fun x d => pathLost x (countEvent ⟨3, 1, x.inLabel, some x.dst, 9, 0⟩ d)) e2).link p = e2.link p :=
    Dev.each_kept (fun e => e.link p) _ _ (fun x d => (pathLost_link x _ p).trans ((countEvent_quiet _ d).link p)) e2
  rw [hlost, show e2 = e1.modLink p _ from rfl, Dev.link_modLink_same]

theorem relockPeer_lt (p : PortNo) : R.PORT_RELOCK_PEER p.val < belowCistern := by
  have hp := p.isLt
  unfold R.PORT_RELOCK_PEER belowCistern
  omega

theorem relockPeer_quiet (p : Nat) : ¬ isEvtReg (R.PORT_RELOCK_PEER p) :=
  not_isEvtReg_of_lt (lt_of_lt_of_le (by decide) (Nat.le_trans (Nat.le_add_right 0x10002800 _) (Nat.le_add_right _ _)))

/-- Going down leaves PEER. -/
theorem takeDown_relockPeer (p : PortNo) (d : Dev) : (takeDown p.val d).rd (R.PORT_RELOCK_PEER p.val) = d.rd (R.PORT_RELOCK_PEER p.val) := by
  unfold takeDown
  split
  · rw [(linkDown_keeps p.val d).rd _ (relockPeer_lt p) (relockPeer_quiet p.val), Dev.rd_set_ne _ _ _ _ (relockPeer_ne_pstat p.val p.val),
      Dev.rd_set_ne _ _ _ _ (relockPeer_ne_pstat p.val p.val)]
  · rfl

/-- The device at the start of a relock, before the equaliser takes the profile. -/
def relockBegun (p : Nat) (d : Dev) : Dev := latchPeer p (showStage p 7 (discardRetry p (takeDown p d)))

theorem latchPeer_link (p : Nat) (d : Dev) : ((latchPeer p d).link p).stage = (d.link p).stage ∧ ((latchPeer p d).link p).retry = (d.link p).retry ∧
    ((latchPeer p d).link p).peer = d.rd (R.PORT_RELOCK_PEER p) ∧ ((latchPeer p d).link p).marks = [] := by
  rw [latchPeer, Dev.link_modLink_same]
  exact ⟨rfl, rfl, rfl, rfl⟩

theorem showStage_retry (p v : Nat) (d : Dev) : ((showStage p v d).link p).retry = (d.link p).retry := by rw [showStage_link]

theorem showStage_stage (p v : Nat) (d : Dev) : ((showStage p v d).link p).stage = v := by rw [showStage_link]

theorem relockBegun_link (p : PortNo) (d : Dev) : ((relockBegun p.val d).link p.val).stage = 7 ∧ ((relockBegun p.val d).link p.val).retry = [] ∧
    ((relockBegun p.val d).link p.val).peer = d.rd (R.PORT_RELOCK_PEER p.val) ∧ ((relockBegun p.val d).link p.val).marks = [] := by
  have hpeer : (showStage p.val 7 (discardRetry p.val (takeDown p.val d))).rd (R.PORT_RELOCK_PEER p.val) = d.rd (R.PORT_RELOCK_PEER p.val) := by
    rw [showStage_rd_ne _ _ _ _ (relockPeer_ne_pstat p.val p.val), (discardRetry_keeps p.val _).rd _ (relockPeer_lt p) (relockPeer_quiet p.val),
      takeDown_relockPeer]
  obtain ⟨hstage, hretry, hlatch, hmarks⟩ := latchPeer_link p.val (showStage p.val 7 (discardRetry p.val (takeDown p.val d)))
  rw [showStage_stage] at hstage
  rw [showStage_retry, discardRetry_retry] at hretry
  exact ⟨hstage, hretry, hlatch.trans hpeer, hmarks⟩

/-- The sequence numbers start anew and the equaliser takes the profile. -/
def relockSet (p : Nat) (d : Dev) : Dev := d.modLink p (fun l => { l with
  txSeq := 1, txAcked := 0, rxSeq := 0, holdFault := 0, eq := l.profiles.getD (d.get (R.PORT_RELOCK_PROFILE p)) l.eq })

theorem relockStart_eq (p : Nat) (d : Dev) (ho : d.isOfp p = true) (hm : mayTrain d p = true) (hx : d.on (R.PORT_PCTL_FTXLOCK p) = true) :
    relockStart p d = sendMarkers p ((relockBegun p d).get (R.PORT_RELOCK_RLEN p)) true (relockSet p (relockBegun p d)) :=
  if_neg (by simp [ho, hm, hx])

/-- What the markers of a relock go out with. -/
theorem relockSet_sent (p n : Nat) (d : Dev) : let l := (sendMarkers p n true (relockSet p d)).link p
    l.txSeq = 1 ∧ l.rxSeq = 0 ∧ l.stage = (d.link p).stage ∧ l.retry = (d.link p).retry ∧ l.peer = (d.link p).peer ∧ l.marks = (d.link p).marks := by
  obtain ⟨f, hsent⟩ := sendMarkers_link p n true (relockSet p d)
  rw [relockSet, Dev.link_modLink_same, ← relockSet] at hsent
  rw [hsent]
  exact ⟨rfl, rfl, rfl, rfl, rfl, rfl⟩

/-- A relock restarts the sequence numbers, empties the retry buffer and takes PEER as it stands. -/
theorem relockStart_link (p : PortNo) (d : Dev) (ho : d.isOfp p.val = true) (hm : mayTrain d p.val = true)
    (hx : d.on (R.PORT_PCTL_FTXLOCK p.val) = true) : stageOf (relockStart p.val d) p.val = 7 ∧ ((relockStart p.val d).link p.val).txSeq = 1 ∧
    ((relockStart p.val d).link p.val).rxSeq = 0 ∧ ((relockStart p.val d).link p.val).retry = [] ∧
    ((relockStart p.val d).link p.val).peer = d.rd (R.PORT_RELOCK_PEER p.val) ∧ ((relockStart p.val d).link p.val).marks = [] := by
  obtain ⟨hstage, hretry, hpeer, hmarks⟩ := relockBegun_link p d
  obtain ⟨htx, hrx, hst, hre, hpe, hma⟩ := relockSet_sent p.val ((relockBegun p.val d).get (R.PORT_RELOCK_RLEN p.val)) (relockBegun p.val d)
  rw [relockStart_eq p.val d ho hm hx]
  exact ⟨hst.trans hstage, htx, hrx, hre.trans hretry, hpe.trans hpeer, hma.trans hmarks⟩

section
variable {p : Nat} {d : Dev} (hs : stageOf d p = 7)
include hs

/-- The end of a relock checks the senders of the markers (R129). -/
theorem relockDone_eq {ms : List Marker} (hall : allMarks d p = some ms) : relockDone p d =
    if (d.link p).peer != 0 && ms.any (fun m => m.sender != (d.link p).peer) then
      holdDown p 2 (raiseCE (blkPort (p / 128)) 9 p (d.set (R.PORT_PSTAT_PEERMIS p) 1))
    else portUp p d := by
  rw [relockDone, if_neg (not_not.mpr hs), hall]

theorem relockTimeout_eq : relockTimeout p d = raiseCE (blkPort (p / 128)) 10 p (startTraining p d) := if_pos hs
end

theorem any_other_sender (want : Word) (ms : List Marker) : ms.any (fun m => m.sender != want) = true ↔ ∃ m ∈ ms, m.sender ≠ want := by
  simp only [List.any_eq_true, bne_iff_ne]

/-! ### RELOCK_CAPTURE (R95, R130) -/

theorem portRelock_quiet (p : Nat) : ¬ isEvtReg (R.PORT_RELOCK p) :=
  not_isEvtReg_of_lt (lt_of_lt_of_le (by decide) (Nat.le_trans (Nat.le_add_right 0x10002600 _) (Nat.le_add_right _ _)))

theorem writeOwn_profile (p : Nat) (w : CsrW) (d : Dev) (ha : d.applied = true) :
    (writeOwn RF.PORT_RELOCK (R.PORT_RELOCK p) w d).get (R.PORT_RELOCK_PROFILE p) = wBits w (R.PORT_RELOCK_PROFILE p) := by
  have hl : d.liveFields RF.PORT_RELOCK = RF.PORT_RELOCK := by rw [Dev.liveFields, ha]; rfl
  refine writeOwn_get_rw RF.PORT_RELOCK _ w d ⟨1, 0, .rw, .val 0⟩ (portRelock_quiet p) ?_ ?_ ?_ rfl (by decide)
  all_goals rw [hl]
  · decide
  · unfold FieldDef.apart; decide
  · exact List.mem_cons_self

theorem adapt_csr (p : Nat) (d : Dev) : (adapt p d).csr = d.csr := (adapt_sameTraining p d).csr

/-- CAPTURE keeps the equaliser state under the profile and clears. -/
theorem relockCapture_captures (p : Nat) (w : CsrW) (d : Dev) (ha : d.applied = true) (hw : wOn w (R.PORT_RELOCK_CAPTURE p) = true) :
    (relockCapture p w d).get (R.PORT_RELOCK_CAPTURE p) = 0 ∧ (relockCapture p w d).get (R.PORT_RELOCK_PROFILE p) = wBits w (R.PORT_RELOCK_PROFILE p) ∧
    ((relockCapture p w d).link p).profiles.getD (wBits w (R.PORT_RELOCK_PROFILE p)) [] = ((relockCapture p w d).link p).eq := by
  have hprofile := writeOwn_profile p w d ha
  have hlt : wBits w (R.PORT_RELOCK_PROFILE p) < 4 := bitsOf_lt _ _ _
  have heq : relockCapture p w d = ((adapt p (writeOwn RF.PORT_RELOCK (R.PORT_RELOCK p) w d)).modLink p (fun l => { l with
      profiles := (List.range 4).map (fun k => if k = wBits w (R.PORT_RELOCK_PROFILE p) then l.eq else l.profiles.getD k []) })).set
      (R.PORT_RELOCK_CAPTURE p) 0 := by
    rw [relockCapture, ← hprofile]
    exact if_pos hw
  rw [heq]
  refine ⟨Dev.get_set_same _ _ _ (by show 2 + 1 ≤ 32; decide), ?_, ?_⟩
  · rw [Dev.get_set_apart _ _ _ _ (by show 2 + 1 ≤ 32; decide) (Or.inr (by show 0 + 2 ≤ 2; decide))]
    exact (Dev.get_congr (adapt_csr p _) _).trans hprofile
  · rw [Dev.link_set, Dev.link_modLink_same]
    exact getD_map_range _ _ _ hlt

/-- Settles O20. -/
theorem linkLoss : Obligations.LinkLoss := by
  refine ⟨findMarker_markerPayload, ?missed, ?good, ?fields, ?mismatch, ?loss, ?relock, ?done, ?timeout, ?capture⟩
  case missed =>
    intro s l x ha hp ho hn hx p n d
    have hout := (onDev_whenApplied (markerReceive l.val x) s ha).trans (next_setDev s (markerReceive_missed hp ho hn hx))
    refine ⟨fun h => hout.trans (next_setDev s (if_neg ?_)), fun hu h => hout.trans (next_setDev s (if_pos ?_))⟩
    · rcases h with h | h
      · rw [h]; exact Bool.false_ne_true
      · rw [decide_eq_false (Nat.not_le.mpr h), Bool.and_false]; exact Bool.false_ne_true
    · rw [hu, decide_eq_true h]; rfl
  case good =>
    intro s l x m ha hp ho hn hx
    exact (onDev_whenApplied (markerReceive l.val (some x)) s ha).trans (next_setDev s (markerReceive_good hp ho hn hx))
  case fields =>
    intro d p slot m hr hc hs l
    obtain ⟨acks, taps, hl, hnone, hasked⟩ := noted_link p.val slot m d
    have hl : l = _ := (congrArg (fun e => Dev.link e p.val) (takeMarker_passes hr hc hs)).trans hl
    rw [hl]
    exact ⟨rfl, getD_map_range _ _ _ slot.isLt, getD_map_range _ _ _ slot.isLt, hnone, hasked⟩
  case mismatch =>
    intro d p slot m h3 h7 hc e
    have he : e = _ := takeMarker_chanMismatch h3 h7 hc
    rw [he]
    exact chanMismatch_holds p _ _
  case loss =>
    intro s l ha hp hu
    have hout := (onDev_whenApplied (linkSignalLoss l.val) s ha).trans (next_setDev s (linkSignalLoss_up hp hu))
    exact ⟨fun h => hout.trans (next_setDev s (lose_trains hu h)), fun hf hx ho => hout.trans (next_setDev s (lose_relocks hu hf hx ho))⟩
  case relock => exact fun s p ha ho hm hx => ⟨_, onDev_whenApplied _ s ha, relockStart_link p s.dev ho hm hx⟩
  case done =>
    intro s p ms ha hs hall
    have hout := (onDev_whenApplied (relockDone p.val) s ha).trans (next_setDev s (relockDone_eq hs hall))
    refine ⟨fun h => hout.trans (next_setDev s (if_neg ?_)), fun hw hm => hout.trans (next_setDev s (if_pos ?_))⟩
    · rw [Bool.and_eq_true, bne_iff_ne, any_other_sender]
      rintro ⟨hne, m, hmem, hm⟩
      exact h.elim hne (fun hall => hm (hall m hmem))
    · rw [Bool.and_eq_true, bne_iff_ne, any_other_sender]
      exact ⟨hw, hm⟩
  case timeout => exact fun s p ha hs => (onDev_whenApplied _ s ha).trans (next_setDev s (relockTimeout_eq hs))
  case capture =>
    intro s p w ha hfit hw
    exact ⟨_, onDev_onUnit (fun d => d.portDieFitted (p.val / 128)) (R.PORT_RELOCK p.val) w (relockCapture p.val w) s (Dev.applied_running _ ha) hfit,
      relockCapture_captures p.val w s.dev ha hw⟩

end Sys2Proof.Machine
end

section
/-! Time messages, samples, lost inputs and the end of holdover (O51): R121 to R123, R131, R410, R413, R416, R418, R425. -/

namespace Sys2Proof.Machine

/-! ### Time messages on the wire (R121, R123) -/

@[simp] theorem timeValue_length (t : Int) : (timeValue t).length = 12 := by simp [timeValue]

theorem secOf_lt (t : Int) : secOf t < 256 ^ 6 := by unfold secOf; omega
theorem nsOf_lt (t : Int) : nsOf t < 256 ^ 4 := by unfold nsOf secUnit nsUnit; omega
theorem fracOf_lt (t : Int) : fracOf t < 256 ^ 2 := by unfold fracOf nsUnit; omega

/-- Seconds, nanoseconds and fraction make up the time value (R410). -/
theorem time_eq_parts (t : Int) (h0 : 0 ≤ t) (h1 : t < 2 ^ 48 * secUnit) :
    (secOf t : Int) * secUnit + (nsOf t : Int) * nsUnit + (fracOf t : Int) = t := by
  unfold secOf nsOf fracOf secUnit nsUnit at *
  omega

theorem timeValueOf_timeValue (t : Int) (h0 : 0 ≤ t) (h1 : t < 2 ^ 48 * secUnit) : timeValueOf (timeValue t) 0 = t := by
  rw [timeValueOf]
  simp only [timeValue, beAt_append_left, beAt_append_right, beAt_beBytes_of_lt (secOf_lt t), beAt_beBytes_of_lt (nsOf_lt t), beAt_beBytes_of_lt (fracOf_lt t),
    List.length_append, beBytes_length, Nat.reduceAdd, Nat.reduceSub, Nat.reduceLeDiff]
  exact time_eq_parts t h0 h1

theorem timeValueOf_append_left (a b : List Byte) {off : Nat} (h : off + 12 ≤ a.length) : timeValueOf (a ++ b) off = timeValueOf a off := by
  rw [timeValueOf, timeValueOf, beAt_append_left, beAt_append_left, beAt_append_left]
  all_goals omega

theorem timeValueOf_append_right (a b : List Byte) {off : Nat} (h : a.length ≤ off) : timeValueOf (a ++ b) off = timeValueOf b (off - a.length) := by
  have h6 : off + 6 - a.length = off - a.length + 6 := by omega
  have h10 : off + 10 - a.length = off - a.length + 10 := by omega
  rw [timeValueOf, timeValueOf, beAt_append_right a b h, beAt_append_right a b (by omega), beAt_append_right a b (by omega), h6, h10]

theorem timeBytes_length (m : TimeMsg) : (timeBytes m).length = 64 := by simp [timeBytes]

/-- XVER and the flags of the first byte. -/
theorem timeFlags {v a b c : Nat} (hv : v < 16) (ha : a ≤ 1) (hb : b ≤ 1) (hc : c ≤ 1) : let x := beAt (beBytes 1 (16 * v + a * 8 + b * 4 + c * 2)) 0 1
    bitsOf x 4 4 = v ∧ bitsOf x 3 1 = a ∧ bitsOf x 2 1 = b ∧ bitsOf x 1 1 = c := by
  rw [beAt_beBytes]
  unfold bitsOf
  omega

theorem timeOf_timeBytes (m : TimeMsg) (t4 : TimeVal) (again : Bool) (hv : m.xver < 16) (hx0 : 0 ≤ m.ttx) (hx1 : m.ttx < 2 ^ 48 * secUnit)
    (he0 : 0 ≤ m.techo) (he1 : m.techo < 2 ^ 48 * secUnit) (hr0 : 0 ≤ m.trx) (hr1 : m.trx < 2 ^ 48 * secUnit) :
    timeOf (timeBytes m) t4 again = { m with t4 := t4, replayed := again } := by
  obtain ⟨hver, hlock, hhold, hecho⟩ := timeFlags hv (b2n_le_one m.locked) (b2n_le_one m.hold) (b2n_le_one m.echov)
  simp only [timeOf, timeBytes, beBits, beAt_append_left, beAt_append_right, beAt_beBytes_toNat, beAt_cons_zero, beAt_cons_succ,
    timeValueOf_append_left, timeValueOf_append_right, timeValueOf_timeValue, List.length_append, beBytes_length, timeValue_length, zeros_length,
    List.length_cons, List.length_nil, Nat.reduceAdd, Nat.reduceSub, Nat.reduceMul, Nat.reduceLeDiff, hx0, hx1, he0, he1, hr0, hr1,
    hver, hlock, hhold, hecho, b2n_beq_one, BitVec.ofNat_toNat, BitVec.setWidth_eq]

/-! ### TIME_EXCHANGE_SEND (R122, R413, R418) -/

theorem width_congr {d e : Dev} (h : e.csr = d.csr) (p : Nat) : e.width p = d.width p := (Dev.SameLayout.of_csr h).width p

/-- A pair moves the transmitter to the next lane. -/
theorem sendPair_nextLane (p : Nat) (bs : List Byte) (d : Dev) :
    ((sendPair p bs d).link p).nextLane = ((d.link p).nextLane % max 1 (d.width p) + 1) % max 1 (d.width p) := by
  unfold sendPair
  extract_lets w k e
  have he : (e.link p).nextLane = (k + 1) % w := congrArg Link.nextLane (Dev.link_modLink_same p _ d)
  split
  · exact (congrArg Link.nextLane (Dev.link_modLink_same p _ e)).trans he
  · exact he

/-- n idle pairs move it n lanes on. -/
theorem each_sendIdle_nextLane (p kind n : Nat) (d : Dev) (hw : 0 < d.width p) :
    ((Dev.each (List.range n) (fun _ => sendIdle p kind) d).link p).nextLane % d.width p = ((d.link p).nextLane + n) % d.width p := by
  induction n with
  | zero => rfl
  | succ n ih =>
    have hwidth : (Dev.each (List.range n) (fun _ => sendIdle p kind) d).width p = d.width p :=
      width_congr (Dev.each_csr _ _ (fun _ _ => sendPair_csr _ _ _) _) p
    rw [List.range_succ, Dev.each, List.foldl_append]
    show ((sendIdle p kind (Dev.each (List.range n) (fun _ => sendIdle p kind) d)).link p).nextLane % _ = _
    rw [sendIdle, sendPair_nextLane, hwidth, Nat.max_eq_right hw, ih, Nat.mod_mod, Nat.mod_add_mod, Nat.add_assoc]

theorem toSlotZero_nextLane (p : Nat) (d : Dev) (hw : 0 < d.width p) : ((toSlotZero p d).link p).nextLane % d.width p = 0 := by
  have hk := Nat.mod_lt (d.link p).nextLane hw
  rw [toSlotZero, each_sendIdle_nextLane p ackAck _ d hw, Nat.max_eq_right hw, Nat.add_mod_mod, ← Nat.mod_add_mod, Nat.add_sub_cancel' hk.le,
    Nat.mod_self]

theorem timeExchangeSend_eq (p : PortNo) (d : Dev) (ho : d.isOfp p.val = true) (hu : d.isUp p.val = true)
    (ht : d.on (R.PORT_PCTL_TSEN p.val) = true) (hx : (d.link p.val).exchanged = false) (htx : (d.link p.val).tx = none) (hr : 0 < retryRoom d p.val) :
    timeExchangeSend p d = (let e := toSlotZero p.val d
      (Dev.each (pairGroups (timePacket e p.val (advertise (e.now + txCorr e p.val) (e.link p.val).echo e)))
        (fun f => sequencePair p.val 0 0 f []) e).modLink p.val (fun l => { l with exchanged := true })) := by
  refine if_pos ?_
  simp only [ho, hu, ht, hx, htx, hr, Bool.not_false, Option.isNone_none, decide_true, Bool.and_self]

theorem timeExchangeSend_not_due (p : PortNo) (d : Dev) (h : d.isOfp p.val = false ∨ d.isUp p.val = false ∨ d.on (R.PORT_PCTL_TSEN p.val) = false ∨
    (d.link p.val).exchanged = true ∨ (d.link p.val).tx ≠ none ∨ retryRoom d p.val = 0) : timeExchangeSend p d = d := by
  refine if_neg ?_
  simp only [Bool.and_eq_true, Bool.not_eq_true', Option.isNone_iff_eq_none, decide_eq_true_eq]
  rintro ⟨⟨⟨⟨⟨ho, hu⟩, ht⟩, hx⟩, htx⟩, hr⟩
  rcases h with h | h | h | h | h | h
  · simp [h] at ho
  · simp [h] at hu
  · simp [h] at ht
  · simp [h] at hx
  · exact h htx
  · omega

theorem advertise_spec (d : Dev) (t : Int) (e : Option (BitVec 16 × TimeVal × TimeVal)) :
    (advertise t e d).ttx = t ∧ (advertise t e d).echov = e.isSome ∧ (advertise t e d).locked = (tmode d == 1) ∧
    (d.on R.TIME_STATUS_ISROOT = true → (advertise t e d).root.toNat = swid d ∧ (advertise t e d).prio.toNat = d.get R.TIME_CFG_PRIO) ∧
    (d.on R.TIME_STATUS_ISROOT = false → tmode d = 0 → (advertise t e d).root = 0 ∧ (advertise t e d).hold = false) := by
  refine ⟨rfl, rfl, rfl, fun hr => ⟨?_, ?_⟩, fun hr hm => ⟨?_, ?_⟩⟩
  · simp [advertise, hr, swid]
  · have hp : d.get R.TIME_CFG_PRIO < 2 ^ 8 := bitsOf_lt _ _ _
    simp only [advertise, hr, if_true, BitVec.toNat_ofNat, Nat.mod_eq_of_lt hp]
  · simp [advertise, hr, hm]
  · simp [advertise, hr, hm]

/-! ### TIME_EXCHANGE_RECEIVE (R116, R117, R121 to R123, R131, R416) -/

section
variable {p : PortNo} {bs : List Byte} {t4 : TimeVal} {again : Bool} {d : Dev}

theorem timeExchangeReceive_down (h : d.isOfp p.val = false ∨ d.isUp p.val = false) : timeExchangeReceive p bs t4 again d = d := by
  refine if_pos ?_
  rcases h with h | h <;> simp [h]

section
variable (ho : d.isOfp p.val = true) (hu : d.isUp p.val = true)
include ho hu

theorem timeExchangeReceive_far (hf : d.farLoop p.val = true) :
    timeExchangeReceive p bs t4 again d = Dev.each (pairGroups bs) (fun f => sequencePair p.val 0 0 f []) d := by
  simp [timeExchangeReceive, ho, hu, hf]

variable (hf : d.farLoop p.val = false)
include hf

theorem timeExchangeReceive_other (h : again = true ∨ (ofpHdr bs).ver ≠ 1 ∨ (ofpHdr bs).type ≠ 7 ∨ (ofpHdr bs).len ≠ 64) :
    timeExchangeReceive p bs t4 again d = d := by
  have hbad : (again || (ofpHdr bs).ver != 1 || (ofpHdr bs).type != 7 || (ofpHdr bs).len != 64) = true := by
    simpa only [Bool.or_eq_true, bne_iff_ne, or_assoc] using h
  simp [timeExchangeReceive, ho, hu, hf, hbad]

variable (ha : again = false) (hv : (ofpHdr bs).ver = 1) (ht : (ofpHdr bs).type = 7) (hl : (ofpHdr bs).len = 64)
include ha hv ht hl

theorem timeExchangeReceive_bad (h : hcrcOk bs = false ∨ trailerOk bs = false) : timeExchangeReceive p bs t4 again d = countPort p.val 10 d := by
  have hbad : (!hcrcOk bs || !trailerOk bs) = true := by rcases h with h | h <;> simp [h]
  simp [timeExchangeReceive, ho, hu, hf, ha, hv, ht, hl, hbad]

theorem timeExchangeReceive_good (hc : hcrcOk bs = true) (htr : trailerOk bs = true) : timeExchangeReceive p bs t4 again d =
    (let m := timeOf (ofpPayload bs) t4 again
     let e := d.modLink p.val (fun l => { l with echo := some (m.xseq, m.ttx, m.t4 - rxCorr d p.val) })
     if d.on (R.PORT_PCTL_TSEN p.val) then timeSample p.val p.val m e else e) := by
  subst ha
  simp only [timeExchangeReceive, ho, hu, hf, hv, ht, hl, hc, htr, Bool.not_true, Bool.or_self, Bool.false_eq_true, if_false, bne_self_eq_false]
  rfl
end
end

/-! ### Samples (R123, R416) -/

theorem sampleOk_iff (m : TimeMsg) (delay : Int) (d : Dev) : sampleOk m delay d = true ↔
    m.xver = 1 ∧ m.echov = true ∧ (m.locked = true ∨ m.hold = true) ∧ m.root ≠ 0 ∧
    (m.root.toNat ≠ swid d ∨ d.on R.TIME_STATUS_ISROOT = true) ∧ m.dist.toNat < d.get R.TIME_CFG_MAXDIST ∧ -4 * 65536 ≤ delay := by
  simp only [sampleOk, Bool.and_eq_true, Bool.or_eq_true, beq_iff_eq, bne_iff_ne, decide_eq_true_eq, and_assoc]
  rfl

theorem turn_bump_timeCnt (k : Nat) (d : Dev) : (d.bump (R.TIME_CNT_COUNT k)).turn = d.turn := by
  have h (a : Nat) (ha : a < 0x01000000) : (d.bump (R.TIME_CNT_COUNT k)).rd a = d.rd a :=
    Dev.rd_set_ne d _ _ a (by show a ≠ 0x01000140 + 4 * k; omega)
  rw [Dev.turn, Dev.turn, Dev.rd64, Dev.rd64, h _ (by decide), h _ (by decide)]

theorem timeSample_domain (k p : Nat) (m : TimeMsg) (d : Dev) (h : m.domain.toNat ≠ d.get R.TIME_CFG_DOMAIN) :
    timeSample k p m d = d.bump (R.TIME_CNT_COUNT 1) := if_pos h

section
variable {k p : Nat} {m : TimeMsg} {d : Dev} (h : m.domain.toNat = d.get R.TIME_CFG_DOMAIN)
include h

theorem timeSample_refused (hs : sampleOk m (delayOf m (m.t4 - rxCorr d p)) d = false) : timeSample k p m d = d.bump (R.TIME_CNT_COUNT 2) := by
  simp only [timeSample, h, hs, ne_eq, not_true, if_false, Bool.not_false, if_true]

theorem timeSample_accepted (hs : sampleOk m (delayOf m (m.t4 - rxCorr d p)) d = true) : timeSample k p m d =
    { d.bump (R.TIME_CNT_COUNT 0) with time := { d.time with inputs := SMap.put d.time.inputs k (TimeInput.mk m.root m.prio m.dist m.hold
      (offsetOf m (m.t4 - rxCorr d p) + 256 * signed 16 (d.get (R.TIME_PORT_ASYM_ASYM p))) (delayOf m (m.t4 - rxCorr d p)) true (m.t4 - rxCorr d p)
      d.turn) } } := by
  rw [← turn_bump_timeCnt 0 d]
  simp only [timeSample, h, hs, ne_eq, not_true, if_false, Bool.not_true, Bool.false_eq_true]
  rfl
end

/-! ### Lost inputs and the end of holdover (R416, R425) -/

theorem timeInputLoss_known {k : Fin 1152} {i : TimeInput} {d : Dev} (h : SMap.get? d.time.inputs k.val = some i) :
    timeInputLoss k d = if i.lastTurn + lossTurns d k.val ≤ d.turn then loseInput k.val d else d := by rw [timeInputLoss, h]

/-- The clepsydra free-running again, before the event. -/
def freeRunning (d : Dev) : Dev := (setMode 0 d).set R.TIME_STATUS_REMEAS 0

theorem freeRunning_modes (d : Dev) : tmode (freeRunning d) = 0 ∧ (freeRunning d).get R.GLB_TURN_STATUS_MODE = 0 := by
  rw [tmode, freeRunning, setMode]
  constructor
  · rw [Dev.get_set_apart _ _ _ _ (by decide) (by unfold Fld.apart; decide), Dev.get_set_ne _ _ _ _ (by decide)]
    exact Dev.get_set_same _ _ _ (by decide)
  · rw [Dev.get_set_ne _ _ _ _ (by decide)]
    exact Dev.get_set_same _ _ _ (by decide)

/-- Holdover has ended; ADJ stays (R425). -/
def holdEnded (d : Dev) : Dev := { d with time := { d.time with holdFrom := none, samples := [], stepped := false, lockRun := 0 } }

theorem holdEnded_get (d : Dev) (f : Fld) : (holdEnded d).get f = d.get f := rfl

theorem holdEnded_time (d : Dev) : (holdEnded d).time.adj = d.time.adj ∧ (holdEnded d).time.holdFrom = none := ⟨rfl, rfl⟩

section
variable {d : Dev} {t0 : Nat} (hf : d.time.holdFrom = some t0)
include hf

theorem holdoverExpiry_waits (h : d.get R.TIME_HOLD_HOLDMAX = 0 ∨ d.turn < t0 + 1024 * d.get R.TIME_HOLD_HOLDMAX) : holdoverExpiry d = d := by
  have hnot : ¬ (tmode d == 2 && d.get R.TIME_HOLD_HOLDMAX != 0 && decide (t0 + 1024 * d.get R.TIME_HOLD_HOLDMAX ≤ d.turn)) = true := by
    simp only [Bool.and_eq_true, bne_iff_ne, decide_eq_true_eq]
    omega
  rw [holdoverExpiry, hf]
  exact if_neg hnot

theorem holdoverExpiry_due (hm : tmode d = 2) (h0 : d.get R.TIME_HOLD_HOLDMAX ≠ 0) (h : t0 + 1024 * d.get R.TIME_HOLD_HOLDMAX ≤ d.turn) :
    holdoverExpiry d = holdEnded (raiseCE blkTime 4 0 (freeRunning d)) := by
  have hdue : (tmode d == 2 && d.get R.TIME_HOLD_HOLDMAX != 0 && decide (t0 + 1024 * d.get R.TIME_HOLD_HOLDMAX ≤ d.turn)) = true := by
    simp [hm, h0, h]
  rw [holdoverExpiry, hf]
  dsimp only
  rw [if_pos hdue]
  rfl

/-- Holdover ends in MODE 0 and keeps ADJ (R425). -/
theorem holdoverExpiry_ends (hm : tmode d = 2) (h0 : d.get R.TIME_HOLD_HOLDMAX ≠ 0) (h : t0 + 1024 * d.get R.TIME_HOLD_HOLDMAX ≤ d.turn) :
    tmode (holdoverExpiry d) = 0 ∧ (holdoverExpiry d).get R.GLB_TURN_STATUS_MODE = 0 ∧ (holdoverExpiry d).time.adj = d.time.adj ∧
      (holdoverExpiry d).time.holdFrom = none := by
  obtain ⟨hmode, hturn⟩ := freeRunning_modes d
  have q := raiseCE_quiet blkTime 4 0 (freeRunning d) 0 0
  have hget (f : Fld) (hn : ¬ isEvtReg f.addr) : (holdEnded (raiseCE blkTime 4 0 (freeRunning d))).get f = (freeRunning d).get f :=
    (holdEnded_get _ f).trans (q.get f hn)
  obtain ⟨hadj, hhold⟩ := holdEnded_time (raiseCE blkTime 4 0 (freeRunning d))
  rw [q.time] at hadj
  rw [holdoverExpiry_due hf hm h0 h, tmode, hget _ (by unfold isEvtReg; decide), hget _ (by unfold isEvtReg; decide)]
  exact ⟨hmode, hturn, hadj, hhold⟩
end

/-- Settles O51. -/
theorem timeExchange : Obligations.TimeExchange := by
  refine ⟨?send, ?notDue, fun d p => toSlotZero_nextLane p d, fun d t e => advertise_spec d t e, ?receive, ?wire, sampleOk_iff, ?sample, ?loss, ?holdover⟩
  case send =>
    intro s p ha hb ho hu ht hx htx hr
    exact next_setDev s ((Dev.whenTurning_pos _ _ ha hb).trans (timeExchangeSend_eq p s.dev ho hu ht hx htx hr))
  case notDue =>
    intro s p h
    refine (next_setDev s ?_ : exec (.timeExchangeSend p) s = .next (s.setDev s.dev))
    show Dev.when _ (timeExchangeSend p) s.dev = s.dev
    rw [Dev.when, timeExchangeSend_not_due p s.dev h, ite_self]
  case receive =>
    intro s p bs t4 again ha runs
    have hout {e : Dev} (h : timeExchangeReceive p bs t4 again s.dev = e) : runs e := (onDev_whenApplied _ s ha).trans (next_setDev s h)
    refine ⟨fun h => hout (timeExchangeReceive_down h), fun ho hu => ⟨fun hf => hout (timeExchangeReceive_far ho hu hf),
      fun hf h => hout (timeExchangeReceive_other ho hu hf h), fun hf hag hv ht hl => ?_⟩⟩
    exact ⟨fun h => hout (timeExchangeReceive_bad ho hu hf hag hv ht hl h), fun hc htr => hout (timeExchangeReceive_good ho hu hf hag hv ht hl hc htr)⟩
  case wire => exact fun m t4 again hv hx0 hx1 he0 he1 hr0 hr1 => ⟨timeBytes_length m, timeOf_timeBytes m t4 again hv hx0 hx1 he0 he1 hr0 hr1⟩
  case sample => exact fun k p m d => ⟨timeSample_domain k p m d, fun h => timeSample_refused h, fun h => timeSample_accepted h⟩
  case loss =>
    intro s k i ha hi
    have hout := (onDev_whenApplied (timeInputLoss k) s ha).trans (next_setDev s (timeInputLoss_known hi))
    exact ⟨fun h => hout.trans (next_setDev s (if_pos h)), fun h => hout.trans (next_setDev s (if_neg (by omega)))⟩
  case holdover =>
    intro s t0 ha hm hf
    exact ⟨fun h0 h => ⟨_, onDev_whenApplied _ s ha, holdoverExpiry_ends hf hm h0 h⟩,
      fun h => (onDev_whenApplied _ s ha).trans (next_setDev s (holdoverExpiry_waits hf h))⟩

end Sys2Proof.Machine
end

section
/-! The forwarding tables (O25): the records of the update ring, what becomes visible at the boundary, MAC learning and aging. R144 to R150, R154 to
R156. -/

namespace Sys2Proof.Machine

/-! ### Batches of the update ring (R154, R156; log 12) -/

theorem recIs_zero (r : List Byte) (h : recOp r = 0 ∨ 3 < recOp r) : recIs 0 r = true := by simpa [recIs] using h

theorem recIs_self (r : List Byte) : recIs (recOp r) r = true := by simp [recIs]

theorem beginBatch_begun {d : Dev} (h : d.tables.batchLen ≠ 0) : beginBatch d = d := if_pos h

theorem tableTake_record {op : Nat} {r : List Byte} {d : Dev} (hlen : d.tables.batchLen ≠ 0) (hr : d.ringAt tblRing d.tables.batchDone = some r)
    (hop : recIs op r = true) : tableTake op d = endRecord (applyRecord d.tables.batchDone r d) := by
  simp only [tableTake, beginBatch_begun hlen, hlen, if_false, hr, hop, if_true]

section
variable {d : Dev} {b : List (List Byte)} (hlen : d.tables.batchLen = 0) (hb : batchAtHead d = some b)
include hlen hb

theorem beginBatch_fits (hfit : d.tables.spent + batchCost b ≤ 1024) : beginBatch d = { d.set R.FWD_RING_HEAD_WAIT 0 with
    tables := { d.tables with batchDone := 0, batchLen := b.length, spent := d.tables.spent + batchCost b } } := by
  have hcost : ¬ 1024 < batchCost b := by omega
  have hturn : ¬ 1024 < d.tables.spent + batchCost b := by omega
  simp only [beginBatch, hlen, ne_eq, not_true, if_false, hb, hcost, hturn]

theorem beginBatch_waits (hcost : batchCost b ≤ 1024) (hturn : 1024 < d.tables.spent + batchCost b) :
    beginBatch d = d.set R.FWD_RING_HEAD_WAIT 1 := by
  simp only [beginBatch, hlen, ne_eq, not_true, if_false, hb, not_lt.2 hcost, hturn, if_true]

theorem tableBatchOvercost_head : tableBatchOvercost d = if 1024 < batchCost b then
    (Dev.each (List.range b.length) (fun k => writeStatus k 5) d).ringAdvance tblRing b.length else d := by
  simp only [tableBatchOvercost, hlen, ne_eq, not_true, if_false, hb]
end

/-! ### One record (R155, R156) -/

theorem applyRecord_bad (k : Nat) {r : List Byte} (d : Dev) (h : recBad r = true) : applyRecord k r d = writeStatus k 4 d := if_pos h

section
variable (k : Nat) {r : List Byte} (d : Dev) (hok : recBad r = false)
include hok

theorem applyRecord_nop (hop : recOp r = 0) : applyRecord k r d = writeStatus k 1 d := by
  simp only [applyRecord, hok, Bool.false_eq_true, if_false, hop]

theorem applyRecord_write (hop : recOp r = 1) : applyRecord k r d =
    if (keyed (recTable r) && !insertRoom d (recTable r) (recKey r)) = true then writeStatus k 2 d
    else writeStatus k 1 (stage_ ⟨Fin.ofNat 8 (recTable r), recKey r,
      some ⟨keptData (recTable r) (slice r 32 32), beBits r 1 1 1 1 == 1 && recTable r == 5, false⟩⟩ d) := by
  simp only [applyRecord, hok, Bool.false_eq_true, if_false, hop]

theorem applyRecord_delete (hop : recOp r = 2) : applyRecord k r d =
    if (keyed (recTable r) && (pendingEntry d (recTable r) (recKey r)).isNone) = true then writeStatus k 3 d
    else writeStatus k 1 (stage_ ⟨Fin.ofNat 8 (recTable r), recKey r, none⟩ d) := by
  simp only [applyRecord, hok, Bool.false_eq_true, if_false, hop]

theorem applyRecord_read_found {e : TblEntry} (hop : recOp r = 3) (he : d.entry (recTable r) (recKey r) = some e) : applyRecord k r d =
    (writeStatus k 1 d).writeMem 1 (recAddr d k + 32)
      (if recTable r = 5 then padTo (leBytes 4 e.result ++ [BitVec.ofNat 8 (b2n (SMap.getD d.tables.hitWas (recKey r) e.hit))]) 32
        else padTo e.data 32) := by
  simp only [applyRecord, hok, Bool.false_eq_true, if_false, hop, he, Option.isNone_some, Bool.and_false]

theorem applyRecord_read_missing (hop : recOp r = 3) (hk : keyed (recTable r) = true) (he : d.entry (recTable r) (recKey r) = none) :
    applyRecord k r d = (writeStatus k 3 d).writeMem 1 (recAddr d k + 32) (zeros 32) := by
  simp only [applyRecord, hok, Bool.false_eq_true, if_false, hop, he, hk, Option.isNone_none, Bool.and_true, if_true]
end

/-! ### What a boundary makes visible (R155) -/

theorem SMap.get?_set {α : Type} (m : SMap α) (k : Nat) (v : Option α) : SMap.get? (SMap.set m k v) k = v := by
  cases v with
  | none => rw [SMap.set, SMap.get?_del, if_pos rfl]
  | some x => rw [SMap.set, SMap.get?_put, if_pos rfl]

theorem entry_setTbl {t : Nat} (m : SMap TblEntry) (k : Nat) {d : Dev} (h : t < d.tables.vis.length) :
    (setTbl t m d).entry t k = SMap.get? m k := by
  simp only [Dev.entry, Dev.tbl, setTbl, List.getD_eq_getElem?_getD, List.getElem?_set_self h, Option.getD_some]

theorem entry_setEntry {t : Nat} (k : Nat) (e : TblEntry) {d : Dev} (h : t < d.tables.vis.length) : (setEntry t k e d).entry t k = some e := by
  rw [setEntry, entry_setTbl _ _ h, SMap.get?_put, if_pos rfl]

/-- The visible tables after one change. -/
def applyChange (v : List (SMap TblEntry)) (c : TblChange) : List (SMap TblEntry) := v.set c.table.val (SMap.set (v.getD c.table.val []) c.key c.val)

theorem foldl_applyChange_length (cs : List TblChange) (v : List (SMap TblEntry)) : (cs.foldl applyChange v).length = v.length := by
  induction cs generalizing v with
  | nil => rfl
  | cons c cs ih => rw [List.foldl_cons, ih, applyChange, List.length_set]

theorem tableUpdateVisible_vis (d : Dev) :
    (tableUpdateVisible d).tables.vis = (d.tables.aged ++ d.tables.learned ++ d.tables.batch).foldl applyChange d.tables.vis := rfl

/-- The change staged last is applied last. -/
theorem tableUpdateVisible_stage_vis (c : TblChange) (d : Dev) :
    (tableUpdateVisible (stage_ c d)).tables.vis = applyChange ((d.tables.aged ++ d.tables.learned ++ d.tables.batch).foldl applyChange d.tables.vis) c := by
  have hlast : (stage_ c d).tables.aged ++ (stage_ c d).tables.learned ++ (stage_ c d).tables.batch =
      d.tables.aged ++ d.tables.learned ++ d.tables.batch ++ [c] := (List.append_assoc _ _ _).symm
  rw [tableUpdateVisible_vis, hlast, List.foldl_append]
  rfl

theorem tableUpdateVisible_stage_entry (c : TblChange) (d : Dev) (h : d.tables.vis.length = 8) :
    (tableUpdateVisible (stage_ c d)).entry c.table.val c.key = c.val := by
  have hlen : c.table.val < ((d.tables.aged ++ d.tables.learned ++ d.tables.batch).foldl applyChange d.tables.vis).length := by
    rw [foldl_applyChange_length, h]
    exact c.table.isLt
  rw [Dev.entry, Dev.tbl, tableUpdateVisible_stage_vis, applyChange, List.getD_eq_getElem?_getD, List.getElem?_set_self hlen, Option.getD_some,
    SMap.get?_set]

/-! ### Learning (R149) -/

theorem macLearn_unknown {seen d : Dev} {port vid sa : Nat} (hnew : seen.entry 5 (macKey vid sa) = none)
    (hport : d.on (R.FWD_PORT_CFG_LEARN port) = true) (hvlan : (seen.vlan vid).learn = true) : macLearn seen port vid sa d =
      if d.tables.learns < d.get R.FWD_LEARN_CFG_RATE ∧ insertRoom d 5 (macKey vid sa) = true then
        { d with tables := { d.tables with learned := d.tables.learned ++ [⟨5, macKey vid sa, some ⟨leBytes 4 (mkResult 1 port), false, true⟩⟩],
                                           learns := d.tables.learns + 1 } }
      else d.bump R.FWD_LEARN_STAT_DROPPED := by
  simp only [macLearn, hnew, hport, hvlan, Bool.and_self, if_true, Bool.and_eq_true, decide_eq_true_eq]

/-! ### Aging (R150) -/

theorem agingTurn_due {d : Dev} (hq : d.get R.FWD_AGE_CFG_QUANT ≠ 0) (hd : d.tables.ageDue = false) :
    (agingTurn d).tables.ageDue = true ↔ max 1 (d.get R.FWD_AGE_CFG_TURNS) ≤ d.tables.ageWait + 1 := by
  simp only [agingTurn, hq, hd, decide_false, Bool.or_self, Bool.false_eq_true, if_false, decide_eq_true_eq]

theorem macAging_not_due {d : Dev} (h : d.get R.FWD_AGE_CFG_QUANT = 0 ∨ d.tables.ageDue = false) : macAging d = d := by
  have hnot : (decide (d.get R.FWD_AGE_CFG_QUANT = 0) || !d.tables.ageDue) = true := by simpa using h
  exact if_pos hnot

/-- The entries that the next quantum visits and that are not static. -/
def agingVisits (d : Dev) : SMap TblEntry := (d.tbl 5).filter (fun e => !e.2.static_ &&
  decide ((Config.macIndex e.1 + 262144 - d.tables.agePos) % 262144 < d.get R.FWD_AGE_CFG_QUANT))

/-- The sweep stands at a new place, and the idle entries among those visited are to go. -/
def agingPassed (seen : SMap TblEntry) (pos : Nat) (d : Dev) : Dev :=
  { d with tables := { d.tables with
      aged := d.tables.aged ++ (seen.filter (fun e => !e.2.hit)).map (fun e => ⟨5, e.1, none⟩), agePos := pos, ageDue := false } }

section
variable {d : Dev} (hq : d.get R.FWD_AGE_CFG_QUANT ≠ 0) (hd : d.tables.ageDue = true)
include hq hd

theorem macAging_due : macAging d = agingPassed (agingVisits d) ((d.tables.agePos + d.get R.FWD_AGE_CFG_QUANT) % 262144)
    (Dev.each ((agingVisits d).filter (fun e => e.2.hit)) (fun e => setHit e.1 e.2 false) d) := by
  have hdue : ¬ (decide (d.get R.FWD_AGE_CFG_QUANT = 0) || !d.tables.ageDue) = true := by simp [hq, hd]
  exact if_neg hdue

theorem macAging_empty (ht : d.tbl 5 = []) : macAging d =
    { d with tables := { d.tables with agePos := (d.tables.agePos + d.get R.FWD_AGE_CFG_QUANT) % 262144, ageDue := false } } := by
  have hv : agingVisits d = [] := by rw [agingVisits, ht, List.filter_nil]
  rw [macAging_due hq hd, hv, agingPassed]
  simp only [List.filter_nil, List.map_nil, Dev.each, List.foldl_nil, List.append_nil]

section
variable {k : Nat} {e : TblEntry} (hv : agingVisits d = [(k, e)])
include hv

theorem macAging_hit (hhit : e.hit = true) (h5 : 5 < d.tables.vis.length) : (macAging d).entry 5 k = some { e with hit := false } := by
  have hseen : (agingVisits d).filter (fun e => e.2.hit) = [(k, e)] := by rw [hv]; exact List.filter_cons_of_pos hhit
  have hvis : (setHit k e false d).tables.vis = (setEntry 5 k { e with hit := false } d).tables.vis := by
    unfold setHit
    dsimp only
    split <;> rfl
  have hentry : (macAging d).entry 5 k = (setEntry 5 k { e with hit := false } d).entry 5 k := by
    rw [macAging_due hq hd, hseen]
    exact congrArg (fun v => SMap.get? (v.getD 5 []) k) hvis
  rw [hentry, entry_setEntry k _ h5]

theorem macAging_idle (hidle : e.hit = false) : (macAging d).tables.aged = d.tables.aged ++ [⟨5, k, none⟩] := by
  rw [macAging_due hq hd, hv, agingPassed]
  simp only [List.filter_cons, hidle, Bool.false_eq_true, if_false, Bool.not_false, if_true, List.filter_nil, List.map_cons, List.map_nil,
    Dev.each, List.foldl_nil]
end
end

theorem agingVisits_single {d : Dev} {k : Nat} {e : TblEntry} (ht : d.tbl 5 = [(k, e)]) (hs : e.static_ = false)
    (hk : (Config.macIndex k + 262144 - d.tables.agePos) % 262144 < d.get R.FWD_AGE_CFG_QUANT) : agingVisits d = [(k, e)] := by
  rw [agingVisits, ht]
  exact List.filter_cons_of_pos (by simp only [hs, hk, decide_true, Bool.not_false, Bool.and_self])

theorem macAgingQuantum_turning (s : State) (ha : s.dev.applied = true) (hb : s.dev.boot.turnsBegun = true) :
    exec .macAgingQuantum s = .next (s.setDev (macAging s.dev)) := next_setDev s (Dev.whenTurning_pos _ _ ha hb)

/-- Settles O25. -/
theorem tableRecords : Obligations.TableRecords := by
  refine ⟨?commands, fun d k r => applyRecord_bad k d, fun d k r => applyRecord_nop k d, ?room, ?full, ?missing, ?delete, ?read, ?readMac,
    fun d k r => applyRecord_read_missing k d, ?batch, ?overcost, fun d c h => ⟨tableUpdateVisible_stage_entry c d h, rfl⟩,
    fun d seen port vid sa => macLearn_unknown, ?notDue, ?empty, ?single, fun d => agingTurn_due⟩
  case commands =>
    intro s r ha hlen hr t
    have taken (op : Nat) (h : recIs op r = true) : onDev (Dev.whenApplied (tableTake op)) s = .next t :=
      (onDev_whenApplied _ s ha).trans (next_setDev s (tableTake_record hlen hr h))
    exact ⟨fun h => taken 0 (recIs_zero r h), fun h => taken 1 (h ▸ recIs_self r), fun h => taken 2 (h ▸ recIs_self r),
      fun h => taken 3 (h ▸ recIs_self r)⟩
  case room =>
    intro d k r hok hop h
    exact (applyRecord_write k d hok hop).trans (if_neg (by rcases h with h | h <;> simp [h]))
  case full =>
    intro d k r hok hop hk h
    exact (applyRecord_write k d hok hop).trans (if_pos (by simp [hk, h]))
  case missing =>
    intro d k r hok hop hk h
    exact (applyRecord_delete k d hok hop).trans (if_pos (by simp [hk, h]))
  case delete =>
    intro d k r hok hop h
    exact (applyRecord_delete k d hok hop).trans (if_neg (by rcases h with h | h <;> simp [h]))
  case read =>
    intro d k r e hok hop h5 he
    rw [applyRecord_read_found k d hok hop he, if_neg h5]
  case readMac =>
    intro d k r e hok hop h5 he
    rw [applyRecord_read_found k d hok hop (h5 ▸ he), if_pos h5]
  case batch => exact fun d b hlen hb hcost => ⟨beginBatch_fits hlen hb, beginBatch_waits hlen hb hcost⟩
  case overcost =>
    intro s b ha hlen hb
    have hout : exec .tableBatchOvercost s = _ := (onDev_whenApplied _ s ha).trans (next_setDev s (tableBatchOvercost_head hlen hb))
    exact ⟨fun h => hout.trans (next_setDev s (if_pos h)), fun h => hout.trans (next_setDev s (if_neg (not_lt.2 h)))⟩
  case notDue =>
    intro s h
    have hsame : Dev.whenTurning macAging s.dev = s.dev := by rw [Dev.whenTurning, Dev.when, macAging_not_due h, ite_self]
    exact next_setDev s hsame
  case empty =>
    intro s q ha hb hd hq h0 ht
    subst hq
    exact (macAgingQuantum_turning s ha hb).trans (next_setDev s (macAging_empty h0.ne' hd ht))
  case single =>
    intro s q k e ha hb hd hq ht hs hk
    subst hq
    have hv := agingVisits_single ht hs hk
    have h0 : s.dev.get R.FWD_AGE_CFG_QUANT ≠ 0 := by omega
    exact ⟨_, macAgingQuantum_turning s ha hb, fun hhit h8 => macAging_hit h0 hd hv hhit (by omega), macAging_idle h0 hd hv⟩

end Sys2Proof.Machine
end

section
/-! What the headgate admits (O26): R164, R166 to R169. -/

namespace Sys2Proof.Machine

/-! ### The checks of the headgate (R167 to R169) -/

/-- What the device builds is judged by the free cells alone (R530). -/
theorem refusal_built_iff (p : Pkt) (q : Option Nat) (d : Dev) : refusal p q true d = none ↔ p.cells ≤ d.cist.free := by
  have h : refusal p q true d = if d.cist.free < p.cells then some 6 else none := rfl
  rw [h, ite_eq_right_iff]
  simp only [reduceCtorEq, imp_false, not_lt]

theorem refusal_jobQuota {p : Pkt} {d : Dev} {j : JobIdx} (hj : p.job = some j)
    (h : within (d.get (R.CIST_JUSE_CELLS j.val)) p.cells (d.get (R.CIST_JQUOTA_PAGES j.val)) = false) (q : Option Nat) :
    refusal p q false d = some 0 := by
  have hany : p.job.any (fun j => !within (d.get (R.CIST_JUSE_CELLS j.val)) p.cells (d.get (R.CIST_JQUOTA_PAGES j.val))) = true := by
    rw [hj, Option.any_some, h, Bool.not_false]
  exact if_pos hany

/-- A check that no account of a packet fails holds of the account it has. -/
theorem holds_of_not_any_not {α : Type} {o : Option α} {f : α → Bool} (h : ¬ o.any (fun x => !f x) = true) {x : α} (hx : o = some x) :
    f x = true := by
  rw [hx, Option.any_some, Bool.not_eq_true', Bool.not_eq_false] at h
  exact h

theorem refusal_none_fits {p : Pkt} {q : Option Nat} {d : Dev} (h : refusal p q false d = none) :
    p.cells ≤ d.cist.free ∧ within (d.get (R.CIST_CUSE_CELLS p.tc.val)) p.cells (d.get (R.CIST_CQUOTA_PAGES p.tc.val)) = true ∧
    (∀ j, p.job = some j → within (d.get (R.CIST_JUSE_CELLS j.val)) p.cells (d.get (R.CIST_JQUOTA_PAGES j.val)) = true) ∧
    (∀ a, p.acct = some a → within (d.get (R.CIST_PUSE_CELLS a.val)) p.cells (d.get (R.CIST_PQUOTA_PAGES a.val)) = true) ∧
    (∀ x, q = some x → p.lossless = false → within (d.depth x) p.cells (d.qmax x) = true ∧ thresholdOk x p.cells d = true) := by
  simp only [refusal, Bool.false_eq_true, if_false] at h
  split_ifs at h with hjob hacct hclass hmax hthreshold hheadroom hcells
  refine ⟨not_lt.1 hcells, by simpa using hclass, fun j => holds_of_not_any_not hjob, fun a => holds_of_not_any_not hacct, ?_⟩
  intro x hx hlossy
  rw [hlossy, Bool.not_false, Bool.true_and] at hmax hthreshold
  exact ⟨holds_of_not_any_not hmax hx, holds_of_not_any_not hthreshold hx⟩

/-- Settles O26. -/
theorem headgateAdmits : Obligations.Headgate :=
  ⟨refusal_built_iff, fun _ _ _ => refusal_none_fits, fun _ q _ _ hj h => refusal_jobQuota hj h q⟩

end Sys2Proof.Machine
end

section
/-! The spillway (O27): R163, R172, R176 to R181, R456. What the work of a page leaves alone, page writes, prefetches and quota writes. -/

namespace Sys2Proof.Machine

/-! ### Commands that leave the device as it is -/

theorem Dev.when_same {c : Bool} {f : Dev → Dev} {d : Dev} (h : f d = d) : Dev.when c f d = d := by rw [Dev.when, h, ite_self]

/-- A command of an applied image that changes nothing where it acts changes nothing anywhere (log 10). -/
theorem onDev_whenApplied_same (f : Dev → Dev) (s : State) (h : f s.dev = s.dev) : onDev (Dev.whenApplied f) s = .next s :=
  next_setDev s (Dev.when_same h)

/-! ### What the spillway goes by -/

/-- The partitions, the queues, the allowance of page writes and the place in their round-robin (R180, R185). -/
def Dev.spillway (d : Dev) : Boot × SMap UQueue × SMap (List MPkt) × Nat × Nat :=
  (d.boot, d.cist.uq, d.cist.mq, d.cist.wleft, d.cist.lastSpill)

section
variable {d e : Dev} (h : e.spillway = d.spillway)
include h
theorem boot_of_spillway : e.boot = d.boot := congrArg (fun x => x.1) h
theorem uq_of_spillway (q : Nat) : e.uq q = d.uq q :=
  congrArg (fun l => SMap.getD l q UQueue.init) (congrArg (fun x => x.2.1) h : e.cist.uq = d.cist.uq)
theorem mq_of_spillway (m : Nat) : e.mq m = d.mq m :=
  congrArg (fun l => SMap.getD l m []) (congrArg (fun x => x.2.2.1) h : e.cist.mq = d.cist.mq)
theorem wleft_of_spillway : e.cist.wleft = d.cist.wleft := congrArg (fun x => x.2.2.2.1) h
theorem lastSpill_of_spillway : e.cist.lastSpill = d.cist.lastSpill := congrArg (fun x => x.2.2.2.2) h
end

theorem set_spillway (f : Fld) (v : Nat) (d : Dev) : (d.set f v).spillway = d.spillway := rfl

/-! #### Events and counters -/

theorem addSat_spillway (d : Dev) (c n : Nat) : (d.addSat c n).1.spillway = d.spillway := by
  unfold Dev.addSat; dsimp only
  split
  · rfl
  · split <;> rfl

theorem addCtr_spillway (d : Dev) (c n : Nat) : (d.addCtr c n).1.spillway = d.spillway := by
  unfold Dev.addCtr; dsimp only
  split
  · split
    · rfl
    · exact addSat_spillway _ _ _
  · exact addSat_spillway _ _ _

theorem addCtrs_spillway (cs : List (Nat × Nat)) (d : Dev) : (addCtrs cs d).1.spillway = d.spillway :=
  List.foldlRecOn (motive := fun r : Dev × List Nat => r.1.spillway = d.spillway) cs _ rfl (fun _ hr _ _ => (addCtr_spillway _ _ _).trans hr)

theorem eventIrq_spillway (d : Dev) : (eventIrq d).spillway = d.spillway := by
  unfold eventIrq; split <;> rfl

theorem ringPush_spillway (r : RingRef) (bs : List Byte) (d : Dev) : (d.ringPush r bs).spillway = d.spillway := rfl

theorem logEvent_spillway (e : Event) (d : Dev) : (logEvent e d).spillway = d.spillway := by
  unfold logEvent; dsimp only
  split
  · rfl
  · split
    · rfl
    · exact (eventIrq_spillway (d.ringPush evtRing _)).trans (ringPush_spillway evtRing _ d)

/-- Telemetry joins the packets that are built and takes a number for them. -/
theorem sendTelemetry_spillway (eng : Nat) (p : List Byte) (d : Dev) : (sendTelemetry eng p d).spillway = d.spillway := by
  unfold sendTelemetry; dsimp only
  split
  · rfl
  · split <;> rfl
  · rfl

theorem forwardEvent_spillway (e : Event) (d : Dev) : (forwardEvent e d).spillway = d.spillway := by
  unfold forwardEvent; dsimp only
  split
  · rfl
  · split
    · exact set_spillway _ _ d
    · split <;> exact sendTelemetry_spillway _ _ _

theorem raiseFuel_spillway (n : Nat) (q : EventReq) (d : Dev) : (raiseFuel n q d).spillway = d.spillway := by
  induction n generalizing q d with
  | zero => rfl
  | succ n ih =>
    unfold raiseFuel
    extract_lets e _ d1 d2 _ d3 r
    have h2 : d2.spillway = d.spillway := forwardEvent_spillway e d1
    have h3 : d3.spillway = d2.spillway := by
      unfold d3
      split
      · exact logEvent_spillway _ _
      · split <;> rfl
    have hr : r.1.spillway = d3.spillway := addCtrs_spillway _ _
    exact (Dev.each_kept Dev.spillway r.2 (fun c d => raiseFuel n ⟨0, 0x50, 2, c, 0, 0, none⟩ d) (fun c d => ih _ d) r.1).trans
      (hr.trans (h3.trans h2))

theorem raiseDE_spillway (b c u : Nat) (d : Dev) (x y : Nat) : (raiseDE b c u d x y).spillway = d.spillway := raiseFuel_spillway _ _ _

theorem countLines_spillway (sp req cls priv a n : Nat) (d : Dev) : (countLines sp req cls priv a n d).spillway = d.spillway := by
  unfold countLines
  split
  · rfl
  · exact (Dev.each_kept Dev.spillway _ (fun c d => raiseCE blkGauge 2 c d) (fun _ _ => raiseFuel_spillway _ _ _) _).trans
      (addCtrs_spillway _ d)

theorem countLines_quiet (sp req cls priv a n : Nat) (d : Dev) : d.Quiet (countLines sp req cls priv a n d) := by
  unfold countLines
  split
  · exact .refl d
  · exact countMany_quiet _ d

/-! #### Ingress accounts, XOFF and credits -/

theorem sendPfc_spillway (p tc n : Nat) (d : Dev) : (sendPfc p tc n d).spillway = d.spillway :=
  Dev.each_kept Dev.spillway (pfcPriorities d p tc) (fun k d => d.emit (.pfc (Fin.ofNat 1024 p) (Fin.ofNat 8 k) (BitVec.ofNat 16 n)))
    (fun _ _ => rfl) d

theorem xoffUpdate_spillway (p tc : Nat) (d : Dev) : (xoffUpdate p tc d).spillway = d.spillway := by
  unfold xoffUpdate; dsimp only
  split
  · rfl
  · split
    · split
      · exact sendPfc_spillway _ _ _ _
      · rfl
    · split
      · exact sendPfc_spillway _ _ _ _
      · rfl

theorem gxUpdate_spillway (d : Dev) : (gxUpdate d).spillway = d.spillway := by
  unfold gxUpdate; dsimp only
  split
  · rfl
  · exact Dev.each_kept Dev.spillway _ _ (fun p => Dev.each_kept Dev.spillway _ _ (fun tc => xoffUpdate_spillway p tc)) _

theorem sendPair_spillway (p : Nat) (bs : List Byte) (d : Dev) : (sendPair p bs d).spillway = d.spillway := by
  unfold sendPair; dsimp only
  split <;> rfl

theorem sequencePair_spillway (p : Nat) (vc : BitVec 4) (n : BitVec 10) (fl : List Byte) (ps : List Pkt) (d : Dev) :
    (sequencePair p vc n fl ps d).spillway = d.spillway := sendPair_spillway _ _ _

theorem sendDue_spillway (p : Nat) (d : Dev) : (sendDue p d).spillway = d.spillway :=
  Dev.each_kept Dev.spillway _ _ (fun _ => sequencePair_spillway _ _ _ _ _) _

theorem returnCredits_spillway (p : Nat) (vc : BitVec 4) (n : Nat) (d : Dev) : (returnCredits p vc n d).spillway = d.spillway := by
  unfold returnCredits
  split
  · rfl
  · exact sendDue_spillway _ _

theorem leaveIngress_spillway (x : Pkt) (n : Nat) (d : Dev) : (leaveIngress x n d).2.spillway = d.spillway := by
  have hroom : (if x.headroom then { d with cist := { d.cist with hdrmUsed := d.cist.hdrmUsed - min n x.ingr } } else d).spillway = d.spillway := by
    split <;> rfl
  cases hi : x.inPort with
  | none =>
    simp only [leaveIngress, hi]
    exact hroom
  | some i =>
    simp only [leaveIngress, hi]
    split
    · cases x.creditsDue with
      | none => exact (xoffUpdate_spillway _ _ _).trans hroom
      | some c => exact (returnCredits_spillway _ _ _ _).trans ((xoffUpdate_spillway _ _ _).trans hroom)
    · exact (xoffUpdate_spillway _ _ _).trans hroom

/-- The cells of a page that leave their ingress accounts change no register and nothing the spillway goes by. -/
theorem spillCells_kept {β : Type} (g : Dev → β) (h : ∀ x n d, g (leaveIngress x n d).2 = g d) (lo : Nat) (ps : List (Nat × Pkt)) (d : Dev) :
    g (spillCells lo ps d).2.2 = g d := by
  refine List.foldlRecOn (motive := fun r : List Pkt × Nat × Dev => g r.2.2 = g d) ps _ rfl (fun r hr x _ => ?_)
  dsimp only
  split
  · exact hr
  · exact (h _ _ _).trans hr

/-! ### A unicast queue replaced -/

section
variable (q : Nat) (u : UQueue) (d : Dev)

theorem setUQ_uq : (setUQ q u d).uq q = { u with shared := u.h + u.t - u.hdrm - min (u.lossyCells (d.pages q)) (d.minq q) } := by
  change SMap.getD (SMap.write d.cist.uq q _ UQueue.init) q UQueue.init = _
  rw [SMap.getD_write, if_pos rfl]

theorem showSpilling_rd {a : Nat} (ho : a ≠ R.CIST_QOCC q) : (showSpilling q u d).rd a = d.rd a := Dev.rd_set_ne d (R.CIST_QOCC_STATE q) _ a ho

theorem raisePrefetch_rd (a : Nat) : (raisePrefetch q u d).rd a = d.rd a := rfl

theorem showFree_rd {a : Nat} (hf : a ≠ R.CIST_POOL_FREE) : (showFree d).rd a = d.rd a := Dev.rd_set_ne d R.CIST_POOL_FREE_FREE _ a hf

theorem showFree_cist : (showFree d).cist = d.cist := Dev.set_cist _ _ _
theorem showFree_boot : (showFree d).boot = d.boot := Dev.set_boot _ _ _
theorem showSpilling_cist : (showSpilling q u d).cist = d.cist := Dev.set_cist _ _ _
theorem showSpilling_boot : (showSpilling q u d).boot = d.boot := Dev.set_boot _ _ _
theorem raisePrefetch_boot : (raisePrefetch q u d).boot = d.boot := rfl
theorem raisePrefetch_round : (raisePrefetch q u d).cist.wleft = d.cist.wleft ∧ (raisePrefetch q u d).cist.lastSpill = d.cist.lastSpill := ⟨rfl, rfl⟩

theorem setUQ_boot : (setUQ q u d).boot = d.boot := by
  unfold setUQ
  extract_lets old sh v c e
  rw [showFree_boot, raisePrefetch_boot, showSpilling_boot, Dev.set_boot]

theorem setUQ_round : (setUQ q u d).cist.wleft = d.cist.wleft ∧ (setUQ q u d).cist.lastSpill = d.cist.lastSpill := by
  unfold setUQ
  extract_lets old sh v c e
  obtain ⟨hw, hl⟩ := raisePrefetch_round q v (showSpilling q v (e.set (R.CIST_QOCC_CELLS q) (v.h + v.t)))
  rw [showFree_cist, hw, hl, showSpilling_cist, Dev.set_cist]
  exact ⟨rfl, rfl⟩

theorem setUQ_rd {a : Nat} (ho : a ≠ R.CIST_QOCC q) (hf : a ≠ R.CIST_POOL_FREE) : (setUQ q u d).rd a = d.rd a := by
  unfold setUQ
  extract_lets old sh v c e
  have hq : (e.set (R.CIST_QOCC_CELLS q) (v.h + v.t)).rd a = e.rd a := Dev.rd_set_ne e (R.CIST_QOCC_CELLS q) _ a ho
  rw [showFree_rd _ hf, raisePrefetch_rd, showSpilling_rd _ _ _ ho, hq]
  rfl
end

/-! ### Page counts and the free slots of the region -/

theorem get_of_rd {d e : Dev} {f : Fld} (h : e.rd f.addr = d.rd f.addr) : e.get f = d.get f := by rw [Dev.get, Dev.get, h]

theorem cistern_not_evt {a : Nat} (h : 0x21000000 ≤ a) : ¬ isEvtReg a := not_isEvtReg_of_lt (lt_of_lt_of_le (by decide) h)

theorem qspill_not_evt (q : Nat) : ¬ isEvtReg (R.CIST_QSPILL q) := cistern_not_evt (by unfold R.CIST_QSPILL; omega)

theorem qspill_ne_qocc (q : Nat) : R.CIST_QSPILL q ≠ R.CIST_QOCC q := by unfold R.CIST_QSPILL R.CIST_QOCC; omega

theorem qspill_ne_free (q : Nat) : R.CIST_QSPILL q ≠ R.CIST_POOL_FREE := by unfold R.CIST_QSPILL R.CIST_POOL_FREE; omega

theorem spillStat_ne_qspill {q : Nat} (hq : q < 8192) : R.RES_SPILL_STAT ≠ R.CIST_QSPILL q := by unfold R.RES_SPILL_STAT R.CIST_QSPILL; omega

theorem spillStat_ne_qocc {q : Nat} (hq : q < 8192) : R.RES_SPILL_STAT ≠ R.CIST_QOCC q := by unfold R.RES_SPILL_STAT R.CIST_QOCC; omega

theorem pages_congr {d e : Dev} {q : Nat} (h : e.rd (R.CIST_QSPILL q) = d.rd (R.CIST_QSPILL q)) : e.pages q = d.pages q :=
  congrArg (fun n => if q < 8192 then n else 0) (get_of_rd (f := R.CIST_QSPILL_PAGES q) h)

theorem pages_lt (d : Dev) (q : Nat) : d.pages q < 2 ^ (R.CIST_QSPILL_PAGES q).w := by
  unfold Dev.pages
  split
  · exact bitsOf_lt _ _ _
  · exact Nat.two_pow_pos _

theorem pages_set (d : Dev) {q n : Nat} (hq : q < 8192) (hn : n < 2 ^ (R.CIST_QSPILL_PAGES q).w) : (d.set (R.CIST_QSPILL_PAGES q) n).pages q = n := by
  have hw : (R.CIST_QSPILL_PAGES q).lo + (R.CIST_QSPILL_PAGES q).w ≤ 32 := (by decide : 0 + 25 ≤ 32)
  rw [Dev.pages, if_pos hq, Dev.get_set_same _ _ _ hw, Nat.mod_eq_of_lt hn]

/-- What setUQ shows of a queue leaves its page count, and the slots in use. -/
theorem setUQ_pages (q : Nat) (u : UQueue) (d : Dev) : (setUQ q u d).pages q = d.pages q :=
  pages_congr (setUQ_rd q u d (qspill_ne_qocc q) (qspill_ne_free q))

theorem spillSlots_congr {d e : Dev} (h : e.boot = d.boot) : spillSlots e = spillSlots d := by rw [spillSlots, spillSlots, Dev.partSize, Dev.partSize, h]

theorem spillFull_congr {d e : Dev} (hb : e.boot = d.boot) (hu : e.rd R.RES_SPILL_STAT = d.rd R.RES_SPILL_STAT) : spillFull e = spillFull d := by
  rw [spillFull, spillFull, spillSlots_congr hb, get_of_rd (f := R.RES_SPILL_STAT_USED) hu]

theorem spillFull_incr (d : Dev) (h : d.get R.RES_SPILL_STAT_USED + 1 < spillSlots d) : spillFull (d.incr R.RES_SPILL_STAT_USED) = false := by
  have hused : (d.incr R.RES_SPILL_STAT_USED).get R.RES_SPILL_STAT_USED ≤ d.get R.RES_SPILL_STAT_USED + 1 := by
    rw [Dev.incr_eq, Dev.get_set_same _ _ _ (by decide)]
    exact Nat.mod_le _ _
  have hslots : spillSlots (d.incr R.RES_SPILL_STAT_USED) = spillSlots d := spillSlots_congr rfl
  exact decide_eq_false (by rw [hslots]; omega)

theorem noteFull_of_room {d : Dev} (h : spillFull d = false) : noteFull d = d := if_neg (by simp [h])

/-! ### SPILL_PAGE_WRITE (R163, R177, R180, R181) -/

theorem pageReady_iff (d : Dev) (q : Nat) (u : UQueue) : pageReady d q u = true ↔ (u.spilling = true ∧ 64 ≤ u.t ∧
    d.on (R.CIST_QPROF_A_SPILLEN (d.prof q)) = true ∧
    ∀ x ∈ u.places, overlap x.1 x.2.cells (u.h + 64 * d.pages q) 64 = 0 ∨ x.2.whole = true) := by
  simp only [pageReady, Bool.and_eq_true, decide_eq_true_eq, List.all_eq_true, Bool.or_eq_true, beq_iff_eq, and_assoc]

theorem spillAccess_rd (cls : Nat) (d : Dev) {a : Nat} (ha : ¬ isEvtReg a) : (spillAccess cls d).rd a = d.rd a :=
  (countLines_quiet _ _ _ _ _ _ d.draw.2).rd a ha

theorem spillAccess_spillway (cls : Nat) (d : Dev) : (spillAccess cls d).spillway = d.spillway := countLines_spillway _ _ _ _ _ _ _

section
variable (q : Nat) (bad : List (Fin 64)) (d : Dev)

/-- The page's cells leave the ingress accounts; those read back uncorrectable poison their packets (R163, R171). -/
def pageLeft : List Pkt × Nat × Dev :=
  let lo := (d.uq q).h + 64 * d.pages q
  spillCells lo (bad.foldl (fun ps k => poisonCells (lo + k.val) 1 ps) (d.uq q).places) (Dev.each bad (fun _ => raiseDE blkCist 2 q) d)

/-- The write is charged to the turn's allowance, and the round-robin goes on from the queue. -/
def pageCharged : Dev :=
  let e := (pageLeft q bad d).2.2
  { e with cist := { e.cist with wleft := e.cist.wleft - 1, lastSpill := q } }

/-- The queue after the write of a page, where a slot remains free. -/
def pageWritten : Dev :=
  let e := (pageCharged q bad d).incr R.RES_SPILL_STAT_USED
  let u := d.uq q
  let r := pageLeft q bad d
  gxUpdate (setUQ q { u with pkts := r.1, t := u.t - 64, hdrm := u.hdrm - r.2.1 } (e.set (R.CIST_QSPILL_PAGES q) (e.pages q + 1)))

theorem pageLeft_spillway : (pageLeft q bad d).2.2.spillway = d.spillway :=
  (spillCells_kept Dev.spillway leaveIngress_spillway _ _ _).trans
    (Dev.each_kept Dev.spillway bad _ (fun _ d => raiseDE_spillway _ _ _ d _ _) d)

theorem pageCharged_rd {a : Nat} (ha : ¬ isEvtReg a) : (pageCharged q bad d).rd a = d.rd a :=
  (Dev.rd_congr (spillCells_kept Dev.csr leaveIngress_csr _ _ _) a).trans
    ((Dev.Quiet.foldl _ bad (fun d _ => raiseDE_quiet _ _ _ d _ _) d).rd a ha)

theorem pageCharged_boot : (pageCharged q bad d).boot = d.boot := (boot_of_spillway (pageLeft_spillway q bad d) :)
end

section
variable {q : Nat} {bad : List (Fin 64)} {d : Dev}

theorem pageCharged_room (hroom : d.get R.RES_SPILL_STAT_USED + 1 < spillSlots d) :
    spillFull ((pageCharged q bad d).incr R.RES_SPILL_STAT_USED) = false := by
  refine spillFull_incr _ ?_
  rw [spillSlots_congr (pageCharged_boot q bad d),
    get_of_rd (f := R.RES_SPILL_STAT_USED) (pageCharged_rd q bad d (cistern_not_evt (by decide)))]
  exact hroom

theorem pageWritten_pages (hq : q < 8192) (hp : d.pages q + 1 < 2 ^ (R.CIST_QSPILL_PAGES q).w) : (pageWritten q bad d).pages q = d.pages q + 1 := by
  have hcount : ((pageCharged q bad d).incr R.RES_SPILL_STAT_USED).pages q = d.pages q :=
    pages_congr ((Dev.rd_set_ne _ R.RES_SPILL_STAT_USED _ _ (spillStat_ne_qspill hq).symm).trans (pageCharged_rd q bad d (qspill_not_evt q)))
  rw [pageWritten, pages_congr (Dev.rd_congr (gxUpdate_csr _) _), setUQ_pages, hcount, pages_set _ hq hp]

theorem pageWritten_boot : (pageWritten q bad d).boot = d.boot := by
  rw [pageWritten, boot_of_spillway (gxUpdate_spillway _), setUQ_boot]
  exact pageCharged_boot q bad d

theorem pageWritten_room (hq : q < 8192) (hroom : d.get R.RES_SPILL_STAT_USED + 1 < spillSlots d) : spillFull (pageWritten q bad d) = false := by
  rw [← pageCharged_room (q := q) (bad := bad) hroom]
  refine spillFull_congr (pageWritten_boot.trans (pageCharged_boot q bad d).symm) ?_
  rw [pageWritten, Dev.rd_congr (gxUpdate_csr _), setUQ_rd _ _ _ (spillStat_ne_qocc hq) (by decide)]
  exact Dev.rd_set_ne _ (R.CIST_QSPILL_PAGES q) _ _ (spillStat_ne_qspill hq)

theorem pageWritten_uq : ((pageWritten q bad d).uq q).t = (d.uq q).t - 64 ∧ ((pageWritten q bad d).uq q).h = (d.uq q).h := by
  rw [pageWritten, uq_of_spillway (gxUpdate_spillway _), setUQ_uq]
  exact ⟨rfl, rfl⟩

theorem pageWritten_wleft : (pageWritten q bad d).cist.wleft = d.cist.wleft - 1 := by
  rw [pageWritten, wleft_of_spillway (gxUpdate_spillway _), (setUQ_round _ _ _).1]
  exact congrArg (· - 1) (wleft_of_spillway (pageLeft_spillway q bad d))

theorem pageWritten_lastSpill : (pageWritten q bad d).cist.lastSpill = q := by
  rw [pageWritten, lastSpill_of_spillway (gxUpdate_spillway _), (setUQ_round _ _ _).2]
  rfl

theorem spillPageWrite_waits (hr : pageReady d q (d.uq q) = false) : spillPageWrite q bad d = d := if_pos (by rw [hr]; rfl)

section
variable (hr : pageReady d q (d.uq q) = true)
include hr

theorem spillPageWrite_full (hf : spillFull d = true) : spillPageWrite q bad d = showAllSpilling (noteFull d) :=
  (if_neg (by simp [hr])).trans (if_pos hf)

theorem spillPageWrite_notInTurn (hf : spillFull d = false) (h : nextSpill d ≠ some q ∨ d.cist.wleft = 0) : spillPageWrite q bad d = d := by
  have hturn : (nextSpill d != some q || d.cist.wleft == 0) = true := by
    rcases h with h | h <;> simp [h]
  exact (if_neg (by simp [hr])).trans ((if_neg (by simp [hf])).trans (if_pos hturn))

theorem spillPageWrite_inTurn (hq : q < 8192) (hroom : d.get R.RES_SPILL_STAT_USED + 1 < spillSlots d) (hn : nextSpill d = some q)
    (hw : d.cist.wleft ≠ 0) : spillPageWrite q bad d = spillAccess 1 (pageWritten q bad d) := by
  have hf : spillFull d = false := decide_eq_false (by omega)
  have hturn : ¬ (nextSpill d != some q || d.cist.wleft == 0) = true := by simp [hn, hw]
  unfold spillPageWrite
  extract_lets u lo ps r e1 c e2 e3 e4 e5
  rw [if_neg (by simp [u, hr]), if_neg (by simp [hf]), if_neg hturn]
  have h3 : e3 = (pageCharged q bad d).incr R.RES_SPILL_STAT_USED := noteFull_of_room (pageCharged_room hroom)
  have h5 : e5 = pageWritten q bad d := by
    unfold e5 e4
    rw [h3]
    rfl
  rw [h5, if_neg (by simp [pageWritten_room hq hroom])]
end
end

/-! ### SPILL_PREFETCH and PREFETCH_COMPLETE (R163, R178 to R180) -/

theorem raisePrefetch_raised (d : Dev) (q : Nat) (u : UQueue) : (raisePrefetch q u d).cist.raised =
    if wantsPage d q u = true then (if q ∈ d.cist.raised then d.cist.raised else d.cist.raised ++ [q])
    else d.cist.raised.filter (fun k => k ≠ q) := by
  have hfilter : d.cist.raised.filter (fun k => k != q) = d.cist.raised.filter (fun k => k ≠ q) :=
    List.filter_congr (fun k _ => by rw [bne, beq_eq_decide, decide_not])
  unfold raisePrefetch
  cases wantsPage d q u with
  | true => simp only [Bool.not_true, Bool.false_eq_true, if_false, List.contains_iff_mem, if_true]
  | false => simp only [Bool.not_false, if_true, Bool.false_eq_true, if_false, hfilter]

section
variable {q : Nat} {d : Dev}

theorem spillPrefetch_starts (hq : d.cist.raised.head? = some q) (hr : d.cist.rleft ≠ 0) (hf : 64 ≤ d.cist.free) : spillPrefetch q d =
    spillAccess 0 (setUQ q { d.uq q with prefetch := (d.uq q).prefetch + 1 }
      { d with cist := { d.cist with rleft := d.cist.rleft - 1, raised := d.cist.raised.drop 1 } }) :=
  if_pos (by simp [hq, hr, hf])

theorem spillPrefetch_waits (h : d.cist.raised.head? ≠ some q ∨ d.cist.rleft = 0 ∨ d.cist.free < 64) : spillPrefetch q d = d :=
  if_neg (by
    simp only [Bool.and_eq_true, beq_iff_eq, bne_iff_ne, decide_eq_true_eq]
    rintro ⟨⟨hq, hr⟩, hf⟩
    rcases h with h | h | h
    · exact h hq
    · exact hr h
    · omega)

theorem prefetchComplete_idle (bad : Bool) (h : (d.uq q).prefetch = 0 ∨ d.pages q = 0) : prefetchComplete q bad d = d :=
  if_pos (by rcases h with h | h <;> simp [h])

/-- The page's slot is free again. -/
def slotFreed (q : Nat) (d : Dev) : Dev := (d.drop R.RES_SPILL_STAT_USED).set (R.CIST_QSPILL_PAGES q) (d.pages q - 1)

theorem slotFreed_pages (hq : q < 8192) : (slotFreed q d).pages q = d.pages q - 1 :=
  pages_set _ hq (lt_of_le_of_lt (Nat.sub_le _ _) (pages_lt d q))

theorem joinTail_paged {u : UQueue} (h : d.pages q ≠ 0) : joinTail q u d = u := if_neg (by simp [h])

/-- A good page comes back to a queue that has another one, from a region with free slots: the cells that are not dead join the head. -/
theorem prefetchComplete_joins (hq : q < 8192) (hu : (d.uq q).prefetch ≠ 0) (hp : 1 < d.pages q) (hf : spillFull d = false) :
    prefetchComplete q false d = gxUpdate (setUQ q
      { d.uq q with h := (d.uq q).h + (64 - (d.uq q).dead), dead := 0, prefetch := (d.uq q).prefetch - 1 } (slotFreed q d)) := by
  have hkept : (slotFreed q d).pages q ≠ 0 := by rw [slotFreed_pages hq]; omega
  have hbusy : ¬ ((d.uq q).prefetch = 0 || d.pages q == 0) = true := by simp [hu]; omega
  unfold prefetchComplete
  extract_lets u full d1 pkts d2 u' d3
  rw [if_neg hbusy]
  have hd3 : d3 = gxUpdate (setUQ q u' (slotFreed q d)) := congrArg (fun v => gxUpdate (setUQ q v (slotFreed q d))) (joinTail_paged hkept)
  rw [if_neg (by simp [full, hf])]
  exact hd3
end

/-! ### QUOTA_WRITE (R172) -/

theorem quotaWrite_fitted {a : Nat} {h : RegHit} {d : Dev} (w : CsrW) (hf : findReg a = some h) (hb : quotaBases.contains h.reg.base = true)
    (hu : d.unitFitted h = true) : quotaWrite a w d = Dev.each (quotaCuts h d (writeCsr w.req a w.val d)) raiseCut (writeCsr w.req a w.val d) := by
  rw [quotaWrite, hf]
  exact (if_neg (by rw [hb]; decide)).trans (if_neg (by rw [hu]; decide))

theorem quotaCuts_job {d was : Dev} {h : RegHit} {j : Nat} (hb : h.reg.base = R.CIST_JQUOTA 0) (hi : h.ix = [j]) : quotaCuts h was d =
    cutPages j 0 (some j) (d.get (R.CIST_JUSE_CELLS j)) (d.get (R.CIST_JQUOTA_PAGES j)) := by
  rw [quotaCuts, hi]
  exact if_pos hb

theorem cutPages_within {unit acct use pages : Nat} {job : Option Nat} (h : use ≤ 64 * pages) : cutPages unit acct job use pages = [] := by
  rw [cutPages, cutAbove, if_neg (not_lt.2 h), ite_self]

theorem cutPages_above {unit acct use pages : Nat} {job : Option Nat} (hl : pages ≠ 0x1FFFFFF) (h : 64 * pages < use) :
    cutPages unit acct job use pages = [⟨blkCist, 4, unit, use - 64 * pages, acct, job⟩] := by
  rw [cutPages, if_neg hl, cutAbove, if_pos h]

/-- Settles O27. -/
theorem spilling : Obligations.Spilling := by
  refine ⟨pageReady_iff, ?waits, ?notInTurn, ?writes, ?prefetch, raisePrefetch_raised, ?joins, ?idle, ?quota, ?cuts⟩
  case waits => exact fun s q bad h => onDev_whenApplied_same _ s (spillPageWrite_waits h)
  case notInTurn =>
    intro s q bad ha hr
    exact ⟨fun hf => (onDev_whenApplied _ s ha).trans (next_setDev s (spillPageWrite_full hr hf)),
      fun hf h => onDev_whenApplied_same _ s (spillPageWrite_notInTurn hr hf h)⟩
  case writes =>
    intro s q bad ha hr hroom hn hw hp
    have hout : exec (.spillPageWrite q bad) s = .next (s.setDev (spillAccess 1 (pageWritten q.val bad s.dev))) :=
      (onDev_whenApplied _ s ha).trans (next_setDev s (spillPageWrite_inTurn hr q.isLt hroom hn hw))
    have hway := spillAccess_spillway 1 (pageWritten q.val bad s.dev)
    have hpages := pages_congr (spillAccess_rd 1 (pageWritten q.val bad s.dev) (qspill_not_evt q.val))
    obtain ⟨ht, hh⟩ := pageWritten_uq (q := q.val) (bad := bad) (d := s.dev)
    rw [← uq_of_spillway hway] at ht hh
    exact ⟨_, hout, hpages.trans (pageWritten_pages q.isLt hp), (wleft_of_spillway hway).trans pageWritten_wleft,
      (lastSpill_of_spillway hway).trans pageWritten_lastSpill, ht, hh⟩
  case prefetch =>
    intro s q ha
    exact ⟨fun hq hr hf => (onDev_whenApplied _ s ha).trans (next_setDev s (spillPrefetch_starts hq hr hf)),
      fun h => onDev_whenApplied_same _ s (spillPrefetch_waits h)⟩
  case joins =>
    intro s q ha hu hp hf
    refine ⟨_, (onDev_whenApplied _ s ha).trans (next_setDev s (prefetchComplete_joins q.isLt hu hp hf)), ?_⟩
    rw [State.setDev_dev, pages_congr (Dev.rd_congr (gxUpdate_csr _) _), setUQ_pages, slotFreed_pages q.isLt,
      uq_of_spillway (gxUpdate_spillway _), setUQ_uq]
    exact ⟨rfl, rfl, rfl, rfl⟩
  case idle => exact fun s q bad h => onDev_whenApplied_same _ s (prefetchComplete_idle bad h)
  case quota =>
    intro s a w h hrun hf hb hu
    exact (onDev_whenRunning _ s hrun).trans (next_setDev s (quotaWrite_fitted w hf hb hu))
  case cuts =>
    intro d was h j hb hi
    exact ⟨fun hu => (quotaCuts_job hb hi).trans (cutPages_within hu), fun hl hu => (quotaCuts_job hb hi).trans (cutPages_above hl hu)⟩

end Sys2Proof.Machine
end

section
/-! Egress and the replicator (O29): R163, R193 to R197, R201 to R203, R205, R492. -/

namespace Sys2Proof.Machine

/-! ### The choice between a unicast queue and a multicast FIFO (R194) -/

theorem drrPick_single (c : Nat) (quantum : Nat → Nat) (deficit : Nat → Int) (last : Nat) :
    ∃ f, drrPick [c] quantum deficit last = some (c, f) := by
  have horder : [c].filter (fun x => decide (last < x)) ++ [c].filter (fun x => decide (x ≤ last)) = [c] := by
    rcases Nat.lt_or_ge last c with h | h
    · simp [h]
    · simp [h]
  unfold drrPick
  split
  · next h =>
    have hc : last = c := by simpa using (Bool.and_eq_true_iff.1 h).1
    exact ⟨deficit, by rw [hc]⟩
  · simp only [horder, List.map_cons, List.map_nil, List.min?_singleton, List.findIdx?_cons, beq_self_eq_true, if_true]
    exact ⟨_, rfl⟩

theorem pickMc_uni (d : Dev) (p tc : Nat) (x : Sched) : (pickMc d p tc true false x).1 = false := by
  unfold pickMc
  extract_lets quantum cands df
  obtain ⟨f, hf⟩ := drrPick_single 0 quantum df (b2n (x.lastMc.getD tc false))
  have hc : cands = [0] := rfl
  rw [hc, hf]
  rfl

theorem pickMc_mc (d : Dev) (p tc : Nat) (x : Sched) : (pickMc d p tc false true x).1 = true := by
  unfold pickMc
  extract_lets quantum cands df
  by_cases hq : mcQuantOf d p tc = 0
  · have hc : cands = [] := by simp [cands, hq]
    rw [hc]
    rfl
  · obtain ⟨f, hf⟩ := drrPick_single 1 quantum df (b2n (x.lastMc.getD tc false))
    have hc : cands = [1] := by simp [cands, hq]
    rw [hc, hf]
    rfl

/-! ### EGRESS_DEQUEUE (R163, R193 to R197, R492) -/

section
variable {port : Nat} {d : Dev}

theorem egressDequeue_loop (bad : Nat) (hl : inL4 d port = true) (hp : d.isPort port = true) : egressDequeue port bad d = sendLoop port d :=
  if_pos (by rw [hl, hp]; rfl)

theorem egressDequeue_noPort (bad : Nat) (hp : d.isPort port = false) : egressDequeue port bad d = d :=
  (if_neg (by simp [hp])).trans (if_pos (by simp [hp]))
end

/-- Cells that are read back uncorrectable name the queue and poison the packet (R163). -/
def readBack (bad q : Nat) (k : Pkt) (d : Dev) : Pkt × Dev :=
  if bad = 0 then (k, d) else ({ k with poisoned := true }, Dev.each (List.range (min bad k.cells)) (fun _ => raiseDE blkCist 2 q) d)

/-- What leaves the queues of the TC that is served, of its eligible heads e. -/
def sendChosen (port bad tc : Nat) (e : Option Pkt × Option (Nat × Pkt)) (y : Sched) (d : Dev) : Dev :=
  let r := pickMc d port tc e.1.isSome e.2.isSome y
  match r.1, e.1, e.2 with
  | false, some k, _ =>
    let z := readBack bad (uniQ port tc) k (popHead (uniQ port tc) (d.setSched port (chargeSched d port tc (linkSize d port k) false r.2)))
    leaveQueue port (uniQ port tc) (d.depth (uniQ port tc)) false z.1 z.2
  | true, _, some (m, k) =>
    let z := readBack bad (8192 + m) k (popCopy port tc (d.setSched port (chargeSched d port tc (linkSize d port k) true r.2)))
    leaveQueue port (8192 + m) (d.depth (8192 + m)) true z.1 z.2
  | _, _, _ => d

/-- The port that has no packet under way sends what is chosen: x are the token counts of now, d the device that has noted a wait for credit. -/
theorem egressDequeue_chosen {port bad tc : Nat} {s d : Dev} {x y : Sched} {heads : List (Option Pkt × Option (Nat × Pkt))}
    (hl : inL4 s port = false) (hp : s.isPort port = true) (htx : (s.link port).tx = none) (hx : x = freshTokens s port (s.schedOf port))
    (hd : d = if waitsForCredit s port x then s.modLink port (fun l => { l with waited := true }) else s)
    (hh : heads = (List.range 8).map (fun tc => eligibleHeads d port tc x))
    (hpick : pickTc d port ((List.range 8).filter (fun tc => (heads.getD tc (none, none)).1.isSome || (heads.getD tc (none, none)).2.isSome)) x =
      some (tc, y)) :
    egressDequeue port bad s = sendChosen port bad tc (heads.getD tc (none, none)) y d := by
  unfold egressDequeue
  rw [if_neg (by simp [hl]), if_neg (by simp [hp, htx])]
  subst hx hd hh
  extract_lets x d heads tcs poison
  have hserved : pickTc d port tcs x = some (tc, y) := hpick
  rw [hserved]
  rfl

/-! ### Multicast queues of one packet -/

theorem setMQ_mq (m : Nat) (l : List MPkt) (d : Dev) : (setMQ m l d).mq m = l := by
  unfold setMQ
  extract_lets old was sh c
  change SMap.getD (SMap.write d.cist.mq m l []) m [] = l
  rw [SMap.getD_write, if_pos rfl]

theorem placeCopy_fifo (d : Dev) (m id p tc : Nat) : (placeCopy m id p tc d).fifo p tc = d.fifo p tc ++ [(m, id)] := by
  change SMap.getD (SMap.write d.cist.fifo (fifoKey p tc) _ []) (fifoKey p tc) [] = _
  rw [SMap.getD_write, if_pos rfl]

theorem placeCopy_mq (m id p tc n : Nat) (d : Dev) : (placeCopy m id p tc d).mq n = d.mq n := rfl

section
variable {m : Nat} {x : MPkt} {d : Dev} (hm : d.mq m = [x])
include hm

theorem modMpkt_single (f : MPkt → MPkt) : modMpkt m x.pkt.id f d = setMQ m [f x] d := by
  rw [modMpkt, hm, List.map_singleton, if_pos rfl]

theorem sweepMq_keeps (h : (x.taken && x.placed == 0 && x.residue.isEmpty) = false) : sweepMq m d = d := by
  have hgone : (d.mq m).filter (fun x => x.taken && x.placed == 0 && x.residue.isEmpty) = [] := by
    rw [hm]
    exact List.filter_cons_of_neg (by rw [h]; decide)
  exact if_pos (by rw [hgone]; rfl)

theorem sweepMq_frees (h : (x.taken && x.placed == 0 && x.residue.isEmpty) = true) : (sweepMq m d).mq m = [] := by
  have hgone : (d.mq m).filter (fun x => x.taken && x.placed == 0 && x.residue.isEmpty) = [x] := by
    rw [hm]
    exact List.filter_cons_of_pos h
  have hleft : (d.mq m).filter (fun x => !(x.taken && x.placed == 0 && x.residue.isEmpty)) = [] := by
    rw [hm]
    exact List.filter_cons_of_neg (by rw [h]; decide)
  unfold sweepMq
  extract_lets l gone e
  rw [if_neg (by simp [gone, l, hgone]), mq_of_spillway (gxUpdate_spillway _), setMQ_mq]
  exact hleft

/-! ### MULTICAST_REPLICATE (R201, R202, R205) -/

theorem multicastReplicate_waits (h : doomed d (8192 + m) x.pkt = true ∨ x.pkt.whole = false) : multicastReplicate m d = d := by
  rw [multicastReplicate, hm, List.find?_singleton]
  by_cases hf : (!x.taken && !doomed d (8192 + m) x.pkt) = true
  · have hw : x.pkt.whole = false := h.resolve_left (fun hd => by simp [hd] at hf)
    rw [if_pos hf]
    exact if_pos (by rw [hw]; rfl)
  · rw [if_neg hf]

/-- The packet is taken: the targets that are ready get a reference, and the rest become its residue. -/
theorem multicastReplicate_takes (ht : x.taken = false) (hd : doomed d (8192 + m) x.pkt = false) (hw : x.pkt.whole = true) {go : List PortNo}
    (hgo : x.targets.filter (fun t => mcReady d t.val x.pkt.tc.val) = go) : multicastReplicate m d =
    sweepMq m (Dev.each go (fun t => placeCopy m x.pkt.id t.val x.pkt.tc.val)
      (setMQ m [{ x with taken := true, placed := go.length, residue := x.targets.filter (fun t => !go.contains t) }] d)) := by
  have hblocked (t : PortNo) : (d.mq m).any (fun y => y.taken && y.residue.contains t) = false := by
    rw [hm, List.any_cons, ht]
    rfl
  have hready : x.targets.filter (fun t => mcReady d t.val x.pkt.tc.val && !(d.mq m).any (fun y => y.taken && y.residue.contains t)) = go := by
    rw [← hgo]
    exact List.filter_congr (fun t _ => by rw [hblocked, Bool.not_false, Bool.and_true])
  have hfind : (d.mq m).find? (fun x => !x.taken && !doomed d (8192 + m) x.pkt) = some x := by
    rw [hm]
    exact List.find?_cons_of_pos (by rw [ht, hd]; rfl)
  rw [multicastReplicate, hfind]
  dsimp only
  rw [if_neg (by rw [hw]; decide), hready, modMpkt_single hm]

theorem multicastReplicate_places (ht : x.taken = false) (hd : doomed d (8192 + m) x.pkt = false) (hw : x.pkt.whole = true) {t : PortNo}
    (hx : x.targets = [t]) (hr : mcReady d t.val x.pkt.tc.val = true) : multicastReplicate m d =
    placeCopy m x.pkt.id t.val x.pkt.tc.val (setMQ m [{ x with taken := true, placed := 1, residue := [] }] d) := by
  have hgo : x.targets.filter (fun t => mcReady d t.val x.pkt.tc.val) = [t] := by rw [hx]; exact List.filter_cons_of_pos hr
  have hres : x.targets.filter (fun u => !([t] : List PortNo).contains u) = [] := by rw [hx]; simp
  rw [multicastReplicate_takes hm ht hd hw hgo, hres]
  exact sweepMq_keeps ((placeCopy_mq _ _ _ _ _ _).trans (setMQ_mq _ _ _)) rfl

theorem multicastReplicate_residue (ht : x.taken = false) (hd : doomed d (8192 + m) x.pkt = false) (hw : x.pkt.whole = true) {t : PortNo}
    (hx : x.targets = [t]) (hr : mcReady d t.val x.pkt.tc.val = false) : multicastReplicate m d =
    setMQ m [{ x with taken := true, placed := 0, residue := [t] }] d := by
  have hgo : x.targets.filter (fun t => mcReady d t.val x.pkt.tc.val) = [] := by
    rw [hx]
    exact List.filter_cons_of_neg (by rw [hr]; decide)
  have hres : x.targets.filter (fun u => !([] : List PortNo).contains u) = [t] := by rw [hx]; rfl
  rw [multicastReplicate_takes hm ht hd hw hgo, hres]
  exact sweepMq_keeps (setMQ_mq _ _ _) rfl

theorem multicastReplicate_frees (ht : x.taken = false) (hd : doomed d (8192 + m) x.pkt = false) (hw : x.pkt.whole = true)
    (hx : x.targets = []) : (multicastReplicate m d).mq m = [] := by
  have hgo : x.targets.filter (fun t => mcReady d t.val x.pkt.tc.val) = [] := by rw [hx]; rfl
  rw [multicastReplicate_takes hm ht hd hw hgo, hx]
  exact sweepMq_frees (setMQ_mq _ _ _) rfl

/-! ### MULTICAST_RESIDUE_SERVE and MULTICAST_RESIDUE_AGE (R201, R203) -/

section
variable {t : PortNo} (hx : x.residue = [t]) (hd : doomed d (8192 + m) x.pkt = false)
include hx hd

theorem find_residue : (d.mq m).find? (fun x => x.residue.contains t && !doomed d (8192 + m) x.pkt) = some x := by
  rw [hm]
  exact List.find?_cons_of_pos (by rw [hx, hd]; simp)

theorem residueServe_waits (hr : mcReady d t.val x.pkt.tc.val = false) : residueServe m t d = d := by
  rw [residueServe, find_residue hm hx hd]
  exact if_pos (by rw [hr]; rfl)

theorem residueServe_places (hr : mcReady d t.val x.pkt.tc.val = true) : residueServe m t d =
    placeCopy m x.pkt.id t.val x.pkt.tc.val (setMQ m [{ x with placed := x.placed + 1, residue := [] }] d) := by
  have hres : x.residue.filter (fun u => u != t) = [] := by rw [hx]; simp
  rw [residueServe, find_residue hm hx hd]
  dsimp only
  rw [if_neg (by rw [hr]; decide), modMpkt_single hm, hres]
end
end

theorem residueAge_off {d : Dev} (h : d.get R.QUE_MC_CFG_AGE = 0) : residueAge d = d := if_pos h

theorem residueAge_due {d : Dev} {m : Nat} {x : MPkt} {t : PortNo} (ha : d.get R.QUE_MC_CFG_AGE ≠ 0) (hm : d.cist.mq = [(m, [x])])
    (ht : x.taken = true) (hx : x.residue = [t]) (hdue : x.pkt.turn + d.get R.QUE_MC_CFG_AGE ≤ d.turn) : residueAge d =
    sweepMq m (modMpkt m x.pkt.id (fun y => { y with residue := [] }) (dropOut t.val x.pkt true 8 1 (d.bump R.QUE_MC_AGEDROP_COUNT))) := by
  have hold : [x].filter (fun x => x.taken && !x.residue.isEmpty && decide (x.pkt.turn + d.get R.QUE_MC_CFG_AGE ≤ d.turn)) = [x] :=
    List.filter_cons_of_pos (by simp [ht, hx, hdue])
  have hone : residueAge d = ageOne m x d := by
    rw [residueAge, if_neg ha, hm]
    simp only [Dev.each, List.foldl_cons, List.foldl_nil, hold]
  rw [hone, ageOne, hx]
  simp only [Dev.each, List.foldl_cons, List.foldl_nil]

/-- Settles O29. -/
theorem queueService : Obligations.QueueService := by
  refine ⟨?serve, ?choice, ?loop, ?noPort, ?replicate, ?residue, ?ageOff, ?age, ?place⟩
  case serve =>
    intro s p bad ha hl hp htx tc y x d heads hpick e r poison
    have hout : exec (.egressDequeue p bad) s = .next (s.setDev (sendChosen p.val bad tc e y d)) :=
      (onDev_whenApplied _ s ha).trans (next_setDev s (egressDequeue_chosen hl hp htx rfl rfl rfl hpick))
    constructor
    · intro k hr he
      refine hout.trans (next_setDev s ?_)
      unfold sendChosen
      extract_lets r
      rw [hr, he]
      rfl
    · intro m k hr he
      refine hout.trans (next_setDev s ?_)
      unfold sendChosen
      extract_lets r
      rw [hr, he]
      rfl
  case choice => exact fun d p tc x => ⟨pickMc_uni d p tc x, pickMc_mc d p tc x⟩
  case loop => exact fun s p bad ha hl hp => (onDev_whenApplied _ s ha).trans (next_setDev s (egressDequeue_loop bad hl hp))
  case noPort => exact fun s p bad hp => onDev_whenApplied_same _ s (egressDequeue_noPort bad hp)
  case replicate =>
    intro s m x ha hm ht
    refine ⟨fun h => onDev_whenApplied_same _ s (multicastReplicate_waits hm h), fun hd hw => ?_⟩
    have hout : exec (.multicastReplicate m) s = .next (s.setDev (multicastReplicate m.val s.dev)) := onDev_whenApplied _ s ha
    exact ⟨fun t hx hr => hout.trans (next_setDev s (multicastReplicate_places hm ht hd hw hx hr)),
      fun t hx hr => hout.trans (next_setDev s (multicastReplicate_residue hm ht hd hw hx hr)),
      fun hx => ⟨_, hout, multicastReplicate_frees hm ht hd hw hx⟩⟩
  case residue =>
    intro s m x t ha hm hx hd
    exact ⟨fun hr => (onDev_whenApplied _ s ha).trans (next_setDev s (residueServe_places hm hx hd hr)),
      fun hr => onDev_whenApplied_same _ s (residueServe_waits hm hx hd hr)⟩
  case ageOff => exact fun s h => onDev_whenApplied_same _ s (residueAge_off h)
  case age =>
    exact fun s m x t ha h0 hm ht hx hdue => (onDev_whenApplied _ s ha).trans (next_setDev s (residueAge_due h0 hm ht hx hdue))
  case place => exact placeCopy_fifo

end Sys2Proof.Machine
end

section
/-! The basin (O32, O33): R242, R243, R245, R248 to R250, R258 to R260, R262, R263, R265, R269, R391, R530. -/

namespace Sys2Proof.Machine

/-! ### The packet at the front (R242, R530) -/

/-- What a packet of the basin's input is taken as, by its CKIND (R246). -/
def claimKind (p : Pkt) : Claim := match ckind (ofpPayload p.bytes) with | 1 => .down | 2 => .abort | _ => .contribution

theorem claimKind_down {p : Pkt} (h : ckind (ofpPayload p.bytes) = 1) : claimKind p = .down := by
  rw [claimKind, h]
  rfl

theorem claimKind_abort {p : Pkt} (h : ckind (ofpPayload p.bytes) = 2) : claimKind p = .abort := by
  rw [claimKind, h]
  rfl

theorem claimKind_contribution {p : Pkt} (h1 : ckind (ofpPayload p.bytes) ≠ 1) (h2 : ckind (ofpPayload p.bytes) ≠ 2) :
    claimKind p = .contribution := by
  unfold claimKind
  split
  · next h => exact absurd h h1
  · next h => exact absurd h h2
  · rfl

/-- The packet has left the basin's input and the cistern. -/
def basinTaken (p : Pkt) (rest : List Pkt) (d : Dev) : Dev := consumePkt p { d with cist := { d.cist with toBasin := rest } }

section
variable {p : Pkt} {rest : List Pkt} {d : Dev} (hq : d.cist.toBasin = p :: rest) (f : Pkt → Nat → List Byte → Dev → Dev)
include hq

theorem basinTake_waits (k : Claim) (hw : p.whole = false) : basinTake k f d = d := by
  rw [basinTake, hq]
  exact if_pos (by rw [hw]; rfl)

section
variable {k : Claim} (hk : claimKind p = k) (hw : p.whole = true) {g : Nat} {e : List Byte} {x : Claim}
  (hc : claimOf p.bytes (basinTaken p rest d) = some (g, e, x))
include hk hw hc

/-- Claimed, the packet is acted on, or answered with the status of the check that it fails. -/
theorem basinTake_claimed : basinTake k f d = (claimBad (ofpHdr p.bytes) p.job e).elim (f p g e (basinTaken p rest d))
    (fun r => answer p.bytes p.job r.2 none ((basinTaken p rest d).bump (R.BASIN_CNT_COUNT r.1))) := by
  have hmine : ¬ (!p.whole || claimKind p != k) = true := by simp [hw, hk]
  rw [basinTake, hq]
  refine (if_neg hmine).trans ?_
  extract_lets c e'
  have hc' : claimOf p.bytes e' = some (g, e, x) := hc
  rw [hc']
  dsimp -zeta only
  cases claimBad (ofpHdr p.bytes) p.job e with
  | none => rfl
  | some r => rfl

theorem basinTake_fails {r st : Nat} (hb : claimBad (ofpHdr p.bytes) p.job e = some (r, st)) : basinTake k f d =
    answer p.bytes p.job st none ((basinTaken p rest d).bump (R.BASIN_CNT_COUNT r)) := by
  rw [basinTake_claimed hq f hk hw hc, hb, Option.elim_some]

theorem basinTake_passes (hb : claimBad (ofpHdr p.bytes) p.job e = none) : basinTake k f d = f p g e (basinTaken p rest d) := by
  rw [basinTake_claimed hq f hk hw hc, hb, Option.elim_none]
end
end

/-- A down result goes out behind what the basin built (R530). -/
theorem downResultRebroadcast_eq {s : State} {e : Dev} (ha : s.dev.applied = true) (hw : basinWaits s.dev = false)
    (h : basinTake .down rebroadcast s.dev = e) : exec .downResultRebroadcast s = .next (s.setDev e) :=
  (onDev_whenApplied _ s ha).trans (next_setDev s ((if_neg (by rw [hw]; decide)).trans h))

/-- Settles O32. -/
theorem basinClaims : Obligations.BasinClaims := by
  refine ⟨?passes, ?fails, ?partialPacket, fun s h => onDev_whenApplied_same _ s (if_pos h)⟩
  case passes =>
    intro s p rest g e k ha hq hw d hc hb
    exact ⟨fun h1 h2 u => (onDev_whenApplied _ s ha).trans (next_setDev s (basinTake_passes hq _ (claimKind_contribution h1 h2) hw hc hb)),
      fun h1 hwait => downResultRebroadcast_eq ha hwait (basinTake_passes hq _ (claimKind_down h1) hw hc hb),
      fun h2 => (onDev_whenApplied _ s ha).trans (next_setDev s (basinTake_passes hq _ (claimKind_abort h2) hw hc hb))⟩
  case fails =>
    intro s p rest g e k r st ha hq hw d hc hb t
    exact ⟨fun h1 h2 u => (onDev_whenApplied _ s ha).trans (next_setDev s (basinTake_fails hq _ (claimKind_contribution h1 h2) hw hc hb)),
      fun h1 hwait => downResultRebroadcast_eq ha hwait (basinTake_fails hq _ (claimKind_down h1) hw hc hb),
      fun h2 => (onDev_whenApplied _ s ha).trans (next_setDev s (basinTake_fails hq _ (claimKind_abort h2) hw hc hb))⟩
  case partialPacket =>
    intro s p rest u hq hw
    have hdown : (if basinWaits s.dev then s.dev else basinTake .down rebroadcast s.dev) = s.dev := by
      rw [basinTake_waits hq _ _ hw, ite_self]
    exact ⟨onDev_whenApplied_same _ s (basinTake_waits hq _ _ hw), onDev_whenApplied_same _ s (basinTake_waits hq _ _ hw),
      onDev_whenApplied_same _ s hdown⟩

end Sys2Proof.Machine
end

section
/-! Contexts of the basin (O33): R248 to R250, R253, R258, R259, R262, R263, R265, R269, R391, R530. -/

namespace Sys2Proof.Machine

/-! ### What keeps the basin's contexts (R253, R266 to R269) -/

theorem showBasin_basin (d : Dev) : (showBasin d).basin = d.basin := by
  unfold showBasin
  extract_lets c o d1 d2 d3 d4
  exact (Dev.set_basin d4 _ _).trans ((Dev.set_basin d3 _ _).trans ((Dev.set_basin d2 _ _).trans ((Dev.set_basin d1 _ _).trans (Dev.set_basin d _ _))))

theorem putCtx_ctx (n : Nat) (c : Ctx) (d : Dev) : (putCtx n c d).basin.ctx = SMap.put d.basin.ctx n c := by
  rw [putCtx, showJuse, Dev.set_basin, showBasin_basin]

theorem putCtx_get (n : Nat) (c : Ctx) (d : Dev) : SMap.get? (putCtx n c d).basin.ctx n = some c := by
  rw [putCtx_ctx, SMap.get?_put, if_pos rfl]

theorem bump_basin (d : Dev) (f : Fld) (n : Nat) : (d.bump f n).basin = d.basin := Dev.set_basin _ _ _

theorem queueStatus_ctx (h : OfpHdr) (pl : List Byte) (job : Option JobIdx) (d : Dev) : (queueStatus h pl job d).basin.ctx = d.basin.ctx := by
  unfold queueStatus
  split
  · rw [bump_basin]
  · rfl

theorem answer_ctx (bs : List Byte) (job : Option JobIdx) (status : Nat) (c : Option Ctx) (d : Dev) :
    (answer bs job status c d).basin.ctx = d.basin.ctx := queueStatus_ctx _ _ _ d

theorem ringPush_basin (r : RingRef) (bs : List Byte) (d : Dev) : (d.ringPush r bs).basin = d.basin := rfl

theorem report_ctx (c : Ctx) (status : Nat) (d : Dev) : (report c status d).basin.ctx = d.basin.ctx := by
  unfold report
  extract_lets e r commit d1 jg
  have h1 : d1.basin = d.basin := by
    unfold d1
    split
    · split
      · rfl
      · split
        · exact bump_basin _ _ _
        · exact ringPush_basin _ _ _
    · rfl
  split
  · rw [queueStatus_ctx, h1]
  · rw [h1]

theorem endCtx_get (n : Nat) (c : Ctx) (st : CtxState) (status : Nat) (d : Dev) :
    ∃ x, SMap.get? (endCtx n c st status d).basin.ctx n = some x ∧ x.st = st ∧
      x.slots = 0 ∧ x.places = [] ∧ x.acc = [] ∧ x.arrived = c.arrived ∧ x.dups = c.dups := by
  unfold endCtx
  extract_lets c'
  rw [report_ctx, putCtx_get]
  exact ⟨c', rfl, rfl, rfl, rfl, rfl, rfl, rfl⟩

theorem setGroupWord_ctx (g off v : Nat) (d : Dev) : (setGroupWord g off v d).basin.ctx = d.basin.ctx := by
  unfold setGroupWord
  split <;> rfl

/-! ### Contributions and the commit point (R248 to R250, R258) -/

theorem contribute_again (n : Nat) (c : Ctx) (p : Pkt) (bad : Bool) (els : List (Nat × Nat × List Nat)) (d : Dev)
    (h : c.arrived.contains (beAt (ofpPayload p.bytes) 4 2, beBits (ofpPayload p.bytes) 1 2 15 6) = true) :
    contribute n c p bad els d = putCtx n { c with dups := c.dups + 1 } (d.bump (R.BASIN_CNT_COUNT 7)) := if_pos h

theorem commitAt_commits (n : Nat) (c : Ctx) (d : Dev) (hs : c.st = .opened) (h : gNmemb c.entry * npiece c.entry ≤ c.arrived.length) :
    SMap.get? (commitAt n c d).basin.ctx n = some { c with st := .emitting, since := d.turn, markTurn := d.turn } := by
  rw [commitAt, if_pos (by rw [hs]; simpa using h)]
  dsimp only
  rw [bump_basin, setGroupWord_ctx, putCtx_get]

theorem commitAt_waits (n : Nat) (c : Ctx) (d : Dev) (h : c.st ≠ .opened ∨ c.arrived.length < gNmemb c.entry * npiece c.entry) :
    commitAt n c d = putCtx n c d :=
  if_neg (by
    simp only [Bool.and_eq_true, beq_iff_eq, decide_eq_true_eq]
    rintro ⟨hs, hl⟩
    rcases h with h | h
    · exact h hs
    · omega)

theorem takeContribution_tomb {p : Pkt} {g : Nat} {d : Dev} {n : Nat} {c : Ctx} (e : List Byte) (u : Bool)
    (hf : findCtx g (ofpHdr p.bytes).chunk d = some (n, c)) (ht : c.tomb = true) : (takeContribution p g e u d).basin.ctx = d.basin.ctx := by
  have hfound : (findCtx g (ofpHdr p.bytes).chunk d).filter (fun x => x.2.tomb) = some (n, c) := by
    rw [hf]
    exact if_pos ht
  unfold takeContribution
  extract_lets h pl m mc piece found ge
  have hfound' : found.filter (fun x => x.2.tomb) = some (n, c) := hfound
  rw [hfound']
  exact (answer_ctx _ _ _ _ _).trans (congrArg Basin.ctx (bump_basin _ _ _))

/-! ### Aborts (R262, R269) -/

section
variable {g chunk : Nat} {d : Dev} {n : Nat} {c : Ctx} (e : Option (List Byte)) (hf : findCtx g chunk d = some (n, c))
include hf

theorem decideAbort_opened (hs : c.st = .opened) : (decideAbort g chunk e d).2 = endCtx n c .aborted 3 (d.bump (R.BASIN_CNT_COUNT 4)) ∧
    (decideAbort g chunk e d).1.1 = 3 := by
  unfold decideAbort
  rw [hf]
  dsimp only
  rw [hs]
  exact ⟨rfl, rfl⟩

theorem decideAbort_done (hs : c.st = .done) : (decideAbort g chunk e d).2 = d.bump (R.BASIN_CNT_COUNT 5) ∧
    (decideAbort g chunk e d).1.1 = 2 := by
  unfold decideAbort
  rw [hf]
  dsimp only
  rw [hs]
  exact ⟨rfl, rfl⟩
end

/-- Where no context and no group stands there is nothing to abort. -/
theorem decideAbort_empty (g chunk : Nat) {d : Dev} (h : d.basin.ctx = []) : decideAbort g chunk none d = ((3, none), d) := by
  have hf : findCtx g chunk d = none := by rw [findCtx, h]; rfl
  unfold decideAbort
  rw [hf]

/-- The abort register takes its fields. -/
def abortWritten (w : CsrW) (d : Dev) : Dev := writeOwn RF.BASIN_ABORT R.BASIN_ABORT w d

/-- The decision of an abort of one chunk by software. -/
def abortDecided (w : CsrW) (d : Dev) : (Nat × Option Ctx) × Dev :=
  let e := abortWritten w d
  let g := wBits w R.BASIN_ABORT_GIDX
  decideAbort g (e.get R.BASIN_ABORT_CHUNK_CHUNK) ((SMap.get? e.basin.groups g).filter gValid) e

section
variable {w : CsrW} {d : Dev} (hgo : wOn w R.BASIN_ABORT_GO = true)
include hgo

theorem basinAbortWrite_busy (hb : d.on R.BASIN_ABORT_BUSY = true) : basinAbortWrite w d = refuseCsr R.BASIN_ABORT w d :=
  if_pos (by rw [hgo, hb]; rfl)

theorem basinAbortWrite_one (hb : d.on R.BASIN_ABORT_BUSY = false) (hall : wOn w R.BASIN_ABORT_ALL = false) :
    basinAbortWrite w d = ((abortDecided w d).2.set R.BASIN_ABORT_GO 0).set R.BASIN_ABORT_RESULT (abortDecided w d).1.1 := by
  unfold basinAbortWrite
  extract_lets busy d1 g e q r
  have hr : r = ((abortDecided w d).1.1, (abortDecided w d).2) := if_neg (by rw [hall]; decide)
  rw [if_neg (by simp [busy, hb]), if_neg (by rw [hgo]; decide), hr]
end

theorem abortAnswered_go (d : Dev) (v : Nat) : ((d.set R.BASIN_ABORT_GO 0).set R.BASIN_ABORT_RESULT v).get R.BASIN_ABORT_GO = 0 := by
  rw [Dev.get_set_apart _ _ _ _ (by decide) (Or.inr (by decide)), Dev.get_set_same _ _ _ (by decide), Nat.zero_mod]

theorem abortDecided_empty (w : CsrW) {d : Dev} (hc : d.basin.ctx = []) (hg : d.basin.groups = []) : (abortDecided w d).1.1 = 3 := by
  have hbasin : (abortWritten w d).basin = d.basin := (writeOwn_writes _ _ w d).basin
  have hgroup : (SMap.get? (abortWritten w d).basin.groups (wBits w R.BASIN_ABORT_GIDX)).filter gValid = none := by rw [hbasin, hg]; rfl
  rw [abortDecided, hgroup, decideAbort_empty _ _ (by rw [hbasin, hc])]

/-! ### Emission (R251, R259, R265, R353, R530) -/

theorem chunkEmit_ends {n : Nat} {c : Ctx} {d : Dev} (bad : List Nat) (hc : SMap.get? d.basin.ctx n = some c) (hs : c.st = .emitting)
    (hb : basinWaits d = false) : ∃ c' status e, chunkEmit n bad d = endCtx n c' .done status e := by
  unfold chunkEmit
  rw [hc]
  dsimp -zeta only
  rw [if_neg (by simp [hs, hb])]
  extract_lets
  split
  · exact ⟨_, _, _, rfl⟩
  · exact ⟨_, _, _, rfl⟩

theorem chunkEmit_waits {n : Nat} {d : Dev} (bad : List Nat)
    (h : (SMap.get? d.basin.ctx n).all (fun c => c.st != .emitting) = true ∨ basinWaits d = true) : chunkEmit n bad d = d := by
  unfold chunkEmit
  cases hc : SMap.get? d.basin.ctx n with
  | none => rfl
  | some c =>
    rw [hc, Option.all_some, bne_iff_ne] at h
    exact if_pos (by simpa using h)

/-! ### Visits (R263, R391) -/

theorem visited_iff {d : Dev} (h : d.basin.visitLate = false) (n : Nat) : visited d n = true ↔ n / 2048 = (d.ras.boundaries + 15) % 16 := by
  rw [visited, h, Bool.false_and, Bool.or_false, beq_iff_eq]

theorem chunkDue_iff {c : Ctx} {d : Dev} (hs : c.st = .opened) :
    chunkDue c d = true ↔ draining (gJidx c.entry) d = true ∨ c.opened + gCtmo c.entry ≤ d.turn := by
  simp only [chunkDue, hs, beq_self_eq_true, Bool.true_and, Bool.or_eq_true, decide_eq_true_eq]

theorem tombDue_iff {c : Ctx} {d : Dev} (ht : c.tomb = true) :
    tombDue c d = true ↔ c.since + max 64 (d.get R.BASIN_TIMING_RETIRE) ≤ d.turn := by
  simp only [tombDue, ht, Bool.true_and, decide_eq_true_eq]

section
variable {n : Nat} {d : Dev}

theorem chunkTimeout_unvisited (hv : visited d n = false) : chunkTimeout n d = d := by
  unfold chunkTimeout
  split
  · rfl
  · exact if_pos (by rw [hv]; rfl)

theorem tombstoneRetire_unvisited (hv : visited d n = false) : tombstoneRetire n d = d := by
  unfold tombstoneRetire
  split
  · rfl
  · exact if_neg (by simp [hv])

variable {c : Ctx} (hv : visited d n = true) (hc : SMap.get? d.basin.ctx n = some c)
include hv hc

theorem chunkTimeout_visit : chunkTimeout n d = if !chunkDue c d then d
    else if draining (gJidx c.entry) d then endCtx n c .aborted 3 (d.bump (R.BASIN_CNT_COUNT 4))
    else endCtx n c .timedout 4 (d.bump (R.BASIN_CNT_COUNT 6)) := by
  rw [chunkTimeout, hc, hv]
  rfl

section
variable (hs : c.st = .opened)
include hs

theorem chunkTimeout_aborts (hd : draining (gJidx c.entry) d = true) :
    chunkTimeout n d = endCtx n c .aborted 3 (d.bump (R.BASIN_CNT_COUNT 4)) := by
  rw [chunkTimeout_visit hv hc, if_neg (by simp [(chunkDue_iff hs).2 (.inl hd)]), if_pos hd]

theorem chunkTimeout_timesOut (hd : draining (gJidx c.entry) d = false) (h : c.opened + gCtmo c.entry ≤ d.turn) :
    chunkTimeout n d = endCtx n c .timedout 4 (d.bump (R.BASIN_CNT_COUNT 6)) := by
  rw [chunkTimeout_visit hv hc, if_neg (by simp [(chunkDue_iff hs).2 (.inr h)]), if_neg (by simp [hd])]

theorem chunkTimeout_waits (hd : draining (gJidx c.entry) d = false) (h : d.turn < c.opened + gCtmo c.entry) : chunkTimeout n d = d := by
  have hnot : ¬ chunkDue c d = true := by
    rw [chunkDue_iff hs, hd]
    simpa using h
  rw [chunkTimeout_visit hv hc, if_pos (by simpa using hnot)]
end

theorem tombstoneRetire_visit : tombstoneRetire n d =
    if tombDue c d then showBasin { d with basin := { d.basin with ctx := SMap.del d.basin.ctx n } } else d := by
  rw [tombstoneRetire, hc, hv]
  rfl
end

/-- The outcome of a command of the turn's visits. -/
theorem onDev_whenTurning (f : Dev → Dev) (s : State) (ha : s.dev.applied = true) (ht : s.dev.boot.turnsBegun = true) :
    onDev (Dev.whenTurning f) s = .next (s.setDev (f s.dev)) := next_setDev s (Dev.whenTurning_pos f s.dev ha ht)

/-- Settles O33. -/
theorem basinContexts : Obligations.BasinContexts := by
  refine ⟨contribute_again, commitAt_commits, commitAt_waits, fun p g e u d n c => takeContribution_tomb e u, endCtx_get,
    fun g chunk e d n c => decideAbort_opened e, fun g chunk e d n c => decideAbort_done e, ?emits, ?emitWaits, ?timeout, ?retire,
    ?unvisited, fun d => visited_iff, ?abort, ?busy⟩
  case emits =>
    intro s n c bad ha hc hs hb
    obtain ⟨c', status, e, he⟩ := chunkEmit_ends bad hc hs hb
    obtain ⟨x, hx, hst, hslots, -⟩ := endCtx_get n.val c' .done status e
    exact ⟨_, (onDev_whenApplied _ s ha).trans (next_setDev s he), x, hx, hst, hslots⟩
  case emitWaits => exact fun s n bad h => onDev_whenApplied_same _ s (chunkEmit_waits bad h)
  case timeout =>
    intro s n c ha ht hv hc hs
    exact ⟨fun hd => (onDev_whenTurning _ s ha ht).trans (next_setDev s (chunkTimeout_aborts hv hc hs hd)),
      fun hd h => (onDev_whenTurning _ s ha ht).trans (next_setDev s (chunkTimeout_timesOut hv hc hs hd h)),
      fun hd h => (onDev_whenTurning _ s ha ht).trans (next_setDev s (chunkTimeout_waits hv hc hs hd h))⟩
  case retire =>
    intro s n c ha ht hv hc htomb
    have hout : exec (.tombstoneRetire n) s = _ := (onDev_whenTurning _ s ha ht).trans (next_setDev s (tombstoneRetire_visit hv hc))
    have hdue := tombDue_iff (d := s.dev) htomb
    refine ⟨fun h => ⟨_, hout.trans (next_setDev s (if_pos (hdue.2 h))), ?_⟩, fun h => hout.trans (next_setDev s (if_neg ?_))⟩
    · rw [State.setDev_dev, showBasin_basin]
      exact ⟨(SMap.get?_del _ _ _).trans (if_pos rfl), fun m hm => (SMap.get?_del _ _ _).trans (if_neg hm)⟩
    · rw [hdue]
      omega
  case unvisited =>
    intro s n hv
    exact ⟨next_setDev s (Dev.when_same (chunkTimeout_unvisited hv)), next_setDev s (Dev.when_same (tombstoneRetire_unvisited hv))⟩
  case abort =>
    intro s w hrun hb hgo hall
    refine ⟨_, (onDev_whenRunning _ s hrun).trans (next_setDev s (basinAbortWrite_one hgo hb hall)), abortAnswered_go _ _, fun hc hg => ?_⟩
    rw [State.setDev_dev, abortDecided_empty w hc hg]
    exact Dev.get_set_same _ R.BASIN_ABORT_RESULT 3 (by decide)
  case busy =>
    intro s w hrun hb hgo
    exact (onDev_whenRunning _ s hrun).trans (next_setDev s (basinAbortWrite_busy hgo hb))

end Sys2Proof.Machine
end

section
/-! The traffic class served and the flushes of queues (O28, O30): R194, R204, R205. -/

namespace Sys2Proof.Machine

/-! ### The choice of a traffic class (R194) -/

/-- Deficit round-robin chooses among the candidates: the one served last where it goes on, else the first in round-robin order that fewest
rounds serve. -/
theorem drrPick_mem {cands : List Nat} {quantum : Nat → Nat} {deficit f : Nat → Int} {last c : Nat}
    (h : drrPick cands quantum deficit last = some (c, f)) : c ∈ cands := by
  unfold drrPick at h
  split at h
  · next hgo =>
    obtain ⟨hlast, -⟩ := Bool.and_eq_true_iff.1 hgo
    cases h
    exact List.contains_iff_mem.1 hlast
  · extract_lets order rounds at h
    split at h
    · cases h
    · split at h
      · cases h
      · next i hi =>
        obtain ⟨hlt, -⟩ := List.findIdx?_eq_some_iff_getElem.1 hi
        have hc : c = order[i] := by
          cases h
          exact List.getD_eq_getElem order 0 hlt
        have horder : ∀ x ∈ order, x ∈ cands := by
          intro x hx
          rcases List.mem_append.1 hx with hx | hx
          · exact List.mem_of_mem_filter hx
          · exact List.mem_of_mem_filter hx
        exact hc ▸ horder _ (List.getElem_mem hlt)

/-- A choice of TC is the highest strict one of those offered; the round-robin chooses only where none of them is strict. -/
theorem pickTc_cases {d : Dev} {p tc : Nat} {tcs : List Nat} {x y : Sched} (h : pickTc d p tcs x = some (tc, y)) :
    (tc ∈ tcs ∧ d.on (R.QUE_TC_CFG_STRICT p tc) = true ∧ ∀ c ∈ tcs, d.on (R.QUE_TC_CFG_STRICT p c) = true → c ≤ tc) ∨
    (tc ∈ tcs ∧ ∀ c ∈ tcs, d.on (R.QUE_TC_CFG_STRICT p c) ≠ true) := by
  unfold pickTc at h
  split at h
  · next m hmax =>
    cases h
    obtain ⟨hmem, hle⟩ := List.max?_eq_some_iff.1 hmax
    obtain ⟨hin, hon⟩ := List.mem_filter.1 hmem
    exact .inl ⟨hin, hon, fun c hc hs => hle c (List.mem_filter.2 ⟨hc, hs⟩)⟩
  · next hnone =>
    have hweak := List.filter_eq_nil_iff.1 (List.max?_eq_none_iff.1 hnone)
    split at h
    · cases h
    · next c f hdrr =>
      cases h
      exact .inr ⟨drrPick_mem hdrr, hweak⟩

/-- Settles O28. -/
theorem strictPriority : Obligations.StrictPriority := by
  intro d p tcs x y tc h
  rcases pickTc_cases h with ⟨hin, hon, hle⟩ | ⟨hin, hweak⟩
  · exact ⟨hin, fun c hc hs => ⟨hon, hle c hc hs⟩⟩
  · exact ⟨hin, fun c hc hs => absurd hs (hweak c hc)⟩

/-! ### DOWNFLUSH_EXPIRY (R204) -/

section
variable {p : PortNo} {n : Nat} {d : Dev} (hs : (d.link p.val).downSince = some n)
include hs

theorem downflushExpiry_due (hf : (d.link p.val).flushed = false) (h : n + d.get R.QUE_CFG_DOWNFLUSH ≤ d.turn) :
    downflushExpiry p d = flushPort p d := if_pos (by simp [hf, hs, h])

theorem downflushExpiry_early (h : d.turn < n + d.get R.QUE_CFG_DOWNFLUSH) : downflushExpiry p d = d := if_neg (by simp [hs, h])
end

theorem flushPort_flushed (p : PortNo) (d : Dev) : ((flushPort p d).link p.val).flushed = true := by
  rw [flushPort, Dev.link_modLink_same]

/-! ### QUEUE_FLUSH (R205) -/

/-- The queue named is under flush, of the packets admitted so far, and the register shows a flush that has begun. -/
def flushBegun (q : Nat) (d : Dev) : Dev :=
  let e : Dev := { d with cist := { d.cist with flushing := some (q, d.cist.nextId) } }
  ((e.set R.QUE_FLUSH_GO 0).set R.QUE_FLUSH_COUNT 0).set R.QUE_FLUSH_BUSY 1

theorem queueFlush_busy {w : CsrW} {d : Dev} (hb : d.on R.QUE_FLUSH_BUSY = true) : queueFlush w d = refuseCsr R.QUE_FLUSH w d := if_pos hb

theorem queueFlush_begins {w : CsrW} {d : Dev} (hb : d.on R.QUE_FLUSH_BUSY = false) (hgo : wOn w R.QUE_FLUSH_GO = true) :
    queueFlush w d = flushBegun (wBits w R.QUE_FLUSH_QUEUE) (writeOwn RF.QUE_FLUSH R.QUE_FLUSH w d) := by
  rw [queueFlush, if_neg (by rw [hb]; decide)]
  dsimp only
  rw [if_neg (by rw [hgo]; decide)]
  rfl

section
variable (q : Nat) (d : Dev)

theorem flushBegun_flushing : (flushBegun q d).cist.flushing = some (q, d.cist.nextId) := rfl

theorem flushBegun_busy : (flushBegun q d).get R.QUE_FLUSH_BUSY = 1 := Dev.get_set_same _ R.QUE_FLUSH_BUSY 1 (by decide)

theorem flushBegun_count : (flushBegun q d).get R.QUE_FLUSH_COUNT = 0 :=
  (Dev.get_set_apart _ R.QUE_FLUSH_BUSY R.QUE_FLUSH_COUNT 1 (by decide) (Or.inl (by decide))).trans
    (Dev.get_set_same _ R.QUE_FLUSH_COUNT 0 (by decide))

theorem flushBegun_go : (flushBegun q d).get R.QUE_FLUSH_GO = 0 :=
  calc (flushBegun q d).get R.QUE_FLUSH_GO
    _ = _ := Dev.get_set_apart _ R.QUE_FLUSH_BUSY R.QUE_FLUSH_GO 1 (by decide) (Or.inr (by decide))
    _ = _ := Dev.get_set_apart _ R.QUE_FLUSH_COUNT R.QUE_FLUSH_GO 0 (by decide) (Or.inr (by decide))
    _ = 0 := Dev.get_set_same _ R.QUE_FLUSH_GO 0 (by decide)
end

/-! ### QUEUE_FLUSH_DONE (R205) -/

/-- The packets of queue q that were admitted before the mark are dropped; answers their number. -/
def flushQueue (q mark : Nat) (d : Dev) : Nat × Dev :=
  if q < 8192 then
    let n := ((d.uq q).pkts.filter (fun p => decide (p.id < mark))).length
    (n, flushFront q n d)
  else if q < 9216 then flushMc (q - 8192) mark d
  else (0, d)

/-- No queue is under flush any more, and the register shows the n packets dropped. -/
def flushEnded (n : Nat) (d : Dev) : Dev :=
  let e : Dev := { d with cist := { d.cist with flushing := none } }
  (e.set R.QUE_FLUSH_COUNT (min 16383 n)).set R.QUE_FLUSH_BUSY 0

theorem queueFlushDone_idle {d : Dev} (h : d.cist.flushing = none) : queueFlushDone d = d := by rw [queueFlushDone, h]

theorem queueFlushDone_ends {q mark : Nat} {d : Dev} (h : d.cist.flushing = some (q, mark)) :
    queueFlushDone d = flushEnded (flushQueue q mark d).1 (flushQueue q mark d).2 := by
  rw [queueFlushDone, h]
  rfl

theorem flushQueue_unicast {q : Nat} (mark : Nat) (d : Dev) (hq : q < 8192) :
    (flushQueue q mark d).1 = ((d.uq q).pkts.filter (fun p => decide (p.id < mark))).length := by rw [flushQueue, if_pos hq]

theorem flushQueue_multicast {q : Nat} (mark : Nat) (d : Dev) (hlo : 8192 ≤ q) (hhi : q < 9216) : (flushQueue q mark d).1 =
    ((d.mq (q - 8192)).filter (fun x => decide (x.pkt.id < mark) && (!x.taken || !x.residue.isEmpty))).length := by
  rw [flushQueue, if_neg (not_lt.2 hlo), if_pos hhi]
  rfl

section
variable (n : Nat) (d : Dev)

theorem flushEnded_flushing : (flushEnded n d).cist.flushing = none := rfl

theorem flushEnded_busy : (flushEnded n d).get R.QUE_FLUSH_BUSY = 0 := Dev.get_set_same _ R.QUE_FLUSH_BUSY 0 (by decide)

theorem flushEnded_count : (flushEnded n d).get R.QUE_FLUSH_COUNT = min 16383 n :=
  calc (flushEnded n d).get R.QUE_FLUSH_COUNT
    _ = _ := Dev.get_set_apart _ R.QUE_FLUSH_BUSY R.QUE_FLUSH_COUNT 0 (by decide) (Or.inl (by decide))
    _ = min 16383 n % 2 ^ 14 := Dev.get_set_same _ R.QUE_FLUSH_COUNT (min 16383 n) (by decide)
    _ = min 16383 n := Nat.mod_eq_of_lt (by omega)
end

/-- Settles O30. -/
theorem queueFlushes : Obligations.QueueFlushes := by
  refine ⟨?down, fun d p => flushPort_flushed p d, ?begins, ?busy, ?done, ?idle⟩
  case down =>
    intro s p n ha hf hs
    exact ⟨fun h => (onDev_whenApplied _ s ha).trans (next_setDev s (downflushExpiry_due hs hf h)),
      fun h => onDev_whenApplied_same _ s (downflushExpiry_early hs h)⟩
  case begins =>
    intro s w hrun hb hgo
    exact ⟨_, (onDev_whenRunning _ s hrun).trans (next_setDev s (queueFlush_begins hb hgo)), ⟨_, flushBegun_flushing _ _⟩,
      flushBegun_busy _ _, flushBegun_go _ _, flushBegun_count _ _⟩
  case busy => exact fun s w hrun hb => (onDev_whenRunning _ s hrun).trans (next_setDev s (queueFlush_busy hb))
  case done =>
    intro s q mark ha hf
    refine ⟨_, (onDev_whenApplied _ s ha).trans (next_setDev s (queueFlushDone_ends hf)), flushEnded_flushing _ _, flushEnded_busy _ _,
      fun hq => ?_, fun hlo hhi => ?_⟩
    · exact (flushEnded_count _ _).trans (congrArg (min 16383) (flushQueue_unicast mark s.dev hq))
    · exact (flushEnded_count _ _).trans (congrArg (min 16383) (flushQueue_multicast mark s.dev hlo hhi))
  case idle => exact fun s hf => onDev_whenApplied_same _ s (queueFlushDone_idle hf)

end Sys2Proof.Machine
end

section
/-! Remote levels, the schedule's swap and congestion maps (O31): R218, R225 to R228, R470. -/

namespace Sys2Proof.Machine

/-! ### Events leave the spray state but for the number of telemetry packets -/

/-- The spray state without the running count of telemetry packets, which an event forwarded as telemetry advances (R471, R480). -/
def Dev.sprayKept (d : Dev) : Spray := { d.spray with telSeq := 0 }

theorem addSat_spray (d : Dev) (c n : Nat) : (d.addSat c n).1.spray = d.spray := by
  unfold Dev.addSat; dsimp only
  split
  · rfl
  · split <;> rfl

theorem addCtr_spray (d : Dev) (c n : Nat) : (d.addCtr c n).1.spray = d.spray := by
  unfold Dev.addCtr; dsimp only
  split
  · split
    · rfl
    · exact addSat_spray _ _ _
  · exact addSat_spray _ _ _

theorem addCtrs_spray (cs : List (Nat × Nat)) (d : Dev) : (addCtrs cs d).1.spray = d.spray :=
  List.foldlRecOn (motive := fun r : Dev × List Nat => r.1.spray = d.spray) cs _ rfl (fun _ hr _ _ => (addCtr_spray _ _ _).trans hr)

theorem eventIrq_spray (d : Dev) : (eventIrq d).spray = d.spray := by
  unfold eventIrq; split <;> rfl

theorem ringPush_spray (r : RingRef) (bs : List Byte) (d : Dev) : (d.ringPush r bs).spray = d.spray := rfl

theorem logEvent_spray (e : Event) (d : Dev) : (logEvent e d).spray = d.spray := by
  unfold logEvent; dsimp only
  split
  · rfl
  · split
    · rfl
    · exact (eventIrq_spray (d.ringPush evtRing _)).trans (ringPush_spray evtRing _ d)

theorem sendTelemetry_sprayKept (eng : Nat) (p : List Byte) (d : Dev) : (sendTelemetry eng p d).sprayKept = d.sprayKept := by
  unfold sendTelemetry; dsimp only
  split
  · rfl
  · split <;> rfl
  · rfl

theorem forwardEvent_sprayKept (e : Event) (d : Dev) : (forwardEvent e d).sprayKept = d.sprayKept := by
  unfold forwardEvent; dsimp only
  split
  · rfl
  · split
    · rfl
    · split <;> exact sendTelemetry_sprayKept _ _ _

theorem sprayKept_congr {d e : Dev} (h : e.spray = d.spray) : e.sprayKept = d.sprayKept := congrArg (fun x : Spray => { x with telSeq := 0 }) h

theorem raiseFuel_sprayKept (n : Nat) (q : EventReq) (d : Dev) : (raiseFuel n q d).sprayKept = d.sprayKept := by
  induction n generalizing q d with
  | zero => rfl
  | succ n ih =>
    unfold raiseFuel
    extract_lets e _ d1 d2 _ d3 r
    have hforward : d2.sprayKept = d.sprayKept := forwardEvent_sprayKept e d1
    have hlog : d3.spray = d2.spray := by
      unfold d3
      split
      · exact logEvent_spray _ _
      · split <;> rfl
    have hcount : r.1.spray = d3.spray := addCtrs_spray _ _
    have hover := Dev.each_kept Dev.sprayKept r.2 (fun c d => raiseFuel n ⟨0, 0x50, 2, c, 0, 0, none⟩ d) (fun c d => ih _ d) r.1
    exact hover.trans ((sprayKept_congr (hcount.trans hlog)).trans hforward)

/-! ### Remote levels (R218) -/

section
variable (p loc rem : Nat) (d : Dev)

theorem setLevels_rd_ne {a : Nat} (h : a ≠ R.SPRAY_PLVL p) : (setLevels p loc rem d).rd a = d.rd a :=
  (Dev.rd_set_ne _ _ _ _ h).trans ((Dev.rd_set_ne _ _ _ _ h).trans (Dev.rd_set_ne _ _ _ _ h))

theorem setLevels_remote : (setLevels p loc rem d).get (R.SPRAY_PLVL_REMOTE p) = rem % 16 :=
  (Dev.get_set_apart _ (R.SPRAY_PLVL_EFF p) (R.SPRAY_PLVL_REMOTE p) _ (show 8 + 4 ≤ 32 by decide) (.inr (show 4 + 4 ≤ 8 by decide))).trans
    (Dev.get_set_same _ (R.SPRAY_PLVL_REMOTE p) _ (show 4 + 4 ≤ 32 by decide))

theorem setLevels_eff : (setLevels p loc rem d).get (R.SPRAY_PLVL_EFF p) = max loc rem % 16 :=
  Dev.get_set_same _ (R.SPRAY_PLVL_EFF p) _ (show 8 + 4 ≤ 32 by decide)
end

theorem remoteLevelExpiry_expired {p : Nat} {d : Dev} (h : d.get (R.SPRAY_RLVL_TTL p) = 0) :
    remoteLevelExpiry p d = setLevels p (d.get (R.SPRAY_PLVL_LOCAL p)) 0 d := if_pos h

/-- Without a remote level the effective one is the local one. -/
theorem setLevels_eff_local (p : Nat) (d : Dev) :
    (setLevels p (d.get (R.SPRAY_PLVL_LOCAL p)) 0 d).get (R.SPRAY_PLVL_EFF p) = d.get (R.SPRAY_PLVL_LOCAL p) := by
  rw [setLevels_eff, Nat.max_zero]
  exact Nat.mod_eq_of_lt (bitsOf_lt _ _ 4)

/-! ### The request of a swap (R228) -/

theorem schedCfg_quiet : ¬ isEvtReg R.SPRAY_SCHED_CFG := not_isEvtReg_of_lt (by decide)

/-- The device after the access of a write of SPRAY_SCHED_CFG with SWAP = 1. -/
def swapAsked (w : CsrW) (d : Dev) : Dev := (writeOwn RF.SPRAY_SCHED_CFG R.SPRAY_SCHED_CFG w d).set R.SPRAY_SCHED_CFG_SWAP 0

/-- The CE event of a T0 that has passed. -/
def swapReported (d : Dev) : Dev := if d.rd64 R.SPRAY_SCHED_START ≤ d.turn then raiseCE blkSpray 6 0 d else d

theorem swapReported_quiet (d : Dev) : d.Quiet (swapReported d) := by
  unfold swapReported
  split
  · exact raiseCE_quiet _ _ _ _ _ _
  · exact .refl d

theorem scheduleSwapRequest_taken {w : CsrW} {d : Dev} (hp : d.on R.SPRAY_SCHED_CFG_PENDING = false) (hw : wOn w R.SPRAY_SCHED_CFG_SWAP = true) :
    scheduleSwapRequest w d = (swapReported (swapAsked w d)).set R.SPRAY_SCHED_CFG_PENDING 1 := by
  rw [scheduleSwapRequest, hp, hw]
  rfl

theorem swapTaken_swap (w : CsrW) (d : Dev) :
    ((swapReported (swapAsked w d)).set R.SPRAY_SCHED_CFG_PENDING 1).get R.SPRAY_SCHED_CFG_SWAP = 0 :=
  calc _ = (swapReported (swapAsked w d)).get R.SPRAY_SCHED_CFG_SWAP := Dev.get_set_apart _ _ _ _ (by decide) (.inl (by decide))
    _ = (swapAsked w d).get R.SPRAY_SCHED_CFG_SWAP := (swapReported_quiet _).get _ schedCfg_quiet
    _ = 0 := Dev.get_set_same _ _ _ (by decide)

/-! ### When a swap is due (R228) -/

theorem setActive_sprayKept (v : Bool) (d : Dev) : (setActive v d).sprayKept = d.sprayKept := by
  unfold setActive
  split
  · rfl
  · exact raiseFuel_sprayKept _ _ _

theorem setActive_swapDue (v : Bool) (d : Dev) : (setActive v d).spray.swapDue = d.spray.swapDue := by
  have h : (setActive v d).sprayKept.swapDue = d.sprayKept.swapDue := congrArg Spray.swapDue (setActive_sprayKept v d)
  exact h

theorem pickUnloaded_swapDue (overrun : Bool) (d : Dev) : (pickUnloaded overrun d).spray.swapDue = d.spray.swapDue := by
  unfold pickUnloaded; dsimp only
  split
  · rfl
  · refine Dev.each_kept (fun d => d.spray.swapDue) _ _ (fun p d => ?_) _
    split <;> rfl

theorem loadGrants_spray (slot : Nat) (d : Dev) : (loadGrants slot d).spray = d.spray := by
  unfold loadGrants
  refine Dev.each_kept Dev.spray _ _ (fun p d => ?_) d
  rfl

theorem loadGrants_csr (slot : Nat) (d : Dev) : (loadGrants slot d).csr = d.csr := by
  unfold loadGrants
  refine Dev.each_csr _ _ (fun p d => ?_) d
  rfl

theorem scheduleBoundary_swapDue (late : Bool) (d : Dev) : (scheduleBoundary late d).spray.swapDue =
    (d.on R.SPRAY_SCHED_CFG_PENDING && decide (d.rd64 R.SPRAY_SCHED_START ≤ d.turn)) := by
  unfold scheduleBoundary
  extract_lets active due _ e slot
  have he : e.spray.swapDue = due := (pickUnloaded_swapDue _ _).trans (setActive_swapDue _ _)
  split
  · exact (congrArg Spray.swapDue (loadGrants_spray _ _)).trans he
  · exact he

/-! ### The swap (R225, R228) -/

/-- The pending bank and period show as those in force. -/
def bankShown (d : Dev) : Dev :=
  (d.set R.SPRAY_SCHED_CFG_BANK (1 - d.get R.SPRAY_SCHED_CFG_BANK)).set R.SPRAY_SCHED_STAT_PERIOD (d.get R.SPRAY_SCHED_CFG_NPERIOD)

/-- The device with the pending bank and period in force, its slots numbered from T0. -/
def bankSwapped (d : Dev) : Dev :=
  { bankShown d with spray := { d.spray with start := d.rd64 R.SPRAY_SCHED_START, swapDue := false } }

/-- The grants of the turn's slot, where the schedule is active. -/
def slotLoaded (d : Dev) : Dev := if d.on R.SPRAY_SCHED_CFG_ACTIVE then loadGrants (slotOf d d.turn) d else d

theorem slotLoaded_spray (d : Dev) : (slotLoaded d).spray = d.spray := by
  unfold slotLoaded
  split
  · exact loadGrants_spray _ _
  · rfl

theorem slotLoaded_csr (d : Dev) : (slotLoaded d).csr = d.csr := by
  unfold slotLoaded
  split
  · exact loadGrants_csr _ _
  · rfl

/-- The end of a swap: the slot shows and nothing is pending. -/
def swapEnded (slot : Nat) (d : Dev) : Dev := (d.set R.SPRAY_SCHED_STAT_SLOT slot).set R.SPRAY_SCHED_CFG_PENDING 0

theorem swapEnded_pending (slot : Nat) (d : Dev) : (swapEnded slot d).get R.SPRAY_SCHED_CFG_PENDING = 0 := Dev.get_set_same _ _ _ (by decide)

theorem swapEnded_bank (slot : Nat) (d : Dev) : (swapEnded slot d).get R.SPRAY_SCHED_CFG_BANK = d.get R.SPRAY_SCHED_CFG_BANK :=
  (Dev.get_set_apart _ _ _ _ (by decide) (.inr (by decide))).trans (Dev.get_set_ne _ _ _ _ (by decide))

theorem swapEnded_period (slot : Nat) (d : Dev) : (swapEnded slot d).get R.SPRAY_SCHED_STAT_PERIOD = d.get R.SPRAY_SCHED_STAT_PERIOD :=
  (Dev.get_set_ne _ _ _ _ (by decide)).trans (Dev.get_set_apart _ _ _ _ (by decide) (.inr (by decide)))

theorem bankSwapped_bank (d : Dev) : (bankSwapped d).get R.SPRAY_SCHED_CFG_BANK = 1 - d.get R.SPRAY_SCHED_CFG_BANK :=
  calc (bankSwapped d).get R.SPRAY_SCHED_CFG_BANK
    _ = (bankShown d).get R.SPRAY_SCHED_CFG_BANK := rfl
    _ = (d.set R.SPRAY_SCHED_CFG_BANK (1 - d.get R.SPRAY_SCHED_CFG_BANK)).get R.SPRAY_SCHED_CFG_BANK := Dev.get_set_ne _ _ _ _ (by decide)
    _ = (1 - d.get R.SPRAY_SCHED_CFG_BANK) % 2 ^ 1 := Dev.get_set_same _ _ _ (by decide)
    _ = 1 - d.get R.SPRAY_SCHED_CFG_BANK := Nat.mod_eq_of_lt (by omega)

theorem bankSwapped_period (d : Dev) : (bankSwapped d).get R.SPRAY_SCHED_STAT_PERIOD = d.get R.SPRAY_SCHED_CFG_NPERIOD :=
  (Dev.get_set_same _ R.SPRAY_SCHED_STAT_PERIOD _ (by decide)).trans (Nat.mod_eq_of_lt (bitsOf_lt _ _ 8))

theorem scheduleSwap_due {d : Dev} (hp : d.on R.SPRAY_SCHED_CFG_PENDING = true) (hd : d.spray.swapDue = true) :
    scheduleSwap d = swapEnded (slotOf (bankSwapped d) (bankSwapped d).turn) (slotLoaded (bankSwapped d)) := by
  rw [scheduleSwap, hp, hd]
  rfl

theorem scheduleSwap_waits {d : Dev} (h : d.on R.SPRAY_SCHED_CFG_PENDING = false ∨ d.spray.swapDue = false) : scheduleSwap d = d := by
  refine if_neg ?_
  rcases h with h | h <;> simp [h]

/-! ### Congestion maps (R220, R470, R471) -/

/-- A map of the turn is taken: the next one has the next number. -/
def mapNumbered (seq : Nat) (d : Dev) : Dev := { d with spray := { d.spray with mapSeq := (seq + 1) % 65536, mapTurn := some d.turn } }

/-- The sets visited and the detections count from the map on. -/
def mapGathered (d : Dev) : Dev := { d with spray := { d.spray with visited := (0, 0), detections := [], mapLate := false } }

/-- The turn's boundary passes without a map: none is sent, the turn is none of INT, or its map has been taken (log 117). -/
def mapPassed (d : Dev) : Bool :=
  d.get R.SPRAY_MAP_CFG_INT = 0 || (d.get R.SPRAY_MAP_CFG_DEST != 1 && d.get R.SPRAY_MAP_CFG_DEST != 2) ||
    d.turn % d.get R.SPRAY_MAP_CFG_INT != 0 || d.spray.mapTurn == some d.turn

theorem congestionMap_passed {d : Dev} (h : mapPassed d = true) : congestionMap d = d := if_pos h

theorem mapPassed_off {d : Dev} (h : d.get R.SPRAY_MAP_CFG_INT = 0) : mapPassed d = true := by simp [mapPassed, h]

section
variable {d : Dev} (hi : d.get R.SPRAY_MAP_CFG_INT ≠ 0) (hd : d.get R.SPRAY_MAP_CFG_DEST = 1 ∨ d.get R.SPRAY_MAP_CFG_DEST = 2)
  (ht : d.turn % d.get R.SPRAY_MAP_CFG_INT = 0) (hm : d.spray.mapTurn ≠ some d.turn)
include hi hd ht hm

theorem mapPassed_due : ¬ mapPassed d = true := by
  rcases hd with hd | hd <;> simp [mapPassed, hi, hd, ht, hm]

theorem congestionMap_skips (hu : mapUnsent d = true) :
    congestionMap d = mapNumbered d.spray.mapSeq (d.bump (R.GAUGE_TEL_CNT_COUNT 2)) := by
  rw [congestionMap]
  exact (if_neg (mapPassed_due hi hd ht hm)).trans (if_pos hu)

/-- A map that is taken sends at least the port fragment. -/
theorem congestionMap_takes (hu : mapUnsent d = false) : ∃ (e : Dev) (x : List Byte) (xs : List (List Byte)),
    e.get R.SPRAY_MAP_CFG_DEST = d.get R.SPRAY_MAP_CFG_DEST ∧
    congestionMap d = mapNumbered d.spray.mapSeq (mapGathered (Dev.each (x :: xs) (sendTelemetry 3) e)) := by
  rw [congestionMap]
  refine ⟨_, _, _, ?_, (if_neg (mapPassed_due hi hd ht hm)).trans (if_neg (by simp [hu]))⟩
  split
  · exact Dev.get_set_ne _ _ _ _ (by decide)
  · rfl
end

theorem sendTelemetry_csr (eng : Nat) (p : List Byte) (d : Dev) : (sendTelemetry eng p d).csr = d.csr := by
  unfold sendTelemetry; dsimp only
  split
  · rfl
  · split <;> rfl
  · rfl

theorem Dev.each_cons {α : Type} (x : α) (l : List α) (f : α → Dev → Dev) (d : Dev) : Dev.each (x :: l) f d = Dev.each l f (f x d) := rfl

/-- A fragment waits among the packets built, whichever way it is sent. -/
theorem sendTelemetry_unsent (x : List Byte) {d : Dev} (h : d.get R.SPRAY_MAP_CFG_DEST = 1 ∨ d.get R.SPRAY_MAP_CFG_DEST = 2) :
    mapUnsent (sendTelemetry 3 x d) = true := by
  rcases h with h | h <;> simp [mapUnsent, sendTelemetry, h]

theorem each_sendTelemetry_unsent (x : List Byte) (xs : List (List Byte)) {d : Dev}
    (h : d.get R.SPRAY_MAP_CFG_DEST = 1 ∨ d.get R.SPRAY_MAP_CFG_DEST = 2) : mapUnsent (Dev.each (x :: xs) (sendTelemetry 3) d) = true := by
  induction xs generalizing x d with
  | nil => exact sendTelemetry_unsent x h
  | cons y ys ih =>
    have hdest := Dev.get_congr (sendTelemetry_csr 3 x d) R.SPRAY_MAP_CFG_DEST
    rw [Dev.each_cons]
    exact ih y (hdest.symm ▸ h)

/-- A telemetry counter is no part of the turn number. -/
theorem bump_telCnt_turn (r : Nat) (d : Dev) : (d.bump (R.GAUGE_TEL_CNT_COUNT r)).turn = d.turn := by
  have hlo : R.GLB_TURN_NUM ≠ R.GAUGE_TEL_CNT r := by unfold R.GLB_TURN_NUM R.GAUGE_TEL_CNT; omega
  have hhi : R.GLB_TURN_NUM + 4 ≠ R.GAUGE_TEL_CNT r := by unfold R.GLB_TURN_NUM R.GAUGE_TEL_CNT; omega
  rw [Dev.bump_eq, Dev.turn, Dev.turn, Dev.rd64, Dev.rd64, Dev.rd_set_ne _ _ _ _ hlo, Dev.rd_set_ne _ _ _ _ hhi]

/-- Settles O31. The boundary at which a swap is due (log 86) and a map taken once in its turn (log 117) are the model's choices. -/
theorem sprayAndSchedule : Obligations.SprayAndSchedule := by
  refine ⟨?expiry, ?request, scheduleBoundary_swapDue, ?swap, ?waits, ?off, ?map⟩
  case expiry =>
    intro s p ha h
    exact ⟨_, (onDev_whenApplied _ s ha).trans (next_setDev s (remoteLevelExpiry_expired h)), setLevels_remote _ _ _ _,
      setLevels_eff_local _ _, fun a => setLevels_rd_ne _ _ _ _⟩
  case request =>
    intro s w hrun hp hw
    exact ⟨_, (onDev_whenRunning _ s hrun).trans (next_setDev s (scheduleSwapRequest_taken hp hw)), Dev.get_set_same _ _ _ (by decide),
      swapTaken_swap w s.dev⟩
  case swap =>
    intro s ha ht hp hd
    refine ⟨_, (onDev_whenTurning _ s ha ht).trans (next_setDev s (scheduleSwap_due hp hd)), ?_, ?_, swapEnded_pending _ _, ?_, ?_⟩
    · exact (swapEnded_bank _ _).trans ((Dev.get_congr (slotLoaded_csr _) _).trans (bankSwapped_bank s.dev))
    · exact (swapEnded_period _ _).trans ((Dev.get_congr (slotLoaded_csr _) _).trans (bankSwapped_period s.dev))
    · exact congrArg Spray.start (slotLoaded_spray (bankSwapped s.dev))
    · exact congrArg Spray.swapDue (slotLoaded_spray (bankSwapped s.dev))
  case waits => exact fun s h => next_setDev s (Dev.when_same (scheduleSwap_waits h))
  case off => exact fun s h => next_setDev s (Dev.when_same (congestionMap_passed (mapPassed_off h)))
  case map =>
    intro s ha ht hi hd hturn hm
    refine ⟨fun hu => ?_, fun hu => (onDev_whenTurning _ s ha ht).trans (next_setDev s ?_)⟩
    · obtain ⟨e, x, xs, he, hmap⟩ := congestionMap_takes hi hd hturn hm hu
      exact ⟨_, (onDev_whenTurning _ s ha ht).trans (next_setDev s hmap), rfl, rfl, rfl, each_sendTelemetry_unsent x xs (he ▸ hd)⟩
    · rw [congestionMap_skips hi hd hturn hm hu, mapNumbered, bump_telCnt_turn]

end Sys2Proof.Machine
end

section
/-! Job batches and their records (O45): staging, the commands that apply the records of a turn, and what an accepted record changes. R240, R241,
R389 to R391, R395 to R399. -/

namespace Sys2Proof.Machine

/-! ### Staging (R397) -/

theorem jobBatchStage_unfinished {d : Dev} (h : jobBatchFrom d (d.ringCount jupdRing) 0 = none) : jobBatchStage d = d := by
  simp only [jobBatchStage, h]

theorem jobBatchStage_broken {d : Dev} {b : List JobRec} (h : jobBatchFrom d (d.ringCount jupdRing) 0 = some b) (hb : batchBroken b = true) :
    jobBatchStage d = (Dev.each b (fun x => jobStatus x.idx 5) d).ringAdvance jupdRing b.length := by
  simp only [jobBatchStage, h, hb, if_true]

/-- The device whose only lane, a new one, holds the one batch `b`. -/
def laneOpened (job : BitVec 16) (b : List JobRec) (d : Dev) : Dev :=
  { d.ringAdvance jupdRing b.length with jobs := { d.jobs with
      lanes := [⟨d.jobs.nextLane, job, [b]⟩], nextLane := d.jobs.nextLane + 1, staged := d.jobs.staged + b.length } }

theorem jobBatchStage_opensLane {d : Dev} {x : JobRec} {t : List JobRec} (h : jobBatchFrom d (d.ringCount jupdRing) 0 = some (x :: t))
    (hb : batchBroken (x :: t) = false) (hroom : d.jobs.staged + (x :: t).length ≤ 16384) (hlanes : d.jobs.lanes = []) :
    jobBatchStage d = laneOpened (BitVec.ofNat 16 (jJob x.bytes)) (x :: t) d := by
  have hfits : ¬ 16384 < d.jobs.staged + (x :: t).length := not_lt.2 hroom
  simp only [jobBatchStage, h, hb, hlanes, hfits, List.any_nil, List.length_nil, Nat.reduceLeDiff, decide_false, Bool.false_eq_true, Bool.and_false,
    Bool.or_self, if_false, List.nil_append, laneOpened]

/-! ### The command of a record (R395, R398) -/

theorem jobOpIs_self (r : List Byte) : jobOpIs (jOp r) r = true := by simp [jobOpIs]

theorem jobOpIs_nop {r : List Byte} (h : jOp r = 0 ∨ 6 < jOp r) : jobOpIs 0 r = true := by simpa [jobOpIs] using h

/-- The device `d` after the record `x` is applied: STATUS is written, `rest` are left of the turn, and a staging place is free. -/
def recordEnded (x : JobRec) (rest : List JobRec) (st : Nat) (d : Dev) : Dev :=
  jobStatus x.idx st { d with jobs := { d.jobs with apply := rest, begun := !jEnd x.bytes, staged := d.jobs.staged - 1 } }

theorem jobTake_record {op : Nat} {x : JobRec} {rest : List JobRec} {st : Nat} {d e : Dev} (hx : d.jobs.apply = x :: rest)
    (hr : jobRecord x.bytes d = some (st, e)) (hop : jobOpIs op x.bytes = true) :
    jobTake op d = recordEnded x rest st e := by
  simp only [jobTake, jobNext, hx, hop, Bool.not_true, Bool.false_eq_true, if_false, hr, recordEnded]

theorem jobRecord_nop {r : List Byte} (d : Dev) (h : jOp r = 0) : jobRecord r d = some (1, d) := if_pos h

theorem jobRecord_job0 {r : List Byte} (d : Dev) (hop : jOp r ≠ 0) (hjob : jJob r = 0) : jobRecord r d = some (3, d) :=
  (if_neg hop).trans (if_pos hjob)

/-! ### The job table with the changes of the turn (R389) -/

@[simp] theorem mapOf_setNext (job : Nat) (t : JobTables) (d : Dev) : mapOf job (setNext t d) = SMap.getD t.map job (none, none) := rfl
@[simp] theorem entryOf_setNext (j : Nat) (t : JobTables) (d : Dev) : entryOf j (setNext t d) = SMap.get? t.entry j := rfl
@[simp] theorem setNext_vis (t : JobTables) (d : Dev) : (setNext t d).jobs.vis = d.jobs.vis := rfl

/-- The tables after JOB maps to an index with a last generation, and the entry there has a generation and a state. -/
def entryWritten (job : Nat) (j : JobIdx) (last : Option Byte) (g : Byte) (st : BitVec 2) (t : JobTables) : JobTables :=
  { map := SMap.put t.map job (some j, last), entry := SMap.put t.entry j.val (BitVec.ofNat 16 job, g, st) }

section
variable {job : Nat} {j : JobIdx} {last : Option Byte} {g : Byte} {st : BitVec 2} {t : JobTables} {d : Dev}

theorem entryOf_entryWritten : entryOf j.val (setNext (entryWritten job j last g st t) d) = some (BitVec.ofNat 16 job, g, st) := by
  rw [entryOf_setNext, entryWritten, SMap.get?_put, if_pos rfl]

theorem mapOf_entryWritten : mapOf job (setNext (entryWritten job j last g st t) d) = (some j, last) := by
  rw [mapOf_setNext, entryWritten, SMap.getD_put, if_pos rfl]
end

theorem jobEntry_unmapped {job : Nat} {d : Dev} (h : (mapOf job d).1 = none) : jobEntry job d = none := by
  simp only [jobEntry, h]

theorem jobEntry_mapped {job : Nat} {j : JobIdx} {d : Dev} (h : (mapOf job d).1 = some j) :
    jobEntry job d = (entryOf j.val d).map (fun e => (j, e.2)) := by
  simp only [jobEntry, h]

/-! ### ACTIVATE (R390) -/

theorem jobIdx_val {j : Nat} (h : j ≤ 4095) : (Fin.ofNat 4096 j).val = j := Nat.mod_eq_of_lt (Nat.lt_succ_of_le h)

theorem recActivate_badIndex (job gen : Nat) {j : Nat} (d : Dev) (h : j = 0 ∨ 4095 < j) : recActivate job gen j d = some (3, d) := if_pos h

/-- A JOB without an entry or a last generation takes a free one. -/
theorem recActivate_free {job : Nat} (gen : Nat) {j : Nat} {d : Dev} (h1 : 1 ≤ j) (h4095 : j ≤ 4095) (hfree : entryOf j d = none)
    (hmap : mapOf job d = (none, none)) :
    recActivate job gen j d = some (1, setNext (entryWritten job (Fin.ofNat 4096 j) none (BitVec.ofNat 8 gen) 1 d.jobs.next) d) := by
  have hindex : ¬ (j = 0 ∨ 4095 < j) := by omega
  have hentry : jobEntry job d = none := jobEntry_unmapped (congrArg Prod.fst hmap)
  simp only [recActivate, hindex, if_false, hentry, hfree, hmap, Option.any_none, Option.isSome_none, Bool.or_self, Bool.false_eq_true,
    Option.none_beq_some, entryWritten, jobIdx_val h4095, jobIdxOf]

/-! ### TEARDOWN (R391) -/

theorem recTeardown_unmapped {job : Nat} (gen : Nat) {d : Dev} (h : jobEntry job d = none) : recTeardown job gen d = some (7, d) := by
  simp only [recTeardown, h]

theorem recTeardown_active {job gen : Nat} {j : JobIdx} {g : Byte} {d : Dev} (h : jobEntry job d = some (j, g, 1)) (hg : g.toNat = gen) :
    recTeardown job gen d = some (1, setNext (entryWritten job j (some g) g 2 d.jobs.next) d) := by
  simp only [recTeardown, h, hg, ne_eq, not_true, or_self, if_false, entryWritten]

/-! ### Group, scatter and canal records (R240, R241, R396) -/

/-- An entry with VALID 0 needs no ACTIVE job and waits for no context; the checks of R241 and R272 apply to it too (log 24). -/
theorem recGroup_invalid (job : Nat) {g : Nat} {e : List Byte} {d : Dev} (hg : g ≤ 65535) (hv : gValid e = false) (hok : groupBad e d = false) :
    recGroup job g e d = some (1, { d with jobs := { d.jobs with groupChanges := d.jobs.groupChanges ++ [(g, e)] } }) := by
  simp only [recGroup, not_lt.2 hg, hv, hok, Bool.false_and, Bool.false_eq_true, if_false]

theorem recScatter_inRange {i : Nat} (v : Nat) (d : Dev) (h : i ≤ 65535) :
    recScatter i v d = some (1, { d with jobs := { d.jobs with scatterChanges := d.jobs.scatterChanges ++ [(i, BitVec.ofNat 24 v)] } }) :=
  if_neg (not_lt.2 h)

theorem recCanal_inactive {job : Nat} {e : List Byte} {d : Dev} (hv : canalValid e = true) (h : activeIdx job d ≠ some (beBits e 4 2 11 0)) :
    recCanal job e d = some (3, d) := (if_pos hv).trans (if_pos h)

/-- Settles O45. That JOB_UPDATE_NOP takes the records of an undefined operation (log 12), that an entry with VALID 0 is checked too (log 24) and that
the records of a turn's batches apply one by one (log 26) are the model's choices. -/
theorem jobRecords : Obligations.JobRecords := by
  refine ⟨fun s h => onDev_whenApplied_same _ s (jobBatchStage_unfinished h), ?broken, ?staged, ?commands, fun d r => jobRecord_nop d,
    fun d r => jobRecord_job0 d, ?activate, fun d job gen j => recActivate_badIndex job gen d, ?teardown, fun d job gen => recTeardown_unmapped gen,
    fun d job g e => recGroup_invalid job, fun d grp v => rfl, fun d i v => recScatter_inRange v d, fun d job e => recCanal_inactive⟩
  case broken => exact fun s b ha h hb => (onDev_whenApplied _ s ha).trans (next_setDev s (jobBatchStage_broken h hb))
  case staged =>
    exact fun s x t ha h hb hroom hlanes => (onDev_whenApplied _ s ha).trans (next_setDev s (jobBatchStage_opensLane h hb hroom hlanes))
  case commands =>
    intro s x rest st d ha hturn hx hr t
    have taken (op : Nat) (h : jobOpIs op x.bytes = true) : onDev (Dev.whenTurning (jobTake op)) s = .next t :=
      (onDev_whenTurning _ s ha hturn).trans (next_setDev s (jobTake_record hx hr h))
    have takenSelf (op : Nat) (h : jOp x.bytes = op) : onDev (Dev.whenTurning (jobTake op)) s = .next t := taken op (h ▸ jobOpIs_self x.bytes)
    exact ⟨fun h => taken 0 (jobOpIs_nop h), takenSelf 1, takenSelf 2, takenSelf 3, takenSelf 4, takenSelf 5, takenSelf 6⟩
  case activate =>
    intro d job gen j h1 h4095 hfree hmap
    refine ⟨_, recActivate_free gen h1 h4095 hfree hmap, ?_, congrArg Prod.fst mapOf_entryWritten, rfl⟩
    exact (congrArg (entryOf · _) (jobIdx_val h4095).symm).trans entryOf_entryWritten
  case teardown =>
    intro d job gen j g hmap he hg
    have hentry : jobEntry job d = some (j, g, 1) := by
      obtain ⟨e, he, hst⟩ := Option.map_eq_some_iff.1 he
      rw [jobEntry_mapped hmap, he, Option.map_some, hst]
    exact ⟨_, recTeardown_active hentry hg, entryOf_entryWritten, rfl⟩

end Sys2Proof.Machine
end

section
/-! The outputs of a projection and an expansion, and the split into tiles (O36, O37): R290, R296, R300, R301. -/

namespace Sys2Proof.Machine

/-! ### Rows of outputs (R300, R301) -/

theorem length_rows {α : Type} (f : Nat → Nat → α) (n k : Nat) : ((List.range n).flatMap fun r => (List.range k).map (f r)).length = n * k := by
  simp [List.length_flatMap]

/-- Rows of `k` entries laid one after another hold entry `c` of row `r` at `r * k + c`. -/
theorem getElem?_rows {α : Type} (f : Nat → Nat → α) {n k r c : Nat} (hr : r < n) (hc : c < k) :
    ((List.range n).flatMap fun r => (List.range k).map (f r))[r * k + c]? = some (f r c) := by
  induction n with
  | zero => exact absurd hr (Nat.not_lt_zero r)
  | succ n ih =>
    rw [List.range_succ, List.flatMap_append, List.flatMap_singleton]
    rcases Nat.lt_succ_iff_lt_or_eq.1 hr with hr | rfl
    · have hin : r * k + c < n * k := calc
        r * k + c < (r + 1) * k := by rw [Nat.succ_mul]; omega
        _ ≤ n * k := Nat.mul_le_mul_right k hr
      rw [List.getElem?_append_left (by rwa [length_rows]), ih hr]
    · rw [List.getElem?_append_right (by rw [length_rows]; omega), length_rows, Nat.add_sub_cancel_left]
      simp [hc]

/-- Settles O36. -/
theorem matrixRows : Obligations.MatrixRows := by
  refine ⟨fun j lo n d => ⟨length_rows _ n j.k, length_rows _ n j.n⟩, fun j lo n r c d hr hc => getElem?_rows _ hr hc, ?expansion⟩
  case expansion =>
    intro j lo n r c d hr hc hC
    rw [lrxOut, getElem?_rows _ hr hc, if_pos hC]

/-! ### The split by rows (R296) -/

theorem divUp_le_iff {b : Nat} (hb : 0 < b) (a c : Nat) : divUp a b ≤ c ↔ a ≤ c * b := by
  rw [divUp, ← Nat.lt_succ_iff, Nat.div_lt_iff_lt_mul hb, Nat.succ_mul]
  omega

theorem divUp_pos {a b : Nat} (ha : 0 < a) (hb : 0 < b) : 0 < divUp a b := by
  by_contra h
  have hle : a ≤ 0 * b := (divUp_le_iff hb a 0).1 (Nat.le_of_not_lt h)
  omega

/-- Settles O37. -/
theorem tilesCover : Obligations.TilesCover := by
  intro mm e he hmm x
  have hper : 0 < 8 * divUp mm (8 * e) := Nat.mul_pos (by decide) (divUp_pos hmm (by omega))
  have hx : x = (8 * divUp mm (8 * e), divUp mm (8 * divUp mm (8 * e))) := by simp [x, splitJob, hper.ne']
  rw [hx]
  refine ⟨Nat.mul_mod_right 8 _, ?engines, ?nonempty, ?covered⟩
  case engines =>
    rw [divUp_le_iff hper]
    calc mm ≤ divUp mm (8 * e) * (8 * e) := (divUp_le_iff (by omega) mm _).1 le_rfl
      _ = e * (8 * divUp mm (8 * e)) := by ring
  case nonempty =>
    by_contra h
    have hle := (divUp_le_iff hper mm _).2 (Nat.le_of_not_lt h)
    have hpos := divUp_pos hmm hper
    omega
  case covered => exact (divUp_le_iff hper mm _).1 le_rfl

end Sys2Proof.Machine
end

section
/-! The queues of descriptors: what a change of one taken descriptor leaves, and that the work of a tile changes no queue (R296, R305, R456). -/

namespace Sys2Proof.Machine

/-! ### Taken descriptors -/

@[simp] theorem workQ_setWorkQ_same (key : Nat) (w : WorkQ) (d : Dev) : (d.setWorkQ key w).workQ key = w := by
  simp [Dev.workQ, Dev.setWorkQ]

theorem workQ_congr {d e : Dev} (h : e.eng = d.eng) (key : Nat) : e.workQ key = d.workQ key := by simp only [Dev.workQ, h]

theorem jobOf_congr {d e : Dev} (h : e.eng = d.eng) (key id : Nat) : jobOf key id e = jobOf key id d := by simp only [jobOf, workQ_congr h]

/-- The descriptor of a number after a change that keeps the number. -/
theorem jobOf_modJob {id : Nat} {f : Job → Job} (hf : ∀ x, x.id = id → (f x).id = id) (key : Nat) (d : Dev) :
    jobOf key id (modJob key id f d) = (jobOf key id d).map f := by
  have hkeeps : (fun j : Job => j.id == id) ∘ (fun j => if j.id = id then f j else j) = fun j => j.id == id := by
    funext j
    by_cases hj : j.id = id
    · simp [hj, hf j hj]
    · simp [hj]
  rw [jobOf, modJob, workQ_setWorkQ_same, List.find?_map, hkeeps]
  refine Option.map_congr fun j hj => if_pos ?_
  simpa using List.find?_some hj

/-- The descriptor that a command acts on is one of its queue's. -/
theorem jobOf_isSome_of_liveJob {key : Nat} {p : Job → Bool} {d : Dev} {j : Job} (h : liveJob key p d = some j) :
    (jobOf key j.id d).isSome = true :=
  List.find?_isSome.2 ⟨j, List.mem_of_find?_eq_some h, beq_self_eq_true j.id⟩

/-- A descriptor replaced by one of the same number. -/
theorem jobOf_modJob_const {key : Nat} {j k : Job} {d : Dev} (h : (jobOf key j.id d).isSome = true) (hk : k.id = j.id) :
    jobOf key j.id (modJob key j.id (fun _ => k) d) = some k := by
  obtain ⟨x, hx⟩ := Option.isSome_iff_exists.1 h
  rw [jobOf_modJob (fun _ _ => hk), hx, Option.map_some]

/-! ### What a tile leaves of the queues -/

theorem writeMem_eng (d : Dev) (sp a : Nat) (bs : List Byte) : (d.writeMem sp a bs).eng = d.eng := by
  unfold Dev.writeMem Dev.setMem; split <;> rfl

theorem setPoison_eng (d : Dev) (sp a : Nat) : (d.setPoison sp a).eng = d.eng := by
  unfold Dev.setPoison; split <;> rfl

theorem poisonRegion_eng (r : Nat × Nat) (d : Dev) : (poisonRegion r d).eng = d.eng :=
  Dev.each_kept Dev.eng _ (fun i d => d.setPoison (spOf r.1) (adrOf r.1 + 64 * i)) (fun _ d => setPoison_eng d _ _) d

theorem unitAccess_eng (key cls : Nat) (r : Nat × Nat) (d : Dev) : (unitAccess key cls r d).eng = d.eng := by
  unfold unitAccess; dsimp only
  split <;> exact (countLines_quiet _ _ _ _ _ _ _).eng

theorem putElems_eng (t : Tensor) (pack : Bool) (lo : Nat) (ws : List Nat) (g : Nat) (d : Dev) : (putElems t pack lo ws g d).2.eng = d.eng := by
  unfold putElems; dsimp only
  split
  · exact (writeMem_eng _ _ _ _).trans (writeMem_eng _ _ _ _)
  · exact writeMem_eng _ _ _ _

theorem putOuter_eng (j : Job) (lo n g : Nat) (d : Dev) : (putOuter j lo n g d).dev.eng = d.eng :=
  List.foldlRecOn (motive := fun r : (Nat × Nat) × Dev => r.2.eng = d.eng) (List.range n) _ rfl
    fun _ hr _ _ => (putElems_eng _ _ _ _ _ _).trans ((putElems_eng _ _ _ _ _ _).trans hr)

theorem scribble_eng (sp a n : Nat) (d : Dev) : (scribble sp a n d).eng = d.eng :=
  Dev.each_kept Dev.eng _ (fun i d => d.draw.2.writeMem sp (a + i) [BitVec.ofNat 8 d.draw.1.toNat]) (fun _ _ => writeMem_eng _ _ _ _) d

theorem putPool_eng (j : Job) (g : Nat) (d : Dev) : (putPool j g d).dev.eng = d.eng :=
  List.foldlRecOn (motive := fun r : Nat × Dev => r.2.eng = d.eng) ((poolRows j d).1.zip (List.range (poolRows j d).1.length)) _
    (scribble_eng _ _ _ d) fun _ hr _ _ => (writeMem_eng _ _ _ _).trans hr

theorem calcTile_eng (m : Nat) (j : Job) (t : Nat) (d : Dev) : (calcTile m j t d).dev.eng = d.eng := by
  unfold calcTile; dsimp only
  split
  · exact putElems_eng _ _ _ _ _ _
  · exact putElems_eng _ _ _ _ _ _
  · exact putOuter_eng _ _ _ _ _
  · exact putElems_eng _ _ _ _ _ _
  · exact putPool_eng _ _ _
  · rfl

theorem runTile_eng (m : Nat) (j : Job) (t : Nat) (d : Dev) : (runTile m j t d).dev.eng = d.eng :=
  (Dev.each_kept Dev.eng _ (unitAccess (64 * m) 1) (fun _ _ => unitAccess_eng _ _ _ _) _).trans
    ((Dev.each_kept Dev.eng _ (unitAccess (64 * m) 0) (fun _ _ => unitAccess_eng _ _ _ _) _).trans (calcTile_eng m j t d))

end Sys2Proof.Machine
end

section
/-! The next tile of a fixed or a loaded kernel (O35): R290, R300 to R303, R305, R311, R313. -/

namespace Sys2Proof.Machine

/-! ### Fixed kernels -/

theorem runTile_cycles_mac (m : Nat) {j : Job} (t : Nat) (d : Dev) (h : j.op = 1 ∨ j.op = 2) :
    (runTile m j t d).cycles = some (macCycles j (tileSpan j t).2) := by
  rcases h with h | h <;> simp only [runTile, calcTile, h]

theorem runTile_cycles_free (m : Nat) {j : Job} (t : Nat) (d : Dev) (h1 : j.op ≠ 1) (h2 : j.op ≠ 2) : (runTile m j t d).cycles = none := by
  simp only [runTile, calcTile]
  split
  · contradiction
  · contradiction
  all_goals rfl

section
variable {m q op : Nat} {d : Dev} {j : Job} (h : liveJob (sluWq m q).key (fun j => j.op == op && !(openTiles j).isEmpty) d = some j)
include h

/-- A tile of clean operands that takes the cycles the spec gives. -/
theorem computeTile_clean (hb : (tileReads j ((openTiles j).headD 0)).any (fun r => regionPoisoned r d) = false) {c : Nat}
    (hc : (runTile m j ((openTiles j).headD 0) d).cycles = some c) :
    computeTile m q op d = modJob (sluWq m q).key j.id (fun _ => { j with
      computed := (openTiles j).headD 0 + 1, sat := j.sat + (runTile m j ((openTiles j).headD 0) d).sat, cycles := j.cycles + c,
      detail := (runTile m j ((openTiles j).headD 0) d).keys }) (runTile m j ((openTiles j).headD 0) d).dev := by
  simp only [computeTile, h, hb, hc, Bool.false_eq_true, if_false]

/-- A tile of clean operands whose cycles are a free value (log 35). -/
theorem computeTile_cleanFree (hb : (tileReads j ((openTiles j).headD 0)).any (fun r => regionPoisoned r d) = false)
    (hc : (runTile m j ((openTiles j).headD 0) d).cycles = none) :
    computeTile m q op d = modJob (sluWq m q).key j.id (fun _ => { j with
      computed := (openTiles j).headD 0 + 1, sat := j.sat + (runTile m j ((openTiles j).headD 0) d).sat,
      cycles := j.cycles + (Config.freeValue (runTile m j ((openTiles j).headD 0) d).dev.freeCtr).toNat,
      detail := (runTile m j ((openTiles j).headD 0) d).keys }) (runTile m j ((openTiles j).headD 0) d).dev.draw.2 := by
  simp only [computeTile, h, hb, hc, Bool.false_eq_true, if_false, Dev.draw_fst]

/-- A tile that reads an uncorrectable line ends with POISON. -/
theorem computeTile_poisoned (hb : (tileReads j ((openTiles j).headD 0)).any (fun r => regionPoisoned r d) = true) :
    ∃ k, jobOf (sluWq m q).key j.id (computeTile m q op d) = some k ∧ k.errs = j.errs ++ [((openTiles j).headD 0, 4)] ∧
      k.computed = (openTiles j).headD 0 + 1 := by
  have stands (e : Dev) (he : e.eng = d.eng) (k : Job) (hk : k.id = j.id) :
      jobOf (sluWq m q).key j.id (Dev.each (tileWrites k ((openTiles j).headD 0)) poisonRegion
        (modJob (sluWq m q).key j.id (fun _ => k) e)) = some k := by
    rw [jobOf_congr (Dev.each_kept Dev.eng _ poisonRegion poisonRegion_eng _)]
    exact jobOf_modJob_const (by rw [jobOf_congr he]; exact jobOf_isSome_of_liveJob h) hk
  simp only [computeTile, h, hb, if_true]
  refine ⟨_, stands _ ?_ _ rfl, rfl, rfl⟩
  split
  · exact runTile_eng _ _ _ _
  · exact runTile_eng _ _ _ _
end

/-! ### Loaded kernels -/

/-- The writes that a tile of a loaded kernel makes before it leaves its windows. -/
def writesWithin (w : Wq) (ws : List (Nat × List Byte)) (d : Dev) : List (Nat × List Byte) :=
  ws.takeWhile fun x => opWindow w true x.1 x.2.length d

/-- A loaded kernel's tile accesses what lies outside its windows. -/
def tileStops (w : Wq) (outside : Bool) (ws : List (Nat × List Byte)) (d : Dev) : Bool :=
  outside || decide ((writesWithin w ws d).length < ws.length)

/-- One write of a loaded kernel, and the die's access to its lines. -/
def kernelWrite (m : Nat) (x : Nat × List Byte) (d : Dev) : Dev :=
  unitAccess (64 * m) 1 (x.1, x.2.length) (d.writeMem (spOf x.1) (adrOf x.1) x.2)

theorem kernelWrite_eng (m : Nat) (x : Nat × List Byte) (d : Dev) : (kernelWrite m x d).eng = d.eng :=
  (unitAccess_eng _ _ _ _).trans (writeMem_eng _ _ _ _)

theorem writesWithin_all {w : Wq} {ws : List (Nat × List Byte)} {d : Dev} (h : ∀ x ∈ ws, opWindow w true x.1 x.2.length d = true) :
    writesWithin w ws d = ws := List.takeWhile_eq_self_iff.2 h

theorem tileStops_within {w : Wq} {ws : List (Nat × List Byte)} {d : Dev} (h : ∀ x ∈ ws, opWindow w true x.1 x.2.length d = true) :
    tileStops w false ws d = false := by simp [tileStops, writesWithin_all h]

theorem tileStops_outside {w : Wq} {outside : Bool} {ws : List (Nat × List Byte)} {d : Dev}
    (h : outside = true ∨ ∃ x ∈ ws, opWindow w true x.1 x.2.length d = false) : tileStops w outside ws d = true := by
  rcases h with rfl | ⟨x, hx, hw⟩
  · rfl
  · have hshort : (writesWithin w ws d).length < ws.length := by
      have hprefix : writesWithin w ws d <+: ws := List.takeWhile_prefix _
      refine lt_of_le_of_ne hprefix.length_le fun hlen => ?_
      have hall := List.takeWhile_eq_self_iff.1 (hprefix.eq_of_length hlen) x hx
      rw [hw] at hall
      exact Bool.false_ne_true hall
    simp [tileStops, hshort]

/-- The descriptor after a tile of a loaded kernel. -/
def kernelTileEnded (t cycles : Nat) (stop : Bool) (ok : List (Nat × List Byte)) (j : Job) : Job :=
  { j with computed := t + 1, cycles := j.cycles + cycles, detail := if stop then 4 else j.detail,
           errs := if stop then j.errs ++ [(t, 3)] else j.errs, wrote := j.wrote ++ ok.map fun x => (t, x.1, x.2.length) }

theorem kernelTileEnded_id (t cycles : Nat) (stop : Bool) (ok : List (Nat × List Byte)) (j : Job) :
    (kernelTileEnded t cycles stop ok j).id = j.id := rfl

theorem loadableTile_eq {m q : Nat} {d : Dev} {j : Job} (cycles : Nat) (outside : Bool) (ws : List (Nat × List Byte))
    (h : liveJob (sluWq m q).key (fun j => decide (0x40 ≤ j.op) && !(openTiles j).isEmpty) d = some j) :
    loadableTile m q cycles outside ws d = modJob (sluWq m q).key j.id
      (kernelTileEnded ((openTiles j).headD 0) cycles (tileStops (sluWq m q) outside ws d) (writesWithin (sluWq m q) ws d))
      (Dev.each (writesWithin (sluWq m q) ws d) (kernelWrite m) d) := by
  simp only [loadableTile, h]
  rfl

theorem jobOf_loadableTile {m q : Nat} {d : Dev} {j : Job} (cycles : Nat) (outside : Bool) (ws : List (Nat × List Byte))
    (h : liveJob (sluWq m q).key (fun j => decide (0x40 ≤ j.op) && !(openTiles j).isEmpty) d = some j)
    (hj : jobOf (sluWq m q).key j.id d = some j) : jobOf (sluWq m q).key j.id (loadableTile m q cycles outside ws d) =
      some (kernelTileEnded ((openTiles j).headD 0) cycles (tileStops (sluWq m q) outside ws d) (writesWithin (sluWq m q) ws d) j) := by
  rw [loadableTile_eq cycles outside ws h, jobOf_modJob fun x hx => (kernelTileEnded_id _ _ _ _ x).trans hx,
    jobOf_congr (Dev.each_kept Dev.eng _ (kernelWrite m) (kernelWrite_eng m) _), hj, Option.map_some]

/-- Settles O35. That the CYCLES of OUTER, REQ and POOL are free values (log 35) is the model's choice. -/
theorem sluiceKernels : Obligations.SluiceKernels := by
  refine ⟨?timed, ?free, ?poisoned, ?within, ?outside, fun m j t d => runTile_cycles_mac m t d, fun m j t d => runTile_cycles_free m t d⟩
  case timed =>
    intro s q op j ha hl t o hb c hc u
    have run (n : Nat) (h : op = n) : onDev (Dev.whenApplied (computeTile q.die.val q.q.val n)) s = .next u :=
      (onDev_whenApplied _ s ha).trans (next_setDev s (computeTile_clean (h ▸ hl) hb hc))
    exact ⟨run 1, run 2⟩
  case free =>
    intro s q op j ha hl t o hb hc u
    have run (n : Nat) (h : op = n) : onDev (Dev.whenApplied (computeTile q.die.val q.q.val n)) s = .next u :=
      (onDev_whenApplied _ s ha).trans (next_setDev s (computeTile_cleanFree (h ▸ hl) hb hc))
    exact ⟨run 3, run 4, run 5⟩
  case poisoned =>
    intro s q op j ha hl hb ends
    have run (n : Nat) (h : op = n) : ∃ t : State, onDev (Dev.whenApplied (computeTile q.die.val q.q.val n)) s = .next t ∧
        ∃ k, jobOf (sluWq q.die.val q.q.val).key j.id t.dev = some k ∧ k.errs = j.errs ++ [((openTiles j).headD 0, 4)] ∧
          k.computed = (openTiles j).headD 0 + 1 :=
      ⟨_, onDev_whenApplied _ s ha, computeTile_poisoned (h ▸ hl) hb⟩
    exact ⟨run 1, run 2, run 3, run 4, run 5⟩
  case within =>
    intro s q j cycles ws ha hl hw
    refine (onDev_whenApplied _ s ha).trans (next_setDev s ((loadableTile_eq cycles false ws hl).trans ?_))
    rw [tileStops_within hw, writesWithin_all hw]
    rfl
  case outside =>
    intro s q j cycles outside ws ha hl hj hout
    refine ⟨_, onDev_whenApplied _ s ha, _, jobOf_loadableTile cycles outside ws hl hj, ?_, rfl⟩
    simp only [kernelTileEnded, tileStops_outside hout, if_true]

end Sys2Proof.Machine
end

section
/-! Tiles are dealt and end, and completed descriptors leave their queue in order (O38): R296, R297, R304, R305, R310. -/

namespace Sys2Proof.Machine

/-! ### TILE_DISPATCH (R296, R297) -/

theorem tileDispatch_unable {m e : Nat} {d : Dev} (h : engineUp m e d = false ∨ SMap.has d.eng.running (128 * m + e) = true) :
    tileDispatch m e d = d := if_pos (by simpa using h)

/-- The device after engine `e` has been dealt the next tile of `j`, the first descriptor with tiles left of queue `q`. -/
def tileDealt (m e q prio : Nat) (j : Job) (d : Dev) : Dev :=
  let d := modJob (64 * m + q) j.id (fun j => { j with dealt := j.dealt + 1 }) d
  { d with eng := { d.eng with
      rr := SMap.put d.eng.rr (64 * m + 4 * enginePool m e d + prio) q
      running := SMap.put d.eng.running (128 * m + e) (64 * m + q, j.id, j.dealt) } }

theorem tileDispatch_deals {m e q prio : Nat} {d : Dev} {j : Job} (hu : engineUp m e d = true)
    (hr : SMap.has d.eng.running (128 * m + e) = false) (hn : nextQueue m (enginePool m e d) d = some (q, prio, j)) :
    tileDispatch m e d = tileDealt m e q prio j d := by
  simp only [tileDispatch, hu, hr, hn, Bool.not_true, Bool.or_self, Bool.false_eq_true, if_false, tileDealt]

theorem tileDealt_running (m e q prio : Nat) (j : Job) (d : Dev) :
    SMap.get? (tileDealt m e q prio j d).eng.running (128 * m + e) = some (64 * m + q, j.id, j.dealt) :=
  (SMap.get?_put _ _ _ _).trans (if_pos rfl)

theorem tileDealt_workQ (m e q prio : Nat) (j : Job) (d : Dev) :
    (tileDealt m e q prio j d).workQ (64 * m + q) = { d.workQ (64 * m + q) with
      taken := (d.workQ (64 * m + q)).taken.map fun k => if k.id = j.id then { k with dealt := k.dealt + 1 } else k } :=
  workQ_setWorkQ_same _ _ d

/-! ### The end of a tile and of its descriptor (R297, R305) -/

theorem tileComplete_running {m e key id t : Nat} (poison : Bool) {d : Dev} {j : Job}
    (hr : SMap.get? d.eng.running (128 * m + e) = some (key, id, t)) (hj : jobOf key id d = some j) :
    tileComplete m e poison d = if j.computed ≤ t then d
      else endTile m e (if poison then some 4 else none) (if poison then Dev.each (tileWrites j t) poisonRegion d else d) := by
  simp only [tileComplete, hr, hj]

theorem firstErr_clean {j : Job} (h : j.errs = []) : firstErr j = none := by simp [firstErr, h]

section
variable (m : Nat) {w : Wq} {id : Nat} {d : Dev} {j : Job} (hj : jobOf w.key id d = some j)
include hj

theorem endIfLast_waits (h : j.ended < j.tiles) : endIfLast m w id d = d := by simp only [endIfLast, hj, h, if_true]

/-- The last tile of a descriptor ends it with the STATUS of its first tile that had an error. -/
theorem endIfLast_ends (h : j.tiles ≤ j.ended) {st : Nat} (hst : (firstErr j).getD 0 = st) : endIfLast m w id d =
    if st = 3 then raiseCE w.block 2 w.q (finishJob w (sluCnt m) id st d)
    else if st = 4 then raiseDE w.block 3 w.q (finishJob w (sluCnt m) id st d) j.didx
    else finishJob w (sluCnt m) id st d := by
  simp only [endIfLast, hj, not_lt.2 h, if_false, hst]
end

/-! ### Records in order (R304, R310) -/

/-- A record is due of a descriptor that asks for one or has met an error. -/
theorem record_due {st : Nat} {j : Job} (h : st ≠ 0 ∨ j.crec = true) : (decide (st = 0) && !j.crec) = false := by
  rcases h with h | h <;> simp [h]

section
variable (w : Wq) (record : Job → Nat → Dev → List Byte) {d : Dev} {j : Job} {rest : List Job} (hq : d.workQ w.key = ⟨j :: rest, none⟩)
include hq

theorem complete_live (hs : j.status = none) : complete w record d = d := by simp only [complete, hq, hs]

theorem complete_silent (hs : j.status = some 0) (hc : j.crec = false) :
    complete w record d = endFlush w (d.setWorkQ w.key ⟨rest, none⟩) := by
  simp [complete, hq, hs, hc]

variable {st : Nat} (hs : j.status = some st) (hr : st ≠ 0 ∨ j.crec = true)
include hs hr

theorem complete_disabled (hon : d.ringOn w.cr = false) : complete w record d = d := by
  simp [complete, hq, hs, record_due hr, hon]

theorem complete_full (hon : d.ringOn w.cr = true) (hfull : d.ringFull w.cr = true) : complete w record d = showCr w d := by
  simp [complete, hq, hs, record_due hr, hon, hfull]

theorem complete_written (hon : d.ringOn w.cr = true) (hfull : d.ringFull w.cr = false) : complete w record d =
    showCr w (endFlush w ((resAccess w.key 1 (d.rd64 w.cr.base + 32 * d.get w.cr.head) 32
      (d.ringPush w.cr (record j st d))).setWorkQ w.key ⟨rest, none⟩)) := by
  simp [complete, hq, hs, record_due hr, hon, hfull]
end

theorem sluRecord_length (j : Job) (st : Nat) (d : Dev) : (sluRecord j st d).length = 32 := by
  simp only [sluRecord, List.length_append, leBytes_length, zeros_length]

/-- Settles O38. That a record waits while the completion ring is disabled (log 35) is the model's choice. -/
theorem sluiceEnds : Obligations.SluiceEnds := by
  refine ⟨fun s m e _ h => onDev_whenApplied_same _ s (tileDispatch_unable h), ?dealt, ?tile, ?descriptor, ?record⟩
  case dealt =>
    intro s m e q prio j ha hu hr hn
    exact ⟨_, (onDev_whenApplied _ s ha).trans (next_setDev s (tileDispatch_deals hu hr hn)), tileDealt_running _ _ _ _ _ _,
      tileDealt_workQ _ _ _ _ _ _⟩
  case tile =>
    intro s m e key id t j ha hr hj
    have hrun := tileComplete_running false hr hj
    exact ⟨fun h => onDev_whenApplied_same _ s (hrun.trans (if_pos h)),
      fun h => (onDev_whenApplied _ s ha).trans (next_setDev s (hrun.trans (if_neg (not_le.2 h))))⟩
  case descriptor =>
    intro m w id d j hj
    exact ⟨endIfLast_waits m hj, fun h he => endIfLast_ends m hj h (st := 0) (by rw [firstErr_clean he]; rfl),
      fun h he => endIfLast_ends m hj h (st := 3) (by rw [he]; rfl), fun h he => endIfLast_ends m hj h (st := 4) (by rw [he]; rfl)⟩
  case record =>
    intro s q j rest ha w hq
    have run {e : Dev} (h : complete w sluRecord s.dev = e) : exec (.sluCompletion q) s = .next (s.setDev e) :=
      (onDev_whenApplied _ s ha).trans (next_setDev s h)
    exact ⟨fun hs => run (complete_live w sluRecord hq hs), fun hs hc => run (complete_silent w sluRecord hq hs hc),
      fun st hs hr hon => run (complete_disabled w sluRecord hq hs hr hon),
      fun st hs hr hon hfull => run (complete_full w sluRecord hq hs hr hon hfull),
      fun st hs hr hon hfull => ⟨run (complete_written w sluRecord hq hs hr hon hfull), sluRecord_length j st s.dev⟩⟩

end Sys2Proof.Machine
end

section
/-! What events and register writes leave of the reliability state (R478): the count of boundaries, and whether the event ring has been enabled. -/

namespace Sys2Proof.Machine

/-- The parts of the reliability state that no record written, merged or lost changes. -/
def Ras.unlogged (r : Ras) : Ras := { r with lost := 0, ceLast := [], ceRepeat := [] }

/-- The parts that no event changes. -/
def Ras.lasting (r : Ras) : Ras := { r.unlogged with held := [], eseq := 0, fwdThisTurn := 0 }

theorem Ras.lasting_of_unlogged {r t : Ras} (h : r.unlogged = t.unlogged) : r.lasting = t.lasting :=
  congrArg (fun x : Ras => { x with held := [], eseq := 0, fwdThisTurn := 0 }) h

theorem Ras.everEnabled_of_lasting {r t : Ras} (h : r.lasting = t.lasting) : r.everEnabled = t.everEnabled := (congrArg Ras.everEnabled h :)

theorem Ras.boundaries_of_lasting {r t : Ras} (h : r.lasting = t.lasting) : r.boundaries = t.boundaries := (congrArg Ras.boundaries h :)

theorem ringPush_ras (r : RingRef) (bs : List Byte) (d : Dev) : (d.ringPush r bs).ras = d.ras := rfl

theorem logEvent_unlogged (e : Event) (d : Dev) : (logEvent e d).ras.unlogged = d.ras.unlogged := by
  unfold logEvent; dsimp only
  split
  · rfl
  · split
    · rfl
    · show (eventIrq _).ras.unlogged = d.ras.unlogged
      rw [eventIrq_ras, ringPush_ras]

theorem forwardEvent_lasting (e : Event) (d : Dev) : (forwardEvent e d).ras.lasting = d.ras.lasting := by
  unfold forwardEvent; dsimp only
  split
  · rfl
  · split
    · rfl
    · split
      · show (sendTelemetry _ _ d).ras.lasting = d.ras.lasting
        rw [sendTelemetry_ras]
      · rw [sendTelemetry_ras]

theorem raiseFuel_lasting (n : Nat) (q : EventReq) (d : Dev) : (raiseFuel n q d).ras.lasting = d.ras.lasting := by
  induction n generalizing q d with
  | zero => rfl
  | succ n ih =>
    unfold raiseFuel
    extract_lets e _ d1 d2 _ d3 r
    have hforward : d2.ras.lasting = d.ras.lasting := forwardEvent_lasting e d1
    have hlog : d3.ras.lasting = d2.ras.lasting := by
      unfold d3
      split
      · exact Ras.lasting_of_unlogged (logEvent_unlogged _ _)
      · split <;> rfl
    have hcount : r.1.ras.lasting = d3.ras.lasting := congrArg Ras.lasting (addCtrs_ras _ _)
    have hover := Dev.each_kept (fun d => d.ras.lasting) r.2 (fun c d => raiseFuel n ⟨0, 0x50, 2, c, 0, 0, none⟩ d) (fun c d => ih _ d) r.1
    exact hover.trans (hcount.trans (hlog.trans hforward))

theorem countCsr_lasting (r : ReqId) (a c p : Nat) (d : Dev) : (countCsr r a c p d).ras.lasting = d.ras.lasting :=
  (Dev.each_kept (fun d => d.ras.lasting) _ (fun c d => raiseCE blkGauge 2 c d) (fun _ _ => raiseFuel_lasting _ _ _) _).trans
    (congrArg Ras.lasting (addCtrs_ras _ d))

theorem refuseCsr_lasting (a : Nat) (w : CsrW) (d : Dev) : (refuseCsr a w d).ras.lasting = d.ras.lasting :=
  (raiseFuel_lasting _ _ _).trans (countCsr_lasting w.req a 1 3 d)

theorem writeOwn_lasting (fs : List FieldDef) (a : Nat) (w : CsrW) (d : Dev) : (writeOwn fs a w d).ras.lasting = d.ras.lasting := by
  refine Eq.trans ?_ (countCsr_lasting w.req a 1 3 d)
  unfold writeOwn applyFields
  extract_lets fs' old r d1 wo d2
  have h : d2.ras = (countCsr w.req a 1 3 d).ras := by unfold d2; split <;> rfl
  split
  · exact (raiseFuel_lasting _ _ _).trans (congrArg Ras.lasting h)
  · exact congrArg Ras.lasting h

end Sys2Proof.Machine
end

section
/-! Watchdog, flush, failed engines and the configuration of rings (O39): R305 to R308, R316, R488, R531. -/

namespace Sys2Proof.Machine

/-! ### SLU_WATCHDOG_TIMEOUT (R307) -/

theorem sluWatchdog_stops {m q : Nat} {d : Dev} {j : Job} {rest : List Job} (h : timedOut (sluWq m q) d = j :: rest) :
    sluWatchdog m q d = finishJob (sluWq m q) (sluCnt m) j.id 5 (raiseCE (blkSlu m) 4 q (stopJob m j d) j.didx) := by
  simp only [sluWatchdog, h]
  rfl

theorem sluWatchdog_waits {m q : Nat} {d : Dev} (h : timedOut (sluWq m q) d = []) : sluWatchdog m q d = d := by simp only [sluWatchdog, h]

/-! ### Flush (R308) -/

section
variable {w : Wq} (fs : List FieldDef) (a : Nat) {x : CsrW} {d : Dev} (hx : x.val.toNat % 2 = 1)
include hx

theorem flushWrite_busy (hb : d.on w.busy = true) : flushWrite w fs a x d = refuseCsr a x d := by simp [flushWrite, hx, hb]

/-- The flush begins: TAIL and the boundaries so far are noted. -/
theorem flushWrite_begins (hb : d.on w.busy = false) : flushWrite w fs a x d =
    ((writeOwn fs a x d).setWorkQ w.key { (writeOwn fs a x d).workQ w.key with
      flushTail := some ((writeOwn fs a x d).get w.ring.tail, (writeOwn fs a x d).ras.boundaries) }).set w.busy 1 := by
  simp [flushWrite, hx, hb]
end

theorem sluWq_tail_kept (m q : Nat) (x : CsrW) (d : Dev) :
    (writeOwn RF.SLU_WQ_CTL (R.SLU_WQ_CTL m q) x d).get (R.SLU_WQ_TAIL_TAIL m q) = d.get (R.SLU_WQ_TAIL_TAIL m q) := by
  refine (writeOwn_writes _ _ x d).get _ (fun h : R.SLU_WQ_TAIL m q = R.SLU_WQ_CTL m q => ?_) (not_isEvtReg_of_lt ?_)
  · unfold R.SLU_WQ_TAIL R.SLU_WQ_CTL at h; omega
  · show R.GLB_EVT_CNT < R.SLU_WQ_TAIL m q
    unfold R.GLB_EVT_CNT R.SLU_WQ_TAIL; omega

section
variable {w : Wq} (cnt : Nat → Option Fld) (stop : Job → Dev → Dev) {d : Dev}

theorem flushApply_none (h : (d.workQ w.key).flushTail = none) : flushApply w cnt stop d = d := by simp only [flushApply, h]

theorem flushApply_early {t since : Nat} (h : (d.workQ w.key).flushTail = some (t, since)) (hb : d.ras.boundaries ≤ since) :
    flushApply w cnt stop d = d := by simp only [flushApply, h, hb, if_true]

/-- A flush of a queue with nothing taken and nothing left in its ring. -/
theorem flushApply_empty {since : Nat} (h : d.workQ w.key = ⟨[], some (d.get w.ring.head, since)⟩) (hb : since < d.ras.boundaries) :
    flushApply w cnt stop d = endFlush w ((d.setWorkQ w.key ⟨[], none⟩).set w.flush 0) := by
  have hn : (d.get w.ring.head + d.ringSize w.ring - d.get w.ring.head) % d.ringSize w.ring = 0 := by
    rw [Nat.add_sub_cancel_left, Nat.mod_self]
  simp only [flushApply, h, not_le.2 hb, if_false, hn, List.filter_nil, List.range_zero, Dev.each, List.foldl_nil]
end

/-! ### SLU_ENGINE_FAULT (R305, R306, R488) -/

theorem sluEngineFault_idle {m e : Nat} {d : Dev} (h : SMap.get? d.eng.running (128 * m + e) = none) : sluEngineFault m e d = d := by
  simp only [sluEngineFault, h]

section
variable {m e key id t : Nat} {d : Dev} (h : SMap.get? d.eng.running (128 * m + e) = some (key, id, t))
include h

/-- The engine's tile has been computed, or its descriptor is gone. -/
theorem sluEngineFault_computed (hj : ∀ j, jobOf key id d = some j → t < j.computed) : sluEngineFault m e d =
    endTile m e (some 8) (replaceEngine m e true (raiseDE (blkSlu m) 5 e d)) := by
  simp only [sluEngineFault, h]
  split
  next j hsome => rw [if_neg (not_le.2 (hj j hsome))]
  next => rfl

/-- The engine's tile is under way: each line that it writes is written or not. -/
theorem sluEngineFault_underWay {j : Job} (hj : jobOf key id d = some j) (hc : j.computed ≤ t) : sluEngineFault m e d =
    endTile m e (some 8) (replaceEngine m e true (raiseDE (blkSlu m) 5 e (mixLines (runTile m j t d).dev (tileWrites j t) d))) := by
  simp only [sluEngineFault, h, hj, hc, if_true]
end

/-! ### Ring configuration (R316, R531) -/

section
variable {a : Nat} {w : CsrW} {d : Dev} {r : RingRef} {h : RegHit} (hr : ringOfCfg a d = some (r, none)) (hf : findReg a = some h)
  (hu : d.unitFitted h = true)
include hr hf hu

theorem ringConfig_refused (hx : ringFixed r d = true) (hs : wBits w r.size ≠ d.get r.size) : ringConfig a w d = refuseCsr a w d := by
  simp [ringConfig, hr, hf, hu, hx, hs]

/-- A size written to a ring that is not fixed: both indices restart where it is a new one. -/
theorem ringConfig_taken (hx : ringFixed r d = false) : ringConfig a w d =
    if wBits w r.size ≠ d.get r.size then ((clearStopped h (writeCsr w.req a w.val d)).set r.head 0).set r.tail 0
    else clearStopped h (writeCsr w.req a w.val d) := by
  simp [ringConfig, hr, hf, hu, hx]
end

/-- Settles O39. -/
theorem sluiceControl : Obligations.SluiceControl := by
  refine ⟨?timeout, fun s q _ h => onDev_whenApplied_same _ s (sluWatchdog_waits h), ?flush, ?busy,
    fun s q h => onDev_whenApplied_same _ s (flushApply_none _ _ h), fun s q t since h hb => onDev_whenApplied_same _ s (flushApply_early _ _ h hb),
    ?empty, fun s m e _ h => onDev_whenApplied_same _ s (sluEngineFault_idle h), ?fault, ?ring⟩
  case timeout => exact fun s q j rest ha h => (onDev_whenApplied _ s ha).trans (next_setDev s (sluWatchdog_stops h))
  case flush =>
    intro s q w hrun hfit hb hw
    refine ⟨_, (onDev_onUnit (fun d => d.computeFitted q.die.val) _ w _ s hrun hfit).trans (next_setDev s (flushWrite_begins _ _ hw hb)), ?_, ?_⟩
    · exact Dev.get_set_same _ (R.SLU_WQ_CTL_BUSY q.die.val q.q.val) 1 (show 1 + 1 ≤ 32 by decide)
    · rw [State.setDev_dev, workQ_congr (Dev.set_eng _ _ _), workQ_setWorkQ_same, Ras.boundaries_of_lasting (writeOwn_lasting _ _ w s.dev)]
      exact congrArg (fun t => some (t, s.dev.ras.boundaries)) (sluWq_tail_kept q.die.val q.q.val w s.dev)
  case busy =>
    intro s q w hrun hfit hb hw
    exact (onDev_onUnit (fun d => d.computeFitted q.die.val) _ w _ s hrun hfit).trans (next_setDev s (flushWrite_busy _ _ hw hb))
  case empty =>
    intro s q since ha w h hb _
    exact (onDev_whenApplied _ s ha).trans (next_setDev s (flushApply_empty _ _ h hb))
  case fault =>
    intro s m e key id t ha h
    exact ⟨fun hj => (onDev_whenApplied _ s ha).trans (next_setDev s (sluEngineFault_computed h hj)),
      fun j hj hc => (onDev_whenApplied _ s ha).trans (next_setDev s (sluEngineFault_underWay h hj hc))⟩
  case ring =>
    intro s a w r h hrun hr hf hu
    exact ⟨fun hx hs => (onDev_whenRunning _ s hrun).trans (next_setDev s (congrArg releaseHeld (ringConfig_refused hr hf hu hx hs))),
      fun hx hs => (onDev_whenRunning _ s hrun).trans
        (next_setDev s (congrArg releaseHeld ((ringConfig_taken hr hf hu hx).trans (if_pos hs))))⟩

end Sys2Proof.Machine
end

section
/-! Events held, written, merged or lost, and the ring's first enabling (O56): R476 to R479, R531. -/

namespace Sys2Proof.Machine

/-! ### One event at the ring (R478, R479) -/

/-- The device after event `e` has been merged into the last record of its kind. -/
def eventMerged (e : Event) (d : Dev) : Dev :=
  { d with ras := { d.ras with
      ceRepeat := d.ras.ceRepeat.filter (fun x => x.1 != (e.block, e.code)) ++ [((e.block, e.code), repeatsOf d e + 1)] } }

/-- The device after the record of event `e` has been written. -/
def eventWritten (e : Event) (d : Dev) : Dev :=
  let d' := eventIrq (d.ringPush evtRing (eventRecord leBytes e (repeatsOf d e) d.ras.lost))
  { d' with ras := { d'.ras with
      lost := 0
      ceRepeat := d'.ras.ceRepeat.filter (fun x => x.1 != (e.block, e.code))
      ceLast := if e.cls == 0 then
          d'.ras.ceLast.filter (fun x => x.1 != (e.block, e.code, e.unit)) ++ [((e.block, e.code, e.unit), e.turn)]
        else d'.ras.ceLast } }

section
variable {e : Event} {d : Dev}

theorem logEvent_merges (h : mergesWith d e = true) : logEvent e d = eventMerged e d := if_pos h

variable (h : mergesWith d e = false)
include h

theorem logEvent_drops (hr : d.ringOn evtRing = false ∨ d.ringFull evtRing = true) : logEvent e d = dropEvent d := by
  have hroom : (!d.ringOn evtRing || d.ringFull evtRing) = true := by rcases hr with hr | hr <;> simp [hr]
  simp only [logEvent, h, hroom, Bool.false_eq_true, if_false, if_true]

theorem logEvent_writes (hon : d.ringOn evtRing = true) (hfull : d.ringFull evtRing = false) : logEvent e d = eventWritten e d := by
  simp only [logEvent, h, hon, hfull, Bool.not_true, Bool.or_self, Bool.false_eq_true, if_false, eventWritten]
end

theorem filter_key_of_filter_other {α β : Type} [BEq α] [LawfulBEq α] (l : List (α × β)) (k : α) :
    (l.filter fun x => x.1 != k).filter (fun x => x.1 == k) = [] := by
  rw [List.filter_filter, List.filter_eq_nil_iff]
  intro x _
  simp

theorem repeatsOf_eventMerged (e : Event) (d : Dev) : repeatsOf (eventMerged e d) e = repeatsOf d e + 1 := by
  rw [repeatsOf, eventMerged, List.filter_append, filter_key_of_filter_other]
  simp

theorem eventWritten_ceRepeat (e : Event) (d : Dev) :
    (eventWritten e d).ras.ceRepeat = d.ras.ceRepeat.filter fun x => x.1 != (e.block, e.code) := by
  show (eventIrq (d.ringPush evtRing _)).ras.ceRepeat.filter (fun x => x.1 != (e.block, e.code)) = _
  rw [eventIrq_ras, ringPush_ras]

theorem repeatsOf_eventWritten (e : Event) (d : Dev) : repeatsOf (eventWritten e d) e = 0 := by
  rw [repeatsOf, eventWritten_ceRepeat, filter_key_of_filter_other]
  rfl

theorem eventRecord_length (e : Event) (repeats lost : Nat) : (eventRecord leBytes e repeats lost).length = 32 := by
  simp [eventRecord]

theorem eventIrq_res (d : Dev) : (eventIrq d).res = d.res := by unfold eventIrq; split <;> rfl

theorem eventIrq_csr (d : Dev) : (eventIrq d).csr = d.csr := by unfold eventIrq; split <;> rfl

theorem readMem_res_congr {d e : Dev} (h : e.res = d.res) (a n : Nat) : e.readMem 1 a n = d.readMem 1 a n := by
  simp [Dev.readMem, Dev.readByte, Dev.mem, h]

theorem eventWritten_record (e : Event) (d : Dev) :
    (eventWritten e d).readMem 1 (d.rd64 R.GLB_EVT_BASE + 32 * d.get R.GLB_EVT_HEAD_HEAD) 32 =
      eventRecord leBytes e (repeatsOf d e) d.ras.lost := by
  have hpush := (Dev.ringPush_spec d evtRing (eventRecord leBytes e (repeatsOf d e) d.ras.lost) (by decide)).1
  rw [eventRecord_length] at hpush
  exact (readMem_res_congr (eventIrq_res _) _ _).trans hpush

/-- HEAD's 16 bits hold every index of a ring that is on. -/
theorem eventWritten_head (e : Event) {d : Dev} (hon : d.ringOn evtRing = true) : (eventWritten e d).get R.GLB_EVT_HEAD_HEAD =
    (d.get R.GLB_EVT_HEAD_HEAD + 1) % 2 ^ d.get R.GLB_EVT_CFG_LOG2SIZE := by
  obtain ⟨-, hhead, -⟩ := Dev.ringPush_spec d evtRing (eventRecord leBytes e (repeatsOf d e) d.ras.lost) (by decide)
  have hsize : d.get R.GLB_EVT_CFG_LOG2SIZE ≤ 16 := by
    simp only [Dev.ringOn, Bool.and_eq_true, decide_eq_true_eq] at hon
    exact hon.2
  have hlt : (d.get R.GLB_EVT_HEAD_HEAD + 1) % 2 ^ d.get R.GLB_EVT_CFG_LOG2SIZE < 2 ^ 16 :=
    lt_of_lt_of_le (Nat.mod_lt _ (Nat.two_pow_pos _)) (Nat.pow_le_pow_right (by decide) hsize)
  exact (Dev.get_congr (eventIrq_csr _) R.GLB_EVT_HEAD_HEAD).trans (hhead.trans (Nat.mod_eq_of_lt hlt))

/-! ### The held events (R478) -/

theorem releaseHeld_opened {d : Dev} (h : d.ras.everEnabled = true) : releaseHeld d = d := if_pos (by rw [h, Bool.true_or])

/-- A ring that is on has been enabled, and no event is held any more. -/
theorem releaseHeld_on {d : Dev} (hon : d.ringOn evtRing = true) : (releaseHeld d).ras.everEnabled = true ∧
    (d.ras.everEnabled = false → (releaseHeld d).ras.held = []) ∧ (releaseHeld d).rd R.GLB_EVT_CFG = d.rd R.GLB_EVT_CFG := by
  cases hev : d.ras.everEnabled with
  | true => rw [releaseHeld_opened hev]; exact ⟨hev, fun h => absurd h (by decide), rfl⟩
  | false =>
    have hrelease : releaseHeld d = Dev.each d.ras.held logEvent { d with ras := { d.ras with everEnabled := true, held := [] } } :=
      if_neg (by rw [hev, hon]; decide)
    have hkept := Dev.each_kept (fun d => d.ras.unlogged) d.ras.held logEvent logEvent_unlogged
      { d with ras := { d.ras with everEnabled := true, held := [] } }
    have hquiet := Dev.Quiet.foldl (fun d x => logEvent x d) d.ras.held (fun d x => logEvent_quiet x d)
      { d with ras := { d.ras with everEnabled := true, held := [] } }
    rw [hrelease]
    exact ⟨(congrArg Ras.everEnabled hkept :), fun _ => (congrArg Ras.held hkept :), hquiet.rd _ (by unfold isEvtReg; decide)⟩

/-! ### EVENT_RING_ENABLE (R478, R531) -/

/-- The row of the register table for GLB_EVT_CFG. -/
def evtCfgHit : RegHit := ⟨⟨R.GLB_EVT_CFG, [], .always, RF.GLB_EVT_CFG⟩, [], false⟩

theorem findReg_evtCfg : findReg R.GLB_EVT_CFG = some evtCfgHit := rfl

theorem ringOfCfg_evtCfg (d : Dev) : ringOfCfg R.GLB_EVT_CFG d = some (evtRing, none) := rfl

theorem unitFitted_evtCfg (d : Dev) : d.unitFitted evtCfgHit = true :=
  if_neg (by rw [show (evtCfgHit.reg.base / 2 ^ 24 == blkTest) = false from rfl, Bool.and_false]; decide)

theorem ringFixed_evtRing (d : Dev) : ringFixed evtRing d = d.ringOn evtRing := by
  rw [ringFixed, show (evtRing.lo == 4) = false from rfl, Bool.false_and, Bool.or_false]

/-- The device after a write of GLB_EVT_CFG, its fields alone. -/
def evtCfgWritten (w : CsrW) (d : Dev) : Dev := writeOwn RF.GLB_EVT_CFG R.GLB_EVT_CFG w d

theorem clearStopped_evtCfg (w : CsrW) (d : Dev) :
    clearStopped evtCfgHit (writeCsr w.req R.GLB_EVT_CFG w.val d) = evtCfgWritten w d :=
  (if_neg (by decide)).trans (writeCsr_narrow findReg_evtCfg w.req w.val d (unitFitted_evtCfg d) rfl)

theorem liveFields_sublist (fs : List FieldDef) (d : Dev) : (d.liveFields fs).Sublist fs := by
  unfold Dev.liveFields; split
  · exact .refl fs
  · exact List.filter_sublist

/-- A field that the image does not load is written at every stage. -/
theorem mem_liveFields {fs : List FieldDef} {f : FieldDef} (hf : f ∈ fs) (hi : f.rst ≠ .image) (d : Dev) : f ∈ d.liveFields fs := by
  unfold Dev.liveFields; split
  · exact hf
  · exact List.mem_filter.2 ⟨hf, bne_iff_ne.2 hi⟩

theorem evtCfgWritten_get (w : CsrW) (d : Dev) {f : FieldDef} (hf : f ∈ RF.GLB_EVT_CFG) (hi : f.rst ≠ .image) :
    (evtCfgWritten w d).get ⟨R.GLB_EVT_CFG, f.lo, f.width⟩ = wBits w ⟨R.GLB_EVT_CFG, f.lo, f.width⟩ := by
  have hlegal : ∀ g ∈ RF.GLB_EVT_CFG, g.lo ≤ g.hi ∧ g.acc = .rw ∧ g.lo + g.width ≤ 32 := by decide
  have hapart : RF.GLB_EVT_CFG.Pairwise FieldDef.apart := by simp [RF.GLB_EVT_CFG, FieldDef.apart]
  have hsub := liveFields_sublist RF.GLB_EVT_CFG d
  obtain ⟨-, hacc, hwidth⟩ := hlegal f hf
  exact writeOwn_get_rw RF.GLB_EVT_CFG R.GLB_EVT_CFG w d f (by unfold isEvtReg; decide) (fun g hg => (hlegal g (hsub.subset hg)).1)
    (hapart.sublist hsub) (mem_liveFields hf hi d) hacc hwidth

/-- The device after a write of GLB_EVT_CFG that is taken: a new size restarts both indices. -/
def evtRingSet (w : CsrW) (d : Dev) : Dev :=
  if wBits w R.GLB_EVT_CFG_LOG2SIZE ≠ d.get R.GLB_EVT_CFG_LOG2SIZE then
    ((evtCfgWritten w d).set R.GLB_EVT_HEAD_HEAD 0).set R.GLB_EVT_TAIL_TAIL 0
  else evtCfgWritten w d

theorem ringConfig_evtCfg (w : CsrW) {d : Dev} (hoff : d.ringOn evtRing = false) : ringConfig R.GLB_EVT_CFG w d = evtRingSet w d := by
  rw [ringConfig_taken (ringOfCfg_evtCfg d) findReg_evtCfg (unitFitted_evtCfg d) ((ringFixed_evtRing d).trans hoff), clearStopped_evtCfg]
  rfl

theorem evtRingSet_ras (w : CsrW) (d : Dev) : (evtRingSet w d).ras = (evtCfgWritten w d).ras := by
  unfold evtRingSet; split <;> rfl

theorem evtRingSet_rd_cfg (w : CsrW) (d : Dev) : (evtRingSet w d).rd R.GLB_EVT_CFG = (evtCfgWritten w d).rd R.GLB_EVT_CFG := by
  unfold evtRingSet; split
  · exact (Dev.rd_set_ne _ _ _ _ (by decide)).trans (Dev.rd_set_ne _ _ _ _ (by decide))
  · rfl

theorem evtRingSet_size (w : CsrW) (d : Dev) : (evtRingSet w d).get R.GLB_EVT_CFG_LOG2SIZE = wBits w R.GLB_EVT_CFG_LOG2SIZE :=
  (congrArg (fun x : Word => bitsOf x.toNat 0 5) (evtRingSet_rd_cfg w d)).trans
    (evtCfgWritten_get w d (f := ⟨4, 0, .rw, .val 0⟩) (by decide) (by decide))

theorem evtRingSet_en (w : CsrW) (d : Dev) : (evtRingSet w d).on R.GLB_EVT_CFG_EN = wOn w R.GLB_EVT_CFG_EN :=
  congrArg (· == 1) ((congrArg (fun x : Word => bitsOf x.toNat 8 1) (evtRingSet_rd_cfg w d)).trans
    (evtCfgWritten_get w d (f := ⟨8, 8, .rw, .val 0⟩) (by decide) (by decide)))

/-- Settles O56. -/
theorem eventRing : Obligations.EventRing := by
  refine ⟨?enable, ?resize, ?merged, fun e d h hr => ⟨logEvent_drops h hr, rfl⟩, ?written, ?raised⟩
  case enable =>
    intro s w hrun hoff hon hlo hhi
    have hring : s.dev.ringOn evtRing = false := by rw [Dev.ringOn, show s.dev.on evtRing.en = false from hoff]; rfl
    have hset : (evtRingSet w s.dev).ringOn evtRing = true := by
      have hen : (evtRingSet w s.dev).on evtRing.en = true := (evtRingSet_en w s.dev).trans hon
      have hsize : (evtRingSet w s.dev).get evtRing.size = wBits w R.GLB_EVT_CFG_LOG2SIZE := evtRingSet_size w s.dev
      rw [Dev.ringOn, hen, hsize, Bool.true_and, Bool.and_eq_true, decide_eq_true_eq, decide_eq_true_eq]
      exact ⟨hlo, hhi⟩
    have hever : (evtRingSet w s.dev).ras.everEnabled = s.dev.ras.everEnabled :=
      (congrArg Ras.everEnabled (evtRingSet_ras w s.dev)).trans (Ras.everEnabled_of_lasting (writeOwn_lasting _ _ w s.dev))
    obtain ⟨henabled, hheld, hcfg⟩ := releaseHeld_on hset
    refine ⟨_, (onDev_whenRunning _ s hrun).trans (next_setDev s (congrArg releaseHeld (ringConfig_evtCfg w hring))), henabled, ?_, ?_,
      fun h => hheld (hever.trans h)⟩
    · exact (congrArg (fun x : Word => bitsOf x.toNat 8 1 == 1) hcfg).trans ((evtRingSet_en w s.dev).trans hon)
    · exact (congrArg (fun x : Word => bitsOf x.toNat 0 5) hcfg).trans (evtRingSet_size w s.dev)
  case resize =>
    intro s w hrun hon hev hs
    have hrefused := ringConfig_refused (ringOfCfg_evtCfg s.dev) findReg_evtCfg (unitFitted_evtCfg s.dev) ((ringFixed_evtRing s.dev).trans hon) hs
    have hever : (refuseCsr R.GLB_EVT_CFG w s.dev).ras.everEnabled = true :=
      (Ras.everEnabled_of_lasting (refuseCsr_lasting _ w s.dev)).trans hev
    exact (onDev_whenRunning _ s hrun).trans (next_setDev s ((congrArg releaseHeld hrefused).trans (releaseHeld_opened hever)))
  case merged =>
    intro e d h
    rw [logEvent_merges h]
    exact ⟨rfl, rfl, repeatsOf_eventMerged e d⟩
  case written =>
    intro e d h hon hfull t
    have ht : t = eventWritten e d := logEvent_writes h hon hfull
    rw [ht]
    exact ⟨eventWritten_record e d, eventWritten_head e hon, rfl, repeatsOf_eventWritten e d⟩
  case raised =>
    intro q d
    have hq := raise_quiet q d
    exact ⟨hq.power, hq.links, hq.time, hq.commons, fun a hh hc => hq.rd a (not_or.2 ⟨hh, hc⟩)⟩

end Sys2Proof.Machine
end

section
/-! Coded blocks keep every bit (O41): R358 to R361. -/

namespace Sys2Proof.Machine

/-! ### Bit strings, most significant bit first (R358) -/

@[simp] theorem bitsMsb_length (n v : Nat) : (bitsMsb n v).length = n := by simp [bitsMsb]

theorem bitsMsb_concat (n v : Nat) : bitsMsb (n + 1) v = bitsMsb n (v / 2) ++ [bitAt v 0] := by
  have h : ∀ i ∈ List.range n, bitAt v (n + 1 - 1 - i) = bitAt (v / 2) (n - 1 - i) := by
    intro i hi
    have hi : n + 1 - 1 - i = n - 1 - i + 1 := by have := List.mem_range.mp hi; omega
    rw [bitAt, bitAt, hi, pow_succ', Nat.div_div_eq_div_mul]
  rw [bitsMsb, List.range_succ, List.map_append, List.map_congr_left h]
  simp [bitsMsb]

theorem bitsVal_concat (xs : List Bool) (b : Bool) : bitsVal (xs ++ [b]) = 2 * bitsVal xs + b2n b := by simp [bitsVal]

theorem bitsVal_lt (xs : List Bool) : bitsVal xs < 2 ^ xs.length := by
  induction xs using List.reverseRecOn with
  | nil => decide
  | append_singleton xs b ih =>
    have := b2n_le_one b
    rw [bitsVal_concat, List.length_append, List.length_singleton, pow_succ]
    omega

theorem bitsVal_append (xs ys : List Bool) : bitsVal (xs ++ ys) = bitsVal xs * 2 ^ ys.length + bitsVal ys := by
  induction ys using List.reverseRecOn with
  | nil => simp [bitsVal]
  | append_singleton ys b ih =>
    rw [← List.append_assoc, bitsVal_concat, bitsVal_concat, ih, List.length_append, List.length_singleton, pow_succ]
    ring

/-- The number of the first bits of a string. -/
theorem bitsVal_take (xs : List Bool) (k : Nat) : bitsVal (xs.take k) = bitsVal xs / 2 ^ (xs.length - k) := by
  have hd : bitsVal (xs.drop k) < 2 ^ (xs.length - k) := by simpa using bitsVal_lt (xs.drop k)
  conv_rhs => rw [← List.take_append_drop k xs]
  rw [bitsVal_append, List.take_append_drop, List.length_drop, Nat.add_comm, Nat.add_mul_div_right _ _ (Nat.two_pow_pos _),
    Nat.div_eq_of_lt hd, Nat.zero_add]

theorem bitsVal_bitsMsb (n v : Nat) : bitsVal (bitsMsb n v) = v % 2 ^ n := by
  induction n generalizing v with
  | zero => simp [bitsMsb, bitsVal, Nat.mod_one]
  | succ n ih =>
    have hb : b2n (bitAt v 0) = v % 2 := by
      rcases Nat.mod_two_eq_zero_or_one v with h | h <;> simp [bitAt, b2n, h]
    rw [bitsMsb_concat, bitsVal_concat, ih, hb, pow_succ', Nat.mod_mul]
    omega

theorem bitsMsb_bitsVal (bs : List Bool) : bitsMsb bs.length (bitsVal bs) = bs := by
  induction bs using List.reverseRecOn with
  | nil => rfl
  | append_singleton bs b ih =>
    have hv : (2 * bitsVal bs + b2n b) / 2 = bitsVal bs := by have := b2n_le_one b; omega
    have hb : bitAt (2 * bitsVal bs + b2n b) 0 = b := by cases b <;> simp [bitAt, b2n]
    rw [List.length_append, List.length_singleton, bitsVal_concat, bitsMsb_concat, hv, hb, ih]

/-! ### Bits packed into bytes (R358) -/

theorem bytesBits_length (bs : List Byte) : (bytesBits bs).length = 8 * bs.length := by
  simp [bytesBits, List.length_flatMap, Nat.mul_comm]

theorem bytesBits_byte {bs : List Bool} (h : bs.length = 8) : bitsMsb 8 (BitVec.ofNat 8 (bitsVal bs)).toNat = bs := by
  have hv : bitsVal bs < 2 ^ 8 := h ▸ bitsVal_lt bs
  rw [BitVec.toNat_ofNat, Nat.mod_eq_of_lt hv, ← h, bitsMsb_bitsVal]

/-- The bytes hold the bits, and fewer than eight zeros behind them. -/
theorem bytesBits_packBits (n : Nat) (bs : List Bool) (h : bs.length ≤ 8 * n) :
    ∃ k, k < 8 ∧ bytesBits (packBits n bs) = bs ++ List.replicate k false := by
  induction n generalizing bs with
  | zero => exact ⟨0, by decide, by simp [packBits, bytesBits, List.eq_nil_of_length_eq_zero (Nat.le_zero.mp h)]⟩
  | succ n ih =>
    by_cases he : bs = []
    · exact ⟨0, by decide, by simp [packBits, bytesBits, he]⟩
    · have hpos : 0 < bs.length := List.length_pos_iff.mpr he
      have hp : packBits (n + 1) bs =
          BitVec.ofNat 8 (bitsVal (bs.take 8 ++ List.replicate (8 - (bs.take 8).length) false)) :: packBits n (bs.drop 8) := by
        simp [packBits, he]
      have hb : bytesBits (packBits (n + 1) bs) =
          (bs.take 8 ++ List.replicate (8 - (bs.take 8).length) false) ++ bytesBits (packBits n (bs.drop 8)) := by
        rw [hp, bytesBits, List.flatMap_cons, bytesBits_byte (by simp), ← bytesBits]
      by_cases hs : bs.length ≤ 8
      · refine ⟨8 - bs.length, by omega, ?_⟩
        have hn : packBits n (bs.drop 8) = [] := by
          rw [List.drop_eq_nil_of_le hs]; cases n <;> rfl
        rw [hb, hn, List.take_of_length_le hs, bytesBits, List.flatMap_nil, List.append_nil]
      · obtain ⟨k, hk, hr⟩ := ih (bs.drop 8) (by rw [List.length_drop]; omega)
        refine ⟨k, hk, ?_⟩
        have h8 : 8 - (bs.take 8).length = 0 := by rw [List.length_take]; omega
        rw [hb, hr, h8, List.replicate_zero, List.append_nil, ← List.append_assoc, List.take_append_drop]

/-- Fewer bytes than there is room for hold every bit. -/
theorem length_le_of_packBits_lt (n : Nat) (bs : List Bool) (h : (packBits n bs).length < n) : bs.length ≤ 8 * n := by
  induction n generalizing bs with
  | zero => exact absurd h (Nat.not_lt_zero _)
  | succ n ih =>
    by_cases he : bs = []
    · simp [he]
    · have hp : (packBits (n + 1) bs).length = (packBits n (bs.drop 8)).length + 1 := by simp [packBits, he]
      have := ih (bs.drop 8) (by omega)
      rw [List.length_drop] at this
      omega

/-- Whole bytes are packed without a bit more. -/
theorem bytesBits_packBits_whole {n m : Nat} {bs : List Bool} (h : bs.length = 8 * m) (hn : m ≤ n) :
    bytesBits (packBits n bs) = bs ∧ (packBits n bs).length = m := by
  obtain ⟨k, hk, hb⟩ := bytesBits_packBits n bs (by omega)
  have hl := bytesBits_length (packBits n bs)
  rw [hb, List.length_append, List.length_replicate] at hl
  have hk0 : k = 0 := by omega
  exact ⟨by rw [hb, hk0, List.replicate_zero, List.append_nil], by omega⟩

/-- The parts of equal length that a string is made of. -/
theorem slice_flatMap {α β : Type} (f : α → List β) {b : Nat} (l : List α) (hf : ∀ a ∈ l, (f a).length = b) (i : Nat) (h : i < l.length) :
    slice (l.flatMap f) (b * i) b = f l[i] := by
  induction l generalizing i with
  | nil => exact absurd h (Nat.not_lt_zero _)
  | cons a t ih =>
    obtain ⟨ha, ht⟩ := List.forall_mem_cons.mp hf
    rw [List.flatMap_cons]
    cases i with
    | zero => rw [Nat.mul_zero, slice_append_left _ _ (by omega), slice_self _ ha.le]; rfl
    | succ i =>
      have hi : b * (i + 1) - (f a).length = b * i := by rw [ha, Nat.mul_succ, Nat.add_sub_cancel]
      rw [slice_append_right _ _ (by rw [ha, Nat.mul_succ]; omega), hi, ih ht i (Nat.lt_of_succ_lt_succ h)]
      rfl

/-! ### Codes (R358, R360) -/

section
variable {code : List (Nat × Nat × Nat)} (hfit : ∀ c ∈ code, c.2.2 < 2 ^ c.1)
  (hfree : ∀ c ∈ code, ∀ e ∈ code, c.1 ≤ e.1 → e.2.2 / 2 ^ (e.1 - c.1) = c.2.2 → c = e)
include hfit hfree

/-- At the start of a stream that begins with a code no other code is found. -/
theorem find_code {c : Nat × Nat × Nat} (hc : c ∈ code) (rest : List Bool) :
    code.find? (fun e => decide (e.1 ≤ (bitsMsb c.1 c.2.2 ++ rest).length) && bitsVal ((bitsMsb c.1 c.2.2 ++ rest).take e.1) == e.2.2) =
      some c := by
  have hval : bitsVal (bitsMsb c.1 c.2.2) = c.2.2 := (bitsVal_bitsMsb _ _).trans (Nat.mod_eq_of_lt (hfit c hc))
  have hself : (bitsMsb c.1 c.2.2 ++ rest).take c.1 = bitsMsb c.1 c.2.2 := List.take_left' (bitsMsb_length _ _)
  have honly : ∀ e ∈ code, e.1 ≤ (bitsMsb c.1 c.2.2 ++ rest).length → bitsVal ((bitsMsb c.1 c.2.2 ++ rest).take e.1) = e.2.2 → e = c := by
    intro e he hl hv
    rcases Nat.le_total e.1 c.1 with hle | hle
    · refine hfree e he c hc hle ?_
      rw [← hv, List.take_append_of_le_length (by simpa using hle), bitsVal_take, hval, bitsMsb_length]
    · refine (hfree c hc e he hle ?_).symm
      have ht := bitsVal_take ((bitsMsb c.1 c.2.2 ++ rest).take e.1) c.1
      rw [List.take_take, Nat.min_eq_left hle, hself, hval, hv, List.length_take, Nat.min_eq_left hl] at ht
      exact ht.symm
  obtain ⟨e, he⟩ : ∃ e, code.find? (fun e =>
      decide (e.1 ≤ (bitsMsb c.1 c.2.2 ++ rest).length) && bitsVal ((bitsMsb c.1 c.2.2 ++ rest).take e.1) == e.2.2) = some e :=
    Option.isSome_iff_exists.mp (List.find?_isSome.mpr ⟨c, hc, by simp [hself, hval]⟩)
  have hp := List.find?_some he
  simp only [Bool.and_eq_true, decide_eq_true_eq, beq_iff_eq] at hp
  rw [he, honly e (List.mem_of_find?_eq_some he) hp.1 hp.2]

/-- The codes of values written one behind the other read back as those values. -/
theorem readCodes_codes {look : Nat → Option (Nat × Nat × Nat)} {sym : Nat → Nat} (hl : ∀ v c, look v = some c → c ∈ code ∧ c.2.1 = sym v)
    (els : List Nat) (h : ∀ v ∈ els, (look v).isSome = true) (rest : List Bool) :
    readCodes code els.length (els.flatMap (fun v => match look v with | some c => bitsMsb c.1 c.2.2 | none => []) ++ rest) =
      .ok (els.map sym, rest) := by
  induction els with
  | nil => rfl
  | cons v t ih =>
    obtain ⟨hv, ht⟩ := List.forall_mem_cons.mp h
    obtain ⟨c, hc⟩ := Option.isSome_iff_exists.mp hv
    obtain ⟨hmem, hsym⟩ := hl v c hc
    rw [List.flatMap_cons, hc, List.append_assoc, List.length_cons, readCodes, find_code hfit hfree hmem]
    simp only [List.drop_left' (bitsMsb_length c.1 c.2.2), ih ht, hsym]
    rfl
end

/-! ### Elements (R357, R358) -/

/-- The exponent and the fixed part of a 16-bit element make it up. -/
theorem joinElem_parts {fmt : Nat} (hf : fmt = 2 ∨ fmt = 3) (v : Nat) : joinElem fmt (expOf fmt v) (fixedOf fmt v) = v := by
  rcases hf with rfl | rfl <;> simp [joinElem, expOf, fixedOf] <;> omega

theorem fixedOf_lt {fmt : Nat} (hf : fmt = 2 ∨ fmt = 3) {v : Nat} (hv : v < 2 ^ 16) : fixedOf fmt v < 2 ^ fixedBits fmt := by
  rcases hf with rfl | rfl <;> simp [fixedOf, fixedBits] <;> omega

theorem ofLe_lt (bs : List Byte) : ofLe bs < 256 ^ bs.length := by
  induction bs with
  | nil => decide
  | cons b t ih =>
    have := b.isLt
    rw [ofLe, List.length_cons, pow_succ']
    omega

theorem leBytes_ofLe (bs : List Byte) : leBytes bs.length (ofLe bs) = bs := by
  induction bs with
  | nil => rfl
  | cons b t ih =>
    have hb := b.isLt
    have h1 : (b.toNat + 256 * ofLe t) / 256 = ofLe t := by omega
    have h2 : BitVec.ofNat 8 (b.toNat + 256 * ofLe t) = b := BitVec.eq_of_toNat_eq (by rw [BitVec.toNat_ofNat]; omega)
    rw [List.length_cons, leBytes_succ, ofLe, h1, h2, ih]

theorem slice_length {α : Type} (bs : List α) {off n : Nat} (h : off + n ≤ bs.length) : (slice bs off n).length = n := by
  rw [slice, List.length_take, List.length_drop]; omega

/-- The elements of a raw block, in bytes again. -/
theorem blockElems_bytes {raw : List Byte} (h : raw.length = 4096) : (List.range 2048).flatMap (fun i => leBytes 2 (leAt raw (2 * i) 2)) = raw := by
  have hs : ∀ i ∈ List.range 2048, leBytes 2 (leAt raw (2 * i) 2) = slice raw (2 * i) 2 := by
    intro i hi
    have hl : (slice raw (2 * i) 2).length = 2 := slice_length raw (by have := List.mem_range.mp hi; omega)
    calc leBytes 2 (leAt raw (2 * i) 2) = leBytes (slice raw (2 * i) 2).length (ofLe (slice raw (2 * i) 2)) := by rw [hl, leAt]
      _ = slice raw (2 * i) 2 := leBytes_ofLe _
  rw [List.flatMap_def, List.map_congr_left hs, flatten_slices, List.take_of_length_le (by omega)]

theorem blockElems_lt (raw : List Byte) : ∀ v ∈ blockElems raw, v < 2 ^ 16 := by
  intro v hv
  obtain ⟨i, -, rfl⟩ := List.mem_map.mp hv
  have hl : (slice raw (2 * i) 2).length ≤ 2 := by rw [slice, List.length_take]; exact Nat.min_le_left _ _
  exact (ofLe_lt _).trans_le (Nat.pow_le_pow_right (by decide : 0 < 256) hl)

/-! ### The map entry (R359) -/

section
variable (r : Bool) {clen tid : Nat} (raw : List Byte)

theorem mapEntry_kind (hc : clen < 2 ^ 13) : beBits (mapEntry r clen tid raw) 0 2 15 14 = b2n r := by
  have := b2n_le_one r
  rw [beBits, mapEntry, List.append_assoc, List.append_assoc, beAt_append_left _ _ (by simp), beAt_beBytes_of_lt (by omega), bitsOf]
  omega

theorem mapEntry_clen (hc : clen < 2 ^ 13) : beBits (mapEntry r clen tid raw) 0 2 12 0 = clen := by
  have := b2n_le_one r
  rw [beBits, mapEntry, List.append_assoc, List.append_assoc, beAt_append_left _ _ (by simp), beAt_beBytes_of_lt (by omega), bitsOf]
  omega

theorem mapEntry_tid (ht : tid < 256) : beAt (mapEntry r clen tid raw) 2 1 = tid := by
  rw [mapEntry, List.append_assoc, List.append_assoc, beAt_append_right _ _ (by simp), beAt_append_left _ _ (by simp)]
  simpa using beAt_beBytes_of_lt (n := 1) ht

theorem mapEntry_crc : beAt (mapEntry r clen tid raw) 4 4 = crc32c raw := by
  rw [mapEntry, beAt_append_right _ _ (by simp)]
  simpa using beAt_beBytes_of_lt (n := 4) (crc32c_lt raw)
end

/-! ### A block coded and decoded (R358, R361) -/

/-- The code that a block's element gets. -/
def elemCode (fmt : Nat) (code : List (Nat × Nat × Nat)) (v : Nat) : Option (Nat × Nat × Nat) := code.find? (fun c => c.2.1 == expOf fmt v)

/-- The fixed parts and the codes of a block, as bits. -/
def fixedStream (fmt : Nat) (raw : List Byte) : List Bool := (blockElems raw).flatMap (fun v => bitsMsb (fixedBits fmt) (fixedOf fmt v))
def codeStream (fmt : Nat) (code : List (Nat × Nat × Nat)) (raw : List Byte) : List Bool :=
  (blockElems raw).flatMap (fun v => match elemCode fmt code v with | some c => bitsMsb c.1 c.2.2 | none => [])

/-- A block is coded where each of its elements has a code and both streams fit. -/
theorem codeBlock_eq_some {fmt : Nat} {code : List (Nat × Nat × Nat)} {raw bytes : List Byte} (h : codeBlock fmt code raw = some bytes) :
    (∀ v ∈ blockElems raw, (elemCode fmt code v).isSome = true) ∧
    (packBits 4096 (fixedStream fmt raw)).length + (packBits 4096 (codeStream fmt code raw)).length ≤ 4095 ∧
    bytes = packBits 4096 (fixedStream fmt raw) ++ packBits 4096 (codeStream fmt code raw) := by
  unfold codeBlock at h
  dsimp only at h
  split at h
  · cases h
  · rename_i hany
    split at h
    · rename_i hlen
      refine ⟨fun v hv => ?_, hlen, (Option.some.inj h).symm⟩
      by_contra hn
      exact hany (List.any_eq_true.mpr ⟨v, hv, Option.isNone_iff_eq_none.mpr (Option.not_isSome_iff_eq_none.mp hn)⟩)
    · cases h

theorem blockElems_length (raw : List Byte) : (blockElems raw).length = 2048 := by rw [blockElems, List.length_map, List.length_range]

theorem fixedStream_length {fmt : Nat} (hf : fmt = 2 ∨ fmt = 3) (raw : List Byte) : (fixedStream fmt raw).length = 8 * fixedLen fmt := by
  have h : (fixedStream fmt raw).length = 2048 * fixedBits fmt := by
    simp only [fixedStream, List.length_flatMap, bitsMsb_length, List.map_const', List.sum_replicate, blockElems_length, smul_eq_mul]
  rw [h]; rcases hf with rfl | rfl <;> rfl

theorem fixedLen_le {fmt : Nat} (hf : fmt = 2 ∨ fmt = 3) : fixedLen fmt ≤ 4096 := by rcases hf with rfl | rfl <;> decide

/-- The elements put together from their exponents and the fixed stream are the raw block. -/
theorem join_fixedStream {fmt : Nat} (hf : fmt = 2 ∨ fmt = 3) {raw : List Byte} (hr : raw.length = 4096) :
    (((blockElems raw).map (expOf fmt)).zip (List.range 2048)).flatMap (fun x =>
      leBytes 2 (joinElem fmt x.1 (bitsVal (slice (fixedStream fmt raw) (fixedBits fmt * x.2) (fixedBits fmt))))) = raw := by
  have hz : ((blockElems raw).map (expOf fmt)).zip (List.range 2048) = (List.range 2048).map (fun i => (expOf fmt (leAt raw (2 * i) 2), i)) := by
    rw [blockElems, List.map_map]
    conv_lhs => rw [← List.map_id (List.range 2048), List.map_map, List.zip_map']
    rfl
  have he : ∀ i ∈ List.range 2048, leBytes 2 (joinElem fmt (expOf fmt (leAt raw (2 * i) 2))
      (bitsVal (slice (fixedStream fmt raw) (fixedBits fmt * i) (fixedBits fmt)))) = leBytes 2 (leAt raw (2 * i) 2) := by
    intro i hi
    have hn : i < (blockElems raw).length := by rw [blockElems_length]; exact List.mem_range.mp hi
    have hv : leAt raw (2 * i) 2 < 2 ^ 16 := blockElems_lt raw _ (List.mem_map_of_mem hi)
    have hg : (blockElems raw)[i] = leAt raw (2 * i) 2 := by simp only [blockElems, List.getElem_map, List.getElem_range]
    rw [fixedStream, slice_flatMap _ _ (fun _ _ => bitsMsb_length _ _) i hn, hg, bitsVal_bitsMsb, Nat.mod_eq_of_lt (fixedOf_lt hf hv),
      joinElem_parts hf]
  rw [hz, List.flatMap_map, List.flatMap_def, List.map_congr_left he, ← List.flatMap_def, blockElems_bytes hr]

/-- What a slot that holds a coded block decodes to: the fixed stream, the codes read, and the zeros behind them. -/
theorem decodeBlock_coded {fmt tid : Nat} {table raw fs cs rest : List Byte} {pad : List Bool} {es : List Nat} (ht : tid < 256)
    (htab : beAt table 5 1 = tid) (hfs : fs.length = fixedLen fmt) (hlen : fs.length + cs.length ≤ 4095)
    (hread : readCodes (canonical (tableLens table)) 2048 (bytesBits cs) = .ok (es, pad)) (hpad : pad.length < 8) (hz : pad.any id = false)
    (hjoin : (es.zip (List.range 2048)).flatMap (fun x =>
      leBytes 2 (joinElem fmt x.1 (bitsVal (slice (bytesBits fs) (fixedBits fmt * x.2) (fixedBits fmt))))) = raw) :
    decodeBlock fmt table (mapEntry false (fs ++ cs).length tid raw) (fs ++ cs ++ rest) = .ok raw := by
  have hl : (fs ++ cs).length < 2 ^ 13 := by rw [List.length_append]; omega
  have hfixed : slice (fs ++ cs ++ rest) 0 (fixedLen fmt) = fs := by
    rw [List.append_assoc, slice_append_left _ _ (by omega), slice_self _ hfs.le]
  have hstream : slice (fs ++ cs ++ rest) (fixedLen fmt) ((fs ++ cs).length - fixedLen fmt) = cs := by
    rw [List.append_assoc, slice_append_right _ _ hfs.le, hfs, Nat.sub_self, List.length_append, hfs, Nat.add_sub_cancel_left,
      slice_append_left _ _ (by omega), slice_self _ le_rfl]
  unfold decodeBlock
  dsimp only
  rw [mapEntry_kind false raw hl, mapEntry_tid false raw ht, mapEntry_clen false raw hl, mapEntry_crc, htab, hfixed, hstream, hread]
  rw [if_neg (by simp [b2n]), if_neg (by simp [b2n]), if_neg (by rw [List.length_append]; omega)]
  simp only [hz, Bool.or_false, decide_eq_true_eq, Nat.not_le.mpr hpad, if_false, hjoin, if_true]

/-- Settles O41. -/
theorem flumeRoundTrip : Obligations.FlumeRoundTrip := by
  intro fmt tid table raw rest hf ht htab hr code hcode hfree
  refine ⟨fun bytes hb => ?coded, ?stored⟩
  case coded =>
    obtain ⟨hlook, hlen, hbytes⟩ := codeBlock_eq_some hb
    obtain ⟨hfs, hfl⟩ := bytesBits_packBits_whole (fixedStream_length hf raw) (fixedLen_le hf)
    obtain ⟨k, hk, hcs⟩ := bytesBits_packBits 4096 (codeStream fmt code raw)
      (length_le_of_packBits_lt _ _ (by omega))
    have hread := readCodes_codes (look := elemCode fmt code) (sym := expOf fmt) (fun c hc => (hcode c hc).2.2) hfree
      (fun v c hc => ⟨List.mem_of_find?_eq_some hc, by simpa using List.find?_some hc⟩) (blockElems raw) hlook (List.replicate k false)
    rw [blockElems_length] at hread
    rw [hbytes]
    refine decodeBlock_coded ht htab hfl hlen (hcs ▸ hread) (by simpa using hk) (by simp) ?_
    rw [hfs]
    exact join_fixedStream hf hr
  case stored =>
    unfold decodeBlock
    dsimp only
    rw [mapEntry_kind true raw (by decide), mapEntry_tid true raw ht, mapEntry_clen true raw (by decide), mapEntry_crc, htab]
    simp [b2n]

end Sys2Proof.Machine
end

section
/-! Combining in the tally (O44): R377, R382. -/

namespace Sys2Proof.Machine

/-- A MAX request of the 8-byte ATYPE 0 whose operand is 2^40. -/
def wideMax : TallyPkt := ⟨0, 0, 0, 0, 0, 0, 0, 0, [0x40] ++ zeros 15 ++ beBytes 8 (2 ^ 40) ++ zeros 8⟩

/-- Refutes O44: the statement lets an entry hold requests of another ATYPE than its own. Two MAX requests of 2^40 in an entry of the 4-byte
ATYPE 2 leave the line at 0, so the second of them, taken alone, finds 0; the merge gives it the maximum of 2^40 that the first one's operand has. -/
theorem not_combiningIsSequential : ¬ Obligations.CombiningIsSequential := by
  intro h
  have hc := (h ⟨4, 2, 0, [wideMax, wideMax]⟩ (zeros 4) (Or.inr rfl) (by decide) (by decide)).2
  exact absurd hc (by decide)

end Sys2Proof.Machine
end

section
/-! Tally requests at intake, and what becomes of lines, answers and lost regions (O42, O43): R376 to R384. -/

namespace Sys2Proof.Machine

/-! ### Intake (R378, R379) -/

/-- A request counted leaves the windows. -/
theorem tallyLine_counted (j : JobIdx) (n : Nat) (d : Dev) :
    tallyLine j.val n ((d.incr R.TALLY_STAT_PEND).incr (R.TALLY_JUSE_PEND j.val)) = tallyLine j.val n d := by
  have hj := j.isLt
  have hw : jwin j.val ((d.incr R.TALLY_STAT_PEND).incr (R.TALLY_JUSE_PEND j.val)) = jwin j.val d := by
    have h : ∀ a, 0x31010000 ≤ a → a < 0x31018000 → ((d.incr R.TALLY_STAT_PEND).incr (R.TALLY_JUSE_PEND j.val)).rd a = d.rd a := by
      intro a hlo hhi
      rw [Dev.incr_eq, Dev.incr_eq, Dev.rd_set_ne _ _ _ _ (by simp only [R.TALLY_JUSE_PEND, R.TALLY_JUSE]; omega),
        Dev.rd_set_ne _ _ _ _ (by simp only [R.TALLY_STAT_PEND, R.TALLY_STAT]; omega)]
    rw [jwin, jwin, Dev.rd64, Dev.rd64, h _ (by unfold R.TALLY_JWIN; omega) (by unfold R.TALLY_JWIN; omega),
      h _ (by unfold R.TALLY_JWIN; omega) (by unfold R.TALLY_JWIN; omega)]
  rw [tallyLine, tallyLine, jwinBase, jwinBase, hw]

section
variable {op : Nat} {p : Pkt} {rest : List Pkt} {d : Dev} (hq : d.cist.toTally = p :: rest) (hw : p.whole = true)
  (ho : opcIs op (ofpPayload p.bytes) = true) (hb : (d.cist.built.filter (fun b => decide (16 ≤ b.engine))).length < 8192)
include hq hw ho hb

/-- The request at the front is taken and checked. -/
theorem tallyTake_front : tallyTake op d =
    (let e := consumePkt p { d with cist := { d.cist with toTally := rest } }
     let r := tallyPkt p
     match intakeCheck r e with
     | some x => tallyRefuse x.1 x.2 r e
     | none => combine (tallyLine r.jidx.val (tLine r.payload) e) r ((e.incr R.TALLY_STAT_PEND).incr (R.TALLY_JUSE_PEND r.jidx.val))) := by
  have hg : (!p.whole || !opcIs op (ofpPayload p.bytes) || decide (8192 ≤ (d.cist.built.filter (fun b => decide (16 ≤ b.engine))).length)) = false := by
    simp [hw, ho, hb]
  unfold tallyTake
  rw [hq]
  dsimp only
  rw [if_neg (by rw [hg]; exact Bool.false_ne_true)]
  cases intakeCheck (tallyPkt p) (consumePkt p { d with cist := { d.cist with toTally := rest } }) with
  | some x => rfl
  | none => exact congrArg (combine · _ _) (tallyLine_counted _ _ _)
end

theorem intakeCheck_malformed {r : TallyPkt} {d : Dev} (h : requestOk r.payload = false) : intakeCheck r d = some (6, 3) := by
  simp [intakeCheck, h]

theorem intakeCheck_hops {r : TallyPkt} {d : Dev} (h : requestOk r.payload = true) (hh : d.get R.TALLY_CFG_MAXHOPS < r.hops) :
    intakeCheck r d = some (8, 5) := by
  simp [intakeCheck, h, hh]

/-- A request that passes has passed each check. -/
theorem intakeCheck_passed {r : TallyPkt} {d : Dev} (h : intakeCheck r d = none) :
    jwinValid r.jidx.val d = true ∧ tLine r.payload < 1024 * jwinSize r.jidx.val d ∧ r.hops ≤ d.get R.TALLY_CFG_MAXHOPS ∧
      regionLost (tallyLine r.jidx.val (tLine r.payload) d / 64) d = false ∧
      linePending (tallyLine r.jidx.val (tLine r.payload) d) d < 4096 ∧ d.get R.TALLY_STAT_PEND < 524288 := by
  unfold intakeCheck at h
  dsimp only at h
  split_ifs at h with hok hhops hwin hlost hquota hline hpend
  simp only [Bool.or_eq_true, Bool.not_eq_true', decide_eq_true_eq, not_or, Bool.not_eq_false, Nat.not_le] at hwin
  exact ⟨hwin.1, hwin.2, Nat.not_lt.mp hhops, Bool.eq_false_iff.mpr hlost, Nat.not_le.mp hline, Nat.not_le.mp hpend⟩

/-- The first request of a line is an entry of its own (R382). -/
theorem combine_first {n : Nat} {r : TallyPkt} {d : Dev} (h : SMap.getD d.tally.q n [] = []) :
    combine n r d = setTallyQ n [⟨tOpc r.payload, tAtype r.payload, tOffset r.payload, [r]⟩] d := by
  simp [combine, h]

theorem setTallyQ_q (n : Nat) (l : List TallyEntry) (d : Dev) : SMap.getD (setTallyQ n l d).tally.q n [] = l := by simp [setTallyQ]

/-- Settles O42. -/
theorem tallyIntake : Obligations.TallyIntake := by
  refine ⟨?takes, fun r d => intakeCheck_malformed, fun r d => intakeCheck_hops, fun r d => intakeCheck_passed, ?joins⟩
  case takes =>
    intro s p rest op ha hq hw ho hb d r u
    have ht : tallyTake op s.dev = u := tallyTake_front hq hw ho hb
    refine ⟨?_, ?_, ?_, ?_, ?_⟩ <;> rintro rfl <;> exact (onDev_whenApplied _ s ha).trans (next_setDev s ht)
  case joins =>
    intro d n r h
    rw [combine_first h, setTallyQ_q]

/-! ### Lines (R377, R382, R383) -/

theorem Dev.writeMem_tally (d : Dev) (sp a : Nat) (bs : List Byte) : (d.writeMem sp a bs).tally = d.tally := by
  unfold Dev.writeMem Dev.setMem; split <;> rfl

theorem arith_tally (cs : List Nat) (d : Dev) : (arith cs d).tally = d.tally :=
  Dev.each_kept Dev.tally cs (fun r d => d.bump (R.BASIN_ARITH_CNT_COUNT r)) (fun _ _ => rfl) d

section
variable {n : Nat} {e : TallyEntry} {rest : List TallyEntry} {d : Dev} (hq : SMap.getD d.tally.q n [] = e :: rest)
include hq

/-- A line that is absent is read, and counted. -/
theorem tallyLineFill_reads (hc : d.tally.cached.contains n = false) (hp : d.poisoned 1 (lineAddr n d) 64 = false) :
    tallyLineFill n d = tallyFetch n (let d := d.bump (R.TALLY_CNT_COUNT 9)
      { d with tally := { d.tally with cached := d.tally.cached ++ [n] } }) := by
  have hb : (d.bump (R.TALLY_CNT_COUNT 9)).poisoned 1 (lineAddr n (d.bump (R.TALLY_CNT_COUNT 9))) 64 = false := hp
  simp only [tallyLineFill, hq, hc, hb, List.head?_cons, Bool.false_eq_true, if_false]

theorem tallyLineFill_loses {r : TallyPkt} (hr : e.reqs.head? = some r) (hc : d.tally.cached.contains n = false)
    (hp : d.poisoned 1 (lineAddr n d) 64 = true) :
    tallyLineFill n d = tallyFetch n (loseRegion n r (d.bump (R.TALLY_CNT_COUNT 9))) := by
  have hb : (d.bump (R.TALLY_CNT_COUNT 9)).poisoned 1 (lineAddr n (d.bump (R.TALLY_CNT_COUNT 9))) 64 = true := hp
  simp only [tallyLineFill, hq, hc, hb, hr, List.head?_cons, Bool.false_eq_true, if_false, if_true]

theorem tallyEntryApply_loses {r : TallyPkt} (hr : e.reqs.head? = some r) (hc : d.tally.cached.contains n = true)
    (hp : d.poisoned 1 (lineAddr n d) 64 = true) : tallyEntryApply n d = tallyAccess n e.opc (loseRegion n r d) := by
  simp only [tallyEntryApply, hq, hc, hp, hr, Bool.not_true, Bool.false_eq_true, if_false, if_true]

/-- The first entry of a line that is present takes effect on its 64 bytes. -/
theorem tallyEntryApply_applies (hc : d.tally.cached.contains n = true) (hp : d.poisoned 1 (lineAddr n d) 64 = false) :
    tallyEntryApply n d =
      (let o := applyEntry e (d.readMem 1 (lineAddr n d) 64)
       tallyAccess n e.opc (setTallyQ n rest (setTallyAns n
         (SMap.getD d.tally.ans n [] ++ o.2.1) (arith o.2.2 (d.writeMem 1 (lineAddr n d) o.1))))) := by
  have ht (cs : List Nat) (bs : List Byte) : (arith cs (d.writeMem 1 (lineAddr n d) bs)).tally = d.tally :=
    (arith_tally cs _).trans (Dev.writeMem_tally d 1 _ bs)
  simp only [tallyEntryApply, hq, hc, hp, ht, Bool.not_true, Bool.false_eq_true, if_false]
end

theorem tallyLineFill_idle {n : Nat} {d : Dev} (hq : SMap.getD d.tally.q n [] = []) : tallyLineFill n d = d := by simp [tallyLineFill, hq]

theorem tallyEntryApply_idle {n : Nat} {d : Dev} (hq : SMap.getD d.tally.q n [] = []) : tallyEntryApply n d = d := by simp [tallyEntryApply, hq]

/-- The oldest answer of a line becomes a response while none of its engine waits (R376). -/
theorem tallyResponseBuild_builds {n : Nat} {a : TallyAns} {rest : List TallyAns} {d : Dev} (hq : SMap.getD d.tally.ans n [] = a :: rest)
    (hb : d.cist.built.any (fun b => b.engine == 16 + tallyEngine n) = false) :
    tallyResponseBuild n d = setTallyAns n rest (respond (16 + tallyEngine n) a 0
      (((d.drop R.TALLY_STAT_PEND).drop (R.TALLY_JUSE_PEND a.req.jidx.val)).bump (R.TALLY_CNT_COUNT (if a.status = 0 then 0 else 5)))) := by
  simp only [tallyResponseBuild, hq, hb, Bool.false_eq_true, if_false]

/-! ### Lost regions (R384) -/

theorem lost_ne_clr (k : Nat) : R.TALLY_LOST_CLR ≠ R.TALLY_LOST k ∧ R.TALLY_LOST_CLR ≠ R.TALLY_LOST k + 4 := by
  unfold R.TALLY_LOST R.TALLY_LOST_CLR; omega

/-- GO ends at 0 and the entry that it names is free. -/
theorem tallyRegionRelease_frees {w : CsrW} {d : Dev} (hg : wOn w R.TALLY_LOST_CLR_GO = true)
    (hv : bitAt (d.rd64 (R.TALLY_LOST (wBits w R.TALLY_LOST_CLR_IDX))) 63 = false ∨
      windowCovers (bitsOf (d.rd64 (R.TALLY_LOST (wBits w R.TALLY_LOST_CLR_IDX))) 0 27) d = false) :
    (tallyRegionRelease w d).get R.TALLY_LOST_CLR_GO = 0 ∧
      (tallyRegionRelease w d).rd64 (R.TALLY_LOST (wBits w R.TALLY_LOST_CLR_IDX)) = 0 := by
  obtain ⟨e, he⟩ : ∃ e : Dev, tallyRegionRelease w d =
      (e.set R.TALLY_LOST_CLR_GO 0).wr64 (R.TALLY_LOST (wBits w R.TALLY_LOST_CLR_IDX)) 0 := by
    have hno : (wOn w R.TALLY_LOST_CLR_GO && bitAt (d.rd64 (R.TALLY_LOST (wBits w R.TALLY_LOST_CLR_IDX))) 63 &&
        windowCovers (bitsOf (d.rd64 (R.TALLY_LOST (wBits w R.TALLY_LOST_CLR_IDX))) 0 27) d) = false := by
      rcases hv with h | h <;> simp only [h, Bool.and_false, Bool.false_and]
    unfold tallyRegionRelease
    dsimp only
    rw [hno, hg]
    exact ⟨_, rfl⟩
  obtain ⟨h0, h4⟩ := lost_ne_clr (wBits w R.TALLY_LOST_CLR_IDX)
  rw [he, Dev.rd64_wr64, Dev.wr64_eq, Dev.get_wr_ne _ _ _ _ h4, Dev.get_wr_ne _ _ _ _ h0]
  exact ⟨Dev.get_set_same e R.TALLY_LOST_CLR_GO 0 (by decide), rfl⟩

/-! ### Compare-and-swap (R377) -/

section
variable {e : TallyEntry} {r : TallyPkt} (ho : e.opc = 3) (hr : e.reqs = [r]) (line : List Byte)
include ho hr

theorem applyEntry_swaps (h : leAt line e.offset (atypeBytes e.atype) = tOpnd r.payload) :
    applyEntry e line = (patch line e.offset (leBytes (atypeBytes e.atype) (tSwap r.payload)),
      [⟨r, 0, leAt line e.offset (atypeBytes e.atype), true, []⟩], []) := by
  simp only [applyEntry, ho, hr, List.head?_cons, if_pos h]

theorem applyEntry_differs (h : leAt line e.offset (atypeBytes e.atype) ≠ tOpnd r.payload) :
    applyEntry e line = (line, [⟨r, 0, leAt line e.offset (atypeBytes e.atype), false, []⟩], []) := by
  simp only [applyEntry, ho, hr, List.head?_cons, if_neg h]
end

/-- Settles O43. That a region is lost at the application too (log 31) is the model's choice. -/
theorem tallyLines : Obligations.TallyLines := by
  refine ⟨?reads, ?loses, ?idle, ?applies, ?answers, ?releases, ?swaps⟩
  case reads =>
    intro s n e rest ha hq hc hp
    exact (onDev_whenApplied _ s ha).trans (next_setDev s (tallyLineFill_reads hq hc hp))
  case loses =>
    intro s n e r rest ha hq hr hp
    exact ⟨fun hc => (onDev_whenApplied _ s ha).trans (next_setDev s (tallyLineFill_loses hq hr hc hp)),
      fun hc => (onDev_whenApplied _ s ha).trans (next_setDev s (tallyEntryApply_loses hq hr hc hp))⟩
  case idle =>
    intro s n hq
    exact ⟨onDev_whenApplied_same _ s (tallyLineFill_idle hq), onDev_whenApplied_same _ s (tallyEntryApply_idle hq)⟩
  case applies =>
    intro s n e rest ha hq hc hp a o
    exact (onDev_whenApplied _ s ha).trans (next_setDev s (tallyEntryApply_applies hq hc hp))
  case answers =>
    intro s n a rest ha hq hb
    exact (onDev_whenApplied _ s ha).trans (next_setDev s (tallyResponseBuild_builds hq hb))
  case releases =>
    intro s w hrun hg hv
    exact ⟨_, onDev_whenRunning _ s hrun, tallyRegionRelease_frees hg hv⟩
  case swaps =>
    intro e r line ho hr
    exact ⟨applyEntry_swaps ho hr line, applyEntry_differs ho hr line⟩

end Sys2Proof.Machine
end

section
/-! The step, and what time does to jobs and canals (O1, O46): R392 to R394, R404, R407, R409. -/

namespace Sys2Proof.Machine

/-! ### The step -/

/-- With no command waiting a step lets one tick of the time clock pass (log 2). -/
theorem step_idle (s : State) (h : s.pending = []) : step s = .next { s with dev := tick s.dev } := by
  unfold step; rw [h]

/-- Settles O1. That the idle step is a tick of the clock (log 2) is the model's choice. -/
theorem stepRunsFront : Obligations.StepRunsFront :=
  ⟨fun s c rest => step_cons { s with pending := c :: rest } c rest rfl, fun s => step_idle { s with pending := [] } rfl⟩

/-! ### Overdue drains (R393) -/

section
variable {j n : Nat} {job : BitVec 16} {g : Byte} {d : Dev} (hv : SMap.get? d.jobs.vis.entry j = some (job, g, 2))
  (hn : SMap.get? d.jobs.drainFrom j = some n)
include hv hn

theorem jobDrainOverdue_due (h : n + max 1 (d.get R.FWD_JOB_CFG_DRAINTMO) ≤ d.turn) : jobDrainOverdue j d =
    raise ⟨0, blkFwd, 4, j, d.get (R.FWD_JOB_RESID j), 0, some (job.toNat, g.toNat)⟩
      { d with jobs := { d.jobs with drainFrom := SMap.put d.jobs.drainFrom j (n + max 1 (d.get R.FWD_JOB_CFG_DRAINTMO)) } } := by
  simp only [jobDrainOverdue, hv, hn, true_and, if_pos h]

theorem jobDrainOverdue_early (h : d.turn < n + max 1 (d.get R.FWD_JOB_CFG_DRAINTMO)) : jobDrainOverdue j d = d := by
  simp only [jobDrainOverdue, hv, hn, true_and, if_neg (Nat.not_le.mpr h)]
end

/-! ### Quarantine (R394) -/

theorem SMap.mem_keys_of_get? {α : Type} {m : SMap α} {k : Nat} {v : α} (h : SMap.get? m k = some v) : k ∈ m.map (·.1) := by
  induction m with
  | nil => cases h
  | cons e t ih =>
    rw [SMap.get?_cons] at h
    split at h
    · rename_i he; exact List.mem_map.mpr ⟨e, List.mem_cons_self, he⟩
    · exact List.mem_cons_of_mem _ (ih h)

/-- A boundary finds a quarantined entry ready when its turns have passed and no cell is charged to it. -/
theorem quarReady_contains_iff {d : Dev} {j n : Nat} {job : BitVec 16} {g : Byte} (hv : SMap.get? d.jobs.vis.entry j = some (job, g, 3))
    (hn : SMap.get? d.jobs.quarFrom j = some n) : (quarReady d).contains j = true ↔
      n + max 64 (d.get R.FWD_JOB_CFG_QTURNS) ≤ d.turn ∧ d.get (R.CIST_JUSE_CELLS j) = 0 := by
  rw [List.contains_iff_mem, quarReady, List.mem_filter, hv, hn]
  simp [SMap.mem_keys_of_get? hv]

theorem jobBoundary_quarDone (d : Dev) :
    (jobBoundary d).jobs.quarDone = quarReady (jobIntake (drainChecks (jobsVisible (finishJobBatch d)))) := by
  unfold jobBoundary
  generalize jobIntake (drainChecks (jobsVisible (finishJobBatch d))) = e
  rfl

/-- A FREE entry is shown with STATE 0. -/
theorem showJob_state_free {j : Nat} {d : Dev} (h : SMap.get? d.jobs.vis.entry j = none) : (showJob j d).get (R.FWD_JOB_STATE j) = 0 := by
  simp only [showJob, h]
  rw [Dev.get_set_apart _ (R.FWD_JOB_RESID j) (R.FWD_JOB_STATE j) 0 (show 26 + 6 ≤ 32 by decide) (Or.inr (show 24 + 2 ≤ 26 by decide))]
  exact Dev.get_set_same d (R.FWD_JOB_STATE j) 0 (show 24 + 2 ≤ 32 by decide)

theorem showJob_jobs (j : Nat) (d : Dev) : (showJob j d).jobs = d.jobs := by
  unfold showJob
  split
  · dsimp only
    split
    · rw [Dev.set_jobs, Dev.set_jobs, Dev.set_jobs]
    · rw [Dev.set_jobs, Dev.set_jobs, Dev.set_jobs, Dev.set_jobs]
  · rw [Dev.set_jobs, Dev.set_jobs]

section
variable {j : Nat} {job : BitVec 16} {g : Byte} {d : Dev} (hv : SMap.get? d.jobs.vis.entry j = some (job, g, 3))
include hv

/-- The entry of a finished quarantine is FREE, and the map entry of its JOB cleared. -/
theorem jobQuarantineEnd_frees (hd : d.jobs.quarDone.contains j = true) :
    SMap.get? (jobQuarantineEnd j d).jobs.vis.entry j = none ∧
      (SMap.getD (jobQuarantineEnd j d).jobs.vis.map job.toNat (none, none)).1 = none ∧
      (jobQuarantineEnd j d).get (R.FWD_JOB_STATE j) = 0 := by
  obtain ⟨e, he, hentry, hmap⟩ : ∃ e : Dev, jobQuarantineEnd j d = showJob j e ∧ SMap.get? e.jobs.vis.entry j = none ∧
      (SMap.getD e.jobs.vis.map job.toNat (none, none)).1 = none := by
    simp only [jobQuarantineEnd, hv, hd, true_and, if_true]
    exact ⟨_, rfl, by rw [SMap.get?_del, if_pos rfl], by rw [SMap.getD_put, if_pos rfl]⟩
  rw [he, showJob_jobs]
  exact ⟨hentry, hmap, showJob_state_free hentry⟩

theorem jobQuarantineEnd_waits (hd : d.jobs.quarDone.contains j = false) : jobQuarantineEnd j d = d := by
  simp only [jobQuarantineEnd, hv, hd, Bool.false_eq_true, and_false, if_false]
end

/-! ### Canals (R404) -/

section
variable {i : Nat} {c : CanalEntry} {d : Dev} (hc : SMap.get? d.jobs.canal i = some c)
include hc

/-- An entry visited CTMO turns after its last replication is STALLED. -/
theorem canalStall_marks (hvisit : d.turn % 16 = i / 256) (hdone : c.done = false) (hst : c.stalled = false) (ht : cCtmo c.bytes ≠ 0)
    (h : c.last + cCtmo c.bytes ≤ d.turn) :
    SMap.get? (canalStall i d).jobs.canal i = some { c with stalled := true } := by
  have hcond : d.turn % 16 = i / 256 ∧ !c.done ∧ !c.stalled ∧ cCtmo c.bytes ≠ 0 ∧ c.last + cCtmo c.bytes ≤ d.turn :=
    ⟨hvisit, by rw [hdone]; rfl, by rw [hst]; rfl, ht, h⟩
  simp only [canalStall, hc, if_pos hcond]
  rw [(raise_quiet _ _).jobs, Dev.bump_eq, Dev.set_jobs]
  exact (SMap.get?_put _ _ _ _).trans (if_pos rfl)

theorem canalStall_waits (h : d.turn < c.last + cCtmo c.bytes) : canalStall i d = d := by
  simp only [canalStall, hc]
  exact if_neg fun hcond => absurd hcond.2.2.2.2 (Nat.not_le.mpr h)
end

/-- Settles O46. -/
theorem jobTimers : Obligations.JobTimers := by
  refine ⟨?overdue, fun d j job g n => quarReady_contains_iff, jobBoundary_quarDone, ?quarantine, ?canal⟩
  case overdue =>
    intro s j job g n ha hv hn tmo
    exact ⟨fun h => (onDev_whenApplied _ s ha).trans (next_setDev s (jobDrainOverdue_due hv hn h)),
      fun h => onDev_whenApplied_same _ s (jobDrainOverdue_early hv hn h)⟩
  case quarantine =>
    intro s j job g ha hv
    exact ⟨fun hd => ⟨_, onDev_whenApplied _ s ha, jobQuarantineEnd_frees hv hd⟩,
      fun hd => onDev_whenApplied_same _ s (jobQuarantineEnd_waits hv hd)⟩
  case canal =>
    intro s i c ha hc hvisit hdone hst ht
    exact ⟨fun h => ⟨_, onDev_whenApplied _ s ha, canalStall_marks hc hvisit hdone hst ht h⟩,
      fun h => onDev_whenApplied_same _ s (canalStall_waits hc h)⟩

end Sys2Proof.Machine
end

section
/-! Links of the haul block and their shares, and the order of delivery (O48): R333, R339, R348. -/

namespace Sys2Proof.Machine

/-! ### A link and its shares after a change -/

/-- What a link reads as depends on the haul part alone. -/
theorem Dev.hl_congr {d e : Dev} (h : e.haul = d.haul) (k : Nat) : e.hl k = d.hl k := by rw [Dev.hl, Dev.hl, h]

theorem Dev.hl_modHl_same (d : Dev) (k : Nat) (f : HLink → HLink) : (d.modHl k f).hl k = f (d.hl k) :=
  (SMap.getD_put _ _ _ _ _).trans (if_pos rfl)

theorem HLink.share_modShare_same (l : HLink) (n : Fin 2) (f : Share → Share) : (l.modShare n f).share n = f (l.share n) := by
  unfold HLink.modShare HLink.share
  split <;> rfl

theorem HLink.share_modShare_ne (l : HLink) {m n : Fin 2} (h : m ≠ n) (f : Share → Share) : (l.modShare n f).share m = l.share m := by
  unfold HLink.modShare HLink.share
  split_ifs with hm hn hn
  · exact absurd (hm.trans hn.symm) h
  · rfl
  · rfl
  · omega

/-! ### What leaves the haul part alone -/

theorem lcnt_haul (k r : Nat) (d : Dev) (n : Nat) : (lcnt k r d n).haul = d.haul := Dev.set_haul _ _ _

theorem showUse_haul (k : Nat) (d : Dev) : (showUse k d).haul = d.haul := (Dev.set_haul _ _ _).trans (Dev.set_haul _ _ _)

theorem haulAccess_haul (k : Nat) (rsq : Bool) (n : Fin 2) (cls len : Nat) (d : Dev) : (haulAccess k rsq n cls len d).haul = d.haul :=
  (countLines_quiet _ _ _ _ _ _ _).haul

/-! ### Frames held are delivered in order (R339) -/

theorem SMap.length_del_lt {α : Type} {m : SMap α} {k : Nat} {v : α} (h : SMap.get? m k = some v) : (SMap.del m k).length < m.length := by
  refine List.length_filter_lt_length_iff_exists.mpr ?_
  obtain ⟨e, he, hk⟩ := List.mem_map.mp (SMap.mem_keys_of_get? h)
  exact ⟨e, he, by simpa using hk⟩

/-- With as many rounds as frames are held, no frame is left at E, and those delivered are the ones held from E on, one behind the other. -/
theorem drainHeld_spec (n : Nat) (s : Share) (hn : s.held.length ≤ n) (he : s.expect < 2 ^ 48) :
    SMap.get? (drainHeld n s).held (drainHeld n s).expect = none ∧
    ∃ fs : List (List Byte), (drainHeld n s).deliver = s.deliver ++ fs ∧ (drainHeld n s).expect = (s.expect + fs.length) % 2 ^ 48 ∧
      ∀ i, i < fs.length → SMap.get? s.held ((s.expect + i) % 2 ^ 48) = fs[i]? := by
  have hstop : (s.expect + ([] : List (List Byte)).length) % 2 ^ 48 = s.expect := Nat.mod_eq_of_lt he
  induction n generalizing s with
  | zero =>
    have hh : s.held = [] := List.eq_nil_of_length_eq_zero (Nat.le_zero.mp hn)
    exact ⟨by rw [drainHeld, hh]; rfl, [], (List.append_nil _).symm, hstop.symm, fun i hi => absurd hi (Nat.not_lt_zero i)⟩
  | succ n ih =>
    unfold drainHeld
    cases hg : SMap.get? s.held s.expect with
    | none => exact ⟨hg, [], (List.append_nil _).symm, hstop.symm, fun i hi => absurd hi (Nat.not_lt_zero i)⟩
    | some f =>
      have hlen := SMap.length_del_lt hg
      have hlt : (s.expect + 1) % 2 ^ 48 < 2 ^ 48 := Nat.mod_lt _ (by decide)
      obtain ⟨hnone, fs, hdel, hexp, hfs⟩ := ih
        { s with held := SMap.del s.held s.expect, deliver := s.deliver ++ [f], expect := (s.expect + 1) % 2 ^ 48 }
        (by dsimp only; omega) hlt (Nat.mod_eq_of_lt hlt)
      refine ⟨hnone, f :: fs, by rw [hdel, List.append_assoc]; rfl, ?_, fun i hi => ?_⟩
      · rw [hexp, List.length_cons, Nat.mod_add_mod, Nat.add_assoc, Nat.add_comm 1]
      · cases i with
        | zero => rw [Nat.add_zero, Nat.mod_eq_of_lt he]; exact hg
        | succ i =>
          have hi : i < fs.length := Nat.lt_of_succ_lt_succ hi
          have hf := hfs i hi
          rw [Nat.mod_add_mod, SMap.get?_del, List.getElem?_eq_getElem hi] at hf
          split at hf
          · cases hf
          · rw [List.getElem?_cons_succ, List.getElem?_eq_getElem hi, ← hf, Nat.add_assoc, Nat.add_comm 1]

/-! ### A data frame by its HSEQ (R339) -/

section
variable {k : Nat} {n : Fin 2} {h : Nat} {inner : List Byte} {d : Dev}

/-- An HSEQ that has passed, or is held already. -/
theorem resequence_again (hs : (h ≠ ((d.hl k).share n).expect ∧ laterH h ((d.hl k).share n).expect = false) ∨
    SMap.has ((d.hl k).share n).held h = true) : resequence k n h inner d = lcnt k 7 d := by
  refine if_pos ?_
  rcases hs with ⟨hne, hl⟩ | hh
  · simp [hne, hl]
  · simp [hh]

theorem resequence_expected (he : h = ((d.hl k).share n).expect) (hh : SMap.has ((d.hl k).share n).held h = false) :
    ((resequence k n h inner d).hl k).share n =
      drainShare { (d.hl k).share n with deliver := ((d.hl k).share n).deliver ++ [inner], expect := (h + 1) % 2 ^ 48 } := by
  simp only [resequence, ← he, hh, bne_self_eq_false, Bool.false_and, Bool.or_false, Bool.false_eq_true, if_false, if_true]
  rw [Dev.hl_congr ((showUse_haul _ _).trans (lcnt_haul _ _ _ _)), Dev.hl_modHl_same]
  exact HLink.share_modShare_same _ _ _

section
variable (hne : h ≠ ((d.hl k).share n).expect) (hl : laterH h ((d.hl k).share n).expect = true)
  (hh : SMap.has ((d.hl k).share n).held h = false)
include hne hl hh

theorem resequence_held (hr : rsqUse ((d.hl k).share n) + inner.length ≤ shareBytes d k (d.get (R.HAUL_LINK_BUF_RSQMIB k)) n) :
    ((resequence k n h inner d).hl k).share n = { (d.hl k).share n with held := SMap.put ((d.hl k).share n).held h inner } := by
  simp only [resequence, hl, hh, hne, hr, Bool.not_true, Bool.and_false, Bool.or_false, Bool.false_eq_true, if_false, if_true]
  rw [Dev.hl_congr ((showUse_haul _ _).trans (lcnt_haul _ _ _ _)), Dev.hl_modHl_same, Dev.hl_congr (haulAccess_haul _ _ _ _ _ _)]
  exact HLink.share_modShare_same _ _ _

theorem resequence_full (hr : shareBytes d k (d.get (R.HAUL_LINK_BUF_RSQMIB k)) n < rsqUse ((d.hl k).share n) + inner.length) :
    resequence k n h inner d = lcnt k 9 d := by
  simp only [resequence, hl, hh, hne, Nat.not_le.mpr hr, Bool.not_true, Bool.and_false, Bool.or_false, Bool.false_eq_true, if_false]
end
end

/-- Settles O48. -/
theorem haulInOrder : Obligations.HaulInOrder :=
  ⟨fun _ _ _ _ _ => resequence_again, fun _ _ _ _ _ => resequence_expected,
    fun _ _ _ _ _ hne hl hh => ⟨resequence_held hne hl hh, resequence_full hne hl hh⟩,
    fun s he => drainHeld_spec s.held.length s le_rfl he⟩

end Sys2Proof.Machine
end

section
/-! Switch and revert, security associations and a disabled link (O50): R326, R345, R349, R350. -/

namespace Sys2Proof.Machine

/-! ### The status register of a link -/

theorem linkStat_quiet (k : Nat) : ¬ isEvtReg (R.HAUL_LINK_STAT k) :=
  not_isEvtReg_of_lt (lt_of_lt_of_le (by decide) (linkStat_ge k))

/-- The round-trip times stand in registers of their own. -/
theorem showRtt_stat (k lo w : Nat) (d : Dev) :
    (showRtt k d).get ⟨R.HAUL_LINK_STAT k, lo, w⟩ = d.get ⟨R.HAUL_LINK_STAT k, lo, w⟩ := by
  have h0 : R.HAUL_LINK_STAT k ≠ R.HAUL_LINK_SRTT0 k := by unfold R.HAUL_LINK_STAT R.HAUL_LINK_SRTT0; omega
  have h1 : R.HAUL_LINK_STAT k ≠ R.HAUL_LINK_SRTT1 k := by unfold R.HAUL_LINK_STAT R.HAUL_LINK_SRTT1; omega
  have h2 : R.HAUL_LINK_STAT k ≠ R.HAUL_LINK_RTO k := by unfold R.HAUL_LINK_STAT R.HAUL_LINK_RTO; omega
  have hrtt (v w' : Nat) (e : Dev) : (((e.set (R.HAUL_LINK_SRTT0_SRTT k) v).set (R.HAUL_LINK_SRTT1_SRTT k) w').get ⟨R.HAUL_LINK_STAT k, lo, w⟩) =
      e.get ⟨R.HAUL_LINK_STAT k, lo, w⟩ := (Dev.get_set_ne _ _ _ _ h1).trans (Dev.get_set_ne _ _ _ _ h0)
  unfold showRtt; dsimp only
  split
  · exact (Dev.get_set_ne _ _ _ _ h2).trans (hrtt _ _ d)
  · exact hrtt _ _ d

theorem homeState_csr (k : Nat) (up : Bool) (d : Dev) : (homeState k up d).csr = d.csr := rfl

/-- A move of the link shows in STATE alone of its status register. -/
theorem setState_stat (k v lo w : Nat) (d : Dev) :
    (setState k v d).get ⟨R.HAUL_LINK_STAT k, lo, w⟩ = (d.set (R.HAUL_LINK_STAT_STATE k) v).get ⟨R.HAUL_LINK_STAT k, lo, w⟩ := by
  unfold setState; dsimp only
  refine (showRtt_stat k lo w _).trans ?_
  split
  · exact Dev.get_congr (homeState_csr _ _ _) _
  · rfl

theorem setState_state (k v : Nat) (d : Dev) : (setState k v d).get (R.HAUL_LINK_STAT_STATE k) = v % 4 :=
  (setState_stat k v 0 2 d).trans (Dev.get_set_same _ _ _ (show 0 + 2 ≤ 32 by decide))

theorem setState_cause (k v : Nat) (d : Dev) : (setState k v d).get (R.HAUL_LINK_STAT_CAUSE k) = d.get (R.HAUL_LINK_STAT_CAUSE k) :=
  (setState_stat k v 5 3 d).trans
    (Dev.get_set_apart _ _ _ _ (show 0 + 2 ≤ 32 by decide) (Or.inl (show 0 + 2 ≤ 5 by decide)))

/-- What a switch leaves in the fields of the status register that stand before FAILOVERS. -/
theorem moveTo_stat (k : Nat) (r : Fin 2) (lo w : Nat) (hw : lo + w ≤ 16) (d : Dev) :
    (moveTo k r d).get ⟨R.HAUL_LINK_STAT k, lo, w⟩ =
      (setState k (r.val + 1) ((closeStripe k d).set (R.HAUL_LINK_STAT_CAUSE k) 7)).get ⟨R.HAUL_LINK_STAT k, lo, w⟩ := by
  unfold moveTo; dsimp only
  refine ((raiseCE_quiet _ _ _ _ _ _).get _ (linkStat_quiet k)).trans ?_
  exact Dev.get_set_apart _ _ _ _ (show 16 + 16 ≤ 32 by decide) (Or.inr hw)

theorem moveTo_cause (k : Nat) (r : Fin 2) (d : Dev) : (moveTo k r d).get (R.HAUL_LINK_STAT_CAUSE k) = 7 :=
  (moveTo_stat k r 5 3 (by decide) d).trans
    ((setState_cause k _ _).trans (Dev.get_set_same _ _ _ (show 5 + 3 ≤ 32 by decide)))

theorem activeRoute_of_state {k : Nat} {d : Dev} (r : Fin 2) (h : d.get (R.HAUL_LINK_STAT_STATE k) = r.val + 1) : activeRoute d k = some r := by
  unfold activeRoute
  generalize d.get (R.HAUL_LINK_STAT_STATE k) = v at h
  subst h
  match r with
  | 0 => rfl
  | 1 => rfl

theorem moveTo_activeRoute (k : Nat) (r : Fin 2) (d : Dev) : activeRoute (moveTo k r d) k = some r :=
  activeRoute_of_state r ((moveTo_stat k r 0 2 (by decide) d).trans
    ((setState_state k _ _).trans (Nat.mod_eq_of_lt (Nat.lt_of_lt_of_le (Nat.succ_lt_succ r.isLt) (by decide)))))

/-! ### What the write of an SA leaves -/

theorem showInuse_rd (p a : Nat) (d : Dev) (h : ∀ an, a ≠ R.HAUL_SA_CTL p 0 an) : (showInuse p d).rd a = d.rd a :=
  Dev.each_kept (fun e => e.rd a) _ _ (fun an _ => Dev.rd_set_ne _ _ _ _ (h an)) d

theorem showInuse_hidden (p : Nat) (d : Dev) : (showInuse p d).hidden = d.hidden :=
  Dev.each_kept (fun e => e.hidden) _ (fun a d => d.set (R.HAUL_SA_CTL_INUSE p 0 a) (b2n (txAn d p == a))) (fun _ _ => rfl) d

/-- The erased words of an SA stay erased. -/
theorem saErased (p dir an : Nat) (d : Dev) (i : Nat) (hi : i < 8) :
    SMap.get? (d.hidden.filter (fun x => !(decide (R.HAUL_SA_KEY p dir an 0 ≤ x.1) && decide (x.1 < R.HAUL_SA_SSCI p dir an))))
      (R.HAUL_SA_KEY p dir an i) = none := by
  by_contra hne
  obtain ⟨v, hv⟩ := Option.ne_none_iff_exists'.mp hne
  obtain ⟨x, hx, hk⟩ := List.mem_map.mp (SMap.mem_keys_of_get? hv)
  have hout := (List.mem_filter.mp hx).2
  have hlo : R.HAUL_SA_KEY p dir an 0 ≤ x.1 := by rw [hk]; unfold R.HAUL_SA_KEY; omega
  have hhi : x.1 < R.HAUL_SA_SSCI p dir an := by rw [hk]; unfold R.HAUL_SA_KEY R.HAUL_SA_SSCI; omega
  simp [hlo, hhi] at hout

/-- Without a route on the port, clearing VALID of an SA erases its key. -/
theorem saValidWrite_erases (p dir an : Nat) (w : CsrW) (d : Dev) (hr : routesOn d p = []) (hv : wOn w (R.HAUL_SA_CTL_VALID p dir an) = false)
    (i : Nat) (hi : i < 8) : SMap.get? (saValidWrite p dir an w d).hidden (R.HAUL_SA_KEY p dir an i) = none := by
  have hctl (a an' : Nat) (ha : a % 64 < 8) : a ≠ R.HAUL_SA_CTL p dir an' ∧ a ≠ R.HAUL_SA_CTL p 0 an' := by
    unfold R.HAUL_SA_CTL; omega
  unfold saValidWrite
  extract_lets e1 e' e2
  have hmid (a : Nat) (ha : a ≠ R.HAUL_SA_CTL p dir an) : e'.rd a = e1.rd a := by
    unfold e'
    split
    · exact Dev.rd_set_ne _ _ _ _ ha
    · rfl
  have hleft : SMap.get? e2.hidden (R.HAUL_SA_KEY p dir an i) = none ∧ ∀ a, a ≠ R.HAUL_SA_CTL p dir an → e2.rd a = e1.rd a := by
    unfold e2
    rw [if_neg (Bool.eq_false_iff.mp hv)]
    exact ⟨saErased p dir an e' i hi, hmid⟩
  have hrd (a : Nat) (ha : a % 64 < 8) (he : ¬ isEvtReg a) : (showInuse p e2).rd a = d.rd a :=
    (showInuse_rd p a e2 (fun an' => (hctl a an' ha).2)).trans ((hleft.2 a (hctl a an ha).1).trans
      ((writeOwn_writes RF.HAUL_SA_CTL (R.HAUL_SA_CTL p dir an) w d).rd a (hctl a an ha).1 he))
  have hroutes : routesOn (showInuse p e2) p = [] := by
    refine (routesOn_congr (fun k => hrd _ ?_ ?_) (fun k => hrd _ ?_ ?_) p).trans hr
    · unfold R.HAUL_LINK_CFG; omega
    · exact not_isEvtReg_of_lt (lt_of_lt_of_le (b := 0x32001000) (by decide) (Nat.le_add_right _ _))
    · unfold R.HAUL_LINK_PORTS; omega
    · exact not_isEvtReg_of_lt (lt_of_lt_of_le (b := 0x32001004) (by decide) (Nat.le_add_right _ _))
  rw [haulPortChange, hroutes]
  exact (congrArg (fun m => SMap.get? m _) (showInuse_hidden p e2)).trans hleft.1

/-! ### A link that is disabled -/

theorem discardLink_buffers (l : HLink) :
    (discardLink l).share0.rtx = [] ∧ (discardLink l).share1.held = [] ∧ (discardLink l).parityQ = [] := ⟨rfl, rfl, rfl⟩

theorem loseInput_haul (n : Nat) (d : Dev) : (loseInput n d).haul = d.haul := rfl

theorem setState_haul (k v : Nat) (d : Dev) : (setState k v d).haul = d.haul := by
  have hshow (e : Dev) : (showRtt k e).haul = e.haul := by unfold showRtt; dsimp only; split <;> rfl
  unfold setState; dsimp only
  refine (hshow _).trans ?_
  split <;> rfl

theorem linkCfg_quiet (k : Nat) : ¬ isEvtReg (R.HAUL_LINK_CFG k) :=
  not_isEvtReg_of_lt (lt_of_lt_of_le (b := 0x32001000) (by decide) (Nat.le_add_right _ _))

/-- EN reads back as it was written. -/
theorem writeOwn_linkOn (k : Nat) (w : CsrW) (d : Dev) (ha : d.applied = true) :
    linkOn (writeOwn RF.HAUL_LINK_CFG (R.HAUL_LINK_CFG k) w d) k = wOn w (R.HAUL_LINK_CFG_EN k) := by
  have hl : d.liveFields RF.HAUL_LINK_CFG = RF.HAUL_LINK_CFG := by rw [Dev.liveFields, if_pos ha]
  have hget : (writeOwn RF.HAUL_LINK_CFG (R.HAUL_LINK_CFG k) w d).get (R.HAUL_LINK_CFG_EN k) = wBits w (R.HAUL_LINK_CFG_EN k) := by
    refine writeOwn_get_rw _ _ w d ⟨0, 0, .rw, .image⟩ (linkCfg_quiet k) ?_ ?_ ?_ rfl (by decide)
    all_goals rw [hl]
    · decide
    · unfold FieldDef.apart; decide
    · exact List.mem_cons_self
  rw [linkOn, Dev.on, hget, wOn]

/-- A link that was off takes the write and nothing else. -/
theorem haulLinkDisable_off (k : Nat) (w : CsrW) (d : Dev) (h : linkOn d k = false) :
    haulLinkDisable k w d = writeOwn RF.HAUL_LINK_CFG (R.HAUL_LINK_CFG k) w d := by
  unfold haulLinkDisable
  extract_lets was e1
  exact if_pos (by simp [was, h])

/-- What a link that was on has left. -/
theorem haulLinkDisable_on (k : Nat) (w : CsrW) (d : Dev) (ha : d.applied = true) (h : linkOn d k = true)
    (hen : wOn w (R.HAUL_LINK_CFG_EN k) = false) :
    (haulLinkDisable k w d).get (R.HAUL_LINK_STAT_STATE k) = 0 ∧ ∃ l, (haulLinkDisable k w d).hl k = discardLink l := by
  unfold haulLinkDisable
  extract_lets was e1 l n e2 e3
  have hoff : linkOn e1 k = false := (writeOwn_linkOn k w d ha).trans hen
  rw [if_neg (by simp [was, h, hoff])]
  have h2 : e2.hl k = discardLink (e1.hl k) := (Dev.hl_congr (lcnt_haul k 11 _ _) k).trans (Dev.hl_modHl_same _ _ _)
  have h3 : e3.haul = e2.haul := (loseInput_haul _ _).trans ((loseInput_haul _ _).trans (showUse_haul k e2))
  clear_value e3 e2
  exact ⟨setState_state _ _ _, e1.hl k,
    (Dev.hl_congr ((setState_haul _ _ _).trans ((Dev.set_haul _ _ _).trans ((Dev.set_haul _ _ _).trans h3))) k).trans h2⟩

/-- Settles O50. -/
theorem haulControl : Obligations.HaulControl := by
  refine ⟨fun s k w r hap hsw hact => ⟨fun hup => ?_, fun hup => ?_⟩, fun s k w hrun hsw hact => ?_,
    fun s k hap => ⟨fun hrev hact hup => ?_, fun hrev => ?_⟩, fun d k r => ⟨moveTo_cause k r d, moveTo_activeRoute k r d⟩,
    fun s p dir an w hap hfit hr hv => ?_, fun s k w hap hoff => ?_, fun s k w hap hon hen => ?_⟩
  · refine (onDev_whenRunning _ s (Dev.applied_running _ hap)).trans ?_
    rw [haulSwitch, hsw, hact]
    exact congrArg (fun d => Host.Outcome.next (s.setDev d)) (if_pos hup)
  · refine (onDev_whenRunning _ s (Dev.applied_running _ hap)).trans ?_
    rw [haulSwitch, hsw, hact]
    exact congrArg (fun d => Host.Outcome.next (s.setDev d)) (if_neg (Bool.eq_false_iff.mp hup))
  · refine (onDev_whenRunning _ s hrun).trans ?_
    rw [haulSwitch, hsw, hact]
    rfl
  · refine (onDev_whenApplied _ s hap).trans ?_
    rw [haulRevert, hrev, hact, hup]
    rfl
  · exact onDev_whenApplied_same _ s (by rw [haulRevert, hrev]; rfl)
  · exact ⟨_, onDev_onUnit (fun d => d.portDieFitted (p.val / 128)) _ w _ s (Dev.applied_running _ hap) hfit,
      saValidWrite_erases p.val dir.val an.val w s.dev hr hv⟩
  · exact (onDev_whenRunning _ s (Dev.applied_running _ hap)).trans
      (congrArg (fun d => Host.Outcome.next (s.setDev d)) (haulLinkDisable_off k.val w s.dev hoff))
  · obtain ⟨hstate, l, hl⟩ := haulLinkDisable_on k.val w s.dev hap hon hen
    refine ⟨_, onDev_whenRunning _ s (Dev.applied_running _ hap), hstate, ?_⟩
    show ((haulLinkDisable k.val w s.dev).hl k.val).share0.rtx = [] ∧ ((haulLinkDisable k.val w s.dev).hl k.val).share1.held = [] ∧
      ((haulLinkDisable k.val w s.dev).hl k.val).parityQ = []
    rw [hl]
    exact discardLink_buffers l

end Sys2Proof.Machine
end

section
/-! What a haul port and the timers of a link send and do (O49): R320, R323, R325, R330, R335, R336, R338, R341, R342, R344, R345. -/

namespace Sys2Proof.Machine

theorem HLink.modRoute_units (l : HLink) (r : Fin 2) (f : Route → Route) : (l.modRoute r f).units = l.units := by
  unfold HLink.modRoute; split <;> rfl

/-! ### What a haul frame that leaves changes (R321, R327) -/

/-- The link's buffers stay as they are. -/
theorem haulSend_haul (k p kind : Nat) (body : List Byte) (d : Dev) : (haulSend k p kind body d).haul = d.haul := by
  unfold haulSend
  extract_lets mode da sa rest an pn tag sec bit warn e1 e2
  split
  · rfl
  · show e2.haul = d.haul
    unfold e2
    split
    · exact (raiseCE_quiet _ _ _ _ _ _).haul
    · rfl

/-- One frame of the kind goes out on the port. -/
theorem haulSend_sent (k p kind : Nat) (body : List Byte) (d : Dev) :
    ∃ bs, .haul (Fin.ofNat 1024 p) kind bs ∈ (haulSend k p kind body d).outbox := by
  unfold haulSend
  extract_lets mode da sa rest an pn tag sec bit warn e1 e2
  split
  · exact ⟨_, List.mem_append_right _ List.mem_cons_self⟩
  · exact ⟨_, List.mem_append_right _ List.mem_cons_self⟩

/-- Without MACsec it is all that goes out. -/
theorem haulSend_plain (k p kind : Nat) (body : List Byte) (d : Dev) (h : msecMode d p = 0) :
    ∃ bs, (haulSend k p kind body d).outbox = d.outbox ++ [.haul (Fin.ofNat 1024 p) kind bs] := by
  unfold haulSend
  extract_lets mode
  rw [if_pos h]
  exact ⟨_, rfl⟩

/-! ### Keepalives (R323, R342) -/

/-- What drawing INCARN and a free STRIPE leaves alone. -/
theorem ownIncarn_keeps (d : Dev) :
    (ownIncarn d).2.csr = d.csr ∧ (ownIncarn d).2.outbox = d.outbox ∧ (ownIncarn d).2.haul.links = d.haul.links ∧
      (ownIncarn d).2.haul.incarn.isSome = true := by
  unfold ownIncarn
  split
  · next w hw => exact ⟨rfl, rfl, rfl, by rw [hw]; rfl⟩
  · exact ⟨rfl, rfl, rfl, rfl⟩

theorem lastClosed_keeps (k : Nat) (r : Fin 2) (d : Dev) :
    (lastClosed k r d).2.csr = d.csr ∧ (lastClosed k r d).2.outbox = d.outbox ∧ (lastClosed k r d).2.haul = d.haul := by
  unfold lastClosed
  split <;> exact ⟨rfl, rfl, rfl⟩

theorem Dev.hl_links {d e : Dev} (h : e.haul.links = d.haul.links) (k : Nat) : e.hl k = d.hl k := by rw [Dev.hl, Dev.hl, h]

/-- A keepalive goes out where the route can carry one. -/
theorem keepaliveSend_sent (k : Nat) (r : Fin 2) (d : Dev) (hon : linkOn d k = true) (hex : routeExists d k r = true)
    (hhaul : d.isHaul (routePort d k r) = true) (hup : d.isUp (routePort d k r) = true) (hsa : saOk d (routePort d k r) = true) :
    ((keepaliveSend k r d).hl k).kaSeq = ((d.hl k).kaSeq + 1) % 65536 ∧ (keepaliveSend k r d).haul.incarn.isSome = true ∧
    ∃ bs, .haul (Fin.ofNat 1024 (routePort d k r)) 2 bs ∈ (keepaliveSend k r d).outbox ∧
      (msecMode d (routePort d k r) = 0 →
        (keepaliveSend k r d).outbox = d.outbox ++ [.haul (Fin.ofNat 1024 (routePort d k r)) 2 bs]) := by
  obtain ⟨hicsr, hiout, hilinks, hinc⟩ := ownIncarn_keeps d
  obtain ⟨hccsr, hcout, hchaul⟩ := lastClosed_keeps k r (ownIncarn d).2
  unfold keepaliveSend
  extract_lets p i c e l src t body head
  rw [if_neg (by simp [hon, hex, hhaul, hup, hsa, p])]
  have hsent := haulSend_haul k p 2 (head ++ body) e
  have hmsec : msecMode e p = msecMode d p := Dev.get_congr (hccsr.trans hicsr) _
  have hout : e.outbox = d.outbox := hcout.trans hiout
  have hlink : (haulSend k p 2 (head ++ body) e).hl k = d.hl k :=
    (Dev.hl_congr (hsent.trans hchaul) k).trans (Dev.hl_links hilinks k)
  refine ⟨(congrArg HLink.kaSeq (Dev.hl_modHl_same _ _ _)).trans (by rw [hlink]), ?_, ?_⟩
  · show (haulSend k p 2 (head ++ body) e).haul.incarn.isSome = true
    rw [hsent, hchaul, hinc]
  · by_cases hm : msecMode e p = 0
    · obtain ⟨bs, hbs⟩ := haulSend_plain k p 2 (head ++ body) e hm
      exact ⟨bs, hbs ▸ List.mem_append_right _ List.mem_cons_self, fun _ => hbs.trans (by rw [hout])⟩
    · obtain ⟨bs, hbs⟩ := haulSend_sent k p 2 (head ++ body) e
      exact ⟨bs, hbs, fun h => absurd (hmsec.trans h) hm⟩

/-! ### Stripes that close, acknowledgements -/

/-- An open stripe closes: its parity is queued and the next stripe begins (R330). -/
theorem closeStripe_open (k : Nat) (r : Fin 2) (d : Dev) (hact : activeRoute d k = some r) (hu : (d.hl k).units ≠ []) :
    ((closeStripe k d).hl k).units = [] ∧ ((closeStripe k d).hl k).stripe = ((d.hl k).stripe + 1) % 65536 ∧
    ((closeStripe k d).hl k).parityQ.length = (d.hl k).parityQ.length + (d.hl k).npar ∧ (closeStripe k d).csr = d.csr := by
  unfold closeStripe
  rw [hact]
  dsimp only
  rw [Dev.hl_modHl_same, if_neg (by simpa using hu)]
  exact ⟨rfl, rfl, by simp, rfl⟩

theorem closeStripe_none (k : Nat) (d : Dev) (h : activeRoute d k = none) : closeStripe k d = d := by rw [closeStripe, h]

theorem haulAckSend_none (k : Nat) (d : Dev) (h : activeRoute d k = none) : haulAckSend k d = d := by rw [haulAckSend, h]

/-- A due acknowledgement goes out and is no longer due (R335). -/
theorem haulAckSend_due (k : Nat) (r : Fin 2) (d : Dev) (hact : activeRoute d k = some r) (hdue : (d.hl k).ackDue = true)
    (hsa : saOk d (routePort d k r) = true) : ((haulAckSend k d).hl k).ackDue = false := by
  have hsend (x : List (Fin 2 × Nat × Nat)) : ((!(d.hl k).ackDue && x.isEmpty) || !saOk d (routePort d k r)) = false := by rw [hdue, hsa]; rfl
  unfold haulAckSend
  split
  · next h => exact absurd (h.symm.trans hact) nofun
  · next r' h =>
    obtain rfl : r' = r := Option.some.inj (h.symm.trans hact)
    extract_lets p l all rs body c e head e2
    rw [if_neg (Bool.eq_false_iff.mp (hsend all))]
    exact congrArg HLink.ackDue (Dev.hl_modHl_same _ _ _)

/-! ### The control ring (R325) -/

/-- A frame of a legal port and length leaves. -/
theorem controlRingSend_legal (d : Dev) (e : List Byte) (p : PortNo) (he : d.ringAt ctxRing 0 = some e) (hp : leAt e 0 2 = p.val)
    (hh : d.isHaul p.val = true) (hlo : 60 ≤ leAt e 2 2) (hhi : leAt e 2 2 ≤ 2040) :
    controlRingSend d = (d.emit (.packet p (withFcs (slice e 4 (leAt e 2 2))) false)).ringAdvance ctxRing := by
  have hfin : Fin.ofNat 1024 p.val = p := Fin.ext (Nat.mod_eq_of_lt p.isLt)
  rw [controlRingSend, he]
  dsimp only
  rw [hp, hfin, if_pos (by simp [p.isLt, hh, hlo, hhi])]

theorem controlRingSend_illegal (d : Dev) (e : List Byte) (he : d.ringAt ctxRing 0 = some e)
    (h : 1024 ≤ leAt e 0 2 ∨ d.isHaul (leAt e 0 2) = false ∨ leAt e 2 2 < 60 ∨ 2040 < leAt e 2 2) :
    controlRingSend d = d.ringAdvance ctxRing := by
  rw [controlRingSend, he]
  dsimp only
  rw [if_neg]
  simp only [Bool.and_eq_true, decide_eq_true_eq]
  rintro ⟨⟨⟨hp, hh⟩, hlo⟩, hhi⟩
  rcases h with h | h | h | h
  · omega
  · exact Bool.false_ne_true (h.symm.trans hh)
  · omega
  · omega

/-! ### Timers -/

theorem queueRetx_share (n m : Fin 2) (h : Nat) (l : HLink) : (queueRetx n h l).share m = l.share m := by
  unfold queueRetx; split <;> rfl

/-- Below RMAX an expired timer queues the frame again and doubles its back-off (R338). -/
theorem haulRtoExpiry_again (k : Nat) (n : Fin 2) (h : Nat) (r : Fin 2) (d : Dev) (hact : activeRoute d k = some r)
    (hheld : ((d.hl k).share n).rtx.any (fun f => f.hseq == h) = true)
    (hmax : ((d.hl k).share n).expiries + 1 < d.get (R.HAUL_LINK_TMR_RMAX k)) :
    haulRtoExpiry k n h d = d.modHl k (fun l => queueRetx n h (l.modShare n (fun x =>
      { x with expiries := x.expiries + 1, backoff := min 64 (2 * x.backoff) }))) := by
  unfold haulRtoExpiry
  rw [hact]
  extract_lets e
  have hexp : ((e.hl k).share n).expiries = ((d.hl k).share n).expiries + 1 := by
    unfold e
    rw [Dev.hl_modHl_same, queueRetx_share, HLink.share_modShare_same]
  have hget : e.get (R.HAUL_LINK_TMR_RMAX k) = d.get (R.HAUL_LINK_TMR_RMAX k) := rfl
  dsimp only
  rw [hheld, hexp, hget, if_neg (by decide), if_neg (by omega)]

theorem haulRtoExpiry_released (k : Nat) (n : Fin 2) (h : Nat) (d : Dev)
    (hheld : ((d.hl k).share n).rtx.any (fun f => f.hseq == h) = false) : haulRtoExpiry k n h d = d := by
  unfold haulRtoExpiry
  split
  · rfl
  · exact if_pos (by rw [hheld]; rfl)

/-- A single held frame is first in order, none before it, when the expected one passes to it. -/
theorem moveExpect_single (s : Share) (h : Nat) (f : List Byte) (hs : s.held = [(h, f)]) (he : s.expect < h) (hh : h < 2 ^ 47) :
    (heldInOrder s).head? = some (h, f) ∧ (moveExpect h s).1.expect = h + 1 ∧ (moveExpect h s).1.held = [] ∧
      (moveExpect h s).1.deliver = s.deliver ++ [f] := by
  have horder : heldInOrder s = [(h, f)] := by
    rw [heldInOrder, hs]
    simp [Nat.le_of_lt he, Nat.not_lt.mpr (Nat.le_of_lt he)]
  refine ⟨by rw [horder]; rfl, ?_⟩
  unfold moveExpect
  rw [horder, hs]
  simp [drainShare, drainHeld, SMap.get?, SMap.del]
  omega

theorem reseqGapTimeout_empty (k : Nat) (n : Fin 2) (d : Dev) (h : ((d.hl k).share n).held = []) : reseqGapTimeout k n d = d := by
  have horder : (heldInOrder ((d.hl k).share n)).head? = none := by rw [heldInOrder, h]; rfl
  rw [reseqGapTimeout, horder]

/-- A gap that lasts is passed: the share is what `moveExpect` leaves (R341). -/
theorem reseqGapTimeout_share (k : Nat) (n : Fin 2) (d : Dev) (x : Nat × List Byte) (hx : (heldInOrder ((d.hl k).share n)).head? = some x) :
    ((reseqGapTimeout k n d).hl k).share n = (moveExpect x.1 ((d.hl k).share n)).1 := by
  rw [reseqGapTimeout, hx]
  dsimp only
  refine (congrArg (fun l => l.share n) (Dev.hl_congr ((showUse_haul _ _).trans (lcnt_haul _ _ _ _)) k)).trans ?_
  rw [Dev.hl_modHl_same, HLink.share_modShare_same]

theorem updateRoute_same (k : Nat) (r : Fin 2) (c : Nat) (d : Dev) (h : d.on (upFld k r) = routeUp d k r) : updateRoute k r c d = d := by
  unfold updateRoute
  extract_lets was now
  exact if_pos (beq_iff_eq.mpr h)

/-- Settles O49. -/
theorem haulLinksSend : Obligations.HaulSend := by
  refine ⟨fun s p h => ?_, fun s p x q hap hh hup hsa hctl hq => ?_, fun s k hact => ?_, fun s k r hap hact hu => ?_,
    fun s k r hap hon hex hh hup hsa => ?_, fun s k r hap hact hdue hsa => ?_, fun s he => ?_, fun s e hap he => ?_,
    fun s k n hap => ?_, fun s k n h r hap hact => ?_, fun s k n hheld => ?_, fun s k n h f hap hheld he hh => ?_,
    fun s k r hap => ?_, fun s k hap hon hact => ?_, fun d k r c h => updateRoute_same k r c d h⟩
  · refine onDev_whenApplied_same _ s ?_
    rw [haulFrameSend, if_pos]
    rcases h with h | h | h <;> simp [h]
  · refine (onDev_whenApplied _ s hap).trans ?_
    rw [haulFrameSend, if_neg (by simp only [hh, hup, hsa, hctl]; decide)]
    dsimp only
    rw [hq]
    rfl
  · exact ⟨onDev_whenApplied_same _ s (closeStripe_none _ _ hact), onDev_whenApplied_same _ s (haulAckSend_none _ _ hact)⟩
  · exact ⟨_, onDev_whenApplied _ s hap, closeStripe_open k.val r s.dev hact hu⟩
  · obtain ⟨hseq, hinc, bs, hsent, hplain⟩ := keepaliveSend_sent k.val r s.dev hon hex hh hup hsa
    exact ⟨_, bs, onDev_whenApplied _ s hap, hseq, hsent, hinc, hplain⟩
  · exact ⟨_, onDev_whenApplied _ s hap, haulAckSend_due k.val r s.dev hact hdue hsa⟩
  · exact onDev_whenApplied_same _ s (by rw [controlRingSend, he])
  · refine ⟨fun p hp hh hlo hhi => ?_, fun h => ?_⟩
    · exact (onDev_whenApplied _ s hap).trans
        (congrArg (fun d => Host.Outcome.next (s.setDev d)) (controlRingSend_legal s.dev e p he hp hh hlo hhi))
    · exact (onDev_whenApplied _ s hap).trans
        (congrArg (fun d => Host.Outcome.next (s.setDev d)) (controlRingSend_illegal s.dev e he h))
  · exact onDev_whenApplied _ s hap
  · refine ⟨fun hheld => onDev_whenApplied_same _ s (haulRtoExpiry_released _ _ _ _ hheld), fun hheld hmax => ?_⟩
    exact (onDev_whenApplied _ s hap).trans
      (congrArg (fun d => Host.Outcome.next (s.setDev d)) (haulRtoExpiry_again k.val n h r s.dev hact hheld hmax))
  · exact onDev_whenApplied_same _ s (reseqGapTimeout_empty _ _ _ hheld)
  · obtain ⟨hhead, hexp, hrest, hdel⟩ := moveExpect_single _ h f hheld he hh
    refine ⟨_, onDev_whenApplied _ s hap, ?_⟩
    show ((((reseqGapTimeout k.val n s.dev).hl k.val).share n).expect = _ ∧ _)
    rw [State.setDev_dev, reseqGapTimeout_share k.val n s.dev _ hhead]
    exact ⟨hexp, hrest, hdel⟩
  · refine ⟨fun hrx => onDev_whenApplied_same _ s ?_, fun hrx => (onDev_whenApplied _ s hap).trans ?_⟩
    · rw [keepaliveMiss, hrx]; rfl
    · rw [keepaliveMiss, hrx]; rfl
  · refine (onDev_whenApplied _ s hap).trans ?_
    rw [haulHoldExpiry, hon, hact]
    rfl

end Sys2Proof.Machine
end

section
/-! Frames on a haul port (O47): R317, R321, R324, R325, R328, R340. The forwarding pipelines leave the haul block alone. -/

namespace Sys2Proof.Machine

/-! ### What goes out on a link leaves the haul block alone -/

theorem sendPfc_haul (p tc n : Nat) (d : Dev) : (sendPfc p tc n d).haul = d.haul :=
  Dev.each_kept Dev.haul (pfcPriorities d p tc) (fun k d => d.emit (.pfc (Fin.ofNat 1024 p) (Fin.ofNat 8 k) (BitVec.ofNat 16 n)))
    (fun _ _ => rfl) d

theorem xoffUpdate_haul (p tc : Nat) (d : Dev) : (xoffUpdate p tc d).haul = d.haul := by
  unfold xoffUpdate; dsimp only
  split
  · rfl
  · split
    · split
      · exact sendPfc_haul _ _ _ _
      · rfl
    · split
      · exact sendPfc_haul _ _ _ _
      · rfl

theorem gxUpdate_haul (d : Dev) : (gxUpdate d).haul = d.haul := by
  unfold gxUpdate; dsimp only
  split
  · rfl
  · exact Dev.each_kept Dev.haul _ _ (fun p => Dev.each_kept Dev.haul _ _ (fun tc => xoffUpdate_haul p tc)) _

theorem sendPair_haul (p : Nat) (bs : List Byte) (d : Dev) : (sendPair p bs d).haul = d.haul := by
  unfold sendPair; dsimp only
  split <;> rfl

theorem sequencePair_haul (p : Nat) (vc : BitVec 4) (n : BitVec 10) (fl : List Byte) (ps : List Pkt) (d : Dev) :
    (sequencePair p vc n fl ps d).haul = d.haul := sendPair_haul _ _ _

theorem sendDue_haul (p : Nat) (d : Dev) : (sendDue p d).haul = d.haul :=
  Dev.each_kept Dev.haul _ _ (fun _ => sequencePair_haul _ _ _ _ _) _

theorem pushCredits_haul (p : Nat) (vc : BitVec 4) (n : Nat) (d : Dev) : (pushCredits p vc n d).haul = d.haul := sendDue_haul _ _

theorem returnCredits_haul (p : Nat) (vc : BitVec 4) (n : Nat) (d : Dev) : (returnCredits p vc n d).haul = d.haul := by
  unfold returnCredits
  split
  · rfl
  · exact pushCredits_haul _ _ _ _

/-! ### Accounts and cells -/

theorem leaveIngress_haul (x : Pkt) (n : Nat) (d : Dev) : (leaveIngress x n d).2.haul = d.haul := by
  have hroom (c : Cistern) : (if x.headroom then { d with cist := c } else d).haul = d.haul := by split <;> rfl
  cases hi : x.inPort with
  | none =>
    simp only [leaveIngress, hi]
    exact hroom _
  | some i =>
    simp only [leaveIngress, hi]
    split
    · cases x.creditsDue with
      | none => exact (xoffUpdate_haul _ _ _).trans (hroom _)
      | some c => exact (returnCredits_haul _ _ _ _).trans ((xoffUpdate_haul _ _ _).trans (hroom _))
    · exact (xoffUpdate_haul _ _ _).trans (hroom _)

theorem subUse_haul (x : Pkt) (n : Nat) (d : Dev) : (subUse x n d).haul = d.haul := by
  unfold subUse; dsimp only
  cases x.acct <;> cases x.job <;> rfl

theorem addUse_haul (x : Pkt) (n : Nat) (d : Dev) : (addUse x n d).haul = d.haul := by
  unfold addUse; dsimp only
  cases x.acct <;> cases x.job <;> rfl

theorem discharge_haul (x : Pkt) (d : Dev) : (discharge x d).haul = d.haul := (leaveIngress_haul _ _ _).trans (subUse_haul _ _ _)

theorem showFree_haul (d : Dev) : (showFree d).haul = d.haul := Dev.set_haul _ _ _

theorem raisePrefetch_haul (q : Nat) (u : UQueue) (d : Dev) : (raisePrefetch q u d).haul = d.haul := rfl

theorem showSpilling_haul (q : Nat) (u : UQueue) (d : Dev) : (showSpilling q u d).haul = d.haul := Dev.set_haul _ _ _

theorem holdCells_haul (n : Nat) (hd : Bool) (d : Dev) : (holdCells n hd d).haul = d.haul := showFree_haul _

theorem freeCells_haul (n : Nat) (hd : Bool) (d : Dev) : (freeCells n hd d).haul = d.haul := showFree_haul _

theorem consumePkt_haul (x : Pkt) (d : Dev) : (consumePkt x d).haul = d.haul :=
  (gxUpdate_haul _).trans ((freeCells_haul _ _ _).trans (discharge_haul _ _))

theorem recharge_haul (x : Pkt) (c : Nat) (d : Dev) : (recharge x c d).2.haul = d.haul := by
  have hleft : (leaveIngress x (x.cells - c) (subUse x (x.cells - c) d)).2.haul = d.haul :=
    (leaveIngress_haul _ _ _).trans (subUse_haul _ _ _)
  unfold recharge
  extract_lets less more r left e1 ct e2
  have h1 : e1.haul = d.haul := (addUse_haul _ _ _).trans hleft
  have h2 : e2.haul = e1.haul := by unfold e2; split <;> rfl
  split
  · exact hleft
  · split <;> exact h2.trans h1

theorem setUQ_haul (q : Nat) (u : UQueue) (d : Dev) : (setUQ q u d).haul = d.haul :=
  (showFree_haul _).trans ((raisePrefetch_haul _ _ _).trans ((showSpilling_haul _ _ _).trans (Dev.set_haul _ _ _)))

theorem setMQ_haul (m : Nat) (l : List MPkt) (d : Dev) : (setMQ m l d).haul = d.haul := showFree_haul _

theorem replacePkt_haul (q id c : Nat) (f : Pkt → Pkt) (d : Dev) : (replacePkt q id c f d).haul = d.haul := by
  unfold replacePkt; dsimp only
  split
  · rfl
  · exact (gxUpdate_haul _).trans ((setUQ_haul _ _ _).trans (recharge_haul _ _ _))

theorem holdTail_haul (x : Pkt) (c : Nat) (d : Dev) : (holdTail x c d).2.haul = d.haul :=
  (gxUpdate_haul _).trans ((holdCells_haul _ _ _).trans ((freeCells_haul _ _ _).trans (recharge_haul _ _ _)))

/-! ### Samples and drops -/

theorem ringPush_haul (r : RingRef) (bs : List Byte) (d : Dev) : (d.ringPush r bs).haul = d.haul := Dev.set_haul _ _ _

theorem setSampler_haul (n : Nat) (x : Sampler) (d : Dev) : (setSampler n x d).haul = d.haul := rfl

theorem sampleOne_haul (x : Pkt) (y : Sight) (n : Nat) (d : Dev) : (sampleOne x y n d).haul = d.haul := by
  unfold sampleOne
  split
  · rfl
  · extract_lets m rate rnd random take m' miss e1 e2
    have hmiss : miss.haul = d.haul := setSampler_haul _ _ _
    have h1 : e1.haul = d.haul := ringPush_haul _ _ _
    have h2 : e2.haul = e1.haul := setSampler_haul _ _ _
    clear_value e2
    split
    · exact hmiss
    · split
      · exact (Dev.set_haul _ _ _).trans hmiss
      · split
        · exact (Dev.set_haul _ _ _).trans hmiss
        · exact (Dev.set_haul _ _ _).trans (h2.trans h1)

theorem sample_haul (x : Pkt) (y : Sight) (d : Dev) : (sample x y d).haul = d.haul :=
  Dev.each_kept Dev.haul _ _ (fun n => sampleOne_haul x y n) d

theorem countFault_haul (x : Pkt) (k : Nat) (d : Dev) : (countFault x k d).haul = d.haul := by
  unfold countFault
  cases x.inPort with
  | none => rfl
  | some i => exact (countPort_quiet _ _ _ _).haul

theorem dropIn_haul (x : Pkt) (src idx : Nat) (d : Dev) : (dropIn x src idx d).haul = d.haul :=
  (sample_haul _ _ _).trans ((countEvent_quiet _ _).haul.trans (countFault_haul x 6 d))

theorem dropArrived_haul (x : Pkt) (vc : BitVec 4) (n src idx : Nat) (d : Dev) : (dropArrived x vc n src idx d).haul = d.haul := by
  have hback : (match x.inPort with | some i => returnCredits i.val vc n d | none => d).haul = d.haul := by
    cases x.inPort with
    | none => rfl
    | some i => exact returnCredits_haul _ _ _ _
  exact (dropIn_haul _ _ _ _).trans hback

theorem pathLost_haul (x : Pkt) (d : Dev) : (pathLost x d).haul = d.haul := by
  unfold pathLost; dsimp only
  split
  · rfl
  · split
    · exact (raiseCE_quiet _ _ _ _ _ _).haul
    · rfl

theorem discard_haul (x : Ingress) (src idx : Nat) (d : Dev) : (discard x src idx d).2.haul = d.haul :=
  (pathLost_haul _ _).trans (dropArrived_haul _ _ _ _ _ _)

/-! ### The headgate and the cores -/

theorem settle_haul (x : Pkt) (d : Dev) : (settle x d).haul = d.haul := by
  unfold settle; dsimp only
  refine (gxUpdate_haul _).trans ?_
  cases x.inPort with
  | none => rfl
  | some i => exact xoffUpdate_haul _ _ _

theorem chargeIn_haul (x : Pkt) (vc : BitVec 4) (n : Nat) (d : Dev) : (chargeIn x vc n d).2.haul = d.haul := by
  cases hi : x.inPort with
  | none =>
    simp only [chargeIn, hi]
    exact addUse_haul _ _ _
  | some i =>
    simp only [chargeIn, hi]
    split
    · exact addUse_haul _ _ _
    · exact (returnCredits_haul _ _ _ _).trans (addUse_haul _ _ _)

theorem countAdmit_haul (x : Pkt) (q : Option Nat) (d : Dev) : (countAdmit x q d).haul = d.haul :=
  (sample_haul _ _ _).trans ((countEvent_quiet _ _).haul.trans ((countEvent_quiet _ _).haul.trans (countEvent_quiet _ _).haul))

theorem headgate_haul (x : Ingress) (q : Option Nat) (place : Pkt → Dev → Dev) (d : Dev) (h : ∀ y e, (place y e).haul = e.haul) :
    (headgate x q place d).2.haul = d.haul := by
  unfold headgate
  extract_lets e
  have he : e.haul = d.haul := settle_haul _ _
  split
  · split
    · exact he
    · refine (discard_haul _ _ _ _).trans ?_
      split
      · exact (raiseCE_quiet _ _ _ _ _ _).haul.trans he
      · exact he
  · exact (countAdmit_haul _ _ _).trans ((settle_haul _ _).trans ((h _ _).trans ((chargeIn_haul _ _ _ _).trans he)))

theorem toCores_haul (reason : Nat) (x : Ingress) (d : Dev) : (toCores reason x d).2.haul = d.haul :=
  headgate_haul x none _ d (fun _ _ => rfl)

theorem punt_haul (reason : Nat) (x : Ingress) (d : Dev) : (punt reason x d).2.haul = d.haul := by
  unfold punt
  split
  · exact discard_haul _ _ _ _
  · exact toCores_haul reason x d

theorem handPhase_haul (m : Bool) (bs : List Byte) (d : Dev) : (handPhase m bs d).haul = d.haul := by
  unfold handPhase; split <;> rfl

theorem handOver_haul (d : Dev) : (handOver d).haul = d.haul := by
  unfold handOver; dsimp only
  refine Dev.each_kept Dev.haul _ _ (fun x e => ?_) _
  split
  · exact (handPhase_haul _ _ _).trans (consumePkt_haul _ _)
  · exact consumePkt_haul _ _

/-! ### Tails -/

theorem settleTail_haul (w : Where) (x : Pkt) (c : Nat) (f : Pkt → Pkt) (d : Dev) : (settleTail w x c f d).haul = d.haul := by
  unfold settleTail
  cases w with
  | uni q => exact replacePkt_haul _ _ _ _ _
  | multi m => exact (gxUpdate_haul _).trans ((setMQ_haul _ _ _).trans (recharge_haul _ _ _))
  | cores reason => exact (handOver_haul _).trans (holdTail_haul _ _ _)
  | basin => exact holdTail_haul _ _ _
  | tally => exact holdTail_haul _ _ _

theorem tailCredits_haul (x : Pkt) (n : Nat) (d : Dev) : (tailCredits x n d).2.haul = d.haul := by
  unfold tailCredits
  split
  · rfl
  · split
    · rfl
    · dsimp only
      split
      · rfl
      · dsimp only
        split
        · rfl
        · exact pushCredits_haul _ _ _ _

theorem canalReplicated_haul (i : Nat) (bs : List Byte) (d : Dev) : (canalReplicated i bs d).haul = d.haul := by
  unfold canalReplicated; dsimp only
  split
  · split <;> rfl
  · rfl

theorem storedTail_haul (w : Where) (x : Pkt) (extra : List Byte) (ok : Bool) (d : Dev) : (storedTail w x extra ok d).haul = d.haul := by
  unfold storedTail
  extract_lets bs t e y c
  have he : e.haul = d.haul := by
    unfold e
    split
    · exact tailCredits_haul _ _ _
    · exact (settleTail_haul _ _ _ _ _).trans (tailCredits_haul _ _ _)
  split
  · next k src idx _ =>
    refine (pathLost_haul _ _).trans ((dropIn_haul _ _ _ _).trans (Eq.trans ?_ ((settleTail_haul w y 0 id e).trans he)))
    cases k with
    | none => rfl
    | some k => exact countFault_haul _ _ _
  · split
    · exact (pathLost_haul _ _).trans ((dropIn_haul _ _ _ _).trans ((settleTail_haul _ _ _ _ _).trans he))
    · split
      · exact (canalReplicated_haul _ _ _).trans ((settleTail_haul _ _ _ _ _).trans he)
      · exact (settleTail_haul _ _ _ _ _).trans he

/-! ### MACsec (R328) -/

/-- The first four of the port's counters count what MACsec refuses. -/
theorem macsecCheck_error {d : Dev} {p : Nat} {bs : List Byte} {r : Nat} (h : macsecCheck d p bs = .error r) : r ≤ 3 := by
  unfold macsecCheck at h
  split_ifs at h
  · exact Except.error.inj h ▸ by decide
  · exact Except.error.inj h ▸ by decide
  · exact Except.error.inj h ▸ by decide
  · exact Except.error.inj h ▸ by decide
  · split at h
    · exact Except.error.inj h ▸ by decide
    · exact nomatch h

theorem macsecCheck_untagged {d : Dev} {p : Nat} {bs : List Byte} (hm : msecMode d p ≠ 0) (ht : hasTag bs = false) :
    macsecCheck d p bs = .error 1 := by
  rw [macsecCheck, if_neg hm, if_pos (by rw [ht]; rfl)]

/-! ### A frame is checked in order (R317, R324) -/

section
variable {p : PortNo} {bs : List Byte} {t4 : TimeVal} {d : Dev}

/-- What the port must be for a frame to be received on it. -/
def haulListens (d : Dev) (p : Nat) : Prop :=
  d.isPort p = true ∧ d.isHaul p = true ∧ d.isUp p = true ∧ d.nearLoop p = false ∧ d.farLoop p = false

/-- The frame is of a legal outer size. -/
def outerSizeOk (bs : List Byte) : Prop := 64 ≤ bs.length ∧ bs.length ≤ 9280

theorem haulFrameReceive_size (hl : haulListens d p.val) (hs : ¬ outerSizeOk bs) :
    haulFrameReceive p.val bs t4 d = d.bump (R.HAUL_PCNT_COUNT p.val 6) := by
  obtain ⟨hport, hhaul, hup, hnear, hfar⟩ := hl
  rw [haulFrameReceive, if_neg (by simp [hport, hhaul, hup, hnear, hfar]), if_pos]
  unfold outerSizeOk at hs
  simp only [Bool.or_eq_true, decide_eq_true_eq]
  omega

/-- Past the size, the FCS is the next check. -/
theorem haulFrameReceive_sized (hl : haulListens d p.val) (hs : outerSizeOk bs) :
    haulFrameReceive p.val bs t4 d =
      if crcRun crcStart bs ≠ crcGood then d.bump (R.HAUL_PCNT_COUNT p.val 4)
      else if macControl bs 0x0001 || macControl bs 0x0101 then d.bump (R.HAUL_PCNT_COUNT p.val 6)
      else if 0x0180C2000000 ≤ beAt bs 0 6 && decide (beAt bs 0 6 ≤ 0x0180C200000F) then haulFrameReceive p.val bs t4 d
      else haulReceive p.val bs t4 d := by
  obtain ⟨hport, hhaul, hup, hnear, hfar⟩ := hl
  obtain ⟨hlo, hhi⟩ := hs
  rw [haulFrameReceive, if_neg (by simp [hport, hhaul, hup, hnear, hfar]), if_neg (by simp only [Bool.or_eq_true, decide_eq_true_eq]; omega)]
  split_ifs <;> rfl

theorem haulFrameReceive_local (hl : haulListens d p.val) (hs : outerSizeOk bs) (hc : crcRun crcStart bs = crcGood)
    (hm : ¬ (macControl bs 0x0001 || macControl bs 0x0101) = true) (ha : 0x0180C2000000 ≤ beAt bs 0 6 ∧ beAt bs 0 6 ≤ 0x0180C200000F) :
    (haulFrameReceive p.val bs t4 d).haul = d.haul := by
  obtain ⟨hport, hhaul, hup, hnear, hfar⟩ := hl
  obtain ⟨hlo, hhi⟩ := hs
  rw [haulFrameReceive, if_neg (by simp [hport, hhaul, hup, hnear, hfar]), if_neg (by simp only [Bool.or_eq_true, decide_eq_true_eq]; omega), if_neg (not_not.mpr hc), if_neg hm,
    if_pos (by simp [ha])]
  dsimp only
  split
  · exact (storedTail_haul _ _ _ _ _).trans (punt_haul _ _ _)
  · exact punt_haul _ _ _

theorem haulFrameReceive_engine (hl : haulListens d p.val) (hs : outerSizeOk bs) (hc : crcRun crcStart bs = crcGood)
    (hm : ¬ (macControl bs 0x0001 || macControl bs 0x0101) = true) (ha : ¬ (0x0180C2000000 ≤ beAt bs 0 6 ∧ beAt bs 0 6 ≤ 0x0180C200000F)) :
    haulFrameReceive p.val bs t4 d = haulReceive p.val bs t4 d := by
  rw [haulFrameReceive_sized hl hs, if_neg (not_not.mpr hc), if_neg hm, if_neg (by simpa using ha)]

/-! ### The haul engine's own checks -/

theorem haulReceive_other (h : isHaulFrame d p.val bs = false) : haulReceive p.val bs t4 d = d.bump (R.HAUL_PCNT_COUNT p.val 6) := by
  rw [haulReceive, h]; rfl

theorem haulReceive_refused {r : Nat} (h : isHaulFrame d p.val bs = true) (hr : macsecCheck d p.val bs = .error r) :
    haulReceive p.val bs t4 d = d.bump (R.HAUL_PCNT_COUNT p.val r) := by
  rw [haulReceive, h, hr]; rfl

/-- A frame that MACsec accepts goes on behind the SA's lowest acceptable PN. -/
theorem haulReceive_accepted {x : List Byte} (h : isHaulFrame d p.val bs = true) (hx : macsecCheck d p.val bs = .ok x) :
    haulReceive p.val bs t4 d =
      if beAt x 0 2 ≠ (macsecAccept p.val bs d).get (R.PORT_OFPE_ETYPE (p.val / 128)) then
        (macsecAccept p.val bs d).bump (R.HAUL_PCNT_COUNT p.val 6)
      else (haulMatch (macsecAccept p.val bs d) p.val (haulHdr (slice x 2 16)) (x.drop 18)).elim
        ((macsecAccept p.val bs d).bump (R.HAUL_PCNT_COUNT p.val 5))
        (fun y => haulKind p.val y.1 y.2 (haulHdr (slice x 2 16)) (x.drop 18) t4 (macsecAccept p.val bs d)) := by
  rw [haulReceive, h, hx]
  refine (if_neg Bool.false_ne_true).trans ?_
  refine if_congr Iff.rfl ?_ ?_
  · rfl
  dsimp only
  cases haulMatch (macsecAccept p.val bs d) p.val (haulHdr (slice x 2 16)) (x.drop 18) <;> rfl
end

/-- Settles O47. -/
theorem haulFrames : Obligations.HaulReceive := by
  refine ⟨fun s p bs t4 hap hport hhaul hup hnear hfar => ?_, fun d p bs r h => macsecCheck_error h,
    fun d p bs hm ht => macsecCheck_untagged hm ht, fun s k n h => ?_, fun s k n inner rest hap h => ?_⟩
  · have hl : haulListens s.dev p.val := ⟨hport, hhaul, hup, hnear, hfar⟩
    have hrun {e : Dev} (h : haulFrameReceive p.val bs t4 s.dev = e) : exec (.haulFrameReceive p bs t4) s = .next (s.setDev e) :=
      (onDev_whenApplied _ s hap).trans (congrArg (fun d => Host.Outcome.next (s.setDev d)) h)
    intro counts size control local_
    refine ⟨fun hs => hrun (haulFrameReceive_size hl hs), fun hs hc => ?_, fun hs hc hm => ?_, fun hs hc hm ha => ?_,
      fun hs hc hm ha => ?_⟩
    · exact hrun ((haulFrameReceive_sized hl hs).trans (if_pos hc))
    · exact hrun ((haulFrameReceive_sized hl hs).trans ((if_neg (not_not.mpr hc)).trans (if_pos hm)))
    · exact ⟨_, hrun rfl, haulFrameReceive_local hl hs hc hm ha⟩
    · have hengine := haulFrameReceive_engine (t4 := t4) hl hs hc hm ha
      refine ⟨fun hf => hrun (hengine.trans (haulReceive_other hf)), fun hf => ⟨fun r hr => hrun (hengine.trans (haulReceive_refused hf hr)),
        fun x hx => ?_⟩⟩
      have hacc := hengine.trans (haulReceive_accepted hf hx)
      intro d
      refine ⟨fun he => hrun (hacc.trans (if_pos he)), fun he => ?_⟩
      have hmatch := hacc.trans (if_neg (not_not.mpr he))
      intro h
      refine ⟨fun hn => hrun (hmatch.trans (by rw [hn]; rfl)), fun k r hk => hrun (hmatch.trans (by rw [hk]; rfl))⟩
  · exact onDev_whenApplied_same _ s (by rw [haulDelivery, h])
  · have hrun {e : Dev} (he : haulDelivery k.val n s.dev = e) : exec (.haulDelivery k n) s = .next (s.setDev e) :=
      (onDev_whenApplied _ s hap).trans (congrArg (fun d => Host.Outcome.next (s.setDev d)) he)
    intro home d r
    have hoffer : haulDelivery k.val n s.dev =
        match r.1 with | none => r.2 | some c => if c = 3 || c = 4 || c = 6 then lcnt k.val 12 s.dev else lcnt k.val 13 r.2 := by
      rw [haulDelivery, h] <;> rfl
    refine ⟨fun hn => hrun (hoffer.trans (by rw [hn])), fun c hc hwait => hrun (hoffer.trans ?_), fun c hc h3 h4 h6 => hrun (hoffer.trans ?_)⟩
    · rw [hc]
      exact if_pos (by simpa [or_assoc] using hwait)
    · rw [hc]
      exact if_neg (by simp [h3, h4, h6])

end Sys2Proof.Machine
end

section
/-! A flume queue with two taken descriptors of one number (O40): R297, R365, R367. -/

namespace Sys2Proof.Machine

/-- A NOP, which has every byte 0, and a descriptor of the same number with ORDER. -/
def plainNop (id : Nat) : Job := newJob id 0 (zeros 64)
def orderedNop (id : Nat) : Job := newJob id 0 ([0, 2] ++ zeros 62)

/-- An applied device whose flume queue 0 has a descriptor to take, and has taken already a live descriptor 1 and two descriptors of the number 0
that comes next. -/
def twiceNumbered : Dev :=
  let d : Dev := { State.reset.dev with csr := [(R.SEC_BOOT_STATUS, 5), (R.FLUME_WQ_CFG 0, 0x104), (R.FLUME_WQ_TAIL 0, 1)] }
  d.setWorkQ (flumeWq 0).key ⟨[plainNop 1, plainNop 0, orderedNop 0], none⟩

theorem twiceNumbered_takes : twiceNumbered.applied = true ∧ mayTake (flumeWq 0) twiceNumbered = true := by decide +kernel

theorem twiceNumbered_found : jobOf (flumeWq 0).key twiceNumbered.eng.nextJob (takeJob (flumeWq 0) id twiceNumbered) = some (plainNop 0) := by
  rfl

theorem twiceNumbered_checked : flumeCheck 0 (plainNop 0) (takeJob (flumeWq 0) id twiceNumbered) = none := by decide +kernel

/-- The ordered descriptor of the number waits for descriptor 1. -/
theorem twiceNumbered_dealt : ((flumeTake 0 twiceNumbered).workQ (flumeWq 0).key).taken.map Job.dealt = [0, 1, 0, 1] := by decide +kernel

/-- Refutes O40: the statement does not say that the numbers of taken descriptors differ. In a queue that holds two of the number that is next, the
taking command looks at the first one for its checks, and at each one's own ORDER for its start, so that an ordered one behind a live descriptor stays
undealt where the statement has both started. -/
theorem not_flumeQueue : ¬ Obligations.FlumeQueue := by
  rintro ⟨-, htake, -⟩
  obtain ⟨ha, hm⟩ := twiceNumbered_takes
  have hstarts := (htake (State.reset.setDev twiceNumbered) 0 (plainNop 0) ha hm twiceNumbered_found).2 twiceNumbered_checked (by decide +kernel)
  have hruns := onDev_whenApplied (flumeTake 0) (State.reset.setDev twiceNumbered) ha
  have hsame := congrArg (fun s => (s.dev.workQ (flumeWq 0).key).taken.map Job.dealt) (Host.Outcome.next.inj (hruns.symm.trans hstarts))
  exact absurd (twiceNumbered_dealt.symm.trans hsame) (by decide +kernel)

end Sys2Proof.Machine
end

section
/-! Modules, wrong wavelengths, spare lasers and the mailbox (O53): R432 to R434, R437 to R439. -/

namespace Sys2Proof.Machine

/-! ### Registers that the agent goes by -/

/-- What the agent goes by to manage a module stands in registers of its own. -/
theorem managed_congr {d e : Dev} {m : Nat} (hc : e.rd (R.OPT_MOD_CTL m) = d.rd (R.OPT_MOD_CTL m))
    (hb : e.rd (R.OPT_BUS_CFG m) = d.rd (R.OPT_BUS_CFG m)) : managed e m = managed d m := by
  have hauto : e.on (R.OPT_MOD_CTL_AUTO m) = d.on (R.OPT_MOD_CTL_AUTO m) := congrArg (fun w : Word => bitsOf w.toNat _ _ == 1) hc
  have hmode : e.get (R.OPT_BUS_CFG_MODE m) = d.get (R.OPT_BUS_CFG_MODE m) := congrArg (fun w : Word => bitsOf w.toNat _ _) hb
  rw [managed, managed, hauto, hmode]

theorem managed_setStat (m lo w v : Nat) (d : Dev) : managed (d.set ⟨R.OPT_MOD_STAT m, lo, w⟩ v) m = managed d m := by
  refine managed_congr (Dev.rd_set_ne _ _ _ _ ?_) (Dev.rd_set_ne _ _ _ _ ?_)
  · show R.OPT_MOD_CTL m ≠ R.OPT_MOD_STAT m
    unfold R.OPT_MOD_CTL R.OPT_MOD_STAT; omega
  · show R.OPT_BUS_CFG m ≠ R.OPT_MOD_STAT m
    unfold R.OPT_BUS_CFG R.OPT_MOD_STAT; omega

/-! ### Insertion and removal (R433) -/

theorem moduleInsert_unmanaged {m : ModNo} {fits : Bool} {f : ModFlags} {d : Dev} (hf : modFitted d m.val = true) (hm : managed d m.val = false) :
    moduleInsert m fits f d = d.set (R.OPT_MOD_STAT_PRESENT m.val) 1 := by
  have hm' : managed (d.set (R.OPT_MOD_STAT_PRESENT m.val) 1) m.val = false := (managed_setStat _ _ _ _ d).trans hm
  simp only [moduleInsert, hf, hm', Bool.not_true, Bool.not_false, Bool.false_eq_true, if_false, if_true]

/-- What the agent does with a module it manages, once it has released RESET_N. -/
theorem moduleInsert_managed {m : ModNo} {fits : Bool} {f : ModFlags} {d : Dev} (hf : modFitted d m.val = true) (hm : managed d m.val = true) :
    moduleInsert m fits f d =
      let e := (d.set (R.OPT_MOD_STAT_PRESENT m.val) 1).set (R.OPT_MOD_CTL_RESET m.val) 0
      if fits then agentPoll m f (if f.mstate = 5 then e else agentRelease m.val 0 e)
      else moduleDown m.val ((e.set (R.OPT_MOD_STAT_MSTATE m.val) f.mstate.toNat).set (R.OPT_MOD_STAT_SPARES m.val) f.spares.toNat) := by
  have hm' : managed (d.set (R.OPT_MOD_STAT_PRESENT m.val) 1) m.val = true := (managed_setStat _ _ _ _ d).trans hm
  cases fits <;> simp only [moduleInsert, hf, hm', Bool.not_true, Bool.not_false, Bool.false_eq_true, if_false, if_true]

/-! ### Polls (R433, R438) -/

theorem agentHolds_quiet {d e : Dev} (h : d.Quiet e) (m : Nat) : e.agent m = d.agent m := by rw [Dev.agent, Dev.agent, h.opt]

/-- Without a lane at fault or wrong there is nothing to defer for a window. -/
theorem inBypass_nil (d : Dev) : inBypass d [] = false := by
  rw [inBypass, List.any_eq_false]
  intro w _
  simp

/-- A poll that finds every lane on its channel and none being re-tuned releases the holds of R438. -/
theorem agentActs_clean {m : ModNo} {f : ModFlags} {d : Dev} (hf : f.faults = []) (hw : wrongLanes m.val d = [])
    (hr : (d.agent m.val).retuning = []) :
    agentActs m f d = endRetune m.val (if peerFault1 d m.val then raiseCE blkOpt 4 m.val d else d) := by
  have hagent : ((if peerFault1 d m.val then raiseCE blkOpt 4 m.val d else d).agent m.val).retuning = [] := by
    split
    · rw [agentHolds_quiet (raiseCE_quiet _ _ _ _ _ _), hr]
    · exact hr
  simp only [agentActs, hf, hw, List.eraseDups_nil, List.filter_nil, ite_self, List.map_nil, List.flatMap_nil, List.append_nil, inBypass_nil,
    Bool.false_eq_true, if_false, Dev.each, List.foldl_nil, List.isEmpty_nil, Bool.not_true, if_true, hagent]

/-- A port of the module hears HOLD with FAULT 1. -/
theorem peerFault1_iff (d : Dev) (m : Nat) :
    peerFault1 d m = true ↔ ∃ p, d.isPort (16 * m + p) = true ∧ p < 16 ∧ (d.link (16 * m + p)).peerHold = some 1 := by
  simp only [peerFault1, modPorts, List.any_eq_true, List.mem_filter, List.mem_map, List.mem_range, beq_iff_eq]
  constructor
  · rintro ⟨_, ⟨⟨s, hs, rfl⟩, hp⟩, hh⟩
    exact ⟨s, hp, hs, hh⟩
  · rintro ⟨s, hp, hs, hh⟩
    exact ⟨_, ⟨⟨s, hs, rfl⟩, hp⟩, hh⟩

/-! ### Re-tuning (R437, R438) -/

section
variable {m : ModNo} {late : Bool} {tuned : List (BitVec 16)} {d : Dev}

theorem retuneComplete_none (h : (d.agent m.val).retuning = []) : retuneComplete m late tuned d = d := by
  rw [retuneComplete, h]; rfl

theorem retuneComplete_some (h : (d.agent m.val).retuning ≠ []) : retuneComplete m late tuned d =
    let e := Dev.each (d.agent m.val).retuning (attemptDone m late) (readTuned m.val tuned d)
    if (wrongLanes m.val e).isEmpty && (e.agent m.val).retuning.isEmpty then endRetune m.val e else e := by
  rw [retuneComplete]
  exact if_neg (by simpa using h)

variable {x : Fin 16}

theorem attemptDone_tuned (hl : late = false) (ht : tunedOf d (16 * m.val + x.val) = sendOf d (16 * m.val + x.val)) :
    attemptDone m late x d = d.modAgent m.val (fun a => { a with retuning := a.retuning.filter (fun y => y != x) }) := by
  simp only [attemptDone, hl, ht, Bool.not_false, beq_self_eq_true, Bool.and_self, if_true]

/-- An attempt that has failed is repeated until RETUNEMAX. -/
theorem attemptDone_failed (h : late = true ∨ tunedOf d (16 * m.val + x.val) ≠ sendOf d (16 * m.val + x.val)) : attemptDone m late x d =
    let n := d.get (R.OPT_LANE_STAT_RETRIES (16 * m.val + x.val)) + 1
    if n < max 1 (d.get R.OPT_CFG_RETUNEMAX) then commandRetune m x (d.set (R.OPT_LANE_STAT_RETRIES (16 * m.val + x.val)) n)
    else raiseCE blkOpt 3 (16 * m.val + x.val)
      (((d.modAgent m.val (fun a => { a with retuning := a.retuning.filter (fun y => y != x) })).set
        (R.OPT_LANE_STAT_RETRIES (16 * m.val + x.val)) n).bump (R.OPT_CNT_COUNT 2)) := by
  have hno : (!late && tunedOf d (16 * m.val + x.val) == sendOf d (16 * m.val + x.val)) = false := by
    rcases h with h | h <;> simp [h]
  rw [attemptDone]
  exact if_neg (Bool.eq_false_iff.mp hno)
end

/-! ### Spare lasers (R439) -/

/-- The channel that a lane is to send stands apart from what its laser reads. -/
theorem sendOf_setTuned (l v : Nat) (d : Dev) : sendOf (d.set (R.OPT_LANE_STAT_TUNED l) v) l = sendOf d l := by
  refine Dev.get_set_ne _ _ _ _ ?_
  show R.PORT_LCHAN l ≠ R.OPT_LANE_STAT l
  unfold R.PORT_LCHAN R.OPT_LANE_STAT
  omega

section
variable {l : LaneNo} {ok : Bool} {c : BitVec 16} {d : Dev}

theorem spareTakeoverDone_idle (h : Fin.ofNat 16 l.val ∉ (d.agent (l.val / 16)).taking) : spareTakeoverDone l ok c d = d := by
  rw [spareTakeoverDone]
  exact if_pos (by simpa using h)

theorem spareTakeoverDone_taking (h : Fin.ofNat 16 l.val ∈ (d.agent (l.val / 16)).taking) : spareTakeoverDone l ok c d =
    let e := (d.modAgent (l.val / 16) (fun a => { a with taking := a.taking.filter (fun y => y != Fin.ofNat 16 l.val) })).set
      (R.OPT_LANE_STAT_TUNED l.val) c.toNat
    if ok && c.toNat == sendOf d l.val then
      ((agentRelease (l.val / 16) (2 + l.val) ((e.set (R.OPT_LANE_STAT_HELD l.val) 0).set (R.OPT_LANE_STAT_SPARE l.val) 1)).drop
        (R.OPT_MOD_STAT_SPARES (l.val / 16))).bump (R.OPT_CNT_COUNT 3)
    else takeoverFails l.val e := by
  have hsend := sendOf_setTuned l.val c.toNat
    (d.modAgent (l.val / 16) (fun a => { a with taking := a.taking.filter (fun y => y != Fin.ofNat 16 l.val) }))
  have hsame : sendOf (d.modAgent (l.val / 16) (fun a => { a with taking := a.taking.filter (fun y => y != Fin.ofNat 16 l.val) })) l.val =
    sendOf d l.val := rfl
  rw [spareTakeoverDone]
  refine (if_neg (by simpa using h)).trans ?_
  dsimp only
  rw [hsend, hsame]
end

/-! ### The mailbox (R432, R434) -/

section
variable {m : ModNo} {d : Dev}

theorem busTransactionEnd_ok (data : List Byte) : busTransactionEnd m (.ok data) d =
    if (d.agent m.val).mbxRunning then endMailbox m.val 0 data d
    else if (d.modAgent m.val (fun a => { a with busy := false })).on (R.OPT_MBX_CTL_BUSY m.val) then
      startMailbox m (d.modAgent m.val (fun a => { a with busy := false }))
    else d.modAgent m.val (fun a => { a with busy := false }) := rfl

/-- What of the mailbox and the agent a write of OPT_MBX_CTL leaves. -/
theorem mailboxWrite_keeps (w : CsrW) : let e := (writeOwn RF.OPT_MBX_CTL (R.OPT_MBX_CTL m.val) w d).set (R.OPT_MBX_CTL_GO m.val) 0
    mailboxRefused e m.val = mailboxRefused d m.val ∧ e.agent m.val = d.agent m.val := by
  intro e
  have hw := writeOwn_writes RF.OPT_MBX_CTL (R.OPT_MBX_CTL m.val) w d
  have hget (a lo n : Nat) (ha : a ≠ R.OPT_MBX_CTL m.val) (hq : R.GLB_EVT_CNT < a) : e.get ⟨a, lo, n⟩ = d.get ⟨a, lo, n⟩ :=
    (Dev.get_set_ne _ _ _ _ ha).trans (hw.get _ ha (not_isEvtReg_of_lt hq))
  have hctl (lo n : Nat) : e.get ⟨R.OPT_MOD_CTL m.val, lo, n⟩ = d.get ⟨R.OPT_MOD_CTL m.val, lo, n⟩ :=
    hget _ _ _ (by unfold R.OPT_MOD_CTL R.OPT_MBX_CTL; omega) (lt_of_lt_of_le (by decide) (Nat.le_add_right 0x04001008 _))
  have hcmd (lo n : Nat) : e.get ⟨R.OPT_MBX_CMD m.val, lo, n⟩ = d.get ⟨R.OPT_MBX_CMD m.val, lo, n⟩ :=
    hget _ _ _ (by unfold R.OPT_MBX_CMD R.OPT_MBX_CTL; omega) (lt_of_lt_of_le (by decide) (Nat.le_add_right 0x0400100C _))
  have hspare (lo n : Nat) : e.get ⟨R.OPT_SPARE_CFG m.val, lo, n⟩ = d.get ⟨R.OPT_SPARE_CFG m.val, lo, n⟩ :=
    hget _ _ _ (by unfold R.OPT_SPARE_CFG R.OPT_MBX_CTL; omega) (lt_of_lt_of_le (by decide) (Nat.le_add_right 0x04001014 _))
  refine ⟨?_, ?_⟩
  · simp only [mailboxRefused, Dev.on, R.OPT_MBX_CMD_PAGE, R.OPT_MOD_CTL_AUTO, R.OPT_MBX_CMD_WR, R.OPT_SPARE_CFG_SPAREN, R.OPT_SPARE_CFG_VPAGE,
      hctl, hcmd, hspare]
  · have hopt : e.opt = d.opt := hw.opt
    rw [Dev.agent, Dev.agent, hopt]

/-- GO on an idle mailbox: refused, or sent at once or after the agent's transaction. -/
theorem moduleMailbox_go {w : CsrW} (hg : wOn w (R.OPT_MBX_CTL_GO m.val) = true) (hb : d.on (R.OPT_MBX_CTL_BUSY m.val) = false) :
    moduleMailbox m w d =
      let e := (writeOwn RF.OPT_MBX_CTL (R.OPT_MBX_CTL m.val) w d).set (R.OPT_MBX_CTL_GO m.val) 0
      if mailboxRefused d m.val then e.set (R.OPT_MBX_CTL_RESULT m.val) 3
      else ((if (d.agent m.val).busy then e else startMailbox m e).set (R.OPT_MBX_CTL_RESULT m.val) 0).set (R.OPT_MBX_CTL_BUSY m.val) 1 := by
  obtain ⟨hrefused, hagent⟩ := mailboxWrite_keeps (m := m) (d := d) w
  rw [moduleMailbox, hg, hb]
  dsimp only at hrefused hagent ⊢
  rw [hrefused, hagent]
  rfl
end

/-- Settles O53. That a poll clears INT (log 60) and what a poll finds (log 58) are the model's choice. -/
theorem modules : Obligations.Modules := by
  refine ⟨?insert, ?remove, ?interrupt, ?poll, fun d m f hf hw hr => agentActs_clean hf hw hr, peerFault1_iff, ?retune, ?attempt, ?takeover,
    ?bus, ?mailbox⟩
  case insert =>
    intro s m fits f hrun hfit d e
    have run {fits : Bool} {x : Dev} (h : moduleInsert m fits f s.dev = x) : exec (.moduleInsert m fits f) s = .next (s.setDev x) :=
      (onDev_whenRunning _ s hrun).trans (next_setDev s h)
    refine ⟨fun hm => run (moduleInsert_unmanaged hfit hm), fun hm h5 => run ((moduleInsert_managed hfit hm).trans ?_),
      fun hm => run (moduleInsert_managed hfit hm)⟩
    exact congrArg (agentPoll m f) (if_neg h5)
  case remove =>
    intro s m hrun hfit
    refine (onDev_whenRunning _ s hrun).trans ?_
    rw [moduleRemove, hfit]; rfl
  case interrupt =>
    intro s m f hrun hfit
    refine (onDev_whenRunning _ s hrun).trans ?_
    rw [moduleInterrupt, hfit]; rfl
  case poll =>
    intro s m f ha hm hp
    refine ⟨fun h => (onDev_whenApplied _ s ha).trans (next_setDev s ?_), fun h => onDev_whenApplied_same _ s ?_⟩
    · rw [moduleFlagPoll, if_pos (by simp [hm, hp, h])]
    · rw [moduleFlagPoll, if_neg (by simp [h])]
  case retune =>
    intro s m late tuned ha
    refine ⟨fun h => onDev_whenApplied_same _ s (retuneComplete_none h), fun h => ?_⟩
    intro d
    have run {x : Dev} (hx : (if (wrongLanes m.val d).isEmpty && (d.agent m.val).retuning.isEmpty then endRetune m.val d else d) = x) :
        exec (.retuneComplete m late tuned) s = .next (s.setDev x) :=
      (onDev_whenApplied _ s ha).trans (next_setDev s ((retuneComplete_some h).trans hx))
    refine ⟨fun hw hr => run (if_pos (by rw [hw, hr]; rfl)), fun h => run (if_neg ?_)⟩
    simpa [or_iff_not_imp_left] using h
  case attempt =>
    intro d m late x l out
    exact ⟨attemptDone_tuned, fun h => ⟨fun hlt => (attemptDone_failed h).trans (if_pos hlt),
      fun hle => (attemptDone_failed h).trans (if_neg (Nat.not_lt.mpr hle))⟩⟩
  case takeover =>
    intro s l ok c ha m x d
    refine ⟨fun h => onDev_whenApplied_same _ s (spareTakeoverDone_idle h), fun h hbad => ?_, fun h hok hc => ?_⟩
    · refine (onDev_whenApplied _ s ha).trans (next_setDev s ((spareTakeoverDone_taking h).trans (if_neg ?_)))
      rcases hbad with hb | hb <;> simp [hb]
    · exact (onDev_whenApplied _ s ha).trans (next_setDev s ((spareTakeoverDone_taking h).trans (if_pos (by simp [hok, hc]))))
  case bus =>
    intro s m data ha
    have run (e : BusEnd) {x : Dev} (h : busTransactionEnd m e s.dev = x) : exec (.busTransactionEnd m e) s = .next (s.setDev x) :=
      (onDev_whenApplied _ s ha).trans (next_setDev s h)
    refine ⟨fun hr => ⟨run _ ((busTransactionEnd_ok data).trans (if_pos hr)), run _ (if_pos hr), run _ (if_pos hr)⟩, fun hr hb => ?_⟩
    exact run _ ((busTransactionEnd_ok data).trans ((if_neg (Bool.eq_false_iff.mp hr)).trans (if_neg (Bool.eq_false_iff.mp hb))))
  case mailbox =>
    intro s m w ha hfit hg hb d
    have run {x : Dev} (h : moduleMailbox m w s.dev = x) : exec (.moduleMailbox m w) s = .next (s.setDev x) :=
      (onDev_onUnit (fun d => modFitted d m.val) _ w _ s (Dev.applied_running _ ha) hfit).trans (next_setDev s h)
    have hgo := moduleMailbox_go hg hb
    refine ⟨fun hr => run (hgo.trans (if_pos hr)), fun hr hbusy => run (hgo.trans ?_), fun hr hidle => run (hgo.trans ?_)⟩
    · rw [hr, hbusy]; rfl
    · rw [hr, hidle]; rfl

end Sys2Proof.Machine
end

section
/-! Bypass windows (O54): R443 to R449. -/

namespace Sys2Proof.Machine

/-! ### Windows that stand (R444) -/

/-- A window may be armed beside fewer than four others, each four turns away. -/
theorem conflicts_false {d : Dev} {w : Nat} (h : conflicts d w = false) :
    d.opt.windows.length < 4 ∧ ∀ x ∈ d.opt.windows, x.w + 4 ≤ w ∨ w + 4 ≤ x.w := by
  rw [conflicts, Bool.or_eq_false_iff, decide_eq_false_iff_not, List.any_eq_false] at h
  obtain ⟨hlen, hall⟩ := h
  refine ⟨Nat.not_le.mp hlen, fun x hx => ?_⟩
  have hx := hall x hx
  simp only [Bool.and_eq_true, decide_eq_true_eq] at hx
  omega

/-! ### Software arms and cancels (R444, R446, R451) -/

/-- The device after a write of OPT_BYP_ARM, whose GO and CANCEL clear themselves. -/
def armWritten (w : CsrW) (d : Dev) : Dev :=
  ((writeOwn RF.OPT_BYP_ARM R.OPT_BYP_ARM w d).set R.OPT_BYP_ARM_GO 0).set R.OPT_BYP_ARM_CANCEL 0

section
variable {w : CsrW} {d : Dev}

theorem armWritten_rd {a : Nat} (ha : a ≠ R.OPT_BYP_ARM) (he : ¬ isEvtReg a) : (armWritten w d).rd a = d.rd a :=
  (Dev.rd_set_ne _ _ _ _ ha).trans ((Dev.rd_set_ne _ _ _ _ ha).trans ((writeOwn_writes _ _ w d).rd a ha he))

theorem armWritten_opt : (armWritten w d).opt = d.opt :=
  (writeOwn_writes RF.OPT_BYP_ARM R.OPT_BYP_ARM w d).opt

theorem armWritten_turn : (armWritten w d).turn = d.turn := by
  have h0 : (armWritten w d).rd R.GLB_TURN_NUM = d.rd R.GLB_TURN_NUM := armWritten_rd (by decide) (by unfold isEvtReg; decide)
  have h1 : (armWritten w d).rd (R.GLB_TURN_NUM + 4) = d.rd (R.GLB_TURN_NUM + 4) := armWritten_rd (by decide) (by unfold isEvtReg; decide)
  rw [Dev.turn, Dev.turn, Dev.rd64, Dev.rd64, h0, h1]

theorem armWritten_armw : (armWritten w d).rd64 R.OPT_BYP_ARMW = d.rd64 R.OPT_BYP_ARMW := by
  have h0 : (armWritten w d).rd R.OPT_BYP_ARMW = d.rd R.OPT_BYP_ARMW := armWritten_rd (by decide) (by unfold isEvtReg; decide)
  have h1 : (armWritten w d).rd (R.OPT_BYP_ARMW + 4) = d.rd (R.OPT_BYP_ARMW + 4) := armWritten_rd (by decide) (by unfold isEvtReg; decide)
  rw [Dev.rd64, Dev.rd64, h0, h1]

theorem armWritten_minLead : minLead (armWritten w d) = minLead d := by
  have h0 : (armWritten w d).rd R.OPT_BYP_CFG = d.rd R.OPT_BYP_CFG := armWritten_rd (by decide) (by unfold isEvtReg; decide)
  exact congrArg (fun x : Word => max 2 (bitsOf x.toNat R.OPT_BYP_CFG_MINLEAD.lo R.OPT_BYP_CFG_MINLEAD.w)) h0

theorem armWritten_planValid (p : Nat) : planValid (armWritten w d) p = planValid d p := by
  have h0 : (armWritten w d).rd (R.OPT_BYP_PLAN_A p) = d.rd (R.OPT_BYP_PLAN_A p) := by
    refine armWritten_rd ?_ (not_isEvtReg_of_lt (lt_of_lt_of_le (by decide) (Nat.le_add_right 0x04000400 (8 * p))))
    unfold R.OPT_BYP_PLAN_A R.OPT_BYP_ARM
    omega
  have hcount : (armWritten w d).get (R.OPT_BYP_PLAN_A_COUNT p) = d.get (R.OPT_BYP_PLAN_A_COUNT p) :=
    congrArg (fun x : Word => bitsOf x.toNat _ _) h0
  have hbase : (armWritten w d).get (R.OPT_BYP_PLAN_A_BASE p) = d.get (R.OPT_BYP_PLAN_A_BASE p) :=
    congrArg (fun x : Word => bitsOf x.toNat _ _) h0
  rw [planValid, planValid, hcount, hbase]

theorem armWritten_conflicts (t : Nat) : conflicts (armWritten w d) t = conflicts d t := by rw [conflicts, conflicts, armWritten_opt]

theorem armWritten_armed (p : Fin 64) (t : Nat) : armed (armWritten w d) p t = armed d p t := by rw [armed, armed, armWritten_opt]

theorem armWritten_cancellable (x : Window) : cancellable (armWritten w d) x = cancellable d x := by
  rw [cancellable, cancellable, armWritten_turn]

/-- GO arms the plan under the conditions that held before the write. -/
theorem bypassArm_eq : bypassArm w d =
    if !wOn w R.OPT_BYP_ARM_GO || !planValid d (Fin.ofNat 64 (wBits w R.OPT_BYP_ARM_PLAN)).val ||
      decide (d.rd64 R.OPT_BYP_ARMW ≤ d.turn + minLead d) || conflicts d (d.rd64 R.OPT_BYP_ARMW) then armWritten w d
    else armWindow (Fin.ofNat 64 (wBits w R.OPT_BYP_ARM_PLAN)) (d.rd64 R.OPT_BYP_ARMW) (wOn w R.OPT_BYP_ARM_SEND) (armWritten w d) := by
  rw [← armWritten_planValid (w := w), ← armWritten_armw (w := w), ← armWritten_turn (w := w), ← armWritten_minLead (w := w),
    ← armWritten_conflicts (w := w)]
  rfl

theorem bypassCancel_eq : bypassCancel w d =
    if !wOn w R.OPT_BYP_ARM_CANCEL then armWritten w d
    else (armed d (Fin.ofNat 64 (wBits w R.OPT_BYP_ARM_PLAN)) (d.rd64 R.OPT_BYP_ARMW)).elim (armWritten w d) (fun x =>
      if cancellable d x then disarm x (if wOn w R.OPT_BYP_ARM_SEND then sendCancels x (armWritten w d) else armWritten w d)
      else armWritten w d) := by
  have harmed := armWritten_armed (w := w) (d := d) (Fin.ofNat 64 (wBits w R.OPT_BYP_ARM_PLAN)) (d.rd64 R.OPT_BYP_ARMW)
  rw [← armWritten_armw (w := w)] at harmed ⊢
  rw [← harmed, bypassCancel]
  refine if_congr Iff.rfl rfl ?_
  show (match armed (armWritten w d) (Fin.ofNat 64 (wBits w R.OPT_BYP_ARM_PLAN)) ((armWritten w d).rd64 R.OPT_BYP_ARMW) with
    | some x => if cancellable (armWritten w d) x then
        disarm x (if wOn w R.OPT_BYP_ARM_SEND then sendCancels x (armWritten w d) else armWritten w d) else armWritten w d
    | none => armWritten w d) = _
  cases armed (armWritten w d) (Fin.ofNat 64 (wBits w R.OPT_BYP_ARM_PLAN)) ((armWritten w d).rd64 R.OPT_BYP_ARMW) with
  | none => rfl
  | some x => exact if_congr (by rw [armWritten_cancellable]) rfl rfl
end

/-! ### Triggers (R444) -/

section
variable {n : Nat} {d : Dev}

theorem bypassTrigger_off (h : SMap.get? d.opt.trigCommits n = none) : bypassTrigger n d = d := by rw [bypassTrigger, h]

variable {b : Nat} (hb : SMap.get? d.opt.trigCommits n = some b)
include hb

theorem bypassTrigger_waits (h : (commitsOf d (d.get (R.OPT_BYP_TRIG_A_GIDX n)) + 2 ^ 32 - b) % 2 ^ 32 < d.get (R.OPT_BYP_TRIG_B_NCHUNK n)) :
    bypassTrigger n d = d := by
  simp only [bypassTrigger, hb, h, if_true]

/-- Once COMMITS have advanced by NCHUNK the plan is armed, and its messages sent. -/
theorem bypassTrigger_fires (h : d.get (R.OPT_BYP_TRIG_B_NCHUNK n) ≤ (commitsOf d (d.get (R.OPT_BYP_TRIG_A_GIDX n)) + 2 ^ 32 - b) % 2 ^ 32)
    (hv : planValid d (d.get (R.OPT_BYP_TRIG_A_PLAN n)) = true) (hp : d.get (R.OPT_BYP_TRIG_A_PLAN n) < 64)
    (hc : conflicts d (divUp (d.turn + leadOf d) 4 * 4) = false) :
    bypassTrigger n d = armWindow (Fin.ofNat 64 (d.get (R.OPT_BYP_TRIG_A_PLAN n))) (divUp (d.turn + leadOf d) 4 * 4) true
      { d with opt := { d.opt with
        trigCommits := SMap.set d.opt.trigCommits n (if d.on (R.OPT_BYP_TRIG_A_REPEAT n) then some (commitsOf d (d.get (R.OPT_BYP_TRIG_A_GIDX n))) else none) } } := by
  have hplan : (Fin.ofNat 64 (d.get (R.OPT_BYP_TRIG_A_PLAN n))).val = d.get (R.OPT_BYP_TRIG_A_PLAN n) := Nat.mod_eq_of_lt hp
  rw [bypassTrigger, hb]
  refine (if_neg (Nat.not_lt.mpr h)).trans (if_neg ?_)
  rw [Bool.or_eq_true, not_or, Bool.not_eq_true', Bool.not_eq_false, Bool.not_eq_true]
  exact ⟨(congrArg (planValid d) hplan).trans hv, hc⟩
end

/-! ### Messages (R445 to R447) -/

theorem takePhase_nil {kind : Nat} {f : PhaseMsg → Dev → Dev} {d : Dev} (h : d.opt.inbox = []) : takePhase kind f d = d := by
  rw [takePhase, h]

/-- The message at the front is taken by the command of its PKIND alone. -/
theorem takePhase_cons {kind : Nat} {f : PhaseMsg → Dev → Dev} {d : Dev} {via : Bool} {bs : List Byte} {rest : List (Bool × List Byte)}
    (h : d.opt.inbox = (via, bs) :: rest) : takePhase kind f d =
      if beBits (ofpPayload bs) 4 1 3 0 = kind then f (phaseOf via bs) { d with opt := { d.opt with inbox := rest } } else d := by
  rw [takePhase, h]

/-- What an ARM is answered, in the order of its table. -/
theorem armReceived_known {x : PhaseMsg} {d : Dev} (hm : d.get R.GLB_TURN_STATUS_MODE ≠ 0) (hv : planValid d x.plan.val = true) :
    armReceived x d = if (armed d x.plan x.wturn).isSome then answerPhase 2 0 x d
      else if x.wturn < d.turn + minLead d then answerPhase 3 1 x d
      else if conflicts d x.wturn then answerPhase 3 3 x d
      else answerPhase 2 0 x (armWindow x.plan x.wturn false d) := by
  rw [armReceived, if_neg hm, if_neg (by rw [hv]; decide)]

theorem phaseBytes_length (kind mseq : Nat) (x : PhaseMsg) : (phaseBytes kind mseq x).length = 40 := by
  simp only [phaseBytes, timeValue, List.length_append, beBytes_length, zeros_length, List.length_cons, List.length_nil]

theorem phaseBytes_kind (kind mseq : Nat) (x : PhaseMsg) (h : kind < 16) : beBits (phaseBytes kind mseq x) 4 1 3 0 = kind := by
  have hat : beAt (phaseBytes kind mseq x) 4 1 = 16 + kind := by
    simp only [phaseBytes, List.append_assoc]
    rw [beAt_append_right _ _ (by decide), beAt_append_right _ _ (by rw [beBytes_length]; decide), beBytes_length,
      beAt_append_left _ _ (by rw [beBytes_length]; decide)]
    exact beAt_beBytes_of_lt (by omega)
  rw [beBits, hat, bitsOf]
  omega

/-! ### The steps of a window (R447, R448) -/

theorem Dev.Quiet.bypassPort {d e : Dev} (h : d.Quiet e) (p : Nat) : bypassPort e p = bypassPort d p := by
  have hq (a : Nat) (ha : R.GLB_EVT_CNT < a) (lo w : Nat) : e.get ⟨a, lo, w⟩ = d.get ⟨a, lo, w⟩ := h.get _ (not_isEvtReg_of_lt ha)
  have hlock : e.on (R.PORT_PCTL_FTXLOCK p) = d.on (R.PORT_PCTL_FTXLOCK p) :=
    congrArg (· == 1) (hq _ (lt_of_lt_of_le (by decide) (Nat.le_trans (Nat.le_add_right _ _) (Nat.le_add_right _ _))) _ _)
  have hloop : inLoopback e p = inLoopback d p := congrArg (· == 9) (hq _ (lt_of_lt_of_le (by decide) (pstat_ge p)) _ _)
  rw [Machine.bypassPort, Machine.bypassPort, h.sameLayout.isPort, h.sameLayout.isOfp, hlock, hloop]

theorem each_quiet {α : Type} (l : List α) (f : α → Dev → Dev) (h : ∀ x d, Dev.Quiet d (f x d)) (d : Dev) : d.Quiet (Dev.each l f d) :=
  .foldl (fun d x => f x d) l (fun d x => h x d) d

section
variable {p : Fin 64} {x : Window} {d : Dev}

/-- At W − 2 the ports leave their sets; the entries of others raise their event. -/
theorem bypassLeaveSets_due (h : dueWindow d p 0 2 0 = some x) : bypassLeaveSets p d =
    modWindow x (fun y => { y with stage := 1, ports := (planEntries d p.val).filter (fun e => bypassPort d e.1.val) })
      (Dev.each ((planEntries d p.val).filter (fun e => !bypassPort d e.1.val)) (fun e d => raiseCE blkOpt 6 p.val d e.1.val) d) := by
  have hq := each_quiet ((planEntries d p.val).filter (fun e => !bypassPort d e.1.val)) (fun e d => raiseCE blkOpt 6 p.val d e.1.val)
    (fun _ _ => raiseCE_quiet _ _ _ _ _ _) d
  have hport : (fun e : PortNo × Nat × BitVec 4 × Word => bypassPort
      (Dev.each ((planEntries d p.val).filter (fun e => !bypassPort d e.1.val)) (fun e d => raiseCE blkOpt 6 p.val d e.1.val) d) e.1.val) =
      fun e => bypassPort d e.1.val := funext fun e => hq.bypassPort e.1.val
  simp only [bypassLeaveSets, h, hport]

theorem bypassAckCheck_missing (h : dueWindow d p 0 2 0 = some x) (ho : x.originator = true) (hreq : d.on R.OPT_BYP_CFG_ACKREQ = true)
    (hack : x.nakd = true ∨ ∃ e ∈ x.sendTo, e ∉ x.acked) : bypassAckCheck p d = disarm x (sendCancels x d) := by
  have hmiss : (x.nakd || x.sendTo.any (fun e => !x.acked.contains e)) = true := by
    rcases hack with hn | ⟨e, he, hne⟩
    · rw [hn]; rfl
    · rw [List.any_eq_true.mpr ⟨e, he, by simpa using hne⟩, Bool.or_true]
  simp only [bypassAckCheck, h, ho, hreq, hmiss, Bool.and_self, if_true]

theorem bypassAckCheck_acked (h : dueWindow d p 0 2 0 = some x) (hok : x.originator = false ∨ d.on R.OPT_BYP_CFG_ACKREQ = false ∨
    (x.nakd = false ∧ ∀ e ∈ x.sendTo, e ∈ x.acked)) : bypassAckCheck p d = d := by
  rw [bypassAckCheck, h]
  refine if_neg ?_
  rcases hok with ho | hreq | ⟨hn, hall⟩
  · simp [ho]
  · simp [hreq]
  · simpa [hn] using fun _ _ => hall

/-- With no port held by the module agent, nothing is skipped at W. -/
theorem bypassStep0_unheld (h : dueWindow d p 1 0 0 = some x) (hheld : ∀ e ∈ x.ports, agentHeld d e.1.val = false) (hlater : d.opt.later = []) :
    bypassStep0 p d = if d.get R.GLB_TURN_STATUS_MODE = 0 then abandon x (modWindow x (fun _ => x) d)
      else modWindow x (fun _ => { x with stage := 2 }) (d.set R.OPT_BYP_STAT_STEP 0) := by
  have hskip : x.ports.filter (fun e => agentHeld d e.1.val) = [] := List.filter_eq_nil_iff.mpr fun e he => by simp [hheld e he]
  have hstay : x.ports.filter (fun e => !agentHeld d e.1.val) = x.ports := List.filter_eq_self.mpr fun e he => by simp [hheld e he]
  have hopt : { d with opt := { d.opt with later := [] } } = d := by
    have : { d.opt with later := [] } = d.opt := by rw [← hlater]
    rw [this]
  rw [bypassStep0, h]
  dsimp only
  rw [hskip, hlater]
  simp only [List.filter_nil, List.map_nil, List.append_nil, hopt, hstay]

theorem bypassStep1_due (h : dueWindow d p 2 0 1 = some x) :
    bypassStep1 p d = modWindow x (fun y => { y with stage := 3 }) ((Dev.each x.ports portStep1 d).set R.OPT_BYP_STAT_STEP 1) := by
  rw [bypassStep1, h]

theorem bypassStep2_due (h : dueWindow d p 3 0 2 = some x) :
    bypassStep2 p d = modWindow x (fun y => { y with stage := 4 }) ((Dev.each x.ports portStep2 d).set R.OPT_BYP_STAT_STEP 2) := by
  rw [bypassStep2, h]

theorem bypassStep3_due (h : dueWindow d p 4 0 4 = some x) : bypassStep3 p d = agentsResume (dropWindow x
    (((Dev.each x.ports (fun e d => if d.isUp e.1.val then d else countDown e.1.val (raiseCE blkOpt 7 p.val d e.1.val)) d).set
      R.OPT_BYP_STAT_STEP 3).bump (R.OPT_CNT_COUNT 6))) := by
  rw [bypassStep3, h]
end

/-- A port at step 1 has its new tag, is squelched, and is not counted as down. -/
theorem portStep1_leaves (d : Dev) (e : PortNo × Nat × BitVec 4 × Word) : (portStep1 e d).get (R.OPT_PTAG_TAG e.1.val) = e.2.2.1.toNat ∧
    ((portStep1 e d).link e.1.val).squelched = true ∧ ((portStep1 e d).link e.1.val).downSince = none := by
  unfold portStep1
  extract_lets was e1 e2
  clear_value was e1
  have hdown : (noDownflush e.1.val e1).link e.1.val = { e1.link e.1.val with downSince := none } := by
    rw [noDownflush, Dev.modLink_eq, Dev.link_setLink_same]
  have hlink : e2.link e.1.val = { (noDownflush e.1.val e1).link e.1.val with stage := 8 } := by
    unfold e2
    exact showStage_link _ _ _
  rw [hdown] at hlink
  clear_value e2
  have hnext : (e2.modLink e.1.val (fun l => { l with squelched := true, flushed := was })).link e.1.val =
      { e2.link e.1.val with squelched := true, flushed := was } := by rw [Dev.modLink_eq, Dev.link_setLink_same]
  generalize e2.modLink e.1.val (fun l => { l with squelched := true, flushed := was }) = e3 at hnext
  have hlast : ((e3.set (R.OPT_PTAG_TAG e.1.val) e.2.2.1.toNat).emit (.squelch e.1)).link e.1.val = e3.link e.1.val := rfl
  refine ⟨?_, ?_, ?_⟩
  · rw [Dev.get_emit, Dev.get_set_same _ _ _ (show 0 + 4 ≤ 32 by decide)]
    exact Nat.mod_eq_of_lt e.2.2.1.isLt
  · rw [hlast, hnext]
  · rw [hlast, hnext, hlink]

/-! ### Windows that are abandoned (R449) -/

theorem showBypass_opt (d : Dev) : (showBypass d).opt = d.opt := by
  unfold showBypass; dsimp only
  split <;> rfl

theorem modWindow_windows (x : Window) (f : Window → Window) (d : Dev) :
    (modWindow x f d).opt.windows = d.opt.windows.map (fun y => if y.plan = x.plan ∧ y.w = x.w then f y else y) :=
  congrArg (·.windows) (showBypass_opt _)

/-- An abandoned window is marked, and the event shown. -/
theorem abandon_leaves (x : Window) (d : Dev) : (abandon x d).on R.OPT_BYP_STAT_ABEVT = true ∧
    ∀ y ∈ (abandon x d).opt.windows, y.plan = x.plan → y.w = x.w → y.abandoned = true := by
  unfold abandon
  extract_lets e1 e2
  have hq := raiseCE_quiet blkOpt 8 x.plan.val ((e2.set R.OPT_BYP_STAT_ABEVT 1).bump (R.OPT_CNT_COUNT 7)) 0 0
  refine ⟨?_, fun y hy hp hw => ?_⟩
  · refine (hq.on R.OPT_BYP_STAT_ABEVT (by unfold isEvtReg; decide)).trans ?_
    have hget : ((e2.set R.OPT_BYP_STAT_ABEVT 1).bump (R.OPT_CNT_COUNT 7)).get R.OPT_BYP_STAT_ABEVT = 1 :=
      (Dev.get_set_ne _ _ _ _ (by decide)).trans (Dev.get_set_same _ _ _ (by decide))
    exact congrArg (· == 1) hget
  · have hmem : y ∈ e2.opt.windows := by rw [hq.opt] at hy; exact hy
    unfold e2 at hmem
    rw [modWindow_windows] at hmem
    obtain ⟨z, -, rfl⟩ := List.mem_map.mp hmem
    by_cases hz : z.plan = x.plan ∧ z.w = x.w
    · rw [if_pos hz]
    · rw [if_neg hz] at hp hw
      exact absurd ⟨hp, hw⟩ hz

/-- At W + 4 the window that is alone with its plan ends. -/
theorem bypassAbandonEnd_alone {p : Fin 64} {x : Window} {d : Dev} (hx : x ∈ d.opt.windows) (hp : x.plan = p) (ha : x.abandoned = true)
    (hw : x.w + 4 ≤ d.turn) (halone : ∀ y ∈ d.opt.windows, y.plan = p → y = x) : bypassAbandonEnd p d =
    agentsResume (Dev.each x.ports (fun e d => countDown e.1.val (startTraining e.1.val
      ((d.set (R.OPT_PTAG_TAG e.1.val) e.2.2.1.toNat).wr (R.PORT_RELOCK_PEER e.1.val) e.2.2.2))) (dropWindow x d)) := by
  have hfound : d.opt.windows.find? (fun x => x.plan == p && x.abandoned && decide (x.w + 4 ≤ d.turn)) = some x := by
    cases hf : d.opt.windows.find? (fun x => x.plan == p && x.abandoned && decide (x.w + 4 ≤ d.turn)) with
    | none => exact absurd (by simp [hp, ha, hw]) (List.find?_eq_none.mp hf x hx)
    | some y =>
      have hy := List.find?_some hf
      simp only [Bool.and_eq_true, beq_iff_eq] at hy
      obtain ⟨⟨hplan, -⟩, -⟩ := hy
      rw [halone y (List.mem_of_find?_eq_some hf) hplan]
  rw [bypassAbandonEnd, hfound]

/-- Settles O54. A late window, a skipped port and an abandoned window's end (logs 55 to 57) are the model's choice. -/
theorem bypass : Obligations.Bypass := by
  refine ⟨fun d w h => conflicts_false h, ?software, ?trigger, ?message, ?empty, fun kind mseq x => ⟨phaseBytes_length _ _ _, phaseBytes_kind _ _ _⟩,
    ?arm, ?answers, ?early, ?step0, ?free, ?steps, portStep1_leaves, abandon_leaves, ?ended⟩
  case software =>
    intro s w hrun d p t
    have hga (x : Dev) (h : bypassArm w s.dev = x) : exec (.bypassArm w) s = .next (s.setDev x) :=
      (onDev_whenRunning _ s hrun).trans (next_setDev s h)
    have hgc (x : Dev) (h : bypassCancel w s.dev = x) : exec (.bypassCancel w) s = .next (s.setDev x) :=
      (onDev_whenRunning _ s hrun).trans (next_setDev s h)
    refine ⟨fun hgo hplan hlead hconf => hga _ (bypassArm_eq.trans (if_neg ?_)), fun h => hga _ (bypassArm_eq.trans (if_pos ?_)),
      fun x hcan harm hok => hgc _ (bypassCancel_eq.trans ?_), fun h => hgc _ (bypassCancel_eq.trans ?_)⟩
    · have hlate : decide (t ≤ s.dev.turn + minLead s.dev) = false := decide_eq_false (Nat.not_le.mpr hlead)
      rw [hgo, hplan, hlate, hconf]
      decide
    · rcases h with h | h | h | h
      · rw [h]; rfl
      · rw [h, Bool.not_false, Bool.or_true]; rfl
      · rw [decide_eq_true h, Bool.or_true]; rfl
      · rw [h, Bool.or_true]
    · rw [hcan, harm]
      exact if_pos hok
    · rcases h with h | h | ⟨x, h, hno⟩
      · rw [h]; rfl
      · rw [h]; exact ite_self _
      · rw [h]
        refine Eq.trans (if_congr Iff.rfl rfl ?_) (ite_self _)
        exact if_neg (Bool.eq_false_iff.mp hno)
  case trigger =>
    intro s n ha c
    exact ⟨fun h => onDev_whenApplied_same _ s (bypassTrigger_off h), fun b hb h => onDev_whenApplied_same _ s (bypassTrigger_waits hb h),
      fun b hb h hv hp hc => (onDev_whenApplied _ s ha).trans (next_setDev s (bypassTrigger_fires hb h hv hp hc))⟩
  case message =>
    intro s via bs rest ha hin kind d
    have taken (n : Nat) (f : PhaseMsg → Dev → Dev) (h : kind = n) :
        onDev (Dev.whenApplied (takePhase n f)) s = .next (s.setDev (f (phaseOf via bs) d)) :=
      (onDev_whenApplied _ s ha).trans (next_setDev s ((takePhase_cons hin).trans (if_pos h)))
    have left (n : Nat) (f : PhaseMsg → Dev → Dev) (h : kind ≠ n) : onDev (Dev.whenApplied (takePhase n f)) s = .next s :=
      onDev_whenApplied_same _ s ((takePhase_cons hin).trans (if_neg h))
    exact ⟨taken 0 _, taken 1 _, taken 2 _, taken 3 _, left 0 _, left 1 _, left 2 _, left 3 _⟩
  case empty =>
    intro s hin
    have left (n : Nat) (f : PhaseMsg → Dev → Dev) : onDev (Dev.whenApplied (takePhase n f)) s = .next s :=
      onDev_whenApplied_same _ s (takePhase_nil hin)
    exact ⟨left 0 _, left 1 _, left 2 _, left 3 _⟩
  case arm =>
    intro d x
    refine ⟨fun hm => if_pos hm, fun hm => ⟨fun hv => (if_neg hm).trans (if_pos (by rw [hv]; rfl)), fun hv => ?_⟩⟩
    have hknown := armReceived_known hm hv
    refine ⟨fun hs => hknown.trans (if_pos hs), fun hn => ?_⟩
    have hnew := hknown.trans (if_neg (by rw [hn]; decide))
    refine ⟨fun hlate => hnew.trans (if_pos hlate), fun hlead => ?_⟩
    have htimely := hnew.trans (if_neg (Nat.not_lt.mpr hlead))
    exact ⟨fun hc => htimely.trans (if_pos hc), fun hc => htimely.trans (if_neg (Bool.eq_false_iff.mp hc))⟩
  case answers =>
    intro d x
    refine ⟨fun hn => ⟨by rw [cancelReceived, hn], by rw [ackReceived, hn], by rw [nakReceived, hn]⟩, fun y hy => ⟨fun hc => ?_, fun hc => ?_,
      fun ho => ⟨?_, ?_⟩⟩⟩
    · rw [cancelReceived, hy]; exact if_pos hc
    · rw [cancelReceived, hy]; exact if_neg (Bool.eq_false_iff.mp hc)
    · rw [ackReceived, hy]; exact if_pos ho
    · rw [nakReceived, hy]
      exact congrArg (fun e => Dev.bump e (R.OPT_CNT_COUNT 9)) (if_pos ho)
  case early =>
    intro s p x ha hdue
    exact ⟨fun ho hreq hack => (onDev_whenApplied _ s ha).trans (next_setDev s (bypassAckCheck_missing hdue ho hreq hack)),
      fun hok => onDev_whenApplied_same _ s (bypassAckCheck_acked hdue hok),
      (onDev_whenApplied _ s ha).trans (next_setDev s (bypassLeaveSets_due hdue))⟩
  case step0 =>
    intro s p x ha hdue hheld hlater hm
    exact (onDev_whenApplied _ s ha).trans (next_setDev s ((bypassStep0_unheld hdue hheld hlater).trans (if_neg hm)))
  case free =>
    intro s p x ha hdue hheld hlater hm
    exact (onDev_whenApplied _ s ha).trans (next_setDev s ((bypassStep0_unheld hdue hheld hlater).trans (if_pos hm)))
  case steps =>
    intro s p x ha
    exact ⟨fun h => (onDev_whenApplied _ s ha).trans (next_setDev s (bypassStep1_due h)),
      fun h => (onDev_whenApplied _ s ha).trans (next_setDev s (bypassStep2_due h)),
      fun h => (onDev_whenApplied _ s ha).trans (next_setDev s (bypassStep3_due h))⟩
  case ended =>
    intro s p x ha hx hp hab hw halone
    exact (onDev_whenApplied _ s ha).trans (next_setDev s (bypassAbandonEnd_alone hx hp hab hw halone))

end Sys2Proof.Machine
end

section
/-! Counters, clears and snapshot sets (O55): R455, R458 to R466. -/

namespace Sys2Proof.Machine

/-! ### Counters (R455, R458, R459) -/

section
variable (d : Dev) (c : Nat)

theorem ctr_setCtr (v : Nat × Bool) (k : Nat) : (d.setCtr c v).ctr k = if k = c then v else d.ctr k := SMap.getD_write _ _ _ _ _

theorem addSat_full (n : Nat) (h : (d.ctr c).2 = true) : d.addSat c n = (d, false) := if_pos h

theorem addSat_room (n : Nat) (h : (d.ctr c).2 = false) (hn : (d.ctr c).1 + n < 2 ^ 48) :
    d.addSat c n = (d.setCtr c ((d.ctr c).1 + n, false), false) :=
  (if_neg (Bool.eq_false_iff.mp h)).trans (if_neg (by unfold ctrMax; omega))

theorem addSat_overflow (n : Nat) (h : (d.ctr c).2 = false) (hn : 2 ^ 48 ≤ (d.ctr c).1 + n) :
    d.addSat c n = (d.setCtr c (ctrMax, true), true) :=
  (if_neg (Bool.eq_false_iff.mp h)).trans (if_pos (by unfold ctrMax; omega))

theorem addCtr_single (n : Nat) (h : d.chained c = false) :
    d.addCtr c n = ((d.addSat c n).1, if (d.addSat c n).2 && d.ovfEvt c then [c] else []) := if_neg (Bool.eq_false_iff.mp h)

/-- The lower half of a pair that stays below 2^48 carries nothing. -/
theorem addCtr_low (n : Nat) (h : d.chained c = true) (hn : (d.ctr c).1 + n < 2 ^ 48) :
    (d.addCtr c n).1 = d.setCtr c ((d.ctr c).1 + n, (d.ctr c).2) := by
  rw [Dev.addCtr, if_pos h]
  dsimp only
  rw [Nat.mod_eq_of_lt hn, if_pos (by unfold ctrMax; omega)]

/-- Past 2^48 it carries one into the upper half. -/
theorem addCtr_carry (n : Nat) (h : d.chained c = true) (hn : 2 ^ 48 ≤ (d.ctr c).1 + n) :
    (d.addCtr c n).1 = ((d.setCtr c (((d.ctr c).1 + n) % 2 ^ 48, (d.ctr c).2)).addSat (c + 1) 1).1 := by
  rw [Dev.addCtr, if_pos h]
  dsimp only
  rw [if_neg (by unfold ctrMax; omega)]

/-- A chained pair counts as one number. -/
theorem addCtr_pair (n : Nat) (h : d.chained c = true) (ho : (d.ctr (c + 1)).2 = false) (hn : (d.ctr c).1 + n < 2 ^ 49)
    (hu : (d.ctr (c + 1)).1 + 1 < 2 ^ 48) : ((d.addCtr c n).1.ctr c).1 + 2 ^ 48 * ((d.addCtr c n).1.ctr (c + 1)).1 =
      (d.ctr c).1 + n + 2 ^ 48 * (d.ctr (c + 1)).1 := by
  have hne : c + 1 ≠ c := Nat.succ_ne_self c
  rcases Nat.lt_or_ge ((d.ctr c).1 + n) (2 ^ 48) with hlt | hge
  · rw [addCtr_low d c n h hlt, ctr_setCtr, ctr_setCtr, if_pos rfl, if_neg hne]
  · rw [addCtr_carry d c n h hge]
    generalize he : d.setCtr c (((d.ctr c).1 + n) % 2 ^ 48, (d.ctr c).2) = e
    have hlow : e.ctr c = (((d.ctr c).1 + n) % 2 ^ 48, (d.ctr c).2) := by rw [← he, ctr_setCtr, if_pos rfl]
    have hup : e.ctr (c + 1) = d.ctr (c + 1) := by rw [← he, ctr_setCtr, if_neg hne]
    rw [addSat_room e (c + 1) 1 (by rw [hup, ho]) (by rw [hup]; exact hu), ctr_setCtr, ctr_setCtr, if_neg hne.symm, if_pos rfl, hlow, hup]
    dsimp only
    omega
end

/-! ### Reads (R460, R466) -/

/-- The latch of a pair is the last one taken for the requester. -/
theorem pairLatch_latchPair (r : ReqId) (n : Nat) (d : Dev) : pairLatch r n (latchPair r n d) = (crdWords n d).2 := by
  have hold : (d.crd.filter (fun e => e.1 != (r, n))).find? (fun e => e.1 == (r, n)) = none := by
    rw [List.find?_eq_none]
    intro e he
    have hne := (List.mem_filter.mp he).2
    simpa using hne
  have hfound : (latchPair r n d).crd.find? (fun e => e.1 == (r, n)) = some ((r, n), (crdWords n d).2) := by
    show (d.crd.filter (fun e => e.1 != (r, n)) ++ [((r, n), (crdWords n d).2)]).find? _ = _
    rw [List.find?_append, hold]
    simp
  rw [pairLatch, hfound]

/-- Whether user mode may read a counter does not change with what counts the read. -/
theorem Dev.Quiet.userMay {d e : Dev} (h : d.Quiet e) (c : Nat) : userMay c e = userMay c d := by
  have hflt : e.on (R.GAUGE_FLT_A_USER c) = d.on (R.GAUGE_FLT_A_USER c) :=
    h.on _ (not_isEvtReg_of_lt (lt_of_lt_of_le (by decide) (Nat.le_add_right 0x50100000 (0x10 * c))))
  have hports : e.on R.GAUGE_UCFG_PORTS = d.on R.GAUGE_UCFG_PORTS := h.on _ (by unfold isEvtReg; decide)
  rw [Machine.userMay, Machine.userMay, hflt, hports]

/-- A read of a counter's low word through the user window. -/
theorem userWindowRead_ctr (r : ReqId) (c : Fin 20480) (off : Nat) (hoff : off = 0x800000 + 8 * c.val) (d : Dev) : userWindowRead r off d =
    let e := countCsr r (R.GAUGE_CTR c.val + 0x400000) 0 1 d
    if userMay c.val d then (latchHigh r (R.GAUGE_CTR c.val) (BitVec.ofNat 32 (e.ctrWord c.val / 2 ^ 32)) e).emit
      (.csrRead r (BitVec.ofNat 32 (e.ctrWord c.val)))
    else (e.bump R.GAUGE_UDENY_COUNT).emit (.csrRead r 0) := by
  have hc := c.isLt
  have hin : ¬ (off < 0x800000 ∨ 0xB00000 ≤ off) := by omega
  have haddr : R.GAUGE_CLR_A + off = R.GAUGE_CTR c.val + 0x400000 := by unfold R.GAUGE_CLR_A R.GAUGE_CTR; omega
  have hidx : (off - 0x800000) / 8 = c.val := by omega
  have hword : (off - 0x800000) % 8 = 0 := by omega
  have hbank : off - 0x800000 < 8 * 20480 := by omega
  have hmay := (countCsr_quiet r (R.GAUGE_CTR c.val + 0x400000) 0 1 d).userMay c.val
  clear hoff
  unfold userWindowRead
  rw [if_neg hin, haddr]
  dsimp only
  rw [if_pos hbank, hidx, hword, hmay]
  cases userMay c.val d
  · exact if_pos (Bool.not_false)
  · exact (if_neg (by decide)).trans (if_pos rfl)

theorem userWindowRead_below (r : ReqId) (off : Nat) (d : Dev) (h : off < 0x800000) :
    userWindowRead r off d = d.emit (.csrFault (r.toNat % 256)) := if_pos (Or.inl h)

/-! ### Clears (R461) -/

/-- A clear takes its range, and BUSY with it. -/
theorem applyClear_leaves (d : Dev) (c : Nat) (h : d.on R.GAUGE_CLR_B_BUSY = true) : (applyClear d).on R.GAUGE_CLR_B_BUSY = false ∧
    (applyClear d).ctr c =
      if d.get R.GAUGE_CLR_A_FIRST ≤ c ∧ c < d.get R.GAUGE_CLR_A_FIRST + d.get R.GAUGE_CLR_A_NUM then (0, false) else d.ctr c := by
  rw [applyClear, if_neg (by rw [h]; decide)]
  refine ⟨?_, ?_⟩
  · exact congrArg (· == 1) (Dev.get_set_same _ _ _ (show 1 + 1 ≤ 32 by decide))
  · refine (SMap.getD_filter d.gauge.ctr (fun k => !(decide (d.get R.GAUGE_CLR_A_FIRST ≤ k) &&
      decide (k < d.get R.GAUGE_CLR_A_FIRST + d.get R.GAUGE_CLR_A_NUM))) c (0, false)).trans ?_
    by_cases hin : d.get R.GAUGE_CLR_A_FIRST ≤ c ∧ c < d.get R.GAUGE_CLR_A_FIRST + d.get R.GAUGE_CLR_A_NUM
    · rw [if_pos hin]
      exact if_neg (by simp [hin])
    · rw [if_neg hin]
      exact if_pos (by rw [← Bool.decide_and, decide_eq_false hin]; rfl)

theorem counterClearRequest_go {w : CsrW} {d : Dev} (hg : wOn w R.GAUGE_CLR_B_GO = true) : counterClearRequest w d =
    if d.on R.GAUGE_CLR_B_BUSY then refuseCsr R.GAUGE_CLR_B w d
    else (writeOwn RF.GAUGE_CLR_B R.GAUGE_CLR_B w d).set R.GAUGE_CLR_B_BUSY 1 := by
  rw [counterClearRequest, hg]
  rfl

/-! ### Snapshot sets (R462 to R465) -/

section
variable {k : Nat} {d : Dev}

theorem snapshotCopy_none (h : ∀ x ∈ d.gauge.due, x.set ≠ k) : snapshotCopy k d = d := by
  have hnone : d.gauge.due.find? (fun x => x.set == k) = none := List.find?_eq_none.mpr fun x hx => by simpa using h x hx
  rw [snapshotCopy, hnone]

variable {x : DueSet} (hx : d.gauge.due.find? (fun y => y.set == k) = some x)
include hx

/-- A set waits for late ones, and for late ones of a lower number. -/
theorem snapshotCopy_waits (h : ∃ y ∈ d.gauge.due, y.late = true ∧ (x.late = false ∨ y.set < x.set)) : snapshotCopy k d = d := by
  obtain ⟨y, hy, hlate, hfirst⟩ := h
  rw [snapshotCopy, hx]
  refine if_pos (List.any_eq_true.mpr ⟨y, hy, ?_⟩)
  rw [hlate, Bool.true_and]
  rcases hfirst with h | h <;> simp [h]

/-- The device once the set is taken from those that are due. -/
def dueTaken (x : DueSet) (d : Dev) : Dev :=
  let e : Dev := { d with gauge := { d.gauge with due := d.gauge.due.erase x } }
  if x.late then e.bump R.GAUGE_SNAP_CNT_LATE else e

theorem snapshotCopy_first (h : ∀ y ∈ d.gauge.due, y.late = true → x.late = true ∧ x.set ≤ y.set) : snapshotCopy k d =
    let e := dueTaken x d
    let lost := SMap.getD e.gauge.lost k 0
    if !e.ringOn (dueRing x e) || e.ringFull (dueRing x e) then { e with gauge := { e.gauge with lost := SMap.put e.gauge.lost k (lost + 1) } }
    else
      let g : Dev := { e with gauge := { e.gauge with lost := SMap.del e.gauge.lost k } }
      g.ringPush (dueRing x e) (padTo (snapshotRecord x lost (if x.turn % 2 = 0 then e.gauge.shadow0 else e.gauge.shadow1) g) (dueRing x e).esz) := by
  have hnext : d.gauge.due.any (fun y => y.late && (!x.late || decide (y.set < x.set))) = false := by
    rw [List.any_eq_false]
    intro y hy hbad
    rw [Bool.and_eq_true] at hbad
    obtain ⟨hlate, hbad⟩ := hbad
    obtain ⟨hxlate, hle⟩ := h y hy hlate
    simp [hxlate, Nat.not_lt.mpr hle] at hbad
  rw [snapshotCopy, hx]
  exact if_neg (Bool.eq_false_iff.mp hnext)
end

/-- Settles O55. That a set counts in LOST where its ring is off (log 37) is the model's choice. -/
theorem gauges : Obligations.Gauges := by
  refine ⟨?single, addCtr_pair, ?pair, ?clear, fun d c h => applyClear_leaves d c h, ?none, ?due, ?user, ?below⟩
  case single =>
    intro d c n h
    refine ⟨fun ho => ?_, fun ho hn => ?_, fun ho hn => ?_⟩
    · rw [addCtr_single d c n h, addSat_full d c n ho]; rfl
    · rw [addCtr_single d c n h, addSat_room d c n ho hn]; rfl
    · rw [addCtr_single d c n h, addSat_overflow d c n ho hn, Bool.true_and]; rfl
  case pair => exact fun s r n hrun => ⟨onDev_whenRunning _ s hrun, pairLatch_latchPair r n.val _⟩
  case clear =>
    intro s w hrun hg
    have run {x : Dev} (h : counterClearRequest w s.dev = x) : exec (.counterClearRequest w) s = .next (s.setDev x) :=
      (onDev_whenRunning _ s hrun).trans (next_setDev s h)
    exact ⟨fun hb => run ((counterClearRequest_go hg).trans (if_neg (Bool.eq_false_iff.mp hb))),
      fun hb => run ((counterClearRequest_go hg).trans (if_pos hb))⟩
  case none => exact fun s k h => next_setDev s (Dev.when_same (snapshotCopy_none h))
  case due =>
    intro s k x ha ht hx
    have run {y : Dev} (h : snapshotCopy k.val s.dev = y) : exec (.snapshotSetDue k) s = .next (s.setDev y) :=
      (onDev_whenTurning _ s ha ht).trans (next_setDev s h)
    refine ⟨fun h => next_setDev s (Dev.when_same (snapshotCopy_waits hx h)), fun h => ?_⟩
    intro d e lost
    have hcopy := snapshotCopy_first hx h
    refine ⟨fun hfull => run (hcopy.trans (if_pos ?_)), fun hon hfull => run (hcopy.trans (if_neg ?_))⟩
    · show (!e.ringOn (dueRing x e) || e.ringFull (dueRing x e)) = true
      rcases hfull with h | h <;> simp [h]
    · show ¬ (!e.ringOn (dueRing x e) || e.ringFull (dueRing x e)) = true
      simp [hon, hfull]
  case user =>
    intro s r c hrun off d
    have hoff : off.toNat = 0x800000 + 8 * c.val := by
      have hc := c.isLt
      show (0x800000 + 8 * c.val) % 2 ^ 24 = _
      omega
    have hread := userWindowRead_ctr r c off.toNat hoff s.dev
    have run {x : Dev} (h : userWindowRead r off.toNat s.dev = x) : exec (.userWindowRead r off) s = .next (s.setDev x) :=
      (onDev_whenRunning _ s hrun).trans (next_setDev s h)
    exact ⟨fun hm => run (hread.trans (if_neg (Bool.eq_false_iff.mp hm))), fun hm => run (hread.trans (if_pos hm))⟩
  case below => exact fun s r off hrun h => (onDev_whenRunning _ s hrun).trans (next_setDev s (userWindowRead_below r off.toNat s.dev h))

end Sys2Proof.Machine
end

section
/-! Spares, failed lanes and engines, machine checks (O57): R484, R486 to R489. -/

namespace Sys2Proof.Machine

/-! ### One bit of a field -/

theorem bitAt_eq_testBit (n k : Nat) : bitAt n k = n.testBit k := by
  rw [bitAt, Nat.testBit_eq_decide_div_mod_eq, beq_eq_decide]

/-- A bit of a field is the one-bit field at its place. -/
theorem Dev.bitAt_get (d : Dev) (a lo w k : Nat) (h : k < w) : bitAt (d.get ⟨a, lo, w⟩) k = d.on ⟨a, lo + k, 1⟩ := by
  rw [bitAt_eq_testBit, Dev.get, bitsOf_testBit, decide_eq_true h, Bool.true_and, ← bitAt_eq_testBit]
  rfl

theorem Dev.on_set_same (d : Dev) (a k : Nat) (h : k < 32) : (d.set ⟨a, k, 1⟩ 1).on ⟨a, k, 1⟩ = true := by
  rw [Dev.on, Dev.get_set_same d ⟨a, k, 1⟩ 1 h]
  rfl

theorem Dev.on_set_other (d : Dev) (a j k v : Nat) (hj : j < 32) (h : k ≠ j) : (d.set ⟨a, j, 1⟩ v).on ⟨a, k, 1⟩ = d.on ⟨a, k, 1⟩ := by
  rw [Dev.on, Dev.get_set_apart d ⟨a, j, 1⟩ ⟨a, k, 1⟩ v hj (Nat.lt_or_gt_of_ne h.symm), Dev.on]

/-! ### Copies to spares -/

theorem raise_lasting (q : EventReq) (d : Dev) : (raise q d).ras.lasting = d.ras.lasting := raiseFuel_lasting _ _ _

theorem Ras.copying_of_lasting {r t : Ras} (h : r.lasting = t.lasting) : r.copying = t.copying := (congrArg Ras.copying h :)

theorem Ras.bist_of_lasting {r t : Ras} (h : r.lasting = t.lasting) : r.bist = t.bist := (congrArg Ras.bist h :)

/-- A copy that has ended is no longer under way. -/
theorem copyDone_copying (kind unit : Nat) (d : Dev) : (copyDone kind unit d).ras.copying.contains (kind, unit) = false := by
  have h : (copyDone kind unit d).ras.copying = d.ras.copying.filter (fun c => c != (kind, unit)) :=
    Ras.copying_of_lasting (raise_lasting _ _)
  rw [h]
  simp

/-- What a finished channel copy shows. -/
def channelShown (st ch : Nat) (d : Dev) : Dev :=
  (((d.set (R.TEST_HBM_STAT_COPY st) 0).set (R.TEST_HBM_STAT_PROGRESS st) 255).set (R.TEST_HBM_STAT_FAILCH st) ch).set ⟨R.RES_STATUS, 24 + st, 1⟩ 1

theorem channelSpareDone_copied (st ch : Nat) (d : Dev) (h : d.ras.copying.contains (2, 32 * st + ch) = true) :
    channelSpareDone st ch d = channelShown st ch (copyDone 2 (32 * st + ch) d) := by
  unfold channelSpareDone
  exact if_neg (by rw [h]; decide)

section
variable (st : Fin 8) (ch : Fin 32) (d : Dev)

/-- The register of the stack keeps its fields when the stack counts as spared. -/
theorem channelShown_get {g : Fld} (hg : g.addr = R.TEST_HBM_STAT st.val) : (channelShown st.val ch.val d).get g =
    (((d.set (R.TEST_HBM_STAT_COPY st.val) 0).set (R.TEST_HBM_STAT_PROGRESS st.val) 255).set (R.TEST_HBM_STAT_FAILCH st.val) ch.val).get g :=
  Dev.get_set_ne _ _ _ _ (by rw [hg]; show 0x60010200 + 4 * st.val ≠ 0x22000040; omega)

theorem channelShown_failch : (channelShown st.val ch.val d).get (R.TEST_HBM_STAT_FAILCH st.val) = ch.val :=
  (channelShown_get st ch d rfl).trans ((Dev.get_set_same _ _ _ (show 0 + 5 ≤ 32 by decide)).trans (Nat.mod_eq_of_lt ch.isLt))

theorem channelShown_copy : (channelShown st.val ch.val d).get (R.TEST_HBM_STAT_COPY st.val) = 0 :=
  (channelShown_get st ch d rfl).trans
    ((Dev.get_set_apart _ _ _ _ (show 0 + 5 ≤ 32 by decide) (Or.inl (show 0 + 5 ≤ 5 by decide))).trans
      ((Dev.get_set_apart _ _ _ _ (show 6 + 8 ≤ 32 by decide) (Or.inr (show 5 + 1 ≤ 6 by decide))).trans
        (Dev.get_set_same _ _ _ (show 5 + 1 ≤ 32 by decide))))

theorem channelShown_progress : (channelShown st.val ch.val d).get (R.TEST_HBM_STAT_PROGRESS st.val) = 255 :=
  (channelShown_get st ch d rfl).trans
    ((Dev.get_set_apart _ _ _ _ (show 0 + 5 ≤ 32 by decide) (Or.inl (show 0 + 5 ≤ 6 by decide))).trans
      (Dev.get_set_same _ _ _ (show 6 + 8 ≤ 32 by decide)))

theorem channelShown_ras : (channelShown st.val ch.val d).ras = d.ras :=
  (Dev.set_ras _ _ _).trans ((Dev.set_ras _ _ _).trans ((Dev.set_ras _ _ _).trans (Dev.set_ras _ _ _)))

theorem channelShown_spared : bitAt ((channelShown st.val ch.val d).get R.RES_STATUS_SPARED) st.val = true := by
  have hst := st.isLt
  exact (Dev.bitAt_get _ R.RES_STATUS 24 8 _ hst).trans (Dev.on_set_same _ _ _ (by omega))
end

theorem spares_copies :
    (∀ (s : State) (c : Bool) (b : Fin 2048) (k : Nat), s.dev.running = true →
      (s.dev.ras.copying.contains (b2n c, b.val) = true → exec (.bankSpareDone c b k) s = .next (s.setDev (copyDone (b2n c) b.val s.dev))) ∧
      (s.dev.ras.copying.contains (b2n c, b.val) = false → exec (.bankSpareDone c b k) s = .next s)) ∧
    (∀ (s : State) (st : Fin 8) (ch : Fin 32), s.dev.running = true → s.dev.ras.copying.contains (2, 32 * st.val + ch.val) = false →
      exec (.channelSpareDone st ch) s = .next s) := by
  refine ⟨fun s c b k hrun => ⟨fun h => ?_, fun h => ?_⟩, fun s st ch hrun h => ?_⟩
  · exact (onDev_whenRunning _ s hrun).trans (next_setDev s (if_pos h))
  · exact (onDev_whenRunning _ s hrun).trans (next_setDev s (if_neg (Bool.eq_false_iff.mp h)))
  · refine (onDev_whenRunning _ s hrun).trans (next_setDev s ?_)
    unfold channelSpareDone
    exact if_pos (by rw [h]; rfl)

/-! ### Basin lanes, flume engines and cores -/

/-- An index cut to the length of a list that is not empty picks a member. -/
theorem getD_mod_mem (l : List Nat) (n : Nat) (h : l ≠ []) : l.getD (n % l.length) 0 ∈ l := by
  have hlt : n % l.length < l.length := Nat.mod_lt _ (List.length_pos_of_ne_nil h)
  rw [List.getD_eq_getElem _ _ hlt]
  exact List.getElem_mem hlt

/-- The failure of the physical lane of a logical one is noted. -/
def laneFailed (p : Nat) (d : Dev) : Dev := { d with ras := { d.ras with failed := d.ras.failed ++ [(7, p)] } }

theorem replaceLane_none (l : Nat) (d : Dev) (h : spareLanes d = []) :
    let p := d.get (basinMapFld l)
    replaceLane l d = raiseFatal blkTest 5 (testUnit 7 p)
      ({ laneFailed p d with ras := { (laneFailed p d).ras with basinOut := d.ras.basinOut ++ [l] } }.set (basinMapFld l) 0x1FF) := by
  unfold replaceLane
  rw [h]
  rfl

theorem replaceLane_spare (l : Nat) (d : Dev) (h : spareLanes d ≠ []) :
    let p := d.get (basinMapFld l)
    ∃ x ∈ spareLanes d, replaceLane l d = raiseCE blkTest 4 (testUnit 7 p)
      (((laneFailed p d).draw.2.set (basinMapFld l) x).set R.TEST_SPARE_STAT_BASINSP ((spareLanes d).length - 1)) := by
  intro p
  refine ⟨(spareLanes d).getD ((laneFailed p d).draw.1.toNat % (spareLanes d).length) 0, getD_mod_mem _ _ h, ?_⟩
  obtain ⟨x, xs, hsp⟩ := List.exists_cons_of_ne_nil h
  unfold replaceLane
  rw [hsp]
  rfl

/-- The open contexts whose lane is l. -/
def openOn (l : Nat) (d : Dev) : List (Nat × Ctx) :=
  d.basin.ctx.filter (fun x => x.2.st == .opened && laneOf x.2.gidx.val x.2.chunk.toNat d == l)

/-- What BASIN_LANE_FAULT does to a context. -/
def laneAborts (x : Nat × Ctx) (d : Dev) : Dev := endCtx x.1 x.2 .aborted 3 (d.bump (R.BASIN_CNT_COUNT 4))

theorem basinLaneFault_in (l : Nat) (d : Dev) (h : d.ras.basinOut.contains l = false) : basinLaneFault l d =
    replaceLane l (if (openOn l d).isEmpty then Dev.each (openOn l d) laneAborts d
      else raiseDE blkTest 7 l (Dev.each (openOn l d) laneAborts d)) := if_neg (Bool.eq_false_iff.mp h)

theorem basinLaneFault_idle (l : Nat) (d : Dev) (h : d.ras.basinOut.contains l = false) (hnone : openOn l d = []) :
    basinLaneFault l d = replaceLane l d := by
  rw [basinLaneFault_in l d h, hnone]
  rfl

theorem basinLaneFault_busy (l : Nat) (d : Dev) (h : d.ras.basinOut.contains l = false) (hsome : openOn l d ≠ []) :
    basinLaneFault l d = replaceLane l (raiseDE blkTest 7 l (Dev.each (openOn l d) laneAborts d)) := by
  rw [basinLaneFault_in l d h, if_neg (by simpa using hsome)]

theorem coreMachineCheck_failed (c : Fin 18) (d : Dev) (h : bitAt (d.get R.TEST_CORE_STAT_FAILED) c.val = true) :
    coreMachineCheck c.val d = d := by
  have hbit : d.on ⟨R.TEST_CORE_STAT, 0 + c.val, 1⟩ = true := (Dev.bitAt_get d R.TEST_CORE_STAT 0 18 c.val c.isLt).symm.trans h
  rw [Nat.zero_add] at hbit
  exact if_pos hbit

/-- The bit of one core stands for no other. -/
theorem coreMachineCheck_marks (c : Fin 18) (d : Dev) (h : bitAt (d.get R.TEST_CORE_STAT_FAILED) c.val = false) :
    bitAt ((coreMachineCheck c.val d).get R.TEST_CORE_STAT_FAILED) c.val = true ∧
    ∀ k : Fin 18, k ≠ c → bitAt ((coreMachineCheck c.val d).get R.TEST_CORE_STAT_FAILED) k.val = bitAt (d.get R.TEST_CORE_STAT_FAILED) k.val := by
  have hbit (k : Fin 18) (e : Dev) : bitAt (e.get R.TEST_CORE_STAT_FAILED) k.val = e.on ⟨R.TEST_CORE_STAT, k.val, 1⟩ := by
    refine (Dev.bitAt_get e R.TEST_CORE_STAT 0 18 k.val k.isLt).trans ?_
    rw [Nat.zero_add]
  have hc : c.val < 32 := lt_trans c.isLt (by decide)
  have hdef : coreMachineCheck c.val d = (raiseFatal blkTest 8 c.val d).set ⟨R.TEST_CORE_STAT, c.val, 1⟩ 1 :=
    if_neg (Bool.eq_false_iff.mp ((hbit c d).symm.trans h))
  have hquiet (k : Fin 18) : (raiseFatal blkTest 8 c.val d).on ⟨R.TEST_CORE_STAT, k.val, 1⟩ = d.on ⟨R.TEST_CORE_STAT, k.val, 1⟩ :=
    (raiseFatal_quiet _ _ _ _ _ _).on _ (not_isEvtReg_of_lt (show R.GLB_EVT_CNT < 0x60010500 by decide))
  rw [hdef]
  refine ⟨(hbit c _).trans (Dev.on_set_same _ _ _ hc), fun k hk => ?_⟩
  rw [hbit, hbit, Dev.on_set_other _ _ _ _ _ hc (fun h => hk (Fin.ext h)), hquiet]

end Sys2Proof.Machine
end

section
/-! Self-tests that start (O57): R493. The write of TEST_BIST_CTL leaves alone what the rules of each target read. -/

namespace Sys2Proof.Machine

/-! ### The write of TEST_BIST_CTL -/

/-- TEST_BIST_CTL has taken a write, and GO reads 0. -/
def bistTaken (w : CsrW) (d : Dev) : Dev := (writeOwn RF.TEST_BIST_CTL R.TEST_BIST_CTL w d).set R.TEST_BIST_CTL_GO 0

theorem bistTaken_writes (w : CsrW) (d : Dev) : Dev.Writes R.TEST_BIST_CTL d (bistTaken w d) :=
  (writeOwn_writes _ _ w d).trans ⟨rfl, fun _ hb _ => Dev.rd_set_ne _ _ _ _ hb⟩

theorem bistTaken_bist (w : CsrW) (d : Dev) : (bistTaken w d).ras.bist = d.ras.bist := Ras.bist_of_lasting (writeOwn_lasting _ _ w d)

/-- Target t has begun on unit n. -/
def bistBegun (t n : Nat) (r : Option Nat × Dev) : Dev :=
  ({ r.2 with ras := { r.2.ras with bist := some (t, n, r.1) } }.set R.TEST_BIST_CTL_RESULT 0).set R.TEST_BIST_CTL_BUSY 1

theorem bistBegun_shows (t n : Nat) (r : Option Nat × Dev) :
    (bistBegun t n r).on R.TEST_BIST_CTL_BUSY = true ∧ (bistBegun t n r).get R.TEST_BIST_CTL_RESULT = 0 ∧
      ∃ e : Option Nat, (bistBegun t n r).ras.bist = some (t, n, e) :=
  ⟨Dev.on_set_same _ R.TEST_BIST_CTL 17 (by decide),
    (Dev.get_set_apart _ _ _ _ (show 17 + 1 ≤ 32 by decide) (Or.inl (show 17 + 1 ≤ 18 by decide))).trans
      (Dev.get_set_same _ _ _ (show 18 + 2 ≤ 32 by decide)), r.1, rfl⟩

section
variable {t n : Nat} {ok : Dev → Bool} {begin_ : Dev → Option Nat × Dev} {w : CsrW} {d : Dev}
variable (hgo : wOn w R.TEST_BIST_CTL_GO = true) (hbusy : d.on R.TEST_BIST_CTL_BUSY = false)
  (ht : wBits w R.TEST_BIST_CTL_TARGET = t) (hn : wBits w R.TEST_BIST_CTL_INDEX = n)
include hgo hbusy ht hn

theorem bistWrite_eq : bistWrite t n ok begin_ w d =
    if !ok (bistTaken w d) then (bistTaken w d).set R.TEST_BIST_CTL_RESULT 3 else bistBegun t n (begin_ (bistTaken w d)) := by
  have hidle : ¬ (d.on R.TEST_BIST_CTL_BUSY && wOn w R.TEST_BIST_CTL_GO) = true := by
    rw [hbusy, Bool.false_and]
    exact Bool.false_ne_true
  have hnamed : ¬ (!wOn w R.TEST_BIST_CTL_GO || wBits w R.TEST_BIST_CTL_TARGET != t || wBits w R.TEST_BIST_CTL_INDEX != n) = true := by
    simp [hgo, ht, hn]
  exact (if_neg hidle).trans (if_neg hnamed)

theorem bistWrite_starts (hok : ok (bistTaken w d) = true) :
    bistWrite t n ok begin_ w d = bistBegun t n (begin_ (bistTaken w d)) :=
  (bistWrite_eq hgo hbusy ht hn).trans (if_neg (by rw [hok]; decide))

theorem bistWrite_refused (hok : ok (bistTaken w d) = false) :
    bistWrite t n ok begin_ w d = (bistTaken w d).set R.TEST_BIST_CTL_RESULT 3 :=
  (bistWrite_eq hgo hbusy ht hn).trans (if_pos (by rw [hok]; rfl))
end

/-! ### What the rules of the targets read -/

section
variable {d e : Dev} (h : Dev.Writes R.TEST_BIST_CTL d e)
include h

theorem Dev.Writes.dieState (k : Nat) : e.dieState k = d.dieState k :=
  h.get ⟨R.GLB_DIE_STATUS, 2 * k, 2⟩ (show R.GLB_DIE_STATUS ≠ R.TEST_BIST_CTL by decide)
    (show ¬ isEvtReg R.GLB_DIE_STATUS by unfold isEvtReg; decide)

theorem Dev.Writes.portOf (l : Nat) : e.portOf l = d.portOf l := by
  have hgroup (x : Nat) : e.startBits x = d.startBits x := by
    refine h.get _ ?_ (not_isEvtReg_of_lt (lt_of_lt_of_le (by decide) (lgrpCfg_ge x)))
    show R.PORT_LGRP_CFG x ≠ R.TEST_BIST_CTL
    unfold R.PORT_LGRP_CFG R.TEST_BIST_CTL; omega
  unfold Dev.portOf
  rw [hgroup]

theorem Dev.Writes.factoryTest : factoryTest e = factoryTest d := by
  have hstage : e.get R.SEC_BOOT_STATUS_STAGE = d.get R.SEC_BOOT_STATUS_STAGE :=
    h.get _ (show R.SEC_BOOT_STATUS ≠ R.TEST_BIST_CTL by decide) (show ¬ isEvtReg R.SEC_BOOT_STATUS by unfold isEvtReg; decide)
  have hlc : lcOf e = lcOf d :=
    h.get _ (show R.GLB_LC ≠ R.TEST_BIST_CTL by decide) (show ¬ isEvtReg R.GLB_LC by unfold isEvtReg; decide)
  unfold Sys2Proof.Machine.factoryTest Dev.factory Dev.running allTests
  rw [hstage, hlc, h.power]

theorem Dev.Writes.basinMap (l : Nat) : e.get (basinMapFld l) = d.get (basinMapFld l) := by
  have hge : 0x60011200 ≤ R.TEST_BASIN_MAP (l / 2) := Nat.le_add_right _ _
  exact h.get _ (Nat.ne_of_gt (lt_of_lt_of_le (by decide) hge)) (not_isEvtReg_of_lt (lt_of_lt_of_le (by decide) hge))

/-- A lane that is free for test stays so. -/
theorem Dev.Writes.serdesFree (l : PhysLane) : serdesFree l.val e = serdesFree l.val d := by
  have hl := l.isLt
  have hfail : e.rd (R.TEST_LANE_FAIL (8 * (l.val / 144) + l.val % 144 / 18)) = d.rd (R.TEST_LANE_FAIL (8 * (l.val / 144) + l.val % 144 / 18)) :=
    h.rd _ (by unfold R.TEST_LANE_FAIL R.TEST_BIST_CTL; omega)
      (not_isEvtReg_of_lt (lt_of_lt_of_le (b := 0x60010100) (by decide) (Nat.le_add_right _ _)))
  have hshift (x : Nat) : e.rd (shiftReg x) = d.rd (shiftReg x) :=
    h.rd _ (by unfold shiftReg R.PORT_LANE_SHIFT R.TEST_BIST_CTL; omega) (not_isEvtReg_of_lt (lt_of_lt_of_le (by decide) (laneShift_ge x)))
  have hadmin (p : Nat) : e.on (R.PORT_PCTL_ADMIN p) = d.on (R.PORT_PCTL_ADMIN p) := by
    refine h.on _ ?_ (not_isEvtReg_of_lt ?_)
    · show R.PORT_PCTL p ≠ R.TEST_BIST_CTL
      unfold R.PORT_PCTL R.TEST_BIST_CTL; omega
    · show R.GLB_EVT_CNT < R.PORT_PCTL p
      unfold R.PORT_PCTL R.GLB_EVT_CNT; omega
  unfold Sys2Proof.Machine.serdesFree slotOfLane posFailed Dev.portDieFitted
  simp only [hfail, hshift, hadmin, h.dieState, h.portOf]
end

end Sys2Proof.Machine
end

section
/-! Self-tests that end (O57): R493. No consequence of a test's result starts another test: ports that go down, lanes that are steered and units
that leave service keep the record of the test under way. -/

namespace Sys2Proof.Machine

/-! ### Events -/

theorem Dev.bump_ras (d : Dev) (f : Fld) (n : Nat) : (d.bump f n).ras = d.ras := rfl

theorem Dev.modLink_ras (p : Nat) (f : Link → Link) (d : Dev) : (d.modLink p f).ras = d.ras := rfl

theorem raise_bist (q : EventReq) (d : Dev) : (raise q d).ras.bist = d.ras.bist := Ras.bist_of_lasting (raise_lasting q d)

theorem raiseCE_bist (blk code unit : Nat) (d : Dev) (a b : Nat) : (raiseCE blk code unit d a b).ras.bist = d.ras.bist := raise_bist _ _

theorem raiseFatal_bist (blk code unit : Nat) (d : Dev) (a b : Nat) : (raiseFatal blk code unit d a b).ras.bist = d.ras.bist := raise_bist _ _

theorem countEvent_bist (e : CtrEvent) (d : Dev) : (countEvent e d).ras.bist = d.ras.bist := by
  have hover := Dev.each_kept (fun d => d.ras.bist) (addCtrs ((d.countersFor e).map (fun c => (c, e.inc))) d).2
    (fun c d => raiseCE blkGauge 2 c d) (fun _ _ => raiseCE_bist _ _ _ _ _ _) (addCtrs ((d.countersFor e).map (fun c => (c, e.inc))) d).1
  exact hover.trans (congrArg Ras.bist (addCtrs_ras _ d))

/-! ### Cells, credits and pauses -/

theorem sendPfc_ras (p tc n : Nat) (d : Dev) : (sendPfc p tc n d).ras = d.ras :=
  Dev.each_kept Dev.ras (pfcPriorities d p tc) (fun k d => d.emit (.pfc (Fin.ofNat 1024 p) (Fin.ofNat 8 k) (BitVec.ofNat 16 n)))
    (fun _ _ => rfl) d

theorem xoffUpdate_ras (p tc : Nat) (d : Dev) : (xoffUpdate p tc d).ras = d.ras := by
  unfold xoffUpdate; dsimp only
  split
  · rfl
  · split
    · split
      · exact sendPfc_ras _ _ _ _
      · rfl
    · split
      · exact sendPfc_ras _ _ _ _
      · rfl

theorem gxUpdate_ras (d : Dev) : (gxUpdate d).ras = d.ras := by
  unfold gxUpdate; dsimp only
  split
  · rfl
  · exact Dev.each_kept Dev.ras _ _ (fun p => Dev.each_kept Dev.ras _ _ (fun tc => xoffUpdate_ras p tc)) _

theorem sequencePair_ras (p : Nat) (vc : BitVec 4) (n : BitVec 10) (fl : List Byte) (ps : List Pkt) (d : Dev) :
    (sequencePair p vc n fl ps d).ras = d.ras := by
  have hsend (bs : List Byte) (e : Dev) : (sendPair p bs e).ras = e.ras := by unfold sendPair; dsimp only; split <;> rfl
  exact hsend _ _

theorem returnCredits_ras (p : Nat) (vc : BitVec 4) (n : Nat) (d : Dev) : (returnCredits p vc n d).ras = d.ras := by
  unfold returnCredits
  split
  · rfl
  · exact Dev.each_kept Dev.ras _ _ (fun _ => sequencePair_ras _ _ _ _ _) _

theorem leaveIngress_ras (x : Pkt) (n : Nat) (d : Dev) : (leaveIngress x n d).2.ras = d.ras := by
  have hroom (c : Cistern) : (if x.headroom then { d with cist := c } else d).ras = d.ras := by split <;> rfl
  cases hi : x.inPort with
  | none =>
    simp only [leaveIngress, hi]
    exact hroom _
  | some i =>
    simp only [leaveIngress, hi]
    split
    · cases x.creditsDue with
      | none => exact (xoffUpdate_ras _ _ _).trans (hroom _)
      | some c => exact (returnCredits_ras _ _ _ _).trans ((xoffUpdate_ras _ _ _).trans (hroom _))
    · exact (xoffUpdate_ras _ _ _).trans (hroom _)

theorem discharge_ras (x : Pkt) (d : Dev) : (discharge x d).ras = d.ras := by
  have huse : (subUse x x.cells d).ras = d.ras := by
    unfold subUse; dsimp only
    cases x.acct <;> cases x.job <;> rfl
  exact (leaveIngress_ras _ _ _).trans huse

theorem freeCells_ras (n : Nat) (hd : Bool) (d : Dev) : (freeCells n hd d).ras = d.ras := rfl

theorem pathLost_bist (x : Pkt) (d : Dev) : (pathLost x d).ras.bist = d.ras.bist := by
  unfold pathLost; dsimp only
  split
  · rfl
  · split
    · exact raiseCE_bist _ _ _ _ _ _
    · rfl

theorem discardRetry_bist (p : Nat) (d : Dev) : (discardRetry p d).ras.bist = d.ras.bist := by
  have hfree (x : Pkt) (d : Dev) : (gxUpdate (freeCells x.cells x.headroom (discharge x d))).ras.bist = d.ras.bist :=
    congrArg Ras.bist ((gxUpdate_ras _).trans (discharge_ras x d))
  have hlost (x : Pkt) (d : Dev) : (pathLost x (countEvent ⟨3, 1, x.inLabel, some x.dst, 9, 0⟩ d)).ras.bist = d.ras.bist :=
    (pathLost_bist _ _).trans (countEvent_bist _ _)
  unfold discardRetry
  extract_lets l held e1 e2
  have h2 : e2.ras.bist = d.ras.bist := Dev.each_kept (fun d => d.ras.bist) held _ hfree d
  exact (Dev.each_kept (fun d => d.ras.bist) _ _ hlost e2).trans h2

/-! ### Routes of the haul block -/

theorem setState_ras (k v : Nat) (d : Dev) : (setState k v d).ras = d.ras := by
  have hshow (e : Dev) : (showRtt k e).ras = e.ras := by unfold showRtt; dsimp only; split <;> rfl
  unfold setState; dsimp only
  refine (hshow _).trans ?_
  split <;> rfl

theorem failover_bist (k : Nat) (r : Fin 2) (d : Dev) : (failover k r d).ras.bist = d.ras.bist := by
  unfold failover
  extract_lets dest e1 e2
  have h1 : e1.ras = d.ras := rfl
  have h2 : e2.ras = d.ras := (Dev.set_ras _ _ _).trans h1
  clear_value e2
  split
  · exact (raiseCE_bist _ _ _ _ _ _).trans (congrArg Ras.bist ((Dev.bump_ras _ _ _).trans ((setState_ras _ _ e2).trans h2)))
  · exact (raiseCE_bist _ _ _ _ _ _).trans (congrArg Ras.bist ((setState_ras _ _ e2).trans h2))

theorem finalise_ras (k : Nat) (r : Fin 2) (d : Dev) : (finalise k r d).ras = d.ras := by
  unfold finalise
  split
  · rfl
  · extract_lets top lost e1 mark
    have h1 : e1.ras = d.ras := by unfold e1; split <;> rfl
    exact h1

theorem updateRoute_bist (k : Nat) (r : Fin 2) (cause : Nat) (d : Dev) : (updateRoute k r cause d).ras.bist = d.ras.bist := by
  unfold updateRoute
  extract_lets was now e1 e2 e3
  have h3 : e3.ras = d.ras := finalise_ras k r (e1.set (R.HAUL_LINK_STAT_CAUSE k) cause)
  split
  · rfl
  · split
    · split
      · exact congrArg Ras.bist (setState_ras k _ e2)
      · rfl
    · split
      · exact (failover_bist k r e3).trans (congrArg Ras.bist h3)
      · exact congrArg Ras.bist h3

theorem haulPortChange_bist (p cause : Nat) (d : Dev) : (haulPortChange p cause d).ras.bist = d.ras.bist :=
  Dev.each_kept (fun d => d.ras.bist) (routesOn d p) (fun x => updateRoute x.1 x.2 cause) (fun x d => updateRoute_bist x.1 x.2 cause d) d

/-! ### Ports that go down and train again -/

theorem takeDown_bist (p : Nat) (d : Dev) : (takeDown p d).ras.bist = d.ras.bist := by
  unfold takeDown
  split
  · unfold linkDown
    extract_lets e1 e2 haul e3
    have h2 : e2.ras.bist = d.ras.bist := discardRetry_bist p (loseInput p e1)
    exact (haulPortChange_bist p 1 e3).trans h2
  · rfl

theorem showStage_ras (p v : Nat) (d : Dev) : (showStage p v d).ras = d.ras := rfl

theorem latchPeer_ras (p : Nat) (d : Dev) : (latchPeer p d).ras = d.ras := rfl

theorem startTraining_ras (p : Nat) (d : Dev) : (startTraining p d).ras = d.ras := by
  have hhost (e : Dev) : (hostSettings p e).ras = e.ras := by unfold hostSettings; split <;> rfl
  unfold startTraining
  split
  · extract_lets e1 e2
    have h1 : e1.ras = d.ras := (Dev.set_ras _ _ _).trans ((Dev.set_ras _ _ _).trans (Dev.set_ras _ _ _))
    clear_value e1
    have h2 : e2.ras = e1.ras := (hhost _).trans ((latchPeer_ras p _).trans (Dev.bump_ras _ _ _))
    clear_value e2
    exact (showStage_ras p 1 _).trans ((Dev.modLink_ras p _ _).trans (h2.trans h1))
  · exact showStage_ras p _ d

theorem retrain_bist (p : Nat) (d : Dev) : (retrain p d).ras.bist = d.ras.bist :=
  (congrArg Ras.bist (startTraining_ras p _)).trans (takeDown_bist p d)

theorem holdLanes_bist (ls : List Nat) (d : Dev) : (holdLanes ls d).ras.bist = d.ras.bist := by
  refine Dev.each_kept (fun d => d.ras.bist) ls _ (fun l d => ?_) d
  extract_lets _ e
  have he : e.ras.bist = d.ras.bist := raiseFatal_bist _ _ _ _ _ _
  split
  · exact (retrain_bist _ e).trans he
  · exact he

theorem moveLanes_bist (x old new : Nat) (d : Dev) : (moveLanes x old new d).ras.bist = d.ras.bist :=
  Dev.each_kept (fun d => d.ras.bist) _ _ retrain_bist d

theorem autoSteer_bist (x : Nat) (d : Dev) : (autoSteer x d).ras.bist = d.ras.bist := by
  unfold autoSteer
  split
  · split
    · rfl
    · exact holdLanes_bist _ d
  · extract_lets r old new held fresh _ _ e
    exact (moveLanes_bist x old new _).trans (holdLanes_bist fresh e)

theorem lanePositionFail_bist (l : Nat) (d : Dev) : (lanePositionFail l d).ras.bist = d.ras.bist := by
  unfold lanePositionFail
  extract_lets x k e
  have he : e.ras.bist = d.ras.bist := raiseCE_bist _ _ _ _ _ _
  split
  · rfl
  · split
    · exact (autoSteer_bist x e).trans he
    · exact he

/-! ### Ends of the tests -/

theorem engineBack_bist (u : Nat) (x : Option Nat) (d : Dev) : (engineBack u x d).ras.bist = d.ras.bist := by
  unfold engineBack
  extract_lets m _ e
  have he : e.ras = d.ras := by
    unfold e
    cases x with
    | none => rfl
    | some x => dsimp only; split <;> rfl
  exact congrArg Ras.bist he

theorem loseFlume_bist (n : Nat) (d : Dev) : (loseFlume n d).ras.bist = d.ras.bist := raiseFatal_bist _ _ _ _ _ _

/-- What a test leaves once it has ended starts no other. -/
theorem bistEnds_bist (t n : Nat) (x : Option Nat) (pass : Bool) (d : Dev) : (bistEnds t n x pass d).ras.bist = d.ras.bist := by
  have hevent (c : Prop) [Decidable c] (kind : Nat) (e : Dev) :
      (if c then raiseFatal blkTest 5 (testUnit kind n) e else raiseCE blkTest 4 (testUnit kind n) e).ras.bist = e.ras.bist := by
    split
    · exact raiseFatal_bist _ _ _ _ _ _
    · exact raiseCE_bist _ _ _ _ _ _
  unfold bistEnds
  split
  · split
    · rfl
    · exact lanePositionFail_bist n d
  · split
    · exact engineBack_bist n x d
    · extract_lets _ e gone e'
      exact (congrArg Ras.bist (Dev.set_ras e' _ _)).trans (hevent _ 6 e)
  · split
    · rfl
    · split
      · exact congrArg Ras.bist (Dev.bump_ras d _ _)
      · exact loseFlume_bist n d
  · split
    · rfl
    · extract_lets _ e k
      exact (congrArg Ras.bist (Dev.set_ras _ _ _)).trans (hevent _ 7 e)
  · split
    · rfl
    · exact congrArg Ras.bist (Dev.set_ras d _ _)
  · rfl
  · split <;> rfl
  · rfl

theorem bistComplete_idle (pass : Bool) (d : Dev) (h : d.ras.bist = none) : bistComplete pass d = d := by
  unfold bistComplete
  rw [h]

/-- A test that ends shows its result, and none is under way. -/
theorem bistComplete_shows (pass : Bool) (d : Dev) (h : d.ras.bist ≠ none) :
    (bistComplete pass d).get R.TEST_BIST_CTL_RESULT = (if pass then 1 else 2) ∧
    (bistComplete pass d).on R.TEST_BIST_CTL_BUSY = false ∧ (bistComplete pass d).ras.bist = none := by
  obtain ⟨⟨t, n, x⟩, hb⟩ := Option.ne_none_iff_exists'.mp h
  unfold bistComplete
  rw [hb]
  dsimp only
  have hnone := bistEnds_bist t n x pass { d with ras := { d.ras with bist := none } }
  generalize bistEnds t n x pass { d with ras := { d.ras with bist := none } } = e at hnone
  refine ⟨?_, ?_, (congrArg Ras.bist ((Dev.set_ras _ _ _).trans (Dev.set_ras _ _ _))).trans hnone⟩
  · refine (Dev.get_set_apart _ _ _ _ (show 17 + 1 ≤ 32 by decide) (Or.inl (show 17 + 1 ≤ 18 by decide))).trans
      ((Dev.get_set_same _ _ _ (show 18 + 2 ≤ 32 by decide)).trans ?_)
    cases pass <;> rfl
  · exact congrArg (· == 1) (Dev.get_set_same _ _ 0 (show 17 + 1 ≤ 32 by decide))

end Sys2Proof.Machine
end

section
/-! Spares, failed units and self-tests (O57): R484, R486 to R489, R493. -/

namespace Sys2Proof.Machine

/-! ### The commands that start a test -/

section
variable {t n : Nat} {ok : Dev → Bool} {begin_ : Dev → Option Nat × Dev} {w : CsrW} {s : State}
variable (hrun : s.dev.running = true) (hgo : wOn w R.TEST_BIST_CTL_GO = true) (hbusy : s.dev.on R.TEST_BIST_CTL_BUSY = false)
  (ht : wBits w R.TEST_BIST_CTL_TARGET = t) (hn : wBits w R.TEST_BIST_CTL_INDEX = n)
include hrun hgo hbusy ht hn

theorem onDev_bistWrite_starts (hok : ok (bistTaken w s.dev) = true) :
    ∃ u : State, onDev (Dev.whenRunning (bistWrite t n ok begin_ w)) s = .next u ∧
      u.dev.on R.TEST_BIST_CTL_BUSY = true ∧ u.dev.get R.TEST_BIST_CTL_RESULT = 0 ∧ ∃ e : Option Nat, u.dev.ras.bist = some (t, n, e) :=
  ⟨_, (onDev_whenRunning _ s hrun).trans (next_setDev s (bistWrite_starts hgo hbusy ht hn hok)), bistBegun_shows _ _ _⟩

theorem onDev_bistWrite_refused (hok : ok (bistTaken w s.dev) = false) :
    ∃ u : State, onDev (Dev.whenRunning (bistWrite t n ok begin_ w)) s = .next u ∧
      u.dev.get R.TEST_BIST_CTL_RESULT = 3 ∧ u.dev.ras.bist = s.dev.ras.bist :=
  ⟨_, (onDev_whenRunning _ s hrun).trans (next_setDev s (bistWrite_refused hgo hbusy ht hn hok)),
    Dev.get_set_same _ _ 3 (show 18 + 2 ≤ 32 by decide), (congrArg Ras.bist (Dev.set_ras _ _ _)).trans (bistTaken_bist w s.dev)⟩
end

/-- The rule of target 3: no logical lane is mapped to the tested one. -/
theorem basinLaneFree {w : CsrW} {d : Dev} {l : Nat} (h : ∀ k : Fin 256, d.get (basinMapFld k.val) ≠ l) :
    (!(List.range 256).any (fun k => (bistTaken w d).get (basinMapFld k) == l)) = true := by
  rw [Bool.not_eq_true', List.any_eq_false]
  intro k hk
  rw [(bistTaken_writes w d).basinMap k, beq_iff_eq]
  exact h ⟨k, List.mem_range.mp hk⟩

/-- Settles O57. -/
theorem spares : Obligations.Spares := by
  refine ⟨spares_copies.1, fun s st ch hrun => ⟨fun h => ?_, spares_copies.2 s st ch hrun⟩,
    fun s l hap => ⟨fun h => onDev_whenApplied_same _ s (if_pos h), fun h => ⟨fun hnone => ?_, fun hsome => ?_⟩⟩,
    fun l d => ⟨replaceLane_none l d, replaceLane_spare l d⟩,
    fun s e hap => ⟨fun h => ?_, fun h => onDev_whenApplied_same _ s (if_pos h)⟩,
    fun s c hap => ⟨fun h => onDev_whenApplied_same _ s (coreMachineCheck_failed c s.dev h), fun h => ?_⟩,
    fun s w hrun hgo hbusy => ?_, fun s pass hrun => ⟨fun h => ?_, fun h => ?_⟩⟩
  case refine_1 =>
    have hcopied := next_setDev s (channelSpareDone_copied st.val ch.val s.dev h)
    have hended := copyDone_copying 2 (32 * st.val + ch.val) s.dev
    generalize copyDone 2 (32 * st.val + ch.val) s.dev = e at hcopied hended
    have hshown : (channelShown st.val ch.val e).ras.copying.contains (2, 32 * st.val + ch.val) = false := by
      rw [channelShown_ras]
      exact hended
    exact ⟨s.setDev (channelShown st.val ch.val e), (onDev_whenRunning _ s hrun).trans hcopied,
      channelShown_failch st ch e, channelShown_copy st ch e, channelShown_progress st ch e, channelShown_spared st ch e, hshown⟩
  case refine_2 => exact (onDev_whenApplied _ s hap).trans (next_setDev s (basinLaneFault_idle l.val s.dev h hnone))
  case refine_3 => exact (onDev_whenApplied _ s hap).trans (next_setDev s (basinLaneFault_busy l.val s.dev h hsome))
  case refine_4 => exact (onDev_whenApplied _ s hap).trans (next_setDev s (if_neg (Bool.eq_false_iff.mp h)))
  case refine_5 => exact ⟨_, onDev_whenApplied _ s hap, coreMachineCheck_marks c s.dev h⟩
  case refine_6 =>
    have hw := bistTaken_writes w s.dev
    intro begun
    refine ⟨fun l hfree ht hn => ?_, fun e hfit ht hn => ?_, fun e ht hn => ?_, fun l hfree ht hn => ?_,
      fun hf => ⟨fun n ht hn => ?_, fun n ht hn => ?_, fun n ht hn => ?_, fun n ht hn => ?_⟩, fun hf n ht hn => ?_⟩
    · exact onDev_bistWrite_starts hrun hgo hbusy ht hn ((hw.serdesFree l).trans hfree)
    · exact onDev_bistWrite_starts hrun hgo hbusy ht hn ((congrArg (· != 0) (hw.dieState _)).trans hfit)
    · exact onDev_bistWrite_starts hrun hgo hbusy ht hn rfl
    · exact onDev_bistWrite_starts hrun hgo hbusy ht hn (basinLaneFree hfree)
    · exact onDev_bistWrite_starts hrun hgo hbusy ht hn (hw.factoryTest.trans hf)
    · exact onDev_bistWrite_starts hrun hgo hbusy ht hn (hw.factoryTest.trans hf)
    · exact onDev_bistWrite_starts hrun hgo hbusy ht hn (hw.factoryTest.trans hf)
    · exact onDev_bistWrite_starts hrun hgo hbusy ht hn (hw.factoryTest.trans hf)
    · exact onDev_bistWrite_refused hrun hgo hbusy ht hn (hw.factoryTest.trans hf)
  case refine_7 => exact (onDev_whenRunning _ s hrun).trans (next_setDev s (bistComplete_idle pass s.dev h))
  case refine_8 => exact ⟨_, onDev_whenRunning _ s hrun, bistComplete_shows pass s.dev h⟩

end Sys2Proof.Machine
end
